-- ==== Sys2Proof/Word.lean ====
section
/-! DEFINITION. The word types of the MTH-CX64-10: the 64-bit register and command word (00_scope.md R4,
02_control_space.md R18) and the byte. -/

namespace Sys2Proof

/-- A control-space register, a command word or a record word (02 R18: every register is 64 bits wide). -/
abbrev Word := BitVec 64

/-- One byte; byte 0 is the byte at the lowest address (00 R3). -/
abbrev Byte := BitVec 8

/-- A 32-bit token ID, draft ID or half word. -/
abbrev Half := BitVec 32

end Sys2Proof
end

