-- ==== Sys2Proof/Config.lean ====
section
/-! DEFINITION. What an implementation or a module fixes and the spec leaves open: free values. Each is an opaque constant
without a body, so that nothing in Lean can prove a value of it and every claim holds for every value. The assumption log
names each one. -/

namespace Sys2Proof

/-- A free word, byte and bit, read at the counter `State.freeCtr` (notes/assumptions/6.md). -/
opaque Config.freeWord : Nat → Word
opaque Config.freeBit : Nat → Bool

/-- The device root secret (20 R426, Table 20-2), from which the keys of pages and prefixes are derived. -/
opaque Config.rootSecret : BitVec 256

/-- The SAS addresses of a prefix node's page list and token list (04 Table 04-1, N4 and N5, "assigned"), by node ID. -/
opaque Config.nodePagesAt : Nat → Word
opaque Config.nodeToksAt : Nat → Word

/-- The flash die that holds a Tier F frame: "not visible in the SAS" (05 R87). -/
opaque Config.dieOfFrame : Nat → BitVec 8

/-- The fraction of exp2 of an FP32 number that is no integer: 07 R151 says between which powers of two it lies, and states no accuracy. -/
opaque Config.exp2Frac : Half → BitVec 23

/-- The `DTAG` that a Combine instruction names, if it names one, by its operation and its two offsets: 09 R214 says that an
instruction waits for the `DTAG` it names and gives no field for it. -/
opaque Config.namedDtag : Nat → Nat → Nat → Option Nat

/-- The sine and the cosine of 2πτ for τ in 2^−64, as FP32: 09 R205 states them within 2^−22 of exact. -/
opaque Config.sinTau : Word → Half
opaque Config.cosTau : Word → Half

/-- The place in its pass of the position that a `ROPE` instruction serves, by leg, group and place in the program: 09 R214 gives no field for
it. -/
opaque Config.ropeSlot : Nat → Nat → Nat → Nat

/-- The logistic function of an FP32 number, and the reciprocal root mean square of a vector of them, as FP32: 09 Table 09-7a names both and
states no accuracy. -/
opaque Config.sigmoid : Half → Half
opaque Config.rms : List Nat → Half

/-- What a Combine operation whose arithmetic 09 R214 leaves open writes: by operation, formats, element count and scale exponent,
from its source bytes and its second operand. -/
opaque Config.cmbOut : Nat → Nat → Nat → Nat → Nat → List Byte → List Byte → List Byte

/-- The natural logarithm of a sum of exponentials, as FP32 (09 Table 09-6, `G3.LSE`), by the logits' bits. -/
opaque Config.lse : List Nat → Half

/-- Element i of the logits of a position that a Combine step computed (22 R475), by a counter. -/
opaque Config.logit : Nat → Nat → Half

/-- Byte i of the key and value record that a leg writes for a new position, by a counter: 09 R204 says that the plan's `WR` entries
write it and gives no rule by which a plan's row number names the session's page. -/
opaque Config.kvByte : Nat → Nat → Byte

/-- The reads in flight of an insert walk, minus 1 (12 R279 states its L, K and EXPAND_MAX but not its BEAM). -/
opaque Config.insertBeamM1 : BitVec 3

/-- The RSASSA-PSS signature with SHA-256 under the module's identity key (20 Table 20-2): salted, so by a counter and the message. -/
opaque Config.identSign : Nat → List Byte → List Byte

/-- Whether a signature over a message verifies against the key whose SHA-256 is given as four words (17 R383, 20 R424, R429). -/
opaque Config.pssOk : List Nat → List Byte → List Byte → Bool

/-- The token ID of a position of a restored session, by its meter record and the position: a session record holds no token IDs (17 R379),
and 04 R77 asks for them when the session is forked. -/
opaque Config.restoredTok : Nat → Nat → Half

/-- The identity key's certificate chain, and the SHA-256 of its public key (words; 20 R427, R437). -/
opaque Config.identCert : List Byte
opaque Config.identHash : Nat → Word

/-- The Umpire's: its signature over a receipt by the receipt's number (salted), its serial number, the SHA-256 of its public key and of
the firmware it was made with (words), its certificate chain, whether its boot ROM accepts an image, and its oscillator's deviation
between two frames in ppm above −50 (0 to 100, 19 R405). -/
opaque Config.umpSign : Nat → List Byte → List Byte
opaque Config.umpSerial : Word
opaque Config.umpKeyHash : Nat → Word
opaque Config.umpFwHash : Nat → Word
opaque Config.umpCert : List Byte
opaque Config.umpImageOk : List Byte → Bool
opaque Config.umpPpm : Nat → BitVec 7

/-- Whether the SecTAG that the device adds carries the SCI (15 R332 names the cipher and not the tag's length; IEEE 802.1AE allows both). -/
opaque Config.secTagSci : Bool

end Sys2Proof
end

