-- ==== Sys2Proof/Machine/Bits.lean ====
section
/-! DEFINITION. Bit fields, little-endian bytes and the small integer functions the other files share
(00_scope.md R3, R4). -/

namespace Sys2Proof.Machine

/-- Bits [lo + n - 1 : lo] of a number (00 R3: ranges are inclusive, bit 0 the least significant). -/
def bitsOf (x lo n : Nat) : Nat := (x >>> lo) % 2 ^ n

/-- One bit of a number. -/
def bitOf (x i : Nat) : Bool := x.testBit i

/-- A Bool as the bit it is written as. -/
def b2n (b : Bool) : Nat := if b then 1 else 0

/-- The number with bits [lo + n - 1 : lo] replaced by the low n bits of v. -/
def putBits (x lo n v : Nat) : Nat :=
  (x - (bitsOf x lo n) * 2 ^ lo) + (v % 2 ^ n) * 2 ^ lo

/-- ⌈a ÷ b⌉; 0 where b is 0. -/
def ceilDiv (a b : Nat) : Nat := if b = 0 then 0 else (a + b - 1) / b

/-- The number that little-endian bytes spell (00 R4). -/
def leNat : List Byte → Nat
  | [] => 0
  | b :: bs => b.toNat + 256 * leNat bs

/-- The n little-endian bytes of a number (00 R4). -/
def leBytes : Nat → Nat → List Byte
  | 0, _ => []
  | n + 1, x => BitVec.ofNat 8 x :: leBytes n (x / 256)

/-- The n bytes from offset off, fewer where the list ends. -/
def bytesAt (d : List Byte) (off n : Nat) : List Byte := (d.drop off).take n

/-- The unsigned n-byte field at offset off. -/
def u (n : Nat) (d : List Byte) (off : Nat) : Nat := leNat (bytesAt d off n)

def u8 (d : List Byte) (off : Nat) : Nat := u 1 d off
def u16 (d : List Byte) (off : Nat) : Nat := u 2 d off
def u32 (d : List Byte) (off : Nat) : Nat := u 4 d off
def u64 (d : List Byte) (off : Nat) : Nat := u 8 d off

/-- The first fields of `w` bytes. -/
def fieldsOf (w : Nat) : Nat → List Byte → List Nat
  | 0, _ => []
  | n + 1, d => leNat (d.take w) :: fieldsOf w n (d.drop w)

/-- `n` fields of `w` bytes, one after the other, from offset `off`. -/
def fieldsAt (w : Nat) (d : List Byte) (off n : Nat) : List Nat := fieldsOf w n (d.drop off)

/-- The bytes of a list of `w`-byte little-endian fields. -/
def packFields (w : Nat) : List Nat → List Byte
  | [] => []
  | x :: xs => leBytes w x ++ packFields w xs

/-- ⌊log2 x⌋ for x ≥ 1, and 0 for 0. -/
def log2 (x : Nat) : Nat := Nat.log2 x

/-- How many of the low n bits are 1. -/
def popCount : Nat → Nat → Nat
  | 0, _ => 0
  | n + 1, x => b2n (x % 2 = 1) + popCount n (x / 2)

/-- The positions of the 1 bits among the low n bits, rising. -/
def onesOf (n x : Nat) : List Nat := (List.range n).filter (fun i => x.testBit i)

/-- The mask with the named bits set. -/
def maskOf (is : List Nat) : Nat := is.foldl (fun m i => m ||| 2 ^ i) 0

/-- Saturating unsigned addition at n bits. -/
def satAdd (n x y : Nat) : Nat := min (x + y) (2 ^ n - 1)

/-- The two's-complement value of the low n bits. -/
def signed (n x : Nat) : Int :=
  let v := x % 2 ^ n
  if 2 * v < 2 ^ n then (v : Int) else (v : Int) - (2 ^ n : Nat)

/-- The n-bit two's-complement pattern of an integer. -/
def unsigned (n : Nat) (x : Int) : Nat := (x % ((2 ^ n : Nat) : Int)).toNat

/-- An integer held to [lo, hi]. -/
def clampInt (lo hi x : Int) : Int := if x < lo then lo else if hi < x then hi else x

/-- Replace the n-th element of a list; a list without an n-th element stays as it is. -/
def setNth {α : Type} : List α → Nat → α → List α
  | [], _, _ => []
  | _ :: xs, 0, v => v :: xs
  | x :: xs, n + 1, v => x :: setNth xs n v

/-- The list with `f` applied to its n-th element. -/
def modNth {α : Type} : List α → Nat → (α → α) → List α
  | [], _, _ => []
  | x :: xs, 0, f => f x :: xs
  | x :: xs, n + 1, f => x :: modNth xs n f

/-- A list cut into runs of n elements (n at least 1), the last one possibly shorter. `fuel` bounds the runs. -/
def chunksGo {α : Type} (n : Nat) : Nat → List α → List (List α)
  | 0, _ => []
  | f + 1, xs => if xs.isEmpty then [] else xs.take n :: chunksGo n f (xs.drop n)

def chunks {α : Type} (n : Nat) (xs : List α) : List (List α) := chunksGo (max n 1) xs.length xs

/-- Insertion into a list sorted by `le`, after the elements that are not greater. -/
def insertBy {α : Type} (le : α → α → Bool) (x : α) : List α → List α
  | [] => [x]
  | y :: ys => if le y x then y :: insertBy le x ys else x :: y :: ys

/-- A stable sort, smallest first. -/
def sortBy {α : Type} (le : α → α → Bool) : List α → List α
  | [] => []
  | x :: xs => insertFront le x (sortBy le xs)
where
  insertFront (le : α → α → Bool) (x : α) : List α → List α
    | [] => [x]
    | y :: ys => if le x y then x :: y :: ys else y :: insertFront le x ys

/-- Sum of a list. -/
def sumOf (xs : List Nat) : Nat := xs.foldl (· + ·) 0

/-- Largest of a list, 0 for none. -/
def maxOf (xs : List Nat) : Nat := xs.foldl max 0

/-- Lexicographic order on lists of numbers. -/
def lexLe : List Nat → List Nat → Bool
  | [], _ => true
  | _ :: _, [] => false
  | x :: xs, y :: ys => decide (x < y) || (x == y && lexLe xs ys)

end Sys2Proof.Machine
end

