-- ==== Sys2Proof/Machine/Maps.lean ====
section
/-! DEFINITION. Sparse tables in ONE canonical form: lists of (key, value) pairs with strictly rising keys. Every table of
objects in State (sessions, nodes, page-table entries, operations, …) and every byte array (Tier H bytes, register words)
is one of these, so equal contents are equal data. -/

namespace Sys2Proof.Machine

/-- A table from numbers to values: its entries in strictly rising order of key. -/
abbrev Map (α : Type) := List (Nat × α)

/-- The value at a key, if the table lists it. -/
def mapGet {α : Type} : Map α → Nat → Option α
  | [], _ => none
  | (k, v) :: m, i => if i = k then some v else if i < k then none else mapGet m i

/-- The table with the value at a key replaced or added. -/
def mapSet {α : Type} : Map α → Nat → α → Map α
  | [], i, x => [(i, x)]
  | (k, v) :: m, i, x =>
    if i = k then (k, x) :: m else if i < k then (i, x) :: (k, v) :: m else (k, v) :: mapSet m i x

/-- The table without a key. -/
def mapErase {α : Type} : Map α → Nat → Map α
  | [], _ => []
  | (k, v) :: m, i => if i = k then m else if i < k then (k, v) :: m else (k, v) :: mapErase m i

/-- The table with `f` applied to the value at a key; unchanged where the key is not listed. -/
def mapUpd {α : Type} (m : Map α) (i : Nat) (f : α → α) : Map α :=
  match mapGet m i with
  | some v => mapSet m i (f v)
  | none => m

/-- The canonical form: keys strictly rising. -/
def mapWf {α : Type} : Map α → Bool
  | [] => true
  | [_] => true
  | (k, _) :: (k', v') :: m => decide (k < k') && mapWf ((k', v') :: m)

/-- Whether a key is listed. -/
def mapHas {α : Type} (m : Map α) (i : Nat) : Bool := (mapGet m i).isSome

/-- The keys of a table. -/
def mapKeys {α : Type} (m : Map α) : List Nat := m.map (·.1)

/-- The values of a table. -/
def mapVals {α : Type} (m : Map α) : List α := m.map (·.2)

/-- The table with every value changed by a function of key and value. -/
def mapAll {α : Type} (m : Map α) (f : Nat → α → α) : Map α := m.map (fun (k, v) => (k, f k v))

/-- The table with only the entries that satisfy `p`. -/
def mapKeep {α : Type} (m : Map α) (p : Nat → α → Bool) : Map α := m.filter (fun (k, v) => p k v)

/-- The lowest number from `i` on that rising keys do not list. -/
def freeFrom {α : Type} : Map α → Nat → Nat
  | [], i => i
  | (k, _) :: m, i => if k < i then freeFrom m i else if k = i then freeFrom m (i + 1) else i

/-- The lowest key the table does not list. -/
def mapFree {α : Type} (m : Map α) : Nat := freeFrom m 0

/-- A sparse array of words or bytes whose unlisted entries read as 0: the value at an index. -/
def cellGet {n : Nat} (m : Map (BitVec n)) (i : Nat) : BitVec n :=
  match mapGet m i with
  | some v => v
  | none => 0

/-- Writing an entry; writing 0, which an unlisted entry reads as, removes it. -/
def cellSet {n : Nat} (m : Map (BitVec n)) (i : Nat) (v : BitVec n) : Map (BitVec n) :=
  if v = 0 then mapErase m i else mapSet m i v

/-- The canonical form of a sparse array: rising indices and no entry equal to 0. -/
def cellWf {n : Nat} (m : Map (BitVec n)) : Bool := mapWf m && m.all (fun e => e.2 != 0)

/-- `n` entries from index `i`. -/
def cellsGet {w : Nat} (m : Map (BitVec w)) (i : Nat) : Nat → List (BitVec w)
  | 0 => []
  | n + 1 => cellGet m i :: cellsGet m (i + 1) n

/-- A run of entries written from index `i`. -/
def cellsSet {w : Nat} (m : Map (BitVec w)) (i : Nat) : List (BitVec w) → Map (BitVec w)
  | [] => m
  | v :: vs => cellsSet (cellSet m i v) (i + 1) vs

/-- The array with the indices from `lo` to `hi - 1` back at 0. -/
def cellsClear {w : Nat} (m : Map (BitVec w)) (lo hi : Nat) : Map (BitVec w) :=
  m.filter (fun e => decide (e.1 < lo) || decide (hi ≤ e.1))

/-- A set of numbers as a strictly rising list: adding one. -/
def setAdd : List Nat → Nat → List Nat
  | [], i => [i]
  | k :: m, i => if i = k then k :: m else if i < k then i :: k :: m else k :: setAdd m i

/-- Removing one number from a set. -/
def setDel (m : List Nat) (i : Nat) : List Nat := m.filter (· != i)

/-- The lowest number from `i` on that is not in a rising list. -/
def setFreeFrom : List Nat → Nat → Nat
  | [], i => i
  | k :: m, i => if k < i then setFreeFrom m i else if k = i then setFreeFrom m (i + 1) else i

end Sys2Proof.Machine
end

