-- ==== Sys2Proof/Machine/RegTable.lean ====
section
/-! DEFINITION. The register fields of control space: one named constant per field row of the spec's register tables
(02_control_space.md Tables 02-2 to 02-4, and each chapter's register table), with its offset, its bits, its access type
(00_scope.md R6) and its reset value. A reset value "—" of the spec (00 R10) stands here as 0, except where
notes/assumptions/3.md names another; fields the Rigging image loads (20_security.md) are held in State.sec. -/

namespace Sys2Proof.Machine

/-- The blocks that own control-space pages (02 R23, Table 02-1). -/
inductive Blk where
  | dev
  | clk
  | boot
  | pwr
  | stk
  | ses
  | pfx
  | tier
  | mov
  | ckp
  | txt
  | grm
  | gsx
  | cmb
  | crew
  | sec
  | ump
  | flt
  | portg
  | port
  | egq
  | bwp
  | fshg
  | fch
  | lane
  | cmbg
  | pch
deriving DecidableEq, Repr

/-- Access types (00 R6, Table 00-2). -/
inductive Acc where
  | ro | rw | wo | w1c | w1s | rc | rwl
deriving DecidableEq, Repr

/-- One field of a register: the owning block, the byte offset (first one, stride and count for an array of
registers), the lowest bit, the width, the access type and the reset value. -/
structure Fld where
  blk : Blk
  off : Nat
  stride : Nat
  cnt : Nat
  lo : Nat
  wd : Nat
  acc : Acc
  rst : Nat
deriving DecidableEq, Repr

namespace R

/-! Fields of the common header, which every page carries (02 R26, Tables 02-2 and 02-3); the block named here is not used. -/

def BLOCK_ID_PAGE : Fld := ⟨.dev, 0x000, 0, 1, 0, 12, .ro, 0⟩
def BLOCK_ID_TYPE : Fld := ⟨.dev, 0x000, 0, 1, 16, 16, .ro, 0⟩
def BLOCK_ID_INST : Fld := ⟨.dev, 0x000, 0, 1, 32, 16, .ro, 0⟩
def BLOCK_VER_MINOR : Fld := ⟨.dev, 0x008, 0, 1, 0, 16, .ro, 0⟩
def BLOCK_VER_MAJOR : Fld := ⟨.dev, 0x008, 0, 1, 16, 16, .ro, 0⟩
def CTRL_LOCK : Fld := ⟨.dev, 0x018, 0, 1, 0, 1, .w1s, 0⟩
def STATUS_STATE : Fld := ⟨.dev, 0x020, 0, 1, 0, 3, .ro, 0⟩
def EVT_STATUS_ALL : Fld := ⟨.dev, 0x028, 0, 1, 0, 64, .w1c, 0⟩
def EVT_ENABLE_ALL : Fld := ⟨.dev, 0x030, 0, 1, 0, 64, .rw, 0⟩
def EVT_FORCE_ALL : Fld := ⟨.dev, 0x038, 0, 1, 0, 64, .w1s, 0⟩
def ERR_FIRST_CODE : Fld := ⟨.dev, 0x040, 0, 1, 0, 16, .ro, 0⟩
def ERR_FIRST_UNIT : Fld := ⟨.dev, 0x040, 0, 1, 16, 16, .ro, 0⟩
def ERR_FIRST_STROKE : Fld := ⟨.dev, 0x040, 0, 1, 32, 32, .ro, 0⟩
def ERR_COUNT_COUNT : Fld := ⟨.dev, 0x048, 0, 1, 0, 32, .rc, 0⟩
def FENCE_UNITS : Fld := ⟨.dev, 0x050, 0, 1, 0, 16, .ro, 0⟩
def FENCE_WHOLE : Fld := ⟨.dev, 0x050, 0, 1, 16, 1, .ro, 0⟩
def FENCE_BLOCK : Fld := ⟨.dev, 0x050, 0, 1, 32, 32, .ro, 0⟩

/-! The `DEV` page: 02 R29 Table 02-4. -/

def DEV_IDENT_VENDOR : Fld := ⟨.dev, 0x100, 0, 1, 0, 16, .ro, 19796⟩
def DEV_IDENT_PART : Fld := ⟨.dev, 0x100, 0, 1, 16, 16, .ro, 50762⟩
def DEV_IDENT_STEP : Fld := ⟨.dev, 0x100, 0, 1, 32, 8, .ro, 176⟩
def DEV_SERIAL : Fld := ⟨.dev, 0x108, 0, 1, 0, 64, .ro, 0⟩
def FW_VER_PATCH : Fld := ⟨.dev, 0x110, 0, 1, 0, 16, .ro, 0⟩
def FW_VER_MINOR : Fld := ⟨.dev, 0x110, 0, 1, 16, 8, .ro, 0⟩
def FW_VER_MAJOR : Fld := ⟨.dev, 0x110, 0, 1, 24, 8, .ro, 0⟩
def FW_VER_BUILD : Fld := ⟨.dev, 0x110, 0, 1, 32, 32, .ro, 0⟩
def UMP_FW_VER : Fld := ⟨.dev, 0x118, 0, 1, 0, 64, .ro, 0⟩
def SVC_LEVEL_LEVEL : Fld := ⟨.dev, 0x120, 0, 1, 0, 2, .ro, 0⟩
def SVC_LEVEL_REDUCED : Fld := ⟨.dev, 0x120, 0, 1, 8, 1, .ro, 0⟩
def GEO_GEN_GEN : Fld := ⟨.dev, 0x1F8, 0, 1, 0, 32, .ro, 0⟩
def GEO_ITEM : Fld := ⟨.dev, 0x200, 8, 32, 0, 8, .ro, 0⟩
def GEO_UNIT : Fld := ⟨.dev, 0x200, 8, 32, 8, 8, .ro, 0⟩
def GEO_VALUE : Fld := ⟨.dev, 0x200, 8, 32, 16, 48, .ro, 0⟩

/-! The `CLK` page: 22 R479 Table 22-5. -/

def CLK_STATUS_ARITH_LOCK : Fld := ⟨.clk, 0x100, 0, 1, 0, 1, .ro, 0⟩
def CLK_STATUS_LANE_LOCK : Fld := ⟨.clk, 0x100, 0, 1, 1, 1, .ro, 0⟩
def CLK_STATUS_PORT_LOCK : Fld := ⟨.clk, 0x100, 0, 1, 2, 1, .ro, 0⟩
def CLK_STATUS_FLASH_LOCK : Fld := ⟨.clk, 0x100, 0, 1, 3, 1, .ro, 0⟩
def CLK_RELOCK_COUNT : Fld := ⟨.clk, 0x108, 0, 1, 0, 32, .rc, 0⟩
def CLK_BLADE_COUNT : Fld := ⟨.clk, 0x110, 0, 1, 0, 64, .ro, 0⟩
def CLK_FREQ_ARITH_KHZ : Fld := ⟨.clk, 0x118, 0, 1, 0, 32, .ro, 940000⟩
def CLK_FREQ_BLADE_KHZ : Fld := ⟨.clk, 0x118, 0, 1, 32, 32, .ro, 470000⟩

/-! The `BOOT` page: 22 R480 Table 22-6. -/

def BOOT_CAUSE_CAUSE : Fld := ⟨.boot, 0x100, 0, 1, 0, 4, .ro, 0⟩
def BOOT_CAUSE_HW_RAN : Fld := ⟨.boot, 0x100, 0, 1, 8, 1, .ro, 0⟩
def BOOT_CTRL_RESET : Fld := ⟨.boot, 0x108, 0, 1, 0, 1, .wo, 0⟩
def BOOT_CFG_QUICK : Fld := ⟨.boot, 0x110, 0, 1, 0, 1, .rw, 0⟩
def BOOT_CFG_WDOG_MS : Fld := ⟨.boot, 0x110, 0, 1, 16, 16, .rwl, 2000⟩
def BOOT_TIME0_SL0_MS : Fld := ⟨.boot, 0x118, 0, 1, 0, 32, .ro, 0⟩
def BOOT_TIME0_SL1_MS : Fld := ⟨.boot, 0x118, 0, 1, 32, 32, .ro, 0⟩
def BOOT_TIME1_SL2_MS : Fld := ⟨.boot, 0x120, 0, 1, 0, 32, .ro, 0⟩
def BOOT_TIME1_SL3_MS : Fld := ⟨.boot, 0x120, 0, 1, 32, 32, .ro, 0⟩
def BOOT_LANES_ONLINE : Fld := ⟨.boot, 0x128, 0, 1, 0, 10, .ro, 0⟩
def BOOT_LANES_TRAINED : Fld := ⟨.boot, 0x128, 0, 1, 10, 10, .ro, 0⟩
def BOOT_LANES_COVERING : Fld := ⟨.boot, 0x128, 0, 1, 20, 4, .ro, 15⟩
def BOOT_LANES_HB_DONE : Fld := ⟨.boot, 0x128, 0, 1, 24, 14, .ro, 0⟩
def BOOT_COVER_HB_TESTED : Fld := ⟨.boot, 0x130, 0, 1, 0, 32, .ro, 0⟩
def BOOT_COVER_HB_FAILED : Fld := ⟨.boot, 0x130, 0, 1, 32, 32, .ro, 0⟩
def BOOT_COLD_ADVICE_LEFT : Fld := ⟨.boot, 0x138, 0, 1, 0, 16, .ro, 1024⟩
def BOOT_COLD_SPLIT_LEFT : Fld := ⟨.boot, 0x138, 0, 1, 16, 16, .ro, 256⟩

/-! The `PWR` page: 18 R402 Table 18-5. -/

def PWR_IN_VOLT_MV : Fld := ⟨.pwr, 0x100, 0, 1, 0, 16, .ro, 0⟩
def PWR_IN_CURR_MA : Fld := ⟨.pwr, 0x100, 0, 1, 16, 16, .ro, 0⟩
def PWR_IN_POWER_W : Fld := ⟨.pwr, 0x100, 0, 1, 32, 16, .ro, 0⟩
def PWR_CFG_TDP_W : Fld := ⟨.pwr, 0x108, 0, 1, 0, 11, .rwl, 1150⟩
def PWR_CFG_RETEST_H : Fld := ⟨.pwr, 0x108, 0, 1, 16, 8, .rwl, 24⟩
def PWR_CFG_BUDGET_MAX : Fld := ⟨.pwr, 0x108, 0, 1, 24, 4, .rwl, 8⟩
def PWR_FACTOR_F : Fld := ⟨.pwr, 0x110, 0, 1, 0, 5, .ro, 16⟩
def HOLDUP_STATUS_STATE : Fld := ⟨.pwr, 0x118, 0, 1, 0, 3, .ro, 0⟩
def HOLDUP_STATUS_BANK_MV : Fld := ⟨.pwr, 0x118, 0, 1, 16, 16, .ro, 0⟩
def HOLDUP_MEAS_CAP_UF : Fld := ⟨.pwr, 0x120, 0, 1, 0, 16, .ro, 0⟩
def HOLDUP_MEAS_ESR_UOHM : Fld := ⟨.pwr, 0x120, 0, 1, 32, 20, .ro, 0⟩
def HOLDUP_ENERGY_E_MJ : Fld := ⟨.pwr, 0x128, 0, 1, 0, 32, .ro, 0⟩
def HOLDUP_ENERGY_HOLD_US : Fld := ⟨.pwr, 0x128, 0, 1, 32, 32, .ro, 0⟩
def HOLDUP_CTRL_RETEST : Fld := ⟨.pwr, 0x130, 0, 1, 0, 1, .wo, 0⟩
def HW_LAST0_CAUSE : Fld := ⟨.pwr, 0x138, 0, 1, 0, 4, .ro, 0⟩
def HW_LAST0_COMPLETE : Fld := ⟨.pwr, 0x138, 0, 1, 4, 1, .ro, 0⟩
def HW_LAST_STROKE : Fld := ⟨.pwr, 0x140, 0, 1, 0, 64, .ro, 0⟩
def HW_LAST_PAGES_FLUSHED : Fld := ⟨.pwr, 0x148, 0, 1, 0, 32, .ro, 0⟩
def HW_LAST_PAGES_LOST : Fld := ⟨.pwr, 0x148, 0, 1, 32, 32, .ro, 0⟩
def HW_LAST1_FLUSH_US : Fld := ⟨.pwr, 0x150, 0, 1, 0, 32, .ro, 0⟩
def HW_LAST1_BANK_END_MV : Fld := ⟨.pwr, 0x150, 0, 1, 32, 16, .ro, 0⟩

/-! The `STK` page: 06 R136 Table 06-6. -/

def STK_CFG_PERIOD_US : Fld := ⟨.stk, 0x100, 0, 1, 0, 11, .rwl, 250⟩
def STK_CFG_CATCH_US : Fld := ⟨.stk, 0x100, 0, 1, 16, 8, .rwl, 20⟩
def STK_CTRL_ALIGN : Fld := ⟨.stk, 0x018, 0, 1, 8, 1, .wo, 0⟩
def STK_ORIGIN : Fld := ⟨.stk, 0x108, 0, 1, 0, 64, .rwl, 0⟩
def STK_NUMBER : Fld := ⟨.stk, 0x110, 0, 1, 0, 64, .ro, 0⟩
def STK_TIME : Fld := ⟨.stk, 0x118, 0, 1, 0, 64, .ro, 0⟩
def STK_TIME_CFG_SRC : Fld := ⟨.stk, 0x120, 0, 1, 0, 3, .rw, 0⟩
def STK_TIME_CFG_PPS_MODE : Fld := ⟨.stk, 0x120, 0, 1, 8, 1, .rw, 0⟩
def STK_TIME_CFG_LOCK_NS : Fld := ⟨.stk, 0x120, 0, 1, 16, 16, .rw, 100⟩
def STK_TIME_CFG_PPS_DIV : Fld := ⟨.stk, 0x120, 0, 1, 32, 32, .rw, 4000⟩
def STK_TIME_SET : Fld := ⟨.stk, 0x128, 0, 1, 0, 64, .rw, 0⟩
def STK_TIME_STATUS_LOCK : Fld := ⟨.stk, 0x130, 0, 1, 0, 2, .ro, 0⟩
def STK_TIME_STATUS_STEPPED : Fld := ⟨.stk, 0x130, 0, 1, 2, 1, .ro, 0⟩
def STK_TIME_STATUS_PORT : Fld := ⟨.stk, 0x130, 0, 1, 8, 1, .ro, 0⟩
def STK_TIME_OFFSET : Fld := ⟨.stk, 0x138, 0, 1, 0, 64, .ro, 0⟩
def STK_FREQ_ADJ : Fld := ⟨.stk, 0x140, 0, 1, 0, 32, .ro, 0⟩
def STK_LOAD_GRANTED : Fld := ⟨.stk, 0x148, 0, 1, 0, 16, .ro, 0⟩
def STK_LOAD_DEFERRED : Fld := ⟨.stk, 0x148, 0, 1, 32, 16, .ro, 0⟩
def STK_OVERRUN_COUNT : Fld := ⟨.stk, 0x150, 0, 1, 0, 32, .rc, 0⟩
def STK_DRIVE_W_NS : Fld := ⟨.stk, 0x158, 0, 1, 0, 32, .ro, 225975⟩
def STK_NOFIT_REASON : Fld := ⟨.stk, 0x160, 0, 1, 0, 4, .ro, 0⟩
def STK_NOFIT_LANE : Fld := ⟨.stk, 0x160, 0, 1, 4, 4, .ro, 0⟩
def STK_NOFIT_LEG : Fld := ⟨.stk, 0x160, 0, 1, 16, 16, .ro, 0⟩
def STK_NOFIT_MODEL : Fld := ⟨.stk, 0x160, 0, 1, 32, 32, .ro, 0⟩
def STK_FIT_SEL_MODEL : Fld := ⟨.stk, 0x180, 0, 1, 0, 32, .wo, 0⟩
def STK_FIT_SEL_LEG : Fld := ⟨.stk, 0x180, 0, 1, 32, 16, .wo, 0⟩
def STK_FIT_SEL_VALID : Fld := ⟨.stk, 0x180, 0, 1, 48, 1, .ro, 0⟩
def STK_FIT : Fld := ⟨.stk, 0x200, 8, 16, 0, 64, .ro, 0⟩

/-! The `SES` page: 03 R65 Table 03-9. -/

def SES_CFG_IDLE_STROKES : Fld := ⟨.ses, 0x100, 0, 1, 0, 32, .rwl, 4000⟩
def SES_COUNT0_OPEN : Fld := ⟨.ses, 0x108, 0, 1, 0, 24, .ro, 0⟩
def SES_COUNT0_ACTIVE : Fld := ⟨.ses, 0x108, 0, 1, 24, 24, .ro, 0⟩
def SES_COUNT1_WAITING : Fld := ⟨.ses, 0x110, 0, 1, 0, 24, .ro, 0⟩
def SES_COUNT1_PARKED : Fld := ⟨.ses, 0x110, 0, 1, 24, 24, .ro, 0⟩
def SES_STALE_COUNT : Fld := ⟨.ses, 0x118, 0, 1, 0, 32, .rc, 0⟩
def SES_LOOKUP_SESSION : Fld := ⟨.ses, 0x120, 0, 1, 0, 24, .wo, 0⟩
def SES_LOOKUP_VALID : Fld := ⟨.ses, 0x120, 0, 1, 24, 1, .ro, 0⟩
def SES_DESC : Fld := ⟨.ses, 0x200, 8, 16, 0, 64, .ro, 0⟩

/-! The `PFX` page: 04 R84 Table 04-3. -/

def PFX_CFG_ENABLE : Fld := ⟨.pfx, 0x100, 0, 1, 0, 1, .rwl, 1⟩
def PFX_CFG_FREE_LOW : Fld := ⟨.pfx, 0x100, 0, 1, 32, 8, .rwl, 5⟩
def PFX_NODES_USED : Fld := ⟨.pfx, 0x108, 0, 1, 0, 32, .ro, 0⟩
def PFX_NODES_CAPACITY : Fld := ⟨.pfx, 0x108, 0, 1, 32, 32, .ro, 4194304⟩
def PFX_HITS_SPANS : Fld := ⟨.pfx, 0x110, 0, 1, 0, 32, .rc, 0⟩
def PFX_MISS_SPANS : Fld := ⟨.pfx, 0x118, 0, 1, 0, 32, .rc, 0⟩
def PFX_COLLIDE_COUNT : Fld := ⟨.pfx, 0x120, 0, 1, 0, 32, .rc, 0⟩
def PFX_EVICT_DEMOTED : Fld := ⟨.pfx, 0x128, 0, 1, 0, 32, .rc, 0⟩
def PFX_EVICT_DROPPED : Fld := ⟨.pfx, 0x128, 0, 1, 32, 32, .rc, 0⟩
def PFX_INSERT_SKIP_COUNT : Fld := ⟨.pfx, 0x130, 0, 1, 0, 32, .rc, 0⟩
def PFX_TEN_SEL_TENANT : Fld := ⟨.pfx, 0x140, 0, 1, 0, 12, .wo, 0⟩
def PFX_TEN_SEL_VALID : Fld := ⟨.pfx, 0x140, 0, 1, 12, 1, .ro, 0⟩
def PFX_TEN_CFG_PUBLISH_SPANS : Fld := ⟨.pfx, 0x148, 0, 1, 0, 16, .rw, 0⟩
def PFX_TEN_CFG_KEY_MODE : Fld := ⟨.pfx, 0x148, 0, 1, 16, 1, .rw, 0⟩
def PFX_TEN_CFG_KEY_GEN : Fld := ⟨.pfx, 0x148, 0, 1, 24, 8, .ro, 0⟩
def PFX_TEN_CFG_ROTATE : Fld := ⟨.pfx, 0x148, 0, 1, 32, 1, .wo, 0⟩
def PFX_TEN_KEY0 : Fld := ⟨.pfx, 0x150, 0, 1, 0, 64, .wo, 0⟩
def PFX_TEN_KEY1 : Fld := ⟨.pfx, 0x158, 0, 1, 0, 64, .wo, 0⟩
def PFX_TEN_USE_NODES : Fld := ⟨.pfx, 0x160, 0, 1, 0, 32, .ro, 0⟩
def PFX_TEN_USE_PAGES_H : Fld := ⟨.pfx, 0x160, 0, 1, 32, 32, .ro, 0⟩
def PFX_NODE_SEL_NODE : Fld := ⟨.pfx, 0x180, 0, 1, 0, 32, .wo, 0⟩
def PFX_NODE_SEL_VALID : Fld := ⟨.pfx, 0x180, 0, 1, 32, 1, .ro, 0⟩
def PFX_NODE : Fld := ⟨.pfx, 0x200, 8, 8, 0, 64, .ro, 0⟩

/-! The `TIER` page: 05 R117 Table 05-10. -/

def TIER_CFG_CLEAN_START : Fld := ⟨.tier, 0x100, 0, 1, 0, 8, .rwl, 50⟩
def TIER_CFG_CLEAN_PROTECT : Fld := ⟨.tier, 0x100, 0, 1, 8, 8, .rwl, 90⟩
def TIER_CFG_QUOTA_WAIT : Fld := ⟨.tier, 0x100, 0, 1, 16, 16, .rwl, 8⟩
def TIER_CFG_LOW_PCT : Fld := ⟨.tier, 0x100, 0, 1, 32, 8, .rwl, 2⟩
def TIER_CFG_ADVICE_EN : Fld := ⟨.tier, 0x100, 0, 1, 40, 1, .rw, 1⟩
def TIER_CFG_ADVICE_MIN : Fld := ⟨.tier, 0x100, 0, 1, 48, 16, .rw, 4000⟩
def TIER_H_FRAMES : Fld := ⟨.tier, 0x108, 0, 1, 0, 32, .ro, 10436608⟩
def TIER_H_FREE : Fld := ⟨.tier, 0x108, 0, 1, 32, 32, .ro, 10436608⟩
def TIER_F_FRAMES : Fld := ⟨.tier, 0x110, 0, 1, 0, 32, .ro, 805306368⟩
def TIER_F_FREE : Fld := ⟨.tier, 0x110, 0, 1, 32, 32, .ro, 0⟩
def TIER_DIRTY_PAGES : Fld := ⟨.tier, 0x118, 0, 1, 0, 32, .ro, 0⟩
def TIER_DIRTY_BUDGET : Fld := ⟨.tier, 0x118, 0, 1, 32, 32, .ro, 32768⟩
def TIER_HOLD_COUNT : Fld := ⟨.tier, 0x120, 0, 1, 0, 32, .rc, 0⟩
def TIER_OVERRIDE_COUNT : Fld := ⟨.tier, 0x128, 0, 1, 0, 32, .rc, 0⟩
def TIER_ALLOT_USED : Fld := ⟨.tier, 0x130, 0, 1, 0, 10, .ro, 0⟩
def TIER_TEN_SEL_TENANT : Fld := ⟨.tier, 0x140, 0, 1, 0, 12, .wo, 0⟩
def TIER_TEN_SEL_VALID : Fld := ⟨.tier, 0x140, 0, 1, 12, 1, .ro, 0⟩
def TIER_TEN_QH_QUOTA : Fld := ⟨.tier, 0x148, 0, 1, 0, 32, .rw, 0⟩
def TIER_TEN_QH_USE : Fld := ⟨.tier, 0x148, 0, 1, 32, 32, .ro, 0⟩
def TIER_TEN_QF_QUOTA : Fld := ⟨.tier, 0x150, 0, 1, 0, 32, .rw, 0⟩
def TIER_TEN_QF_USE : Fld := ⟨.tier, 0x150, 0, 1, 32, 32, .ro, 0⟩
def TIER_TEN_OPS_LIMIT : Fld := ⟨.tier, 0x158, 0, 1, 0, 18, .rw, 8192⟩
def TIER_TEN_OPS_USE : Fld := ⟨.tier, 0x158, 0, 1, 32, 18, .ro, 0⟩
def TIER_TEN_DIRTY_PAGES : Fld := ⟨.tier, 0x160, 0, 1, 0, 32, .ro, 0⟩
def TIER_SAS_SEL_PAGE : Fld := ⟨.tier, 0x180, 0, 1, 0, 30, .wo, 0⟩
def TIER_SAS_SEL_VALID : Fld := ⟨.tier, 0x180, 0, 1, 32, 1, .ro, 0⟩
def TIER_PTE : Fld := ⟨.tier, 0x188, 8, 2, 0, 64, .ro, 0⟩

/-! The `MOV` page: 05 R118 Table 05-11. -/

def MOV_CFG_FINAL_US : Fld := ⟨.mov, 0x100, 0, 1, 0, 16, .rwl, 150⟩
def MOV_CFG_BG_FLOOR : Fld := ⟨.mov, 0x100, 0, 1, 16, 8, .rwl, 5⟩
def MOV_STAT_ACTIVE : Fld := ⟨.mov, 0x108, 0, 1, 0, 18, .ro, 0⟩
def MOV_STAT_PEAK : Fld := ⟨.mov, 0x108, 0, 1, 32, 18, .rc, 0⟩
def MOV_BYTES_HF : Fld := ⟨.mov, 0x110, 0, 1, 0, 64, .rc, 0⟩
def MOV_BYTES_FH : Fld := ⟨.mov, 0x118, 0, 1, 0, 64, .rc, 0⟩
def MOV_BYTES_NET : Fld := ⟨.mov, 0x120, 0, 1, 0, 64, .rc, 0⟩
def MOV_BYTES_HH : Fld := ⟨.mov, 0x128, 0, 1, 0, 64, .rc, 0⟩
def MOV_NOCONV_COUNT : Fld := ⟨.mov, 0x130, 0, 1, 0, 32, .rc, 0⟩
def MOV_NOCONV_HELD : Fld := ⟨.mov, 0x130, 0, 1, 32, 32, .rc, 0⟩
def MOV_OP_SEL_OP : Fld := ⟨.mov, 0x180, 0, 1, 0, 17, .wo, 0⟩
def MOV_OP_SEL_VALID : Fld := ⟨.mov, 0x180, 0, 1, 32, 1, .ro, 0⟩
def MOV_OP : Fld := ⟨.mov, 0x200, 8, 8, 0, 64, .ro, 0⟩

/-! The `CKP` page: 17 R388 Table 17-9. -/

def CKP_CFG_CLASS : Fld := ⟨.ckp, 0x100, 0, 1, 0, 2, .rwl, 3⟩
def CKP_CFG_CHAIN_MAX : Fld := ⟨.ckp, 0x100, 0, 1, 8, 4, .rwl, 8⟩
def CKP_CFG_WAIT : Fld := ⟨.ckp, 0x100, 0, 1, 16, 16, .rwl, 64⟩
def CKP_BYTES : Fld := ⟨.ckp, 0x108, 0, 1, 0, 64, .rc, 0⟩
def CKP_DEDUP_PAGES : Fld := ⟨.ckp, 0x110, 0, 1, 0, 32, .rc, 0⟩
def CKP_DEDUP_SKIPPED : Fld := ⟨.ckp, 0x110, 0, 1, 32, 32, .rc, 0⟩
def CKP_TGT_SEL_TENANT : Fld := ⟨.ckp, 0x140, 0, 1, 0, 12, .wo, 0⟩
def CKP_TGT_SEL_VALID : Fld := ⟨.ckp, 0x140, 0, 1, 12, 1, .ro, 0⟩
def CKP_TGT0_ENABLE : Fld := ⟨.ckp, 0x148, 0, 1, 0, 1, .rw, 0⟩
def CKP_TGT0_QP : Fld := ⟨.ckp, 0x148, 0, 1, 16, 16, .rw, 0⟩
def CKP_TGT0_RKEY : Fld := ⟨.ckp, 0x148, 0, 1, 32, 32, .rw, 0⟩
def CKP_TGT_ADDR : Fld := ⟨.ckp, 0x150, 0, 1, 0, 64, .rw, 0⟩
def CKP_TGT_LEN : Fld := ⟨.ckp, 0x158, 0, 1, 0, 64, .rw, 0⟩
def CKP_TGT_WRITE : Fld := ⟨.ckp, 0x160, 0, 1, 0, 64, .ro, 0⟩
def CKP_TGT_RELEASE : Fld := ⟨.ckp, 0x168, 0, 1, 0, 64, .rw, 0⟩
def CKP_TGT_EPOCH : Fld := ⟨.ckp, 0x170, 0, 1, 0, 64, .ro, 0⟩
def CKP_TGT_OLDEST : Fld := ⟨.ckp, 0x178, 0, 1, 0, 64, .ro, 0⟩
def CKP_TGT_DIGESTS_USED : Fld := ⟨.ckp, 0x180, 0, 1, 0, 32, .ro, 0⟩
def CKP_TGT_DIGESTS_CAPACITY : Fld := ⟨.ckp, 0x180, 0, 1, 32, 32, .ro, 16777216⟩
def CKP_TRUST : Fld := ⟨.ckp, 0x200, 8, 8, 0, 64, .rw, 0⟩

/-! The `TXT` page: 11 R261 Table 11-14. -/

def TXT_CFG_PRELOAD : Fld := ⟨.txt, 0x100, 0, 1, 0, 1, .rwl, 1⟩
def TXT_CFG_PRELOAD_RANKS : Fld := ⟨.txt, 0x100, 0, 1, 8, 24, .rwl, 65536⟩
def TXT_CTX_USED : Fld := ⟨.txt, 0x108, 0, 1, 0, 13, .ro, 0⟩
def TXT_CTX_SESSIONS : Fld := ⟨.txt, 0x108, 0, 1, 16, 13, .ro, 0⟩
def TXT_IN_BYTES : Fld := ⟨.txt, 0x110, 0, 1, 0, 64, .rc, 0⟩
def TXT_REPL_IN : Fld := ⟨.txt, 0x118, 0, 1, 0, 32, .rc, 0⟩
def TXT_REPL_OUT : Fld := ⟨.txt, 0x118, 0, 1, 32, 32, .rc, 0⟩
def TXT_TRUNC_BYTES : Fld := ⟨.txt, 0x120, 0, 1, 0, 32, .rc, 0⟩
def TXT_TRUNC_TOKENS : Fld := ⟨.txt, 0x120, 0, 1, 32, 32, .rc, 0⟩
def TXT_CACHE_HITS : Fld := ⟨.txt, 0x128, 0, 1, 0, 32, .rc, 0⟩
def TXT_CACHE_MISSES : Fld := ⟨.txt, 0x128, 0, 1, 32, 32, .rc, 0⟩
def TXT_REPORT_STOPS : Fld := ⟨.txt, 0x130, 0, 1, 0, 32, .rc, 0⟩
def TXT_REPORT_END_TURN : Fld := ⟨.txt, 0x130, 0, 1, 32, 32, .rc, 0⟩
def TXT_VOCAB_SEL_MODEL : Fld := ⟨.txt, 0x140, 0, 1, 0, 32, .wo, 0⟩
def TXT_VOCAB_SEL_VALID : Fld := ⟨.txt, 0x140, 0, 1, 32, 1, .ro, 0⟩
def TXT_VOCAB_VERSION : Fld := ⟨.txt, 0x148, 0, 1, 0, 16, .ro, 0⟩
def TXT_VOCAB_OLD : Fld := ⟨.txt, 0x148, 0, 1, 16, 16, .ro, 0⟩
def TXT_VOCAB_ENTRIES : Fld := ⟨.txt, 0x148, 0, 1, 32, 20, .ro, 0⟩

/-! The `GRM` page: 11 R262 Table 11-15. -/

def GRM_MASK_LAST_NS : Fld := ⟨.grm, 0x100, 0, 1, 0, 32, .ro, 0⟩
def GRM_MASK_PEAK_NS : Fld := ⟨.grm, 0x100, 0, 1, 32, 32, .rc, 0⟩
def GRM_WAIT_LEGS : Fld := ⟨.grm, 0x108, 0, 1, 0, 32, .rc, 0⟩
def GRM_SEL_TABLE : Fld := ⟨.grm, 0x110, 0, 1, 0, 16, .wo, 0⟩
def GRM_SEL_VALID : Fld := ⟨.grm, 0x110, 0, 1, 16, 1, .ro, 0⟩
def GRM_TABLE0_VERSION : Fld := ⟨.grm, 0x118, 0, 1, 0, 16, .ro, 0⟩
def GRM_TABLE0_OLD : Fld := ⟨.grm, 0x118, 0, 1, 16, 16, .ro, 0⟩
def GRM_TABLE0_STATES : Fld := ⟨.grm, 0x118, 0, 1, 32, 17, .ro, 0⟩
def GRM_TABLE1_BOUND : Fld := ⟨.grm, 0x120, 0, 1, 0, 32, .ro, 0⟩
def GRM_TABLE1_OLD_BOUND : Fld := ⟨.grm, 0x120, 0, 1, 32, 32, .ro, 0⟩
def GRM_REJECT_STEPS : Fld := ⟨.grm, 0x128, 0, 1, 0, 32, .rc, 0⟩
def GRM_REJECT_STATES : Fld := ⟨.grm, 0x128, 0, 1, 32, 32, .rc, 0⟩
def GRM_STORE_USED : Fld := ⟨.grm, 0x130, 0, 1, 0, 19, .ro, 0⟩

/-! The `GSX` page: 13 R307 Table 13-6. -/

def GSX_STAT_TABLES : Fld := ⟨.gsx, 0x100, 0, 1, 0, 9, .ro, 0⟩
def GSX_INDEX_INVALID : Fld := ⟨.gsx, 0x108, 0, 1, 0, 32, .rc, 0⟩
def GSX_ROWS_READ : Fld := ⟨.gsx, 0x110, 0, 1, 0, 64, .rc, 0⟩
def GSX_DUP_MAX : Fld := ⟨.gsx, 0x118, 0, 1, 0, 32, .rc, 0⟩
def GSX_DUP_ROW : Fld := ⟨.gsx, 0x118, 0, 1, 32, 32, .rc, 0⟩
def GSX_TBL_SEL_TABLE : Fld := ⟨.gsx, 0x140, 0, 1, 0, 16, .wo, 0⟩
def GSX_TBL_SEL_VALID : Fld := ⟨.gsx, 0x140, 0, 1, 16, 1, .ro, 0⟩
def GSX_TBL0_VERSION : Fld := ⟨.gsx, 0x148, 0, 1, 0, 16, .ro, 0⟩
def GSX_TBL0_OLD : Fld := ⟨.gsx, 0x148, 0, 1, 16, 16, .ro, 0⟩
def GSX_TBL0_TENANT : Fld := ⟨.gsx, 0x148, 0, 1, 32, 12, .ro, 0⟩
def GSX_TBL0_UPDATABLE : Fld := ⟨.gsx, 0x148, 0, 1, 48, 1, .ro, 0⟩
def GSX_TBL1_ROWS_M1 : Fld := ⟨.gsx, 0x150, 0, 1, 0, 32, .ro, 0⟩
def GSX_TBL1_UNSEALED : Fld := ⟨.gsx, 0x150, 0, 1, 32, 32, .ro, 0⟩

/-! The `CMB` page: 09 R217 Table 09-11, 10 R232 Table 10-5. -/

def CMB_CFG_APPEND_K : Fld := ⟨.cmb, 0x100, 0, 1, 0, 11, .rwl, 64⟩
def CMB_PLAN_SEL_MODEL : Fld := ⟨.cmb, 0x108, 0, 1, 0, 32, .wo, 0⟩
def CMB_PLAN_SEL_VALID : Fld := ⟨.cmb, 0x108, 0, 1, 48, 1, .ro, 0⟩
def CMB_PLAN_SEL_TENANT : Fld := ⟨.cmb, 0x108, 0, 1, 52, 12, .wo, 0⟩
def CMB_PLAN0_VERSION : Fld := ⟨.cmb, 0x110, 0, 1, 0, 16, .ro, 0⟩
def CMB_PLAN0_OLD : Fld := ⟨.cmb, 0x110, 0, 1, 16, 16, .ro, 0⟩
def CMB_PLAN0_SEALED : Fld := ⟨.cmb, 0x110, 0, 1, 32, 1, .ro, 0⟩
def CMB_PLAN1_SESSIONS : Fld := ⟨.cmb, 0x118, 0, 1, 0, 32, .ro, 0⟩
def CMB_PLAN1_OLD_STEPS : Fld := ⟨.cmb, 0x118, 0, 1, 32, 32, .ro, 0⟩
def CMB_IMPORT_NAK : Fld := ⟨.cmb, 0x120, 0, 1, 0, 32, .rc, 0⟩
def CMB_IMPORT_GAP : Fld := ⟨.cmb, 0x120, 0, 1, 32, 32, .rc, 0⟩
def CMB_LOGIT_RECORDS : Fld := ⟨.cmb, 0x128, 0, 1, 0, 32, .rc, 0⟩
def CMB_LOGIT_NAN : Fld := ⟨.cmb, 0x128, 0, 1, 32, 32, .rc, 0⟩
def CMB_EXPERT_SKIPPED : Fld := ⟨.cmb, 0x130, 0, 1, 0, 32, .rc, 0⟩
def CMB_EXPERT_PRIVATE : Fld := ⟨.cmb, 0x130, 0, 1, 32, 32, .rc, 0⟩
def CMB_LC_CFG_SINK : Fld := ⟨.cmb, 0x140, 0, 1, 0, 8, .rw, 1⟩
def CMB_LC_CFG_RECENT : Fld := ⟨.cmb, 0x140, 0, 1, 8, 8, .rw, 4⟩
def CMB_LC_CFG_SEL : Fld := ⟨.cmb, 0x140, 0, 1, 16, 13, .rw, 12⟩
def CMB_LC_CFG_FETCH_WAIT : Fld := ⟨.cmb, 0x140, 0, 1, 32, 16, .rw, 8⟩
def CMB_LC_STAT_SHORT : Fld := ⟨.cmb, 0x148, 0, 1, 0, 32, .rc, 0⟩
def CMB_LC_STAT_STALE : Fld := ⟨.cmb, 0x148, 0, 1, 32, 32, .rc, 0⟩
def CMB_LC_IDX_PENDING : Fld := ⟨.cmb, 0x150, 0, 1, 0, 32, .ro, 0⟩
def CMB_LC_IDX_BUILT : Fld := ⟨.cmb, 0x150, 0, 1, 32, 32, .rc, 0⟩
def CMB_COURSE_SEL_CREW : Fld := ⟨.cmb, 0x158, 0, 1, 0, 16, .wo, 0⟩
def CMB_COURSE_SEL_VALID : Fld := ⟨.cmb, 0x158, 0, 1, 16, 1, .ro, 0⟩
def CMB_COURSE0_NODE : Fld := ⟨.cmb, 0x160, 0, 1, 0, 32, .ro, 0⟩
def CMB_COURSE0_WIN : Fld := ⟨.cmb, 0x160, 0, 1, 32, 9, .ro, 0⟩
def CMB_COURSE0_SESSIONS : Fld := ⟨.cmb, 0x160, 0, 1, 48, 16, .ro, 0⟩
def CMB_COURSE1_STALL : Fld := ⟨.cmb, 0x168, 0, 1, 0, 32, .rc, 0⟩
def CMB_COURSE1_STEP_STROKES : Fld := ⟨.cmb, 0x168, 0, 1, 32, 32, .ro, 0⟩
def CMB_COURSE_CFG_WAIT : Fld := ⟨.cmb, 0x170, 0, 1, 0, 16, .rw, 4⟩

/-! The `CREW` page: 14 R327 Table 14-4. -/

def CREW_CFG_HOLD_MAX : Fld := ⟨.crew, 0x100, 0, 1, 0, 8, .rwl, 8⟩
def CREW_CFG_SPLIT_STROKES : Fld := ⟨.crew, 0x100, 0, 1, 16, 16, .rwl, 4000⟩
def CREW_CFG_SPLIT_MIN : Fld := ⟨.crew, 0x100, 0, 1, 32, 16, .rwl, 1500⟩
def CREW_STAT_CREWS : Fld := ⟨.crew, 0x108, 0, 1, 0, 17, .ro, 0⟩
def CREW_STAT_SEATED : Fld := ⟨.crew, 0x108, 0, 1, 24, 8, .ro, 0⟩
def CREW_VMIN : Fld := ⟨.crew, 0x110, 0, 1, 0, 64, .ro, 0⟩
def CREW_SWITCH_ORDINARY : Fld := ⟨.crew, 0x118, 0, 1, 0, 32, .rc, 0⟩
def CREW_SWITCH_EXCHANGE : Fld := ⟨.crew, 0x118, 0, 1, 32, 32, .rc, 0⟩
def CREW_PREEMPT_COUNT : Fld := ⟨.crew, 0x120, 0, 1, 0, 32, .rc, 0⟩
def CREW_PREEMPT_FAIL : Fld := ⟨.crew, 0x120, 0, 1, 32, 32, .rc, 0⟩
def CREW_STORE_IMAGES : Fld := ⟨.crew, 0x128, 0, 1, 0, 8, .ro, 8⟩
def CREW_STORE_USED : Fld := ⟨.crew, 0x128, 0, 1, 8, 8, .ro, 0⟩
def CREW_SEL_CREW : Fld := ⟨.crew, 0x140, 0, 1, 0, 16, .wo, 0⟩
def CREW_SEL_VALID : Fld := ⟨.crew, 0x140, 0, 1, 16, 1, .ro, 0⟩
def CREW_D0_TENANT : Fld := ⟨.crew, 0x148, 0, 1, 0, 12, .ro, 0⟩
def CREW_D0_FAST : Fld := ⟨.crew, 0x148, 0, 1, 12, 1, .ro, 0⟩
def CREW_D0_AUTO : Fld := ⟨.crew, 0x148, 0, 1, 13, 1, .ro, 0⟩
def CREW_D0_SPLIT : Fld := ⟨.crew, 0x148, 0, 1, 14, 1, .ro, 0⟩
def CREW_D0_SEATED : Fld := ⟨.crew, 0x148, 0, 1, 15, 1, .ro, 0⟩
def CREW_D0_WEIGHT : Fld := ⟨.crew, 0x148, 0, 1, 16, 16, .ro, 0⟩
def CREW_D0_MODEL : Fld := ⟨.crew, 0x148, 0, 1, 32, 32, .ro, 0⟩
def CREW_D1_SESSIONS : Fld := ⟨.crew, 0x150, 0, 1, 0, 18, .ro, 0⟩
def CREW_D1_ACTIVE : Fld := ⟨.crew, 0x150, 0, 1, 32, 18, .ro, 0⟩
def CREW_V : Fld := ⟨.crew, 0x158, 0, 1, 0, 64, .ro, 0⟩
def CREW_BLADE_US : Fld := ⟨.crew, 0x160, 0, 1, 0, 64, .ro, 0⟩
def CREW_CMB_US : Fld := ⟨.crew, 0x168, 0, 1, 0, 64, .ro, 0⟩
def CREW_WASTE : Fld := ⟨.crew, 0x170, 0, 1, 0, 64, .ro, 0⟩
def CREW_LIVE_SEL_MODEL : Fld := ⟨.crew, 0x180, 0, 1, 0, 32, .wo, 0⟩
def CREW_LIVE_SEL_LEG : Fld := ⟨.crew, 0x180, 0, 1, 32, 16, .wo, 0⟩
def CREW_LIVE_SEL_VALID : Fld := ⟨.crew, 0x180, 0, 1, 48, 1, .ro, 0⟩
def CREW_LIVE_RESIDENT : Fld := ⟨.crew, 0x188, 0, 1, 0, 16, .ro, 0⟩
def CREW_LIVE_CARRY : Fld := ⟨.crew, 0x188, 0, 1, 16, 16, .ro, 0⟩
def CREW_LIVE_CHEAP : Fld := ⟨.crew, 0x188, 0, 1, 32, 1, .ro, 0⟩
def CREW_SPLIT : Fld := ⟨.crew, 0x200, 8, 8, 0, 64, .ro, 0⟩

/-! The `SEC` page: 20 R444 Table 20-7. -/

def SEC_STATUS_MODE : Fld := ⟨.sec, 0x100, 0, 1, 0, 1, .ro, 0⟩
def SEC_STATUS_CONF : Fld := ⟨.sec, 0x100, 0, 1, 1, 1, .ro, 0⟩
def SEC_STATUS_FW_SLOT : Fld := ⟨.sec, 0x100, 0, 1, 2, 1, .ro, 0⟩
def SEC_STATUS_RIG_SLOT : Fld := ⟨.sec, 0x100, 0, 1, 3, 1, .ro, 0⟩
def SEC_STATUS_RIG_VERSION : Fld := ⟨.sec, 0x100, 0, 1, 32, 32, .ro, 0⟩
def SEC_COUNTERS_FW : Fld := ⟨.sec, 0x108, 0, 1, 0, 32, .ro, 0⟩
def SEC_COUNTERS_RIG : Fld := ⟨.sec, 0x108, 0, 1, 32, 32, .ro, 0⟩
def SEC_DROP_PLAIN : Fld := ⟨.sec, 0x110, 0, 1, 0, 32, .rc, 0⟩
def SEC_DOM_SEL_DOMAIN : Fld := ⟨.sec, 0x140, 0, 1, 0, 4, .wo, 0⟩
def SEC_DOM_SEL_VALID : Fld := ⟨.sec, 0x140, 0, 1, 4, 1, .ro, 0⟩
def SEC_DOM_RIGHTS : Fld := ⟨.sec, 0x148, 0, 1, 0, 5, .rw, 0⟩
def SEC_CKEY_SEL_TENANT : Fld := ⟨.sec, 0x150, 0, 1, 0, 12, .wo, 0⟩
def SEC_CKEY_SEL_VALID : Fld := ⟨.sec, 0x150, 0, 1, 12, 1, .ro, 0⟩
def SEC_CKEY : Fld := ⟨.sec, 0x158, 8, 4, 0, 64, .wo, 0⟩
def SEC_CKEY_CTRL_GEN : Fld := ⟨.sec, 0x178, 0, 1, 0, 8, .wo, 0⟩
def SEC_CKEY_CTRL_INSTALL : Fld := ⟨.sec, 0x178, 0, 1, 8, 1, .wo, 0⟩
def SEC_CKEY_CTRL_CUR : Fld := ⟨.sec, 0x178, 0, 1, 16, 8, .ro, 0⟩
def SEC_CKEY_CTRL_PREV : Fld := ⟨.sec, 0x178, 0, 1, 24, 8, .ro, 0⟩
def SEC_CKEY_CTRL_HELD_CUR : Fld := ⟨.sec, 0x178, 0, 1, 32, 1, .ro, 0⟩
def SEC_CKEY_CTRL_HELD_PREV : Fld := ⟨.sec, 0x178, 0, 1, 33, 1, .ro, 0⟩
def SEC_ALLOT_SEL_TENANT : Fld := ⟨.sec, 0x180, 0, 1, 0, 12, .wo, 0⟩
def SEC_ALLOT_SEL_VALID : Fld := ⟨.sec, 0x180, 0, 1, 12, 1, .ro, 0⟩
def SEC_ALLOT_CTRL_APPLY : Fld := ⟨.sec, 0x188, 0, 1, 0, 1, .wo, 0⟩
def SEC_ALLOT_CTRL_PENDING : Fld := ⟨.sec, 0x188, 0, 1, 1, 1, .ro, 0⟩
def SEC_ALLOT_FCH : Fld := ⟨.sec, 0x190, 0, 1, 0, 32, .rw, 0⟩
def SEC_ALLOT_CMBG : Fld := ⟨.sec, 0x198, 0, 1, 0, 16, .rw, 0⟩
def SEC_ALLOT_PC : Fld := ⟨.sec, 0x1A0, 8, 10, 0, 64, .rw, 0⟩
def SEC_DOM_TEN : Fld := ⟨.sec, 0x200, 8, 64, 0, 64, .rw, 0⟩
def SEC_MEAS : Fld := ⟨.sec, 0x400, 8, 32, 0, 64, .ro, 0⟩
def SEC_IDENT_HASH : Fld := ⟨.sec, 0x500, 8, 4, 0, 64, .ro, 0⟩

/-! The `UMP` page: 19 R420 Table 19-7. -/

def UMP_STATUS_STATE : Fld := ⟨.ump, 0x100, 0, 1, 0, 3, .ro, 0⟩
def UMP_STATUS_LINK : Fld := ⟨.ump, 0x100, 0, 1, 4, 1, .ro, 0⟩
def UMP_STATUS_SEAL_OK : Fld := ⟨.ump, 0x100, 0, 1, 5, 1, .ro, 0⟩
def UMP_STATUS_TAMPER : Fld := ⟨.ump, 0x100, 0, 1, 6, 1, .ro, 0⟩
def UMP_STATUS_CLOCK : Fld := ⟨.ump, 0x100, 0, 1, 7, 1, .ro, 0⟩
def UMP_STATUS_LOG_FULL : Fld := ⟨.ump, 0x100, 0, 1, 8, 1, .ro, 0⟩
def UMP_STATUS_EVT_FULL : Fld := ⟨.ump, 0x100, 0, 1, 9, 1, .ro, 0⟩
def UMP_SERIAL : Fld := ⟨.ump, 0x108, 0, 1, 0, 64, .ro, 0⟩
def UMP_FW_HASH : Fld := ⟨.ump, 0x110, 8, 4, 0, 64, .ro, 0⟩
def UMP_KEY_HASH : Fld := ⟨.ump, 0x130, 8, 4, 0, 64, .ro, 0⟩
def UMP_PERIOD_STROKES : Fld := ⟨.ump, 0x150, 0, 1, 0, 32, .ro, 4000⟩
def UMP_SEAL_NUMBER : Fld := ⟨.ump, 0x158, 0, 1, 0, 32, .ro, 0⟩
def UMP_TALLY_STROKE : Fld := ⟨.ump, 0x160, 0, 1, 0, 64, .ro, 0⟩
def UMP_FAULTS_GAPS : Fld := ⟨.ump, 0x168, 0, 1, 0, 32, .ro, 0⟩
def UMP_FAULTS_MISMATCHES : Fld := ⟨.ump, 0x168, 0, 1, 32, 32, .ro, 0⟩
def UMP_LOG_HELD : Fld := ⟨.ump, 0x170, 0, 1, 0, 32, .ro, 0⟩
def UMP_LOG_EVENTS : Fld := ⟨.ump, 0x170, 0, 1, 32, 12, .ro, 0⟩

/-! The `FLT` page: 21 R463 Table 21-9. -/

def FLT_CFG_WINDOW_LOG2 : Fld := ⟨.flt, 0x100, 0, 1, 0, 5, .rwl, 20⟩
def FLT_CFG_CE_ROW : Fld := ⟨.flt, 0x100, 0, 1, 8, 4, .rwl, 4⟩
def FLT_CFG_TRANSIENT_MAX : Fld := ⟨.flt, 0x100, 0, 1, 12, 4, .rwl, 3⟩
def FLT_CFG_ERG_MIN_US : Fld := ⟨.flt, 0x100, 0, 1, 16, 8, .rwl, 20⟩
def FLT_CFG_SCRUB_STROKES : Fld := ⟨.flt, 0x100, 0, 1, 32, 16, .rwl, 4⟩
def FLT_STAT_SUSPECT : Fld := ⟨.flt, 0x108, 0, 1, 0, 16, .ro, 0⟩
def FLT_STAT_TESTS : Fld := ⟨.flt, 0x108, 0, 1, 16, 16, .ro, 0⟩
def FLT_STAT_RECORDS : Fld := ⟨.flt, 0x108, 0, 1, 32, 32, .ro, 0⟩
def FLT_FENCED0_FRAMES : Fld := ⟨.flt, 0x110, 0, 1, 0, 24, .ro, 0⟩
def FLT_FENCED0_HALF_BANKS : Fld := ⟨.flt, 0x110, 0, 1, 24, 17, .ro, 0⟩
def FLT_FENCED1_BLADES : Fld := ⟨.flt, 0x118, 0, 1, 0, 17, .ro, 0⟩
def FLT_FENCED1_PCS : Fld := ⟨.flt, 0x118, 0, 1, 32, 10, .ro, 0⟩
def FLT_FENCED1_LANES : Fld := ⟨.flt, 0x118, 0, 1, 48, 4, .ro, 0⟩
def FLT_FENCED2_ENGINES : Fld := ⟨.flt, 0x120, 0, 1, 0, 8, .ro, 0⟩
def FLT_FENCED2_GROUPS : Fld := ⟨.flt, 0x120, 0, 1, 8, 5, .ro, 0⟩
def FLT_FENCED2_DIES : Fld := ⟨.flt, 0x120, 0, 1, 16, 9, .ro, 0⟩
def FLT_FENCED2_CHANNELS : Fld := ⟨.flt, 0x120, 0, 1, 32, 6, .ro, 0⟩
def FLT_SCRUB_REWRITTEN : Fld := ⟨.flt, 0x128, 0, 1, 0, 32, .rc, 0⟩
def FLT_SCRUB_PASSES : Fld := ⟨.flt, 0x128, 0, 1, 32, 32, .rc, 0⟩
def FLT_LOG_SEL_INDEX : Fld := ⟨.flt, 0x140, 0, 1, 0, 12, .wo, 0⟩
def FLT_LOG_SEL_VALID : Fld := ⟨.flt, 0x140, 0, 1, 12, 1, .ro, 0⟩
def FLT_LOG_HEAD_NEXT : Fld := ⟨.flt, 0x148, 0, 1, 0, 32, .ro, 0⟩
def FLT_LOG : Fld := ⟨.flt, 0x150, 8, 4, 0, 64, .ro, 0⟩
def FLT_FTBL_SEL_ENTRY : Fld := ⟨.flt, 0x180, 0, 1, 0, 12, .wo, 0⟩
def FLT_FTBL_SEL_VALID : Fld := ⟨.flt, 0x180, 0, 1, 12, 1, .ro, 0⟩
def FLT_FTBL_UNIT : Fld := ⟨.flt, 0x188, 0, 1, 0, 32, .ro, 0⟩
def FLT_FTBL_CLASS : Fld := ⟨.flt, 0x188, 0, 1, 32, 5, .ro, 0⟩
def FLT_FTBL_COUNT : Fld := ⟨.flt, 0x188, 0, 1, 40, 2, .ro, 0⟩
def FLT_FTBL_ACTIVE : Fld := ⟨.flt, 0x188, 0, 1, 42, 1, .ro, 0⟩
def FLT_FTBL_TIME : Fld := ⟨.flt, 0x190, 0, 1, 0, 64, .ro, 0⟩
def FLT_FTBL_USED_ENTRIES : Fld := ⟨.flt, 0x198, 0, 1, 0, 13, .ro, 0⟩

/-! The `PORTG` page: 15 R355 Table 15-15. -/

def PORTG_CFG_BREAKOUT : Fld := ⟨.portg, 0x100, 0, 1, 0, 2, .rwl, 0⟩
def PORTG_FEATHER_STATE : Fld := ⟨.portg, 0x108, 0, 1, 0, 2, .ro, 0⟩
def PORTG_FEATHER_WAKE : Fld := ⟨.portg, 0x108, 0, 1, 8, 1, .wo, 0⟩

/-! The `PORT` page: 15 R355 Table 15-16. -/

def PORT_CFG_ENABLE : Fld := ⟨.port, 0x100, 0, 1, 0, 1, .rw, 1⟩
def PORT_CFG_AN : Fld := ⟨.port, 0x100, 0, 1, 1, 1, .rw, 0⟩
def PORT_CFG_PFC_EN : Fld := ⟨.port, 0x100, 0, 1, 2, 1, .rw, 1⟩
def PORT_CFG_PFC_TX_PRIO : Fld := ⟨.port, 0x100, 0, 1, 8, 3, .rw, 3⟩
def PORT_CFG_VLAN_EN : Fld := ⟨.port, 0x100, 0, 1, 11, 1, .rw, 0⟩
def PORT_CFG_VID : Fld := ⟨.port, 0x100, 0, 1, 12, 12, .rw, 0⟩
def PORT_CFG_MACSEC_EN : Fld := ⟨.port, 0x100, 0, 1, 24, 1, .rw, 0⟩
def PORT_CFG_MACSEC_REQ : Fld := ⟨.port, 0x100, 0, 1, 25, 1, .rw, 0⟩
def PORT_CFG_PTP_EN : Fld := ⟨.port, 0x100, 0, 1, 26, 1, .rw, 1⟩
def PORT_CFG_PTP_P2P : Fld := ⟨.port, 0x100, 0, 1, 27, 1, .rw, 0⟩
def PORT_CFG_PTP_DOMAIN : Fld := ⟨.port, 0x100, 0, 1, 28, 8, .rw, 0⟩
def PORT_CFG_PTP_TRANSPORT : Fld := ⟨.port, 0x100, 0, 1, 36, 2, .rw, 0⟩
def PORT_MAC : Fld := ⟨.port, 0x108, 0, 1, 0, 48, .ro, 0⟩
def PORT_IPV4 : Fld := ⟨.port, 0x110, 0, 1, 0, 32, .rw, 0⟩
def PORT_IPV6 : Fld := ⟨.port, 0x118, 8, 2, 0, 64, .rw, 0⟩
def PORT_STATUS_LINK : Fld := ⟨.port, 0x128, 0, 1, 0, 1, .ro, 0⟩
def PORT_STATUS_SPEED : Fld := ⟨.port, 0x128, 0, 1, 1, 3, .ro, 0⟩
def PORT_STATUS_SECURE : Fld := ⟨.port, 0x128, 0, 1, 8, 1, .ro, 0⟩
def PORT_FEC_CORRECTED : Fld := ⟨.port, 0x130, 0, 1, 0, 32, .rc, 0⟩
def PORT_FEC_UNCORR : Fld := ⟨.port, 0x130, 0, 1, 32, 32, .rc, 0⟩
def PORT_DROP_FRAME : Fld := ⟨.port, 0x138, 0, 1, 0, 32, .rc, 0⟩
def PORT_DROP_MACSEC : Fld := ⟨.port, 0x138, 0, 1, 32, 32, .rc, 0⟩
def PORT_MKA_KS_PRIO : Fld := ⟨.port, 0x140, 0, 1, 0, 8, .rw, 255⟩
def PORT_MKA_REPLAY_WIN : Fld := ⟨.port, 0x140, 0, 1, 32, 32, .rw, 0⟩
def PORT_PAUSE_RX : Fld := ⟨.port, 0x148, 0, 1, 0, 32, .rc, 0⟩
def PORT_PAUSE_TX : Fld := ⟨.port, 0x148, 0, 1, 32, 32, .rc, 0⟩

/-! The `EGQ` page: 16 R367 Table 16-2. -/

def EGQ_SEL_PORT : Fld := ⟨.egq, 0x100, 0, 1, 0, 1, .rw, 0⟩
def EGQ_SEL_QUEUE : Fld := ⟨.egq, 0x100, 0, 1, 8, 6, .rw, 0⟩
def EGQ_Q_CFG_WEIGHT : Fld := ⟨.egq, 0x108, 0, 1, 0, 8, .rw, 16⟩
def EGQ_Q_CFG_STRICT : Fld := ⟨.egq, 0x108, 0, 1, 8, 1, .rw, 0⟩
def EGQ_Q_CFG_POLICE_EN : Fld := ⟨.egq, 0x108, 0, 1, 9, 1, .rw, 0⟩
def EGQ_Q_CFG_MODE : Fld := ⟨.egq, 0x108, 0, 1, 10, 1, .rw, 0⟩
def EGQ_Q_CFG_REFILL : Fld := ⟨.egq, 0x108, 0, 1, 11, 1, .rw, 1⟩
def EGQ_Q_CFG_PCP : Fld := ⟨.egq, 0x108, 0, 1, 12, 3, .rw, 0⟩
def EGQ_Q_CFG_DSCP : Fld := ⟨.egq, 0x108, 0, 1, 16, 6, .rw, 0⟩
def EGQ_Q_RATE_CIR : Fld := ⟨.egq, 0x110, 0, 1, 0, 32, .rw, 800000⟩
def EGQ_Q_RATE_PIR : Fld := ⟨.egq, 0x110, 0, 1, 32, 32, .rw, 800000⟩
def EGQ_Q_BURST_CBS : Fld := ⟨.egq, 0x118, 0, 1, 0, 32, .rw, 262144⟩
def EGQ_Q_BURST_PBS : Fld := ⟨.egq, 0x118, 0, 1, 32, 32, .rw, 262144⟩
def EGQ_Q_TOKENS_TC : Fld := ⟨.egq, 0x120, 0, 1, 0, 32, .ro, 262144⟩
def EGQ_Q_TOKENS_TP : Fld := ⟨.egq, 0x120, 0, 1, 32, 32, .ro, 262144⟩
def EGQ_Q_BYTES : Fld := ⟨.egq, 0x128, 0, 1, 0, 64, .rc, 0⟩
def EGQ_Q_COLOUR_YELLOW : Fld := ⟨.egq, 0x130, 0, 1, 0, 32, .rc, 0⟩
def EGQ_Q_COLOUR_RED : Fld := ⟨.egq, 0x130, 0, 1, 32, 32, .rc, 0⟩
def EGQ_Q_GATE_WAITS : Fld := ⟨.egq, 0x138, 0, 1, 0, 32, .rc, 0⟩
def EGQ_Q_FINISH : Fld := ⟨.egq, 0x140, 0, 1, 0, 64, .ro, 0⟩
def EGQ_GCL_SEL_IFACE : Fld := ⟨.egq, 0x180, 0, 1, 0, 2, .rw, 0⟩
def EGQ_GCL_CTRL_COUNT : Fld := ⟨.egq, 0x188, 0, 1, 0, 6, .rw, 1⟩
def EGQ_GCL_CTRL_COMMIT : Fld := ⟨.egq, 0x188, 0, 1, 8, 1, .wo, 0⟩
def EGQ_GCL_CTRL_PENDING : Fld := ⟨.egq, 0x188, 0, 1, 9, 1, .ro, 0⟩
def EGQ_V : Fld := ⟨.egq, 0x190, 0, 1, 0, 64, .ro, 0⟩
def EGQ_MAP_SEL_DOMAIN : Fld := ⟨.egq, 0x198, 0, 1, 0, 4, .rw, 0⟩
def EGQ_MAP_CTRL : Fld := ⟨.egq, 0x1A0, 0, 1, 0, 6, .rw, 0⟩
def EGQ_MAP_STREAM : Fld := ⟨.egq, 0x1A0, 0, 1, 8, 6, .rw, 1⟩
def EGQ_MAP_RECEIPT : Fld := ⟨.egq, 0x1A0, 0, 1, 16, 6, .rw, 2⟩
def EGQ_MAP_EVENT : Fld := ⟨.egq, 0x1A0, 0, 1, 24, 6, .rw, 0⟩
def EGQ_GCL_DURATION_NS : Fld := ⟨.egq, 0x200, 16, 32, 0, 32, .rw, 0⟩
def EGQ_GCL_MASK : Fld := ⟨.egq, 0x208, 16, 32, 0, 64, .rw, 0⟩

/-! The `BWP` page: 15 R355 Table 15-17. -/

def BWP_CFG_UDP_PORT : Fld := ⟨.bwp, 0x100, 0, 1, 0, 16, .rwl, 47040⟩
def BWP_CFG_RTO_US : Fld := ⟨.bwp, 0x100, 0, 1, 16, 16, .rwl, 100⟩
def BWP_CFG_RETRIES : Fld := ⟨.bwp, 0x100, 0, 1, 32, 4, .rwl, 8⟩
def BWP_CFG_JUMBO : Fld := ⟨.bwp, 0x100, 0, 1, 36, 1, .rwl, 1⟩
def BWP_CFG_ACK_DELAY_US : Fld := ⟨.bwp, 0x100, 0, 1, 40, 8, .rwl, 10⟩
def BWP_CFG_WINDOW : Fld := ⟨.bwp, 0x100, 0, 1, 48, 11, .rwl, 256⟩
def BWP_CFG2_LINGER_MS : Fld := ⟨.bwp, 0x108, 0, 1, 0, 16, .rwl, 1000⟩
def BWP_CFG2_IDLE_S : Fld := ⟨.bwp, 0x108, 0, 1, 16, 16, .rwl, 60⟩
def BWP_STAT_ASSOCS : Fld := ⟨.bwp, 0x110, 0, 1, 0, 7, .ro, 0⟩
def BWP_STAT_LOST : Fld := ⟨.bwp, 0x110, 0, 1, 32, 32, .rc, 0⟩
def BWP_RETX_SENT : Fld := ⟨.bwp, 0x118, 0, 1, 0, 32, .rc, 0⟩
def BWP_RETX_DUP : Fld := ⟨.bwp, 0x118, 0, 1, 32, 32, .rc, 0⟩
def BWP_AUTH_FAIL : Fld := ⟨.bwp, 0x120, 0, 1, 0, 32, .rc, 0⟩
def BWP_QP_USED : Fld := ⟨.bwp, 0x128, 0, 1, 0, 13, .ro, 0⟩
def BWP_QP_CNP_RX : Fld := ⟨.bwp, 0x128, 0, 1, 32, 32, .rc, 0⟩
def BWP_DOM_SEL_DOMAIN : Fld := ⟨.bwp, 0x140, 0, 1, 0, 4, .wo, 0⟩
def BWP_DOM_SEL_VALID : Fld := ⟨.bwp, 0x140, 0, 1, 4, 1, .ro, 0⟩
def BWP_DOM_EVENTS : Fld := ⟨.bwp, 0x148, 0, 1, 0, 1, .rw, 1⟩
def BWP_DOM_ASSOCS : Fld := ⟨.bwp, 0x148, 0, 1, 8, 8, .ro, 0⟩
def BWP_DOM_IMPORT_RKEY : Fld := ⟨.bwp, 0x148, 0, 1, 32, 32, .ro, 0⟩
def BWP_DOM_EVT_LOST : Fld := ⟨.bwp, 0x150, 0, 1, 0, 32, .rc, 0⟩
def BWP_ASSOC_SEL_ASSOC : Fld := ⟨.bwp, 0x180, 0, 1, 0, 6, .wo, 0⟩
def BWP_ASSOC_SEL_VALID : Fld := ⟨.bwp, 0x180, 0, 1, 8, 1, .ro, 0⟩
def BWP_ASSOC0_ID : Fld := ⟨.bwp, 0x188, 0, 1, 0, 32, .ro, 0⟩
def BWP_ASSOC0_DOMAIN : Fld := ⟨.bwp, 0x188, 0, 1, 32, 4, .ro, 0⟩
def BWP_ASSOC0_IFACE : Fld := ⟨.bwp, 0x188, 0, 1, 36, 2, .ro, 0⟩
def BWP_ASSOC0_STATE : Fld := ⟨.bwp, 0x188, 0, 1, 38, 2, .ro, 0⟩
def BWP_ASSOC0_EVENTS : Fld := ⟨.bwp, 0x188, 0, 1, 40, 1, .ro, 0⟩
def BWP_ASSOC_Q : Fld := ⟨.bwp, 0x190, 0, 1, 0, 64, .ro, 0⟩
def BWP_ASSOC_SEQ_RX : Fld := ⟨.bwp, 0x198, 0, 1, 0, 32, .ro, 0⟩
def BWP_ASSOC_SEQ_TX : Fld := ⟨.bwp, 0x198, 0, 1, 32, 32, .ro, 0⟩

/-! The `FSHG` page: 12 R290 Table 12-9. -/

def FSHG_CFG_SEARCH_PCT : Fld := ⟨.fshg, 0x100, 0, 1, 0, 8, .rwl, 50⟩
def FSHG_CFG_COMMIT_STROKES : Fld := ⟨.fshg, 0x100, 0, 1, 16, 16, .rwl, 32⟩
def FSHG_CFG_REPAIR_PCT : Fld := ⟨.fshg, 0x100, 0, 1, 32, 8, .rwl, 10⟩
def FSHG_CFG_COMPACT_SLOTS : Fld := ⟨.fshg, 0x100, 0, 1, 40, 4, .rwl, 4⟩
def FSHG_TIMING_RD_MAX_NS : Fld := ⟨.fshg, 0x108, 0, 1, 0, 32, .ro, 80000⟩
def FSHG_WALK_USED : Fld := ⟨.fshg, 0x110, 0, 1, 0, 16, .ro, 0⟩
def FSHG_WALK_WAITING : Fld := ⟨.fshg, 0x110, 0, 1, 32, 17, .ro, 0⟩
def FSHG_IDX_COUNT : Fld := ⟨.fshg, 0x118, 0, 1, 0, 11, .ro, 0⟩
def FSHG_IDX_SEL_INDEX : Fld := ⟨.fshg, 0x140, 0, 1, 0, 16, .wo, 0⟩
def FSHG_IDX_SEL_VALID : Fld := ⟨.fshg, 0x140, 0, 1, 16, 1, .ro, 0⟩
def FSHG_IDX0 : Fld := ⟨.fshg, 0x148, 0, 1, 0, 49, .ro, 0⟩
def FSHG_IDX1_NODES : Fld := ⟨.fshg, 0x150, 0, 1, 0, 32, .ro, 0⟩
def FSHG_IDX1_DEAD : Fld := ⟨.fshg, 0x150, 0, 1, 32, 32, .ro, 0⟩
def FSHG_IDX2_VERSION : Fld := ⟨.fshg, 0x158, 0, 1, 0, 32, .ro, 0⟩
def FSHG_IDX2_REPAIRING : Fld := ⟨.fshg, 0x158, 0, 1, 32, 1, .ro, 0⟩
def FSHG_IDX3_CAP_M1 : Fld := ⟨.fshg, 0x160, 0, 1, 0, 32, .ro, 0⟩

/-! The `FCH` page: 12 R291 Table 12-10. -/

def FCH_READS_NODE : Fld := ⟨.fch, 0x100, 0, 1, 0, 32, .rc, 0⟩
def FCH_READS_COALESCED : Fld := ⟨.fch, 0x100, 0, 1, 32, 32, .rc, 0⟩
def FCH_DEAD_EDGES : Fld := ⟨.fch, 0x108, 0, 1, 0, 32, .rc, 0⟩
def FCH_WALK_USED : Fld := ⟨.fch, 0x110, 0, 1, 0, 11, .ro, 0⟩
def FCH_LOST_SLOTS : Fld := ⟨.fch, 0x118, 0, 1, 0, 32, .rc, 0⟩

/-! The `LANE` page: 08 R191 Table 08-6. -/

def LANE_GOV_CAP_W : Fld := ⟨.lane, 0x100, 0, 1, 0, 7, .rw, 48⟩
def LANE_GOV_MODE : Fld := ⟨.lane, 0x100, 0, 1, 8, 2, .rw, 0⟩
def LANE_GOV_HOLD_STROKES : Fld := ⟨.lane, 0x100, 0, 1, 12, 20, .rw, 0⟩
def LANE_GOV_TARGET_C : Fld := ⟨.lane, 0x100, 0, 1, 32, 8, .rw, 85⟩
def LANE_GOV_STATUS_CAP_NOW : Fld := ⟨.lane, 0x108, 0, 1, 0, 16, .ro, 0⟩
def LANE_GOV_STATUS_LIMITER : Fld := ⟨.lane, 0x108, 0, 1, 16, 4, .ro, 0⟩
def LANE_GOV_STATUS_HOT : Fld := ⟨.lane, 0x108, 0, 1, 20, 1, .ro, 0⟩
def LANE_GOV_STATUS_HOLD_LEFT : Fld := ⟨.lane, 0x108, 0, 1, 32, 20, .ro, 0⟩
def LANE_ADAPT_CAP : Fld := ⟨.lane, 0x110, 0, 1, 0, 16, .ro, 0⟩
def LANE_TEMP_CORE_MAX : Fld := ⟨.lane, 0x118, 0, 1, 0, 8, .ro, 0⟩
def LANE_TEMP_LANE_DIE : Fld := ⟨.lane, 0x118, 0, 1, 8, 8, .ro, 0⟩
def LANE_TEMP_PREDICT : Fld := ⟨.lane, 0x118, 0, 1, 16, 8, .ro, 0⟩
def LANE_TEMP_HOT_DIE : Fld := ⟨.lane, 0x118, 0, 1, 24, 4, .ro, 0⟩
def LANE_THERM_LIMIT_C : Fld := ⟨.lane, 0x120, 0, 1, 0, 8, .ro, 95⟩
def LANE_THERM_CLEAR_C : Fld := ⟨.lane, 0x120, 0, 1, 8, 8, .ro, 90⟩
def LANE_THERM_TRIP_C : Fld := ⟨.lane, 0x120, 0, 1, 16, 8, .ro, 105⟩
def LANE_COEF_E_PULL_PJ : Fld := ⟨.lane, 0x128, 0, 1, 0, 16, .ro, 3100⟩
def LANE_COEF_E_BUS_FJ : Fld := ⟨.lane, 0x128, 0, 1, 16, 16, .ro, 25000⟩
def LANE_COEF_P_IDLE_MW : Fld := ⟨.lane, 0x128, 0, 1, 32, 32, .ro, 12000⟩
def LANE_ENERGY_LAST_UJ : Fld := ⟨.lane, 0x130, 0, 1, 0, 32, .ro, 0⟩
def LANE_ENERGY_OVER : Fld := ⟨.lane, 0x130, 0, 1, 32, 32, .rc, 0⟩
def LANE_COLD_LEFT : Fld := ⟨.lane, 0x138, 0, 1, 0, 16, .ro, 4000⟩
def LANE_OVERRIDE_COUNT : Fld := ⟨.lane, 0x140, 0, 1, 0, 32, .rc, 0⟩
def LANE_REDUCE_PEAK_WORDS : Fld := ⟨.lane, 0x148, 0, 1, 0, 19, .rc, 0⟩
def LANE_REDUCE_TAGS : Fld := ⟨.lane, 0x148, 0, 1, 32, 16, .ro, 0⟩
def LANE_REFRESH_FORCED : Fld := ⟨.lane, 0x150, 0, 1, 0, 32, .rc, 0⟩

/-! The `CMBG` page: 09 R218 Table 09-12. -/

def CMBG_BUSY_NS : Fld := ⟨.cmbg, 0x100, 0, 1, 0, 32, .ro, 0⟩
def CMBG_BUSY_PEAK_NS : Fld := ⟨.cmbg, 0x100, 0, 1, 32, 32, .rc, 0⟩
def CMBG_SAT_COUNT : Fld := ⟨.cmbg, 0x108, 0, 1, 0, 32, .rc, 0⟩
def CMBG_POISON_LEGS : Fld := ⟨.cmbg, 0x110, 0, 1, 0, 32, .rc, 0⟩
def CMBG_FENCE_ENGINES : Fld := ⟨.cmbg, 0x118, 0, 1, 0, 8, .ro, 0⟩
def CMBG_STORE_BYTES : Fld := ⟨.cmbg, 0x120, 0, 1, 0, 32, .ro, 0⟩

/-! The `PCH` page: 08 R192 Table 08-7. -/

def PCH_FENCE0 : Fld := ⟨.pch, 0x100, 0, 1, 0, 64, .ro, 0⟩
def PCH_FENCE1 : Fld := ⟨.pch, 0x108, 0, 1, 0, 64, .ro, 0⟩
def PCH_CW_CORRECTED : Fld := ⟨.pch, 0x110, 0, 1, 0, 32, .rc, 0⟩
def PCH_CW_UNCORR : Fld := ⟨.pch, 0x110, 0, 1, 32, 32, .rc, 0⟩
def PCH_CONV_COUNT : Fld := ⟨.pch, 0x118, 0, 1, 0, 32, .rc, 0⟩
def PCH_POISON_LEGS : Fld := ⟨.pch, 0x120, 0, 1, 0, 32, .rc, 0⟩
def PCH_LBUS_BYTES : Fld := ⟨.pch, 0x128, 0, 1, 0, 64, .rc, 0⟩
def PCH_LBUS_ERR_PARITY : Fld := ⟨.pch, 0x130, 0, 1, 0, 32, .rc, 0⟩
def PCH_REFRESH_PLANNED : Fld := ⟨.pch, 0x138, 0, 1, 0, 32, .rc, 0⟩
def PCH_REFRESH_FORCED : Fld := ⟨.pch, 0x138, 0, 1, 32, 32, .rc, 0⟩
def PCH_CSLOT_GRANTED : Fld := ⟨.pch, 0x140, 0, 1, 0, 32, .rc, 0⟩
def PCH_CSLOT_DEFERRED : Fld := ⟨.pch, 0x140, 0, 1, 32, 32, .rc, 0⟩
def PCH_BLADE_SEL_BLADE : Fld := ⟨.pch, 0x148, 0, 1, 0, 7, .wo, 0⟩
def PCH_BLADE_SEL_VALID : Fld := ⟨.pch, 0x148, 0, 1, 8, 1, .ro, 0⟩
def PCH_BLADE_STATE_ENTRY : Fld := ⟨.pch, 0x150, 0, 1, 0, 10, .ro, 0⟩
def PCH_BLADE_STATE_STATE : Fld := ⟨.pch, 0x150, 0, 1, 12, 2, .ro, 0⟩
def PCH_BLADE_STATE_OWED : Fld := ⟨.pch, 0x150, 0, 1, 16, 4, .ro, 0⟩

end R

/-- The common header fields that a page stores (02 R26). -/
def headerFields : List Fld :=
  [R.BLOCK_ID_PAGE, R.BLOCK_ID_TYPE, R.BLOCK_ID_INST, R.BLOCK_VER_MINOR, R.BLOCK_VER_MAJOR, R.CTRL_LOCK, R.STATUS_STATE, R.EVT_STATUS_ALL, R.EVT_ENABLE_ALL, R.EVT_FORCE_ALL, R.ERR_FIRST_CODE, R.ERR_FIRST_UNIT, R.ERR_FIRST_STROKE, R.ERR_COUNT_COUNT, R.FENCE_UNITS, R.FENCE_WHOLE, R.FENCE_BLOCK]

def devFields : List Fld :=
  [R.DEV_IDENT_VENDOR, R.DEV_IDENT_PART, R.DEV_IDENT_STEP, R.DEV_SERIAL, R.FW_VER_PATCH, R.FW_VER_MINOR, R.FW_VER_MAJOR,
   R.FW_VER_BUILD, R.UMP_FW_VER, R.SVC_LEVEL_LEVEL, R.SVC_LEVEL_REDUCED, R.GEO_GEN_GEN, R.GEO_ITEM, R.GEO_UNIT,
   R.GEO_VALUE]

def clkFields : List Fld :=
  [R.CLK_STATUS_ARITH_LOCK, R.CLK_STATUS_LANE_LOCK, R.CLK_STATUS_PORT_LOCK, R.CLK_STATUS_FLASH_LOCK, R.CLK_RELOCK_COUNT,
   R.CLK_BLADE_COUNT, R.CLK_FREQ_ARITH_KHZ, R.CLK_FREQ_BLADE_KHZ]

def bootFields : List Fld :=
  [R.BOOT_CAUSE_CAUSE, R.BOOT_CAUSE_HW_RAN, R.BOOT_CTRL_RESET, R.BOOT_CFG_QUICK, R.BOOT_CFG_WDOG_MS,
   R.BOOT_TIME0_SL0_MS, R.BOOT_TIME0_SL1_MS, R.BOOT_TIME1_SL2_MS, R.BOOT_TIME1_SL3_MS, R.BOOT_LANES_ONLINE,
   R.BOOT_LANES_TRAINED, R.BOOT_LANES_COVERING, R.BOOT_LANES_HB_DONE, R.BOOT_COVER_HB_TESTED, R.BOOT_COVER_HB_FAILED,
   R.BOOT_COLD_ADVICE_LEFT, R.BOOT_COLD_SPLIT_LEFT]

def pwrFields : List Fld :=
  [R.PWR_IN_VOLT_MV, R.PWR_IN_CURR_MA, R.PWR_IN_POWER_W, R.PWR_CFG_TDP_W, R.PWR_CFG_RETEST_H, R.PWR_CFG_BUDGET_MAX,
   R.PWR_FACTOR_F, R.HOLDUP_STATUS_STATE, R.HOLDUP_STATUS_BANK_MV, R.HOLDUP_MEAS_CAP_UF, R.HOLDUP_MEAS_ESR_UOHM,
   R.HOLDUP_ENERGY_E_MJ, R.HOLDUP_ENERGY_HOLD_US, R.HOLDUP_CTRL_RETEST, R.HW_LAST0_CAUSE, R.HW_LAST0_COMPLETE,
   R.HW_LAST_STROKE, R.HW_LAST_PAGES_FLUSHED, R.HW_LAST_PAGES_LOST, R.HW_LAST1_FLUSH_US, R.HW_LAST1_BANK_END_MV]

def stkFields : List Fld :=
  [R.STK_CFG_PERIOD_US, R.STK_CFG_CATCH_US, R.STK_CTRL_ALIGN, R.STK_ORIGIN, R.STK_NUMBER, R.STK_TIME,
   R.STK_TIME_CFG_SRC, R.STK_TIME_CFG_PPS_MODE, R.STK_TIME_CFG_LOCK_NS, R.STK_TIME_CFG_PPS_DIV, R.STK_TIME_SET,
   R.STK_TIME_STATUS_LOCK, R.STK_TIME_STATUS_STEPPED, R.STK_TIME_STATUS_PORT, R.STK_TIME_OFFSET, R.STK_FREQ_ADJ,
   R.STK_LOAD_GRANTED, R.STK_LOAD_DEFERRED, R.STK_OVERRUN_COUNT, R.STK_DRIVE_W_NS, R.STK_NOFIT_REASON,
   R.STK_NOFIT_LANE, R.STK_NOFIT_LEG, R.STK_NOFIT_MODEL, R.STK_FIT_SEL_MODEL, R.STK_FIT_SEL_LEG, R.STK_FIT_SEL_VALID,
   R.STK_FIT]

def sesFields : List Fld :=
  [R.SES_CFG_IDLE_STROKES, R.SES_COUNT0_OPEN, R.SES_COUNT0_ACTIVE, R.SES_COUNT1_WAITING, R.SES_COUNT1_PARKED,
   R.SES_STALE_COUNT, R.SES_LOOKUP_SESSION, R.SES_LOOKUP_VALID, R.SES_DESC]

def pfxFields : List Fld :=
  [R.PFX_CFG_ENABLE, R.PFX_CFG_FREE_LOW, R.PFX_NODES_USED, R.PFX_NODES_CAPACITY, R.PFX_HITS_SPANS, R.PFX_MISS_SPANS,
   R.PFX_COLLIDE_COUNT, R.PFX_EVICT_DEMOTED, R.PFX_EVICT_DROPPED, R.PFX_INSERT_SKIP_COUNT, R.PFX_TEN_SEL_TENANT,
   R.PFX_TEN_SEL_VALID, R.PFX_TEN_CFG_PUBLISH_SPANS, R.PFX_TEN_CFG_KEY_MODE, R.PFX_TEN_CFG_KEY_GEN,
   R.PFX_TEN_CFG_ROTATE, R.PFX_TEN_KEY0, R.PFX_TEN_KEY1, R.PFX_TEN_USE_NODES, R.PFX_TEN_USE_PAGES_H,
   R.PFX_NODE_SEL_NODE, R.PFX_NODE_SEL_VALID, R.PFX_NODE]

def tierFields : List Fld :=
  [R.TIER_CFG_CLEAN_START, R.TIER_CFG_CLEAN_PROTECT, R.TIER_CFG_QUOTA_WAIT, R.TIER_CFG_LOW_PCT, R.TIER_CFG_ADVICE_EN,
   R.TIER_CFG_ADVICE_MIN, R.TIER_H_FRAMES, R.TIER_H_FREE, R.TIER_F_FRAMES, R.TIER_F_FREE, R.TIER_DIRTY_PAGES,
   R.TIER_DIRTY_BUDGET, R.TIER_HOLD_COUNT, R.TIER_OVERRIDE_COUNT, R.TIER_ALLOT_USED, R.TIER_TEN_SEL_TENANT,
   R.TIER_TEN_SEL_VALID, R.TIER_TEN_QH_QUOTA, R.TIER_TEN_QH_USE, R.TIER_TEN_QF_QUOTA, R.TIER_TEN_QF_USE,
   R.TIER_TEN_OPS_LIMIT, R.TIER_TEN_OPS_USE, R.TIER_TEN_DIRTY_PAGES, R.TIER_SAS_SEL_PAGE, R.TIER_SAS_SEL_VALID,
   R.TIER_PTE]

def movFields : List Fld :=
  [R.MOV_CFG_FINAL_US, R.MOV_CFG_BG_FLOOR, R.MOV_STAT_ACTIVE, R.MOV_STAT_PEAK, R.MOV_BYTES_HF, R.MOV_BYTES_FH,
   R.MOV_BYTES_NET, R.MOV_BYTES_HH, R.MOV_NOCONV_COUNT, R.MOV_NOCONV_HELD, R.MOV_OP_SEL_OP, R.MOV_OP_SEL_VALID,
   R.MOV_OP]

def ckpFields : List Fld :=
  [R.CKP_CFG_CLASS, R.CKP_CFG_CHAIN_MAX, R.CKP_CFG_WAIT, R.CKP_BYTES, R.CKP_DEDUP_PAGES, R.CKP_DEDUP_SKIPPED,
   R.CKP_TGT_SEL_TENANT, R.CKP_TGT_SEL_VALID, R.CKP_TGT0_ENABLE, R.CKP_TGT0_QP, R.CKP_TGT0_RKEY, R.CKP_TGT_ADDR,
   R.CKP_TGT_LEN, R.CKP_TGT_WRITE, R.CKP_TGT_RELEASE, R.CKP_TGT_EPOCH, R.CKP_TGT_OLDEST, R.CKP_TGT_DIGESTS_USED,
   R.CKP_TGT_DIGESTS_CAPACITY, R.CKP_TRUST]

def txtFields : List Fld :=
  [R.TXT_CFG_PRELOAD, R.TXT_CFG_PRELOAD_RANKS, R.TXT_CTX_USED, R.TXT_CTX_SESSIONS, R.TXT_IN_BYTES, R.TXT_REPL_IN,
   R.TXT_REPL_OUT, R.TXT_TRUNC_BYTES, R.TXT_TRUNC_TOKENS, R.TXT_CACHE_HITS, R.TXT_CACHE_MISSES, R.TXT_REPORT_STOPS,
   R.TXT_REPORT_END_TURN, R.TXT_VOCAB_SEL_MODEL, R.TXT_VOCAB_SEL_VALID, R.TXT_VOCAB_VERSION, R.TXT_VOCAB_OLD,
   R.TXT_VOCAB_ENTRIES]

def grmFields : List Fld :=
  [R.GRM_MASK_LAST_NS, R.GRM_MASK_PEAK_NS, R.GRM_WAIT_LEGS, R.GRM_SEL_TABLE, R.GRM_SEL_VALID, R.GRM_TABLE0_VERSION,
   R.GRM_TABLE0_OLD, R.GRM_TABLE0_STATES, R.GRM_TABLE1_BOUND, R.GRM_TABLE1_OLD_BOUND, R.GRM_REJECT_STEPS,
   R.GRM_REJECT_STATES, R.GRM_STORE_USED]

def gsxFields : List Fld :=
  [R.GSX_STAT_TABLES, R.GSX_INDEX_INVALID, R.GSX_ROWS_READ, R.GSX_DUP_MAX, R.GSX_DUP_ROW, R.GSX_TBL_SEL_TABLE,
   R.GSX_TBL_SEL_VALID, R.GSX_TBL0_VERSION, R.GSX_TBL0_OLD, R.GSX_TBL0_TENANT, R.GSX_TBL0_UPDATABLE,
   R.GSX_TBL1_ROWS_M1, R.GSX_TBL1_UNSEALED]

def cmbFields : List Fld :=
  [R.CMB_CFG_APPEND_K, R.CMB_PLAN_SEL_MODEL, R.CMB_PLAN_SEL_VALID, R.CMB_PLAN_SEL_TENANT, R.CMB_PLAN0_VERSION,
   R.CMB_PLAN0_OLD, R.CMB_PLAN0_SEALED, R.CMB_PLAN1_SESSIONS, R.CMB_PLAN1_OLD_STEPS, R.CMB_IMPORT_NAK,
   R.CMB_IMPORT_GAP, R.CMB_LOGIT_RECORDS, R.CMB_LOGIT_NAN, R.CMB_EXPERT_SKIPPED, R.CMB_EXPERT_PRIVATE,
   R.CMB_LC_CFG_SINK, R.CMB_LC_CFG_RECENT, R.CMB_LC_CFG_SEL, R.CMB_LC_CFG_FETCH_WAIT, R.CMB_LC_STAT_SHORT,
   R.CMB_LC_STAT_STALE, R.CMB_LC_IDX_PENDING, R.CMB_LC_IDX_BUILT, R.CMB_COURSE_SEL_CREW, R.CMB_COURSE_SEL_VALID,
   R.CMB_COURSE0_NODE, R.CMB_COURSE0_WIN, R.CMB_COURSE0_SESSIONS, R.CMB_COURSE1_STALL, R.CMB_COURSE1_STEP_STROKES,
   R.CMB_COURSE_CFG_WAIT]

def crewFields : List Fld :=
  [R.CREW_CFG_HOLD_MAX, R.CREW_CFG_SPLIT_STROKES, R.CREW_CFG_SPLIT_MIN, R.CREW_STAT_CREWS, R.CREW_STAT_SEATED,
   R.CREW_VMIN, R.CREW_SWITCH_ORDINARY, R.CREW_SWITCH_EXCHANGE, R.CREW_PREEMPT_COUNT, R.CREW_PREEMPT_FAIL,
   R.CREW_STORE_IMAGES, R.CREW_STORE_USED, R.CREW_SEL_CREW, R.CREW_SEL_VALID, R.CREW_D0_TENANT, R.CREW_D0_FAST,
   R.CREW_D0_AUTO, R.CREW_D0_SPLIT, R.CREW_D0_SEATED, R.CREW_D0_WEIGHT, R.CREW_D0_MODEL, R.CREW_D1_SESSIONS,
   R.CREW_D1_ACTIVE, R.CREW_V, R.CREW_BLADE_US, R.CREW_CMB_US, R.CREW_WASTE, R.CREW_LIVE_SEL_MODEL,
   R.CREW_LIVE_SEL_LEG, R.CREW_LIVE_SEL_VALID, R.CREW_LIVE_RESIDENT, R.CREW_LIVE_CARRY, R.CREW_LIVE_CHEAP,
   R.CREW_SPLIT]

def secFields : List Fld :=
  [R.SEC_STATUS_MODE, R.SEC_STATUS_CONF, R.SEC_STATUS_FW_SLOT, R.SEC_STATUS_RIG_SLOT, R.SEC_STATUS_RIG_VERSION,
   R.SEC_COUNTERS_FW, R.SEC_COUNTERS_RIG, R.SEC_DROP_PLAIN, R.SEC_DOM_SEL_DOMAIN, R.SEC_DOM_SEL_VALID,
   R.SEC_DOM_RIGHTS, R.SEC_CKEY_SEL_TENANT, R.SEC_CKEY_SEL_VALID, R.SEC_CKEY, R.SEC_CKEY_CTRL_GEN,
   R.SEC_CKEY_CTRL_INSTALL, R.SEC_CKEY_CTRL_CUR, R.SEC_CKEY_CTRL_PREV, R.SEC_CKEY_CTRL_HELD_CUR,
   R.SEC_CKEY_CTRL_HELD_PREV, R.SEC_ALLOT_SEL_TENANT, R.SEC_ALLOT_SEL_VALID, R.SEC_ALLOT_CTRL_APPLY,
   R.SEC_ALLOT_CTRL_PENDING, R.SEC_ALLOT_FCH, R.SEC_ALLOT_CMBG, R.SEC_ALLOT_PC, R.SEC_DOM_TEN, R.SEC_MEAS,
   R.SEC_IDENT_HASH]

def umpFields : List Fld :=
  [R.UMP_STATUS_STATE, R.UMP_STATUS_LINK, R.UMP_STATUS_SEAL_OK, R.UMP_STATUS_TAMPER, R.UMP_STATUS_CLOCK,
   R.UMP_STATUS_LOG_FULL, R.UMP_STATUS_EVT_FULL, R.UMP_SERIAL, R.UMP_FW_HASH, R.UMP_KEY_HASH, R.UMP_PERIOD_STROKES,
   R.UMP_SEAL_NUMBER, R.UMP_TALLY_STROKE, R.UMP_FAULTS_GAPS, R.UMP_FAULTS_MISMATCHES, R.UMP_LOG_HELD,
   R.UMP_LOG_EVENTS]

def fltFields : List Fld :=
  [R.FLT_CFG_WINDOW_LOG2, R.FLT_CFG_CE_ROW, R.FLT_CFG_TRANSIENT_MAX, R.FLT_CFG_ERG_MIN_US, R.FLT_CFG_SCRUB_STROKES,
   R.FLT_STAT_SUSPECT, R.FLT_STAT_TESTS, R.FLT_STAT_RECORDS, R.FLT_FENCED0_FRAMES, R.FLT_FENCED0_HALF_BANKS,
   R.FLT_FENCED1_BLADES, R.FLT_FENCED1_PCS, R.FLT_FENCED1_LANES, R.FLT_FENCED2_ENGINES, R.FLT_FENCED2_GROUPS,
   R.FLT_FENCED2_DIES, R.FLT_FENCED2_CHANNELS, R.FLT_SCRUB_REWRITTEN, R.FLT_SCRUB_PASSES, R.FLT_LOG_SEL_INDEX,
   R.FLT_LOG_SEL_VALID, R.FLT_LOG_HEAD_NEXT, R.FLT_LOG, R.FLT_FTBL_SEL_ENTRY, R.FLT_FTBL_SEL_VALID, R.FLT_FTBL_UNIT,
   R.FLT_FTBL_CLASS, R.FLT_FTBL_COUNT, R.FLT_FTBL_ACTIVE, R.FLT_FTBL_TIME, R.FLT_FTBL_USED_ENTRIES]

def portgFields : List Fld :=
  [R.PORTG_CFG_BREAKOUT, R.PORTG_FEATHER_STATE, R.PORTG_FEATHER_WAKE]

def portFields : List Fld :=
  [R.PORT_CFG_ENABLE, R.PORT_CFG_AN, R.PORT_CFG_PFC_EN, R.PORT_CFG_PFC_TX_PRIO, R.PORT_CFG_VLAN_EN, R.PORT_CFG_VID,
   R.PORT_CFG_MACSEC_EN, R.PORT_CFG_MACSEC_REQ, R.PORT_CFG_PTP_EN, R.PORT_CFG_PTP_P2P, R.PORT_CFG_PTP_DOMAIN,
   R.PORT_CFG_PTP_TRANSPORT, R.PORT_MAC, R.PORT_IPV4, R.PORT_IPV6, R.PORT_STATUS_LINK, R.PORT_STATUS_SPEED,
   R.PORT_STATUS_SECURE, R.PORT_FEC_CORRECTED, R.PORT_FEC_UNCORR, R.PORT_DROP_FRAME, R.PORT_DROP_MACSEC,
   R.PORT_MKA_KS_PRIO, R.PORT_MKA_REPLAY_WIN, R.PORT_PAUSE_RX, R.PORT_PAUSE_TX]

def egqFields : List Fld :=
  [R.EGQ_SEL_PORT, R.EGQ_SEL_QUEUE, R.EGQ_Q_CFG_WEIGHT, R.EGQ_Q_CFG_STRICT, R.EGQ_Q_CFG_POLICE_EN, R.EGQ_Q_CFG_MODE,
   R.EGQ_Q_CFG_REFILL, R.EGQ_Q_CFG_PCP, R.EGQ_Q_CFG_DSCP, R.EGQ_Q_RATE_CIR, R.EGQ_Q_RATE_PIR, R.EGQ_Q_BURST_CBS,
   R.EGQ_Q_BURST_PBS, R.EGQ_Q_TOKENS_TC, R.EGQ_Q_TOKENS_TP, R.EGQ_Q_BYTES, R.EGQ_Q_COLOUR_YELLOW, R.EGQ_Q_COLOUR_RED,
   R.EGQ_Q_GATE_WAITS, R.EGQ_Q_FINISH, R.EGQ_GCL_SEL_IFACE, R.EGQ_GCL_CTRL_COUNT, R.EGQ_GCL_CTRL_COMMIT,
   R.EGQ_GCL_CTRL_PENDING, R.EGQ_V, R.EGQ_MAP_SEL_DOMAIN, R.EGQ_MAP_CTRL, R.EGQ_MAP_STREAM, R.EGQ_MAP_RECEIPT,
   R.EGQ_MAP_EVENT, R.EGQ_GCL_DURATION_NS, R.EGQ_GCL_MASK]

def bwpFields : List Fld :=
  [R.BWP_CFG_UDP_PORT, R.BWP_CFG_RTO_US, R.BWP_CFG_RETRIES, R.BWP_CFG_JUMBO, R.BWP_CFG_ACK_DELAY_US, R.BWP_CFG_WINDOW,
   R.BWP_CFG2_LINGER_MS, R.BWP_CFG2_IDLE_S, R.BWP_STAT_ASSOCS, R.BWP_STAT_LOST, R.BWP_RETX_SENT, R.BWP_RETX_DUP,
   R.BWP_AUTH_FAIL, R.BWP_QP_USED, R.BWP_QP_CNP_RX, R.BWP_DOM_SEL_DOMAIN, R.BWP_DOM_SEL_VALID, R.BWP_DOM_EVENTS,
   R.BWP_DOM_ASSOCS, R.BWP_DOM_IMPORT_RKEY, R.BWP_DOM_EVT_LOST, R.BWP_ASSOC_SEL_ASSOC, R.BWP_ASSOC_SEL_VALID,
   R.BWP_ASSOC0_ID, R.BWP_ASSOC0_DOMAIN, R.BWP_ASSOC0_IFACE, R.BWP_ASSOC0_STATE, R.BWP_ASSOC0_EVENTS, R.BWP_ASSOC_Q,
   R.BWP_ASSOC_SEQ_RX, R.BWP_ASSOC_SEQ_TX]

def fshgFields : List Fld :=
  [R.FSHG_CFG_SEARCH_PCT, R.FSHG_CFG_COMMIT_STROKES, R.FSHG_CFG_REPAIR_PCT, R.FSHG_CFG_COMPACT_SLOTS,
   R.FSHG_TIMING_RD_MAX_NS, R.FSHG_WALK_USED, R.FSHG_WALK_WAITING, R.FSHG_IDX_COUNT, R.FSHG_IDX_SEL_INDEX,
   R.FSHG_IDX_SEL_VALID, R.FSHG_IDX0, R.FSHG_IDX1_NODES, R.FSHG_IDX1_DEAD, R.FSHG_IDX2_VERSION, R.FSHG_IDX2_REPAIRING,
   R.FSHG_IDX3_CAP_M1]

def fchFields : List Fld :=
  [R.FCH_READS_NODE, R.FCH_READS_COALESCED, R.FCH_DEAD_EDGES, R.FCH_WALK_USED, R.FCH_LOST_SLOTS]

def laneFields : List Fld :=
  [R.LANE_GOV_CAP_W, R.LANE_GOV_MODE, R.LANE_GOV_HOLD_STROKES, R.LANE_GOV_TARGET_C, R.LANE_GOV_STATUS_CAP_NOW,
   R.LANE_GOV_STATUS_LIMITER, R.LANE_GOV_STATUS_HOT, R.LANE_GOV_STATUS_HOLD_LEFT, R.LANE_ADAPT_CAP,
   R.LANE_TEMP_CORE_MAX, R.LANE_TEMP_LANE_DIE, R.LANE_TEMP_PREDICT, R.LANE_TEMP_HOT_DIE, R.LANE_THERM_LIMIT_C,
   R.LANE_THERM_CLEAR_C, R.LANE_THERM_TRIP_C, R.LANE_COEF_E_PULL_PJ, R.LANE_COEF_E_BUS_FJ, R.LANE_COEF_P_IDLE_MW,
   R.LANE_ENERGY_LAST_UJ, R.LANE_ENERGY_OVER, R.LANE_COLD_LEFT, R.LANE_OVERRIDE_COUNT, R.LANE_REDUCE_PEAK_WORDS,
   R.LANE_REDUCE_TAGS, R.LANE_REFRESH_FORCED]

def cmbgFields : List Fld :=
  [R.CMBG_BUSY_NS, R.CMBG_BUSY_PEAK_NS, R.CMBG_SAT_COUNT, R.CMBG_POISON_LEGS, R.CMBG_FENCE_ENGINES, R.CMBG_STORE_BYTES]

def pchFields : List Fld :=
  [R.PCH_FENCE0, R.PCH_FENCE1, R.PCH_CW_CORRECTED, R.PCH_CW_UNCORR, R.PCH_CONV_COUNT, R.PCH_POISON_LEGS,
   R.PCH_LBUS_BYTES, R.PCH_LBUS_ERR_PARITY, R.PCH_REFRESH_PLANNED, R.PCH_REFRESH_FORCED, R.PCH_CSLOT_GRANTED,
   R.PCH_CSLOT_DEFERRED, R.PCH_BLADE_SEL_BLADE, R.PCH_BLADE_SEL_VALID, R.PCH_BLADE_STATE_ENTRY,
   R.PCH_BLADE_STATE_STATE, R.PCH_BLADE_STATE_OWED]

/-- The fields of a block-specific register page. -/
def blkFields : Blk → List Fld
  | .dev => devFields
  | .clk => clkFields
  | .boot => bootFields
  | .pwr => pwrFields
  | .stk => stkFields
  | .ses => sesFields
  | .pfx => pfxFields
  | .tier => tierFields
  | .mov => movFields
  | .ckp => ckpFields
  | .txt => txtFields
  | .grm => grmFields
  | .gsx => gsxFields
  | .cmb => cmbFields
  | .crew => crewFields
  | .sec => secFields
  | .ump => umpFields
  | .flt => fltFields
  | .portg => portgFields
  | .port => portFields
  | .egq => egqFields
  | .bwp => bwpFields
  | .fshg => fshgFields
  | .fch => fchFields
  | .lane => laneFields
  | .cmbg => cmbgFields
  | .pch => pchFields

/-- Whether a field lies in the register at an offset. -/
def Fld.covers (f : Fld) (off : Nat) : Bool :=
  if f.cnt ≤ 1 then off = f.off
  else f.off ≤ off && off < f.off + f.stride * f.cnt && (off - f.off) % f.stride = 0

/-- The offset whose layout a register of a block follows: in a `PORT` page, 0x200 to 0x2FF repeat 0x100 to 0x1FF for the second
interface (15 R355). -/
def layoutOff (b : Blk) (off : Nat) : Nat := if b = .port ∧ 0x200 ≤ off ∧ off < 0x300 then off - 0x100 else off

/-- The fields of the register at an offset of a block's page, the common header among them. -/
def regFields (b : Blk) (off : Nat) : List Fld :=
  if off < 0x100 then
    (headerFields.filter (·.covers off)) ++ ((blkFields b).filter (·.covers off))
  else (blkFields b).filter (·.covers (layoutOff b off))

/-- The reset word that the fields of a register spell. -/
def fieldsReset (fs : List Fld) : Nat := fs.foldl (fun w f => w ||| (f.rst % 2 ^ f.wd) * 2 ^ f.lo) 0

/-- The bits a list of fields covers. -/
def fieldsMask (fs : List Fld) : Nat := fs.foldl (fun w f => w ||| (2 ^ f.wd - 1) * 2 ^ f.lo) 0

end Sys2Proof.Machine
end

