-- ==== Sys2Proof/Syntax.lean ====
section
/-! DEFINITION. The commands and events of the opcode table (spec/opcode_table.json), with their operands: command
descriptors (15_host_link.md R342), frames, and what the surroundings supply to an event row (a measured figure, the bytes
read from a host's memory, the bits an array read wrongly). -/

namespace Sys2Proof

/-- A 64-byte command descriptor (15 R342, Table 15-7): the words W0 and W1 of the common header and W2 to W7 of the
opcode's chapter, the host domain that issued it and the association over which it came. -/
structure Cmd where
  dom : Nat
  assoc : Nat
  w0 : Word
  w1 : Word
  w2 : Word
  w3 : Word
  w4 : Word
  w5 : Word
  w6 : Word
  w7 : Word
deriving DecidableEq, Repr

  /-- Who waits for a charge to fit (05 R98): a session's head command, an OPEN waiting by its place in arrival order, a
    course
being opened on a crew, or a restore. -/
inductive Waiter where
  | session (sid : Nat)
  | opening (index : Nat)
  | course (crew : Nat)
  | restore (id : Nat)
deriving DecidableEq, Repr

  /-- A BWP frame as it arrives (15 R336 to R338, Table 15-3): the source address and UDP port, the header fields, the
    payload
as sent and the 16-byte tag. -/
structure BwpFrame where
  srcIp : Nat
  srcPort : Nat
  dstPort : Nat
  version : Nat
  ty : Nat
  enc : Bool
  acknow : Bool
  len : Nat
  seq : Nat
  ack : Nat
  txc : Nat
  assoc : Nat
  sack : Nat
  payload : List Byte
  tag : List Byte
deriving DecidableEq, Repr

/-- What an Ethernet frame carries, as far as 15 R330 to R332 tell frames apart. -/
inductive EthBody where
  /-- an ARP request for an IPv4 address, with the asker's MAC and IPv4 addresses -/
  | arp (target senderMac senderIp : Nat)
  /-- an IPv6 Neighbour Solicitation for an address, with the asker's MAC and IPv6 addresses -/
  | neighbour (target senderMac senderIp : Nat)
  /-- an IEEE 802.3 PAUSE frame and its pause time in quanta -/
  | pause (quanta : Nat)
  /-- an IEEE 802.1Qbb frame: the priority enable vector and the eight pause times -/
  | pfc (enables : Nat) (quanta : List Nat)
  /-- an EAPOL frame (EtherType 0x888E) -/
  | eapol
  /-- any other payload -/
  | other
deriving DecidableEq, Repr

/-- An Ethernet frame as it arrives (15 R330, R332): its length with FCS, whether the FCS is good, the VLAN IDs of its
802.1Q tags, whether it is an IPv4 fragment or an IPv6 packet with extension headers, and whether MACsec protects it. -/
structure EthFrame where
  len : Nat
  fcsOk : Bool
  vlans : List Nat
  fragment : Bool
  extHeader : Bool
  secured : Bool
  prio : Nat
  body : EthBody
deriving DecidableEq, Repr

  /-- An MKA message (15 R332): whether it authenticates under the installed CAK, the peer's key server priority, and
    the key
it distributes or completes. -/
structure MkaMsg where
  authentic : Bool
  keyServerPrio : Nat
  sak : Option Nat
deriving DecidableEq, Repr

/-- A PTP master's dataset, as the default dataset comparison of IEEE 1588-2019 orders it: priority1, class, accuracy,
variance, priority2, identity and steps removed. -/
structure PtpDataset where
  prio1 : Nat
  clkClass : Nat
  accuracy : Nat
  variance : Nat
  prio2 : Nat
  identity : Nat
  steps : Nat
deriving DecidableEq, Repr

/-- A PTP message (15 R333): an Announce, an announce timeout, or the message that completes an offset measurement. -/
inductive PtpKind where
  | announce (d : PtpDataset)
  | announceLost
  | offset (ns : Int)
deriving DecidableEq, Repr

/-- A PTP message with the transport, delay mechanism and domain number it uses (15 R333). -/
structure PtpMsg where
  transport : Nat
  p2p : Bool
  domain : Nat
  kind : PtpKind
deriving DecidableEq, Repr


/-- How the Mover's copy of one page ends (05 R105, R106, R109; 21 Table 21-2): it stands at its destination; its source could not be
corrected or authenticated; the Tier F program failed (class 10); or the transfer on a lane's interface failed its check after retry (class 12). -/
inductive CopyEnd where
  | done
  | source
  | program
  | link (lane : Nat)
deriving DecidableEq, Repr

/-- The commands and events of the MTH-CX64-10: one constructor per row of the opcode table, in its order. -/
inductive Instr where
  /-- `STROKE_CATCH` (06 R126). At each stroke boundary the catch begins: commands bind, legs, move slices and flash
    bursts are granted, and gate lists are loaded. Operands: mean input power of the stroke before, in W (18 R390). -/
  | strokeCatch (inputW : Nat)
  /-- `STROKE_FINISH` (06 R127). At the finish every commit, epoch increment, state transition and install of the
    stroke is written; all take effect at the next boundary, and the recovery queues completions. Operands: measured
    energy of each lane in the stroke, in fJ (08 R184). -/
  | strokeFinish (energyFj : List Nat)
  /-- `OPEN` (03 R48). Allocates a session descriptor and Session ID at epoch 0. -/
  | openSes (c : Cmd)
  /-- `IMPORT_BEGIN` (03 R49). Reads the token list, shares resident prefix spans and opens an import window.
    Operands: the token list, COUNT u32 token IDs. -/
  | importBegin (c : Cmd) (data : List Byte)
  /-- `IMPORT_COMMIT` (03 R49). Commits all imported positions at one finish. -/
  | importCommit (c : Cmd)
  /-- `IMPORT_ABORT` (03 R49). Closes the import window and frees its pages without commit. -/
  | importAbort (c : Cmd)
  /-- `APPEND` (09 R212). Runs up to 512 tokens in place as groups of multi-position legs. Operands: the tokens, or
    the text. -/
  | append (c : Cmd) (data : List Byte)
  /-- `STEP` (03 R52). Runs one decode step with drafts and ships masked top-K logits. -/
  | step (c : Cmd)
  /-- `PARK` (03 R53). Seals the session's private pages to Tier F by copy rounds. -/
  | park (c : Cmd)
  /-- `REVIVE` (03 R55). Brings the required page set to Tier H, then the rest. -/
  | revive (c : Cmd)
  /-- `FORK` (04 R77). Creates a child session sharing the parent's state by reference. -/
  | fork (c : Cmd)
  /-- `EXPORT` (03 R57). Copies one epoch's state out of the module, encrypted and signed. -/
  | exportSes (c : Cmd)
  /-- `PIN` (03 R57). Pins or unpins the session's pages in a tier. -/
  | pin (c : Cmd)
  /-- `RELEASE` (03 R57). Drops every page reference, closes the meter record and ends the session. -/
  | release (c : Cmd)
  /-- `JOIN` (14 R310). Moves a session to a crew, or to none. -/
  | join (c : Cmd)
  /-- `MOVE` (05 R114). Migrates an object's Tier H pages to the named lanes, optionally placing them. -/
  | move (c : Cmd)
  /-- `SESSION_IDLE` (03 R37). An ACTIVE session whose IDLE count reaches IDLE_STROKES enters WAITING and EV_SES_IDLE
    is sent. -/
  | sessionIdle (sid : Nat)
  /-- `IMPORT_WINDOW_TIMEOUT` (03 R50). An import window open for 2^22 strokes is aborted and EV_SES_IMPORT_ABORT is
    sent. -/
  | importWindowTimeout (sid : Nat)
  /-- `QUOTA_WAIT_EXPIRY` (05 R98). A command still short of quota or frames after QUOTA_WAIT strokes is refused. -/
  | quotaWaitExpiry (who : Waiter)
  /-- `UMP_DOWN_WAIT_EXPIRY` (19 R406). A metered command that waited 64 strokes for the Umpire is refused with
    E_UMP_DOWN. -/
  | umpDownWaitExpiry (sid : Nat)
  /-- `PLAN_LOAD` (09 R195). Reads, checks and places a leg plan image. Operands: the image. -/
  | planLoad (c : Cmd) (data : List Byte)
  /-- `PLAN_UNLOAD` (09 R197). Removes a model program or a tenant's private expert set. -/
  | planUnload (c : Cmd)
  /-- `IMPORT_RDMA_WRITE` (09 R210). An RDMA WRITE into an import window is accepted or NAKed. Operands: queue pair
    index, remote key, remote address and bytes of the write. -/
  | importRdmaWrite (qp rkey addr : Nat) (data : List Byte)
  /-- `COURSE_OPEN` (10 R227). Opens a course that circulates a Tier F prefix round the lane ring. -/
  | courseOpen (c : Cmd)
  /-- `COURSE_CLOSE` (10 R231). Closes a course at the finish of the current course step's last commit. -/
  | courseClose (c : Cmd)
  /-- `COURSE_STEP_START` (10 R230). A course step begins once every course session has a STEP or WAIT strokes have
    passed. -/
  | courseStepStart (crew : Nat)
  /-- `FETCH_WAIT_EXPIRY` (10 R225). A policy 2 step stops waiting for missing pages after FETCH_WAIT strokes. -/
  | fetchWaitExpiry (sid : Nat)
  /-- `INDEX_BUILD` (10 R221). The index builder completes a coarse page index entry for a full span. -/
  | indexBuild (sid span layer : Nat)
  /-- `BLADE_PULL` (07 R140). A blade completes a pull of its pull list and executes the entries up to the next pull.
    Operands: the blade, the bits of the row read wrongly (byte offset 0 to 1,151: 1,024 data bytes, then 128 check
    bytes; error mask) and whether an SRAM parity error occurred. -/
  | bladePull (blade : Nat) (flips : List (Nat × Byte)) (parity : Bool)
  /-- `LEG_END` (07 R147). A blade's last pull of a leg ends and frame ownership passes on. -/
  | legEnd (blade : Nat)
  /-- `LANE_BUS_TRANSFER` (08 R175). A lane bus transfer of a header and payload beats completes. Operands: the PC
    whose bus completes its next transfer, and whether a beat failed parity. -/
  | laneBusTransfer (pc : Nat) (parity : Bool)
  /-- `COMBINE_INSTRUCTION` (09 R214). A Combine group completes one instruction of its program. Operands: the granted
    leg, the Combine group, and the engine whose residue check disagreed, if one did. -/
  | combineInstruction (leg group : Nat) (fault : Option Nat)
  /-- `REFRESH_DUE` (08 R170). A bank's refresh due point raises its owed count. -/
  | refreshDue (lane bank : Nat)
  /-- `CONTROL_DIE_SLOT` (08 R169). A Control-die slot reads or writes one row of a half-bank. Operands: the half-
    bank, the row, the 1,024 bytes written (none: a read) and the bits read wrongly. -/
  | controlDieSlot (blade row : Nat) (wr : Option (List Byte)) (flips : List (Nat × Byte))
  /-- `MOVER_PAGE_COPIED` (05 R105). The Mover completes the copy of one page on its path. Operands: the Operation
    Table entry, the SAS page, and how the copy ends. -/
  | moverPageCopied (op page : Nat) (res : CopyEnd)
  /-- `LEAF_UNFOLD` (05 R90). A folded page-table leaf is read back from Tier F on first access. -/
  | leafUnfold (leaf : Nat)
  /-- `SLOW_THERMAL_LOOP` (08 R183). Every 64 strokes in FLOATING mode adapt steps by 1 W from the predicted
    temperature. Operands: the lane and the predicted temperature, °C. -/
  | slowThermalLoop (lane predict : Nat)
  /-- `LANE_HOT_SET` (08 R182). A core-die sensor reaching LIMIT_C sets hot and clamps cap_now to 16 W. -/
  | laneHotSet (lane die temp : Nat)
  /-- `LANE_HOT_CLEAR` (08 R182). All core-die sensors below CLEAR_C clear hot. -/
  | laneHotClear (lane temp : Nat)
  /-- `LANE_TEMP_TRIP` (08 R182). A core-die sensor at TRIP_C stops pulls and grants and asserts THERM_ALERT_N. -/
  | laneTempTrip (lane die temp : Nat)
  /-- `SPRINT_HOLD_END` (08 R185). A sprint hold ends after HOLD_STROKES, MODE returns to FLOATING and EV_GOV_HOLD_END
    is sent. -/
  | sprintHoldEnd (lane : Nat)
  /-- `COLD_START_END` (08 R188). A lane's 4,000-stroke cold start ends and EV_LANE_COLD_END is sent. -/
  | coldStartEnd (lane : Nat)
  /-- `VOCAB_LOAD` (11 R236). Loads a vocabulary image. Operands: the image. -/
  | vocabLoad (c : Cmd) (data : List Byte)
  /-- `GRM_LOAD` (11 R251). Loads a grammar table. Operands: the image. -/
  | grmLoad (c : Cmd) (data : List Byte)
  /-- `TABLE_UNLOAD` (11 R256). Unloads a vocabulary or grammar table. -/
  | tableUnload (c : Cmd)
  /-- `STREAM_SESSION` (11 R258). STREAM KIND 0 configures a session's context as a modifying session command.
    Operands: the stop-string list. -/
  | streamSession (c : Cmd) (data : List Byte)
  /-- `STREAM_ALLOCATE` (11 R258). STREAM KIND 1 allocates a standalone stream context. -/
  | streamAllocate (c : Cmd)
  /-- `STREAM_FREE` (11 R258). STREAM KIND 2 frees a standalone context. -/
  | streamFree (c : Cmd)
  /-- `STREAM_CONFIGURE` (11 R258). STREAM KIND 3 sets stops or flushes a standalone context. Operands: the stop-
    string list. -/
  | streamConfigure (c : Cmd) (data : List Byte)
  /-- `TOKENIZE` (11 R257). Turns UTF-8 text into token IDs. Operands: the text. -/
  | tokenize (c : Cmd) (data : List Byte)
  /-- `DETOKENIZE` (11 R257). Turns token IDs into text on a standalone context. Operands: the token IDs. -/
  | detokenize (c : Cmd) (data : List Byte)
  /-- `STREAM_ENGINE_TAKE` (11 R498). A free stream engine takes the oldest waiting request whose context is free. -/
  | streamEngineTake (engine : Nat)
  /-- `MASK_BUILD` (11 R252). The grammar engine completes a mask for a rated position. Operands: the session and the
    index of the rated position. -/
  | maskBuild (sid idx : Nat)
  /-- `MEM_CREATE` (12 R286). Creates an empty memory index. -/
  | memCreate (c : Cmd)
  /-- `MEM_DROP` (12 R286). Drops an index after its last walk ends. -/
  | memDrop (c : Cmd)
  /-- `MEM_QUERY` (12 R287). Runs proximity-graph queries bound to one version. Operands: the query vectors. -/
  | memQuery (c : Cmd) (data : List Byte)
  /-- `MEM_INSERT` (12 R279). Inserts records by insert walks and back-edges. Operands: the records. -/
  | memInsert (c : Cmd) (data : List Byte)
  /-- `MEM_DELETE` (12 R283). Tombstones nodes at the next commit. Operands: the node list. -/
  | memDelete (c : Cmd) (data : List Byte)
  /-- `MEM_REPAIR` (12 R284). Starts a repair sweep of an index. -/
  | memRepair (c : Cmd)
  /-- `WALK_ADMIT` (12 R275). A waiting walk takes a free walk context and binds to a version. -/
  | walkAdmit (walk : Nat)
  /-- `NODE_READ_DONE` (12 R271). A node slot read completes; the node is scored and its neighbours queued. Operands:
    the walk, the node whose slot was read, and whether the read decoded. -/
  | nodeReadDone (walk slot : Nat) (ok : Bool)
  /-- `GSX_LOAD` (13 R294). Loads a gather table image. Operands: the image. -/
  | gsxLoad (c : Cmd) (data : List Byte)
  /-- `GATHER` (13 R298). Reads rows by index, plain or pooled, through the coalescer. Operands: the index list. -/
  | gather (c : Cmd) (data : List Byte)
  /-- `SCATTER` (13 R302). Applies row updates by an update rule. Operands: the index list and update rows. -/
  | scatter (c : Cmd) (data : List Byte)
  /-- `GSX_SEAL` (13 R304). Seals every changed page of a gather table. -/
  | gsxSeal (c : Cmd)
  /-- `CREW_CREATE` (14 R309). Creates a crew. -/
  | crewCreate (c : Cmd)
  /-- `CREW_MODIFY` (14 R309). Changes a crew's weight and flags. -/
  | crewModify (c : Cmd)
  /-- `CREW_DELETE` (14 R309). Deletes an unused crew. -/
  | crewDelete (c : Cmd)
  /-- `CREW_SEATED` (14 R319). A fast-seat crew's context is restored into the standby seats of its last PC. -/
  | crewSeated (crew : Nat)
  /-- `SWITCH_DONE` (14 R318). A context switch on a lane completes and the leg becomes a candidate again. -/
  | switchDone (lane : Nat)
  /-- `PREEMPT` (14 R321). A held pass not granted within HOLD_MAX strokes is saved and its PCs released. -/
  | preempt (pass : Nat)
  /-- `SPLIT_WINDOW_END` (14 R323). A crew's Split report is formed at the end of its window. -/
  | splitWindowEnd (crew : Nat)
  /-- `QP_CREATE` (15 R350). Creates a reliable-connected queue pair. -/
  | qpCreate (c : Cmd)
  /-- `QP_DESTROY` (15 R350). Destroys a queue pair once its operations end. -/
  | qpDestroy (c : Cmd)
  /-- `FEATHER` (15 R334). Enters the Feather state after cleaning all dirty pages. -/
  | feather (c : Cmd)
  /-- `WAKE` (15 R334). Leaves the Feather state. -/
  | wake (c : Cmd)
  /-- `NOP` (15 R344). Completes with E_OK as a round-trip probe. -/
  | nop (c : Cmd)
  /-- `CHECKPOINT` (17 R372). Writes differential, deduplicated session records to the tenant's Tier N target.
    Operands: the session list. -/
  | checkpoint (c : Cmd) (data : List Byte)
  /-- `RESTORE` (17 R383). Rebuilds sessions from complete checkpoint manifests. Operands: the session list. -/
  | restore (c : Cmd) (data : List Byte)
  /-- `CKP_WAIT_EXPIRY` (17 R382). A checkpoint with no log room after WAIT strokes fails with E_CKP_FULL. -/
  | ckpWaitExpiry (tenant : Nat)
  /-- `RECEIPT_NOW` (19 R413). Closes a tenant's receipt at the next finish. -/
  | receiptNow (c : Cmd)
  /-- `LOG_READ` (19 R413). Writes held receipts of a tenant to host memory. -/
  | logRead (c : Cmd)
  /-- `UMP_ACK` (19 R413). Allows a tenant's receipts up to RSEQ to be overwritten. -/
  | umpAck (c : Cmd)
  /-- `EVENT_READ` (19 R413). Writes Umpire event records to host memory. -/
  | eventRead (c : Cmd)
  /-- `SET_PERIOD` (19 R413). Sets the receipt period from the next period end. -/
  | setPeriod (c : Cmd)
  /-- `FW_UPDATE` (19 R416). Passes an Umpire firmware image for verification and later effect. Operands: the image. -/
  | fwUpdate (c : Cmd) (data : List Byte)
  /-- `CERT_READ` (19 R413). Writes the Umpire key's certificate chain. -/
  | certRead (c : Cmd)
  /-- `ATTEST` (20 R437). Writes a signed quote of the measurements and the identity chain. -/
  | attest (c : Cmd)
  /-- `RIG_UPDATE_RIGGING` (20 R429). Verifies and stores a new Rigging image for the next reset. Operands: the image.
    -/
  | rigUpdateRigging (c : Cmd) (data : List Byte)
  /-- `RIG_UPDATE_FIRMWARE` (20 R424). Verifies and stores a new device firmware image for the next reset. Operands:
    the image. -/
  | rigUpdateFirmware (c : Cmd) (data : List Byte)
  /-- `ERG` (21 R459). Tests a unit on request, optionally lifting its fence. -/
  | erg (c : Cmd)
  /-- `ERG_TEST_END` (21 R454). An Erg test ends; the fault is judged transient or lasting. Operands: the unit tested,
    whether it passed, and the failing row where the fault is confined to one. -/
  | ergTestEnd (unit : Nat) (pass : Bool) (row : Option Nat)
  /-- `PATROL_SCRUB` (21 R450). Every SCRUB_STROKES the patrol scrub reads one row of every half-bank. Operands: the
    bits read wrongly (half-bank, byte offset within its row, error mask). -/
  | patrolScrub (flips : List (Nat × Nat × Byte))
  /-- `FLASH_READ_FAIL` (21 R451). A failed Tier F read is retried, then rebuilt from parity or lost. Operands: the
    Tier F frame, and whether the retries and then the rebuild from parity succeed. -/
  | flashReadFail (frame : Nat) (retryOk parityOk : Bool)
  /-- `BWP_FRAME_RX` (15 R340). A BWP frame arrives, is authenticated and held or handed on in SEQ order. -/
  | bwpFrameRx (iface : Nat) (f : BwpFrame)
  /-- `HELLO` (15 R339). A HELLO opens or resumes an association and is answered with HELLO_RSP. -/
  | hello (iface : Nat) (f : BwpFrame)
  /-- `CLOSE` (15 R341). A CLOSE frame closes the association. -/
  | close (iface : Nat) (f : BwpFrame)
  /-- `BWP_ACK_FRAME` (15 R341). An ACK frame acknowledges frames and may trigger retransmission on a SACK gap. -/
  | bwpAckFrame (iface : Nat) (f : BwpFrame)
  /-- `BWP_RETRANSMIT_TIMER` (15 R341). An unacknowledged frame is retransmitted after RTO, or the association closes
    after RETRIES. -/
  | bwpRetransmitTimer (assoc seq : Nat)
  /-- `BWP_ACK_DELAY` (15 R340). An ACK is sent when ACK_DELAY_US passes with no frame carrying the acknowledgement. -/
  | bwpAckDelay (assoc : Nat)
  /-- `BWP_IDLE_TIMEOUT` (15 R341). An association with no frame for IDLE_S seconds closes. -/
  | bwpIdleTimeout (assoc : Nat)
  /-- `BWP_LINGER_EXPIRY` (15 R341). Held frames of a closed association are dropped when LINGER_MS expires. -/
  | bwpLingerExpiry (assoc : Nat)
  /-- `ETH_FRAME_RX` (15 R330). An Ethernet frame is received, filtered and answered if it is ARP or Neighbour
    Solicitation. -/
  | ethFrameRx (iface : Nat) (f : EthFrame)
  /-- `MKA_FRAME` (15 R332). An MKA frame agrees MACsec keys. -/
  | mkaFrame (iface : Nat) (m : MkaMsg)
  /-- `PTP_MESSAGE` (15 R333). A PTP message is timestamped and feeds master selection and the servo. -/
  | ptpMessage (iface : Nat) (m : PtpMsg)
  /-- `PPS_IN_EDGE` (06 R120). A PPS_IN rising edge marks a whole second for the servo. Operands: device time at the
    edge less the whole second it marks, ns. -/
  | ppsInEdge (offset : Int)
  /-- `TIME_HOLDOVER` (06 R122). No source update for 4 s puts the lock state in HOLDOVER. -/
  | timeHoldover
  /-- `PPS_OUT_PULSE` (06 R134). PPS_OUT pulses at a whole second or a stroke boundary multiple of PPS_DIV. -/
  | ppsOutPulse
  /-- `PORT_LINK_CHANGE` (15 R328). An interface's link comes up or goes down and EV_PORT_LINK is sent. -/
  | portLinkChange (iface : Nat) (up : Bool)
  /-- `RDMA_READ_RESPONSE` (15 R351). An RDMA READ response delivers requested host data. Operands: the outstanding
    read and its bytes. -/
  | rdmaReadResponse (id : Nat) (data : List Byte)
  /-- `RDMA_WRITE_ACK` (15 R351). An acknowledgement completes RDMA WRITEs, completing shards, manifests or outputs. -/
  | rdmaWriteAck (id : Nat)
  /-- `ROCE_INVALID_REQUEST` (15 R351). An RDMA READ, SEND or atomic to the device is answered with an invalid-request
    NAK. -/
  | roceInvalidRequest (qp : Nat)
  /-- `QP_ERROR` (15 R353). A queue pair with exhausted retries or a fatal NAK enters error and sends EV_QP_ERROR. -/
  | qpError (qp syn : Nat)
  /-- `CNP_RX` (15 R353). A congestion notification packet halves a queue pair's send rate. -/
  | cnpRx (qp : Nat)
  /-- `ECN_MARKED_RX` (15 R353). An ECN-marked packet is answered by at most one CNP per 50 µs. -/
  | ecnMarkedRx (qp time : Nat)
  /-- `ROCE_RATE_RAISE` (15 R353). Every 55 µs without a CNP a queue pair's rate rises by 1 % of line rate. -/
  | roceRateRaise (qp : Nat)
  /-- `EGRESS_SELECT` (16 R359). When an interface is free the scheduler picks the first qualifying head frame.
    Operands: the interface that is free, and the device time in ns. -/
  | egressSelect (iface time : Nat)
  /-- `GCL_ENTRY_ADVANCE` (16 R363). The gate control list moves to its next entry when a duration expires. -/
  | gclEntryAdvance (iface : Nat)
  /-- `INPUT_RANGE_LOW` (18 R389). Input between 50 and 54 V for 1 ms sends EV_PWR_RANGE and caps the current factor. -/
  | inputRangeLow (mv : Nat)
  /-- `INPUT_RANGE_HIGH` (18 R389). Input between 63 and 64.5 V for 1 ms sends EV_PWR_RANGE. -/
  | inputRangeHigh (mv : Nat)
  /-- `POWER_LOSS` (18 R389). Input below 50 V for 20 µs starts the Hold-water sequence. -/
  | powerLoss (mv : Nat)
  /-- `OVER_VOLTAGE` (18 R389). Input above 64.5 V for 20 µs isolates the input and starts the Hold-water sequence. -/
  | overVoltage (mv : Nat)
  /-- `PWR_EN_DEASSERT` (18 R389). PWR_EN deasserted for 20 µs starts the Hold-water sequence. -/
  | pwrEnDeassert
  /-- `HOLD_WATER_END` (18 R397). The end record is written and the power stages turn off, deasserting PWR_GOOD.
    Operands: how long the flush ran, the bank voltage at its end, and how many dirty pages the bank allowed to be
    sealed. -/
  | holdWaterEnd (flushUs bankMv sealedPages : Nat)
  /-- `HOLDUP_TEST` (18 R391). The hold-up test charges and loads the bank to measure C and ESR. -/
  | holdupTest
  /-- `HOLDUP_TEST_RESULT` (18 R393). The test result sets the hold-up state and Dirty Budget and sends EV_HOLDUP.
    Operands: measured capacitance in µF and ESR in µΩ. -/
  | holdupTestResult (capUf esrUohm : Nat)
  /-- `HOLDUP_RETEST_TIMER` (18 R391). RETEST_H hours after the previous test a new test starts. -/
  | holdupRetestTimer
  /-- `TALLY_FRAME` (19 R406). The Umpire receives a tally frame and counts its records. -/
  | tallyFrame (f : List Byte) (crcOk : Bool)
  /-- `RECEIPT_PERIOD_END` (19 R410). At a period end the Umpire closes receipts of changed tenants and checks its
    clock. Operands: elapsed time of the period by the Umpire clock, ns. -/
  | receiptPeriodEnd (umpNs : Nat)
  /-- `RECEIPT_SIGNED` (19 R411). A closed receipt is signed and sent in RECEIPT frames. -/
  | receiptSigned (tenant : Nat)
  /-- `TAMPER_OPEN` (19 R417). Opening the Umpire cover latches TAMPER and deasserts SEAL_OK. -/
  | tamperOpen
  /-- `SEAL_RECORD` (19 R417). An authorised verifier re-seals the Umpire with a new seal number, clearing the latch. -/
  | sealRecord (number : Nat) (authorised : Bool)
  /-- `POWER_ON_RESET` (22 R464). PWR_GOOD rises and the device starts from power-on. -/
  | powerOnReset
  /-- `RST_N_RESET` (22 R464). RST_N held low for 10 µs runs the Hold-water steps and resets. -/
  | rstNReset
  /-- `WATCHDOG_EXPIRY` (22 R464). Firmware failing to check in for WDOG_MS resets the device. -/
  | watchdogExpiry
  /-- `PLL_LOCK_LOSS` (22 R468). A PLL losing lock stops grants while it relocks. -/
  | pllLockLoss (pll : Nat)
  /-- `PLL_RELOCK` (22 R468). A PLL regaining lock within 1 ms lets grants resume. -/
  | pllRelock (pll : Nat)
  /-- `CLOCK_FAULT_RESET` (22 R468). A PLL not relocked within 1 ms resets the device with cause 5. -/
  | clockFaultReset (pll : Nat)
  /-- `SL0_REACHED` (22 R469). Firmware and Rigging verified, the device reaches SL0 and ports start training. -/
  | sl0Reached
  /-- `LANE_TRAINING_DONE` (22 R470). A lane finishes training or is fenced after three failures. -/
  | laneTrainingDone (lane : Nat) (ok : Bool)
  /-- `IMAGE_REINSTALL` (22 R471). Sealed plans and tables are reinstalled from Tier F and checked. -/
  | imageReinstall
  /-- `SL1_REACHED` (22 R469). With images reinstalled and the hold-up test complete, SL1 is reached and strokes
    begin. -/
  | sl1Reached
  /-- `LANE_ONLINE` (22 R476). A lane's bring-up coverage ends, it comes online and SL2 or SL3 may be reached. -/
  | laneOnline (lane : Nat)
  /-- `ADVICE_COLD_END` (22 R477). After 1,024 strokes placement advice and migration of floating pages may start. -/
  | adviceColdEnd
  /-- `COOLANT_OUTLET_HIGH` (23 R491). Coolant outlet above 65 °C for 1 s sets COOLANT_HIGH and THERM_ALERT_N. -/
  | coolantOutletHigh (temp : Nat)
  /-- `I2C_TRANSACTION` (23 R488). An I²C sideband transaction writes an offset and reads registers. Operands: the
    register offset written and the bytes read. -/
  | i2cTransaction (off n : Nat)
  /-- `INPUT_IN_RANGE` (18 R389). The input voltage returns into the operating range of 54 to 63 V, ending the low-
    range cap on the current factor and starting the 100 ms wait before PWR_GOOD may rise. -/
  | inputInRange (mv : Nat)
  /-- `PWR_EN_ASSERT` (23 R485). PWR_EN is asserted, ending the 5 A inrush limit and starting the 100 to 150 ms count
    to the rise of PWR_GOOD. -/
  | pwrEnAssert
  /-- `POWER_STAGE_FAULT` (23 R485). A power-stage fault drops PWR_GOOD within 20 µs. -/
  | powerStageFault
  /-- `RST_N_RELEASE` (22 R464). RST_N is released after being held low, ending the internal reset and starting bring-
    up. -/
  | rstNRelease
  /-- `HOUSEKEEPING_POWER_ON` (23 R482). The input rises above 40 V and the housekeeping converter starts, powering
    the sideband, the status indicators and the Umpire, and restarting SB_UPTIME. -/
  | housekeepingPowerOn
  /-- `HOUSEKEEPING_POWER_OFF` (23 R493). The input falls below 40 V; the housekeeping converter stops, the Umpire is
    unpowered and the bleeder takes the hold-up bank below 5 V within 120 s. -/
  | housekeepingPowerOff
  /-- `UMP_SELF_TEST_END` (19 R406). The Umpire finishes its self-test and reports running, so metered commits may
    take effect again. -/
  | umpSelfTestEnd (ok : Bool)
  /-- `TALLY_LINK_UP` (19 R406). The tally link comes back up after being taken down, releasing metered commits that
    wait for it. -/
  | tallyLinkUp
  /-- `COOLANT_OUTLET_NORMAL` (23 R491). The coolant outlet temperature falls back to 65 °C or below, clearing
    COOLANT_HIGH and releasing THERM_ALERT_N if no trip holds it. -/
  | coolantOutletNormal (temp : Nat)
  /-- `JOURNAL_TAIL_WRITTEN` (18 R396). A write of the system journal to Tier F completes, shrinking the unsealed
    tail, releasing grants deferred for it and letting SEALED_EPOCH advance. -/
  | journalTailWritten (bytes : Nat)
  /-- `LOCAL_ACK_TIMEOUT` (15 R351). A RoCEv2 queue pair's local ACK timeout or RNR retry timer expires and the
    request is retried, counting against the retry counts of 7. -/
  | localAckTimeout (qp : Nat) (rnr : Bool)
  /-- `PAUSE_TIME_EXPIRY` (15 R331). The pause time of a received PFC or PAUSE frame runs out and the paused priority
    may send again. -/
  | pauseTimeExpiry (iface prio : Nat)
deriving DecidableEq, Repr

end Sys2Proof
end

