-- ==== Sys2Proof/Machine/RecLink.lean ====
section
/-! DEFINITION. Records of what leaves the device: completions, event records, stream records (15_host_link.md R344 to
R349), and the selection windows of control space (02_control_space.md R495). -/

namespace Sys2Proof.Machine

/-- A completion (15 R344, Table 15-8): the words Q0 to Q3 as fields, then the result words C0 to C3. -/
structure Cpl where
  dom : Nat
  queue : Nat
  opcode : Nat
  tag : Nat
  status : Nat
  hostCtx : Nat
  stroke : Nat := 0
  time : Nat := 0
  c0 : Nat := 0
  c1 : Nat := 0
  c2 : Nat := 0
  c3 : Nat := 0
deriving DecidableEq, Repr

/-- An event record (15 R345, Table 15-9): code, page, EVT_STATUS bit (63: none), payload words, records lost before it,
and the stroke whose finish raised it. -/
structure EvRec where
  code : Nat
  page : Nat
  bit : Nat
  words : List Nat
  lost : Nat := 0
  stroke : Nat := 0
deriving DecidableEq, Repr

/-- Who receives an event (15 R345): the domains its chapter names, or the domains with `BWP_DOM.EVENTS` where the chapter
names none, or nobody because the bit carries no event of its own. -/
inductive EvTo where
  | named (code : Nat) (words : List Nat) (doms : List Nat)
  | tied (code : Nat) (words : List Nat)
  | plain
deriving DecidableEq, Repr

/-- A stream record waiting for STREAM frames (15 R348): the domain and queue of the command whose commit produced it,
KIND (1 logit record, 2 text record), and the record's body bytes. -/
structure StreamRec where
  dom : Nat
  queue : Nat
  kind : Nat
  body : List Byte
deriving DecidableEq, Repr

/-- Which domains may see a loaded selection window (04 R84, 03 R66, 05 R118). -/
inductive WinAcc where
  | all
  | tenant (t : Nat)
  | mask (m : Nat)
deriving DecidableEq, Repr

/-- A selection window (02 R495): the selected object, whether a finish has loaded it since the selection was written,
whether the object exists, who may see it, and the words it shows. -/
structure Win where
  sel : Nat := 0
  aux : Nat := 0
  loaded : Bool := false
  valid : Bool := false
  acc : WinAcc := .all
  words : List Nat := []
deriving DecidableEq, Repr

end Sys2Proof.Machine
end

