-- ==== Sys2Proof/Machine/RecSes.lean ====
section
/-! DEFINITION. Records of sessions (03_sessions_and_epochs.md), of the prefix tree (04_prefix_tree.md) and of the coarse
page index and courses (10_long_contexts.md). Page lists, node token lists and index entries are held as the records they
spell; the class 3 and class 6 pages that carry them are allocated and charged, and their bytes are not held a second time
(notes/assumptions/11.md). -/

namespace Sys2Proof.Machine

/-- Session states (03 R34, `D0.STATE` 0 to 4). -/
inductive SesSt where
  | opened | active | waiting | parked | released
deriving DecidableEq, Repr

/-- The code `D0.STATE` holds (03 Table 03-1). -/
def SesSt.code : SesSt → Nat
  | .opened => 0 | .active => 1 | .waiting => 2 | .parked => 3 | .released => 4

/-- The session descriptor (03 R32, Table 03-1); D15 is reserved. -/
structure Desc where
  session : Nat
  gen : Nat
  st : SesSt := .opened
  moving : Bool := false
  reviving : Bool := false
  trailing : Bool := false
  pinH : Bool := false
  pinF : Bool := false
  importing : Bool := false
  damaged : Bool := false
  tenant : Nat
  owner : Nat
  model : Nat
  crew : Nat
  domains : Nat
  epoch : Nat := 0
  sealedEpoch : Nat := 0
  remoteEpoch : Nat := 0
  positions : Nat := 0
  prov : Nat := 0
  attPolicy : Nat := 0
  durDefault : Nat := 0
  pageRoot : Nat := 0
  priv : Nat := 0
  shared : Nat := 0
  prefixNode : Nat := 0
  parent : Nat := 0
  parentEpoch : Nat := 0
  textCtx : Nat := 0xFFFF
  grmTable : Nat := 0xFFFF
  grmState : Nat := 0
  lastStroke : Nat := 0
  openTime : Nat := 0
  steps : Nat := 0
  idle : Nat := 0
  meterId : Nat := 0
deriving DecidableEq, Repr

/-- A command waiting in a session's order (03 R59): the command, the data the device read for it from host memory, the
device time and stroke of its arrival, strokes waited, and whether the data has arrived (15 R351). -/
structure Wait where
  cmd : Cmd
  data : List Byte
  time : Nat
  stroke : Nat
  waited : Nat := 0
  ready : Bool := true
  qpErr : Option Nat := none
deriving DecidableEq, Repr

/-- What a command that holds the head of a session's order is doing (03 R60). -/
inductive RunPh where
  /-- all checks of 03 R496 passed; its worst-case charge does not fit yet (05 R98) -/
  | quota
  /-- a STEP or APPEND between legs, waiting for a grant (06 R131) or for pages (10 R225) -/
  | ready
  /-- a REVIVE whose required set is arriving (03 R55) -/
  | reviving
  /-- everything is done; the commit stands in the stroke's finish (06 R127) -/
  | commit
deriving DecidableEq, Repr

/-- The command at the head of a session's order, once bound (03 R40): its epoch, tokens, plan version, append group, next
leg, strokes waited for quota or pages, the stroke at which it reached the head, and the pages reserved for it. -/
structure Run where
  cmd : Cmd
  data : List Byte
  ph : RunPh
  epoch : Nat
  toks : List Nat := []
  accept : Nat := 0
  ver : Nat := 0
  group : Nat := 0
  leg : Nat := 0
  waited : Nat := 0
  fetchWaited : Nat := 0
  headStroke : Nat := 0
  charge : Nat := 0
  started : Bool := false
  shortLayers : Nat := 0
  shortPages : Nat := 0
  logits : List (List Byte) := []
  aux : Nat := 0
  bladeUs : Nat := 0
  cmbUs : Nat := 0
deriving DecidableEq, Repr

/-- An open import window (03 R49, R50; 09 R209 to R211): the issuing domain, the first window position and the count of
all positions the import commits, the token IDs, the base SAS page with the first and last span, the written 64-byte
blocks, and the strokes it has been open. -/
structure ImpWin where
  dom : Nat
  first : Nat
  last : Nat
  count : Nat
  sharedPos : Nat
  toks : List Nat
  base : Nat
  s0 : Nat
  s1 : Nat
  layers : Nat
  written : List Nat := []
  strokes : Nat := 0
deriving DecidableEq, Repr

/-- One page-list entry (05 R91): the SAS page and `SHARED`. -/
structure PlEnt where
  page : Nat
  shared : Bool
deriving DecidableEq, Repr

/-- A completion that waits for SEALED or REMOTE (03 R58): the command, the class asked for (1 or 2) and the epoch. -/
structure DurWait where
  cmd : Cmd
  cls : Nat
  epoch : Nat
  positions : Nat
  aux : Nat
  aux2 : Nat := 0
deriving DecidableEq, Repr

/-- A session: its descriptor and what the Session engine holds beside it. `layers`, `log2p`, `capSpans`, `sharedSpans`
and `pl` are its page list (05 R91, the key of `pl` is s × LAYERS + l); `toks` and `provToks` are the token IDs of its
committed and provisional positions (04 R67, R77 need them); `index` is its coarse page index by s × LAYERS + l (10 R219);
`sel` its selections by layer (10 R222, R223), and
`jmark` the place in the system journal at which its last change stands (03 R58, 18 R396). -/
structure Ses where
  d : Desc
  order : List Wait := []
  head : Option Run := none
  win : Option ImpWin := none
  parkOp : Option Nat := none
  parkCmd : Option Cmd := none
  heldOut : Bool := false
  layers : Nat := 0
  log2p : Nat := 0
  capSpans : Nat := 0
  sharedSpans : Nat := 0
  pl : Map PlEnt := []
  toks : List Nat := []
  provToks : List Nat := []
  index : Map (List Nat) := []
  sel : Map (List Nat) := []
  wasShort : Bool := false
  durWaits : List DurWait := []
  pinLanes : Nat := 0
  exports : List Nat := []
  trailSet : List Nat := []
  required : List Nat := []
  homeLane : Option Nat := none
  jmark : Nat := 0
  sumPages : Nat := 0
  remotePos : Nat := 0
deriving DecidableEq, Repr

/-- Prefix-node states (04 Table 04-1, `N2.STATE` 0 to 3). A FREE node has no record. -/
inductive NodeSt where
  | filling | ready | stale
deriving DecidableEq, Repr

def NodeSt.code : NodeSt → Nat
  | .filling => 1 | .ready => 2 | .stale => 3

/-- A prefix-tree node (04 R69, Table 04-1): `pages` is its page list, one SAS page per layer, and `toks` its span's token
IDs; `pagesAt` and `toksAt` are the SAS addresses N4 and N5. -/
structure Node where
  hash : Nat
  parent : Nat
  depth : Nat
  model : Nat
  tenant : Nat
  st : NodeSt
  keyGen : Nat
  log2p : Nat
  refs : Nat := 0
  children : Nat := 0
  pagesAt : Nat := 0
  toksAt : Nat := 0
  lastUse : Nat := 0
  tier : Nat := 0
  fillSession : Nat := 0
  pages : List Nat := []
  toks : List Nat := []
  demoting : Bool := false
deriving DecidableEq, Repr

/-- A tenant's prefix key (04 R81, R82): the key in force, the host-supplied words, and a key change waiting for the
finish. `hostKey` is none while the key in force is the one derived from the device root secret. -/
structure PfxKey where
  gen : Nat := 0
  hostKey : Option (Nat × Nat) := none
  k0 : Nat := 0
  k1 : Nat := 0
  k0Written : Bool := false
  change : Bool := false
deriving DecidableEq, Repr

/-- A course (10 R227 to R231) on a crew: the node of the circulated chain, the block length, the blocks per layer, its
sessions with their home lanes, the stroke at which the course step in progress began, how often the ring has advanced in it,
the stroke of the first waiting STEP, the pages of the block being filled, whether a leg due in this stroke did not run, whether
the path had no room for the stroke's shift, a CLOSE that waits, the windows' frames, strokes without an advance, and the Mover's entry. -/
structure Course where
  node : Nat
  win : Nat
  lead : Nat
  nb : Nat
  layers : Nat
  homes : Map Nat := []
  nextHome : Nat := 0
  start : Option Nat := none
  inStep : List Nat := []
  ring : Nat := 0
  firstStep : Option Nat := none
  block : List Nat := []
  late : Bool := false
  shiftShort : Bool := false
  closing : Option Cmd := none
  frames : List Nat := []
  stall : Nat := 0
  op : Option Nat := none
deriving DecidableEq, Repr

end Sys2Proof.Machine
end

