-- ==== Sys2Proof/Machine/RecTier.lean ====
section
/-! DEFINITION. Records of the State Address Space, the tiers and the Mover (05_tiers_and_the_mover.md). -/

namespace Sys2Proof.Machine

/-- A page-table entry (05 R89, Table 05-1). `cls` 0 is a page not allocated, which has no record. Beside the fields of E0
and E1: `fVer` is the VER at which the Tier F copy was read (05 R93), `committed` whether a commit has reached its content
(05 R99), `lastWrite` the stroke of its last write (05 R101), `oldF` the old sealed copies kept under PIN_F (05 R92). -/
structure Pte where
  hFrame : Nat := 0
  tenant : Nat
  cls : Nat
  h : Bool := true
  f : Bool := false
  n : Bool := false
  pinH : Bool := false
  pinF : Bool := false
  placed : Bool := false
  copying : Bool := false
  lost : Bool := false
  lanes : Nat := 0
  fFrame : Nat := 0
  ver : Nat := 0
  fVer : Nat := 0
  committed : Bool := false
  lastWrite : Nat := 0
  oldF : List Nat := []
deriving DecidableEq, Repr

/-- A sealed copy in a Tier F frame (05 R92, 20 R433, R434): the metadata its authentication covers, and its 65,536 bytes as
the sparse cells that are not zero. -/
structure Sealed where
  page : Nat
  ver : Nat
  tenant : Nat
  cls : Nat
  ctr : Nat
  cells : Map Byte
deriving DecidableEq, Repr

/-- An advance charge (05 R97): pages charged to a tenant in a tier (0: H, 1: F) before their frames are allocated, and who
holds it (a session number, or 2^24 + an Operation Table index). -/
structure Charge where
  owner : Nat
  tenant : Nat
  tier : Nat
  pages : Nat
deriving DecidableEq, Repr

/-- Operation Table states in use (05 Table 05-4, `O0.STATE` 1 to 5); a free entry has no record. -/
inductive OpSt where
  | queued | copying | final | done | failed
deriving DecidableEq, Repr

def OpSt.code : OpSt → Nat
  | .queued => 1 | .copying => 2 | .final => 3 | .done => 4 | .failed => 5

/-- An Operation Table entry (05 R102, Table 05-4). Beside O0 to O6: `isSes` whether the object is a session; `todo` the SAS
pages of the round still to copy, `flying` those granted in this stroke, `got` the (page, VER when read) copied in this
round, `vers` all recorded versions, `tgt` destination frames already taken, `place` whether MOVE asked for PLACED, `range` the pages of a
MOVE of an SAS range, `clean` whether cleaning took the entry, `sys` the home half-bank of a system frame that moves and the half-bank it
moves to (R88), and `ended` the stroke in which it ended: it shows its end until the finish after (notes/assumptions/98.md). -/
structure OpEnt where
  kind : Nat
  cls : Nat
  st : OpSt := .queued
  round : Nat := 0
  src : Nat
  dst : Nat
  tenant : Nat
  object : Nat
  isSes : Bool
  pages : Nat := 0
  done : Nat := 0
  redo : Nat := 0
  copied : Nat := 0
  start : Nat
  epoch : Nat := 0
  status : Nat := 0
  lanes : Nat := 0
  forced : Bool := false
  todo : List Nat := []
  flying : List Nat := []
  got : Map Nat := []
  vers : Map Nat := []
  tgt : Map Nat := []
  place : Bool := false
  cmd : Option Cmd := none
  range : Nat := 0
  clean : Bool := false
  sys : Option (Nat × Nat) := none
  ended : Option Nat := none
deriving DecidableEq, Repr

/-- The last placement advice for one object and reason (05 R113). -/
structure Advice where
  object : Nat
  reason : Nat
  stroke : Nat
deriving DecidableEq, Repr

/-- Cleaning (05 R101): off, at class 3, or at class 0. -/
inductive Cleaning where
  | off | background | protective
deriving DecidableEq, Repr

end Sys2Proof.Machine
end

