-- ==== Sys2Proof/Machine/RecPlan.lean ====
section
/-! DEFINITION. Records of leg plans (09_decode_legs.md), fit records and granted legs (06_the_stroke.md), crews, passes and
contexts (14_crews_and_shares.md). -/

namespace Sys2Proof.Machine

/-- The header fields of a leg plan image (09 R193, Table 09-1). -/
structure PlanHdr where
  model : Nat
  version : Nat
  kind : Nat
  tenant : Nat
  layers : Nat
  dModel : Nat
  kvHeads : Nat
  log2g : Nat
  log2d : Nat
  kvFmt : Nat
  actFmt : Nat
  log2p : Nat
  ctxLimit : Nat
  vocab : Nat
  stepLegs : Nat
  appendLegs : Nat
  batch : Nat
  posMax : Nat
  kvPerBlade : Nat
  legs : Nat
  experts : Nat
  privSlots : Nat
  sectOff : Nat
  sectCount : Nat
  bytes : Nat
  routeK : Nat
  ropePair : Nat
  rotPairs : Nat
deriving DecidableEq, Repr

/-- A section-table entry (09 R194): type, lane (0xF: all), length and offset. -/
structure Sect where
  ty : Nat
  lane : Nat
  len : Nat
  off : Nat
deriving DecidableEq, Repr

/-- A schedule entry (09 R200, Table 09-3). -/
structure SchedEnt where
  header : Nat
  pc : Nat
  fill : Bool
  after : Nat
  before : Nat
  leg : Nat
  source : Nat
deriving DecidableEq, Repr

/-- An attention template (09 R202, Table 09-4). -/
structure AttTpl where
  layer : Nat
  leg : Nat
  qreg : Nat
  mode : Nat
  block : Nat
  entries : Nat
  tag : Nat
  cmbg : Nat
  acc : Nat
  scr : Nat
  dtag : Nat
deriving DecidableEq, Repr

/-- An expert table entry (09 R206, Table 09-5). -/
structure Expert where
  expert : Nat
  priv : Bool
  leg : Nat
  layer : Nat
  first : Nat
  last : Nat
  lanes : Nat
deriving DecidableEq, Repr

/-- A reduce tag entry of the plan (08 R179, Table 08-2). -/
structure TagEnt where
  tag : Nat
  op : Nat
  n : Nat
  log2d : Nat
  contrib : Nat
  cmbg : Nat
  dtag : Nat
deriving DecidableEq, Repr

/-- One Combine instruction (09 R214). -/
structure CmbIns where
  op : Nat
  sfmt : Nat
  dfmt : Nat
  n : Nat
  a : Nat
  src : Nat
  dst : Nat
deriving DecidableEq, Repr

/-- A leg fit record (06 R130, R136, Table 06-7). Lists hold one value per lane; `bus` is the largest bytes on any one lane
bus of the lane and `busAll` the lane's total, `tLeg94` is t_leg in units of 1/94 ns, in which every term of R130 is whole. -/
structure Fit where
  leg : Nat
  lock : Bool
  lanes : Nat
  sram : Nat
  combineNs : Nat
  groups : Nat
  ops : Nat
  chargeH : Nat
  tLeg94 : Nat
  peak : List Nat
  bus : List Nat
  pulls : List Nat
  busAll : List Nat
  energyFj : List Nat
deriving DecidableEq, Repr

/-- An installed (or loading) plan version or private expert set: its header and parsed sections, the class 4 pages and
frames of its weights, the fit records, the resident and carry figures of 14 R316, and whether it is sealed in Tier F or
blocked (21 R457), whether bring-up blocked it for want of time or energy alone (22 R471) and has since passed that check, and the tenant that owns it in
Isolated mode (20 R439). Keys: `pulls` (lane × 8192 + blade) × 256 + leg, `pullSrc` (the bytes that `SEGMENT` transfers name) lane, `tags`
leg × 16 + lane, `sched` lane, `comb` leg × 16 + group, `consts` group. -/
structure Plan where
  hdr : PlanHdr
  pages : List Nat := []
  frames : List Nat := []
  pulls : Map (List Word) := []
  pullSrc : Map (List Byte) := []
  tags : Map (List TagEnt) := []
  sched : Map (List SchedEnt) := []
  comb : Map (List CmbIns) := []
  consts : Map (List Byte) := []
  att : List AttTpl := []
  rotary : List Nat := []
  experts : List Expert := []
  fits : List Fit := []
  resident : Nat := 0
  carry : List Nat := []
  rowBase : Nat := 0
  digest : List Byte := []
  image : List Byte := []
  isSealed : Bool := false
  blocked : Bool := false
  retry : Bool := false
  passed : Bool := false
  owner : Nat := 0xFFF
deriving DecidableEq, Repr

/-- A load in flight (09 R195, R196): the command, the parsed plan with its pages and frames, the image offset of each page's bytes,
the pages whose frame floating pages still hold, and the Mover entry that writes them. -/
structure PlanLoad where
  cmd : Cmd
  plan : Plan
  offs : List Nat
  todo : List Nat
  op : Nat
deriving DecidableEq, Repr

/-- The installed versions of one model program, or of one tenant's expert set of it (09 R196): the current one and, while
steps are bound to it, the older one; and `CMB_LC_CFG` of the model (10 R232), with a write waiting for the finish. -/
structure Prog where
  cur : Plan
  old : Option Plan := none
  lcCfg : Nat
  lcPend : Option Nat := none
deriving DecidableEq, Repr

/-- A leg granted in the stroke in progress (06 R131): its pass, plan version and leg index, start within the drive window,
lanes, whether they are in lane lock (06 R133), the blades and Combine groups whose work is not complete, whether it is poisoned (07 R164), the
first half-bank that consumed or shipped what could not be read, whether it is stopped
(and the lane whose temperature trip stopped it by R132, 08 Table 08-3), the expert ranges passed over (09 R206), the
instructions each group has completed, what it was charged, the attention blocks by blade × 2,048 + template (09 R202), the
reduce tags by lane with their attention tags set (09 R203), the first new position and their number for each session in slot order
(09 R199), the row base of the crew's tenant's private experts (09 R207), the selected pages each layer attends to, and the Tier H frames
that it owns (07 R147). -/
structure GLeg where
  pass : Nat
  model : Nat
  version : Nat
  leg : Nat
  start94 : Nat
  lanes : Nat
  openBlades : List Nat
  openGroups : List Nat
  lock : Bool := false
  poisoned : Bool := false
  poisonBy : Option Nat := none
  stopped : Bool := false
  trip : Option Nat := none
  skipped : List Nat := []
  cmbPc : Map Nat := []
  charge : Nat := 0
  chargeCmb : Nat := 0
  blocks : Map (List Word) := []
  tags : Map (List TagEnt) := []
  heads : List (Nat × Nat) := []
  rowBase : Nat := 0
  att : Map (List Nat) := []
  owns : List Nat := []
deriving DecidableEq, Repr

/-- A pass (14 R311): its crew, whether it is a step or an append group, its sessions in slot order, plan version, next leg,
the order of its first grant, its first candidate stroke, the finish stroke of its latest leg, whether it holds PCs, whether its
context lies in a lane image, what it has been charged since its first leg (blade-µs, Combine-µs; 14 R315), whether its legs run by a
course (10 R230), and the strokes that a Combine step of it still takes (22 R475). -/
structure Pass where
  crew : Nat
  tenant : Nat
  model : Nat
  version : Nat
  isAppend : Bool
  sessions : List Nat
  leg : Nat := 0
  started : Option Nat := none
  firstCand : Nat
  lastFinish : Nat := 0
  held : Bool := false
  holdStroke : Nat := 0
  pcs : List Nat := []
  image : Option Nat := none
  bladeUs : Nat := 0
  cmbUs : Nat := 0
  lap : Bool := false
  cmbLeft : Option Nat := none
deriving DecidableEq, Repr

/-- A Split attribution of one stroke's deferral (14 R324): kind, crew (0 for kinds 1 to 3) and count. -/
structure SplitCause where
  kind : Nat
  crew : Nat
  count : Nat
deriving DecidableEq, Repr

/-- A crew (14 R308, R313, R315, R323). -/
structure Crew where
  tenant : Nat
  model : Nat
  weight : Nat
  fast : Bool
  isAuto : Bool
  split : Bool
  seated : Bool := false
  seatCmd : Option Cmd := none
  v : Nat := 0
  hadCand : Bool := false
  bladeUs : Nat := 0
  cmbUs : Nat := 0
  waste : Nat := 0
  created : Nat := 0
  winStart : Nat := 0
  winPasses : Nat := 0
  winElapsed : Nat := 0
  winLegs : Nat := 0
  winDeferred : Nat := 0
  winSwitch : Nat := 0
  winPreempted : Nat := 0
  causes : List SplitCause := []
  report : List Nat := []
deriving DecidableEq, Repr

/-- A context (14 R316): model program, plan version, and the pass whose carry it holds. -/
structure Ctx where
  model : Nat
  version : Nat
  carry : Option Nat := none
deriving DecidableEq, Repr

/-- What a PC holds (14 R316 to R319): the context in working SRAM and the one in the standby seats. -/
structure PcCtx where
  work : Option Ctx := none
  seat : Option Ctx := none
deriving DecidableEq, Repr

/-- A switch running on a lane (14 R318, R320): the incoming context, the crew it is charged to, the PCs, the strokes it still takes and
takes in all, the lane image a save goes to, the PCs on which it has failed, the energy of its transfers in each stroke, and how many blades
of each PC have been transferred, of those PCs that save or restore whole. -/
structure Switch where
  lane : Nat
  incoming : Ctx
  crew : Nat
  pcs : List Nat
  strokes : Nat
  saveImage : Option Nat := none
  isPreempt : Bool := false
  failed : List Nat := []
  moved : Map Nat := []
  whole : List Nat := []
  total : Nat := 0
  energyFj : Nat := 0
deriving DecidableEq, Repr

end Sys2Proof.Machine
end

