-- ==== Sys2Proof/Machine/RecCommit.lean ====
section
/-! DEFINITION. What a stroke's catch and drive stage for its finish (06_the_stroke.md R126, R127): commits, and completions
that the recovery after the finish sends (03_sessions_and_epochs.md R42). -/

namespace Sys2Proof.Machine

/-- A completion to be sent in the recovery after the finish (03 R42): the command, the status and the result words. -/
structure Done where
  cmd : Cmd
  status : Nat
  c0 : Nat := 0
  c1 : Nat := 0
  c2 : Nat := 0
  c3 : Nat := 0
deriving DecidableEq, Repr

/-- A commit staged for the finish. Each names what becomes true there. -/
inductive Commit where
  /-- a command's completion is due -/
  | done (d : Done)
  /-- OPEN: the descriptor comes into being (03 R48) -/
  | openSes (sid : Nat) (x : Ses) (c : Cmd)
  /-- IMPORT BEGIN: shared spans and the window become the session's (03 R49, 04 R72) -/
  | importBegin (sid : Nat) (nodes : List Nat) (w : ImpWin) (c : Cmd)
  /-- IMPORT COMMIT (03 R49, 04 R74) -/
  | importCommit (sid : Nat) (c : Cmd)
  /-- IMPORT ABORT, or the device's own abort where there is no command (03 R49, R50) -/
  | importAbort (sid : Nat) (c : Option Cmd)
  /-- a STEP or APPEND whose last leg has ended (03 R51, R52) -/
  | compute (sid blade cmb : Nat)
  /-- REVIVE of a moving session that had nothing to bring in (03 R54) -/
  | reviveMoving (sid : Nat) (c : Cmd)
  /-- FORK, with the parent as it stood when FORK bound (03 R40, R56; 04 R77) -/
  | fork (sid child root : Nat) (cap : Ses) (c : Cmd)
  /-- PIN (03 R57) -/
  | pin (sid : Nat) (c : Cmd)
  /-- RELEASE (03 R57) -/
  | release (sid : Nat) (c : Cmd)
  /-- JOIN (14 R310) -/
  | join (sid crew : Nat) (c : Cmd)
  /-- ACTIVE becomes WAITING for idleness (03 R37) -/
  | idle (sid : Nat)
  /-- PARK was cancelled (03 R54) -/
  | parkCancelled (sid : Nat) (c : Cmd)
  /-- STREAM KIND 0 on a session (11 R258) -/
  | streamSession (sid : Nat) (c : Cmd) (data : List Byte)
  /-- CREW modify (14 R309) -/
  | crewModify (crew : Nat) (c : Cmd)
  /-- a page copied by the Mover stands at its destination (05 R92, R97) -/
  | landed (op page frame ver : Nat) (cells : Map Byte)
  /-- a session was damaged in the stroke: its event carries the epoch at the finish (03 R62, R64) -/
  | damaged (sid gen : Nat)
  /-- Tier H bytes written in the stroke (05 R93) -/
  | touched (page : Nat)
  /-- PLAN_UNLOAD (09 R207, 06 R127) -/
  | planUnload (c : Cmd)
  /-- TABLE_UNLOAD (11 Table 11-10, 06 R127) -/
  | tableUnload (c : Cmd)
deriving DecidableEq, Repr

end Sys2Proof.Machine
end

