-- ==== Sys2Proof/Machine/RecFlt.lean ====
section
/-! DEFINITION. Records of faults, Erg tests and fences (21_faults_and_erg.md). -/

namespace Sys2Proof.Machine

/-- A fence-table entry (21 R458, Table 21-9): unit ID, class that fenced it, times fenced (2 bits), whether it is fenced
now, and the device time of the latest fence. -/
structure FenceEnt where
  unit : Nat
  cls : Nat
  count : Nat
  active : Bool
  time : Nat
deriving DecidableEq, Repr

/-- A fault record (21 R462, Table 21-8). -/
structure FltRec where
  cls : Nat
  outcome : Nat := 0
  erg : Nat := 0
  code : Nat
  unit : Nat
  stroke : Nat
  time : Nat
  object : Nat
deriving DecidableEq, Repr

/-- An error that has occurred in this stroke and takes effect at its finish (21 R448, R449): its class, the unit whose Erg test it
starts, the status code, the frame and row concerned where it has them, the SAS page, the model of an overrun, and how many
codewords a correction concerns. -/
structure ErrNote where
  cls : Nat
  unit : Nat
  code : Nat
  frame : Option Nat := none
  row : Option Nat := none
  page : Option Nat := none
  model : Option Nat := none
  count : Nat := 1
deriving DecidableEq, Repr

/-- An Erg test queued or running (21 R448, R452, R459; 22 R476): the unit, the class that started it (0: `ERG` or bring-up coverage),
its fault records, the `ERG` commands that ask for it, the frames it holds, the time it still needs (ns of slices, or strokes), what it
is granted ahead of legs, whether it waits for its first catch, the strokes in a row with too little time, and its result once it has
ended: whether it passed, and the failing row. -/
structure ErgTest where
  unit : Nat
  cls : Nat
  logs : List Nat := []
  cmds : List Cmd := []
  frames : List Nat := []
  left : Nat := 0
  owed : Nat := 0
  queued : Bool := true
  starved : Nat := 0
  ended : Option (Bool × Option Nat) := none
deriving DecidableEq, Repr

/-- One event of an error history (21 R454): what (0 transient fault, 1 uncorrectable codeword in a frame, 2 corrected codeword in a
row, 3 overrun of a plan), of which unit, frame, row or model, and in which stroke. -/
structure FltHist where
  what : Nat
  key : Nat
  stroke : Nat
deriving DecidableEq, Repr

end Sys2Proof.Machine
end

