-- ==== Sys2Proof/Machine/RecBlade.lean ====
section
/-! DEFINITION. Records of blades, lane buses, lane reduce units and Combine groups while a leg runs (07_blades.md, 08_lane_dies.md,
09_decode_legs.md R214). -/

namespace Sys2Proof.Machine

/-- What a `SHIP` entry has queued for the lane bus (07 R154): tag, area (0 words, 1 pairs), its first word or pair and their number, the
shipped bytes and their poison. -/
structure Ship where
  leg : Nat
  tag : Nat
  area : Nat
  off : Nat := 0
  count : Nat
  bytes : List Byte
  poison : Bool
deriving DecidableEq, Repr

/-- A blade while it has something to do (07 R144 to R154, R164): the granted leg it runs, the next entry of its list for the leg,
the `BASE` and `SBASE` registers, poisoned accumulator words and pairs, queued ships, whether it waits for a slot or a
segment, and whether a refresh fell due while its activation was launched. A blade without a record is idle. -/
structure BladeRun where
  leg : Option Nat := none
  at_ : Nat := 0
  kbase : Nat := 0
  sblk : Nat := 0
  words : List Nat := []
  pairs : List Nat := []
  ships : List Ship := []
  stalled : Bool := false
  forced : Bool := false
deriving DecidableEq, Repr

/-- A lane bus (08 R175, R177): the schedule transfers of each granted leg already done, and the blade last served for `SHIP`. -/
structure BusSt where
  done : Map Nat := []
  last : Nat := 127
deriving DecidableEq, Repr

/-- An open tag of a lane reduce unit (08 R180, R181): contributions received, the state so far as FP32 words (`SUM`), or pairs
and their words (`PAIR`), poison, and by blade the pairs that await their words. -/
structure TagSt where
  got : Nat := 0
  bytes : List Byte := []
  pairs : List Byte := []
  poison : Bool := false
  halves : Map (List Byte) := []
deriving DecidableEq, Repr

/-- A result delivered to a Combine group (08 R181): its leg, tag, lane, kind, bytes and poison. -/
structure CmbRes where
  leg : Nat
  group : Nat
  dtag : Nat
  lane : Nat
  kind : Nat
  log2d : Nat
  pairs : List Byte
  bytes : List Byte
  poison : Bool
deriving DecidableEq, Repr

/-- Blades (by lane × 8,192 + half-bank), their SRAM (byte address blade × 32,768 + offset, the standby seat at offset 16,384), the
owed refresh counts by lane × 4,096 + bank, lane buses by PC, tags by (granted leg × 16 + lane) × 4,096 + tag, the Combine
groups' stores (byte address group × 2^23 + offset), results delivered in order of arrival, SENDs done as (leg, store address), routed
experts of each pass (09 R206), the time each group has been busy in this stroke (ns), the device-wide blade clock (08 R168) and its count
at the latest boundary, the latest due point of each bank by lane × 4,096 + bank (R170), and each blade's slot account: its window and
the clocks charged in it (R173). -/
structure BladeState where
  runs : Map BladeRun := []
  sram : Map Byte := []
  owed : Map Nat := []
  buses : Map BusSt := []
  tags : Map TagSt := []
  store : Map Byte := []
  results : List CmbRes := []
  sends : List (Nat × Nat) := []
  routed : Map (List Nat) := []
  cmbNs : Map Nat := []
  clock : Nat := 0
  strokeClk : Nat := 0
  lastDue : Map Nat := []
  account : Map (Nat × Nat) := []
deriving DecidableEq, Repr

end Sys2Proof.Machine
end

