-- ==== Sys2Proof/Machine/RecNet.lean ====
section
/-! DEFINITION. Records of the host link (15_host_link.md): associations, device frames, queue pairs, RDMA requests, and what
waits for them. -/

namespace Sys2Proof.Machine

/-- A frame of an association that the device has built (15 R337): its type, sequence number and payload, whether the payload goes
encrypted, how often its timeout has sent it again, and whether a `SACK` has shown it received. The transmission counter and the acknowledgement are those of the moment at which it
leaves (15 R341). -/
structure DevFrame where
  ty : Nat
  seq : Nat
  payload : List Byte
  enc : Bool
  retries : Nat := 0
  sacked : Bool := false
deriving DecidableEq, Repr

/-- Association states (15 Table 15-17, `BWP_ASSOC0.STATE`). -/
inductive AssocSt where
  | opened | lingering
deriving DecidableEq, Repr

/-- An association (15 R339 to R341): its ID, domain, interface, host endpoint, queues, key, whether its frames go encrypted, the host's
and the device's sequence numbers, the device's transmission counter and those of the host's frames that were accepted, frames held
out of order, frames sent and not yet acknowledged, frames waiting for window, bytes of the stream not yet cut into frames, whether an
acknowledgement is owed, and the order in which the domain's associations were opened. -/
structure Assoc where
  id : Nat
  dom : Nat
  iface : Nat
  ip : Nat
  port : Nat
  events : Bool
  queues : Nat
  key : List Byte
  enc : Bool
  st : AssocSt := .opened
  age : Nat
  rx : Nat
  tx : Nat
  txc : Nat := 0
  held : Map BwpFrame := []
  unacked : List DevFrame := []
  unsent : List DevFrame := []
  stream : List Byte := []
  ackDue : Bool := false
deriving DecidableEq, Repr

/-- A reliable-connected queue pair (15 R350, R353). `rate` is the send rate in 1/100 of line rate; `lastCnp` the device time in ns of
the last congestion notification packet sent for it, `nextAt` the device time before which its rate lets no further packet go. -/
structure Qp where
  dom : Nat
  qpn : Nat
  remoteQpn : Nat
  iface : Nat
  pmtu : Nat
  notify : Bool
  egq : Nat
  ackTimeout : Nat
  gidLo : Nat
  gidHi : Nat
  sqPsn : Nat
  rqPsn : Nat
  nextHop : Nat
  pkey : Nat
  err : Bool := false
  retries : Nat := 0
  rnrRetries : Nat := 0
  rate : Nat := 10000
  lastCnp : Option Nat := none
  nextAt : Nat := 0
  closing : Option Cmd := none
deriving DecidableEq, Repr

/-- Why the device reads host memory: the data of a command that was handed on (15 R351), a checkpoint target's anchor (17 R370),
or a block of a restore (17 R386). -/
inductive ReadFor where
  | command (c : Cmd)
  | anchor (tenant : Nat)
  | restore (id place : Nat)
  | copyUp (page : Nat)
deriving DecidableEq, Repr

/-- An RDMA READ asked for and not answered (15 R351); whether its request has entered its queue. -/
structure RdmaRead where
  qp : Nat
  rkey : Nat
  addr : Nat
  len : Nat
  use : ReadFor
  asked : Bool := false
deriving DecidableEq, Repr

/-- What an acknowledged group of RDMA WRITEs leads to: the completion sent at once (a stream engine's request, a log read), the
completion staged for the recovery (memory queries, gathers), or progress of a checkpoint or an export. -/
inductive WriteFor where
  | now (d : Done)
  | engine (e : Nat) (d : Done)
  | recovery (d : Done)
  | shard (job bytes : Nat)
  | manifest (job bytes : Nat)
  | anchor (job : Nat)
  | quiet
deriving DecidableEq, Repr

/-- An RDMA WRITE the device has issued and that is not acknowledged, with the packets of it that have entered their queue. -/
structure RdmaWrite where
  qp : Nat
  rkey : Nat
  addr : Nat
  data : List Byte
  use : WriteFor
  pkts : Nat := 0
deriving DecidableEq, Repr

/-- Feather states (15 Table 15-15, `PORTG_FEATHER.STATE`). -/
inductive FeatherSt where
  | full | entering | feather | waking
deriving DecidableEq, Repr

def FeatherSt.code : FeatherSt → Nat
  | .full => 0 | .entering => 1 | .feather => 2 | .waking => 3

/-- A frame that the device sends (16 R357): a BWP frame of an association, or of an endpoint without one; a queue pair's RDMA READ request,
packet of an RDMA WRITE, SEND, acknowledgement, NAK with its syndrome, or congestion notification packet; or a link-control frame. -/
inductive EgFrame where
  | bwp (assoc : Nat) (f : DevFrame)
  | helloRsp (dom ip port : Nat) (f : DevFrame)
  | read (id : Nat)
  | write (id pkt : Nat)
  | notice (qp : Nat) (data : List Byte)
  | ackPkt (qp : Nat)
  | nak (qp syn : Nat)
  | cnp (qp : Nat)
  | arpReply (mac ip : Nat)
  | neighbourReply (mac ip : Nat)
  | pfc (prio : Nat) (quanta : Nat)
  | mka
  | ptp (kind : Nat)
deriving DecidableEq, Repr

/-- A frame in an egress queue with its bytes from destination address to FCS without VLAN tag and MACsec (16 R358). -/
structure EgEnt where
  fr : EgFrame
  bytes : Nat
deriving DecidableEq, Repr

/-- An egress queue (16 R357, R360, R361): its frames, the finish tag of the head (or of the last head), the policer's buckets in units of
1/8,000 byte with the device time up to which they are filled, whether the head has been counted red and as waiting for a window, and
the values of `EGQ_Q_CFG`, `EGQ_Q_RATE` and `EGQ_Q_BURST` that the policer uses. -/
structure EgQ where
  frames : List EgEnt := []
  tag : Nat := 0
  tc : Nat := 262144 * 8000
  tp : Nat := 262144 * 8000
  fillAt : Nat := 0
  red : Bool := false
  waited : Bool := false
  cfg : Nat := 16 + 2 ^ 11
  rate : Nat := 800000 + 800000 * 2 ^ 32
  burst : Nat := 262144 + 262144 * 2 ^ 32
deriving DecidableEq, Repr

/-- A gate control list (16 R363): duration in ns and mask of each entry. -/
abbrev GateList := List (Nat × Nat)

/-- An interface (16 R359 to R365): virtual time, the gate list in force and the entry it is at, a committed list with the boundaries left,
priorities paused by the peer, link-control frames to send, and the frame on the wire with its bytes of BWP, if it is one. -/
structure EgIface where
  v : Nat := 0
  gates : GateList := [(250000, 2 ^ 64 - 1)]
  entry : Nat := 0
  next : Option (Nat × GateList) := none
  paused : List Nat := []
  ctl : List EgFrame := []
  wire : Option (EgFrame × List Byte) := none
deriving DecidableEq, Repr

end Sys2Proof.Machine
end

