-- ==== Sys2Proof/Machine/RecTxt.lean ====
section
/-! DEFINITION. Records of the Text unit (11_text_unit.md): vocabularies, grammar tables, stream contexts, grammar states and
requests. -/

namespace Sys2Proof.Machine

/-- A token of a vocabulary (11 Table 11-3, `TOKENS`). -/
structure Tok where
  str : List Byte
  special : Bool
  endTurn : Bool
  emit : Bool
deriving DecidableEq, Repr

/-- A checked vocabulary image (11 R234, R235): its header and the sections as the Text unit uses them. -/
structure Vocab where
  model : Nat
  version : Nat
  maxPiece : Nat
  whole : Bool
  toks : List Tok
  merges : List (Nat × Nat × Nat)
  byteMap : List Nat
  classL1 : List Nat
  classL2 : List Byte
  split : List Byte
  specials : List Nat
  pages : List Nat := []
  image : List Byte := []
  isSealed : Bool := false
deriving DecidableEq, Repr

/-- A state and a transition of a grammar table (11 Table 11-9). -/
structure GrmSt where
  first : Nat
  count : Nat
  accept : Bool
  mask : Nat
  defCount : Nat
  defFirst : Nat
deriving DecidableEq, Repr

structure GrmTr where
  lo : Nat
  hi : Nat
  op : Nat
  next : Nat
  ret : Nat
deriving DecidableEq, Repr

/-- A checked grammar table (11 R250). -/
structure Grm where
  table : Nat
  version : Nat
  model : Nat
  start : Nat
  depth : Nat
  states : List GrmSt
  trans : List GrmTr
  masks : List (List Byte)
  deferred : List Nat
  pages : List Nat := []
  image : List Byte := []
  isSealed : Bool := false
deriving DecidableEq, Repr

/-- The versions of one image (11 R255). -/
structure VocabProg where
  cur : Vocab
  old : Option Vocab := none
deriving DecidableEq, Repr

structure GrmProg where
  cur : Grm
  old : Option Grm := none
deriving DecidableEq, Repr

/-- A stream context (11 Table 11-1): its session if it belongs to one, its model, the input carries, the output pending, the
hold-back, bytes ready for delivery (11 R257, R258), the stop set and the output offset. -/
structure TxtCtx where
  session : Option Nat
  model : Nat
  inCarry : List Byte := []
  pieceCarry : List Byte := []
  pend : List Byte := []
  hold : List Byte := []
  ready : List Byte := []
  stops : List (List Byte) := []
  offset : Nat := 0
deriving DecidableEq, Repr

/-- A grammar state record (11 R253): its session, the table version it is bound to, the state, the stack (top first) and
`REJECTED`. -/
structure GrmRec where
  session : Nat
  table : Nat
  version : Nat
  st : Nat
  stack : List Nat := []
  rejected : Bool := false
deriving DecidableEq, Repr

/-- A request that waits for a stream engine or for the finish (11 R498), in arrival order. -/
structure TxtReq where
  cmd : Cmd
  data : List Byte
deriving DecidableEq, Repr

/-- A gather table (13 R292, R293): the fields of its header, its pages, and those changed since their last sealed copy (R304). -/
structure GsxTab where
  table : Nat
  version : Nat
  tenant : Nat
  updatable : Bool
  rows : Nat
  fmt : Nat
  log2Stride : Nat
  rowBytes : Nat
  auxBytes : Nat
  digest : List Byte := []
  pages : List Nat := []
  changed : List Nat := []
deriving DecidableEq, Repr

/-- The versions of a gather table (13 R296). -/
structure GsxProg where
  cur : GsxTab
  old : Option GsxTab := none
deriving DecidableEq, Repr

/-- A command in a table's order (13 R297): waiting, running for `left` more strokes, or with its output outstanding; the version it is
bound to. -/
inductive GsxPh where
  | waiting | running | output
deriving DecidableEq, Repr

structure GsxReq where
  cmd : Cmd
  data : List Byte
  ph : GsxPh := .waiting
  left : Nat := 0
  version : Nat := 0
deriving DecidableEq, Repr

/-- A table image being loaded (11 R255, R256; 13 R294): the command, its kind (0 vocabulary, 1 grammar table, 2 gather table), what it
names, its version, the pages it goes to and the Mover entry that brings them. -/
structure TabLoad where
  cmd : Cmd
  kind : Nat
  key : Nat
  version : Nat
  pages : List Nat
  image : List Byte
  vocab : Option Vocab := none
  grm : Option Grm := none
  gsx : Option GsxTab := none
  op : Nat
deriving DecidableEq, Repr

/-- A mask the grammar engine has completed for a session's rated position (11 R252): one bit per token. -/
structure GrmMask where
  idx : Nat
  mask : List Bool
deriving DecidableEq, Repr

end Sys2Proof.Machine
end

