-- ==== Sys2Proof/Machine/RecSvc.lean ====
section
/-! DEFINITION. Records of the Umpire (19_umpire.md), of checkpoints (17_checkpoints.md), of power and hold-up
(18_power_and_hold_water.md) and of security (20_security.md). -/

namespace Sys2Proof.Machine

/-! ### The Umpire -/

/-- A tally record (19 Table 19-2). -/
structure TallyRec where
  session : Nat
  gen : Nat
  kind : Nat
  text : Bool
  detok : Nat := 0
  meter : Nat
  tokIn : Nat := 0
  tokOut : Nat := 0
  textBytes : Nat := 0
  blade : Nat := 0
  cmb : Nat := 0
deriving DecidableEq, Repr

/-- A meter record in the Umpire (19 R404, R405, R409, Table 19-4): cumulative quantities, the flags of the period, and the
pages parked now (their page-time is held in page-ns). -/
structure Meter where
  session : Nat
  gen : Nat
  tenant : Nat
  hasText : Bool
  tokIn : Nat := 0
  tokOut : Nat := 0
  blade : Nat := 0
  cmb : Nat := 0
  parkedNs : Nat := 0
  textBytes : Nat := 0
  parked : Nat := 0
  openedNow : Bool := false
  closedNow : Bool := false
  mismatches : Nat := 0
  changed : Bool := false
deriving DecidableEq, Repr

/-- Umpire states (19 Table 19-7, `UMP_STATUS.STATE`). -/
inductive UmpRun where
  | off | selfTest | running | fault
deriving DecidableEq, Repr

def UmpRun.code : UmpRun → Nat
  | .off => 0 | .selfTest => 1 | .running => 2 | .fault => 3

/-- A receipt in the Umpire's log (19 R411, R414): its place in the tenant's sequence, its bytes without `PREV_HASH` and the signature
(both are made at signing), the whole receipt once it is signed, and whether it was acknowledged. -/
structure Receipt where
  tenant : Nat
  rseq : Nat
  body : List Byte
  bytes : Option (List Byte) := none
  acked : Bool := false
deriving DecidableEq, Repr

/-- What the Umpire keeps per tenant: the next receipt number, the hash of the last signed receipt, the Umpire time at which the period
began, flags for the next receipt, and the `RECEIPT_NOW`s that wait for the next finish and for its frame. -/
structure UmpTen where
  nextRseq : Nat := 1
  prevHash : List Byte := List.replicate 32 0
  start : Nat := 0
  gap : Bool := false
  power : Bool := false
  nowCmds : List Cmd := []
  nowDue : List Cmd := []
deriving DecidableEq, Repr

/-- An event record of the Umpire's log (19 R414): its kind, Umpire time, words, and the hash that chains it. -/
structure UmpEvent where
  kind : Nat
  time : Nat
  words : Nat × Nat
  chain : List Byte
deriving DecidableEq, Repr

/-! ### Checkpoints -/

/-- Where a page image lies on a target (17 R376, R379). -/
structure CkpRef where
  ckpt : Nat
  shard : Nat
  slot : Nat
deriving DecidableEq, Repr

/-- A session's base on its tenant's target (17 R375). -/
structure CkpBase where
  ckpt : Nat
  positions : Nat
  depth : Nat
  oldest : Nat
deriving DecidableEq, Repr

/-- A session captured at its binding catch (17 R373, R379): the words and states written in its record, and the pages its
references name in order, with SHARED, each with its reference once it has one. -/
structure CkpRec where
  sid : Nat
  gen : Nat
  epoch : Nat
  diff : Bool
  depth : Nat
  baseCkpt : Nat
  basePos : Nat
  positions : Nat
  desc : List Nat
  grm : List Byte
  txt : List Byte
  first : Nat
  layers : Nat
  log2p : Nat
  pages : List (Nat × Bool)
  refs : Map CkpRef := []
deriving DecidableEq, Repr

/-- A page body already placed in a shard of a running checkpoint: its digest and its 65,536-byte image as sparse cells. -/
structure CkpBody where
  digest : List Byte
  cells : Map Byte
deriving DecidableEq, Repr

/-- A checkpoint or an export (17 R372, R381; 20 R435): its command if it has one, whether it is an EXPORT (and to host memory), whether
it serves REMOTE requests, the sessions still to bind, the records captured, the checkpoint epoch and the device time of its first
binding catch, its Mover entry, the bodies of the shard being filled with the digests placed so far, shards and pages written, pages not
written by R376, writes outstanding, whether the manifest was sent and acknowledged with its place and length, where its first
shard stands and where the next write goes (an export to host memory), and whether it waits for log room and for how many strokes. -/
structure CkpJob where
  tenant : Nat
  cmd : Option Cmd
  isExport : Bool := false
  toHost : Bool := false
  full : Bool := false
  remote : Bool := false
  toBind : List (Nat × Nat) := []
  recs : List CkpRec := []
  skipped : Nat := 0
  started : Bool := false
  epoch : Nat := 0
  time : Nat := 0
  timed : Bool := false
  op : Option Nat := none
  bodies : List CkpBody := []
  seen : List (List Byte × CkpRef) := []
  shards : Nat := 0
  written : Nat := 0
  dedup : Nat := 0
  pendingWrites : Nat := 0
  manifest : Bool := false
  acked : Bool := false
  manifestAt : Nat := 0
  manifestLen : Nat := 0
  first : Nat := 0
  placed : Bool := false
  at_ : Nat := 0
  blocked : Bool := false
  waited : Nat := 0
deriving DecidableEq, Repr

/-- What the device keeps of a tenant's target beside its registers (17 R369 to R371, R376, R388): a write of `ENABLE` that waits for
its finish, whether the anchor has been read, the log's write offset, the next checkpoint epoch and the latest complete one, the
checkpoints not released with where they start and where their manifest ends, the digest store, and the bases of sessions. -/
structure CkpTgt where
  turn : Option Bool := none
  ready : Bool := false
  write : Nat := 65536
  next : Nat := 0
  complete : Nat := 0
  log : List (Nat × Nat × Nat) := []
  digests : List (List Byte × CkpRef) := []
  bases : Map CkpBase := []
deriving DecidableEq, Repr

/-- A session record read from a manifest (17 R379). -/
structure RestRec where
  sid : Nat
  gen : Nat
  epoch : Nat
  diff : Bool
  depth : Nat
  baseCkpt : Nat
  basePos : Nat
  positions : Nat
  desc : List Nat
  grm : List Byte
  txt : List Byte
  refs : List CkpRef
deriving DecidableEq, Repr

/-- A manifest read back (17 R378, R383): its checkpoint epoch, writer, place, whether it is complete, its shards, and the records
that could be read. -/
structure Manifest where
  epoch : Nat
  serial : Nat
  off : Nat
  complete : Bool
  shards : Nat
  recs : List RestRec
deriving DecidableEq, Repr

/-- A good shard head (17 R377, R384): where its bodies start, who wrote it, under which key, and its directory. -/
structure ShardHead where
  ckpt : Nat
  shard : Nat
  off : Nat
  serial : Nat
  key : List Byte
  dir : List (List Byte × List Byte)
deriving DecidableEq, Repr

/-- A session being restored (17 R384 to R386): who wrote it, the manifest chosen, its record, its result so far, and, once its pages
are charged, its new Session ID, its page list's first page, its first page, the
reference of each, those that have not arrived and those lost; and whether it has appeared. -/
structure RestSes where
  serial : Nat
  sid : Nat
  gen : Nat
  ckpt : Nat := 0
  rec_ : Option RestRec := none
  newer : Bool := false
  result : Option Nat := none
  model : Nat := 0
  charged : Bool := false
  newSid : Nat := 0
  newGen : Nat := 0
  root : Nat := 0
  base : Nat := 0
  oldest : Nat := 0
  src : List CkpRef := []
  left : List Nat := []
  lost : List Nat := []
  up : Bool := false
deriving DecidableEq, Repr

/-- Where a restore stands (17 Table 17-7): reading the anchor, manifests, shard heads; waiting for charges; reading pages; writing the
report. -/
inductive RestStage where
  | anchor | manifests | heads | charges | pages | report
deriving DecidableEq, Repr

/-- A restore in progress (17 R383 to R386): the command, the list of manifests named, the stage, the anchor read, the manifests still to
read and read, the shard heads still to read (checkpoint epoch, shard, place) and read, the sessions seen, its Mover entry, the reads of
pages in flight by the place of their body, and the strokes it has waited for charges. -/
structure RestoreJob where
  cmd : Cmd
  list : List Nat
  stage : RestStage := .anchor
  anchor : List (Nat × Nat × Nat) := []
  todo : List Nat := []
  manifests : List Manifest := []
  walks : List (Nat × Nat × Nat) := []
  heads : List ShardHead := []
  sess : List RestSes := []
  op : Option Nat := none
  flying : List Nat := []
  waited : Nat := 0
deriving DecidableEq, Repr

/-- A page left in Tier N by a lazy restore (17 R385): its tenant, its reference, where its body stands in the region, the key, nonce
and tag it opens with, and its digest. -/
structure LazyPage where
  tenant : Nat
  ref : CkpRef
  off : Nat
  key : List Byte
  tag : List Byte
  digest : List Byte
deriving DecidableEq, Repr

/-! ### Security -/

/-- A unit allotment (20 R439, R441): PCs as ten words, flash channels and Combine groups as masks. -/
structure Allot where
  pcs : List Nat
  fch : Nat
  cmbg : Nat
deriving DecidableEq, Repr

/-- A host domain of the Rigging image (20 R430): rights of Table 20-4 and the tenant set as 64 words. -/
structure RigDom where
  rights : Nat
  tenants : List Nat
  key : List Byte := []
deriving DecidableEq, Repr, Inhabited

/-- A Rigging image (20 R429) as far as the device acts on it. Keys and PUF helper data stand behind the free values that use them;
`unwraps` says whether its identity key unwraps under this module's root secret (20 R427), `quick` is `BOOT_CFG.QUICK`. -/
structure Rigging where
  version : Nat
  valid : Bool
  serial : Nat := 0
  macs : List Nat := []
  doms : List RigDom := []
  isolated : Bool := false
  conf : Bool := false
  allots : Map Allot := []
  newOwner : Option Nat := none
  quick : Bool := false
  unwraps : Bool := true
  digest : List Byte := []
deriving DecidableEq, Repr, Inhabited

/-- A firmware image in a slot (20 R424): its security version, whether its signature verifies, and its digest. -/
structure FwImage where
  version : Nat
  valid : Bool
  digest : List Byte
deriving DecidableEq, Repr

/-- A tenant's checkpoint keys (20 R432): the generations held, the words written so far, and an installation waiting. -/
structure CkpKey where
  cur : Option Nat := none
  prev : Option Nat := none
  curKey : List Nat := []
  prevKey : List Nat := []
  words : List Nat := [0, 0, 0, 0]
  pend : Option Nat := none
deriving DecidableEq, Repr

/-- A rights change waiting for the finish (20 R431): domain, register offset and word. -/
structure RightsChange where
  dom : Nat
  off : Nat
  word : Nat
deriving DecidableEq, Repr

/-- An attestation waiting for its finish (20 R437), and whether its binding catch has passed. -/
structure Quote where
  cmd : Cmd
  bound : Bool
deriving DecidableEq, Repr

/-- What an image for configuration flash says (20 R424, R429), whose layout the spec does not give: a Rigging image's fields and whether it
is signed for an owner (the hash of the owner key; none: the one set at manufacture), and a firmware image's security version and
whether it is signed with the Mithes key. -/
opaque rigParse : List Byte → Rigging
opaque rigSigned : Option Nat → List Byte → Bool
opaque fwParse : List Byte → Nat
opaque fwSigned : List Byte → Bool

end Sys2Proof.Machine
end

