-- ==== Sys2Proof/Machine/RecMem.lean ====
section
/-! DEFINITION. Records of memory search (12_memory_search.md): indexes, their versions, walks and the changes that wait for a commit. -/

namespace Sys2Proof.Machine

/-- An entry of a node map (12 R267): the SAS page and slot of the node, `GEN`, and `ALLOC`. -/
structure MapEnt where
  page : Nat
  slot : Nat
  gen : Nat
  alloc : Bool := true
deriving DecidableEq, Repr

/-- An entry node (12 R282). -/
structure EntryNode where
  node : Nat
  gen : Nat
  sketch : Nat
deriving DecidableEq, Repr

/-- A kept version of an index (12 R268): its number, node map, entry nodes, and the SAS page of each map page. -/
structure MemVer where
  version : Nat
  map : Map MapEnt := []
  entries : List EntryNode := []
  pages : Map Nat := []
deriving DecidableEq, Repr

/-- A change to one node's neighbours (12 R280, R284): a back-edge to a new node, or a sweep's removal of the edges to the nodes
tombstoned at or before a version, with the candidates (node, generation, sketch) that refill the list. -/
inductive NodeChange where
  | back (node gen sketch : Nat)
  | sweep (upTo : Nat) (cand : List (Nat × Nat × Nat))
deriving DecidableEq, Repr

/-- An insert record (12 R279): its command and place in it, key, sketch, vector, and the neighbours its walk found (node, generation,
sketch), once it has ended, the code of a refusal, the node it became and whether that is published. -/
structure MemRec where
  cmd : Cmd
  idx : Nat
  key : Nat
  sketch : Nat
  vector : List Byte
  found : Option (List (Nat × Nat × Nat)) := none
  code : Nat := 0
  node : Option (Nat × Nat) := none
  out : Bool := false
  waited : Nat := 0
deriving DecidableEq, Repr

/-- A closed set of changes whose slots are written and being sealed (12 R266, R268): the records, the new map entries, sweep rewrites of
which it holds the last or not, and its pages. -/
structure MemBatch where
  recs : List MemRec
  ents : Map MapEnt
  lastSweep : Bool
  pages : List Nat
  mapPages : Map Nat
deriving DecidableEq, Repr

/-- A repair sweep (12 R284, R285): the version it reads, its commands, the nodes still to read, those read, and the rewrites it has left
for coming commits, once its reads have ended. -/
structure MemSweep where
  from_ : MemVer
  cmds : List Cmd := []
  walk : Nat
  rewrites : Option (List (Nat × List NodeChange)) := none
deriving DecidableEq, Repr

/-- What waits for commit s + 3 (12 R285). -/
structure SweepEnd where
  s0 : Nat
  s : Nat
  cmds : List Cmd
deriving DecidableEq, Repr

/-- A memory index (12 R263, R267, R268): the words of its `MEM_CREATE`, its kept versions (newest first), tombstoned nodes with the
version of their delete, tombstone pages, the last generation of each node ID, the stroke of the last commit, insert records and
delete commands that wait for a commit, the closed batch, the sweep and the sweeps that have ended. -/
structure MemIdx where
  tenant : Nat
  fmt : Nat
  metric : Nat
  dims : Nat
  rMax : Nat
  buildL : Nat
  capM1 : Nat
  word : Nat
  vers : List MemVer
  tombs : Map Nat := []
  tombPages : List Nat := []
  gens : Map Nat := []
  lastCommit : Option Nat := none
  recs : List MemRec := []
  dels : List (Cmd × List Byte) := []
  batch : Option MemBatch := none
  sweep : Option MemSweep := none
  ended : List SweepEnd := []
  dropping : Option Cmd := none
deriving DecidableEq, Repr

/-- What a walk is for: query `idx` of a command, insert record `idx` of a command, or a sweep. -/
inductive WalkFor where
  | query (cmd : Cmd) (idx : Nat)
  | insert (cmd : Cmd) (idx : Nat)
  | sweep
deriving DecidableEq, Repr

/-- An entry of a walk's candidate queue (12 R271). -/
structure Cand where
  dist : Nat
  node : Nat
  gen : Nat
  expanded : Bool := false
deriving DecidableEq, Repr

/-- A result in a walk's heap (12 R264, R271, R288): FP32 score bits. -/
structure Hit where
  node : Nat
  gen : Nat
  key : Nat
  dist : Nat
  sketch : Nat
  score : Nat
deriving DecidableEq, Repr

/-- A walk (12 R271, R275): what it is for, its parameters, the unit whose context it holds and the version it is bound to, its queue, the
nodes it has expanded, its reads in flight (node, page, slot, whether the read is its own), and its counts. `clock` is the time in the drive at
which the last of its reads ended, and `issued` the times at which those in flight were issued, ns (R277). -/
structure Walk where
  use : WalkFor
  index : Nat
  sketch : Nat := 0
  vector : List Byte := []
  l : Nat := 1
  k : Nat := 1
  expandMax : Nat := 1
  beam : Nat := 1
  unit : Option Nat := none
  ver : Option Nat := none
  queue : List Cand := []
  seen : List Nat := []
  flying : List (Nat × Nat × Nat × Bool) := []
  todo : List Nat := []
  hits : List Hit := []
  dead : Nat := 0
  reads : Nat := 0
  coalesced : Nat := 0
  lost : Bool := false
  limit : Bool := false
  stopped : Bool := false
  ended : Bool := false
  expired : Bool := false
  clock : Nat := 0
  issued : Map Nat := []
deriving DecidableEq, Repr

end Sys2Proof.Machine
end

