-- ==== Sys2Proof/Machine/State.lean ====
section
/-! DEFINITION. The state of the MTH-CX64-10 as plain data, the reasons a row can stop, and the state after reset. -/

namespace Sys2Proof.Machine

/-- Faults. The block reports its own errors as status codes, fault records and events (02 R26, 21 R462), which are next
states. `noSuchUnit` is raised by an event row whose operand names a unit the device does not have (a lane above 9, a blade
above 81,919, an interface above 3): safe, since no such event exists on the hardware. -/
inductive Fault where
  | noSuchUnit
deriving DecidableEq, Repr

/-- Refusals. `notModelled` is a row without a meaning: safe, since the machine stops where the hardware goes on. -/
inductive Refusal where
  | notModelled (mnemonic : String)
deriving DecidableEq, Repr

/-- Control space (02): the register words that differ from their reset words (key (bank × 4,096 + page) × 4,096 + offset),
the selection windows by page × 4,096 + offset of their selection register, and the values last written to selection registers. -/
structure RegState where
  ctl : Map Word := []
  wins : Map Win := []
  sel : Map Nat := []
deriving DecidableEq, Repr

/-- What waits to leave the device (15 R344, R345, R348): completions of this recovery, events per domain with the records
dropped since the last one sent, stream records, the commands without completions of each queue (key domain × 64 + queue) in
the order they were handed on (15 R342), those that wait for earlier ones of their queue because `W0.FENCE` is set with the host data that came with them, and receipts
for domains (15 R349). -/
structure OutState where
  cpls : List Cpl := []
  evq : Map (List EvRec) := []
  evLost : Map Nat := []
  streams : List StreamRec := []
  outst : Map (List Cmd) := []
  fenced : List (Cmd × Option (List Byte)) := []
  rcpts : List (Nat × List Byte) := []
deriving DecidableEq, Repr

/-- The Session engine (03): live sessions, the generation the next use of a Session ID takes, and OPEN commands waiting
for quota (R48). -/
structure SesState where
  tab : Map Ses := []
  gens : Map Nat := []
  opens : List Wait := []
deriving DecidableEq, Repr

/-- The Prefix engine (04): nodes and tenant keys. -/
structure PfxState where
  nodes : Map Node := []
  keys : Map PfxKey := []
deriving DecidableEq, Repr

/-- The Tier manager and the Mover (05): page-table entries by SAS page, Tier H bytes (their codewords' check bytes are
always those of 07 R161 and are not held a second time, notes/assumptions/11.md), frames in use,
Tier F copies, advance charges, folded leaves, the Operation Table and class 0 operations waiting for it, cleaning, the
last advice, deferrals of the latest catch and of the one before, pages reserved against the Dirty Budget in this stroke, the half-banks whose system frame stands in another one
(R88), and the pages that each Mover path and each lane of it carries in this stroke (R95). -/
structure TierState where
  ptes : Map Pte := []
  hbm : Map Byte := []
  hUsed : List Nat := []
  sealedAt : Map Sealed := []
  sealCtr : Nat := 0
  charges : List Charge := []
  folded : List Nat := []
  ops : Map OpEnt := []
  opWaits : List OpEnt := []
  cleaning : Cleaning := .off
  advice : List Advice := []
  heldNow : Bool := false
  heldBefore : Bool := false
  dirtyRes : Nat := 0
  sysMoved : Map Nat := []
  pathUsed : Map Nat := []
deriving DecidableEq, Repr

/-- The phases of 06 R126 that the sender's rows separate: no strokes yet (before SL1), between a catch and its finish, or
between a finish and the next catch. -/
inductive Phase where
  | idle | drive | boundary
deriving DecidableEq, Repr

/-- A period, catch length or LANE_GOV word that takes effect at a later boundary (06 R124, R126; 08 R187): boundaries left,
the register's key and its word. -/
structure Delayed where
  left : Nat
  key : Nat
  word : Word
deriving DecidableEq, Repr

/-- Device time (06 R119 to R122): the count of ns, whether the first lock has been made, whether `STK_TIME_SET` waits for an edge, consecutive good updates, the
masters' datasets per port, the step still to be applied at a boundary, and the frequency adjustment (`STK_FREQ_ADJ`). -/
structure TimeState where
  now : Nat := 0
  firstLock : Bool := false
  ppsSet : Bool := false
  good : Nat := 0
  masters : Map PtpDataset := []
  stepBy : Option Int := none
  adj : Nat := 0
deriving DecidableEq, Repr

/-- The Stroke scheduler (06): phase, the stroke in progress with the device time of its start, the period (µs), catch
length (µs) and origin in force, registers changing at a later boundary, a pending realignment, credit and overspend (fJ) and
busy time (1/94 ns) per lane, passes, granted legs, staged commits and completions, the stroke at which SL1 was reached, and the spans
(session, span) that a `STEP` or `APPEND` filled at this finish, whose index entries the recovery builds (10 R221). -/
structure StkState where
  phase : Phase := .idle
  number : Nat := 0
  start : Nat := 0
  period : Nat := 250
  catchUs : Nat := 20
  origin : Nat := 0
  length : Nat := 250000
  delayed : List Delayed := []
  realign : Bool := false
  credit : List Int := List.replicate 10 0
  overspent : List Nat := List.replicate 10 0
  busy : List Nat := List.replicate 10 0
  passes : Map Pass := []
  nextPass : Nat := 0
  grants : Nat := 0
  granted : Map GLeg := []
  commits : List Commit := []
  sl1At : Nat := 0
  begun : Bool := false
  filled : List (Nat × Nat) := []
deriving DecidableEq, Repr

/-- Loaded programs (09): model programs by model, expert sets by model × 4,096 + tenant, loads in flight, and
unloads of expert sets that wait for the steps that use them (R197). -/
structure PrgState where
  progs : Map Prog := []
  sets : Map Prog := []
  loads : List PlanLoad := []
  dropSets : List Cmd := []
deriving DecidableEq, Repr

/-- Crews and contexts (14): crews, v_min, contexts per PC, lane images of the context store in use (pass saved in each) and their bytes
(image × 128 MiB + blade of the lane × 16 KiB + offset), and switches running. -/
structure CrwState where
  crews : Map Crew := []
  vmin : Nat := 0
  pcs : Map PcCtx := []
  images : Map Nat := []
  store : Map Byte := []
  switches : Map Switch := []
deriving DecidableEq, Repr

/-- The lanes' governors (08 R182 to R188), beside the `LANE` registers: lanes with a temperature trip, whether the trip's alarm
stands (23 R491), lanes in their cold start, the protective limits that hold each lane since the latest catch, and the energy (fJ)
that each lane may use in this stroke above P_idle, whether every PLL holds its lock or has been relocked (22 R468), lanes whose credit was too small for a leg in this stroke, and for how many
strokes on end that has been so (05 Table 05-6), and by lane the stroke of the latest step of the slow loop or end of a hold (08 R183). -/
structure GovState where
  trips : List Nat := []
  alarm : Bool := false
  pllOk : Bool := true
  cold : List Nat := []
  limits : Map (List Nat) := []
  spent : List Nat := List.replicate 10 0
  short : List Nat := []
  capped : List Nat := List.replicate 10 0
  slowAt : Map Nat := []
deriving DecidableEq, Repr

/-- The fault block (21): the fault log (a ring by record index modulo 4,096) and the count of records written, the fence table,
errors of the stroke in progress, Erg tests, error histories, the pages whose frames are being rewritten (R449), and the patrol
scrub's row. -/
structure FltState where
  log : Map FltRec := []
  next : Nat := 0
  fences : List FenceEnt := []
  notes : List ErrNote := []
  tests : List ErgTest := []
  hist : List FltHist := []
  repairs : List Nat := []
  scrubRow : Nat := 0
deriving DecidableEq, Repr

/-- The host link (15): associations by slot and the next ID, queue pairs by index, RDMA requests outstanding and asked for, and
the Feather state with the command that waits for it, commands of this chapter to bind at the next catch, whether the
lanes are in self-refresh and the ports still retraining, MACsec keys by interface, transmission counters under the domain keys (15 R338),
the breakout mode in force (15 R328), and the domains' import keys (15 R352). -/
structure LnkState where
  assocs : Map Assoc := []
  nextAssoc : Nat := 1
  age : Nat := 0
  qps : Map Qp := []
  reads : Map RdmaRead := []
  writes : Map RdmaWrite := []
  nextIo : Nat := 0
  feather : FeatherSt := .full
  featherCmd : Option Cmd := none
  toBind : List Cmd := []
  selfRefresh : Bool := false
  retrain : List Nat := []
  mkaKeys : Map Nat := []
  domTxc : Map Nat := []
  breakout : Nat := 0
  rkeys : List Nat := List.replicate 16 0
deriving DecidableEq, Repr

/-- Egress scheduling (16): queues by port × 64 + queue, interfaces, queues whose policer settings were written in this stroke, and
whether police mode dropped a frame in this stroke and in the one before (R366). -/
structure EgState where
  queues : Map EgQ := []
  ifaces : Map EgIface := []
  changed : List Nat := []
  dropNow : Bool := false
  dropBefore : Bool := false
deriving DecidableEq, Repr

/-- The Text unit (11): vocabularies by model, grammar tables by table ID, loads in flight, stream contexts, grammar state
records, requests waiting for an engine, requests that take effect at a finish, the engines' requests, the masks built for
sessions' rated positions with the longest build of the stroke in ns, and the first SAS page of the grammar state store. -/
structure TxtState where
  vocabs : Map VocabProg := []
  grms : Map GrmProg := []
  loads : List TabLoad := []
  ctxs : Map TxtCtx := []
  recs : Map GrmRec := []
  waiting : List TxtReq := []
  engines : Map TxtReq := []
  masks : Map (List GrmMask) := []
  maskNs : Nat := 0
  grmBase : Nat := 0
deriving DecidableEq, Repr

/-- The Gather/Scatter engine (13): tables by ID, and the commands of each table in their order. -/
structure GsxState where
  tabs : Map GsxProg := []
  orders : Map (List GsxReq) := []
deriving DecidableEq, Repr

/-- Memory search (12): indexes, `MEM_CREATE` commands that wait for pages with the strokes they have waited, walks in order of arrival,
and the next walk's number. -/
structure MemState where
  idxs : Map MemIdx := []
  creates : List (Cmd × Nat) := []
  walks : Map Walk := []
  nextWalk : Nat := 0
deriving DecidableEq, Repr

/-- The Umpire and the tally link (19): what the Umpire is doing, the link, the tamper latch and whether its event is still to be
written; the commit hardware's frame sequence, next meter handle, records of this finish, the parked pages it last reported by meter
record, and the frames on the link; strokes each session's commit has waited for the Umpire; and the Umpire's own meters, tenants,
receipts, events, expected sequence and stroke, strokes of the last gaps, period and the one to come, firmware hash and the one to
come, the latest frame's device time and stroke, its own time, the device time and its own time at which the period began, the clock check,
firmware changes of the period, seal number, counts since manufacture, a full log, requests that wait until it runs, and `RECEIPT_NOW`s. -/
structure UmpState where
  run : UmpRun := .off
  link : Bool := false
  tamper : Bool := false
  tamperDue : Bool := false
  seq : Nat := 0
  nextMeter : Nat := 1
  recs : List TallyRec := []
  parkedSent : Map Nat := []
  wire : List (List Byte) := []
  waits : Map Nat := []
  meters : Map Meter := []
  tens : Map UmpTen := []
  receipts : List Receipt := []
  events : List UmpEvent := []
  expSeq : Nat := 0
  expStroke : Option Nat := none
  gapStrokes : List Nat := []
  period : Nat := 4000
  nextPeriod : Option Nat := none
  newFw : Option (List Byte) := none
  fwHash : List Byte := []
  lastDev : Nat := 0
  lastStroke : Nat := 0
  time : Nat := 0
  periodDev : Nat := 0
  clockBad : Bool := false
  updated : Bool := false
  sealNo : Nat := 0
  gaps : Nat := 0
  mismatches : Nat := 0
  logFull : Bool := false
  requests : List (Cmd × List Byte) := []
deriving DecidableEq, Repr

/-- The Checkpoint engine (17): targets by tenant, jobs by number in arrival order with the next number, REMOTE requests of this stroke
(tenant, session), restores by number, pages that a lazy restore left in Tier N by SAS page, and the epochs of records whose manifest is complete since
the latest finish (session, generation, epoch, positions). -/
structure CkpState where
  tgts : Map CkpTgt := []
  jobs : Map CkpJob := []
  nextJob : Nat := 0
  remote : List (Nat × Nat) := []
  restores : Map RestoreJob := []
  lazy : Map LazyPage := []
  arrived : List (Nat × Nat × Nat × Nat) := []
deriving DecidableEq, Repr

/-- The power block (18): the current factor in sixteenths, input power of the last strokes (newest first, with the stroke's
device time), the range flags; the hold-up state installed (R393), the hold-up test in progress with the budget in force before it,
a retest that waits for its catch and a result that waits for its finish, a lower budget with its state waiting to take effect; the
journal's appended and written bytes; a running Hold-water sequence (1 to 3: the trigger; 0: the steps before a reset) and
the cause of a reset that follows it; and the stroke of the last finish. -/
structure PwrState where
  factor : Nat := 16
  means : List (Nat × Nat) := []
  rangeLow : Bool := false
  rangeHigh : Bool := false
  hold : Nat := 0
  testing : Bool := false
  testBudget : Option Nat := none
  retestDue : Bool := false
  result : Option (Nat × Nat) := none
  down : Option (Nat × Nat) := none
  tailIn : Nat := 0
  tailOut : Nat := 0
  water : Option Nat := none
  resetCause : Option Nat := none
  lastFinish : Nat := 0
deriving DecidableEq, Repr

/-- What a Hold-water sequence has recorded in Tier F (18 R397, R400): its cause, whether the end record was written, the stroke
of the last finish, pages sealed (journal included) and lost, its time in µs and the bank's voltage at its end. -/
structure HwRec where
  cause : Nat
  complete : Bool
  stroke : Nat
  flushed : Nat
  lost : Nat
  us : Nat
  mv : Nat
deriving DecidableEq, Repr

/-- Bring-up (22): whether SL0 has been reached, `SB_STAT.BOOT_FAIL`, the sealed images still to
be reinstalled (R471), failed trainings by lane (R470), the record of a Hold-water sequence that R400 reports at SL1, lanes whose
coverage is over, whether the images have been reinstalled, lanes to come online at the next finish, and the times of `BOOT_TIME0` and `BOOT_TIME1`. -/
structure BootState where
  sl0 : Bool := false
  fail : Nat := 0
  plans : List Plan := []
  sets : List Plan := []
  vocabs : List Vocab := []
  grms : List Grm := []
  tabs : Map GsxProg := []
  train : Map Nat := []
  hw : Option HwRec := none
  covered : List Nat := []
  installed : Bool := false
  ready : List Nat := []
  times : List Nat := List.replicate 4 0
deriving DecidableEq, Repr

/-- The module's pins and sideband (23): the input voltage, whether the housekeeping converter runs, `PWR_EN`, `PWR_GOOD` and `RST_N`
(true: high), the coolant outlet's temperature and whether it has been high (R491), the sideband's offset and the bytes that the
latest transaction read, and the device time of the latest `PPS_OUT` pulse. -/
structure ModState where
  inputMv : Nat := 0
  hk : Bool := false
  pwrEn : Bool := false
  pwrGood : Bool := false
  rstN : Bool := false
  outletC : Nat := 0
  coolantHigh : Bool := false
  sbOff : Nat := 0
  sbOut : List Byte := []
  ppsOut : Option Nat := none
deriving DecidableEq, Repr

/-- Security (20): the Rigging and firmware slots, which of each booted, the replay-protected counters and owner key hash, measurement slots,
checkpoint keys, allotments in force and being applied, rights changes waiting, attestations waiting, the export counter, and whether a
frame was dropped for want of encryption in this stroke and in the one before (20 R443). -/
structure SecState where
  rigs : List Rigging := []
  fws : List FwImage := []
  rigSlot : Nat := 0
  fwSlot : Nat := 0
  rigCtr : Nat := 0
  fwCtr : Nat := 0
  owner : Option Nat := none
  meas : List (List Byte) := List.replicate 8 (List.replicate 32 0)
  ckeys : Map CkpKey := []
  allots : Map Allot := []
  pending : List Nat := []
  changes : List RightsChange := []
  quotes : List Quote := []
  exportCtr : Nat := 0
  plainNow : Bool := false
  plainBefore : Bool := false
deriving DecidableEq, Repr

/-- The whole machine. -/
structure State where
  pending : List Instr := []
  freeCtr : Nat := 0
  reg : RegState := {}
  out : OutState := {}
  ses : SesState := {}
  pfx : PfxState := {}
  tier : TierState := {}
  time : TimeState := {}
  stk : StkState := {}
  prg : PrgState := {}
  crw : CrwState := {}
  courses : Map Course := []
  courseWaits : List (Cmd × Nat) := []
  bld : BladeState := {}
  gov : GovState := {}
  flt : FltState := {}
  lnk : LnkState := {}
  eg : EgState := {}
  txt : TxtState := {}
  gsx : GsxState := {}
  mem : MemState := {}
  ump : UmpState := {}
  ckp : CkpState := {}
  pwr : PwrState := {}
  sec : SecState := {}
  boot : BootState := {}
  mod : ModState := {}
deriving DecidableEq, Repr

/-- The Rigging image that stands in configuration flash (20 R429, R430): one slot, in which host domain 0 holds every right but `ENC_REQ`
and every tenant (notes/assumptions/4.md). -/
def firstRigging : Rigging := {
  version := 0, valid := true
  doms := { rights := 15, tenants := List.replicate 64 (2 ^ 64 - 1), key := List.replicate 32 0 } ::
    List.replicate 15 { rights := 0, tenants := List.replicate 64 0, key := List.replicate 32 0 } }

/-- The state after reset: the device right after a power-on (22 Table 22-1, cause 1), with nothing in Tier F. The input stands at its nominal
60 V, `PWR_EN`, `PWR_GOOD` and `RST_N` are high, and the Umpire is in its self-test (19 R406; notes/assumptions/4.md). -/
def State.reset : State := {
  freeCtr := 20
  reg := { ctl := [(2 * 4096 + 0x100, 1)] }
  lnk := { rkeys := (List.range 16).map (fun d => (Config.freeWord d).toNat % 2 ^ 32) }
  ump := { run := .selfTest, fwHash := packFields 8 ((List.range 4).map (fun i => (Config.umpFwHash i).toNat)) }
  sec := { rigs := [firstRigging], fws := [{ version := 0, valid := true, digest := List.replicate 32 0 }] }
  mod := { inputMv := 60000, hk := true, pwrEn := true, pwrGood := true, rstN := true } }

end Sys2Proof.Machine
end

