-- ==== Sys2Proof/Machine/Codes.lean ====
section
/-! DEFINITION. Status codes, event codes and opcodes, by the names the spec gives them. -/

namespace Sys2Proof.Machine

/-! Status codes (03 Table 03-8, 04 R85, 05 Table 05-9, 06 Table 06-5, 07 Table 07-10, 08 Table 08-5, 09 Table 09-9, 10 Table
10-4, 11 Table 11-13, 12 Table 12-8, 13 Table 13-5, 14 Table 14-3, 15 Table 15-14, 16 R366, 17 Table 17-8, 18 R401, 19 Table
19-6, 20 Table 20-6, 21 Table 21-7, 22 R478). -/

def E_OK : Nat := 0x0000
def E_REG_ALIGN : Nat := 0x0201
def E_REG_UNMAPPED : Nat := 0x0202
def E_REG_DENIED : Nat := 0x0203
def E_REG_RANGE : Nat := 0x0204
def E_SES_STATE : Nat := 0x0301
def E_SES_GONE : Nat := 0x0302
def E_SES_DENIED : Nat := 0x0303
def E_SES_LIMIT : Nat := 0x0304
def E_SES_BUSY : Nat := 0x0305
def E_EPOCH_STALE : Nat := 0x0306
def E_EPOCH_AHEAD : Nat := 0x0307
def E_SES_CANCELLED : Nat := 0x0308
def E_APPEND_LONG : Nat := 0x0309
def E_CTX_FULL : Nat := 0x030A
def E_SES_PINNED : Nat := 0x030B
def E_DUR_NO_TARGET : Nat := 0x030C
def E_SES_DAMAGED : Nat := 0x030D
def E_MODEL_UNKNOWN : Nat := 0x030E
def E_EXPORT_SIZE : Nat := 0x030F
def E_PFX_FULL : Nat := 0x0401
def E_QUOTA_H : Nat := 0x0501
def E_QUOTA_F : Nat := 0x0502
def E_TIER_FULL : Nat := 0x0503
def E_SAS_RANGE : Nat := 0x0504
def E_OP_FULL : Nat := 0x0505
def E_MOV_NOCONV : Nat := 0x0506
def E_ALLOT_FULL : Nat := 0x0507
def E_PLACE_DENIED : Nat := 0x0508
def E_NOFIT : Nat := 0x0601
def E_STK_RANGE : Nat := 0x0602
def E_PULL_INVALID : Nat := 0x0701
def E_BLADE_POISON : Nat := 0x0702
def E_PULL_LONG : Nat := 0x0801
def E_GOV_RANGE : Nat := 0x0802
def E_LBUS_PARITY : Nat := 0x0803
def E_REDUCE_INVALID : Nat := 0x0804
def E_PLAN_INVALID : Nat := 0x0901
def E_PLAN_BUSY : Nat := 0x0902
def E_IMPORT_GAP : Nat := 0x0903
def E_POS_LIMIT : Nat := 0x0904
def E_COURSE_INVALID : Nat := 0x0A01
def E_TABLE_BUSY : Nat := 0x0B01
def E_VOCAB_INVALID : Nat := 0x0B02
def E_GRM_INVALID : Nat := 0x0B03
def E_TXT_NOVOCAB : Nat := 0x0B04
def E_GRM_REJECT : Nat := 0x0B05
def E_TXT_CTX_FULL : Nat := 0x0B06
def E_STOP_INVALID : Nat := 0x0B07
def E_TABLE_INUSE : Nat := 0x0B08
def E_TABLE_UNKNOWN : Nat := 0x0B09
def E_TXT_TOKEN : Nat := 0x0B0A
def E_TXT_LONG : Nat := 0x0B0B
def E_TXT_CTX : Nat := 0x0B0C
def E_MEM_INVALID : Nat := 0x0C01
def E_MEM_UNKNOWN : Nat := 0x0C02
def E_MEM_FULL : Nat := 0x0C03
def E_SNAPSHOT_EXPIRED : Nat := 0x0C04
def E_WALK_FULL : Nat := 0x0C05
def E_GSX_INVALID : Nat := 0x0D01
def E_GSX_UNKNOWN : Nat := 0x0D02
def E_GSX_DENIED : Nat := 0x0D03
def E_GSX_RULE : Nat := 0x0D04
def E_GSX_LONG : Nat := 0x0D05
def E_CREW_UNKNOWN : Nat := 0x0E01
def E_CREW_MISMATCH : Nat := 0x0E02
def E_CREW_BUSY : Nat := 0x0E03
def E_CREW_SEAT : Nat := 0x0E04
def E_CREW_NONE : Nat := 0x0E05
def E_CREW_LIMIT : Nat := 0x0E06
def E_CREW_DENIED : Nat := 0x0E07
def E_CREW_RANGE : Nat := 0x0E08
def E_CREW_SWITCH : Nat := 0x0E09
def E_BWP_OPCODE : Nat := 0x0F01
def E_BWP_FORMAT : Nat := 0x0F02
def E_BWP_QUEUE : Nat := 0x0F03
def E_BWP_QFULL : Nat := 0x0F04
def E_FEATHER : Nat := 0x0F05
def E_FEATHER_BUSY : Nat := 0x0F06
def E_QP_FULL : Nat := 0x0F07
def E_QP_DENIED : Nat := 0x0F08
def E_QP_ERROR : Nat := 0x0F09
def E_QP_INVALID : Nat := 0x0F0A
def E_BWP_HELLO : Nat := 0x0F0B
def E_EGQ_RANGE : Nat := 0x1001
def E_CKP_TARGET : Nat := 0x1101
def E_CKP_FULL : Nat := 0x1102
def E_CKP_DENIED : Nat := 0x1103
def E_CKP_INVALID : Nat := 0x1104
def E_RESTORE_NONE : Nat := 0x1105
def E_RESTORE_PART : Nat := 0x1106
def E_HOLDUP_BUSY : Nat := 0x1201
def E_PWR_RANGE : Nat := 0x1202
def E_UMP_DOWN : Nat := 0x1301
def E_UMP_DENIED : Nat := 0x1302
def E_UMP_INVALID : Nat := 0x1303
def E_UMP_LOG_FULL : Nat := 0x1304
def E_SEC_NOKEY : Nat := 0x1401
def E_SEC_MODE : Nat := 0x1402
def E_SEC_RIGGING : Nat := 0x1403
def E_SEC_ALLOT : Nat := 0x1404
def E_SEC_LAST_ADMIN : Nat := 0x1405
def E_SEC_KEY : Nat := 0x1406
def E_SEC_RIGHT : Nat := 0x1407
def E_CW_UNCORR : Nat := 0x1501
def E_SRAM_PARITY : Nat := 0x1502
def E_CMB_CHECK : Nat := 0x1503
def E_FLASH_READ : Nat := 0x1504
def E_FLASH_PROG : Nat := 0x1505
def E_SEAL_AUTH : Nat := 0x1506
def E_LANE_LINK : Nat := 0x1507
def E_ERG_INVALID : Nat := 0x1508
def E_FLT_NOUNFENCE : Nat := 0x1509
def E_FENCED : Nat := 0x150A
def E_SVC_LEVEL : Nat := 0x1601

/-! Event codes (15 Table 15-10, 18 R401, 19 R419, 20 R443, 21, 22 R478). -/

def EV_SES_IDLE : Nat := 0x0301
def EV_SES_IMPORT_ABORT : Nat := 0x0302
def EV_SES_TRAILED : Nat := 0x0303
def EV_SES_DAMAGED : Nat := 0x0304
def EV_PLACE_ADVICE : Nat := 0x0501
def EV_POLICY_OVERRIDE : Nat := 0x0502
def EV_STK_OVERRUN : Nat := 0x0601
def EV_TIME_LOCK : Nat := 0x0602
def EV_TIME_FAULT : Nat := 0x0603
def EV_LANE_THERMAL : Nat := 0x0801
def EV_LANE_TRIP : Nat := 0x0802
def EV_GOV_HOLD_END : Nat := 0x0803
def EV_LANE_COLD_END : Nat := 0x0804
def EV_PLAN_INSTALLED : Nat := 0x0901
def EV_PLAN_RETIRED : Nat := 0x0902
def EV_LC_SHORT : Nat := 0x0A01
def EV_TABLE_INSTALLED : Nat := 0x0B01
def EV_TABLE_RETIRED : Nat := 0x0B02
def EV_MEM_REPAIRED : Nat := 0x0C01
def EV_CREW_SPLIT : Nat := 0x0E01
def EV_PORT_LINK : Nat := 0x0F01
def EV_FEATHER : Nat := 0x0F02
def EV_QP_ERROR : Nat := 0x0F03
def EV_BWP_CLOSED : Nat := 0x0F04
def EV_HOLDUP : Nat := 0x1201
def EV_PWR_RANGE : Nat := 0x1202
def EV_HOLD_WATER : Nat := 0x1203
def EV_HOLD_WATER_RESULT : Nat := 0x1204
def EV_UMP_GAP : Nat := 0x1301
def EV_UMP_MISMATCH : Nat := 0x1302
def EV_UMP_LOG_FULL : Nat := 0x1303
def EV_UMP_DOWN : Nat := 0x1304
def EV_UMP_TAMPER : Nat := 0x1305
def EV_SEC_RIGHTS : Nat := 0x1401
def EV_SEC_ALLOT : Nat := 0x1402
def EV_FENCE : Nat := 0x1501
def EV_ERG : Nat := 0x1502
def EV_PLAN_FENCED : Nat := 0x1503
def EV_SVC_LEVEL : Nat := 0x1601
def EV_LANE_ONLINE : Nat := 0x1602

end Sys2Proof.Machine
end

