-- ==== Sys2Proof/Machine/Ops.lean ====
section
/-! DEFINITION. The named operations over State that every chapter uses: reading and writing register fields, rights of host
domains, errors and events of a page (02 R26 to R28, 15 R345), completions (03 R42, 15 R344) and free values. -/

namespace Sys2Proof.Machine

/-! ### Register words -/

/-- The page of a block's instance (02 R23, Table 02-1). -/
def pageOf : Blk → Nat → Nat
  | .dev, _ => 0x000 | .clk, _ => 0x001 | .boot, _ => 0x002 | .pwr, _ => 0x003 | .stk, _ => 0x004
  | .ses, _ => 0x005 | .pfx, _ => 0x006 | .tier, _ => 0x007 | .mov, _ => 0x008 | .ckp, _ => 0x009
  | .txt, _ => 0x00A | .grm, _ => 0x00B | .gsx, _ => 0x00C | .cmb, _ => 0x00D | .crew, _ => 0x00E
  | .sec, _ => 0x00F | .ump, _ => 0x010 | .flt, _ => 0x011 | .portg, _ => 0x012 | .port, i => 0x013 + i
  | .egq, _ => 0x015 | .bwp, _ => 0x016 | .fshg, _ => 0x017 | .fch, i => 0x020 + i | .lane, i => 0x040 + i
  | .cmbg, i => 0x050 + i | .pch, i => 0x100 + i

/-- The block and instance of a page; none where Table 02-1 lists no such page (02 R23). -/
def blkOfPage (p : Nat) : Option (Blk × Nat) :=
  if 0x020 ≤ p && p ≤ 0x03F then some (.fch, p - 0x020)
  else if 0x040 ≤ p && p ≤ 0x049 then some (.lane, p - 0x040)
  else if 0x050 ≤ p && p ≤ 0x05F then some (.cmbg, p - 0x050)
  else if 0x100 ≤ p && p ≤ 0x37F then some (.pch, p - 0x100)
  else match p with
    | 0x000 => some (.dev, 0) | 0x001 => some (.clk, 0) | 0x002 => some (.boot, 0) | 0x003 => some (.pwr, 0)
    | 0x004 => some (.stk, 0) | 0x005 => some (.ses, 0) | 0x006 => some (.pfx, 0) | 0x007 => some (.tier, 0)
    | 0x008 => some (.mov, 0) | 0x009 => some (.ckp, 0) | 0x00A => some (.txt, 0) | 0x00B => some (.grm, 0)
    | 0x00C => some (.gsx, 0) | 0x00D => some (.cmb, 0) | 0x00E => some (.crew, 0) | 0x00F => some (.sec, 0)
    | 0x010 => some (.ump, 0) | 0x011 => some (.flt, 0) | 0x012 => some (.portg, 0) | 0x013 => some (.port, 0)
    | 0x014 => some (.port, 1) | 0x015 => some (.egq, 0) | 0x016 => some (.bwp, 0) | 0x017 => some (.fshg, 0)
    | _ => none

/-- Block type codes (02 R494, Table 02-3a). -/
def Blk.typeCode : Blk → Nat
  | .dev => 0x01 | .clk => 0x02 | .boot => 0x03 | .pwr => 0x04 | .stk => 0x05 | .ses => 0x06 | .pfx => 0x07
  | .tier => 0x08 | .mov => 0x09 | .ckp => 0x0A | .txt => 0x0B | .grm => 0x0C | .gsx => 0x0D | .cmb => 0x0E
  | .crew => 0x0F | .sec => 0x10 | .ump => 0x11 | .flt => 0x12 | .portg => 0x13 | .port => 0x14 | .egq => 0x15
  | .bwp => 0x16 | .fshg => 0x17 | .fch => 0x18 | .lane => 0x19 | .cmbg => 0x1A | .pch => 0x1B

/-- The key of a register word: which instance's page, which bank (the tenant, domain, queue or interface that a selection
register picks), which offset. -/
def regKey (b : Blk) (inst bank off : Nat) : Nat := (bank * 4096 + pageOf b inst) * 4096 + off

/-- The word a register holds after reset. Gate list entry 0 is the one register whose reset value its table gives by index
(16 Table 16-2). -/
def regReset (b : Blk) (off : Nat) : Nat :=
  if b = .egq ∧ off = 0x200 then 250000
  else if b = .egq ∧ off = 0x208 then 2 ^ 64 - 1
  else fieldsReset (regFields b off)

/-- The word a register holds. -/
def rdWord (s : State) (b : Blk) (inst bank off : Nat) : Nat :=
  match mapGet s.reg.ctl (regKey b inst bank off) with
  | some w => w.toNat
  | none => regReset b off

/-- The register map with one word replaced; a word equal to its reset word is not listed. -/
def ctlPut (m : Map Word) (b : Blk) (inst bank off v : Nat) : Map Word :=
  if v % 2 ^ 64 = regReset b off then mapErase m (regKey b inst bank off)
  else mapSet m (regKey b inst bank off) (BitVec.ofNat 64 v)

/-- A register word written as the device itself writes it: every bit takes its value. -/
def wrWord (s : State) (b : Blk) (inst bank off v : Nat) : State :=
  { s with reg := { s.reg with ctl := ctlPut s.reg.ctl b inst bank off v } }

/-- A field of instance `inst`, bank `bank`, array index `i`. -/
def rdFx (s : State) (f : Fld) (inst bank i : Nat) : Nat :=
  bitsOf (rdWord s f.blk inst bank (f.off + f.stride * i)) f.lo f.wd

/-- Writing such a field as the device does. -/
def wrFx (s : State) (f : Fld) (inst bank i v : Nat) : State :=
  let off := f.off + f.stride * i
  wrWord s f.blk inst bank off (putBits (rdWord s f.blk inst bank off) f.lo f.wd v)

/-- A field of a block with one instance and no bank. -/
def rdF (s : State) (f : Fld) : Nat := rdFx s f 0 0 0
def wrF (s : State) (f : Fld) (v : Nat) : State := wrFx s f 0 0 0 v

/-- A field of a bank (the selected tenant, domain, model or crew). -/
def rdB (s : State) (f : Fld) (bank : Nat) : Nat := rdFx s f 0 bank 0
def wrB (s : State) (f : Fld) (bank v : Nat) : State := wrFx s f 0 bank 0 v

/-- A field of an instance's page. -/
def rdI (s : State) (f : Fld) (inst : Nat) : Nat := rdFx s f inst 0 0
def wrI (s : State) (f : Fld) (inst v : Nat) : State := wrFx s f inst 0 0 v

/-- A counter field of an instance counts n up to the largest value the field holds (02 Table 02-3 gives saturation for
`ERR_COUNT`; for the other counters it is a reading, notes/assumptions/12.md). -/
def cntI (s : State) (f : Fld) (inst n : Nat) : State := wrI s f inst (satAdd f.wd (rdI s f inst) n)
def cnt (s : State) (f : Fld) (n : Nat) : State := cntI s f 0 n
def cntB (s : State) (f : Fld) (bank n : Nat) : State := wrB s f bank (satAdd f.wd (rdB s f bank) n)

/-! ### Host domains and rights (20 R431) -/

/-- The host domains of the device (01 Table 01-2). -/
def allDoms : List Nat := List.range 16

def domEnabled (s : State) (d : Nat) : Bool := bitOf (rdB s R.SEC_DOM_RIGHTS d) 0
def domRegWrite (s : State) (d : Nat) : Bool := bitOf (rdB s R.SEC_DOM_RIGHTS d) 1
def domPlanLoad (s : State) (d : Nat) : Bool := bitOf (rdB s R.SEC_DOM_RIGHTS d) 2
def domAdmin (s : State) (d : Nat) : Bool := bitOf (rdB s R.SEC_DOM_RIGHTS d) 3
def domEncReq (s : State) (d : Nat) : Bool := bitOf (rdB s R.SEC_DOM_RIGHTS d) 4

/-- Whether a domain holds a right to a tenant: bit t of its tenant set `SEC_DOM_TEN` (20 R431). -/
def domTenant (s : State) (d t : Nat) : Bool :=
  decide (t < 4096) && bitOf (rdFx s R.SEC_DOM_TEN 0 d (t / 64)) (t % 64)

/-- The domains with a right to a tenant, and those with the plan-load right. -/
def tenantDoms (s : State) (t : Nat) : List Nat := allDoms.filter (fun d => domTenant s d t)
def planDoms (s : State) : List Nat := allDoms.filter (domPlanLoad s)

/-- Whether a domain may see a window's object (04 R84, 05 R117, R118). -/
def winSees (s : State) (d : Nat) : WinAcc → Bool
  | .all => true
  | .tenant t => t = 0xFFF || domTenant s d t
  | .mask m => bitOf m d

/-! ### Events (02 R27, R28; 15 R345) -/

/-- A record joins a domain's event queue; the 4,097th pushes the oldest out, which is counted in `BWP_DOM_EVT.LOST` and
reported by the next record sent (15 R345). -/
def pushEvent (s : State) (d : Nat) (r : EvRec) : State :=
  let r := { r with stroke := s.stk.number }
  let q := (mapGet s.out.evq d).getD []
  if q.length < 4096 then { s with out := { s.out with evq := mapSet s.out.evq d (q ++ [r]) } }
  else
    let lost := (mapGet s.out.evLost d).getD 0
    cntB { s with out := { s.out with evq := mapSet s.out.evq d (q.drop 1 ++ [r]),
                                      evLost := mapSet s.out.evLost d (lost + 1) } } R.BWP_DOM_EVT_LOST d 1

def pushEvents (s : State) (ds : List Nat) (r : EvRec) : State := ds.foldl (fun s d => pushEvent s d r) s

/-- The domains whose `BWP_DOM.EVENTS` bit is 1. -/
def eventDoms (s : State) : List Nat := allDoms.filter (fun d => rdB s R.BWP_DOM_EVENTS d = 1)

/-- An event that is tied to no `EVT_STATUS` bit goes to the domains its chapter names (15 R345); its head names bit 63. -/
def sendEvent (s : State) (page code : Nat) (words ds : List Nat) : State :=
  pushEvents s ds { code := code, page := page, bit := 63, words := words }

/-- An occurrence that raises bit `bit` of a page's `EVT_STATUS` (02 R28, 15 R345). The event's own record goes to the
recipients its chapter names at each occurrence; on a 0-to-1 rise with the bit enabled, the other records of R345 follow. -/
def raiseBit (s : State) (b : Blk) (inst bit : Nat) (whom : EvTo) : State :=
  let page := pageOf b inst
  let st := rdI s { R.EVT_STATUS_ALL with blk := b } inst
  let rise := !bitOf st bit
  let on := bitOf (rdI s { R.EVT_ENABLE_ALL with blk := b } inst) bit
  let s := if rise then wrI s { R.EVT_STATUS_ALL with blk := b } inst (st ||| 2 ^ bit) else s
  let plainRec : EvRec := { code := 0x0001, page := page, bit := bit, words := [] }
  match whom with
  | .named code words ds =>
    let s := pushEvents s ds { code := code, page := page, bit := bit, words := words }
    if rise && on then pushEvents s ((eventDoms s).filter (fun d => !ds.contains d)) plainRec else s
  | .tied code words =>
    if rise && on then pushEvents s (eventDoms s) { code := code, page := page, bit := bit, words := words } else s
  | .plain => if rise && on then pushEvents s (eventDoms s) plainRec else s

/-- An error of a block is recorded: `ERR_FIRST` while `EVT_STATUS.ERR` is 0, the ERR bit, and `ERR_COUNT` (02 R27). -/
def recordErr (s : State) (b : Blk) (inst unit code : Nat) : State :=
  let err := bitOf (rdI s { R.EVT_STATUS_ALL with blk := b } inst) 0
  let s := if err then s else
    wrWord s b inst 0 0x40 (code % 2 ^ 16 + (unit % 2 ^ 16) * 2 ^ 16 + (s.stk.number % 2 ^ 32) * 2 ^ 32)
  let s := raiseBit s b inst 0 .plain
  cntI s { R.ERR_COUNT_COUNT with blk := b } inst 1

/-- The page whose block reports a code: by the code's prefix (03 R63, 04, 05 R115, 06 R135, 09 R216, 11 R259, 14 R326, 17 R387, 19
R419, 20 R443, 21 R462). -/
def codeBlk (code : Nat) : Blk :=
  if code = E_OP_FULL ∨ code = E_MOV_NOCONV then .mov
  else if code = E_FEATHER ∨ code = E_FEATHER_BUSY then .portg
  else if code = E_GRM_INVALID ∨ code = E_GRM_REJECT then .grm
  else
    match code / 256 with
    | 0x03 => .ses | 0x04 => .pfx | 0x05 => .tier | 0x06 => .stk | 0x09 => .cmb | 0x0A => .cmb | 0x0B => .txt | 0x0C => .fshg
    | 0x0D => .gsx | 0x0E => .crew | 0x0F => .bwp | 0x10 => .egq | 0x11 => .ckp | 0x12 => .pwr | 0x13 => .ump | 0x14 => .sec
    | 0x15 => .flt | 0x16 => .boot | _ => .ses

end Sys2Proof.Machine

namespace Sys2Proof

/-! ### Command fields (15 R342, Table 15-7) -/

def Cmd.opcode (c : Cmd) : Nat := Machine.bitsOf c.w0.toNat 0 8
def Cmd.queue (c : Cmd) : Nat := Machine.bitsOf c.w0.toNat 8 6
def Cmd.tag (c : Cmd) : Nat := Machine.bitsOf c.w0.toNat 16 16
def Cmd.fence (c : Cmd) : Bool := Machine.bitOf c.w0.toNat 40
def Cmd.hostCtx (c : Cmd) : Nat := c.w1.toNat

/-- Bits [lo + n − 1 : lo] of a command word. -/
def Cmd.f2 (c : Cmd) (lo n : Nat) : Nat := Machine.bitsOf c.w2.toNat lo n
def Cmd.f3 (c : Cmd) (lo n : Nat) : Nat := Machine.bitsOf c.w3.toNat lo n
def Cmd.f4 (c : Cmd) (lo n : Nat) : Nat := Machine.bitsOf c.w4.toNat lo n
def Cmd.f5 (c : Cmd) (lo n : Nat) : Nat := Machine.bitsOf c.w5.toNat lo n
def Cmd.f6 (c : Cmd) (lo n : Nat) : Nat := Machine.bitsOf c.w6.toNat lo n
def Cmd.f7 (c : Cmd) (lo n : Nat) : Nat := Machine.bitsOf c.w7.toNat lo n

end Sys2Proof

namespace Sys2Proof.Machine

/-- The key of a command queue: 64 queues in each of 16 domains (15 R342). -/
def queueKey (c : Cmd) : Nat := c.dom * 64 + c.queue

/-! ### Completions (03 R42, 15 R344) -/

def stage (s : State) (k : Commit) : State := { s with stk := { s.stk with commits := s.stk.commits ++ [k] } }

/-- The completion record of a staged completion, sent now (15 R344, Table 15-8): Q2 is the stroke whose finish it belongs to
and Q3 the device time at which it is queued. Before strokes begin there is no stroke to name (22 R474). -/
def cplOf (s : State) (d : Done) : Cpl :=
  { dom := d.cmd.dom, queue := d.cmd.queue, opcode := d.cmd.opcode, tag := d.cmd.tag, status := d.status,
    hostCtx := d.cmd.hostCtx, stroke := if s.stk.phase = .idle then 2 ^ 64 - 1 else s.stk.number, time := s.time.now, c0 := d.c0, c1 := d.c1, c2 := d.c2, c3 := d.c3 }

/-- A list without the first element equal to x. -/
def eraseCmd : List Cmd → Cmd → List Cmd
  | [], _ => []
  | c :: cs, x => if c = x then cs else c :: eraseCmd cs x

/-- A completion is queued, and its command no longer counts among its queue's 256 (15 R342, R344). -/
def sendCpl (s : State) (d : Done) : State :=
  let k := queueKey d.cmd
  let left := eraseCmd ((mapGet s.out.outst k).getD []) d.cmd
  { s with out := { s.out with
      cpls := s.out.cpls ++ [cplOf s d]
      outst := if left.isEmpty then mapErase s.out.outst k else mapSet s.out.outst k left } }

/-- A completion is staged: it is sent in the recovery after the finish (03 R42); before strokes begin, as soon as the command's
work is done (22 R474). -/
def stageDone (s : State) (d : Done) : State :=
  if s.stk.phase = .idle then sendCpl s d
  else { s with stk := { s.stk with commits := s.stk.commits ++ [.done d] } }

/-- A command without result words completes with a status. -/
def finishCmd (s : State) (c : Cmd) (status : Nat) : State := stageDone s { cmd := c, status := status }

/-- Whether a command may start: `W0.FENCE` holds it until every earlier command of its queue has completed (15 Table 15-7). -/
def fenceOk (s : State) (c : Cmd) : Bool :=
  !c.fence || ((mapGet s.out.outst (queueKey c)).getD []).head? == some c || !((mapGet s.out.outst (queueKey c)).getD []).contains c

/-! ### Free values -/

/-- The next index at which a free value of Config is read: a counter the step advances (notes/assumptions/6.md). -/
def nextFree (s : State) : Nat × State := (s.freeCtr, { s with freeCtr := s.freeCtr + 1 })

/-- Strokes that have ended since reset (22 R477). -/
def strokesDone (s : State) : Nat :=
  match s.stk.phase with | .idle => 0 | .drive => s.stk.number | .boundary => if s.stk.begun then s.stk.number + 1 else 0

end Sys2Proof.Machine
end

