-- ==== Sys2Proof/WellFormed.lean ====
section
/-! DEFINITION. Well-formed commands (15_host_link.md R342): the opcode of a row, the reserved bits of W0 and W2 to W7, and the
field values that a chapter reserves without naming a code of its own. -/

namespace Sys2Proof

/-- Bits [lo + n − 1 : lo] as a mask. -/
def bitsMask (lo n : Nat) : Nat := (2 ^ n - 1) * 2 ^ lo

/-- A whole word. -/
def wholeWord : Nat := 2 ^ 64 - 1

/-- The bits that the common header defines (15 Table 15-7). -/
def headerMask : Nat := bitsMask 0 14 + bitsMask 16 16 + bitsMask 40 1

/-- W2 of a session command (03 Table 03-3). -/
def sesW2 : Nat := bitsMask 0 35

/-- The bits of W2 to W7 that the opcode's chapter defines; none where no chapter defines the opcode (15 R342). -/
def definedBits (c : Cmd) : Option (List Nat) :=
  match c.opcode with
  | 0x10 => some [sesW2, wholeWord, bitsMask 0 12 + bitsMask 16 38, bitsMask 0 32, 1 + bitsMask 16 16, 0]
  | 0x11 => some [sesW2, wholeWord, bitsMask 0 2 + bitsMask 32 32, wholeWord, bitsMask 0 48, 0]
  | 0x12 => some [sesW2, wholeWord, bitsMask 0 10 + bitsMask 16 1, wholeWord, bitsMask 0 48, bitsMask 0 32]
  | 0x13 => some [sesW2, wholeWord, bitsMask 0 35 + bitsMask 36 3 + bitsMask 40 2 + bitsMask 48 11, bitsMask 0 63, bitsMask 0 63,
      bitsMask 0 21]
  | 0x14 => some [sesW2, wholeWord, 0, 0, 0, 0]
  | 0x15 => some [sesW2, wholeWord, bitsMask 0 4 + bitsMask 16 16, 0, 0, 0]
  | 0x16 => some [sesW2, wholeWord, bitsMask 16 32, 0, 0, 0]
  | 0x17 => some [sesW2, wholeWord, bitsMask 0 2, wholeWord, bitsMask 0 48, bitsMask 0 32]
  | 0x18 => some [sesW2, wholeWord, bitsMask 0 2 + bitsMask 32 10, 0, 0, 0]
  | 0x19 => some [sesW2, wholeWord, 0, 0, 0, 0]
  | 0x20 => some [bitsMask 0 5 + bitsMask 16 10 + bitsMask 32 32, wholeWord, 0, 0, 0, 0]
  | 0x28 => some [wholeWord, bitsMask 0 48, wholeWord, bitsMask 0 12, 0, 0]
  | 0x29 => some [bitsMask 0 33 + bitsMask 52 12, 0, 0, 0, 0, 0]
  | 0x2A => some [bitsMask 0 17, bitsMask 0 41, bitsMask 0 16, 0, 0, 0]
  | 0x30 => some [wholeWord, bitsMask 0 48, wholeWord, 0, 0, 0]
  | 0x31 => some [wholeWord, bitsMask 0 48, wholeWord, 0, 0, 0]
  | 0x32 => some [bitsMask 0 33, 0, 0, 0, 0, 0]
  | 0x33 => some [if c.f4 0 2 = 0 then sesW2 else wholeWord, wholeWord, bitsMask 0 2 + bitsMask 16 19, wholeWord, bitsMask 0 48,
      bitsMask 0 5]
  | 0x34 => some [bitsMask 0 18 + bitsMask 32 32, wholeWord, bitsMask 0 48, bitsMask 0 32, wholeWord, wholeWord]
  | 0x35 => some [bitsMask 0 18 + bitsMask 32 32, wholeWord, bitsMask 0 48, bitsMask 0 32, wholeWord, wholeWord]
  | 0x38 => some [bitsMask 0 18 + bitsMask 20 19 + bitsMask 40 9, bitsMask 0 32, 0, 0, 0, 0]
  | 0x39 => some [bitsMask 0 16, 0, 0, 0, 0, 0]
  | 0x3A => some [bitsMask 0 33, wholeWord, bitsMask 0 48, wholeWord, bitsMask 0 32, bitsMask 0 32]
  | 0x3B => some [bitsMask 0 33, wholeWord, bitsMask 0 48, wholeWord, bitsMask 0 32, bitsMask 0 32]
  | 0x3C => some [bitsMask 0 33, wholeWord, bitsMask 0 48, wholeWord, bitsMask 0 32, bitsMask 0 32]
  | 0x3D => some [bitsMask 0 16, 0, 0, 0, 0, 0]
  | 0x40 => some [wholeWord, bitsMask 0 48, wholeWord, 0, 0, 0]
  | 0x41 => some [bitsMask 0 18 + bitsMask 20 4 + bitsMask 32 21, wholeWord, bitsMask 0 48, wholeWord, bitsMask 0 49, 0]
  | 0x42 => some [bitsMask 0 20 + bitsMask 32 21, wholeWord, bitsMask 0 48, wholeWord, bitsMask 0 32, 0]
  | 0x43 => some [bitsMask 0 16, 0, 0, 0, 0, 0]
  | 0x48 => some [bitsMask 0 2 + bitsMask 4 3 + bitsMask 16 32, bitsMask 0 12 + bitsMask 32 32, 0, 0, 0, 0]
  | 0x49 => some [sesW2, wholeWord, bitsMask 0 16, 0, 0, 0]
  | 0x50 => some [bitsMask 0 29 + bitsMask 32 6 + bitsMask 40 5, wholeWord, wholeWord, bitsMask 0 24 + bitsMask 32 24,
      bitsMask 0 48, bitsMask 0 16]
  | 0x51 => some [bitsMask 0 16, 0, 0, 0, 0, 0]
  | 0x52 => some [0, 0, 0, 0, 0, 0]
  | 0x53 => some [0, 0, 0, 0, 0, 0]
  | 0x54 => some [0, 0, 0, 0, 0, 0]
  | 0x58 => some [bitsMask 0 14 + bitsMask 16 1, wholeWord, bitsMask 0 48, wholeWord, 0, 0]
  | 0x59 => some [bitsMask 0 14 + bitsMask 16 16, wholeWord, bitsMask 0 48, bitsMask 0 11, wholeWord, 0]
  | 0x60 => some [wholeWord, wholeWord, wholeWord, wholeWord, wholeWord, wholeWord]
  | 0x61 => some [wholeWord, bitsMask 0 48, wholeWord, wholeWord, wholeWord, wholeWord]
  | 0x62 => some [wholeWord, bitsMask 0 48, wholeWord, 1, 0, 0]
  | 0x68 => some [bitsMask 0 33, 0, 0, 0, 0, 0]
  | _ => none

/-- Words W2 to W7. -/
def Cmd.tail (c : Cmd) : List Nat := [c.w2.toNat, c.w3.toNat, c.w4.toNat, c.w5.toNat, c.w6.toNat, c.w7.toNat]

/-- A word with no bit outside a mask. -/
def onlyBits (mask w : Nat) : Bool := w &&& (wholeWord - mask) == 0

/-- Whether the opcode names a session command, whose W2 holds `DUR` (03 Table 03-3). -/
def isSesOp (op : Nat) : Bool := (0x10 ≤ op && op ≤ 0x19) || op == 0x49

/-- Field values that a chapter reserves and for which it names no other code (15 R342): `DUR` and `DUR_DEFAULT` 3, `ATT_POLICY`
above 2, `IMPORT.PHASE` 3, `APPEND.COUNT` 0 without `TEXT` (notes/assumptions/15.md), `REVIVE.POLICY` above 3, `EXPORT.TARGET`
above 1, `PIN` 3, `MOVE.KIND` above 1, `GATHER.MODE` 3 (which 13 R298 gives reason 5 instead), and `CREW.ACTION` 3. -/
def valuesOk (c : Cmd) : Bool :=
  (!(isSesOp c.opcode || (c.opcode == 0x33 && c.f4 0 2 == 0)) || c.f2 32 2 != 3) &&
  match c.opcode with
  | 0x10 => c.f4 52 2 != 3 && decide (c.f4 48 4 ≤ 2)
  | 0x11 => c.f4 0 2 != 3
  | 0x12 => c.f4 16 1 == 1 || c.f4 0 10 != 0
  | 0x15 => decide (c.f4 0 4 ≤ 3)
  | 0x17 => decide (c.f4 0 2 ≤ 1)
  | 0x18 => c.f4 0 2 != 3
  | 0x20 => decide (c.f2 0 4 ≤ 1)
  | 0x48 => c.f2 0 2 != 3
  | _ => true

/-- A command's format is right (15 R342). A command of no chapter has no format to break. -/
def Cmd.formatOk (c : Cmd) : Bool :=
  onlyBits headerMask c.w0.toNat &&
    (match definedBits c with
     | some ms => (ms.zip c.tail).all (fun (m, w) => onlyBits m w) && valuesOk c
     | none => true)

/-- Whether a command is one of a row's: its opcode, and the field that selects among rows of one opcode. -/
def Cmd.isOp (c : Cmd) (op : Nat) : Bool := c.opcode == op

def Cmd.wf (c : Cmd) (op : Nat) : Bool := c.isOp op && c.formatOk && decide (c.dom < 16)

/-- Well-formed rows: a command row carries a command of its own opcode and selector in the format of 15 R342; an event row names
units the device has (00_scope.md, 01_architecture.md Table 01-2). -/
def Instr.wf : Instr → Bool
  | .openSes c => c.wf 0x10
  | .importBegin c _ => c.wf 0x11 && c.f4 0 2 == 0
  | .importCommit c => c.wf 0x11 && c.f4 0 2 == 1
  | .importAbort c => c.wf 0x11 && c.f4 0 2 == 2
  | .append c _ => c.wf 0x12
  | .step c => c.wf 0x13
  | .park c => c.wf 0x14
  | .revive c => c.wf 0x15
  | .fork c => c.wf 0x16
  | .exportSes c => c.wf 0x17
  | .pin c => c.wf 0x18
  | .release c => c.wf 0x19
  | .join c => c.wf 0x49
  | .move c => c.wf 0x20
  | .planLoad c _ => c.wf 0x28
  | .planUnload c => c.wf 0x29
  | .courseOpen c => c.wf 0x2A && c.f2 16 1 == 0
  | .courseClose c => c.wf 0x2A && c.f2 16 1 == 1
  | .vocabLoad c _ => c.wf 0x30
  | .grmLoad c _ => c.wf 0x31
  | .tableUnload c => c.wf 0x32
  | .streamSession c _ => c.wf 0x33 && c.f4 0 2 == 0
  | .streamAllocate c => c.wf 0x33 && c.f4 0 2 == 1
  | .streamFree c => c.wf 0x33 && c.f4 0 2 == 2
  | .streamConfigure c _ => c.wf 0x33 && c.f4 0 2 == 3
  | .tokenize c _ => c.wf 0x34
  | .detokenize c _ => c.wf 0x35
  | .memCreate c => c.wf 0x38
  | .memDrop c => c.wf 0x39
  | .memQuery c _ => c.wf 0x3A
  | .memInsert c _ => c.wf 0x3B
  | .memDelete c _ => c.wf 0x3C
  | .memRepair c => c.wf 0x3D
  | .gsxLoad c _ => c.wf 0x40
  | .gather c _ => c.wf 0x41
  | .scatter c _ => c.wf 0x42
  | .gsxSeal c => c.wf 0x43
  | .crewCreate c => c.wf 0x48 && c.f2 0 2 == 0
  | .crewModify c => c.wf 0x48 && c.f2 0 2 == 1
  | .crewDelete c => c.wf 0x48 && c.f2 0 2 == 2
  | .qpCreate c => c.wf 0x50
  | .qpDestroy c => c.wf 0x51
  | .feather c => c.wf 0x52
  | .wake c => c.wf 0x53
  | .nop c => c.wf 0x54
  | .checkpoint c _ => c.wf 0x58
  | .restore c _ => c.wf 0x59
  | .receiptNow c => c.wf 0x60 && c.f2 0 4 == 0
  | .logRead c => c.wf 0x60 && c.f2 0 4 == 1
  | .umpAck c => c.wf 0x60 && c.f2 0 4 == 2
  | .eventRead c => c.wf 0x60 && c.f2 0 4 == 3
  | .setPeriod c => c.wf 0x60 && c.f2 0 4 == 4
  | .fwUpdate c _ => c.wf 0x60 && c.f2 0 4 == 5
  | .certRead c => c.wf 0x60 && c.f2 0 4 == 6
  | .attest c => c.wf 0x61
  | .rigUpdateRigging c _ => c.wf 0x62 && c.f5 0 1 == 0
  | .rigUpdateFirmware c _ => c.wf 0x62 && c.f5 0 1 == 1
  | .erg c => c.wf 0x68
  | .strokeCatch _ | .strokeFinish _ | .sessionIdle _ | .importWindowTimeout _ | .quotaWaitExpiry _ | .umpDownWaitExpiry _
  | .courseStepStart _ | .fetchWaitExpiry _ | .indexBuild _ _ _ | .moverPageCopied _ _ _ | .leafUnfold _ | .maskBuild _ _
  | .walkAdmit _ | .nodeReadDone _ _ _ | .crewSeated _ | .preempt _ | .splitWindowEnd _ | .ckpWaitExpiry _ | .ergTestEnd _ _ _
  | .patrolScrub _ | .flashReadFail _ _ _ | .bwpRetransmitTimer _ _ | .bwpAckDelay _ | .bwpIdleTimeout _ | .bwpLingerExpiry _
  | .ppsInEdge _ | .timeHoldover | .ppsOutPulse | .rdmaReadResponse _ _ | .rdmaWriteAck _ | .roceInvalidRequest _ | .qpError _ _
  | .cnpRx _ | .ecnMarkedRx _ _ | .roceRateRaise _ | .inputRangeLow _ | .inputRangeHigh _ | .powerLoss _ | .overVoltage _
  | .pwrEnDeassert | .holdWaterEnd _ _ _ | .holdupTest | .holdupTestResult _ _ | .holdupRetestTimer | .tallyFrame _ _
  | .receiptPeriodEnd _ | .receiptSigned _ | .tamperOpen | .sealRecord _ _ | .powerOnReset | .rstNReset | .watchdogExpiry
  | .pllLockLoss _ | .pllRelock _ | .clockFaultReset _ | .sl0Reached | .imageReinstall | .sl1Reached | .adviceColdEnd
  | .coolantOutletHigh _ | .i2cTransaction _ _ | .inputInRange _ | .pwrEnAssert | .powerStageFault | .rstNRelease
  | .housekeepingPowerOn | .housekeepingPowerOff | .umpSelfTestEnd _ | .tallyLinkUp | .coolantOutletNormal _
  | .journalTailWritten _ | .localAckTimeout _ _ | .importRdmaWrite _ _ _ _ => true
  | .bladePull b _ _ => decide (b < 81920)
  | .legEnd b => decide (b < 81920)
  | .laneBusTransfer pc _ => decide (pc < 640)
  | .combineInstruction _ g _ => decide (g < 16)
  | .refreshDue l b => decide (l < 10) && decide (b < 4096)
  | .controlDieSlot b _ _ _ => decide (b < 81920)
  | .slowThermalLoop l _ => decide (l < 10)
  | .laneHotSet l _ _ => decide (l < 10)
  | .laneHotClear l _ => decide (l < 10)
  | .laneTempTrip l _ _ => decide (l < 10)
  | .sprintHoldEnd l => decide (l < 10)
  | .coldStartEnd l => decide (l < 10)
  | .switchDone l => decide (l < 10)
  | .laneTrainingDone l _ => decide (l < 10)
  | .laneOnline l => decide (l < 10)
  | .streamEngineTake e => decide (e < 64)
  | .bwpFrameRx i _ => decide (i < 4)
  | .hello i _ => decide (i < 4)
  | .close i _ => decide (i < 4)
  | .bwpAckFrame i _ => decide (i < 4)
  | .ethFrameRx i _ => decide (i < 4)
  | .mkaFrame i _ => decide (i < 4)
  | .ptpMessage i _ => decide (i < 4)
  | .portLinkChange i _ => decide (i < 4)
  | .egressSelect i _ => decide (i < 4)
  | .gclEntryAdvance i => decide (i < 4)
  | .pauseTimeExpiry i p => decide (i < 4) && decide (p < 8)

end Sys2Proof
end

