-- ==== Sys2Proof/Decode.lean ====
section
/-! DEFINITION. The decoder over the rows of the opcode table that give bits. No row of this hardware's table gives any: commands
come as words W0 to W7 of a descriptor (15 R342), which the rows carry as they stand. -/

namespace Sys2Proof

/-- No word spells a command, since the table gives no bits. -/
def decodeTableWord (_nbits _w : Nat) : Option Instr := none

end Sys2Proof
end

