-- ==== Sys2Proof/Machine/Fp.lean ====
section
/-! DEFINITION. Number formats and FP32 arithmetic (07_blades.md R155 to R158): every finite value is an exact dyadic number
m × 2^e, rounded once to nearest, ties to even. -/

namespace Sys2Proof.Machine

/-- A value: NaN, a signed infinity, or m × 2^e; a zero keeps its sign. -/
inductive Num where
  | nan
  | inf (neg : Bool)
  | zero (neg : Bool)
  | fin (m : Int) (e : Int)
deriving DecidableEq, Repr

/-- A floating-point format (07 Table 07-7): exponent and mantissa bits, bias, whether the top exponent codes infinities and NaNs
(`ieee`), or NaN only at all ones (`topNan`), or neither. -/
structure FpFmt where
  eb : Nat
  mb : Nat
  bias : Int
  ieee : Bool
  topNan : Bool
deriving DecidableEq, Repr

def fp32 : FpFmt := ⟨8, 23, 127, true, false⟩

/-- Format codes 0x0 to 0x7 (00 Table 00-3, 07 Table 07-7). -/
def fpFmt : Nat → Option FpFmt
  | 0 => some fp32
  | 1 => some ⟨8, 7, 127, true, false⟩
  | 2 => some ⟨5, 10, 15, true, false⟩
  | 3 => some ⟨4, 3, 7, false, true⟩
  | 4 => some ⟨5, 2, 15, true, false⟩
  | 5 => some ⟨3, 2, 3, false, false⟩
  | 6 => some ⟨2, 3, 1, false, false⟩
  | 7 => some ⟨2, 1, 1, false, false⟩
  | _ => none

/-- Bits of an element of a format code. -/
def fmtBits : Nat → Nat
  | 0 => 32 | 1 => 16 | 2 => 16 | 3 => 8 | 4 => 8 | 5 => 6 | 6 => 6 | 7 => 4 | 8 => 8 | 9 => 4 | _ => 1

/-- The value of a floating-point code. -/
def fpDecode (f : FpFmt) (x : Nat) : Num :=
  let neg := bitOf x (f.eb + f.mb)
  let e := bitsOf x f.mb f.eb
  let m := bitsOf x 0 f.mb
  let top := 2 ^ f.eb - 1
  if f.ieee && e == top then (if m = 0 then .inf neg else .nan)
  else if f.topNan && e == top && m == 2 ^ f.mb - 1 then .nan
  else if e = 0 ∧ m = 0 then .zero neg
  else
    let mant : Int := if e = 0 then (m : Int) else ((m + 2 ^ f.mb : Nat) : Int)
    let ex : Int := (if e = 0 then 1 else (e : Int)) - f.bias - f.mb
    .fin (if neg then -mant else mant) ex

/-- The value of an element of any format but BIN1, plain or under MX (07 R155, R156). -/
def numDecode (fmt : Nat) (mx : Bool) (x : Nat) : Num :=
  match fpFmt fmt with
  | some f => fpDecode f x
  | none =>
    let n := if fmt = 9 then 4 else 8
    let v := signed n x
    if v = 0 then .zero false else .fin v (if mx then (if fmt = 9 then -2 else -6) else 0)

/-- ⌊n ÷ 2^k⌋ rounded to nearest, ties to even. -/
def rneShift (n k : Nat) : Nat :=
  let q := n >>> k
  let r := n % 2 ^ k
  if k = 0 then n
  else if 2 * r < 2 ^ k then q else if 2 ^ k < 2 * r then q + 1 else if q % 2 = 0 then q else q + 1

/-- A magnitude m × 2^e rounded into a format: mantissa code and exponent code, or `none` on overflow (07 R158). -/
def fpRound (f : FpFmt) (m : Nat) (e : Int) : Option Nat :=
  -- the exponent of the least significant bit: at least that of the subnormals, and mb bits below the top bit
  let lsbMin : Int := 1 - f.bias - f.mb
  let top : Int := e + (Nat.log2 m : Int)
  let lsb : Int := max lsbMin (top - f.mb)
  let sig := if lsb ≤ e then m * 2 ^ (e - lsb).toNat else rneShift m (lsb - e).toNat
  -- rounding may carry into one more bit
  let (sig, lsb) := if 2 ^ (f.mb + 1) ≤ sig then (sig / 2, lsb + 1) else (sig, lsb)
  let code : Nat :=
    if sig < 2 ^ f.mb then sig
    else ((lsb - lsbMin).toNat + 1) * 2 ^ f.mb + (sig - 2 ^ f.mb)
  let lim := if f.ieee then (2 ^ f.eb - 1) * 2 ^ f.mb else if f.topNan then 2 ^ (f.eb + f.mb) - 1 else 2 ^ (f.eb + f.mb)
  if code < lim then some code else none

/-- The largest finite code of a format. -/
def fpMax (f : FpFmt) : Nat :=
  if f.ieee then (2 ^ f.eb - 1) * 2 ^ f.mb - 1 else if f.topNan then 2 ^ (f.eb + f.mb) - 2 else 2 ^ (f.eb + f.mb) - 1

def signBit (f : FpFmt) (neg : Bool) : Nat := b2n neg * 2 ^ (f.eb + f.mb)

/-- The NaN that a conversion writes (07 R158); +0 in formats without NaN. -/
def fpNan (fmt : Nat) : Nat :=
  match fmt with
  | 0 => 0x7FC00000 | 1 => 0x7FC0 | 2 => 0x7E00 | 3 => 0x7F | 4 => 0x7E | _ => 0

/-- A value in a format (07 R158): overflow goes to infinity where the format has one and saturates elsewhere. Answers the code and
whether a NaN became +0. -/
def numEncode (fmt : Nat) (v : Num) : Nat × Bool :=
  match fpFmt fmt with
  | some f =>
    match v with
    | .nan => (fpNan fmt, decide (5 ≤ fmt))
    | .zero neg => (signBit f neg, false)
    | .inf neg => (signBit f neg + (if f.ieee then (2 ^ f.eb - 1) * 2 ^ f.mb else fpMax f), false)
    | .fin m e =>
      let neg := decide (m < 0)
      match fpRound f m.natAbs e with
      | some c => (signBit f neg + c, false)
      | none => (signBit f neg + (if f.ieee then (2 ^ f.eb - 1) * 2 ^ f.mb else fpMax f), false)
  | none =>
    let n := if fmt = 9 then 4 else 8
    let lo : Int := -(2 ^ (n - 1) : Nat)
    let hi : Int := (2 ^ (n - 1) : Nat) - 1
    match v with
    | .nan => (0, true)
    | .zero _ => (0, false)
    | .inf neg => (unsigned n (if neg then lo else hi), false)
    | .fin m e =>
      let a : Nat := if 0 ≤ e then m.natAbs * 2 ^ e.toNat else rneShift m.natAbs (-e).toNat
      (unsigned n (clampInt lo hi (if m < 0 then -(a : Int) else (a : Int))), false)

/-! ### Exact sums and products -/

/-- Two finite values at one exponent. -/
def alignNum (m1 e1 m2 e2 : Int) : Int × Int × Int :=
  let e := min e1 e2
  (m1 * 2 ^ (e1 - e).toNat, m2 * 2 ^ (e2 - e).toNat, e)

def finOf (m e : Int) : Num := if m = 0 then .zero false else .fin m e

/-- The exact sum (07 R157): NaN where an operand is NaN or infinities of both signs meet. -/
def numAdd (a b : Num) : Num :=
  match a, b with
  | .nan, _ => .nan
  | _, .nan => .nan
  | .inf x, .inf y => if x = y then .inf x else .nan
  | .inf x, _ => .inf x
  | _, .inf y => .inf y
  | .zero x, .zero y => .zero (x && y)
  | .zero _, y => y
  | x, .zero _ => x
  | .fin m1 e1, .fin m2 e2 => let (x, y, e) := alignNum m1 e1 m2 e2; finOf (x + y) e

/-- The exact product; infinity times zero is NaN (07 R157). -/
def numMul (a b : Num) : Num :=
  let sgn : Num → Bool := fun x => match x with | .inf n => n | .zero n => n | .fin m _ => decide (m < 0) | .nan => false
  match a, b with
  | .nan, _ => .nan
  | _, .nan => .nan
  | .inf x, .zero _ => let _ := x; .nan
  | .zero _, .inf _ => .nan
  | .inf x, y => .inf (x != sgn y)
  | x, .inf y => .inf (sgn x != y)
  | .zero x, y => .zero (x != sgn y)
  | x, .zero y => .zero (sgn x != y)
  | .fin m1 e1, .fin m2 e2 => finOf (m1 * m2) (e1 + e2)

def numNeg : Num → Num
  | .nan => .nan
  | .inf n => .inf (!n)
  | .zero n => .zero (!n)
  | .fin m e => .fin (-m) e

/-- A value rounded to FP32, as its bits and as a value. -/
def f32Bits (v : Num) : Nat := (numEncode 0 v).1
def f32Val (x : Nat) : Num := fpDecode fp32 x
def f32 (v : Num) : Num := f32Val (f32Bits v)

/-- FP32 addition, multiplication and fused multiply-add, one rounding each. -/
def f32Add (a b : Num) : Num := f32 (numAdd a b)
def f32Mul (a b : Num) : Num := f32 (numMul a b)
def f32Fma (a b c : Num) : Num := f32 (numAdd (numMul a b) c)

/-- The exact sum of several values. -/
def numSum (xs : List Num) : Num := xs.foldl numAdd (.zero true)

/-- Whether a < b as numbers; NaN compares as less than nothing. -/
def numLt (a b : Num) : Bool :=
  match a, b with
  | .nan, _ => false
  | _, .nan => false
  | .inf x, .inf y => x && !y
  | .inf x, _ => x
  | _, .inf y => !y
  | x, y =>
    let v : Num → Int × Int := fun n => match n with | .fin m e => (m, e) | _ => (0, 0)
    let (m1, e1) := v x
    let (m2, e2) := v y
    let (p, q, _) := alignNum m1 e1 m2 e2
    decide (p < q)

/-- The least integer not below a finite value (the `ceil` of 07 R151). -/
def numCeil : Num → Int
  | .fin m e => if 0 ≤ e then m * 2 ^ e.toNat else -((-m) / ((2 ^ (-e).toNat : Nat) : Int))
  | _ => 0

/-- A value times 2^k, exactly. -/
def numScale (k : Int) : Num → Num
  | .fin m e => .fin m (e + k)
  | x => x

/-- E8M0 scale bytes (07 R156): 2^(X − 127), and NaN for 0xFF. -/
def e8m0 (x : Nat) : Num := if x = 0xFF then .nan else .fin 1 ((x : Int) - 127)

/-! ### Quotients and square roots (13 R303)

Each is taken to 64 bits and more with a sticky bit below them, which gives the one rounding to FP32 its right direction. -/

def numNegative : Num → Bool
  | .inf n => n | .zero n => n | .fin m _ => decide (m < 0) | .nan => false

/-- A quotient, exact up to a sticky bit. -/
def numDiv (a b : Num) : Num :=
  let sg := numNegative a != numNegative b
  match a, b with
  | .nan, _ => .nan
  | _, .nan => .nan
  | .inf _, .inf _ => .nan
  | .inf _, _ => .inf sg
  | _, .inf _ => .zero sg
  | .zero _, .zero _ => .nan
  | .zero _, _ => .zero sg
  | _, .zero _ => .inf sg
  | .fin m1 e1, .fin m2 e2 =>
    let k := 64 + Nat.log2 m2.natAbs
    let n := m1.natAbs * 2 ^ k
    let q := 2 * (n / m2.natAbs) + b2n (n % m2.natAbs != 0)
    .fin (if sg then -(q : Int) else q) (e1 - e2 - k - 1)

/-- The integer square root by its bits, the highest first. -/
def isqrtGo (n : Nat) : Nat → Nat → Nat
  | 0, r => r
  | b + 1, r => if (r + 2 ^ b) * (r + 2 ^ b) ≤ n then isqrtGo n b (r + 2 ^ b) else isqrtGo n b r

def isqrt (n : Nat) : Nat := isqrtGo n (Nat.log2 n / 2 + 1) 0

/-- A square root, exact up to a sticky bit; NaN of a negative number. -/
def numSqrt : Num → Num
  | .nan => .nan
  | .inf false => .inf false
  | .inf true => .nan
  | .zero n => .zero n
  | .fin m e =>
    if m < 0 then .nan
    else
      let k : Nat := 128 + (if e % 2 = 0 then 0 else 1)
      let n := m.natAbs * 2 ^ k
      let r := isqrt n
      .fin (2 * r + b2n (r * r != n) : Nat) ((e - k) / 2 - 1)

def f32Div (a b : Num) : Num := f32 (numDiv a b)
def f32Sqrt (a : Num) : Num := f32 (numSqrt a)
def f32Sub (a b : Num) : Num := f32Add a (numNeg b)

/-! ### Elements in bytes (07 R155) -/

/-- Element i of a packed byte string of a format. -/
def elemAt (fmt : Nat) (d : List Byte) (i : Nat) : Nat :=
  let b := fmtBits fmt
  if b = 6 then bitsOf (u 3 d (3 * (i / 4))) (6 * (i % 4)) 6
  else if b = 4 then bitsOf (u8 d (i / 2)) (4 * (i % 2)) 4
  else if b = 1 then bitsOf (u8 d (i / 8)) (i % 8) 1
  else u (b / 8) d (i * (b / 8))

/-- Elements packed into bytes. -/
def packElems (fmt : Nat) (xs : List Nat) : List Byte :=
  let b := fmtBits fmt
  let bits := xs.foldr (fun x (acc : Nat) => acc * 2 ^ b + x % 2 ^ b) 0
  leBytes (ceilDiv (xs.length * b) 8) bits

/-- The elements a 1 KiB row holds (07 Table 07-8). -/
def rowElems (fmt : Nat) : Nat := if fmtBits fmt = 6 then 1344 else 8192 / fmtBits fmt

end Sys2Proof.Machine
end

