-- ==== Sys2Proof/Machine/Rs.lean ====
section
/-! DEFINITION. The codeword ECC (07_blades.md R161): a systematic Reed-Solomon code over GF(2^8), 32 data bytes and 4 check
bytes. -/

namespace Sys2Proof.Machine

/-- Multiplication by α = 2 modulo x^8 + x^4 + x^3 + x^2 + 1. -/
def gfTwice (a : Byte) : Byte := if a.msb then (a <<< 1) ^^^ 0x1D else a <<< 1

/-- Multiplication in GF(2^8), over the bits of the second factor from the top. -/
def gfMulGo (a b : Byte) : Nat → Byte
  | 0 => 0
  | n + 1 => let r := gfTwice (gfMulGo a (b >>> 1) n); if b.getLsbD 0 then r ^^^ a else r

def gfMul (a b : Byte) : Byte := gfMulGo a b 8

/-- α^n. -/
def gfExp : Nat → Byte
  | 0 => 1
  | n + 1 => gfTwice (gfExp n)

/-- g(x) = (x + 1)(x + α)(x + α²)(x + α³) = x⁴ + 15x³ + 54x² + 120x + 64 over the field: its coefficients below x⁴. -/
def rsGen : List Byte := [0x0F, 0x36, 0x78, 0x40]

/-- One step of the division by g: the remainder register (x³ first) takes the next message byte. -/
def rsStep (r : List Byte) (d : Byte) : List Byte :=
  let f := r.headD 0 ^^^ d
  ((r.drop 1 ++ [0]).zip rsGen).map (fun (a, g) => a ^^^ gfMul f g)

/-- The check bytes c0 to c3 of 32 data bytes (07 R161). -/
def rsCheck (d : List Byte) : List Byte := d.foldl rsStep [0, 0, 0, 0]

/-- The syndromes S0 to S3 of a 36-byte codeword, whose byte i is the coefficient of x^(35 − i). -/
def rsSyndrome (cw : List Byte) (j : Nat) : Byte := cw.foldl (fun s b => gfMul s (gfExp j) ^^^ b) 0

/-- What a check of a codeword finds: right, one byte in error (its place and its error), or not correctable. -/
inductive RsFound where
  | good
  | fix (at_ : Nat) (err : Byte)
  | bad
deriving DecidableEq, Repr

/-- The check of a codeword: an error confined to one byte has S1 = S0 · X, S2 = S1 · X, S3 = S2 · X for the byte's locator X. -/
def rsFind (cw : List Byte) : RsFound :=
  let s0 := rsSyndrome cw 0
  let s1 := rsSyndrome cw 1
  let s2 := rsSyndrome cw 2
  let s3 := rsSyndrome cw 3
  if s0 = 0 ∧ s1 = 0 ∧ s2 = 0 ∧ s3 = 0 then .good
  else
    match (List.range 36).find? (fun i =>
      let x := gfExp (35 - i)
      s0 != 0 && gfMul s0 x == s1 && gfMul s1 x == s2 && gfMul s2 x == s3) with
    | some i => .fix i s0
    | none => .bad

/-- The data bytes of a codeword after correction, whether it was corrected, and whether it can be read. -/
def rsRead (data check : List Byte) : List Byte × Bool × Bool :=
  match rsFind (data ++ check) with
  | .good => (data, false, true)
  | .fix i e => (if i < 32 then modNth data i (· ^^^ e) else data, true, true)
  | .bad => (data, false, false)

end Sys2Proof.Machine
end

