-- ==== Sys2Proof/Machine/Units.lean ====
section
/-! DEFINITION. Units, and which of them are fenced (21_faults_and_erg.md R446, R455); frames and half-banks (05 R87). -/

namespace Sys2Proof.Machine

/-- The drive window W in tenths of a ns (06 R130). -/
def windowT (period catchUs : Nat) : Nat := period * 9999 - catchUs * 10000 - 40000

/-- The catch length that acts: at most ⌊0.08 × T⌋ µs (06 R126). -/
def catchActs (period catchUs : Nat) : Nat := min catchUs (period * 8 / 100)

/-- The stroke whose catch binds now: between a finish and the next catch it is the stroke to come (06 R126). -/
def catchStroke (s : State) : Nat := if s.stk.phase = .boundary ∧ s.stk.begun then s.stk.number + 1 else s.stk.number

/-- Unit IDs (21 Table 21-1): type in [31:28], index in [27:0]. -/
def unitId (ty idx : Nat) : Nat := ty * 2 ^ 28 + idx
def unitTy (u : Nat) : Nat := u / 2 ^ 28
def unitIdx (u : Nat) : Nat := u % 2 ^ 28

/-- The number of units of a type; 0 for a reserved type (21 Table 21-1). -/
def unitRange : Nat → Nat
  | 1 => 2 ^ 24 | 2 => 81920 | 3 => 81920 | 4 => 640 | 5 => 640 | 6 => 10 | 7 => 128 | 8 => 16 | 9 => 256 | 10 => 32
  | _ => 0

/-- Whether a unit ID names a unit: its type is not reserved and its index in range; a frame number's lane is 0 to 9. -/
def unitOk (u : Nat) : Bool :=
  decide (unitIdx u < unitRange (unitTy u)) && (unitTy u != 1 || decide (unitIdx u / 2 ^ 20 < 10))

/-- Whether the fence table holds an active entry for the very unit. -/
def fencedSelf (s : State) (ty idx : Nat) : Bool :=
  s.flt.fences.any (fun e => e.active && e.unit == unitId ty idx)

/-! The fence of a larger unit takes the units inside it with it (21 Table 21-5). Blades and half-banks are numbered
lane × 8,192 + h, so half-bank g belongs to PC g ÷ 128 and lane g ÷ 8,192. -/

def laneFenced (s : State) (k : Nat) : Bool := fencedSelf s 6 k
def pcFenced (s : State) (n : Nat) : Bool := fencedSelf s 4 n || fencedSelf s 5 n || laneFenced s (n / 64)
def hbFenced (s : State) (g : Nat) : Bool := fencedSelf s 3 g || pcFenced s (g / 128)
def bladeFenced (s : State) (g : Nat) : Bool := fencedSelf s 2 g || hbFenced s g
def engineFenced (s : State) (e : Nat) : Bool := fencedSelf s 7 e || fencedSelf s 8 (e / 8)
def groupFenced (s : State) (g : Nat) : Bool := fencedSelf s 8 g
def channelFenced (s : State) (c : Nat) : Bool := fencedSelf s 10 c
def dieFenced (s : State) (d : Nat) : Bool := fencedSelf s 9 d || channelFenced s (d / 8)

/-- Whether a unit is out of use, by its own fence or as part of a larger fenced unit. -/
def unitFenced (s : State) (u : Nat) : Bool :=
  let i := unitIdx u
  match unitTy u with
  | 1 => fencedSelf s 1 i || hbFenced s ((i / 2 ^ 20) * 8192 + (i / 128) % 8192)
  | 2 => bladeFenced s i | 3 => hbFenced s i | 4 => pcFenced s i | 5 => pcFenced s i | 6 => laneFenced s i
  | 7 => engineFenced s i | 8 => groupFenced s i | 9 => dieFenced s i | 10 => channelFenced s i
  | _ => false

/-- Lane, half-bank (lane × 8,192 + h) and slot of a Tier H frame number: lane in [23:20], half-bank in [19:7], slot in
[6:0] (05 R87). -/
def frameLane (f : Nat) : Nat := f / 2 ^ 20
def frameHb (f : Nat) : Nat := (f / 2 ^ 20) * 8192 + (f / 128) % 8192
def frameSlot (f : Nat) : Nat := f % 128
def frameOf (g slot : Nat) : Nat := (g / 8192) * 2 ^ 20 + (g % 8192) * 128 + slot

/-- The lanes and PCs still in use. -/
def liveLanes (s : State) : List Nat := (List.range 10).filter (fun k => !laneFenced s k)

/-- Unfenced engines of a Combine group. -/
def groupEngines (s : State) (g : Nat) : Nat :=
  if groupFenced s g then 0 else ((List.range 8).filter (fun e => !engineFenced s (g * 8 + e))).length

/-- How many units of a type are in use, counting down from the fences rather than over every unit. -/
def fencedInLane (s : State) (k : Nat) : Nat :=
  let es := (s.flt.fences.filter (·.active)).map (·.unit)
  if laneFenced s k then 8192
  else
    let pcs := (List.range 64).filter (fun n => pcFenced s (64 * k + n))
    let blades := es.filter (fun u => (unitTy u = 2 || unitTy u = 3) && unitIdx u / 8192 = k && !pcs.contains (unitIdx u / 128 - 64 * k))
    pcs.length * 128 + (blades.map unitIdx).eraseDups.length

/-- Unfenced blades of a lane, and of the device (14 R312). -/
def laneBlades (s : State) (k : Nat) : Nat := 8192 - fencedInLane s k
def devBlades (s : State) : Nat := ((List.range 10).map (laneBlades s)).foldl (· + ·) 0
def devEngines (s : State) : Nat := ((List.range 16).map (groupEngines s)).foldl (· + ·) 0

/-! ### The system region (05 R87, R88) -/

/-- Whether half-bank g holds a system frame, in its slot 127: the first 49,152 half-banks hold one each, unless `sysMoved`
says that a half-bank's system frame stands in another one. -/
def hbSystem (s : State) (g : Nat) : Bool :=
  (decide (g < 49152) && !mapHas s.tier.sysMoved g) || (mapVals s.tier.sysMoved).contains g

def frameSystem (s : State) (f : Nat) : Bool := decide (frameSlot f = 127) && hbSystem s (frameHb f)

/-- The half-banks that system frames are on their way to (05 R88). -/
def sysGoing (s : State) : List Nat := (mapVals s.tier.ops ++ s.tier.opWaits).filterMap (fun o => if o.ended.isSome then none else o.sys.map (·.2))

/-- The class 6 stores that bring-up allocates (11 R253, 12 R275, 14 R305): 128 MiB of grammar state records, 512 MiB of walk contexts and eight
lane images of 128 MiB. Their frames are slot 127 of the last half-banks (DESIGN CHOICE, notes/assumptions/109.md). -/
def storeFrames : Nat := 2048 + 8192 + 8 * 2048

def frameStore (f : Nat) : Bool := decide (frameSlot f = 127) && decide (81920 ≤ frameHb f + storeFrames)

/-- Whether a frame may hold an SAS page: it exists, is no system frame and none of a store, lies in no fenced unit, is not retired, and neither an
Erg test, a plan being loaded nor a course's windows hold it (05 R87, 21 R452, R455, 09 R195). -/
def frameUsable (s : State) (f : Nat) : Bool :=
  decide (frameLane f < 10) && !frameSystem s f && !frameStore f && !unitFenced s (unitId 1 f) &&
    !(sysGoing s).any (fun t => frameOf t 127 = f) && !s.flt.tests.any (fun t => t.frames.contains f) && !s.prg.loads.any (fun l => l.plan.frames.contains f) &&
    !s.courses.any (fun e => e.2.frames.contains f)

/-- Frames retired or in fenced half-banks that would otherwise hold SAS pages: the loss that `TIER_H.FRAMES` shows (21
R460). Counted per fence entry: a frame 1, a half-bank 128, a PC 16,384, a lane 1,048,576, nothing twice. -/
def framesLost (s : State) : Nat :=
  let es := ((s.flt.fences.filter (·.active)).map (·.unit)).eraseDups
  let lanes := es.filter (fun u => unitTy u = 6)
  let pcs := ((es.filter (fun u => (unitTy u = 4 || unitTy u = 5) && !laneFenced s (unitIdx u / 64))).map unitIdx).eraseDups
  let hbs := es.filter (fun u => unitTy u = 3 && !pcFenced s (unitIdx u / 128))
  let fs := es.filter (fun u => unitTy u = 1 && !hbFenced s (frameHb (unitIdx u)))
  lanes.length * 2 ^ 20 + pcs.length * 16384 + hbs.length * 128 + fs.length

/-- Frames for SAS pages after fencing (`TIER_H.FRAMES`; 05 Table 05-10). -/
def hFrames (s : State) : Nat := 10485760 - 49152 - framesLost s

/-- Tier F frames after fencing: a flash die takes 3,145,728 with it (21 Table 21-5). -/
def fFrames (s : State) : Nat :=
  let ch := (List.range 32).filter (fun c => channelFenced s c)
  let dies := (List.range 256).filter (fun d => fencedSelf s 9 d && !channelFenced s (d / 8))
  805306368 - 3145728 * (8 * ch.length + dies.length)

/-- Half-banks out of use. -/
def hbsFenced (s : State) : Nat :=
  let es := ((s.flt.fences.filter (·.active)).map (·.unit)).eraseDups
  let lanes := es.filter (fun u => unitTy u = 6)
  let pcs := ((es.filter (fun u => (unitTy u = 4 || unitTy u = 5) && !laneFenced s (unitIdx u / 64))).map unitIdx).eraseDups
  lanes.length * 8192 + pcs.length * 128 + (es.filter (fun u => unitTy u = 3 && !pcFenced s (unitIdx u / 128))).length

end Sys2Proof.Machine
end

