-- ==== Sys2Proof/Machine/Tier.lean ====
section
/-! DEFINITION. SAS pages, Tier H frames and their bytes, quotas and advance charges (05_tiers_and_the_mover.md R86 to R101). -/

namespace Sys2Proof.Machine

/-! ### Addresses and page-table entries -/

/-- An SAS address with a bit of [63:46] set is refused (05 R86). -/
def sasOk (a : Nat) : Bool := decide (a < 2 ^ 46)

/-- The PTE of an allocated SAS page. -/
def pteOf (s : State) (p : Nat) : Option Pte := mapGet s.tier.ptes p

/-- The leaves still folded once a page has been accessed: its own unfolds (05 R90). -/
def unfolded (folded : List Nat) (p : Nat) : List Nat := folded.filter (· != p / 256)

/-- An entry is written; a folded leaf unfolds for it. -/
def setPte (s : State) (p : Nat) (e : Pte) : State :=
  { s with tier := { s.tier with ptes := mapSet s.tier.ptes p e, folded := unfolded s.tier.folded p } }

def updPte (s : State) (p : Nat) (f : Pte → Pte) : State :=
  { s with tier := { s.tier with ptes := mapUpd s.tier.ptes p f, folded := unfolded s.tier.folded p } }

def updPtes (s : State) (ps : List Nat) (f : Pte → Pte) : State := ps.foldl (fun s p => updPte s p f) s

/-- Dirty (05 R99): a Tier H copy, class 1, 2, 3, 5 or 6, committed content, and no current sealed copy in Tier F. -/
def Pte.dirty (e : Pte) : Bool :=
  e.h && (e.cls = 1 || e.cls = 2 || e.cls = 3 || e.cls = 5 || e.cls = 6) && e.committed && !(e.f && e.fVer = e.ver)

/-- The words E0 and E1 (05 Table 05-1). -/
def Pte.e0 (e : Pte) : Nat :=
  e.hFrame % 2 ^ 24 + e.tenant % 2 ^ 12 * 2 ^ 24 + e.cls % 8 * 2 ^ 36 + b2n e.h * 2 ^ 39 + b2n e.f * 2 ^ 40 +
  b2n e.n * 2 ^ 41 + b2n e.dirty * 2 ^ 42 + b2n e.pinH * 2 ^ 43 + b2n e.pinF * 2 ^ 44 + b2n e.placed * 2 ^ 45 +
  b2n e.copying * 2 ^ 46 + b2n e.lost * 2 ^ 47 + e.lanes % 2 ^ 10 * 2 ^ 48

def Pte.e1 (e : Pte) : Nat := e.fFrame % 2 ^ 30 + e.ver % 2 ^ 32 * 2 ^ 32

/-- The page table as it lies in the system region and Tier H (05 R89), seen from the entries that State holds once. A leaf is the words E0,
E1 of 256 consecutive SAS pages, 4 KiB, an unallocated page showing zeros; the directory's entry of a leaf says whether the leaf lies in Tier
H, is folded into Tier F (R90), or has no allocated page. -/
def leafWords (s : State) (l : Nat) : List Nat :=
  (List.range 256).flatMap (fun i => match pteOf s (l * 256 + i) with | some e => [e.e0, e.e1] | none => [0, 0])

inductive DirEntry where
  | absent | resident | folded
deriving DecidableEq, Repr

def dirEntry (s : State) (l : Nat) : DirEntry :=
  if s.tier.folded.contains l then .folded else if s.tier.ptes.any (fun e => e.1 / 256 = l) then .resident else .absent

/-- The dirty pages of the device and of a tenant (05 R99). -/
def dirtyPages (s : State) : Nat := (s.tier.ptes.filter (fun e => e.2.dirty)).length
def dirtyOf (s : State) (t : Nat) : Nat := (s.tier.ptes.filter (fun e => e.2.dirty && e.2.tenant = t)).length

/-! ### Quotas and charges (05 R96, R97) -/

/-- Pages charged to a tenant: one per frame that holds a copy, old sealed copies kept under PIN_F included, and the
advance charges (05 R97). -/
def useH (s : State) (t : Nat) : Nat :=
  (s.tier.ptes.filter (fun e => e.2.h && e.2.tenant = t)).length +
    ((s.tier.charges.filter (fun c => c.tenant = t && c.tier = 0)).map (·.pages)).foldl (· + ·) 0

def useF (s : State) (t : Nat) : Nat :=
  ((s.tier.ptes.filter (fun e => e.2.tenant = t)).map (fun e => b2n e.2.f + e.2.oldF.length)).foldl (· + ·) 0 +
    ((s.tier.charges.filter (fun c => c.tenant = t && c.tier = 1)).map (·.pages)).foldl (· + ·) 0

/-- Frames reserved by advance charges in a tier (05 R97). -/
def reserved (s : State) (tier : Nat) : Nat :=
  ((s.tier.charges.filter (fun c => c.tier = tier)).map (·.pages)).foldl (· + ·) 0

/-- Free frames of each tier, less reserved ones (05 R97, Table 05-10). -/
def freeH (s : State) : Nat := hFrames s - s.tier.hUsed.length - reserved s 0 - storeFrames
def freeF (s : State) : Nat := fFrames s - s.tier.sealedAt.length - reserved s 1

/-- Whether a charge fits, and why not: the tenant's quota first, then the frames (05 R98). Pages of class 4 and 6 are charged to
no tenant (0xFFF). -/
def chargeFitsH (s : State) (t n : Nat) : Option Nat :=
  if t ≠ 0xFFF ∧ rdB s R.TIER_TEN_QH_QUOTA t < useH s t + n ∧ 0 < n then some E_QUOTA_H
  else if freeH s < n then some E_TIER_FULL else none

def chargeFitsF (s : State) (t n : Nat) : Option Nat :=
  if t ≠ 0xFFF ∧ rdB s R.TIER_TEN_QF_QUOTA t < useF s t + n ∧ 0 < n then some E_QUOTA_F
  else if freeF s < n then some E_TIER_FULL else none

/-- An advance charge is taken, and given back in whole or in part (05 R97). -/
def addCharge (s : State) (c : Charge) : State :=
  if c.pages = 0 then s else { s with tier := { s.tier with charges := s.tier.charges ++ [c] } }

def dropCharges (s : State) (owner : Nat) : State :=
  { s with tier := { s.tier with charges := s.tier.charges.filter (fun c => c.owner != owner) } }

/-- `n` pages of an owner's advance charge in a tier become frames, or are given back. -/
def takeCharge : List Charge → Nat → Nat → Nat → List Charge
  | [], _, _, _ => []
  | c :: cs, owner, tier, n =>
    if n = 0 then c :: cs
    else if c.owner = owner ∧ c.tier = tier then
      if c.pages ≤ n then takeCharge cs owner tier (n - c.pages)
      else { c with pages := c.pages - n } :: cs
    else c :: takeCharge cs owner tier n

def useCharge (s : State) (owner tier n : Nat) : State :=
  { s with tier := { s.tier with charges := takeCharge s.tier.charges owner tier n } }

/-! ### Choosing frames and SAS pages

Which free frame a floating page takes is the Tier manager's choice (05 R111, 09 R203): the model goes round the allowed lanes
and takes, in each, the free frame of the lowest slot and then of the lowest half-bank, so that a session's pages spread
over half-banks first (notes/assumptions/13.md). Half-banks that hold A pages of the session for one leg are avoided while others are free. -/

/-- The j-th frame of a lane in the order slot first, then half-bank. -/
def laneFrameAt (k j : Nat) : Nat := frameOf (k * 8192 + j % 8192) (j / 8192)

/-- Whether an allotment holds PC n (20 R439). -/
def Allot.hasPc (a : Allot) (n : Nat) : Bool := bitOf (a.pcs.getD (n / 64) 0) (n % 64)

/-- Whether PC n may hold pages charged to a tenant: in its allotment if it has one, and otherwise in no tenant's (20 R439).
Shared-model mode has no allotments. -/
def pcLends (s : State) (tenant n : Nat) : Bool :=
  match mapGet s.sec.allots tenant with
  | some a => a.hasPc n
  | none => s.sec.allots.all (fun e => !e.2.hasPc n)

/-- The first frame of a lane that a tenant may use, that is not in `used` and lies in no half-bank to avoid, from the j-th on. -/
def findFrame (s : State) (tenant : Nat) (avoid used : List Nat) (k : Nat) : Nat → Nat → Option Nat
  | 0, _ => none
  | fuel + 1, j =>
    let f := laneFrameAt k j
    if used.contains f || avoid.contains (frameHb f) || !frameUsable s f || !pcLends s tenant (frameHb f / 128) then
      findFrame s tenant avoid used k fuel (j + 1)
    else some f

/-- One frame in one of the lanes, tried in the order given. -/
def findInLanes (s : State) (tenant : Nat) (avoid used : List Nat) : List Nat → Option Nat
  | [] => none
  | k :: ks =>
    match findFrame s tenant avoid used k (2 ^ 20) 0 with
    | some f => some f
    | none => findInLanes s tenant avoid used ks

/-- The lanes a mask allows, 0 meaning any (05 Table 05-1, `LANES`). -/
def maskLanes (m : Nat) : List Nat :=
  if m % 1024 = 0 then List.range 10 else onesOf 10 m

/-- A list turned round so that it begins at its i-th element (modulo its length). -/
def rotate {α : Type} (xs : List α) (i : Nat) : List α :=
  if xs.isEmpty then xs else xs.drop (i % xs.length) ++ xs.take (i % xs.length)

/-- `n` frames, the i-th sought from the i-th allowed lane on. -/
def pickFrames (s : State) (tenant : Nat) (avoid lanes : List Nat) : List Nat → Nat → Nat → Option (List Nat)
  | _, 0, _ => some []
  | used, n + 1, i =>
    match findInLanes s tenant avoid used (rotate lanes i) with
    | none => none
    | some f =>
      match pickFrames s tenant avoid lanes (setAdd used f) n (i + 1) with
      | none => none
      | some fs => some (f :: fs)

/-- Frames away from some half-banks, as far as there are such (09 R203). -/
def allocAway (s : State) (tenant mask n : Nat) (avoid : List Nat) : Option (List Nat) :=
  let pick := fun (avoid : List Nat) =>
    pickFrames s tenant avoid ((maskLanes mask).filter (fun k => !laneFenced s k)) s.tier.hUsed n s.tier.hUsed.length
  match pick avoid with
  | some fs => some fs
  | none => if avoid.isEmpty then none else pick []

def allocFrames (s : State) (tenant mask n : Nat) : Option (List Nat) := allocAway s tenant mask n []

/-- The lowest start of `n` consecutive free SAS pages, walking the allocated ones in rising order. -/
def freeRun {α : Type} (n : Nat) : Map α → Nat → Nat
  | [], from_ => from_
  | (k, _) :: m, from_ => if k < from_ then freeRun n m from_ else if from_ + n ≤ k then from_ else freeRun n m (k + 1)

/-- Consecutive free SAS pages; page 0 is never given out, so that an address of 0 names no page (notes/assumptions/13.md). -/
def sasRun (s : State) (n : Nat) : Nat := freeRun n s.tier.ptes 1

/-- Page lists, with the room their coarse index takes behind them (10 R220), lie in the upper half of the SAS: the lowest start
of `n` pages clear of every range listed (notes/assumptions/13.md). -/
def runAmong (n : Nat) : List (Nat × Nat) → Nat → Nat
  | [], from_ => from_
  | (k, len) :: rs, from_ => if from_ + n ≤ k then from_ else runAmong n rs (max from_ (k + len))

/-! ### Bytes of Tier H -/

/-- The byte address of a frame's first byte. -/
def frameBase (f : Nat) : Nat := f * 65536

/-- A frame's bytes that are not zero, by offset. -/
def frameCells (s : State) (f : Nat) : Map Byte :=
  ((s.tier.hbm.filter (fun e => frameBase f ≤ e.1 && e.1 < frameBase f + 65536)).map (fun e => (e.1 - frameBase f, e.2)))

/-- A frame is zeroed (20 R440 on freeing; also before it takes a page's bytes). -/
def zeroFrame (s : State) (f : Nat) : State :=
  { s with tier := { s.tier with
      hbm := cellsClear s.tier.hbm (frameBase f) (frameBase f + 65536) } }

/-- Bytes written into a frame from an offset. -/
def writeFrame (s : State) (f off : Nat) (bs : List Byte) : State :=
  { s with tier := { s.tier with hbm := cellsSet s.tier.hbm (frameBase f + off) bs } }

/-- Sparse bytes written into a zeroed frame. -/
def fillFrame (s : State) (f : Nat) (cells : Map Byte) : State :=
  let s := zeroFrame s f
  { s with tier := { s.tier with hbm := cells.foldl (fun m e => cellSet m (frameBase f + e.1) e.2) s.tier.hbm } }

def readFrame (s : State) (f off n : Nat) : List Byte := cellsGet s.tier.hbm (frameBase f + off) n

/-- Bytes of a page's Tier H copy; none where it has no Tier H copy. -/
def readPage (s : State) (p off n : Nat) : Option (List Byte) :=
  match pteOf s p with
  | some e => if e.h then some (readFrame s e.hFrame off n) else none
  | none => none

def writePage (s : State) (p off : Nat) (bs : List Byte) : State :=
  match pteOf s p with
  | some e => if e.h then writeFrame s e.hFrame off bs else s
  | none => s

/-- A write to a page's Tier H copy is noted: its VER increments at the finish (05 R93). -/
def touch (s : State) (p : Nat) : State := stage s (.touched p)

/-! ### Allocating and freeing pages -/

/-- A page gets a frame: its PTE as Table 05-1's Reset column gives it. -/
def newPage (s : State) (p f tenant cls : Nat) (committed : Bool) : State :=
  let s := setPte s p { hFrame := f, tenant := tenant, cls := cls, committed := committed, lastWrite := s.stk.number }
  { s with tier := { s.tier with hUsed := setAdd s.tier.hUsed f } }

/-- `n` consecutive SAS pages with frames of their own; none where frames are lacking. Answers the first page. -/
def allocPagesAway (s : State) (n tenant cls mask : Nat) (committed : Bool) (avoid : List Nat) : Option (Nat × State) :=
  match allocAway s tenant mask n avoid with
  | none => none
  | some fs =>
    let base := sasRun s n
    some (base, ((List.range n).zip fs).foldl (fun s (i, f) => newPage s (base + i) f tenant cls committed) s)

def allocPages (s : State) (n tenant cls mask : Nat) (committed : Bool) : Option (Nat × State) :=
  allocPagesAway s n tenant cls mask committed []

/-- The Tier H copy of a page is freed; the frame is zeroed (20 R440). A page left with no copy in any tier is freed. -/
def freeH1 (s : State) (p : Nat) : State :=
  match pteOf s p with
  | none => s
  | some e =>
    if e.h then
      let s := zeroFrame s e.hFrame
      let s := { s with tier := { s.tier with hUsed := setDel s.tier.hUsed e.hFrame } }
      setPte s p { e with h := false, hFrame := 0 }
    else s

/-- A page is freed in every tier (03 R57, 05 R97). -/
def freePage (s : State) (p : Nat) : State :=
  match pteOf s p with
  | none => s
  | some e =>
    let s := freeH1 s p
    let dead := (if e.f then [e.fFrame] else []) ++ e.oldF
    { s with tier := { s.tier with
        sealedAt := dead.foldl (fun m f => mapErase m f) s.tier.sealedAt
        ptes := mapErase s.tier.ptes p
        folded := unfolded s.tier.folded p
        ops := mapAll s.tier.ops (fun _ o => { o with
          todo := o.todo.filter (· != p)
          flying := o.flying.filter (· != p)
          got := mapErase o.got p }) } }

def freePages (s : State) (ps : List Nat) : State := ps.foldl freePage s

/-- A page's Tier F copy is dropped. -/
def freeF1 (s : State) (p : Nat) : State :=
  match pteOf s p with
  | none => s
  | some e =>
    if e.f then
      setPte { s with tier := { s.tier with sealedAt := mapErase s.tier.sealedAt e.fFrame } } p { e with f := false, fFrame := 0 }
    else s

/-! ### Sealing (05 R92, R93; 20 R433) -/

/-- The flash die and the channel of a page's Tier F frame (05 R87). -/
def dieOfPage (s : State) (p : Nat) : Nat := (Config.dieOfFrame ((pteOf s p).elim 0 (·.fFrame))).toNat
def channelOf (s : State) (p : Nat) : Nat := dieOfPage s p / 8

/-- The sealed copy of a page as it stands: the metadata it is authenticated with and its bytes. -/
def sealOf (s : State) (p : Nat) (e : Pte) : Sealed :=
  { page := p, ver := e.ver, tenant := e.tenant, cls := e.cls, ctr := s.tier.sealCtr + 1, cells := frameCells s e.hFrame }

/-- Whether a tenant's sealed copies may lie on a flash channel: on its allotment's if it has one, and otherwise on no tenant's (20 R439). -/
def chanLends (s : State) (tenant ch : Nat) : Bool :=
  match mapGet s.sec.allots tenant with
  | some a => bitOf a.fch ch
  | none => s.sec.allots.all (fun e => !bitOf e.2.fch ch)

/-- The lowest free Tier F frame from `f` on whose flash die is in use and open to a tenant. -/
def freeFFrom (s : State) (tenant : Nat) : Nat → Nat → Nat
  | 0, f => f
  | fuel + 1, f =>
    let die := (Config.dieOfFrame f).toNat
    if mapHas s.tier.sealedAt f || dieFenced s die || !chanLends s tenant (die / 8) then freeFFrom s tenant fuel (f + 1) else f

/-- The lowest free Tier F frame; a fenced die takes no copy (21 R455). -/
def freeFFrame (s : State) (tenant : Nat) : Nat :=
  if !s.sec.allots.isEmpty || s.flt.fences.any (fun e => e.active && (unitTy e.unit = 9 || unitTy e.unit = 10)) then
    freeFFrom s tenant 805306368 0
  else mapFree s.tier.sealedAt

/-- The last seal counter value that a sealed copy takes: one for the page, and one for each of the sixteen node slots of a class 5 page (20 R428,
R434). -/
def Sealed.last (x : Sealed) : Nat := if x.cls = 5 then x.ctr + 15 else x.ctr

/-- A sealed copy enters Tier F: a new frame; the old one is freed unless `PIN_F` keeps it (05 R92). -/
def putSealed (s : State) (p : Nat) (x : Sealed) : State :=
  match pteOf s p with
  | none => s
  | some e =>
    let f := freeFFrame s e.tenant
    let keep := e.f && e.pinF
    let m := if e.f && !e.pinF then mapErase s.tier.sealedAt e.fFrame else s.tier.sealedAt
    let s := { s with tier := { s.tier with sealedAt := mapSet m f x, sealCtr := max s.tier.sealCtr x.last } }
    setPte s p { e with f := true, n := false, fFrame := f, fVer := x.ver, oldF := if keep then e.oldF ++ [e.fFrame] else e.oldF }

/-- `PIN_F` clears: the old copies kept for it are freed (05 R92). -/
def unpinF (s : State) (p : Nat) : State :=
  match pteOf s p with
  | none => s
  | some e =>
    let s := { s with tier := { s.tier with sealedAt := e.oldF.foldl (fun m f => mapErase m f) s.tier.sealedAt } }
    setPte s p { e with pinF := false, oldF := [] }

/-- The page that a sealed copy authenticates as (20 R433): its page, tenant and class must be those of the PTE and its version
the one recorded. A private page sealed before it became a node's (04 R74, R77) keeps its copy, which the device opens under the class it was
sealed with (DESIGN CHOICE, notes/assumptions/100.md). -/
def sealedOk (s : State) (p : Nat) : Option Sealed :=
  match pteOf s p with
  | none => none
  | some e =>
    if e.f then
      match mapGet s.tier.sealedAt e.fFrame with
      | some x => if x.page = p ∧ x.tenant = e.tenant ∧ (x.cls = e.cls ∨ (x.cls = 1 ∧ e.cls = 2)) ∧ x.ver = e.fVer then some x else none
      | none => none
    else none

/-! ### Dirty Budget (05 R100, R101; 18 R394) -/

/-- The Dirty Budget in pages (`TIER_DIRTY.BUDGET`). -/
def budgetPages (s : State) : Nat := rdF s R.TIER_DIRTY_BUDGET

/-- The hold-up state that the last installed result set (18 R393): 0 untested, 2 GOOD, 3 WRITE_THROUGH, 4 FAILED. -/
def holdupState (s : State) : Nat := s.pwr.hold

/-! ### Errors noted for the finish (21 R447) -/

/-- An error is noted: its fault record and its consequences follow at the finish (21 R448, R462). -/
def noteErr (s : State) (n : ErrNote) : State := { s with flt := { s.flt with notes := s.flt.notes ++ [n] } }

def bladePc (g : Nat) : Nat := g / 128

/-- Whether a granted leg owns a Tier H frame until the finish (07 R147): its rows may be written, so that every access by the Control-die path
waits. -/
def frameOwned (s : State) (f : Nat) : Bool := s.stk.granted.any (fun e => e.2.owns.contains f)

end Sys2Proof.Machine
end

