-- ==== Sys2Proof/Machine/Blade.lean ====
section
/-! DEFINITION. Blades (07_blades.md): working SRAM, pull lists, the operations, codeword checks and poison; and the refresh of their
banks (08_lane_dies.md R170, R171). Blades are numbered lane × 8,192 + half-bank. -/

namespace Sys2Proof.Machine

/-! ### Errors noted for the finish (21 R447) -/

/-- The SAS page that a Tier H frame holds. -/
def pageOfFrame (s : State) (f : Nat) : Option Nat := (s.tier.ptes.find? (fun e => e.2.h && e.2.hFrame = f)).map (·.1)

/-! ### Granted legs and plans -/

def legOf (s : State) (k : Nat) : Option GLeg := mapGet s.stk.granted k

def updLeg (s : State) (k : Nat) (f : GLeg → GLeg) : State :=
  { s with stk := { s.stk with granted := mapUpd s.stk.granted k f } }

/-- The plan version a leg belongs to. -/
def planVer (s : State) (model ver : Nat) : Option Plan :=
  match mapGet s.prg.progs model with
  | none => none
  | some p => if p.cur.hdr.version = ver then some p.cur else p.old

def legPlan (s : State) (l : GLeg) : Option Plan := planVer s l.model l.version

/-- A leg's entry on a half-bank's blade consumed what cannot be read (21 Table 21-2 class 2): `E_BLADE_POISON` stands in its PC's page at the
leg's finish. -/
def taintLeg (s : State) (k g : Nat) : State :=
  updLeg s k (fun l => { l with poisonBy := some (l.poisonBy.getD g) })

/-- A leg is poisoned (07 R164): its step will not commit. `g` is the half-bank whose blade or bus transfer did it, if one did. -/
def poisonLeg (s : State) (k : Nat) (g : Option Nat) : State :=
  match legOf s k with
  | none => s
  | some l =>
    if l.poisoned then s
    else
      let s := updLeg s k (fun l => { l with poisoned := true })
      match g with | some n => cntI (taintLeg s k n) R.PCH_POISON_LEGS (bladePc n) 1 | none => s

/-! ### SRAM (07 R137, R138) -/

def bladeLane (g : Nat) : Nat := g / 8192

def sramGet (s : State) (g off n : Nat) : List Byte := cellsGet s.bld.sram (g * 32768 + off) n

def sramPut (s : State) (g off : Nat) (bs : List Byte) : State :=
  { s with bld := { s.bld with sram := cellsSet s.bld.sram (g * 32768 + off) bs } }

def accAt (s : State) (g w : Nat) : Num := f32Val (u32 (sramGet s g (0x1000 + 4 * w) 4) 0)
def accPut (s : State) (g w : Nat) (v : Num) : State := sramPut s g (0x1000 + 4 * w) (leBytes 4 (f32Bits v))

/-- The header of a query slot: format, FULL, position (07 R159). -/
def slotFmt (s : State) (g q : Nat) : Nat := bitsOf (u64 (sramGet s g (0x3800 + 8 * q) 8) 0) 0 4
def slotFull (s : State) (g q : Nat) : Bool := bitOf (u64 (sramGet s g (0x3800 + 8 * q) 8) 0) 8
def slotPos (s : State) (g q : Nat) : Nat := bitsOf (u64 (sramGet s g (0x3800 + 8 * q) 8) 0) 32 32

/-- Element i of a query slot. -/
def queryAt (s : State) (g q i : Nat) : Num :=
  let f := slotFmt s g q
  numDecode f false (elemAt f (sramGet s g (0x200 * q) 512) i)

/-- A pair: its maximum as s32 and its sum (07 Table 07-1). -/
def pairMax (s : State) (g n : Nat) : Int := signed 32 (u32 (sramGet s g (0x3840 + 8 * n) 4) 0)
def pairSum (s : State) (g n : Nat) : Num := f32Val (u32 (sramGet s g (0x3844 + 8 * n) 4) 0)
def pairPut (s : State) (g n : Nat) (m : Int) (l : Num) : State :=
  sramPut s g (0x3840 + 8 * n) (leBytes 4 (unsigned 32 m) ++ leBytes 4 (f32Bits l))

def runOf (s : State) (g : Nat) : BladeRun := (mapGet s.bld.runs g).getD {}

def setRun (s : State) (g : Nat) (r : BladeRun) : State :=
  { s with bld := { s.bld with runs := if r = {} then mapErase s.bld.runs g else mapSet s.bld.runs g r } }

def updRun (s : State) (g : Nat) (f : BladeRun → BladeRun) : State := setRun s g (f (runOf s g))

/-! ### Entries (07 R145, R149) -/

def entOp (e : Word) : Nat := bitsOf e.toNat 0 4
def entFmt (e : Word) : Nat := bitsOf e.toNat 4 4
def entMx (e : Word) : Bool := bitOf e.toNat 8
def entLast (e : Word) : Bool := bitOf e.toNat 9
def entQreg (e : Word) : Nat := bitsOf e.toNat 13 3
def entNpos (e : Word) : Nat := bitsOf e.toNat 16 3
def entRow (e : Word) : Nat := bitsOf e.toNat 19 13
def entF (e : Word) (lo n : Nat) : Nat := bitsOf e.toNat lo n

/-- Whether an entry is a pull (07 Table 07-5). -/
def entPull (e : Word) : Bool := 1 ≤ entOp e && entOp e ≤ 6

/-- A `BASE` entry, which fills unused places of an attention block (09 R202). -/
def baseEnt (k : Nat) : Word := BitVec.ofNat 64 (0xA + k % 2 ^ 32 * 2 ^ 32)

/-- A list with a block laid over it from a place on; a shorter list is filled with `BASE` entries up to the block. -/
def overlay (xs : List Word) (at_ : Nat) (ys : List Word) : List Word :=
  xs.take at_ ++ List.replicate (at_ - xs.length) (baseEnt 0) ++ ys ++ xs.drop (at_ + ys.length)

/-- The list of a blade for a granted leg: the plan's, with the attention blocks the device filled in at the grant (09 R202). -/
def legEntries (s : State) (k : Nat) (g : Nat) : List Word :=
  match legOf s k with
  | none => []
  | some l =>
    match legPlan s l with
    | none => []
    | some p =>
      let base := (mapGet p.pulls (g * 256 + l.leg)).getD []
      ((List.range p.att.length).zip p.att).foldl (fun xs (i, t) =>
        if t.leg = l.leg then
          overlay xs t.block (((mapGet l.blocks (g * 2048 + i)).getD (List.replicate t.entries (baseEnt 0))).take t.entries)
        else xs) base

/-! ### The pull-list store (07 R137, R144) -/

/-- The schedule transfers of a leg to a PC, in order (09 R200). -/
def pcSched (p : Plan) (leg pc : Nat) : List SchedEnt :=
  ((mapGet p.sched (pc / 64)).getD []).filter (fun x => x.leg = leg && x.pc = pc % 64)

def legSched (s : State) (k pc : Nat) : List SchedEnt :=
  match legOf s k with
  | none => []
  | some l =>
    match legPlan s l with
    | none => []
    | some p => pcSched p l.leg pc

/-- Whether a schedule transfer reaches a blade (08 Table 08-1, `BCAST`, `BLADE`). -/
def schedHits (x : SchedEnt) (g : Nat) : Bool := bitOf x.header 4 || bitsOf x.header 5 7 == g % 128

def schedType (x : SchedEnt) : Nat := bitsOf x.header 0 4

/-- `SEGMENT.ENTRY` and the number of entries it writes. -/
def segFirst (x : SchedEnt) : Nat := bitsOf x.header 12 10
def segCount (x : SchedEnt) : Nat := bitsOf x.header 22 9 + 1

/-- The place in the ring at which a blade begins a leg: where the lists of the lower legs end. The spec has the grant name the place and gives
no rule for it (DESIGN CHOICE, notes/assumptions/106.md). -/
def ringStart (p : Plan) (leg g : Nat) : Nat :=
  sumOf ((List.range leg).map (fun i => ((mapGet p.pulls (g * 256 + i)).getD []).length)) % 1024

def ringPlace (p : Plan) (leg g i : Nat) : Nat := (ringStart p leg g + i) % 1024

/-- Whether a transfer is a segment that writes a place of the ring. -/
def segCovers (x : SchedEnt) (q : Nat) : Bool := schedType x == 2 && decide ((q + 1024 - segFirst x) % 1024 < segCount x)

/-- The transfer of its leg and PC that delivers entry i of a list of n entries, none where the entry is resident (14 R316). Of the entries
that share a place of the ring the last are delivered by the segments that write it, in order. -/
def entSegment (p : Plan) (leg g n i : Nat) : Option Nat :=
  let xs := pcSched p leg (bladePc g)
  let covers := (List.range xs.length).filter (fun t => match xs[t]? with
    | some x => schedHits x g && segCovers x (ringPlace p leg g i)
    | none => false)
  let share := ceilDiv (n - i % 1024) 1024
  if share ≤ i / 1024 + covers.length then covers[i / 1024 + covers.length - share]? else none

/-- The entry that a segment brings to a place of the ring. -/
def segEntry (p : Plan) (leg g n t q : Nat) : Option Nat :=
  (List.range n).find? (fun i => ringPlace p leg g i == q && entSegment p leg g n i == some t)

/-- The entry that the store holds for place i of a blade's list. -/
def storedEnt (s : State) (p : Plan) (leg g i : Nat) : Word :=
  BitVec.ofNat 64 (u64 (sramGet s g (0x1800 + 8 * ringPlace p leg g i) 8) 0)

def busOf (s : State) (pc : Nat) : BusSt := (mapGet s.bld.buses pc).getD {}

/-- Transfers of a leg that its PC's bus has carried. -/
def schedDone (s : State) (k pc : Nat) : Nat := (mapGet (busOf s pc).done k).getD 0

/-- Whether entry i of a blade's list for a granted leg stands in its store. -/
def entHere (s : State) (k g : Nat) (p : Plan) (l : GLeg) (n i : Nat) : Bool :=
  match entSegment p l.leg g n i with
  | none => true
  | some t => decide (t < schedDone s k (bladePc g))

/-- Resident entries come to the store of a half-bank's working SRAM (`at_` 0) or standby seat (`at_` 16,384). -/
def putResident (s : State) (p : Plan) (g at_ : Nat) : State :=
  (p.pulls.filter (fun e => e.1 / 256 = g)).foldl (fun s (key, es) =>
    ((List.range es.length).zip es).foldl (fun s (i, e) =>
      if (entSegment p (key % 256) g es.length i).isNone then
        sramPut s g (at_ + 0x1800 + 8 * ringPlace p (key % 256) g i) (leBytes 8 e.toNat)
      else s) s) s

/-! ### Experts (09 R206, R207) -/

/-- The expert range in which entry i of a leg lies; a blade passes over the ranges of experts that no position of the pass chose. -/
def expertAt (p : Plan) (l : GLeg) (g i : Nat) : Option Expert :=
  p.experts.find? (fun x => x.leg = l.leg && x.first ≤ i && i ≤ x.last && bitOf x.lanes (bladeLane g))

/-! ### Rows and codewords (07 R161 to R163) -/

/-- A row's 1,024 data bytes as they are stored. -/
def rowData (s : State) (g row : Nat) : List Byte :=
  readFrame s (frameOf g (row / 64)) (row % 64 * 1024) 1024

/-- One codeword as it arrives: its data, whether it was corrected, whether it can be read. `flips` are the bits read wrongly, by byte
offset in the row (check bytes from 1,024 on) and error mask. -/
def codewordRead (d : List Byte) (flips : List (Nat × Byte)) (k : Nat) : List Byte × Bool × Bool :=
  let fs := flips.filter (fun f => f.1 / 32 = k && f.1 < 1024 || (1024 ≤ f.1 && (f.1 - 1024) / 4 = k))
  let w := bytesAt d (32 * k) 32
  if fs.isEmpty then (w, false, true)
  else
    let cw := fs.foldl (fun cw (o, e) => modNth cw (if o < 1024 then o % 32 else 32 + (o - 1024) % 4) (· ^^^ e)) (w ++ rsCheck w)
    rsRead (cw.take 32) (cw.drop 32)

/-- A row as it arrives: its bytes, the codewords corrected, and those that cannot be read. -/
def rowRead (s : State) (g row : Nat) (flips : List (Nat × Byte)) : List Byte × List Nat × List Nat :=
  let d := rowData s g row
  let cs := (List.range 32).map (fun k => (k, codewordRead d flips k))
  ((cs.map (fun c => c.2.1)).flatten, (cs.filter (fun c => c.2.2.1)).map (·.1), (cs.filter (fun c => !c.2.2.2)).map (·.1))

/-- Whether a byte range of a row meets one of some codewords. -/
def meets (bad : List Nat) (lo hi : Nat) : Bool := bad.any (fun k => 32 * k < hi && lo < 32 * k + 32)

/-- The bytes that elements [a, b) of a format occupy in a row. -/
def elemBytes (fmt a b : Nat) : Nat × Nat := (a * fmtBits fmt / 8, ceilDiv (b * fmtBits fmt) 8)

/-! ### Arithmetic of a pull (07 R150 to R157) -/

/-- The blade clock of the stream in which element i has wholly arrived. -/
def elemClock (fmt i : Nat) : Nat := ((i + 1) * fmtBits fmt - 1) / 64

/-- Runs of equal keys, summed exactly and rounded once each (07 R157). -/
def runSums : List (Nat × Num) → List (Nat × Num)
  | [] => []
  | (k, v) :: rest =>
    match runSums rest with
    | (k', v') :: more => if k = k' then (k, numAdd v v') :: more else (k, v) :: (k', v') :: more
    | [] => [(k, v)]

def clockSums (xs : List (Nat × Num)) : List (Nat × Num) := (runSums xs).map (fun (k, v) => (k, f32 v))

/-- A dot product added to an accumulator (07 R157): `ps` are (row element index, row value, query value). -/
def dotInto (fmt : Nat) (mx : Bool) (scale : Nat → Num) (acc : Num) (ps : List (Nat × Num × Num)) : Num :=
  if fmt = 0 then ps.foldl (fun a (_, x, y) => f32Fma x y a) acc
  else if !mx then (clockSums (ps.map (fun (i, x, y) => (elemClock fmt i, numMul x y)))).foldl (fun a (_, v) => f32Add a v) acc
  else
    let blocks := (ps.map (fun e => e.1 / 32)).eraseDups
    blocks.foldl (fun a b =>
      let part := (clockSums ((ps.filter (fun e => e.1 / 32 = b)).map (fun (i, x, y) => (elemClock fmt i, numMul x y)))).foldl
        (fun a (_, v) => f32Add a v) (.zero false)
      f32Add a (f32Mul part (scale b))) acc

/-- The scale of a block of an `MX` row (07 R156). -/
def mxScale (s : State) (g sblk b : Nat) : Num := e8m0 (u8 (sramGet s g (0x3C00 + sblk + b) 1) 0)

/-- What executing an entry writes: words and pairs, which poison spreads to, whether it consumed something it could not read, and
whether that poisons the leg at once. -/
structure EntOut where
  words : List Nat := []
  pairs : List Nat := []
  poison : Bool := false
  legPoison : Bool := false

/-- exp2 (07 R151): exact at integers; elsewhere between the two powers of two beside it, its fraction free. -/
def exp2Of (x : Num) : Num :=
  match x with
  | .nan => .nan
  | .inf neg => if neg then .zero false else .inf false
  | .zero _ => .fin 1 0
  | .fin m e =>
    let k := numCeil (.fin m e)
    if k < -160 then .zero false
    else if 160 < k then .inf false
    else if numLt x (finOf k 0) then f32 (.fin ((2 ^ 23 + (Config.exp2Frac (BitVec.ofNat 32 (f32Bits x))).toNat + 1 : Nat) : Int) (k - 24))
    else f32 (.fin 1 k)

def runDot (s : State) (g : Nat) (e : Word) (d : List Byte) (bad : List Nat) (sblk : Nat) : EntOut × State :=
  let fmt := entFmt e
  let mx := entMx e
  let acc := entF e 32 9
  let len := 32 * 2 ^ entF e 41 3
  let first := entF e 44 11
  let nseg := entF e 55 6 + 1
  let qoff := entF e 61 3 * 64
  let np := entNpos e + 1
  let ws := (List.range np).flatMap (fun p => (List.range nseg).map (fun j => (p, j)))
  let s' := ws.foldl (fun st (p, j) =>
    let w := acc + p * nseg + j
    let ps := (List.range len).map (fun i =>
      let x := first + j * len + i
      (x, numDecode fmt mx (elemAt fmt d x), queryAt s g (entQreg e + p) (qoff + i)))
    accPut st g w (dotInto fmt mx (mxScale s g sblk) (accAt st g w) ps)) s
  let r := elemBytes fmt first (first + nseg * len)
  ({ words := ws.map (fun (p, j) => acc + p * nseg + j), poison := meets bad r.1 r.2 }, s')

def runAxpy (s : State) (g : Nat) (e : Word) (d : List Byte) (bad : List Nat) (sblk : Nat) : EntOut × State :=
  let fmt := entFmt e
  let mx := entMx e
  let acc := entF e 32 9
  let len := 32 * 2 ^ entF e 41 3
  let first := entF e 44 11
  let np := entNpos e + 1
  let ws := (List.range np).flatMap (fun p => (List.range len).map (fun i => (p, i)))
  let s' := ws.foldl (fun st (p, i) =>
    let w := acc + p * len + i
    let x := numDecode fmt mx (elemAt fmt d (first + i))
    accPut st g w (dotInto fmt mx (mxScale s g sblk) (accAt st g w) [(first + i, x, queryAt s g (entQreg e + p) (entF e 55 9))])) s
  let r := elemBytes fmt first (first + len)
  ({ words := ws.map (fun (p, i) => acc + p * len + i), poison := meets bad r.1 r.2 }, s')

/-- One record, position, head and query vector of an `ATT` row (07 R151). -/
def attOne (s : State) (g fmt dsz acc scr n : Nat) (key val : Nat → Num) (q : Nat → Num) (base : Nat) : State :=
  let sc := dotInto fmt false (fun _ => .zero false) (.zero false) ((List.range dsz).map (fun i => (base + i, key i, q i)))
  let m := pairMax s g n
  let mi : Int := match sc with
    | .nan => m
    | .inf neg => if neg then m else 2147483647
    | x => clampInt (-2147483648) 2147483647 (numCeil x)
  let scaleBy : State → Int → State := fun st m' =>
    let l := if m = -32768 then Num.zero false else f32 (numScale (m - m') (pairSum st g n))
    let st := pairPut st g n m' l
    (List.range dsz).foldl (fun st i =>
      let w := acc + (n - scr) * dsz + i
      accPut st g w (if m = -32768 then .zero false else f32 (numScale (m - m') (accAt st g w)))) st
  let s := if m < mi then scaleBy s mi else s
  let m := max m mi
  let diff := f32 (numAdd sc (finOf (-m) 0))
  let w := exp2Of diff
  let s := pairPut s g n m (f32Add (pairSum s g n) w)
  (List.range dsz).foldl (fun st i =>
    let a := acc + (n - scr) * dsz + i
    accPut st g a (dotInto fmt false (fun _ => .zero false) (accAt st g a) [(i, val i, w)])) s

def runAtt (s : State) (g : Nat) (e : Word) (d : List Byte) (bad : List Nat) (kbase : Nat) : EntOut × State :=
  let fmt := entFmt e
  let dsz := 32 * 2 ^ entF e 32 3
  let hs := 2 ^ entF e 35 2
  let np := 2 ^ entF e 37 2
  let gq := 2 ^ entF e 39 3
  let causal := entF e 42 1 = 1
  let acc := entF e 43 9
  let scr := entF e 52 7
  let per := rowElems fmt / np
  let all := (List.range np).flatMap (fun r => (List.range (entNpos e + 1)).flatMap (fun p =>
    if causal && decide (slotPos s g (entQreg e + p) < kbase + r) then []
    else (List.range hs).flatMap (fun h => (List.range gq).map (fun q => (r, p, h, q)))))
  let s' := all.foldl (fun st (r, p, h, q) =>
    let n := scr + (p * hs + h) * gq + q
    let key := fun i => numDecode fmt false (elemAt fmt d (r * per + h * dsz + i))
    let val := fun i => numDecode fmt false (elemAt fmt d (r * per + (hs + h) * dsz + i))
    attOne st g fmt dsz acc scr n key val (fun i => queryAt s g (entQreg e + p) ((h * gq + q) * dsz + i)) (r * per + h * dsz)) s
  let ns := (all.map (fun (_, p, h, q) => (p * hs + h) * gq + q)).eraseDups
  let recs := (all.map (·.1)).eraseDups
  let poison := recs.any (fun r => let b := elemBytes fmt (r * per) (r * per + 2 * hs * dsz); meets bad b.1 b.2)
  ({ words := ns.flatMap (fun n => (List.range dsz).map (acc + n * dsz + ·)), pairs := ns.map (scr + ·), poison := poison }, s')

def runPop (s : State) (g : Nat) (e : Word) (d : List Byte) (bad : List Nat) : EntOut × State :=
  let sw := 64 * 2 ^ entF e 32 3
  let acc := entF e 35 9
  let first := entF e 44 7
  let nsk := entF e 51 7 + 1
  let ws := (List.range (entNpos e + 1)).flatMap (fun p => (List.range nsk).map (fun j => (p, j)))
  let s' := ws.foldl (fun st (p, j) =>
    let a := leNat (bytesAt d ((first + j) * (sw / 8)) (sw / 8))
    let b := leNat (sramGet s g (0x200 * (entQreg e + p)) (sw / 8))
    sramPut st g (0x1000 + 4 * (acc + p * nsk + j)) (leBytes 4 (popCount sw (a ^^^ b)))) s
  ({ words := ws.map (fun (p, j) => acc + p * nsk + j),
     poison := meets bad (first * (sw / 8)) ((first + nsk) * (sw / 8)) }, s')

/-- A frame's page is written in this stroke (05 R93). -/
def touchFrame (s : State) (f : Nat) : State :=
  match pageOfFrame s f with
  | some p => if s.stk.commits.contains (.touched p) then s else touch s p
  | none => s

/-- `WR` (07 R153, R155, R158, R163): the bytes written, unless a source word is poisoned; codewords only partly covered that cannot be read
stay as they are, as do the bytes of an FP6 row that hold no elements. -/
def runWr (s : State) (g : Nat) (e : Word) (row : Nat) (bad : List Nat) (r : BladeRun) : EntOut × State :=
  let fmt := entFmt e
  let doff := entF e 32 10
  let n := entF e 42 10 + 1
  let src := entF e 52 2
  let soff := entF e 54 10
  let cnt_ := n * 8 / fmtBits fmt
  let dirty := if src = 0 then r.words.any (fun w => soff ≤ w && w < soff + cnt_)
    else if src = 1 then r.pairs.any (fun q => 0x40 + 8 * q < 8 * soff + n && 8 * soff < 0x48 + 8 * q)
    else false
  if dirty then ({ legPoison := true }, s)
  else
    let conv := (List.range cnt_).map (fun i => numEncode fmt (accAt s g (soff + i)))
    let bytes := if src = 0 then packElems fmt (conv.map (·.1))
      else sramGet s g ((if src = 1 then 0x3800 else 0) + 8 * soff) n
    let nans := if src = 0 then (conv.filter (·.2)).length else 0
    let keep := bad.filter (fun k => meets [k] doff (doff + n) && !(doff ≤ 32 * k && 32 * k + 32 ≤ doff + n))
    let f := frameOf g (row / 64)
    let at_ := row % 64 * 1024 + doff
    let s := ((List.range n).zip bytes).foldl (fun st (i, b) =>
      if keep.contains ((doff + i) / 32) || (fmtBits fmt = 6 && decide (1008 ≤ doff + i)) then st else writeFrame st f (at_ + i) [b]) s
    let s := if nans = 0 then s else cntI s R.PCH_CONV_COUNT (bladePc g) nans
    ({ legPoison := !keep.isEmpty }, touchFrame s f)

/-! ### Non-pull entries (07 R154) -/

/-- Bytes of accumulator words or pairs, as `SHIP` sends them. -/
def shipBytes (s : State) (g area off n : Nat) : List Byte :=
  if area = 0 then sramGet s g (0x1000 + 4 * off) (4 * n) else sramGet s g (0x3840 + 8 * off) (8 * n)

def runOther (s : State) (k g : Nat) (e : Word) : State :=
  let off := entF e 32 9
  let n := entF e 41 9 + 1
  let area := entF e 50 1
  match entOp e with
  | 0x8 =>
    if area = 0 then
      let s := sramPut s g (0x1000 + 4 * off) (List.replicate (4 * n) 0)
      updRun s g (fun r => { r with words := r.words.filter (fun w => w < off || off + n ≤ w) })
    else
      let s := (List.range n).foldl (fun s i => pairPut s g (off + i) (-32768) (.zero false)) s
      updRun s g (fun r => { r with pairs := r.pairs.filter (fun w => w < off || off + n ≤ w) })
  | 0x9 =>
    let r := runOf s g
    let poison := (if area = 0 then r.words else r.pairs).any (fun w => off ≤ w && w < off + n)
    let x : Ship := { leg := k, tag := entF e 51 12, area := area, off := off, count := n, bytes := shipBytes s g area off n, poison := poison }
    setRun s g { r with ships := r.ships ++ [x] }
  | 0xA => updRun s g (fun r => { r with kbase := entF e 32 32 })
  | 0xB => updRun s g (fun r => { r with sblk := entF e 32 10 })
  | _ => s

/-- Accumulator words, pairs and scale bytes that an entry touches. -/
def entWords (e : Word) : List Nat :=
  let np := entNpos e + 1
  match entOp e with
  | 0x1 => (List.range (np * (entF e 55 6 + 1))).map (entF e 32 9 + ·)
  | 0x2 => (List.range (np * (32 * 2 ^ entF e 41 3))).map (entF e 32 9 + ·)
  | 0x3 => (List.range (np * 2 ^ entF e 35 2 * 2 ^ entF e 39 3 * (32 * 2 ^ entF e 32 3))).map (entF e 43 9 + ·)
  | 0x4 => (List.range (np * (entF e 51 7 + 1))).map (entF e 35 9 + ·)
  | 0x6 => if entF e 52 2 = 0 then (List.range ((entF e 42 10 + 1) * 8 / fmtBits (entFmt e))).map (entF e 54 10 + ·) else []
  | 0x8 => if entF e 50 1 = 0 then (List.range (entF e 41 9 + 1)).map (entF e 32 9 + ·) else []
  | 0x9 => if entF e 50 1 = 0 then (List.range (entF e 41 9 + 1)).map (entF e 32 9 + ·) else []
  | _ => []

def entPairs (e : Word) : List Nat :=
  match entOp e with
  | 0x3 => (List.range ((entNpos e + 1) * 2 ^ entF e 35 2 * 2 ^ entF e 39 3)).map (entF e 52 7 + ·)
  | 0x6 => if entF e 52 2 = 1 then (List.range 120).filter (fun n =>
      decide (8 * entF e 54 10 < 0x48 + 8 * n) && decide (0x40 + 8 * n < 8 * entF e 54 10 + entF e 42 10 + 1)) else []
  | 0x8 => if entF e 50 1 = 1 then (List.range (entF e 41 9 + 1)).map (entF e 32 9 + ·) else []
  | 0x9 => if entF e 50 1 = 1 then (List.range (entF e 41 9 + 1)).map (entF e 32 9 + ·) else []
  | _ => []

/-- Whether an entry writes the words and pairs it touches. -/
def entWrites (e : Word) : Bool := entOp e != 6 && entOp e != 9

/-- Whether an entry would write a word or pair that a `SHIP` has queued and that has not left the blade (07 R154). -/
def shipHolds (s : State) (g : Nat) (e : Word) : Bool :=
  entWrites e && (runOf s g).ships.any (fun x =>
    (if x.area = 0 then entWords e else entPairs e).any (fun w => decide (x.off ≤ w) && decide (w < x.off + x.count)))

/-! ### Streams (07 R141) -/

/-- Positions per stream s by row format and query format (07 Table 07-3); none where the pair is not allowed. -/
def streamsS (fmt qfmt : Nat) : Option Nat :=
  let q := fmtBits qfmt
  if 0xA ≤ qfmt then none
  else
    match fmt with
    | 0 => if qfmt = 0 then some 1 else none
    | 1 => if q = 16 ∨ q = 8 then some 2 else none
    | 2 => if q = 16 ∨ q = 8 then some 2 else none
    | 3 => if q = 16 then some 1 else if q ≤ 8 then some 2 else none
    | 4 => if q = 16 then some 1 else if q ≤ 8 then some 2 else none
    | 8 => if q = 16 then some 1 else if q ≤ 8 then some 2 else none
    | 5 => if q = 8 then some 1 else if q < 8 then some 3 else none
    | 6 => if q = 8 then some 1 else if q < 8 then some 3 else none
    | 7 => if q = 8 then some 1 else if q < 8 then some 2 else none
    | 9 => if q = 8 then some 1 else if q < 8 then some 2 else none
    | _ => none

/-- Streams of a pull whose slots have a format. -/
def entStreams (e : Word) (qfmt : Nat) : Nat :=
  let n := entNpos e + 1
  match entOp e with
  | 0x1 => ceilDiv n ((streamsS (entFmt e) qfmt).getD 1)
  | 0x2 => ceilDiv n ((streamsS (entFmt e) qfmt).getD 1)
  | 0x3 => ceilDiv (n * 2 ^ entF e 39 3) ((streamsS (entFmt e) qfmt).getD 1)
  | 0x4 => ceilDiv n 8
  | _ => 1

/-- The slots of an entry's pass (07 R145). -/
def passSlots (e : Word) : List Nat := (List.range (entNpos e + 1)).map (entQreg e + ·)

/-! ### Refresh and the slot account (08 R168 to R173)

No row carries a clock. The model's count of blade clocks rises to the due point of each REFRESH_DUE, by the length of each stroke, and to what a
read of the counter shows (DESIGN CHOICE, notes/assumptions/107.md). -/

/-- The bank of a half-bank, by lane × 4,096 + bank. -/
def bankOf (g : Nat) : Nat := bladeLane g * 4096 + g % 8192 / 2

def owedOf (s : State) (b : Nat) : Nat := (mapGet s.bld.owed b).getD 0

def setOwed (s : State) (b n : Nat) : State :=
  { s with bld := { s.bld with owed := if n = 0 then mapErase s.bld.owed b else mapSet s.bld.owed b n } }

/-- Due points of a bank up to a blade-clock count (08 R170): n × 1,833 + 28 × ⌊b ÷ 64⌋. -/
def duesTo (bank t : Nat) : Nat := if t < 28 * (bank / 64) then 0 else (t - 28 * (bank / 64)) / 1833 + 1

/-- The due point after the latest one of a bank. -/
def nextDue (bank : Nat) (last : Option Nat) : Nat :=
  28 * (bank / 64) + 1833 * (match last with | some t => duesTo bank t | none => 0)

/-- The clocks charged to a blade in the window of 14,664 clocks that runs (08 R173). -/
def slotCharge (s : State) (g : Nat) : Nat :=
  match mapGet s.bld.account g with
  | some (w, c) => if w = s.bld.clock / 14664 then c else 0
  | none => 0

def chargeSlot (s : State) (n g : Nat) : State :=
  { s with bld := { s.bld with account := mapSet s.bld.account g (s.bld.clock / 14664, slotCharge s g + n) } }

/-- A refresh slot of a bank: every owed interval is refreshed, and the slot is charged to both half-banks (08 R171, R173). -/
def takeSlot (s : State) (b n : Nat) : State :=
  let g := b / 4096 * 8192 + 2 * (b % 4096)
  setOwed (chargeSlot (chargeSlot s n g) n (g + 1)) b 0

/-- Whether a blade is idle or stalled. -/
def bladeIdle (s : State) (g : Nat) : Bool := let r := runOf s g; r.leg.isNone || r.stalled

def bankIdle (s : State) (b : Nat) : Bool :=
  let g := b / 4096 * 8192 + 2 * (b % 4096)
  bladeIdle s g && bladeIdle s (g + 1)

/-- While both blades of a bank are idle or stalled, a slot is taken at once whenever the count is 1 or more (08 R171). -/
def idleSlot (s : State) (b : Nat) : State :=
  if bankIdle s b && decide (0 < owedOf s b) then takeSlot s b 141 else s

/-- A count that has reached 8 forces a slot at the next pull boundary of a stalled blade, whose activation has been launched (08 R171). -/
def forceSlot (s : State) (g : Nat) : State :=
  if owedOf s (bankOf g) = 8 && (runOf s g).stalled then updRun s g (fun r => { r with forced := true }) else s

/-- REFRESH_DUE (08 R170, R171): the bank's next due point. -/
def refreshDue (s : State) (lane bank : Nat) : State :=
  let b := lane * 4096 + bank
  let g := lane * 8192 + 2 * bank
  let due := nextDue bank (mapGet s.bld.lastDue b)
  let s := { s with bld := { s.bld with clock := max s.bld.clock due, lastDue := mapSet s.bld.lastDue b due } }
  if s.lnk.selfRefresh then s
  else
    let s := setOwed s b (min 8 (owedOf s b + 1))
    if bankIdle s b then idleSlot s b else forceSlot (forceSlot s g) (g + 1)

def execRefreshDue (lane bank : Nat) (s : State) : Host.Outcome State Fault Refusal :=
  if 10 ≤ lane ∨ 4096 ≤ bank then .fault .noSuchUnit else .next (refreshDue s lane bank)

/-- A slot at a pull boundary of a locked leg: all lanes of the leg take one, in the bank of the same local index (06 R133). -/
def lockSlots (s : State) (l : GLeg) (g : Nat) : State :=
  if !l.lock then s
  else
    ((onesOf 10 l.lanes).filter (· != bladeLane g)).foldl (fun s k =>
      let b := k * 4096 + bankOf g % 4096
      let s := if bankIdle s b then s else cntI s R.PCH_REFRESH_PLANNED (bladePc (k * 8192 + g % 8192)) 1
      takeSlot s b 141) s

/-- The refresh before a blade's next pull of c streams (08 R171): a planned slot where the due points that fall before the pull's last clock
would take the count past 8, a forced one where one was noted. -/
def refreshSlot (s : State) (l : GLeg) (g c : Nat) : State :=
  let b := bankOf g
  let since := max s.bld.clock ((mapGet s.bld.lastDue b).getD 0)
  if (runOf s g).forced then
    let s := updRun s g (fun r => { r with forced := false })
    lockSlots (takeSlot (cntI (cntI s R.PCH_REFRESH_FORCED (bladePc g) 1) R.LANE_REFRESH_FORCED (bladeLane g) 1) b 280) l g
  else if 8 < owedOf s b + (duesTo (b % 4096) (s.bld.clock + 128 * c + 10) - duesTo (b % 4096) since) then
    lockSlots (takeSlot (cntI s R.PCH_REFRESH_PLANNED (bladePc g) 1) b 141) l g
  else s

/-! ### BLADE_PULL and LEG_END (07 R140, R146, R159, R164) -/

/-- The leg a blade runs next: of those granted in this stroke, the earliest in which it still has work (06 R131). -/
def legFor (s : State) (g : Nat) : Option Nat :=
  let ks := s.stk.granted.filter (fun e => !e.2.stopped && e.2.openBlades.contains g)
  (sortBy (fun a b => lexLe [a.2.start94, a.1] [b.2.start94, b.1]) ks).head?.map (·.1)

/-- A blade begins a leg: its entries from the first on, no `FULL` slots and no poison (07 R144, R159, R164). -/
def beginLeg (s : State) (g k : Nat) : State :=
  let s := (List.range 8).foldl (fun s q =>
    sramPut s g (0x3801 + 8 * q) [BitVec.ofNat 8 (u8 (sramGet s g (0x3801 + 8 * q) 1) 0 / 2 * 2)]) s
  setRun s g { (runOf s g) with leg := some k, at_ := 0, words := [], pairs := [], stalled := false }

/-- Whether a transfer that must be written before entry i of a blade has not been (09 R200). -/
def schedHolds (s : State) (k g i : Nat) : Bool :=
  ((legSched s k (bladePc g)).drop (schedDone s k (bladePc g))).any (fun x => schedHits x g && x.before != 0xFFFF && decide (x.before ≤ i))

/-- Whether the pass of a leg has made its choice of experts (09 R206): a `ROUTE` of it has run, or its leg has none. -/
def routeKnown (s : State) (p : Plan) (l : GLeg) : Bool :=
  mapHas s.bld.routed l.pass || !p.comb.any (fun e => e.1 / 16 = l.leg && e.2.any (fun i => i.op == 9))

def expertRouted (s : State) (l : GLeg) (x : Expert) : Bool := ((mapGet s.bld.routed l.pass).getD []).contains x.expert

/-- A number for an expert range. -/
def Expert.key (x : Expert) : Nat := x.lanes + x.first * 2 ^ 10 + x.last * 2 ^ 26 + x.expert * 2 ^ 42

/-- A range is passed over: it counts once for its leg. -/
def skipRange (s : State) (k : Nat) (x : Expert) : State :=
  if (legOf s k).any (fun l => l.skipped.contains x.key) then s
  else cnt (updLeg s k (fun l => { l with skipped := l.skipped ++ [x.key] })) R.CMB_EXPERT_SKIPPED 1

/-- The place after an entry: the end of the list after `LAST` (07 R146). -/
def nextAt (e : Word) (n i : Nat) : Nat := if entLast e then n else i + 1

/-- Whether a blade may go on to entry i of its list: the entry stands in its store, the transfers that must come before it have been written,
and where it lies in an expert's range the choice has been made. -/
def entReady (s : State) (k g : Nat) (p : Plan) (l : GLeg) (n i : Nat) : Bool :=
  entHere s k g p l n i && !schedHolds s k g i && ((expertAt p l g i).isNone || routeKnown s p l)

/-- Non-pull entries, and entries of experts not routed, from the next entry on up to a pull (07 R146, 09 R206). -/
def runToPull (k g : Nat) (p : Plan) (l : GLeg) (n : Nat) : Nat → State → State
  | 0, s => s
  | fuel + 1, s =>
    let i := (runOf s g).at_
    if n ≤ i || !entReady s k g p l n i then s
    else
      let e := storedEnt s p l.leg g i
      match (expertAt p l g i).filter (fun x => !expertRouted s l x) with
      | some x => runToPull k g p l n fuel (updRun (skipRange s k x) g (fun r => { r with at_ := nextAt e n i }))
      | none =>
        if entPull e || shipHolds s g e then s
        else runToPull k g p l n fuel (updRun (runOther s k g e) g (fun r => { r with at_ := nextAt e n i }))

/-- Whether every slot of an entry's pass is `FULL` (07 R159). -/
def slotsFull (s : State) (g : Nat) (e : Word) : Bool := (passSlots e).all (slotFull s g)

/-- The row an entry names; those of private experts lie from the tenant's base on (09 R207). -/
def entRowAt (p : Plan) (l : GLeg) (g i : Nat) (e : Word) : Nat :=
  match expertAt p l g i with
  | some x => if x.priv then (l.rowBase + entRow e) % 8192 else entRow e
  | none => entRow e

/-- Whether a masked `ATT` row is not activated at all (07 R160). -/
def attMasked (s : State) (g : Nat) (e : Word) (kbase : Nat) : Bool :=
  entOp e = 3 && entF e 42 1 = 1 &&
    (List.range (entNpos e + 1)).all (fun p => decide (slotPos s g (entQreg e + p) < kbase))

/-- What a pull does beside its arithmetic: the counts of its codewords and the notes of its errors (07 R162, 21 R447). -/
def pullNotes (s : State) (g row : Nat) (fixed bad : List Nat) : State :=
  let pc := bladePc g
  let f := frameOf g (row / 64)
  let s := if fixed.isEmpty then s
    else noteErr (cntI s R.PCH_CW_CORRECTED pc fixed.length) { cls := 1, unit := unitId 3 g, code := 0, frame := some f, row := some row, page := pageOfFrame s f, count := fixed.length }
  if bad.isEmpty then s
  else
    let s := recordErr (cntI s R.PCH_CW_UNCORR pc bad.length) .pch pc (g % 128) E_CW_UNCORR
    noteErr s { cls := 2, unit := unitId 3 g, code := E_CW_UNCORR, frame := some f, row := some row, page := pageOfFrame s f }

/-- A pull entry with its row as it arrives (07 R150 to R154); i is its place and n the length of the list. -/
def runPull (s : State) (k g n i : Nat) (p : Plan) (l : GLeg) (e : Word) (flips : List (Nat × Byte)) (parity : Bool) : State :=
  let r := runOf s g
  let row := entRowAt p l g i e
  let masked := attMasked s g e r.kbase
  let (d, fixed, bad) := if masked then ([], [], []) else rowRead s g row flips
  let (o, s) : EntOut × State :=
    if masked then ({}, s)
    else
      match entOp e with
      | 0x1 => runDot s g e d bad r.sblk
      | 0x2 => runAxpy s g e d bad r.sblk
      | 0x3 => runAtt s g e d bad r.kbase
      | 0x4 => runPop s g e d bad
      | 0x5 => ({ legPoison := !bad.isEmpty }, sramPut s g 0x3C00 d)
      | 0x6 => runWr s g e row bad r
      | _ => ({}, s)
  let poison := o.poison || parity
  let s := if poison then updRun s g (fun r => { r with words := o.words.foldl setAdd r.words, pairs := o.pairs.foldl setAdd r.pairs })
    else s
  let s := if !bad.isEmpty && (o.poison || o.legPoison) then taintLeg s k g else s
  let s := if o.legPoison then poisonLeg s k (some g) else s
  let s := pullNotes s g row fixed bad
  let s := if parity then
      noteErr (recordErr s .pch (bladePc g) (g % 128) E_SRAM_PARITY) { cls := 3, unit := unitId 2 g, code := E_SRAM_PARITY }
    else s
  updRun s g (fun r => { r with
    at_ := nextAt e n i
    kbase := if entOp e = 3 then (r.kbase + 2 ^ entF e 37 2) % 2 ^ 32 else r.kbase
    sblk := if entMx e then r.sblk + rowElems (entFmt e) / 32 else r.sblk })

/-- Whether the pull at entry i can start: its slots are full and no queued words stand in its way (07 R154, R159). -/
def pullReady (s : State) (k g : Nat) (p : Plan) (l : GLeg) (n i : Nat) (e : Word) : Bool :=
  entReady s k g p l n i && entPull e && slotsFull s g e && !shipHolds s g e

/-- BLADE_PULL: the pull the blade has reached, once its slots are full and its list has arrived, then the entries up to the next
pull. Otherwise the blade is stalled. -/
def bladePull (s : State) (g : Nat) (flips : List (Nat × Byte)) (parity : Bool) : State :=
  match legFor s g with
  | none => s
  | some k =>
    let s := if (runOf s g).leg = some k then s else beginLeg s g k
    match legOf s k with
    | none => s
    | some l =>
      match legPlan s l with
      | none => s
      | some p =>
        let n := (legEntries s k g).length
        let s := runToPull k g p l n n s
        let i := (runOf s g).at_
        let e := storedEnt s p l.leg g i
        if n ≤ i then updRun s g (fun r => { r with stalled := false })
        else if !pullReady s k g p l n i e then idleSlot (updRun s g (fun r => { r with stalled := true })) (bankOf g)
        else
          let c := maxOf ((passSlots e).map (fun q => entStreams e (slotFmt s g q)))
          let s := refreshSlot (updRun s g (fun r => { r with stalled := false })) l g c
          runToPull k g p l n n (runPull s k g n i p l e flips parity)

def execBladePull (blade : Nat) (flips : List (Nat × Byte)) (parity : Bool) (s : State) : Host.Outcome State Fault Refusal :=
  if 81920 ≤ blade then .fault .noSuchUnit else .next (bladePull s blade flips parity)

end Sys2Proof.Machine
end

