-- ==== Sys2Proof/Machine/Io.lean ====
section
/-! DEFINITION. Handing a command on (15_host_link.md R342, R343), and RDMA requests of the device (15 R350, R351, R353). -/

namespace Sys2Proof.Machine

/-! ### Hand-on -/

/-- Whether the command's queue belongs to another association of its domain (15 R342). -/
def queueElsewhere (s : State) (c : Cmd) : Bool :=
  s.lnk.assocs.any (fun e => e.2.st == .opened && e.2.dom == c.dom && e.2.id != c.assoc && bitOf e.2.queues c.queue)

/-- Whether a service level accepts an opcode (22 R473, Table 22-3): SL0 `NOP`, `ATTEST`, `QP_CREATE`, `QP_DESTROY`, `RIG_UPDATE` and
`UMP_REQ`; SL1 and SL2 everything but `FEATHER`; SL3 everything. -/
def levelTakes (level op : Nat) : Bool :=
  if level = 0 then [0x50, 0x51, 0x54, 0x60, 0x61, 0x62].contains op
  else if level < 3 then op != 0x52
  else true

/-- Why a command is refused at hand-on: the cases of 15 R342 in their order, then the service level (22 R473), then the Feather
state (15 R335). -/
def handOnCode (s : State) (c : Cmd) : Option Nat :=
  if !c.formatOk then some E_BWP_FORMAT
  else if (definedBits c).isNone then some E_BWP_OPCODE
  else if queueElsewhere s c then some E_BWP_QUEUE
  else if 256 ≤ ((mapGet s.out.outst (queueKey c)).getD []).length then some E_BWP_QFULL
  else if !levelTakes (rdF s R.SVC_LEVEL_LEVEL) c.opcode then some E_SVC_LEVEL
  else if s.lnk.feather = .feather ∧ c.opcode ≠ 0x53 ∧ c.opcode ≠ 0x54 then some E_FEATHER
  else none

/-- The command joins the commands without completions of its queue. -/
def joinQueue (s : State) (c : Cmd) : State :=
  { s with out := { s.out with
      outst := mapSet s.out.outst (queueKey c) ((mapGet s.out.outst (queueKey c)).getD [] ++ [c]) } }

/-! ### Sessions and the refusal of their commands (03 R44, R47) -/

def sesOf (s : State) (sid : Nat) : Option Ses := mapGet s.ses.tab sid

/-- The live session that a session ID and generation name (03 R44). -/
def liveSes (s : State) (sid gen : Nat) : Option Ses := (sesOf s sid).filter (fun x => x.d.gen == gen)

/-- The session and generation a session command names (03 Table 03-3), and those a MOVE of a session names (05 Table 05-7). -/
def cmdSid (c : Cmd) : Nat := if c.opcode = 0x20 then c.f3 0 24 else c.f2 0 24
def cmdGen (c : Cmd) : Nat := if c.opcode = 0x20 then c.f3 24 8 else c.f2 24 8

/-- A command that joins its session's order: the session commands of 03 Table 03-4 but `OPEN`, `MOVE` of a session (05 R114), `STREAM` on a
session (11 R258) and `JOIN` (14 R310). -/
def inOrder (c : Cmd) : Bool :=
  (0x11 ≤ c.opcode && c.opcode ≤ 0x19) || c.opcode == 0x49 || (c.opcode == 0x20 && c.f2 0 4 == 0) || (c.opcode == 0x33 && c.f4 0 2 == 0)

/-- The result words of Table 03-6. -/
def sesWords (d : Desc) (dur : Nat) (durable : Bool) : Nat :=
  d.session % 2 ^ 24 + d.gen % 256 * 2 ^ 24 + dur % 4 * 2 ^ 32 + b2n durable * 2 ^ 34 + d.st.code % 8 * 2 ^ 35

/-- What a refusal counts and raises beside the error of its page (03 R65, 04 R84, 05 R116, 11 R262). -/
def refusalMarks (s : State) (code : Nat) : State :=
  let s := recordErr s (codeBlk code) 0 0 code
  if code = E_EPOCH_STALE ∨ code = E_EPOCH_AHEAD then cnt s R.SES_STALE_COUNT 1
  else if code = E_SES_LIMIT then raiseBit s .ses 0 2 .plain
  else if code = E_OP_FULL then raiseBit s .mov 0 3 .plain
  else if code = E_PFX_FULL then raiseBit s .pfx 0 3 .plain
  else if code = E_GRM_REJECT then cnt s R.GRM_REJECT_STEPS 1
  else if code = E_IMPORT_GAP then raiseBit (cnt s R.CMB_IMPORT_GAP 1) .cmb 0 4 .plain
  else s

/-- The refusal of a session command (03 R47): a command that names no live session carries zeros, and so does a refused OPEN. -/
def refuseSes (s : State) (c : Cmd) (code : Nat) : State :=
  let s := refusalMarks s code
  match (if c.opcode = 0x10 then none else liveSes s (cmdSid c) (cmdGen c)) with
  | none => finishCmd s c code
  | some x => stageDone s { cmd := c, status := code, c0 := sesWords x.d 0 false, c1 := x.d.epoch, c2 := x.d.positions }

/-- A refusal at hand-on: a session command carries the words of Table 03-6 there too (03 R47). -/
def refuseHand (s : State) (c : Cmd) (code : Nat) : State :=
  if inOrder c then refuseSes s c code else finishCmd (recordErr s (codeBlk code) 0 0 code) c code

/-- A command is handed on: refused by 15 R342, held back by `W0.FENCE`, or started. -/
def submit (s : State) (c : Cmd) (data : List Byte) (start : Cmd → List Byte → State → State) : State :=
  let s1 := joinQueue s c
  match handOnCode s c with
  | some e => refuseHand s1 c e
  | none =>
    if fenceOk s1 c then start c data s1
    else { s1 with out := { s1.out with fenced := s1.out.fenced ++ [(c, some data)] } }

/-- A refusal with a reason in the first result word. -/
def refuseWith (s : State) (c : Cmd) (status c0 : Nat) : State := stageDone s { cmd := c, status := status, c0 := c0 }

/-! ### Queue pairs and RDMA -/

def qpOf (s : State) (q : Nat) : Option Qp := mapGet s.lnk.qps q

def updQp (s : State) (q : Nat) (f : Qp → Qp) : State := { s with lnk := { s.lnk with qps := mapUpd s.lnk.qps q f } }

/-- Whether a domain may use a queue pair: it must be the domain's own and not in error (15 R350, R353). An index that names no
queue pair names none of the domain's (notes/assumptions/16.md). -/
def qpCheck (s : State) (dom q : Nat) : Option Nat :=
  match qpOf s q with
  | none => some E_QP_DENIED
  | some x => if x.dom ≠ dom then some E_QP_DENIED else if x.err then some E_QP_ERROR else none

/-- The device asks for host memory (15 R351). Answers the request's number. -/
def issueRead (s : State) (r : RdmaRead) : State :=
  { s with lnk := { s.lnk with reads := mapSet s.lnk.reads s.lnk.nextIo r, nextIo := s.lnk.nextIo + 1 } }

/-- The device writes host memory (15 R351). -/
def issueWrite (s : State) (w : RdmaWrite) : State :=
  { s with lnk := { s.lnk with writes := mapSet s.lnk.writes s.lnk.nextIo w, nextIo := s.lnk.nextIo + 1 } }

/-- The RDMA READs in flight: of those asked for, in order, at most 16 per queue pair and 1,024 in all (15 R351). -/
def readsInFlight (s : State) : List Nat :=
  (s.lnk.reads.foldl (fun (acc : List Nat × List Nat) (id, r) =>
    if acc.1.length < 1024 ∧ (acc.2.filter (· == r.qp)).length < 16 then (acc.1 ++ [id], acc.2 ++ [r.qp]) else acc) ([], [])).1

end Sys2Proof.Machine
end

