-- ==== Sys2Proof/Machine/Egress.lean ====
section
/-! DEFINITION. Egress scheduling and shaping (16_egress_scheduling.md): queues, weighted fair queueing, two-rate policers and gate control
lists. -/

namespace Sys2Proof.Machine

/-! ### Interfaces and queues -/

def ifaceOf (s : State) (i : Nat) : EgIface := (mapGet s.eg.ifaces i).getD {}

def setIface (s : State) (i : Nat) (x : EgIface) : State := { s with eg := { s.eg with ifaces := mapSet s.eg.ifaces i x } }

def updIface (s : State) (i : Nat) (f : EgIface → EgIface) : State := setIface s i (f (ifaceOf s i))

def queueOf (s : State) (k : Nat) : EgQ := (mapGet s.eg.queues k).getD {}

def setQueue (s : State) (k : Nat) (q : EgQ) : State := { s with eg := { s.eg with queues := mapSet s.eg.queues k q } }

/-- Whether a port trained in breakout mode (15 R328); in the Feather state it trains as interface 2p alone (15 Table 15-1). -/
def inBreakout (s : State) (port : Nat) : Bool := bitOf s.lnk.breakout port

/-- The interface that queue q of a port serves (16 R356). -/
def queueIface (s : State) (port q : Nat) : Nat := if inBreakout s port then 2 * port + q / 32 else 2 * port

/-- The queue keys of an interface, lowest queue number first. -/
def ifaceQueues (s : State) (i : Nat) : List Nat :=
  ((List.range 64).filter (fun q => queueIface s (i / 2) q == i)).map (i / 2 * 64 + ·)

/-- A register field of an interface: the second interface of a port repeats the layout 0x100 higher (15 R355). -/
def rdPort (s : State) (f : Fld) (i : Nat) : Nat :=
  bitsOf (rdWord s .port (i / 2) 0 (f.off + 0x100 * (i % 2))) f.lo f.wd

def wrPort (s : State) (f : Fld) (i v : Nat) : State :=
  let off := f.off + 0x100 * (i % 2)
  wrWord s .port (i / 2) 0 off (putBits (rdWord s .port (i / 2) 0 off) f.lo f.wd v)

def cntPort (s : State) (f : Fld) (i n : Nat) : State := wrPort s f i (satAdd f.wd (rdPort s f i) n)

/-- Whether an interface's link is up, and its rate in Gb/s (15 Table 15-1, `PORT_STATUS.SPEED`). -/
def linkUp (s : State) (i : Nat) : Bool := rdPort s R.PORT_STATUS_LINK i = 1

def linkRate (s : State) (i : Nat) : Nat :=
  match rdPort s R.PORT_STATUS_SPEED i with
  | 1 => 100 | 2 => 400 | 3 => 800 | _ => 0

/-- The bytes L of a frame from destination address to FCS, with the interface's VLAN tag and MACsec SecTAG and ICV (16 R358). -/
def frameLen (s : State) (i bytes : Nat) : Nat :=
  max 64 (bytes + 4 * rdPort s R.PORT_CFG_VLAN_EN i +
    (if rdPort s R.PORT_CFG_MACSEC_EN i = 1 then (if Config.secTagSci then 32 else 24) else 0))

/-! ### Gates (16 R363 to R365) -/

/-- The spans of a gate list in a stroke of `len` ns: start, end and mask of each entry that begins before the boundary, the last one
extended to it. -/
def gateSpans (len : Nat) : Nat → GateList → List (Nat × Nat × Nat)
  | _, [] => []
  | t, [(_, m)] => if len ≤ t then [] else [(t, len, m)]
  | t, (d, m) :: es => if len ≤ t then [] else (t, min len (t + d), m) :: gateSpans len (t + d) es

/-- The end of the run of open spans at the head of a list. -/
def openRun (q : Nat) : List (Nat × Nat × Nat) → Nat → Nat
  | [], t => t
  | (_, e, m) :: es, t => if bitOf m q then openRun q es e else t

/-- When the window of queue q that is open in entry `e` ends, in ns from the stroke's start (16 R364): a window that is open in the last
entry goes on across the boundary while the entries of the next stroke are open; none: the gate never closes. -/
def windowEnd (s : State) (x : EgIface) (q : Nat) : Option Nat :=
  let now := gateSpans s.stk.length 0 x.gates
  let fin := openRun q (now.drop x.entry) 0
  if fin < s.stk.length then some fin
  else
    let run := openRun q (gateSpans (1000 * s.stk.period) 0 x.gates) 0
    if run = 1000 * s.stk.period then none else some (s.stk.length + run)

/-- Whether the gate of queue q is open: its bit in the entry in force. Before strokes begin the list stands at its first entry. -/
def gateOpen (x : EgIface) (q : Nat) : Bool := match x.gates[x.entry]? with | some (_, m) => bitOf m q | none => false

/-- Whether a frame of L bytes that starts at a device time ends before the window ends (16 R358, R364). -/
def fitsWindow (s : State) (i : Nat) (x : EgIface) (q L time : Nat) : Bool :=
  if s.stk.phase = .idle then true
  else match windowEnd s x q with
    | none => true
    | some e => decide ((time - s.stk.start) * linkRate s i + (L + 20) * 8 < e * linkRate s i)

/-- The longest window of queue q in a list that repeats every `len` ns; a queue that is open throughout has no end. -/
def longestWindow (len q : Nat) (g : GateList) : Option Nat :=
  let spans := gateSpans len 0 g
  if spans.all (fun e => bitOf e.2.2 q) then none
  else some (maxOf ((List.range spans.length).map (fun i =>
    match spans[i]? with
    | some (a, _, _) =>
      let fin := openRun q (spans.drop i) a
      if fin < len then fin - a else len - a + openRun q spans 0
    | none => 0)))

/-- Whether a gate list may be committed for an interface (16 R365). -/
def gatesOk (s : State) (i : Nat) (count : Nat) (g : GateList) : Bool :=
  1 ≤ count && count ≤ 32 && g.all (fun e => e.1 != 0) && decide (sumOf (g.map (·.1)) ≤ 1000 * s.stk.period) &&
    (ifaceQueues s i).all (fun k =>
      !g.any (fun e => bitOf e.2 (k % 64)) ||
        (match longestWindow (1000 * s.stk.period) (k % 64) g with | none => true | some w => decide (739 ≤ w)))

/-- The admin list of an interface. -/
def adminGates (s : State) (i count : Nat) : GateList :=
  (List.range count).map (fun e => (rdFx s R.EGQ_GCL_DURATION_NS 0 i e, rdFx s R.EGQ_GCL_MASK 0 i e))

/-- A commit of the admin list (16 R365). Answers whether it is accepted. -/
def gateCommit (s : State) (i : Nat) : Option State :=
  let count := rdB s R.EGQ_GCL_CTRL_COUNT i
  let g := adminGates s i count
  if gatesOk s i count g then
    some (wrB (updIface s i (fun x => { x with next := some (2, g) })) R.EGQ_GCL_CTRL_PENDING i 1)
  else none

/-- At a boundary every list starts afresh, and a committed list whose second boundary this is becomes operational (16 R363, R365). -/
def gatesCatch (s : State) : State :=
  (List.range 4).foldl (fun s i =>
    match (ifaceOf s i).next with
    | none => if (ifaceOf s i).entry = 0 then s else updIface s i (fun x => { x with entry := 0 })
    | some (n, g) =>
      if n ≤ 1 then
        raiseBit (wrB (updIface s i (fun x => { x with gates := g, entry := 0, next := none })) R.EGQ_GCL_CTRL_PENDING i 0) .egq 0 3 .plain
      else updIface s i (fun x => { x with entry := 0, next := some (n - 1, g) })) s

/-- GCL_ENTRY_ADVANCE (16 R363): the list moves to its next entry; the last one extends to the boundary, and entries that would begin past
the boundary are cut. -/
def gateAdvance (s : State) (i : Nat) : State :=
  if s.stk.phase = .idle then s
  else
    let x := ifaceOf s i
    if x.entry + 1 < (gateSpans s.stk.length 0 x.gates).length then setIface s i { x with entry := x.entry + 1 } else s

def execGclEntryAdvance (iface : Nat) (s : State) : Host.Outcome State Fault Refusal :=
  if 4 ≤ iface then .fault .noSuchUnit else .next (gateAdvance s iface)

/-! ### Fair queueing (16 R360) -/

/-- The finish tag of a frame of L bytes that becomes the head of a queue: S = max(V, F of the previous head), F = S + ⌈L × 4,096 ÷ WEIGHT⌉. -/
def headTag (s : State) (k v prev L : Nat) : Nat := max v prev + ceilDiv (L * 4096) (rdB s R.EGQ_Q_CFG_WEIGHT k)

/-- A frame enters a queue (16 R357); one that enters an empty queue becomes its head. -/
def enqueue (s : State) (i q : Nat) (e : EgEnt) : State :=
  let k := i / 2 * 64 + q
  let x := queueOf s k
  let x := if x.frames.isEmpty then
    { x with tag := headTag s k (ifaceOf s (queueIface s (i / 2) q)).v x.tag (frameLen s i e.bytes), red := false, waited := false } else x
  setQueue s k { x with frames := x.frames ++ [e] }

/-- The head leaves the queue, and the next frame becomes the head. -/
def dropHead (s : State) (i k : Nat) : State :=
  let x := queueOf s k
  match x.frames.drop 1 with
  | [] => setQueue s k { x with frames := [], red := false, waited := false }
  | e :: es =>
    setQueue s k { x with frames := e :: es, tag := headTag s k (ifaceOf s i).v x.tag (frameLen s i e.bytes), red := false, waited := false }

/-! ### Policers (16 R361, R362) -/

/-- The buckets filled up to a device time, at CIR and PIR Mb/s = 1/8,000 byte per ns each. -/
def refill (x : EgQ) (time : Nat) : EgQ :=
  let dt := time - x.fillAt
  { x with
    tc := min (bitsOf x.burst 0 32 * 8000) (x.tc + dt * bitsOf x.rate 0 32)
    tp := min (bitsOf x.burst 32 32 * 8000) (x.tp + dt * bitsOf x.rate 32 32)
    fillAt := max time x.fillAt }

/-- Colours of the marker. -/
inductive Colour where
  | green | yellow | red
deriving DecidableEq, Repr

def colourOf (x : EgQ) (L : Nat) : Colour :=
  if !bitOf x.cfg 9 then .green else if x.tp < L * 8000 then .red else if x.tc < L * 8000 then .yellow else .green

/-- Tokens are taken when the frame is started: L from Tp for yellow, and from both buckets for green. -/
def takeTokens (x : EgQ) (c : Colour) (L : Nat) : EgQ :=
  if !bitOf x.cfg 9 then x
  else match c with
    | .green => { x with tc := x.tc - L * 8000, tp := x.tp - L * 8000 }
    | _ => { x with tp := x.tp - L * 8000 }

/-- The writes of policer settings take effect at the finish, and the queue's buckets are set once (16 R362). -/
def policersFinish (s : State) : State :=
  let s := s.eg.changed.foldl (fun s k =>
    let cfg := rdWord s .egq 0 k 0x108
    let burst := rdWord s .egq 0 k 0x118
    let full := bitOf cfg 11
    setQueue s k { queueOf s k with
      cfg := cfg, rate := rdWord s .egq 0 k 0x110, burst := burst, fillAt := s.time.now
      tc := if full then bitsOf burst 0 32 * 8000 else 0
      tp := if full then bitsOf burst 32 32 * 8000 else 0 }) s
  { s with eg := { s.eg with changed := [] } }

/-- Whether the settings of a queue may stand (16 R362). -/
def queueCfgOk (cfg rate burst : Nat) : Bool :=
  let cir := bitsOf rate 0 32
  let pir := bitsOf rate 32 32
  bitsOf cfg 0 8 != 0 && 1 ≤ cir && cir ≤ 800000 && 1 ≤ pir && pir ≤ 800000 && cir ≤ pir &&
    9216 ≤ bitsOf burst 0 32 && 9216 ≤ bitsOf burst 32 32 && !(bitOf cfg 8 && !bitOf cfg 9)

/-! ### Selection (16 R359) -/

/-- The priority of a queue's frames (15 R330, R331). -/
def queuePrio (s : State) (k : Nat) : Nat := rdB s R.EGQ_Q_CFG_PCP k

/-- A head found red: counted once per frame; in police mode it is dropped, and the bit of R366 is raised at the first drop after a stroke
with none. Answers whether it was dropped. -/
def redHead (s : State) (i k : Nat) : State × Bool :=
  let x := queueOf s k
  let s := if x.red then s else cntB (setQueue s k { x with red := true }) R.EGQ_Q_COLOUR_RED k 1
  if bitOf x.cfg 10 then
    let s := if s.eg.dropNow || s.eg.dropBefore then s else raiseBit s .egq 0 2 .plain
    (dropHead { s with eg := { s.eg with dropNow := true } } i k, true)
  else (s, false)

/-- A queue's head considered at a device time: its colour and tag where it qualifies. -/
def considerHead (i k time : Nat) : Nat → State → State × Option (Colour × Nat)
  | 0, s => (s, none)
  | fuel + 1, s =>
    let x := refill (queueOf s k) time
    match x.frames.head? with
    | none => (s, none)
    | some e =>
      let L := frameLen s i e.bytes
      let f := ifaceOf s i
      if !gateOpen f (k % 64) then (s, none)
      else if !fitsWindow s i f (k % 64) L time then
        if x.waited then (s, none)
        else (cntB (setQueue s k { x with waited := true }) R.EGQ_Q_GATE_WAITS k 1, none)
      else if f.paused.contains (queuePrio s k) then (s, none)
      else
        let s := setQueue s k x
        match colourOf x L with
        | .red =>
          let (s, dropped) := redHead s i k
          if dropped then considerHead i k time fuel s else (s, none)
        | c => (s, some (c, x.tag))

/-- Whether candidate a goes before b: strict queues first by number, then green and then yellow by tag and number (16 R359). -/
def goesBefore (s : State) (a b : Nat × Colour × Nat) : Bool :=
  let rank := fun (e : Nat × Colour × Nat) =>
    if rdB s R.EGQ_Q_CFG_STRICT e.1 = 1 then [0, 0, e.1] else [if e.2.1 = .green then 1 else 2, e.2.2, e.1]
  lexLe (rank a) (rank b)

/-- The heads of an interface that qualify. -/
def qualifying (i time : Nat) : List Nat → State → State × List (Nat × Colour × Nat)
  | [], s => (s, [])
  | k :: ks, s =>
    let (s, r) := considerHead i k time ((queueOf s k).frames.length + 1) s
    let (s, rs) := qualifying i time ks s
    (s, match r with | some (c, t) => (k, c, t) :: rs | none => rs)

/-- The best of a list of candidates. -/
def firstOf (s : State) : List (Nat × Colour × Nat) → Option (Nat × Colour × Nat)
  | [] => none
  | a :: as =>
    match firstOf s as with
    | none => some a
    | some b => some (if goesBefore s a b then a else b)

/-- A queue's head is started: tokens are taken, bytes and yellow frames counted, V becomes its tag unless the queue is strict, and the
next frame becomes the head (16 R360, R361). Answers the frame. -/
def startHead (s : State) (i k : Nat) (c : Colour) (tag : Nat) : State × Option EgEnt :=
  let x := queueOf s k
  match x.frames.head? with
  | none => (s, none)
  | some e =>
    let L := frameLen s i e.bytes
    let s := setQueue s k (takeTokens x c L)
    let s := cntB s R.EGQ_Q_BYTES k L
    let s := if c = .yellow then cntB s R.EGQ_Q_COLOUR_YELLOW k 1 else s
    let s := if rdB s R.EGQ_Q_CFG_STRICT k = 1 then s else updIface s i (fun f => { f with v := tag })
    (dropHead s i k, some e)

/-- The frame that an interface starts, if one qualifies (16 R359): link-control frames first, regardless of gates and policers. -/
def selectFrame (s : State) (i time : Nat) : State × Option EgFrame :=
  let x := ifaceOf s i
  match x.ctl with
  | f :: fs => (setIface s i { x with ctl := fs }, some f)
  | [] =>
    let (s, cs) := qualifying i time (ifaceQueues s i) s
    match firstOf s cs with
    | none => (s, none)
    | some (k, c, t) =>
      let (s, e) := startHead s i k c t
      (s, e.map (·.fr))

/-- A link-control frame waits for its interface (16 R357). -/
def sendControl (s : State) (i : Nat) (f : EgFrame) : State := updIface s i (fun x => { x with ctl := x.ctl ++ [f] })

/-- The pause time of a priority runs out (15 R331). -/
def execPauseTimeExpiry (iface prio : Nat) (s : State) : Host.Outcome State Fault Refusal :=
  if 4 ≤ iface ∨ 8 ≤ prio then .fault .noSuchUnit
  else .next (updIface s iface (fun x => { x with paused := setDel x.paused prio }))

end Sys2Proof.Machine
end

