-- ==== Sys2Proof/Machine/Image.lean ====
section
/-! DEFINITION. What every loaded image shares (09_decode_legs.md R193, R194): the section table and the SHA-256 digest
(FIPS 180-4). -/

namespace Sys2Proof.Machine

/-! ### SHA-256

09 R193 names SHA-256 and rests it on FIPS 180-4. That text gives its constants by the primes they come from, and so does
this one; words are numbers below 2^32. The hash in progress is two runs of four words: each round pushes one new word onto each run. -/

/-- The first n primes above those of `ps`, by trial of the numbers from m on; `fuel` bounds the trials. -/
def primesFrom : Nat → Nat → List Nat → List Nat
  | 0, _, ps => ps
  | fuel + 1, m, ps => primesFrom fuel (m + 1) (if ps.all (fun p => m % p != 0) then ps ++ [m] else ps)

/-- The 64 primes below 312. -/
def shaPrimes : List Nat := primesFrom 310 2 []

/-- The first 32 fraction bits of the d-th root of p (its integer part is below 8), one bit at a time from the top. -/
def rootFraction (d p : Nat) : Nat :=
  (List.range 35).foldl (fun r i => let q := r + 2 ^ (34 - i); if q ^ d ≤ p * 2 ^ (32 * d) then q else r) 0 % 2 ^ 32

/-- A run of four words, latest first. -/
structure ShaRun where
  v : Nat
  v1 : Nat
  v2 : Nat
  v3 : Nat
deriving DecidableEq, Repr

def ShaRun.push (r : ShaRun) (x : Nat) : ShaRun := ⟨x % 2 ^ 32, r.v, r.v1, r.v2⟩
def ShaRun.plus (r q : ShaRun) : ShaRun :=
  ⟨(r.v + q.v) % 2 ^ 32, (r.v1 + q.v1) % 2 ^ 32, (r.v2 + q.v2) % 2 ^ 32, (r.v3 + q.v3) % 2 ^ 32⟩
def ShaRun.words (r : ShaRun) : List Nat := [r.v, r.v1, r.v2, r.v3]

/-- The hash before the first block: the square roots of the first eight primes. -/
def shaStart : ShaRun × ShaRun :=
  match shaPrimes.map (rootFraction 2) with
  | a :: b :: c :: d :: e :: f :: g :: h :: _ => (⟨a, b, c, d⟩, ⟨e, f, g, h⟩)
  | _ => (⟨0, 0, 0, 0⟩, ⟨0, 0, 0, 0⟩)

/-- A word shifted right by `sh` (32 or more: nothing of it) and exclusive-ored with its rotations to the right. -/
def turned (x sh : Nat) (rots : List Nat) : Nat :=
  rots.foldl (fun y n => y ^^^ (x / 2 ^ n ||| x * 2 ^ (32 - n) % 2 ^ 32)) (x / 2 ^ sh)

/-- The rounds, one per prime: the window holds the sixteen message words that the next rounds take, and each round takes the first and
adds one behind. -/
def shaRounds : List Nat → List Nat → ShaRun × ShaRun → ShaRun × ShaRun
  | [], _, h => h
  | p :: ps, win, (hi, lo) =>
    let w := win.headD 0
    let near := win.getD 1 0
    let far := win.getD 14 0
    let next := (w + turned near 3 [7, 18] + win.getD 9 0 + turned far 10 [17, 19]) % 2 ^ 32
    let picked := lo.v2 ^^^ (lo.v &&& (lo.v1 ^^^ lo.v2))
    let vote := (hi.v &&& hi.v1) ||| (hi.v2 &&& (hi.v ||| hi.v1))
    let t := lo.v3 + turned lo.v 32 [6, 11, 25] + picked + rootFraction 3 p + w
    shaRounds ps (win.drop 1 ++ [next]) (hi.push (t + turned hi.v 32 [2, 13, 22] + vote), lo.push (hi.v3 + t))

/-- One 64-byte block: the words are big-endian. -/
def shaBlock (h : ShaRun × ShaRun) (blk : List Byte) : ShaRun × ShaRun :=
  let r := shaRounds shaPrimes ((chunks 4 blk).map (fun q => leNat q.reverse)) h
  (h.1.plus r.1, h.2.plus r.2)

/-- The 32-byte SHA-256 digest of a byte string: a bit 1, zeros and the length in bits fill the last block. -/
def sha256 (m : List Byte) : List Byte :=
  let fill := List.replicate ((119 - m.length % 64) % 64) 0
  let h := (chunks 64 (m ++ 0x80 :: fill ++ (leBytes 8 (8 * m.length)).reverse)).foldl shaBlock shaStart
  ((h.1.words ++ h.2.words).map (fun v => (leBytes 4 v).reverse)).flatten

/-- HMAC-SHA-256 (RFC 2104) with a key of at most 64 bytes. -/
def hmac256 (key m : List Byte) : List Byte :=
  let k := key ++ List.replicate (64 - key.length) 0
  sha256 (k.map (· ^^^ 0x5C) ++ sha256 (k.map (· ^^^ 0x36) ++ m))

/-! ### Image frame (09 R193, R194) -/

/-- The length field and the digest at the end agree with the bytes (09 R193; reason 2 of Table 09-10, reason 1 of 11 R236). -/
def imageWhole (img : List Byte) (bytes : Nat) : Bool :=
  decide (96 ≤ img.length) && bytes == img.length && sha256 (img.take (img.length - 32)) == img.drop (img.length - 32)

/-- A bit field of header word w. -/
def hw (img : List Byte) (w lo n : Nat) : Nat := bitsOf (u64 img (8 * w)) lo n

/-- Bits of header word w outside the listed ranges must be zero (09 R193). -/
def hwZero (img : List Byte) (w : Nat) (used : List (Nat × Nat)) : Bool :=
  let m := used.foldl (fun m (lo, n) => m ||| ((2 ^ n - 1) * 2 ^ lo)) 0
  (u64 img (8 * w)) &&& (2 ^ 64 - 1 - m) == 0

/-- The section-table entries (09 R194). -/
def sectsAt (img : List Byte) (off : Nat) : Nat → List Sect
  | 0 => []
  | n + 1 =>
    let w0 := u64 img off
    { ty := bitsOf w0 0 8, lane := bitsOf w0 8 4, len := bitsOf w0 24 40, off := u64 img (off + 8) } :: sectsAt img (off + 16) n

/-- Two sections overlap. -/
def sectsMeet (a b : Sect) : Bool := a.off < b.off + b.len && b.off < a.off + a.len

/-- Two sections have one type on one lane, all lanes (0xF) counting as every lane. -/
def sectsSame (a b : Sect) : Bool := a.ty == b.ty && (a.lane == b.lane || a.lane == 15 || b.lane == 15)

def pairwiseOk (bad : Sect → Sect → Bool) : List Sect → Bool
  | [] => true
  | x :: xs => !xs.any (bad x) && pairwiseOk bad xs

/-- The rules of 09 R194: types among `types`, lanes 0 to 9 or 0xF, 64-byte alignment, no overlap with another section, the
header, the section table or the digest, and each type at most once per lane. -/
def sectsOk (img : List Byte) (off count : Nat) (types : List Nat) (ss : List Sect) : Bool :=
  let fin := img.length - 32
  decide (off + 16 * count ≤ fin) &&
  ss.all (fun x => types.contains x.ty && (decide (x.lane < 10) || x.lane == 15) && x.off % 64 == 0 &&
    decide (64 ≤ x.off) && decide (x.off + x.len ≤ fin) &&
    !(decide (0 < x.len) && decide (x.off < off + 16 * count) && decide (off < x.off + x.len))) &&
  pairwiseOk sectsMeet (ss.filter (fun x => 0 < x.len)) && pairwiseOk sectsSame ss

/-- The bytes of a section. -/
def sectBytes (img : List Byte) (x : Sect) : List Byte := bytesAt img x.off x.len

/-- The bytes of the section of a type (a table whose sections all have one lane), none where it is missing. -/
def sectOf (img : List Byte) (ss : List Sect) (ty : Nat) : Option (List Byte) :=
  (ss.find? (fun x => x.ty == ty)).map (sectBytes img)

end Sys2Proof.Machine
end

