-- ==== Sys2Proof/Machine/Aes.lean ====
section
/-! DEFINITION. AES-256-GCM as 15 R338, 17 R377, R378 and 20 R433 to R435 use it (FIPS 197, SP 800-38D), over bytes held as
numbers, and the key derivation of 20 R426. -/

namespace Sys2Proof.Machine

/-! ### AES-256 -/

/-- Multiplication by x in GF(2^8) of AES. -/
def aesX (b : Nat) : Nat := if b < 128 then 2 * b else (2 * b - 256) ^^^ 0x1B

/-- Product in GF(2^8), by the bits of the second factor. -/
def aesMul (a b : Nat) : Nat :=
  ((List.range 8).foldl (fun (acc : Nat × Nat) i => (if b.testBit i then acc.1 ^^^ acc.2 else acc.1, aesX acc.2)) (0, a)).1

/-- The inverse in GF(2^8): the 254th power. -/
def aesInv (a : Nat) : Nat :=
  ((List.range 7).foldl (fun (acc : Nat × Nat) _ => (aesMul acc.1 (aesMul acc.2 acc.2), aesMul acc.2 acc.2)) (1, a)).1

def rotByte (b n : Nat) : Nat := (b * 2 ^ n ||| b / 2 ^ (8 - n)) % 256

/-- The S-box. -/
def sbox (b : Nat) : Nat :=
  let i := aesInv b
  i ^^^ rotByte i 1 ^^^ rotByte i 2 ^^^ rotByte i 3 ^^^ rotByte i 4 ^^^ 0x63

def sboxTab : List Nat := (List.range 256).map sbox
def subByte (t : List Nat) (b : Nat) : Nat := t.getD b 0

/-- The next word of the key schedule from the words so far, latest first. -/
def aesNextWord (t : List Nat) (ws : List (List Nat)) (i : Nat) : List Nat :=
  let prev := ws.headD []
  let old := ws.getD 7 []
  let rcon := (List.range (i / 8 - 1)).foldl (fun c _ => aesX c) 1
  let w := if i % 8 = 0 then (match prev with
      | [a, b, c, d] => [subByte t b ^^^ rcon, subByte t c, subByte t d, subByte t a]
      | _ => prev)
    else if i % 8 = 4 then prev.map (subByte t) else prev
  (w.zip old).map (fun (x : Nat × Nat) => x.1 ^^^ x.2)

/-- The fifteen round keys of a 32-byte key. -/
def aesKeys (t : List Nat) (key : List Nat) : List (List Nat) :=
  let w0 := (chunks 4 key).reverse
  let ws := ((List.range 52).foldl (fun ws i => aesNextWord t ws (i + 8) :: ws) w0).reverse
  (chunks 4 ws).map List.flatten

def addKey (st k : List Nat) : List Nat := (st.zip k).map (fun (x : Nat × Nat) => x.1 ^^^ x.2)

/-- SubBytes and ShiftRows: byte r of column c comes from column c + r. -/
def subShift (t : List Nat) (st : List Nat) : List Nat :=
  (List.range 16).map (fun i => subByte t (st.getD ((i + 4 * (i % 4)) % 16) 0))

def mixColumn : List Nat → List Nat
  | [a, b, c, d] =>
    let x := a ^^^ b ^^^ c ^^^ d
    [a ^^^ x ^^^ aesX (a ^^^ b), b ^^^ x ^^^ aesX (b ^^^ c), c ^^^ x ^^^ aesX (c ^^^ d), d ^^^ x ^^^ aesX (d ^^^ a)]
  | c => c

def aesRounds (t : List Nat) : List (List Nat) → List Nat → List Nat
  | [], st => st
  | [k], st => addKey (subShift t st) k
  | k :: ks, st => aesRounds t ks (addKey ((chunks 4 (subShift t st)).map mixColumn).flatten k)

/-- The cipher on one block with round keys made once. -/
def aesBlock (t : List Nat) (ks : List (List Nat)) (blk : List Nat) : List Nat :=
  match ks with
  | [] => blk
  | k :: ks => aesRounds t ks (addKey blk k)

/-! ### GCM -/

def beNat (bs : List Nat) : Nat := bs.foldl (fun n b => n * 256 + b) 0
def beBytes (n x : Nat) : List Nat := (List.range n).map (fun i => x / 256 ^ (n - 1 - i) % 256)

/-- Product in GF(2^128) as GCM writes it: bit 0 is the leftmost. -/
def ghashMul (x y : Nat) : Nat :=
  ((List.range 128).foldl (fun (acc : Nat × Nat) i =>
    (if x.testBit (127 - i) then acc.1 ^^^ acc.2 else acc.1,
     if acc.2 % 2 = 1 then acc.2 / 2 ^^^ (0xE1 * 2 ^ 120) else acc.2 / 2)) (0, y)).1

def ghash (h : Nat) (bs : List Nat) : Nat :=
  (chunks 16 bs).foldl (fun y b => ghashMul (y ^^^ beNat (b ++ List.replicate (16 - b.length) 0)) h) 0

def pad16 (bs : List Nat) : List Nat := bs ++ List.replicate ((16 - bs.length % 16) % 16) 0

def toNats (bs : List Byte) : List Nat := bs.map BitVec.toNat
def ofNats (ns : List Nat) : List Byte := ns.map (BitVec.ofNat 8)

/-- The counter-mode stream over a list of blocks, from a counter. -/
def gctr (t : List Nat) (ks : List (List Nat)) (iv : List Nat) : Nat → List (List Nat) → List Nat
  | _, [] => []
  | c, b :: bs => addKey b (aesBlock t ks (iv ++ beBytes 4 c)) ++ gctr t ks iv (c + 1) bs

/-- Encryption and decryption are the same stream. -/
def gcmCrypt (key nonce data : List Byte) : List Byte :=
  ofNats (gctr sboxTab (aesKeys sboxTab (toNats key)) (toNats nonce) 2 (chunks 16 (toNats data)))

/-- The 16-byte tag over additional data and ciphertext. -/
def gcmTag (key nonce aad cipher : List Byte) : List Byte :=
  let ks := aesKeys sboxTab (toNats key)
  let h := beNat (aesBlock sboxTab ks (List.replicate 16 0))
  let y := ghash h (pad16 (toNats aad) ++ pad16 (toNats cipher) ++ beBytes 8 (8 * aad.length) ++ beBytes 8 (8 * cipher.length))
  ofNats (addKey (beBytes 16 y) (aesBlock sboxTab ks (toNats nonce ++ [0, 0, 0, 1])))

/-! ### Key derivation (20 R426) -/

/-- The counter-mode KDF with one iteration; lengths in bits. -/
def kdf (parent : List Byte) (label context : List Byte) (bits : Nat) : List Byte :=
  (hmac256 parent (leBytes 4 1 ++ label ++ [0] ++ context ++ leBytes 4 bits)).take (bits / 8)

/-- The bytes of an ASCII label of 20 Table 20-2. -/
def ascii (s : String) : List Byte := s.toList.map (fun c => BitVec.ofNat 8 c.toNat)

end Sys2Proof.Machine
end

