-- ==== Sys2Proof/Machine/MoverBase.lean ====
section
/-! DEFINITION. Taking Operation Table entries (05_tiers_and_the_mover.md R102, R103). -/

namespace Sys2Proof.Machine

def opOf (s : State) (id : Nat) : Option OpEnt := mapGet s.tier.ops id

def setOp (s : State) (id : Nat) (o : OpEnt) : State :=
  { s with tier := { s.tier with ops := mapSet s.tier.ops id o } }

def updOp (s : State) (id : Nat) (f : OpEnt → OpEnt) : State :=
  { s with tier := { s.tier with ops := mapUpd s.tier.ops id f } }

/-- The entries in use: those that have not ended. -/
def liveOps (s : State) : Map OpEnt := s.tier.ops.filter (fun e => e.2.ended.isNone)

/-- Entries a tenant holds (`TIER_TEN_OPS.USE`). -/
def opsOf (s : State) (t : Nat) : Nat := ((liveOps s).filter (fun e => e.2.tenant = t)).length

/-- Whether `n` operations of a class can have an entry each: 4,096 of the 131,072 are kept for class 0, and a tenant holds at most
`TIER_TEN_OPS.LIMIT`; class 0 takes any free entry (05 R103). -/
def opRooms (s : State) (n cls tenant : Nat) : Bool :=
  let used := (liveOps s).length
  if cls = 0 then decide (used + n ≤ 131072)
  else decide (used + n ≤ 131072 - 4096) && s.tier.opWaits.isEmpty &&
    (tenant = 0xFFF || decide (opsOf s tenant + n ≤ rdB s R.TIER_TEN_OPS_LIMIT tenant))

def opRoom (s : State) (cls tenant : Nat) : Bool := opRooms s 1 cls tenant

/-- The entry that is taken next: the lowest free one; one that has ended gives way only where no other is free. -/
def opIndex (s : State) : Nat :=
  if s.tier.ops.length < 131072 then mapFree s.tier.ops
  else match s.tier.ops.find? (fun e => e.2.ended.isSome) with | some e => e.1 | none => mapFree s.tier.ops

/-- An entry is taken, queued and before its first round, with the stroke as `START_STROKE`; the highest `ACTIVE` is kept (05 Tables 05-4 and
05-11). Answers its index. -/
def takeOp (s : State) (o : OpEnt) : Nat × State :=
  let id := opIndex s
  let s := setOp s id { o with start := catchStroke s }
  let n := (liveOps s).length
  (id, if rdF s R.MOV_STAT_PEAK < n then wrF s R.MOV_STAT_PEAK n else s)

/-- A class 0 operation takes an entry, or waits for the first one freed (05 R103). -/
def takeOp0 (s : State) (o : OpEnt) : State :=
  if opRoom s 0 o.tenant then (takeOp s o).2
  else { s with tier := { s.tier with opWaits := s.tier.opWaits ++ [o] } }

/-- An operation of any class that the device itself starts: with an entry if there is room, and not at all otherwise. -/
def startOp (s : State) (o : OpEnt) : State :=
  if o.cls = 0 then takeOp0 s o else if opRoom s o.cls o.tenant then (takeOp s o).2 else s

/-- A refusal for want of an entry raises `FULL` (05 R103, R116). -/
def opFull (s : State) : State := raiseBit (recordErr s .mov 0 0 E_OP_FULL) .mov 0 3 .plain

/-- An entry ends with a status code (`O0.STATE` 4 or 5, `O6.STATUS`); the first class 0 operation waiting takes a free one (05 R102, R103). -/
def endOp (s : State) (id code : Nat) : State :=
  let s := updOp s id (fun o => if o.ended.isSome then o else { o with
    st := if code = E_OK then .done else .failed
    status := code, todo := [], flying := [], ended := some (catchStroke s) })
  match s.tier.opWaits with
  | [] => s
  | o :: os => if opRoom s 0 o.tenant then (takeOp { s with tier := { s.tier with opWaits := os } } o).2 else s

def freeOp (s : State) (id : Nat) : State := endOp s id E_OK

/-- Entries that ended before the stroke that finishes are free. -/
def purgeOps (s : State) : State :=
  { s with tier := { s.tier with ops := s.tier.ops.filter (fun e => !e.2.ended.any (fun n => decide (n < s.stk.number))) } }

/-- The object word of a session (05 Table 05-4, `O1.OBJECT`). -/
def sesObject (sid gen : Nat) : Nat := sid + gen * 2 ^ 24

end Sys2Proof.Machine
end

