-- ==== Sys2Proof/Machine/SipHash.lean ====
section
/-! DEFINITION. SipHash-2-4 (04_prefix_tree.md R67), on 64-bit words. -/

namespace Sys2Proof.Machine

/-- The four words of SipHash's internal state. -/
structure Sip where
  v0 : Word
  v1 : Word
  v2 : Word
  v3 : Word
deriving DecidableEq, Repr

/-- One SipRound. -/
def sipRound (s : Sip) : Sip :=
  let v0 := s.v0 + s.v1
  let v1 := (s.v1.rotateLeft 13) ^^^ v0
  let v0 := v0.rotateLeft 32
  let v2 := s.v2 + s.v3
  let v3 := (s.v3.rotateLeft 16) ^^^ v2
  let v0 := v0 + v3
  let v3 := (v3.rotateLeft 21) ^^^ v0
  let v2 := v2 + v1
  let v1 := (v1.rotateLeft 17) ^^^ v2
  let v2 := v2.rotateLeft 32
  ⟨v0, v1, v2, v3⟩

/-- One message word: two rounds between the two exclusive-ors. -/
def sipWord (s : Sip) (m : Word) : Sip :=
  let s := sipRound (sipRound { s with v3 := s.v3 ^^^ m })
  { s with v0 := s.v0 ^^^ m }

/-- The message's 64-bit words: whole little-endian words, then the last one with the length in its top byte. -/
def sipWords (msg : List Byte) : List Word :=
  let n := msg.length
  let full := (chunks 8 (msg.take (n / 8 * 8))).map (fun c => BitVec.ofNat 64 (leNat c))
  full ++ [BitVec.ofNat 64 (leNat (msg.drop (n / 8 * 8)) + n % 256 * 2 ^ 56)]

/-- SipHash-2-4 of a message under the key words k0 and k1. -/
def sipHash (k0 k1 : Word) (msg : List Byte) : Word :=
  let s : Sip := ⟨k0 ^^^ 0x736f6d6570736575#64, k1 ^^^ 0x646f72616e646f6d#64,
    k0 ^^^ 0x6c7967656e657261#64, k1 ^^^ 0x7465646279746573#64⟩
  let s := (sipWords msg).foldl sipWord s
  let s := { s with v2 := s.v2 ^^^ 0xff#64 }
  let s := sipRound (sipRound (sipRound (sipRound s)))
  s.v0 ^^^ s.v1 ^^^ s.v2 ^^^ s.v3

end Sys2Proof.Machine
end

