-- ==== Sys2Proof/Machine/Prefix.lean ====
section
/-! DEFINITION. The prefix tree (04_prefix_tree.md): PH64, lookup, publishing, references, eviction and key changes. -/

namespace Sys2Proof.Machine

/-- The capacity of the node store (04 R69). -/
def nodeCap : Nat := 4194304

def nodeOf (s : State) (n : Nat) : Option Node := mapGet s.pfx.nodes n

def setNode (s : State) (n : Nat) (x : Node) : State := { s with pfx := { s.pfx with nodes := mapSet s.pfx.nodes n x } }

def updNode (s : State) (n : Nat) (f : Node → Node) : State :=
  { s with pfx := { s.pfx with nodes := mapUpd s.pfx.nodes n f } }

def pfxKeyOf (s : State) (t : Nat) : PfxKey := (mapGet s.pfx.keys t).getD {}

/-- A key that the device derives from its root secret, which nothing shows (20 R426, Table 20-2). -/
def deviceKey (label : String) (context : List Byte) (bits : Nat) : List Byte := kdf (leBytes 32 Config.rootSecret.toNat) (ascii label) context bits

/-- The seal key of a tenant (20 Table 20-2). -/
def sealKey (t : Nat) : List Byte := deviceKey "SEAL" (leBytes 2 t) 256

/-- A node slot in Tier F (20 R434): encrypted under the next seal counter value of its page, then tag, counter and zeros. -/
def slotImage (x : Sealed) (i : Nat) : List Byte :=
  let nonce := leBytes 8 (x.ctr + i) ++ leBytes 4 0
  let body := gcmCrypt (sealKey x.tenant) nonce (cellsGet x.cells (i * 4096) 0xFE0)
  body ++ gcmTag (sealKey x.tenant) nonce (leBytes 4 x.page ++ leBytes 1 i ++ leBytes 2 x.tenant) body ++ leBytes 8 (x.ctr + i) ++ leBytes 8 0

/-- The frame and tag that a sealed copy makes of its 65,536 bytes (05 R92, 20 R433): AES-256-GCM under the seal counter's nonce, with the page,
version, tenant and class as additional data; a class 5 page carries a seal in each slot and none of its own (R434). State holds the copy
opened, by the metadata and bytes these are made of. -/
def sealedImage (x : Sealed) : List Byte × List Byte :=
  if x.cls = 5 then (((List.range 16).map (slotImage x)).flatten, []) else
  let nonce := leBytes 8 x.ctr ++ leBytes 4 0
  let frame := gcmCrypt (sealKey x.tenant) nonce (cellsGet x.cells 0 65536)
  (frame, gcmTag (sealKey x.tenant) nonce (leBytes 4 x.page ++ leBytes 4 x.ver ++ leBytes 2 x.tenant ++ leBytes 1 x.cls) frame)

/-- The key words in force for a tenant (04 R81): the host's, or the derived key's two halves, lower bytes first. -/
def pfxKeyWords (s : State) (t : Nat) : Word × Word :=
  let k := pfxKeyOf s t
  match k.hostKey with
  | some (a, b) => (BitVec.ofNat 64 a, BitVec.ofNat 64 b)
  | none =>
    let bs := deviceKey "PFX" (leBytes 2 t ++ leBytes 1 k.gen) 128
    (BitVec.ofNat 64 (leNat (bs.take 8)), BitVec.ofNat 64 (leNat (bs.drop 8)))

/-- H_0 and H_i (04 R67): SipHash-2-4 of the model and P, and of the hash before and the span's tokens. -/
def ph64Zero (k : Word × Word) (model p : Nat) : Nat := (sipHash k.1 k.2 (leBytes 4 model ++ leBytes 4 p)).toNat
def ph64Next (k : Word × Word) (h : Nat) (toks : List Nat) : Nat := (sipHash k.1 k.2 (leBytes 8 h ++ packFields 4 toks)).toNat

/-- The full spans of a token list (04 R68). -/
def fullSpans (p : Nat) (toks : List Nat) : List (List Nat) := (chunks p (toks.take (toks.length / p * p)))

/-- PH64 along a chain of spans from a hash. -/
def ph64Chain (k : Word × Word) (h : Nat) : List (List Nat) → List (Nat × List Nat)
  | [] => []
  | t :: ts => let h' := ph64Next k h t; (h', t) :: ph64Chain k h' ts

/-- What a lookup compares (04 R70). -/
structure PfxCtx where
  tenant : Nat
  model : Nat
  log2p : Nat
  keyGen : Nat
deriving DecidableEq, Repr

/-- Whether a node has the lookup's tenant, model, span, key generation, parent and hash, in state `st`. -/
def nodeIs (x : Node) (c : PfxCtx) (st : NodeSt) (parent h : Nat) : Bool :=
  x.st == st && x.tenant == c.tenant && x.model == c.model && x.log2p == c.log2p && x.keyGen == c.keyGen &&
    x.parent == parent && x.hash == h

/-- The node of a span. Where several match, a `FORK` having made a second one (R75, R77), the lookup probes the one of the lowest ID (DESIGN
CHOICE, notes/assumptions/102.md). -/
def findNode (s : State) (c : PfxCtx) (st : NodeSt) (parent h : Nat) : Option (Nat × Node) :=
  s.pfx.nodes.find? (fun e => nodeIs e.2 c st parent h)

/-- A lookup along the chain from a parent (04 R70, R71): the matched nodes in order, and the state with a collision counted
where a hash matches and the tokens differ. It stops at the first miss, which `PFX_MISS` counts. -/
def pfxMatch (s : State) (c : PfxCtx) (parent : Nat) : List (Nat × List Nat) → List Nat × State
  | [] => ([], s)
  | (h, toks) :: rest =>
    match findNode s c .ready parent h with
    | none => ([], cnt s R.PFX_MISS_SPANS 1)
    | some (n, x) =>
      if x.toks = toks then
        let (ns, s) := pfxMatch s c n rest
        (n :: ns, s)
      else ([], raiseBit (cnt (cnt s R.PFX_COLLIDE_COUNT 1) R.PFX_MISS_SPANS 1) .pfx 0 2 .plain)

/-- The lookup takes a reference on every matched node and sets its `LAST_USE` (04 R72). -/
def pfxTake (s : State) (ns : List Nat) : State :=
  let s := ns.foldl (fun s n => updNode s n (fun x => { x with refs := x.refs + 1, lastUse := catchStroke s })) s
  cnt s R.PFX_HITS_SPANS ns.length

/-- Nodes not FREE, of the device and of a tenant. -/
def nodesUsed (s : State) : Nat := s.pfx.nodes.length
def nodesOfTenant (s : State) (t : Nat) : Nat := (s.pfx.nodes.filter (fun e => e.2.tenant = t)).length

/-- A new node takes the lowest free ID above 0; its parent gains a child (04 R69). -/
def newNode (s : State) (x : Node) : Nat × State :=
  let id := freeFrom s.pfx.nodes 1
  let x := { x with pagesAt := (Config.nodePagesAt id).toNat % 2 ^ 46, toksAt := (Config.nodeToksAt id).toNat % 2 ^ 46 }
  let s := setNode s id x
  (id, updNode s x.parent (fun y => { y with children := y.children + 1 }))

/-- Publishing at IMPORT BEGIN (04 R73): FILLING nodes for the unmatched spans from depth `depth` on, while the depth is within
`PUBLISH_SPANS`, no other session's FILLING node stands for the span and free nodes remain; `pages j` are the window pages of the
j-th unmatched span. -/
def pfxPublish (s : State) (c : PfxCtx) (sid limit parent depth : Nat) (pages : Nat → List Nat) (j : Nat) :
    List (Nat × List Nat) → State
  | [] => s
  | (h, toks) :: rest =>
    if limit < depth then s
    else if (findNode s c .filling parent h).isSome then s
    else if nodeCap ≤ nodesUsed s then
      raiseBit (cnt s R.PFX_INSERT_SKIP_COUNT (min (rest.length + 1) (limit + 1 - depth))) .pfx 0 3 .plain
    else
      let (id, s) := newNode s {
        hash := h, parent := parent, depth := depth, model := c.model, tenant := c.tenant, st := .filling,
        keyGen := c.keyGen, log2p := c.log2p, lastUse := catchStroke s, fillSession := sid, pages := pages j, toks := toks }
      pfxPublish s c sid limit id (depth + 1) pages (j + 1) rest

/-- The chain of nodes from a node up to the root, deepest first (04 R76). -/
def nodeChain (s : State) : Nat → Nat → List Nat
  | 0, _ => []
  | fuel + 1, n =>
    if n = 0 then [] else
      match nodeOf s n with
      | some x => n :: nodeChain s fuel x.parent
      | none => []

def chainOf (s : State) (n : Nat) : List Nat :=
  nodeChain s (match nodeOf s n with | some x => x.depth | none => 0) n

/-- A node becomes FREE: its parent loses a child (04 R79). The pages are not touched here. -/
def dropNode (s : State) (n : Nat) : State :=
  match nodeOf s n with
  | none => s
  | some x =>
    let s := { s with pfx := { s.pfx with nodes := mapErase s.pfx.nodes n } }
    updNode s x.parent (fun y => { y with children := y.children - 1 })

/-- References of a session's chain are given back (04 R76). -/
def pfxRelease (s : State) (node : Nat) : State :=
  (chainOf s node).foldl (fun s n => updNode s n (fun x => { x with refs := x.refs - 1 })) s

/-- The FILLING (or STALE) nodes that a session's window fills (04 R74). -/
def fillNodes (s : State) (sid : Nat) : List (Nat × Node) :=
  sortBy (fun a b => a.2.depth ≤ b.2.depth)
    (s.pfx.nodes.filter (fun e => e.2.fillSession = sid && e.2.tier = 0 && e.2.refs = 0 && (e.2.st == .filling || e.2.st == .stale)))

/-- At the commit of the import, the nodes it fills take REFS 1, TIER 1 and FILL_SESSION 0; a FILLING node becomes READY, one that
a key change made STALE stays so (04 R74). Their pages become class 2. -/
def pfxFill (s : State) (ns : List (Nat × Node)) : State :=
  ns.foldl (fun s (n, x) =>
    let s := setNode s n { x with refs := 1, tier := 1, fillSession := 0, st := if x.st == .filling then .ready else x.st }
    updPtes s x.pages (fun e => { e with cls := 2, committed := true })) s

/-- At an abort, the nodes the session was filling become FREE, deepest first (04 R74). -/
def pfxUnfill (s : State) (ns : List (Nat × Node)) : State := (ns.reverse).foldl (fun s (n, _) => dropNode s n) s

/-! ### Eviction (04 R79) -/

/-- Eligible for eviction: no references, no children, READY or STALE (04 R79). A STALE node whose window is still open is spared: its pages are
that window's (DESIGN CHOICE, notes/assumptions/101.md). -/
def Node.evictable (x : Node) : Bool := x.refs = 0 && x.children = 0 && x.fillSession = 0 && (x.st == .ready || x.st == .stale)

/-- Oldest LAST_USE first, then deepest, then lowest ID. -/
def evictOrder (xs : List (Nat × Node)) : List (Nat × Node) :=
  sortBy (fun a b => lexLe [a.2.lastUse, 2 ^ 32 - a.2.depth, a.1] [b.2.lastUse, 2 ^ 32 - b.2.depth, b.1]) xs

/-- A node is demoted: TIER 3 by freeing its Tier H copies at once; TIER 1 by sealing its pages with an entry of kind 0x6, after
which the Tier H copies are freed (04 R79). -/
def demoteNode (s : State) (n : Nat) (x : Node) : State :=
  if x.tier = 3 then
    cnt (setNode (x.pages.foldl freeH1 s) n { x with tier := 2 }) R.PFX_EVICT_DEMOTED 1
  else if x.tier = 1 ∧ x.demoting = false ∧ opRoom s 3 x.tenant then
    let o : OpEnt := {
      kind := 6, cls := 3, src := 0, dst := 1, tenant := x.tenant, object := x.pages.headD 0 * 65536,
      isSes := false, start := 0, todo := x.pages }
    cnt (setNode (takeOp s o).2 n { x with demoting := true }) R.PFX_EVICT_DEMOTED 1
  else s

/-- A node is dropped: its pages are freed and it becomes FREE (04 R79). -/
def dropWhole (s : State) (n : Nat) (x : Node) : State := dropNode (freePages s x.pages) n

/-- Eviction for Tier H room of one tenant: only as many nodes as `need` pages ask for, counting demotions under way. -/
def evictH (s : State) (tenant : Nat) : Nat → List (Nat × Node) → State
  | _, [] => s
  | need, (n, x) :: xs =>
    if need = 0 then s
    else if x.tenant = tenant ∧ (x.tier = 1 ∨ x.tier = 3) ∧ x.st == .ready ∧ x.demoting = false then
      let s := demoteNode s n x
      let gone := (nodeOf s n).any (fun y => y.demoting || y.tier = 2)
      evictH s tenant (if gone then need - x.pages.length else need) xs
    else evictH s tenant need xs

/-- Eviction for free nodes: TIER 2 and STALE nodes are dropped, the others demoted first, until `need` nodes are on their way. -/
def evictNodes (s : State) : Nat → List (Nat × Node) → State
  | _, [] => s
  | need, (n, x) :: xs =>
    if need = 0 then s
    else if x.tier = 2 ∨ x.st == .stale then evictNodes (cnt (dropWhole s n x) R.PFX_EVICT_DROPPED 1) (need - 1) xs
    else evictNodes (demoteNode s n x) (need - 1) xs

/-- Eviction for Tier F quota of one tenant: TIER 2 nodes and STALE nodes are dropped. -/
def evictF (s : State) (tenant : Nat) : Nat → List (Nat × Node) → State
  | _, [] => s
  | need, (n, x) :: xs =>
    if need = 0 then s
    else if x.tenant = tenant ∧ (x.tier = 2 ∨ x.st == .stale) then
      let room := (x.pages.filter (fun p => (pteOf s p).any (·.f))).length
      evictF (cnt (dropWhole s n x) R.PFX_EVICT_DROPPED 1) tenant (need - room) xs
    else evictF s tenant need xs

/-- The room in Tier H that charges now waiting lack, per tenant, less what demotions under way will free. -/
def roomNeeded (s : State) (tenant charge : Nat) : Nat :=
  let q := rdB s R.TIER_TEN_QH_QUOTA tenant
  let under := sumOf ((s.pfx.nodes.filter (fun e => e.2.tenant = tenant && e.2.demoting)).map (fun e => e.2.pages.length))
  if charge = 0 then 0 else max (useH s tenant + charge - q) (charge - freeH s) - under

/-- The nodes wanting to bring free nodes back to `FREE_LOW` percent (04 R79). -/
def nodesWanted (s : State) : Nat :=
  let low := ceilDiv (nodeCap * rdF s R.PFX_CFG_FREE_LOW) 100
  low - (nodeCap - nodesUsed s)

/-- Eviction at a finish: for the charges waiting (tenant, pages), for Tier F quota, and for free nodes (04 R79). STALE nodes whose
references and children are gone are freed (04 R82). -/
def evict (s : State) (waitH waitF : List (Nat × Nat)) : State :=
  let cands := fun (s : State) => evictOrder (s.pfx.nodes.filter (fun e => e.2.evictable))
  let s := waitH.foldl (fun s (t, n) => evictH s t (roomNeeded s t n) (cands s)) s
  let s := waitF.foldl (fun s (t, n) => evictF s t (if n = 0 then 0 else useF s t + n - rdB s R.TIER_TEN_QF_QUOTA t) (cands s)) s
  let s := evictNodes s (nodesWanted s) (cands s)
  ((s.pfx.nodes.filter (fun e => e.2.st == .stale && e.2.evictable))).foldl
    (fun s (n, x) => dropWhole s n x) s

/-! ### Key changes (04 R81, R82) -/

/-- At the finish of a key change, `KEY_GEN` increments modulo 256, the key follows `KEY_MODE`, and every node of the tenant that is
not FREE becomes STALE. -/
def pfxRekey (s : State) (t : Nat) (k : PfxKey) : State :=
  let gen := (k.gen + 1) % 256
  let key := if rdB s R.PFX_TEN_CFG_KEY_MODE t = 1 then some (k.k0, k.k1) else none
  let s := { s with pfx := { s.pfx with
      keys := mapSet s.pfx.keys t { k with gen := gen, hostKey := key, change := false, k0Written := false }
      nodes := mapAll s.pfx.nodes (fun _ x => if x.tenant = t then { x with st := .stale } else x) } }
  wrB s R.PFX_TEN_CFG_KEY_GEN t gen

def pfxKeyChanges (s : State) : State :=
  s.pfx.keys.foldl (fun s (t, k) => if k.change then pfxRekey s t k else s) s

/-- The node words N0 to N7 (04 Table 04-1). -/
def Node.words (x : Node) : List Nat :=
  [x.hash, x.parent % 2 ^ 32 + x.depth % 2 ^ 32 * 2 ^ 32,
   x.model % 2 ^ 32 + x.tenant % 2 ^ 12 * 2 ^ 32 + x.st.code * 2 ^ 44 + x.keyGen % 2 ^ 8 * 2 ^ 48 + x.log2p % 2 ^ 4 * 2 ^ 56,
   x.refs % 2 ^ 32 + x.children % 2 ^ 32 * 2 ^ 32, x.pagesAt, x.toksAt, x.lastUse,
   x.tier % 4 + x.fillSession % 2 ^ 24 * 2 ^ 32]

end Sys2Proof.Machine
end

