-- ==== Sys2Proof/Machine/Utf8.lean ====
section
/-! DEFINITION. UTF-8 intake and the output assembler (11_text_unit.md R237, R238, R245). -/

namespace Sys2Proof.Machine

/-- What may follow a first byte: the ranges of bytes 2 to 4 (11 Table 11-4); none for a byte that begins no row. -/
def seqTail (b : Nat) : Option (List (Nat × Nat)) :=
  if b ≤ 0x7F then some []
  else if 0xC2 ≤ b ∧ b ≤ 0xDF then some [(0x80, 0xBF)]
  else if b = 0xE0 then some [(0xA0, 0xBF), (0x80, 0xBF)]
  else if b = 0xED then some [(0x80, 0x9F), (0x80, 0xBF)]
  else if 0xE1 ≤ b ∧ b ≤ 0xEF then some [(0x80, 0xBF), (0x80, 0xBF)]
  else if b = 0xF0 then some [(0x90, 0xBF), (0x80, 0xBF), (0x80, 0xBF)]
  else if 0xF1 ≤ b ∧ b ≤ 0xF3 then some [(0x80, 0xBF), (0x80, 0xBF), (0x80, 0xBF)]
  else if b = 0xF4 then some [(0x80, 0x8F), (0x80, 0xBF), (0x80, 0xBF)]
  else none

/-- How the bytes after a first byte go on: the bytes that fit, and whether the sequence is whole, cut by the end of the input, or
broken by a byte that does not fit. -/
inductive SeqEnd where
  | whole | cut | broken
deriving DecidableEq, Repr

def seqRun : List (Nat × Nat) → List Byte → List Byte × SeqEnd
  | [], _ => ([], .whole)
  | _ :: _, [] => ([], .cut)
  | (lo, hi) :: rs, b :: bs =>
    if lo ≤ b.toNat ∧ b.toNat ≤ hi then
      let (xs, e) := seqRun rs bs
      (b :: xs, e)
    else ([], .broken)

/-- U+FFFD (11 R237). -/
def fffd : List Byte := [0xEF, 0xBF, 0xBD]

/-- A character of repaired text: its bytes, the offset in the input at which its bytes begin, and whether it stands for a maximal
subpart of an ill-formed sequence. -/
structure Chr where
  bytes : List Byte
  at_ : Nat
  repl : Bool
deriving DecidableEq, Repr

/-- The characters of the bytes from offset `off`, and a trailing prefix of a well-formed sequence, which is left (11 R237, R238). -/
def chrsGo : Nat → Nat → List Byte → List Chr × List Byte
  | 0, _, _ => ([], [])
  | _ + 1, _, [] => ([], [])
  | fuel + 1, off, b :: bs =>
    match seqTail b.toNat with
    | none =>
      let (cs, t) := chrsGo fuel (off + 1) bs
      ({ bytes := fffd, at_ := off, repl := true } :: cs, t)
    | some rs =>
      let (xs, e) := seqRun rs bs
      let n := xs.length + 1
      match e with
      | .cut => ([], b :: xs)
      | .whole =>
        let (cs, t) := chrsGo fuel (off + n) (bs.drop xs.length)
        ({ bytes := b :: xs, at_ := off, repl := false } :: cs, t)
      | .broken =>
        let (cs, t) := chrsGo fuel (off + n) (bs.drop xs.length)
        ({ bytes := fffd, at_ := off, repl := true } :: cs, t)

def chrs (off : Nat) (bs : List Byte) : List Chr × List Byte := chrsGo (bs.length + 1) off bs

/-- The repaired bytes of characters, and how many of them are replacements. -/
def chrBytes (cs : List Chr) : List Byte := (cs.map (·.bytes)).flatten
def replCount (cs : List Chr) : Nat := (cs.filter (·.repl)).length

/-- Whether bytes are well-formed UTF-8. -/
def utf8Ok (bs : List Byte) : Bool :=
  let (cs, t) := chrs 0 bs
  t.isEmpty && cs.all (fun c => !c.repl)

/-- The code point of a well-formed sequence. -/
def codePoint (bs : List Byte) : Nat :=
  match bs with
  | [a] => a.toNat
  | [a, b] => (a.toNat % 32) * 64 + b.toNat % 64
  | [a, b, c] => (a.toNat % 16) * 4096 + (b.toNat % 64) * 64 + c.toNat % 64
  | [a, b, c, d] => (a.toNat % 8) * 262144 + (b.toNat % 64) * 4096 + (c.toNat % 64) * 64 + d.toNat % 64
  | _ => 0

/-- The largest offset at or below `limit` that does not fall inside a well-formed sequence (11 R242). -/
def cutAt (limit : Nat) (bs : List Byte) : Nat :=
  let cs := (chrs 0 bs).1
  match (cs.filter (fun c => c.at_ ≤ limit)).getLast? with
  | some c => if !c.repl && limit < c.at_ + c.bytes.length then c.at_ else limit
  | none => limit

end Sys2Proof.Machine
end

