-- ==== Sys2Proof/Machine/Vocab.lean ====
section
/-! DEFINITION. Vocabulary images, tokenizing and detokenizing (11_text_unit.md R234 to R248). -/

namespace Sys2Proof.Machine

/-! ### The image (11 R234 to R236) -/

/-- Entries of `w` bytes each, as byte strings. -/
def entriesOf (w : Nat) (bs : List Byte) : List (List Byte) := chunks w bs

/-- A token entry and its string, none where the string lies outside `STRINGS` or breaks the length rules (11 R235, R236). -/
def tokAt (strs : List Byte) (e : List Byte) : Option Tok :=
  let w := u64 e 0
  let off := bitsOf w 0 32
  let len := bitsOf w 32 9
  let sp := bitOf w 48
  let et := bitOf w 49
  if 256 < len ∨ strs.length < off + len ∨ (len = 0 ∧ !sp) ∨ (et ∧ !sp) then none
  else some { str := bytesAt strs off len, special := sp, endTurn := et, emit := bitOf w 50 }

/-- A list of results, none where one of them is none. -/
def allSome {α : Type} : List (Option α) → Option (List α)
  | [] => some []
  | none :: _ => none
  | some x :: xs =>
    match allSome xs with
    | some ys => some (x :: ys)
    | none => none

/-- The string of a token ID. -/
def tokStr (ts : List Tok) (i : Nat) : List Byte := match ts[i]? with | some t => t.str | none => []

/-- Section lengths agree with the header's counts (part of reason 3 of 11 R236). -/
def vocabLens (entries merges : Nat) (t m b l1 l2 sp x : List Byte) : Bool :=
  t.length == 8 * entries && m.length == 12 * merges && b.length == 1024 && l1.length == 8704 &&
    l2.length % 128 == 0 && sp.length == 64 && x.length % 4 == 0

/-- The checks of 11 R236 after reason 1, in their order, with `entries` the installed plan's `VOCAB`: the vocabulary, or the reason of its
refusal. -/
def vocabBody (img : List Byte) (entries : Nat) : Except Nat Vocab :=
  if hw img 1 32 16 = 0 ∨ hw img 2 0 20 ≠ entries ∨ hw img 2 0 20 = 0 ∨ 524288 < hw img 2 0 20 ∨
      hw img 2 32 10 < 16 ∨ 4194304 < hw img 3 0 23 ∨
      !(hwZero img 0 [(0, 48)] && hwZero img 1 [(0, 48)] && hwZero img 2 [(0, 20), (32, 10)] && hwZero img 3 [(0, 23), (32, 1)] &&
        hwZero img 4 [] && hwZero img 5 [(0, 48)] && hwZero img 7 []) then .error 2
  else
    let ss := sectsAt img (hw img 5 0 32) (hw img 5 32 16)
    if !(sectsOk img (hw img 5 0 32) (hw img 5 32 16) [0x21, 0x22, 0x23, 0x24, 0x25, 0x26, 0x27, 0x28] ss &&
        ss.all (fun x => x.lane == 0)) then .error 3
    else
      match sectOf img ss 0x21, sectOf img ss 0x22, sectOf img ss 0x23, sectOf img ss 0x24, sectOf img ss 0x25,
          sectOf img ss 0x26, sectOf img ss 0x27, sectOf img ss 0x28 with
      | some t, some strs, some m, some b, some l1, some l2, some sp, some x =>
        if !vocabLens (hw img 2 0 20) (hw img 3 0 23) t m b l1 l2 sp x then .error 3
        else
          match allSome ((entriesOf 8 t).map (tokAt strs)) with
          | none => .error 4
          | some toks =>
            let merges := (entriesOf 12 m).map (fun e => (u32 e 0, u32 e 4, u32 e 8))
            if merges.any (fun (l, r, y) => decide (toks.length ≤ l) || decide (toks.length ≤ r) || decide (toks.length ≤ y) ||
                tokStr toks y != tokStr toks l ++ tokStr toks r) then .error 5
            else if (onesOf 512 (leNat sp)).any (fun i => i % 2 == 1 && (leNat sp).testBit (i - 1)) ||
                (fieldsAt 2 l1 0 4352).any (fun i => decide (l2.length / 128 ≤ i)) then .error 6
            else .ok {
              model := hw img 1 0 32, version := hw img 1 32 16, maxPiece := hw img 2 32 10, whole := hw img 3 32 1 = 1,
              toks := toks, merges := merges, byteMap := fieldsAt 4 b 0 256, classL1 := fieldsAt 2 l1 0 4352, classL2 := l2,
              split := sp, specials := fieldsAt 4 x 0 (x.length / 4), image := img }
      | _, _, _, _, _, _, _, _ => .error 3

/-- The checks of 11 R236 in their order: the vocabulary, or the reason of its refusal. -/
def parseVocab (img : List Byte) (length entries : Nat) : Except Nat Vocab :=
  if hw img 0 0 32 ≠ 0x57564F43 ∨ hw img 0 32 16 ≠ 1 ∨ length ≠ img.length ∨ !imageWhole img (u64 img 48) then .error 1
  else vocabBody img entries

/-! ### Tokenizing (11 R239 to R242) -/

/-- The class of a code point (11 Table 11-3). -/
def classOf (v : Vocab) (cp : Nat) : Nat :=
  let b := (v.classL1.getD (cp / 256) 0) * 128 + (cp % 256) / 2
  let x := (v.classL2.getD b 0).toNat
  if cp % 2 = 0 then x % 16 else x / 16

/-- The action for a pair of classes: 0 JOIN, 1 SPLIT, 2 STEAL (11 R240). -/
def splitAct (v : Vocab) (a c : Nat) : Nat := bitsOf (leNat v.split) (2 * (16 * a + c)) 2

/-- Bytes of a piece of characters. -/
def pieceLen (p : List Chr) : Nat := (chrBytes p).length

/-- One character joins the pieces so far; a piece in progress is held newest character first (11 R240). -/
def splitChr (v : Vocab) (done : List (List Chr)) (cur : List Chr) (c : Chr) : List (List Chr) × List Chr :=
  match cur with
  | [] => (done, [c])
  | p :: rest =>
    let act := splitAct v (classOf v (codePoint p.bytes)) (classOf v (codePoint c.bytes))
    let join := if v.maxPiece < pieceLen cur + c.bytes.length then (done ++ [cur.reverse], [c]) else (done, c :: cur)
    if act = 1 then (done ++ [cur.reverse], [c])
    else if act = 2 then
      if rest.isEmpty then join
      else if v.maxPiece < p.bytes.length + c.bytes.length then (done ++ [cur.reverse], [c])
      else (done ++ [rest.reverse], [c, p])
    else join

def splitGo (v : Vocab) : List (List Chr) → List Chr → List Chr → List (List Chr)
  | done, cur, [] => if cur.isEmpty then done else done ++ [cur.reverse]
  | done, cur, c :: cs =>
    let (d, x) := splitChr v done cur c
    splitGo v d x cs

/-- The pieces of a text (11 R240). -/
def pieces (v : Vocab) (cs : List Chr) : List (List Chr) := splitGo v [] [] cs

/-- The rank of a pair: the lowest index of a merge with these two IDs, and its result. -/
def rankOf (v : Vocab) (l r : Nat) : Option (Nat × Nat) :=
  (v.merges.zipIdx.find? (fun (m, _) => m.1 == l && m.2.1 == r)).map (fun (m, i) => (i, m.2.2))

/-- The best pair: lowest rank, then lowest place (11 R241). -/
def bestPair (v : Vocab) : Nat → List Nat → Option (Nat × Nat × Nat) → Option (Nat × Nat × Nat)
  | _, [], b => b
  | _, [_], b => b
  | i, l :: r :: xs, b =>
    let b' := match rankOf v l r, b with
      | some (k, y), some (k0, _, _) => if k < k0 then some (k, i, y) else b
      | some (k, y), none => some (k, i, y)
      | none, _ => b
    bestPair v (i + 1) (r :: xs) b'

/-- The merge loop of 11 R241. -/
def mergeGo (v : Vocab) : Nat → List Nat → List Nat
  | 0, ids => ids
  | fuel + 1, ids =>
    match bestPair v 0 ids none with
    | none => ids
    | some (_, i, y) => mergeGo v fuel (ids.take i ++ [y] ++ ids.drop (i + 2))

/-- The lowest token whose string is the piece. -/
def stringId (v : Vocab) (p : List Byte) : Option Nat :=
  (v.toks.zipIdx.find? (fun (t, _) => t.str == p)).map (·.2)

/-- The tokens of a piece (11 R241). -/
def pieceToks (v : Vocab) (p : List Byte) : List Nat :=
  let ids := p.map (fun b => v.byteMap.getD b.toNat 0)
  if v.whole then
    match stringId v p with
    | some i => [i]
    | none => mergeGo v p.length ids
  else mergeGo v p.length ids

/-- A run of a text after the search for special literals: ordinary characters, or a special token with the place where its
literal begins and how many characters it takes (11 R239). -/
inductive Run1 where
  | text (cs : List Chr)
  | lit (id at_ : Nat)
deriving DecidableEq, Repr

/-- Whether characters spell a byte string, and the characters left after it. -/
def spells : List Byte → List Chr → Option (List Chr)
  | [], cs => some cs
  | _ :: _, [] => none
  | b :: bs, c :: cs =>
    if c.bytes.isPrefixOf (b :: bs) then spellsGo ((b :: bs).drop c.bytes.length) cs c.bytes.length (b :: bs).length else none
where
  spellsGo (rest : List Byte) (cs : List Chr) (_n fuel : Nat) : Option (List Chr) :=
    match fuel, rest, cs with
    | _, [], cs => some cs
    | 0, _, _ => none
    | _, _, [] => none
    | f + 1, rest, c :: cs => if c.bytes.isPrefixOf rest && !c.bytes.isEmpty then spellsGo (rest.drop c.bytes.length) cs 0 f else none

/-- The longest listed special string that starts here: its ID and the characters after it. -/
def litHere (v : Vocab) (cs : List Chr) : Option (Nat × List Chr) :=
  (v.specials.filterMap (fun i =>
      let t := tokStr v.toks i
      if t.isEmpty then none else (spells t cs).map (fun r => (t.length, i, r)))).foldl
    (fun b x => match b with
      | some (n, _, _) => if n < x.1 then some x else b
      | none => some x) none |>.map (fun x => (x.2.1, x.2.2))

/-- Cutting a text at special literals; a literal may begin only at a character at or after offset `from_` (11 R239). -/
def litRuns (v : Vocab) (on : Bool) (from_ : Nat) : Nat → List Chr → List Chr → List Run1
  | 0, acc, cs => [.text (acc.reverse ++ cs)]
  | _ + 1, acc, [] => [.text acc.reverse]
  | fuel + 1, acc, c :: cs =>
    match if on && decide (from_ ≤ c.at_) then litHere v (c :: cs) else none with
    | some (i, rest) => .text acc.reverse :: .lit i c.at_ :: litRuns v on from_ fuel [] rest
    | none => litRuns v on from_ fuel (c :: acc) cs

/-- A unit of output of the tokenizer: its tokens, the input offset at which it begins, its bytes, and whether it is an
ordinary piece, which may still grow (11 R238, R242). -/
structure Piece where
  ids : List Nat
  at_ : Nat
  bytes : List Byte
  grows : Bool
deriving DecidableEq, Repr

def runPieces (v : Vocab) : Run1 → List Piece
  | .text cs => (pieces v cs).map (fun p => {
      ids := pieceToks v (chrBytes p), at_ := (p.head?.map (·.at_)).getD 0, bytes := chrBytes p, grows := true })
  | .lit i a => [{ ids := [i], at_ := a, bytes := [], grows := false }]

/-- Pieces emitted whole up to a token limit: the tokens, and the first piece that would pass it (11 R242). -/
def emitUpTo : Nat → List Piece → List Nat × Option Piece
  | _, [] => ([], none)
  | room, p :: ps =>
    if room < p.ids.length then ([], some p)
    else
      let (xs, e) := emitUpTo (room - p.ids.length) ps
      (p.ids ++ xs, e)

/-- What a text-in request gives (11 R237 to R242): tokens, replacements, bytes of its own input consumed, the flags
`TRUNC_BYTES` and `TRUNC_TOKENS`, and the carries left in the context. -/
structure TokOut where
  ids : List Nat
  repl : Nat
  used : Nat
  truncBytes : Bool
  truncToks : Bool
  inCarry : List Byte
  pieceCarry : List Byte
deriving DecidableEq, Repr

/-- A text-in request: the carries of its context, its own bytes, whether `MORE` is set, whether special literals count, the
byte limit and the token limit (11 R237 to R242). -/
def tokenizeText (v : Vocab) (pieceCarry inCarry own : List Byte) (more special : Bool) (byteMax tokMax : Nat) : TokOut :=
  let cut := if byteMax < own.length then cutAt byteMax own else own.length
  let truncB := decide (byteMax < own.length)
  let more := more && !truncB
  let base := pieceCarry.length + inCarry.length
  let input := pieceCarry ++ inCarry ++ own.take cut
  let (cs0, tail) := chrs 0 input
  let cs := if more || tail.isEmpty then cs0 else cs0 ++ [{ bytes := fffd, at_ := input.length - tail.length, repl := true }]
  let ps := ((litRuns v special base cs.length [] cs).map (runPieces v)).flatten
  let carry := match ps.getLast? with
    | some p => if more && p.grows then p.bytes else []
    | none => []
  let out := if more && (ps.getLast?.map (·.grows)).getD false then ps.dropLast else ps
  let (ids, stop) := emitUpTo tokMax out
  match stop with
  | some p =>
    { ids := ids, repl := replCount (cs.filter (fun c => c.at_ < p.at_)), used := p.at_ - base, truncBytes := truncB,
      truncToks := true, inCarry := [], pieceCarry := [] }
  | none =>
    { ids := ids, repl := replCount cs, used := cut, truncBytes := truncB, truncToks := false,
      inCarry := if more then tail else [], pieceCarry := carry }

/-! ### Detokenizing (11 R244 to R248) -/

/-- The bytes of a token: its string, no bytes for a special token without `EMIT`, and one U+FFFD for an ID at or above
`ENTRIES` (11 R244, R257). Answers the bytes and whether it was such an ID. -/
def tokBytes (v : Vocab) (i : Nat) : List Byte × Bool :=
  match v.toks[i]? with
  | none => (fffd, true)
  | some t => (if t.special && !t.emit then [] else t.str, false)

def tokEnds (v : Vocab) (i : Nat) : Bool := match v.toks[i]? with | some t => t.endTurn | none => false

/-- Repaired bytes released by each token, in order, with the output pending left; tokens after an end-of-turn token give none
(11 R245, R248). -/
structure Asm where
  outs : List (List Chr)
  pend : List Byte
  repl : Nat
  endAt : Option Nat
deriving DecidableEq, Repr

def assemble (v : Vocab) : Nat → List Byte → List Nat → Asm
  | _, pend, [] => { outs := [], pend := pend, repl := 0, endAt := none }
  | i, pend, t :: ts =>
    let (bs, bad) := tokBytes v t
    let (cs, tail) := chrs 0 (pend ++ bs)
    let r := replCount cs + b2n bad
    if tokEnds v t then { outs := [cs], pend := tail, repl := r, endAt := some i }
    else
      let a := assemble v (i + 1) tail ts
      { a with outs := cs :: a.outs, repl := r + a.repl }

/-- The first place at which a string occurs in a text. -/
def occursAt (p : List Byte) : Nat → List Byte → Option Nat
  | i, [] => if p.isEmpty then some i else none
  | i, b :: bs => if p.isPrefixOf (b :: bs) then some i else occursAt p (i + 1) bs

/-- The stop string that wins: the earliest start, then the longest (11 R247). Answers its index, start and length. -/
def stopHit (stops : List (List Byte)) (text : List Byte) : Option (Nat × Nat × Nat) :=
  (stops.zipIdx.filterMap (fun (p, i) => (occursAt p 0 text).map (fun a => (i, a, p.length)))).foldl
    (fun b x => match b with
      | none => some x
      | some y => if x.2.1 < y.2.1 ∨ (x.2.1 = y.2.1 ∧ y.2.2 < x.2.2) then some x else b) none

/-- The longest suffix that is a proper prefix of some stop string (11 R245). -/
def holdBack (stops : List (List Byte)) : List Byte → List Byte
  | [] => []
  | b :: bs =>
    if stops.any (fun p => (b :: bs).isPrefixOf p && decide ((b :: bs).length < p.length)) then b :: bs else holdBack stops bs

/-- Which token supplies byte n of the text after `held` bytes (11 R247). -/
def supplier : Nat → List (List Byte) → Nat → Nat
  | i, [], _ => i - 1
  | i, o :: os, n => if n < o.length then i else supplier (i + 1) os (n - o.length)

/-- Replacements that lie wholly in the first n bytes of repaired characters. -/
def replWithin : Nat → List Chr → Nat
  | _, [] => 0
  | n, c :: cs => if n < c.bytes.length then 0 else b2n c.repl + replWithin (n - c.bytes.length) cs

/-- What a commit's tokens give (11 R245 to R248): the text emitted, the context after it, the replacements made, those of them in the
text emitted (`J3.REPLACED`), the stop report (index, token) and the end-of-turn report (token). -/
structure DetOut where
  text : List Byte
  ctx : TxtCtx
  repl : Nat
  shown : Nat
  stop : Option (Nat × Nat) := none
  endTurn : Option Nat := none
deriving DecidableEq, Repr

def detokenize (v : Vocab) (x : TxtCtx) (ids : List Nat) : DetOut :=
  let a := assemble v 0 x.pend ids
  let outs := a.outs.map chrBytes
  let text := x.hold ++ outs.flatten
  match stopHit x.stops text with
  | some (i, at_, len) =>
    let out := text.take at_
    { text := out, ctx := { x with pend := [], hold := [], offset := x.offset + out.length }, repl := a.repl,
      shown := replWithin (at_ - x.hold.length) a.outs.flatten
      stop := some (i, supplier 0 outs (at_ + len - 1 - x.hold.length)) }
  | none =>
    match a.endAt with
    | some k =>
      let out := text ++ (if a.pend.isEmpty then [] else fffd)
      { text := out, ctx := { x with pend := [], hold := [], offset := x.offset + out.length },
        repl := a.repl + b2n (!a.pend.isEmpty), shown := a.repl + b2n (!a.pend.isEmpty), endTurn := some k }
    | none =>
      let h := holdBack x.stops text
      let out := text.take (text.length - h.length)
      { text := out, ctx := { x with pend := a.pend, hold := h, offset := x.offset + out.length }, repl := a.repl, shown := a.repl }

/-- The end of an output stream (11 R248): the hold-back, and one U+FFFD for bytes of an incomplete character. -/
def flushText (x : TxtCtx) : List Byte × TxtCtx × Nat :=
  let out := x.hold ++ (if x.pend.isEmpty then [] else fffd)
  (out, { x with hold := [], pend := [], offset := x.offset + out.length }, b2n (!x.pend.isEmpty))

/-! ### Stop sets (11 R246, R258) -/

/-- The stop strings of `n` entries of 72 B, none where one breaks 11 R246 or the list is short. -/
def parseStops (d : List Byte) (n : Nat) : Option (List (List Byte)) :=
  if 16 < n ∨ d.length < 72 * n then none
  else allSome (((entriesOf 72 d).take n).map (fun e =>
    let len := u8 e 0
    let str := bytesAt e 8 len
    if len = 0 ∨ 64 < len ∨ !(bytesAt e 1 7).all (· == 0) ∨ !utf8Ok str then none else some str))

end Sys2Proof.Machine
end

