-- ==== Sys2Proof/Machine/Grammar.lean ====
section
/-! DEFINITION. Grammar images, the pushdown automaton and its masks (11_text_unit.md R250 to R253). -/

namespace Sys2Proof.Machine

/-- A configuration of the automaton (11 R251, R253): state, stack with its top first, and `REJECTED`. -/
structure GrmCfg where
  st : Nat
  stack : List Nat
  rejected : Bool
deriving DecidableEq, Repr

/-- The transitions of a state. -/
def grmTrans (g : Grm) (st : Nat) : List GrmTr :=
  match g.states[st]? with
  | some x => (g.trans.drop x.first).take x.count
  | none => []

/-- One byte from a state and stack; none where the byte is rejected (11 R251). -/
def grmByte (g : Grm) (st : Nat) (stack : List Nat) (b : Byte) : Option (Nat × List Nat) :=
  match (grmTrans g st).find? (fun t => decide (t.lo ≤ b.toNat) && decide (b.toNat ≤ t.hi)) with
  | none => none
  | some t =>
    if t.op = 0 then some (t.next, stack)
    else if t.op = 1 then (if g.depth ≤ stack.length then none else some (t.next, t.ret :: stack))
    else
      match stack with
      | [] => none
      | r :: rest => some (r, rest)

def grmBytes (g : Grm) : Nat → List Nat → List Byte → Option (Nat × List Nat)
  | st, stack, [] => some (st, stack)
  | st, stack, b :: bs =>
    match grmByte g st stack b with
    | none => none
    | some (st', stack') => grmBytes g st' stack' bs

/-- Whether a state accepts with an empty stack (11 R252). -/
def grmAccepts (g : Grm) (st : Nat) (stack : List Nat) : Bool :=
  stack.isEmpty && (match g.states[st]? with | some x => x.accept | none => false)

/-- Whether a token is allowed in a configuration (11 R252). -/
def grmAllows (g : Grm) (v : Vocab) (st : Nat) (stack : List Nat) (t : Nat) : Bool :=
  match v.toks[t]? with
  | none => false
  | some k =>
    (k.endTurn && grmAccepts g st stack) || (!k.special && (grmBytes g st stack k.str).isSome)

/-- Whether the base mask of a state names a token; 0xFF_FFFF is no mask. -/
def baseMaskBit (g : Grm) (st t : Nat) : Bool :=
  match g.states[st]? with
  | none => false
  | some x =>
    if x.mask = 0xFFFFFF then false
    else bitOf (((g.masks.getD x.mask []).getD (t / 8) 0).toNat) (t % 8)

/-- The deferred tokens of a state. -/
def grmDeferred (g : Grm) (st : Nat) : List Nat :=
  match g.states[st]? with
  | some x => (g.deferred.drop x.defFirst).take x.defCount
  | none => []

/-- The mask bit of a token (11 R252): of special tokens only those that end a turn, where the state accepts; of others the base
mask and the deferred tokens found allowed. While `REJECTED` is set every mask is empty (11 R253). -/
def maskBit (g : Grm) (v : Vocab) (c : GrmCfg) (t : Nat) : Bool :=
  match v.toks[t]? with
  | none => false
  | some k =>
    !c.rejected &&
    (if k.special then k.endTurn && grmAccepts g c.st c.stack
     else baseMaskBit g c.st t || ((grmDeferred g c.st).contains t && grmAllows g v c.st c.stack t))

def maskOfCfg (g : Grm) (v : Vocab) (c : GrmCfg) : List Bool :=
  (List.range v.toks.length).map (maskBit g v c)

/-- A committed token advances the configuration (11 R253). A token that ends the turn where the state accepts is allowed and moves
nothing; any other special token is rejected; an ordinary one is walked byte by byte. -/
def grmAdvance (g : Grm) (v : Vocab) (c : GrmCfg) (t : Nat) : GrmCfg :=
  if c.rejected then c
  else
    match v.toks[t]? with
    | none => { c with rejected := true }
    | some k =>
      if k.special then (if k.endTurn && grmAccepts g c.st c.stack then c else { c with rejected := true })
      else
        match grmBytes g c.st c.stack k.str with
        | some (st, stack) => { st := st, stack := stack, rejected := false }
        | none => { c with rejected := true }

/-- Deferred string bytes of a state, which time its mask build (11 R252). -/
def deferredBytes (g : Grm) (v : Vocab) (st : Nat) : Nat :=
  sumOf ((grmDeferred g st).map (fun t => (tokStr v.toks t).length))

/-- A mask build's time in ns without misses: 0.5 µs plus 1.0638 ns a deferred byte (11 R252). -/
def maskNs (g : Grm) (v : Vocab) (st : Nat) : Nat := 500 + ceilDiv (10638 * deferredBytes g v st) 10000

/-! ### The image (11 R250, R251) -/

def grmStateAt (e : List Byte) : GrmSt :=
  let a := u64 e 0
  let b := u64 e 8
  { first := bitsOf a 0 32, count := bitsOf a 32 9, accept := bitOf a 48, mask := bitsOf b 0 24, defCount := bitsOf b 32 16,
    defFirst := bitsOf (u64 e 16) 0 32 }

def grmTransAt (e : List Byte) : GrmTr :=
  let a := u64 e 0
  { lo := bitsOf a 0 8, hi := bitsOf a 8 8, op := bitsOf a 16 2, next := bitsOf a 24 16, ret := bitsOf a 40 16 }

/-- A state's transitions ascend without overlap (11 R251 reason 4). -/
def transRise : List GrmTr → Bool
  | [] => true
  | [t] => decide (t.lo ≤ t.hi)
  | t :: u :: ts => decide (t.lo ≤ t.hi) && decide (t.hi < u.lo) && transRise (u :: ts)

/-- The checks of 11 R251 in their order, `vocab` being the model's installed vocabulary and `prev` the installed table of this
ID (11 R255): the table, or the reason. -/
def parseGrm (img : List Byte) (length : Nat) (vocab : Nat → Option Vocab) (prev : Nat → Option Grm) : Except Nat Grm :=
  if hw img 0 0 32 ≠ 0x5747524D ∨ hw img 0 32 16 ≠ 1 ∨ length ≠ img.length ∨ !imageWhole img (u64 img 48) then .error 1
  else
    match vocab (hw img 1 32 32) with
    | none => .error 2
    | some v =>
      let table := hw img 1 0 16
      let states := hw img 2 0 17
      if table = 0xFFFF ∨ hw img 1 16 16 = 0 ∨ states = 0 ∨ 65536 < states ∨ states ≤ hw img 2 32 16 ∨
          hw img 2 48 8 = 0 ∨ 252 < hw img 2 48 8 ∨ 2 ^ 28 < u64 img 48 ∨
          !(hwZero img 0 [(0, 48)] && hwZero img 2 [(0, 17), (32, 24)] && hwZero img 3 [(0, 24)] && hwZero img 4 [] &&
            hwZero img 5 [(0, 48)] && hwZero img 7 []) ∨
          (prev table).any (fun p => p.model != hw img 1 32 32) then .error 2
      else
        let ss := sectsAt img (hw img 5 0 32) (hw img 5 32 16)
        if !(sectsOk img (hw img 5 0 32) (hw img 5 32 16) [0x31, 0x32, 0x33, 0x34] ss && ss.all (fun x => x.lane == 0)) then .error 3
        else
          match sectOf img ss 0x31, sectOf img ss 0x32, sectOf img ss 0x33, sectOf img ss 0x34 with
          | some a, some b, some m, some d =>
            let row := ceilDiv v.toks.length 8
            if a.length ≠ 24 * states ∨ b.length % 8 ≠ 0 ∨ m.length ≠ hw img 3 0 24 * row ∨ d.length % 4 ≠ 0 then .error 3
            else
              let g : Grm := {
                table := table, version := hw img 1 16 16, model := hw img 1 32 32, start := hw img 2 32 16,
                depth := hw img 2 48 8, states := (entriesOf 24 a).map grmStateAt, trans := (entriesOf 8 b).map grmTransAt,
                masks := entriesOf row m, deferred := fieldsAt 4 d 0 (d.length / 4), image := img }
              if g.states.any (fun x => decide (256 < x.count) || decide (g.trans.length < x.first + x.count)) ||
                  (List.range g.states.length).any (fun i => !transRise (grmTrans g i)) ||
                  g.trans.any (fun t => t.op == 3 || decide (states ≤ t.next) || (t.op == 1 && decide (states ≤ t.ret))) then .error 4
              else if g.states.any (fun x => (x.mask != 0xFFFFFF && decide (g.masks.length ≤ x.mask)) ||
                  decide (g.deferred.length < x.defFirst + x.defCount)) ||
                  (List.range g.states.length).any (fun i =>
                    (grmDeferred g i).any (fun t => decide (v.toks.length ≤ t)) || decide (65536 < deferredBytes g v i)) then .error 5
              else .ok g
          | _, _, _, _ => .error 3

end Sys2Proof.Machine
end

