-- ==== Sys2Proof/Machine/Text.lean ====
section
/-! DEFINITION. The Text unit (11_text_unit.md): loading vocabularies and grammar tables, stream contexts and their requests, and
what sessions ask of it. -/

namespace Sys2Proof.Machine

/-! ### Installed versions (11 R255) -/

def vocabOf (s : State) (model : Nat) : Option Vocab := (mapGet s.txt.vocabs model).map (·.cur)
def grmOf (s : State) (table : Nat) : Option Grm := (mapGet s.txt.grms table).map (·.cur)

/-- The version of a grammar table that a record is bound to. -/
def grmBound (s : State) (r : GrmRec) : Option Grm :=
  match mapGet s.txt.grms r.table with
  | none => none
  | some p => if p.cur.version = r.version then some p.cur else p.old

/-- The plan current for a model program (09 R196). -/
def planOf (s : State) (model : Nat) : Option Plan := (mapGet s.prg.progs model).map (·.cur)

/-- Free values stand for the hits and misses of the vocabulary cache, whose replacement 11 R243 does not state
(notes/assumptions/17.md). -/
def cacheUse (s : State) : State :=
  let (i, s) := nextFree s
  let (j, s) := nextFree s
  cnt (cnt s R.TXT_CACHE_HITS (Config.freeWord i).toNat) R.TXT_CACHE_MISSES (Config.freeWord j).toNat

/-- A refusal that the Text unit reports: an error of its page (11 R259, 02 R27). -/
def refuseTxt (s : State) (b : Blk) (c : Cmd) (code c0 : Nat) : State := refuseWith (recordErr s b 0 0 code) c code c0

/-! ### Loading images (11 R236, R251, R255, R256) -/

/-- Pages of an image: class 4, charged to no tenant (05 R97), written by a Mover entry of kind 0xD from the network. Answers the
state with the load in flight, or the code of the refusal. -/
def loadTable (s : State) (l : TabLoad) : Nat ⊕ State :=
  if !opRoom s 2 0xFFF then .inl E_OP_FULL
  else
    match allocPages s (max 1 (ceilDiv l.image.length 65536)) 0xFFF 4 0 false with
    | none => .inl E_TIER_FULL
    | some (base, s) =>
      let pages := (List.range (max 1 (ceilDiv l.image.length 65536))).map (base + ·)
      let (op, s) := takeOp s {
        kind := 0xD, cls := 2, src := 2, dst := 0, tenant := 0xFFF, object := base * 65536, isSes := false, start := 0,
        todo := pages }
      .inr { s with txt := { s.txt with loads := s.txt.loads ++ [{ l with pages := pages, op := op }] } }

/-- Versions of an image, loads in flight included (11 R255). -/
def loadsOf (s : State) (kind key : Nat) : Nat := (s.txt.loads.filter (fun l => l.kind = kind && l.key = key)).length

def startVocabLoad (c : Cmd) (data : List Byte) (s : State) : State :=
  if !domPlanLoad s c.dom then refuseTxt s .sec c E_SEC_RIGHT 0
  else
    match qpCheck s c.dom (c.f3 32 16) with
    | some e => finishCmd s c e
    | none =>
      let model := hw data 1 0 32
      match parseVocab data c.w4.toNat (match planOf s model with | some p => p.hdr.vocab | none => 0) with
      | .error 1 => refuseTxt s .txt c E_VOCAB_INVALID 1
      | r =>
        if (planOf s model).isNone then refuseTxt s .txt c E_MODEL_UNKNOWN 0
        else if 2 ≤ loadsOf s 0 model + (match mapGet s.txt.vocabs model with | some p => 1 + b2n p.old.isSome | none => 0) then
          refuseTxt s .txt c E_TABLE_BUSY 0
        else
          match r with
          | .error k => refuseTxt s .txt c E_VOCAB_INVALID k
          | .ok v =>
            match loadTable s { cmd := c, kind := 0, key := model, version := v.version, pages := [], image := data, vocab := some v, op := 0 } with
            | .inl e => refuseTxt s .txt c e 0
            | .inr s => s

def startGrmLoad (c : Cmd) (data : List Byte) (s : State) : State :=
  if !domPlanLoad s c.dom then refuseTxt s .sec c E_SEC_RIGHT 0
  else
    match qpCheck s c.dom (c.f3 32 16) with
    | some e => finishCmd s c e
    | none =>
      match parseGrm data c.w4.toNat (vocabOf s) (grmOf s) with
      | .error 1 => refuseTxt s .grm c E_GRM_INVALID 1
      | r =>
        let table := hw data 1 0 16
        let known := mapHas s.txt.grms table || decide (0 < loadsOf s 1 table)
        let tables := ((s.txt.loads.filter (fun l => l.kind = 1)).map (·.key) ++ mapKeys s.txt.grms).eraseDups.length
        if 2 ≤ loadsOf s 1 table + (match mapGet s.txt.grms table with | some p => 1 + b2n p.old.isSome | none => 0) ∨
            (!known ∧ 1024 ≤ tables) then refuseTxt s .grm c E_TABLE_BUSY 0
        else
          match r with
          | .error k => refuseTxt s .grm c E_GRM_INVALID k
          | .ok g =>
            match loadTable s { cmd := c, kind := 1, key := table, version := g.version, pages := [], image := data, grm := some g, op := 0 } with
            | .inl e => refuseTxt s .grm c e 0
            | .inr s => s

/-- The payload of `EV_TABLE_INSTALLED` and `EV_TABLE_RETIRED` (15 Table 15-10). -/
def tableWord (kind key version : Nat) : Nat := key % 2 ^ 32 + version % 2 ^ 16 * 2 ^ 32 + kind % 4 * 2 ^ 48

def tableEvent (s : State) (retired : Bool) (kind key version : Nat) : State :=
  raiseBit s (if kind = 0 then .txt else if kind = 1 then .grm else .gsx) 0 (if retired then 3 else 2)
    (.named (if retired then EV_TABLE_RETIRED else EV_TABLE_INSTALLED) [tableWord kind key version] (planDoms s))

/-- A sealed copy of an image follows its install (09 R195, 11 R255): kind 0xD, Tier H to Tier F. -/
def sealImage (s : State) (pages : List Nat) : State :=
  startOp s {
    kind := 0xD, cls := 2, src := 0, dst := 1, tenant := 0xFFF, object := pages.headD 0 * 65536, isSes := false, start := 0,
    todo := pages }

/-- An older vocabulary or grammar version that nothing is bound to is freed (11 R255). -/
def retireVocab (s : State) (model : Nat) : State :=
  match mapGet s.txt.vocabs model with
  | some { cur := v, old := some o } =>
    if s.txt.engines.any (fun e => e.2.cmd.opcode = 0x34 || e.2.cmd.opcode = 0x35) then s
    else
      let s := freePages s o.pages
      tableEvent { s with txt := { s.txt with vocabs := mapSet s.txt.vocabs model { cur := v } } } true 0 model o.version
  | _ => s

def retireGrm (s : State) (table : Nat) : State :=
  match mapGet s.txt.grms table with
  | some { cur := g, old := some o } =>
    if s.txt.recs.any (fun e => e.2.table = table && e.2.version = o.version) then s
    else
      let s := freePages s o.pages
      tableEvent { s with txt := { s.txt with grms := mapSet s.txt.grms table { cur := g } } } true 1 table o.version
  | _ => s

def retireTables (s : State) : State :=
  let s := (mapKeys s.txt.vocabs).foldl retireVocab s
  (mapKeys s.txt.grms).foldl retireGrm s

/-- A load whose last page has reached Tier H installs at this finish (11 R255); its completion is sent then. -/
def installTable (s : State) (l : TabLoad) : State :=
  let s := { s with txt := { s.txt with loads := s.txt.loads.filter (fun x => x.op != l.op) } }
  let s := updPtes s l.pages (fun e => { e with committed := true })
  let s := match l.vocab, l.grm with
    | some v, _ =>
      let v := { v with pages := l.pages }
      { s with txt := { s.txt with vocabs := mapSet s.txt.vocabs l.key { cur := v, old := (vocabOf s l.key) } } }
    | _, some g =>
      let g := { g with pages := l.pages }
      { s with txt := { s.txt with grms := mapSet s.txt.grms l.key { cur := g, old := (grmOf s l.key) } } }
    | none, none => s
  let s := tableEvent s false l.kind l.key l.version
  let s := sealImage s l.pages
  stageDone s { cmd := l.cmd, status := E_OK, c0 := l.key % 2 ^ 32 + l.version * 2 ^ 32 }

/-- The image of a load that a Mover entry brings, cut to a page (11 R255). -/
def tabPageBytes (s : State) (p : Nat) : Option (List Byte) :=
  match s.txt.loads.find? (fun l => l.pages.contains p) with
  | some l => some (bytesAt l.image ((p - l.pages.headD 0) * 65536) 65536)
  | none => none

/-- A table is unloaded, unless it is in use (11 Table 11-10). -/
def tableUnloaded (s : State) (c : Cmd) : State :=
  let key := c.f2 0 32
  if c.f2 32 1 = 0 then
    match mapGet s.txt.vocabs key with
    | none => refuseTxt s .txt c E_TABLE_UNKNOWN 0
    | some p =>
      if s.txt.ctxs.any (fun e => e.2.model = key) ||
          s.txt.recs.any (fun e => (grmBound s e.2).any (fun g => g.model == key)) then refuseTxt s .txt c E_TABLE_INUSE 0
      else
        let s := freePages (freePages s p.cur.pages) (match p.old with | some o => o.pages | none => [])
        finishCmd { s with txt := { s.txt with vocabs := mapErase s.txt.vocabs key } } c E_OK
  else
    match mapGet s.txt.grms key with
    | none => refuseTxt s .grm c E_TABLE_UNKNOWN 0
    | some p =>
      if s.txt.recs.any (fun e => e.2.table = key) then refuseTxt s .grm c E_TABLE_INUSE 0
      else
        let s := freePages (freePages s p.cur.pages) (match p.old with | some o => o.pages | none => [])
        finishCmd { s with txt := { s.txt with grms := mapErase s.txt.grms key } } c E_OK

/-- Whether sessions or states use the table that an unload names. -/
def tableInUse (s : State) (c : Cmd) : Bool :=
  let key := c.f2 0 32
  if c.f2 32 1 = 0 then
    s.txt.ctxs.any (fun e => e.2.model = key) || s.txt.recs.any (fun e => (grmBound s e.2).any (fun g => g.model == key))
  else s.txt.recs.any (fun e => e.2.table = key)

/-- TABLE_UNLOAD (11 Table 11-10): it takes effect at the finish (06 R127). -/
def startTableUnload (c : Cmd) (_ : List Byte) (s : State) : State :=
  let known := if c.f2 32 1 = 0 then mapHas s.txt.vocabs (c.f2 0 32) else mapHas s.txt.grms (c.f2 0 32)
  if !domPlanLoad s c.dom then refuseTxt s .sec c E_SEC_RIGHT 0
  else if s.stk.phase = .idle || !known || tableInUse s c then tableUnloaded s c
  else stage s (.tableUnload c)

/-! ### Stream contexts and requests (11 R233, R257, R258, R498) -/

def setCtx (s : State) (i : Nat) (x : TxtCtx) : State := { s with txt := { s.txt with ctxs := mapSet s.txt.ctxs i x } }

/-- The lowest free context number, of 4,096 (11 R233). -/
def freeCtx (s : State) : Option Nat := if mapFree s.txt.ctxs < 4096 then some (mapFree s.txt.ctxs) else none

/-- The standalone context that a request names; none where it names none (11 R498). -/
def reqCtx (c : Cmd) : Option Nat :=
  if c.opcode = 0x33 then (if c.f4 0 2 = 1 then none else some (c.f4 16 16))
  else if c.f2 0 16 = 0xFFFF then none else some (c.f2 0 16)

/-- A request joins the waiting ones (11 R498). -/
def waitTxt (s : State) (c : Cmd) (data : List Byte) : State :=
  { s with txt := { s.txt with waiting := s.txt.waiting ++ [{ cmd := c, data := data }] } }

def startTokenize (c : Cmd) (data : List Byte) (s : State) : State :=
  match qpCheck s c.dom (c.f4 32 16) with
  | some e => finishCmd s c e
  | none => waitTxt s c data

def startDetokenize (c : Cmd) (data : List Byte) (s : State) : State :=
  if 2097152 < c.f5 0 32 then refuseTxt s .txt c E_TXT_LONG 0
  else
    match qpCheck s c.dom (c.f4 32 16) with
    | some e => finishCmd s c e
    | none => waitTxt s c data

/-- STREAM of KIND 1 to 3: it waits for the finish (11 R498). -/
def startStreamAllocate (c : Cmd) (_ : List Byte) (s : State) : State := waitTxt s c []
def startStreamFree (c : Cmd) (_ : List Byte) (s : State) : State := waitTxt s c []

def startStreamConfigure (c : Cmd) (data : List Byte) (s : State) : State :=
  if c.f4 32 1 = 1 ∧ c.f7 0 5 ≠ 0 then
    match qpCheck s c.dom (c.f6 32 16) with
    | some e => finishCmd s c e
    | none => waitTxt s c data
  else waitTxt s c data

/-- A stop set takes effect: held bytes that are no proper prefix of a new string are released (11 R246). -/
def setStops (x : TxtCtx) (stops : List (List Byte)) : List Byte × TxtCtx :=
  let h := holdBack stops x.hold
  let out := x.hold.take (x.hold.length - h.length)
  (out, { x with stops := stops, hold := h, offset := x.offset + out.length })

/-- STREAM of KIND 1 to 3 at its finish (11 R258): the completion, and the state. -/
def streamNow (s : State) (c : Cmd) (data : List Byte) : State :=
  if c.f4 33 1 = 1 then refuseTxt s .txt c E_TXT_CTX 0
  else if c.f4 0 2 = 1 then
    if c.f4 32 1 = 1 then refuseTxt s .txt c E_TXT_CTX 0
    else if (vocabOf s (c.f6 0 32)).isNone then refuseTxt s .txt c E_TXT_NOVOCAB 0
    else
      match freeCtx s with
      | none => refuseTxt s .txt c E_TXT_CTX_FULL 0
      | some i => stageDone (setCtx s i { session := none, model := c.f6 0 32 }) { cmd := c, status := E_OK, c0 := i }
  else
    match mapGet s.txt.ctxs (c.f4 16 16) with
    | none => refuseTxt s .txt c E_TXT_CTX 0
    | some x =>
      if x.session.isSome then refuseTxt s .txt c E_TXT_CTX 0
      else if c.f4 0 2 = 2 then
        finishCmd { s with txt := { s.txt with ctxs := mapErase s.txt.ctxs (c.f4 16 16) } } c E_OK
      else
        match (if c.f4 32 1 = 1 then parseStops data (c.f7 0 5) else some x.stops) with
        | none => refuseTxt s .txt c E_STOP_INVALID 0
        | some stops =>
          let (out, x) := if c.f4 32 1 = 1 then setStops x stops else ([], x)
          let (out2, x, r) := if c.f4 34 1 = 1 then flushText x else ([], x, 0)
          finishCmd (cnt (setCtx s (c.f4 16 16) { x with ready := x.ready ++ out ++ out2 }) R.TXT_REPL_OUT r) c E_OK

/-- Whether a request's context has an earlier request outstanding, among the engines' and the earlier waiting ones. -/
def ctxBusy (s : State) (before : List TxtReq) (c : Cmd) : Bool :=
  match reqCtx c with
  | none => false
  | some i =>
    s.txt.engines.any (fun e => reqCtx e.2.cmd == some i) || before.any (fun r => reqCtx r.cmd == some i)

/-- The STREAM requests that take effect at this finish: those at the head of their context's requests (11 R498). -/
def streamsDue (s : State) : List TxtReq → List TxtReq → List TxtReq
  | _, [] => []
  | before, r :: rs =>
    if r.cmd.opcode = 0x33 && !ctxBusy s before r.cmd then r :: streamsDue s (before ++ [r]) rs
    else streamsDue s (before ++ [r]) rs

def streamFinish (s : State) : State :=
  let due := streamsDue s [] s.txt.waiting
  let s := { s with txt := { s.txt with waiting := s.txt.waiting.filter (fun r => !due.contains r) } }
  due.foldl (fun s r => streamNow s r.cmd r.data) s

/-- The oldest waiting request a free engine may take (11 R498), with those before it. -/
def takeable (s : State) : List TxtReq → List TxtReq → Option TxtReq
  | _, [] => none
  | before, r :: rs =>
    if r.cmd.opcode != 0x33 && !ctxBusy s before r.cmd then some r else takeable s (before ++ [r]) rs

/-- The first element equal to a request is removed. -/
def dropReq : List TxtReq → TxtReq → List TxtReq
  | [], _ => []
  | x :: xs, r => if x = r then xs else x :: dropReq xs r

/-- Completion words C0 to C2 of 11 R257. -/
def txtWords (n : Nat) (tb tt full stop et : Bool) (idx used carried repl tok : Nat) : Nat × Nat × Nat :=
  (n % 2 ^ 32 + b2n tb * 2 ^ 32 + b2n tt * 2 ^ 33 + b2n full * 2 ^ 34 + b2n stop * 2 ^ 35 + b2n et * 2 ^ 36 + idx % 16 * 2 ^ 40,
   used % 2 ^ 32 + carried % 2 ^ 16 * 2 ^ 32, repl % 2 ^ 32 + tok % 2 ^ 32 * 2 ^ 32)

/-- The engine's output goes out by RDMA WRITE; a request without output completes at once (11 R498). -/
def engineOut (s : State) (e : Nat) (r : TxtReq) (bytes : List Byte) (w : Nat × Nat × Nat) : State :=
  let d : Done := { cmd := r.cmd, status := E_OK, c0 := w.1, c1 := w.2.1, c2 := w.2.2 }
  if bytes.isEmpty then sendCpl s d
  else
    issueWrite { s with txt := { s.txt with engines := mapSet s.txt.engines e r } } {
      qp := r.cmd.f4 32 16, rkey := r.cmd.f7 0 32, addr := r.cmd.w6.toNat, data := bytes, use := .engine e d }

/-- A refusal by an engine: the completion is sent at once (11 R498). -/
def engineRefuse (s : State) (r : TxtReq) (code : Nat) : State :=
  sendCpl (recordErr s .txt 0 0 code) { cmd := r.cmd, status := code }

/-- The context a TOKENIZE or DETOKENIZE works on: a standalone one, or a fresh one where it names none (11 R257). -/
def engineCtx (s : State) (c : Cmd) : Option TxtCtx :=
  match reqCtx c with
  | none => if c.f2 16 1 = 1 then none else some { session := none, model := c.f2 32 32 }
  | some i => (mapGet s.txt.ctxs i).filter (fun x => x.session.isNone)

def putCtx (s : State) (c : Cmd) (x : TxtCtx) : State := match reqCtx c with | none => s | some i => setCtx s i x

/-- TOKENIZE on an engine (11 R237 to R242, R257). -/
def runTokenize (s : State) (e : Nat) (r : TxtReq) : State :=
  match engineCtx s r.cmd with
  | none => engineRefuse s r E_TXT_CTX
  | some x =>
    match vocabOf s x.model with
    | none => engineRefuse s r E_TXT_NOVOCAB
    | some v =>
      let o := tokenizeText v x.pieceCarry x.inCarry (r.data.take (r.cmd.f5 0 32)) (r.cmd.f2 16 1 = 1) (r.cmd.f2 17 1 = 1)
        4194304 (min (r.cmd.f7 32 32) 2097152)
      let s := cacheUse s
      let s := cnt (cnt s R.TXT_IN_BYTES o.used) R.TXT_REPL_IN o.repl
      let s := cnt (cnt s R.TXT_TRUNC_BYTES (b2n o.truncBytes)) R.TXT_TRUNC_TOKENS (b2n o.truncToks)
      let s := if o.truncBytes || o.truncToks then raiseBit s .txt 0 4 .plain else s
      let s := putCtx s r.cmd { x with inCarry := o.inCarry, pieceCarry := o.pieceCarry }
      engineOut s e r (packFields 4 o.ids)
        (txtWords o.ids.length o.truncBytes o.truncToks false false false 0 o.used (o.inCarry.length + o.pieceCarry.length) o.repl 0)

/-- The whole characters of a text that fit `room` bytes (11 R257). -/
def fitChars (room : Nat) (bs : List Byte) : List Byte :=
  if bs.length ≤ room then bs else bs.take (cutAt room bs)

/-- DETOKENIZE on an engine (11 R244 to R248, R257). -/
def runDetokenize (s : State) (e : Nat) (r : TxtReq) : State :=
  match engineCtx s r.cmd with
  | none => engineRefuse s r E_TXT_CTX
  | some x =>
    match vocabOf s x.model with
    | none => engineRefuse s r E_TXT_NOVOCAB
    | some v =>
      let ids := fieldsAt 4 r.data 0 (min (r.cmd.f5 0 32) (r.data.length / 4))
      let o := detokenize v x ids
      let (tail, y, k) := if r.cmd.f2 16 1 = 1 then ([], o.ctx, 0) else flushText o.ctx
      let all := x.ready ++ o.text ++ tail
      let out := fitChars (r.cmd.f7 32 32) all
      let full := decide (out.length < all.length)
      let repl := o.repl + k
      let s := cacheUse s
      let s := cnt s R.TXT_REPL_OUT repl
      let s := cnt (cnt s R.TXT_REPORT_STOPS (b2n o.stop.isSome)) R.TXT_REPORT_END_TURN (b2n o.endTurn.isSome)
      let y := { y with ready := all.drop out.length }
      let s := putCtx s r.cmd y
      engineOut s e r out
        (txtWords out.length false false full o.stop.isSome o.endTurn.isSome (match o.stop with | some (i, _) => i | none => 0)
          ids.length (y.pend.length + y.hold.length + y.ready.length) repl
          (match o.stop, o.endTurn with | some (_, t), _ => t | none, some t => t | none, none => 0))

/-- STREAM_ENGINE_TAKE (11 R498): a free stream engine takes the oldest waiting request whose context has no earlier one. -/
def engineTake (s : State) (e : Nat) : State :=
  if mapHas s.txt.engines e then s
  else
    match takeable s [] s.txt.waiting with
    | none => s
    | some r =>
      let s := { s with txt := { s.txt with waiting := dropReq s.txt.waiting r } }
      if r.cmd.opcode = 0x34 then runTokenize s e r else runDetokenize s e r

/-! ### What sessions ask (11 R233, R244, R248, R252 to R254) -/

/-- A lowest free grammar state record, of 262,144 (11 R253). -/
def freeRec (s : State) : Option Nat := if mapFree s.txt.recs < 262144 then some (mapFree s.txt.recs) else none

/-- Why an OPEN with `TEXT` or a grammar table is refused (11 R233, R236, Table 11-13). -/
def openTextCode (s : State) (model : Nat) (text : Bool) (table : Nat) : Option Nat :=
  if !text && table == 0xFFFF then none
  else if (vocabOf s model).isNone then some E_TXT_NOVOCAB
  else if table != 0xFFFF && !(grmOf s table).any (fun g => g.model == model) then some E_TXT_NOVOCAB
  else if (freeCtx s).isNone || (table != 0xFFFF && (freeRec s).isNone) then some E_TXT_CTX_FULL
  else none

/-- The page of the grammar state store that holds a record changes (11 R253, 03 R58). -/
def touchRec (s : State) (i : Nat) : State :=
  if s.txt.grmBase = 0 then s
  else updPte s (s.txt.grmBase + i / 128) (fun e => { e with ver := (e.ver + 1) % 2 ^ 32, committed := true, lastWrite := s.stk.number })

def setRec (s : State) (i : Nat) (r : GrmRec) : State :=
  touchRec { s with txt := { s.txt with recs := mapSet s.txt.recs i r } } i

/-- A session's record is reset to `START` of the current version (11 R254). -/
def grmReset (s : State) (i : Nat) : State :=
  match mapGet s.txt.recs i with
  | none => s
  | some r =>
    match grmOf s r.table with
    | none => s
    | some g => setRec s i { r with version := g.version, st := g.start, stack := [], rejected := false }

/-- A context and a record for a new session (11 R233, R254); answers `D10.TEXT_CTX` and `D10.GRM_STATE`. -/
def openText (s : State) (sid model : Nat) (text : Bool) (table : Nat) : Nat × Nat × State :=
  if !text && table == 0xFFFF then (0xFFFF, 0, s)
  else
    let i := mapFree s.txt.ctxs
    let s := setCtx s i { session := some sid, model := model }
    if table = 0xFFFF then (i, 0, s)
    else
      let k := mapFree s.txt.recs
      let s := setRec s k { session := sid, table := table, version := 0, st := 0 }
      (i, k, grmReset s k)

/-- The configurations of a record. -/
def recCfg (r : GrmRec) : GrmCfg := { st := r.st, stack := r.stack, rejected := r.rejected }

/-- Configurations before each token and after the last one, from a starting one (11 R253). -/
def cfgRun (g : Grm) (v : Vocab) (c : GrmCfg) : List Nat → List GrmCfg
  | [] => [c]
  | t :: ts => c :: cfgRun g v (grmAdvance g v c t) ts

/-- Whether each token stands in the mask of the configuration that precedes it (11 R253). -/
def grmPasses (g : Grm) (v : Vocab) (c : GrmCfg) : List Nat → Bool
  | [] => true
  | t :: ts => maskBit g v c t && grmPasses g v (grmAdvance g v c t) ts

/-- Committed output tokens advance the session's record (11 R253). -/
def grmCommit (s : State) (i : Nat) (ids : List Nat) : State :=
  match mapGet s.txt.recs i with
  | none => s
  | some r =>
    match grmBound s r with
    | none => s
    | some g =>
      match vocabOf s g.model with
      | none => s
      | some v =>
        let c := ids.foldl (grmAdvance g v) (recCfg r)
        let s := setRec s i { r with st := c.st, stack := c.stack, rejected := c.rejected }
        if c.rejected && !r.rejected then raiseBit (cnt s R.GRM_REJECT_STATES 1) .grm 0 4 .plain else s

/-- A text record (11 Table 11-6) and its padded bytes. -/
def textRecord (sid gen epoch offset position repl : Nat) (text : List Byte) (stop : Option Nat) (endTurn closed : Bool) : List Byte :=
  let j0 := sid % 2 ^ 24 + gen % 256 * 2 ^ 24 + text.length % 2 ^ 16 * 2 ^ 32 + b2n stop.isSome * 2 ^ 48 + b2n endTurn * 2 ^ 49 +
    b2n closed * 2 ^ 50 + (stop.getD 0) % 16 * 2 ^ 52
  let body := leBytes 8 j0 ++ leBytes 8 epoch ++ leBytes 8 offset ++ leBytes 8 (position % 2 ^ 32 + repl % 2 ^ 32 * 2 ^ 32) ++ text
  body ++ List.replicate ((8 - body.length % 8) % 8) 0

/-- A stream record is queued for the association that owns the queue of a command (15 R348). -/
def sendStream (s : State) (c : Cmd) (kind : Nat) (body : List Byte) : State :=
  { s with out := { s.out with streams := s.out.streams ++ [{ dom := c.dom, queue := c.queue, kind := kind, body := body }] } }

/-- Tokens committed through STEP are detokenized (11 R244 to R249): the text record of the commit, and whether a report sends the
session to WAITING. `first` is the position of the first of the tokens. -/
def detokCommit (s : State) (ctx sid gen epoch first : Nat) (c : Cmd) (ids : List Nat) : Bool × State :=
  match mapGet s.txt.ctxs ctx with
  | none => (false, s)
  | some x =>
    match vocabOf s x.model with
    | none => (false, s)
    | some v =>
      let o := detokenize v x ids
      let s := setCtx (cacheUse s) ctx o.ctx
      let s := cnt s R.TXT_REPL_OUT o.repl
      let s := cnt (cnt s R.TXT_REPORT_STOPS (b2n o.stop.isSome)) R.TXT_REPORT_END_TURN (b2n o.endTurn.isSome)
      let last := match o.stop, o.endTurn with
        | some (_, t), _ => t
        | none, some t => t
        | none, none => ids.length - 1
      let s := if o.text.isEmpty && o.stop.isNone && o.endTurn.isNone then s
        else sendStream s c 2 (textRecord sid gen epoch x.offset (first + last) o.shown o.text (o.stop.map (·.1)) o.endTurn.isSome false)
      (o.stop.isSome || o.endTurn.isSome, s)

/-- RELEASE flushes a session's context in a final record with `CLOSED` set, and the context and the record are freed (11 R233,
R248). -/
def closeText (s : State) (ctx grmRec sid gen epoch position : Nat) (hasGrm : Bool) (c : Cmd) : State :=
  match mapGet s.txt.ctxs ctx with
  | none => s
  | some x =>
    let (out, _, r) := flushText x
    let s := sendStream (cnt s R.TXT_REPL_OUT r) c 2 (textRecord sid gen epoch x.offset position r out none false true)
    let s := { s with txt := { s.txt with ctxs := mapErase s.txt.ctxs ctx, masks := mapErase s.txt.masks sid } }
    if hasGrm then { s with txt := { s.txt with recs := mapErase s.txt.recs grmRec } } else s

/-- STREAM KIND 0 at its commit (11 R246, R254, R258): the stop set, the grammar reset and the flush, with one text record where
bytes are released. -/
def streamCommit (s : State) (ctx : Nat) (grmRec : Option Nat) (sid gen epoch position : Nat) (c : Cmd) (stops : Option (List (List Byte))) : State :=
  match mapGet s.txt.ctxs ctx with
  | none => s
  | some x =>
    let (out, y) := match stops with | some ss => setStops x ss | none => ([], x)
    let (out2, y, r) := if c.f4 34 1 = 1 then flushText y else ([], y, 0)
    let s := cnt (setCtx s ctx y) R.TXT_REPL_OUT r
    let s := if (out ++ out2).isEmpty then s
      else sendStream s c 2 (textRecord sid gen epoch x.offset position r (out ++ out2) none false false)
    match grmRec with
    | some i => if c.f4 33 1 = 1 then grmReset s i else s
    | none => s

/-! ### Masks of rated positions (11 R252, R253) -/

/-- A mask that the grammar engine builds for an index, unless it is built already. -/
def maskPut (s : State) (sid idx ns : Nat) (m : List Bool) : State :=
  let ms := (mapGet s.txt.masks sid).getD []
  let (i, s) := nextFree s
  let total := ns + 1200 * (Config.freeWord i).toNat
  { s with txt := { s.txt with
      masks := mapSet s.txt.masks sid (ms.filter (fun x => x.idx != idx) ++ [{ idx := idx, mask := m }])
      maskNs := max s.txt.maskNs total } }

/-- Whether the masks of indices below n are built. -/
def masksReady (s : State) (sid n : Nat) : Bool :=
  (List.range n).all (fun i => ((mapGet s.txt.masks sid).getD []).any (fun m => m.idx == i))

/-- The figures of the `TXT` and `GRM` pages at a finish (11 R261, R262). -/
def textFinish (s : State) : State :=
  let s := wrF s R.TXT_CTX_USED s.txt.ctxs.length
  let s := wrF s R.TXT_CTX_SESSIONS (s.txt.ctxs.filter (fun e => e.2.session.isSome)).length
  let s := wrF s R.GRM_STORE_USED s.txt.recs.length
  let s := wrF s R.GRM_MASK_LAST_NS s.txt.maskNs
  let s := if rdF s R.GRM_MASK_PEAK_NS < s.txt.maskNs then wrF s R.GRM_MASK_PEAK_NS s.txt.maskNs else s
  { s with txt := { s.txt with maskNs := 0 } }

end Sys2Proof.Machine
end

