-- ==== Sys2Proof/Machine/SesBase.lean ====
section
/-! DEFINITION. What session commands and commits share (03_sessions_and_epochs.md): looking sessions up, result words, limits,
durability, pages of a session, and the tally of metered commits (19_umpire.md R406). -/

namespace Sys2Proof.Machine

/-! ### Sessions -/

def setSes (s : State) (sid : Nat) (x : Ses) : State := { s with ses := { s.ses with tab := mapSet s.ses.tab sid x } }

def updSes (s : State) (sid : Nat) (f : Ses → Ses) : State := { s with ses := { s.ses with tab := mapUpd s.ses.tab sid f } }

/-- The words D0 to D15 (03 Table 03-1). -/
def Desc.words (d : Desc) : List Nat :=
  [d.session % 2 ^ 24 + d.gen % 2 ^ 8 * 2 ^ 24 + d.st.code * 2 ^ 32 + b2n d.moving * 2 ^ 40 + b2n d.reviving * 2 ^ 41 +
     b2n d.trailing * 2 ^ 42 + b2n d.pinH * 2 ^ 43 + b2n d.pinF * 2 ^ 44 + b2n d.importing * 2 ^ 45 + b2n d.damaged * 2 ^ 46 +
     d.tenant % 2 ^ 12 * 2 ^ 48 + d.owner % 2 ^ 4 * 2 ^ 60,
   d.model % 2 ^ 32 + d.crew % 2 ^ 16 * 2 ^ 32 + d.domains % 2 ^ 16 * 2 ^ 48,
   d.epoch, d.sealedEpoch, d.remoteEpoch,
   d.positions % 2 ^ 32 + d.prov % 2 ^ 3 * 2 ^ 32 + d.attPolicy % 2 ^ 4 * 2 ^ 36 + d.durDefault % 2 ^ 2 * 2 ^ 40,
   d.pageRoot, d.priv % 2 ^ 32 + d.shared % 2 ^ 32 * 2 ^ 32,
   d.prefixNode % 2 ^ 32 + d.parent % 2 ^ 32 * 2 ^ 32, d.parentEpoch,
   d.textCtx % 2 ^ 16 + d.grmTable % 2 ^ 16 * 2 ^ 16 + d.grmState % 2 ^ 32 * 2 ^ 32,
   d.lastStroke, d.openTime, d.steps % 2 ^ 32 + d.idle % 2 ^ 32 * 2 ^ 32, d.meterId, 0]

/-- The domains of a mask (03 R64). -/
def maskDoms (m : Nat) : List Nat := onesOf 16 m

/-- A session event (03 R64): session and generation, and the epoch. -/
def sesEvent (s : State) (code : Nat) (d : Desc) : State :=
  sendEvent s (pageOf .ses 0) code [d.session % 2 ^ 24 + d.gen % 256 * 2 ^ 24, d.epoch] (maskDoms d.domains)

/-! ### Pages of a session -/

/-- P, the positions of a page span. -/
def Ses.span (x : Ses) : Nat := 2 ^ x.log2p

/-- The key of span s, layer l in the page list (05 R91). -/
def Ses.plKey (x : Ses) (sp l : Nat) : Nat := sp * x.layers + l

/-- The SAS pages of a session's page list, shared ones included, and the private ones. -/
def Ses.pages (x : Ses) : List Nat := x.pl.map (·.2.page)
def Ses.privPages (x : Ses) : List Nat := (x.pl.filter (fun e => !e.2.shared)).map (·.2.page)

/-- The pages of the first `n` positions' spans. -/
def Ses.pagesBelow (x : Ses) (n : Nat) : List Nat :=
  (x.pl.filter (fun e => e.1 < ceilDiv n x.span * x.layers)).map (·.2.page)

/-- Pages that a page list with room for `cap` spans takes (05 R91), and those of its coarse index (10 R220). -/
def listPages (cap layers : Nat) : Nat := ceilDiv (64 + 4 * cap * layers) 65536
def indexBytes (h : PlanHdr) : Nat := 2 * h.kvHeads * (32 * 2 ^ h.log2d)
def indexPages (cap : Nat) (h : PlanHdr) : Nat := ceilDiv (cap * h.layers * indexBytes h) 65536

/-- The spans a session's page list has room for (05 Table 05-2). -/
def capOf (h : PlanHdr) : Nat := ceilDiv h.ctxLimit (2 ^ h.log2p)

/-- The SAS pages that OPEN takes: the page list with its header (05 R91) and the room of the coarse index (10 R220). -/
def openPages (h : PlanHdr) : Nat := listPages (capOf h) h.layers + indexPages (capOf h) h

/-- The SAS ranges of all page lists, those of sessions that a finish will bring included, sorted. -/
def listRanges (s : State) : List (Nat × Nat) :=
  sortBy (fun a b => a.1 ≤ b.1) (s.ses.tab.map (fun e => (e.2.d.pageRoot / 65536, e.2.sumPages)) ++
    s.stk.commits.filterMap (fun k => match k with
      | .openSes _ x _ => some (x.d.pageRoot / 65536, x.sumPages)
      | .fork _ _ root cap _ => some (root, cap.sumPages)
      | _ => none) ++
    (s.ckp.restores.map (fun (e : Nat × RestoreJob) => e.2.sess.filterMap (fun r =>
      if r.charged && !r.up then (planOf s r.model).map (fun p => (r.root, openPages p.hdr)) else none))).flatten)

/-- Where a new page list begins. -/
def newListAt (s : State) (n : Nat) : Nat := runAmong n (listRanges s) (2 ^ 29)

/-- Pages given to the SAS numbers from `base` on. -/
def placePages (s : State) (base n tenant cls : Nat) (committed : Bool) : Option State :=
  match allocFrames s tenant 0 n with
  | none => none
  | some fs => some (((List.range n).zip fs).foldl (fun s (i, f) => newPage s (base + i) f tenant cls committed) s)

/-- The pages of a session's page list that hold its header or the entries of some keys, all of them, and the whole SAS range that the list and its index hold, where a page stands. -/
def Ses.listAt (x : Ses) (keys : List Nat) : List Nat :=
  ((0 :: keys.map (fun k => (64 + 4 * k) / 65536)).eraseDups).map (x.d.pageRoot / 65536 + ·)
def Ses.listOf (x : Ses) : List Nat := (List.range (listPages x.capSpans x.layers)).map (x.d.pageRoot / 65536 + ·)
def rootPages (s : State) (x : Ses) : List Nat :=
  ((List.range x.sumPages).map (x.d.pageRoot / 65536 + ·)).filter (fun p => (pteOf s p).isSome)

/-- The index pages that the entries of `full` spans need and that have no frame yet (10 R220). -/
def freshIndex (s : State) (x : Ses) (h : PlanHdr) (full : Nat) : List Nat :=
  ((List.range (ceilDiv (full * x.layers * indexBytes h) 65536)).map
    (x.d.pageRoot / 65536 + listPages x.capSpans x.layers + ·)).filter (fun p => (pteOf s p).isNone)

/-- Index pages get frames as spans fill, charged as page-list pages are (10 R220). -/
def placeIndex (s : State) (tenant : Nat) (ps : List Nat) : Option State :=
  match allocFrames s tenant 0 ps.length with
  | none => none
  | some fs => some ((ps.zip fs).foldl (fun s (p, f) => newPage s p f tenant 3 false) s)

/-- The half-banks that hold A of a session's pages that one leg reads (09 R203): further pages of it are placed elsewhere, as far as free
frames allow. -/
def crowdedHbs (s : State) (x : Ses) : List Nat :=
  match planOf s x.d.model with
  | none => []
  | some p =>
    let legOf := fun (layer : Nat) => (p.att.find? (fun t => t.layer = layer)).elim 0 (·.leg)
    let at_ := x.pl.filterMap (fun e => (pteOf s e.2.page).bind (fun y =>
      if y.h then some (legOf (e.1 % max 1 x.layers) * 2 ^ 17 + frameHb y.hFrame) else none))
    ((at_.eraseDups.filter (fun k => decide (p.hdr.kvPerBlade ≤ (at_.filter (· == k)).length))).map (· % 2 ^ 17)).eraseDups

/-- The half-banks that a page's copy avoids: those crowded by the sessions that hold it. -/
def pageAvoids (s : State) (p : Nat) : List Nat :=
  ((mapVals s.ses.tab).filter (fun x => x.pl.any (fun e => e.2.page = p))).flatMap (crowdedHbs s)

/-- Whether every page of a list has a Tier H copy whose frame is not being rewritten (21 R449). -/
def allInH (s : State) (ps : List Nat) : Bool := ps.all (fun p => (pteOf s p).any (·.h) && !s.flt.repairs.contains p)

/-- The pages of a list without a Tier H copy. -/
def notInH (s : State) (ps : List Nat) : List Nat := ps.filter (fun p => (pteOf s p).any (fun e => !e.h))

/-- Whether a page's sealed copy in Tier F is current (05 R93). -/
def sealedNow (s : State) (p : Nat) : Bool := (pteOf s p).any (fun e => e.f && (!e.h || e.fVer == e.ver))

/-! ### Result words and completions (03 R47, R58) -/

/-- The durability class a command asks for (03 Table 03-3): write-through turns ACK into SEALED (03 R58). -/
def durAsked (s : State) (c : Cmd) (d : Desc) : Nat :=
  let k := if c.f2 34 1 = 1 then d.durDefault else c.f2 32 2
  if holdupState s = 3 ∧ k = 0 then 1 else k

/-- Whether the device vouches: not while the hold-up test has failed (03 R58). -/
def durable (s : State) : Bool := holdupState s != 4

/-- Whether an epoch of a session has reached a class, as Table 03-7 states it. -/
def durMet (d : Desc) (cls epoch : Nat) : Bool :=
  cls == 0 || (cls == 1 && decide (epoch ≤ d.sealedEpoch)) || (cls == 2 && decide (epoch ≤ d.remoteEpoch))

/-- The highest class that an epoch has reached; an epoch register of 0 names none (03 Table 03-1). -/
def durReached (d : Desc) (epoch : Nat) : Nat :=
  if epoch ≤ d.remoteEpoch ∧ d.remoteEpoch ≠ 0 then 2 else if epoch ≤ d.sealedEpoch ∧ d.sealedEpoch ≠ 0 then 1 else 0

/-- A successful session command completes, or waits for its class (03 R58). -/
def completeSes (s : State) (sid : Nat) (c : Cmd) (aux aux2 : Nat) : State :=
  match sesOf s sid with
  | none => finishCmd s c E_OK
  | some x =>
    let want := durAsked s c x.d
    if durMet x.d want x.d.epoch then
      stageDone s {
        cmd := c, status := E_OK, c0 := sesWords x.d want (durable s), c1 := x.d.epoch,
        c2 := x.d.positions % 2 ^ 32 + aux % 2 ^ 32 * 2 ^ 32, c3 := aux2 }
    else
      let s := updSes s sid (fun x => { x with durWaits := x.durWaits ++ [{
        cmd := c, cls := want, epoch := x.d.epoch, positions := x.d.positions, aux := aux, aux2 := aux2 }] })
      if want = 2 then { s with ckp := { s.ckp with remote := s.ckp.remote ++ [(x.d.tenant, sid)] } } else s

/-- The completion of a waiting command with the class reached, the epoch that it reports and `POSITIONS` at that epoch (03 R58). -/
def waitDone (s : State) (d : Desc) (w : DurWait) (dur epoch positions : Nat) : State :=
  stageDone s {
    cmd := w.cmd, status := E_OK, c0 := sesWords d dur (durable s), c1 := epoch,
    c2 := positions % 2 ^ 32 + w.aux % 2 ^ 32 * 2 ^ 32, c3 := w.aux2 }

/-- The epoch that arrived for a waiting command, and `POSITIONS` there: its own, or the later one that superseded it (03 R58). SEALED_EPOCH
is only ever raised to the latest epoch (R58), and a record's positions stand beside its REMOTE_EPOCH. -/
def arrivedAt (x : Ses) (w : DurWait) : Nat × Nat :=
  if w.cls = 2 then (if x.d.remoteEpoch ≤ w.epoch then (w.epoch, w.positions) else (x.d.remoteEpoch, x.remotePos))
  else if x.d.sealedEpoch ≤ w.epoch then (w.epoch, w.positions) else (x.d.sealedEpoch, x.d.positions)

/-! ### The tally link's device side (19 R404, R406) -/

/-- Whether metered commits may take effect: the Umpire is running and the link is up (19 R406). -/
def umpUp (s : State) : Bool := s.ump.run == .running && s.ump.link

/-- A tally record of this finish. -/
def tally (s : State) (r : TallyRec) : State := { s with ump := { s.ump with recs := s.ump.recs ++ [r] } }

/-- The handle of a new meter record (03 Table 03-1, `D14.METER_ID`): a count, and the tenant whose receipts the record belongs to, which
no tally record names otherwise (notes/assumptions/40.md). -/
def newMeter (s : State) (tenant : Nat) : Nat × State :=
  (s.ump.nextMeter * 4096 + tenant, { s with ump := { s.ump with nextMeter := s.ump.nextMeter + 1 } })

/-- A record of one kind for a session. -/
def sesTally (x : Ses) (kind : Nat) : TallyRec :=
  { session := x.d.session, gen := x.d.gen, kind := kind, text := x.d.textCtx != 0xFFFF, meter := x.d.meterId }

/-! ### The journal (18 R396) -/

/-- Changed words of the system region are appended to the journal; answers the place behind them. -/
def journal (s : State) (bytes : Nat) : State := { s with pwr := { s.pwr with tailIn := s.pwr.tailIn + bytes } }

/-- A session's descriptor or stream state changed at this finish: 128 B of descriptor in the journal. -/
def markJournal (s : State) (sid : Nat) : State :=
  let s := journal s 128
  updSes s sid (fun x => { x with jmark := s.pwr.tailIn })

/-! ### Limits (03 R36) -/

/-- Whether the command brings its session among the ACTIVE and WAITING ones (03 R36). -/
def bringsLive (x : Ses) (c : Cmd) : Bool :=
  ((c.opcode = 0x12 || c.opcode = 0x13) && x.d.st == .opened) || (c.opcode = 0x11 && c.f4 0 2 = 1 && x.d.st == .opened) ||
    (c.opcode = 0x15 && x.d.st == .parked)

/-- Whether a FORK's child is OPEN, and whether it is WAITING (03 R56). -/
def childOpen (x : Ses) : Bool := x.d.st == .opened
def childLive (x : Ses) : Bool := x.d.st == .active || x.d.st == .waiting

/-- What a standing head, waiting for quota or not, adds to the sessions OPEN and to those ACTIVE or WAITING: its checks are passed (03 R36,
R496), so its increase counts. -/
def headAdds (x : Ses) : Nat × Nat :=
  match x.head with
  | none => (0, 0)
  | some r => if r.cmd.opcode = 0x16 then (b2n (childOpen x), b2n (childLive x)) else (0, b2n (bringsLive x r.cmd))

/-- What a staged commit adds to them. -/
def commitAdds : Commit → Nat × Nat
  | .openSes _ _ _ => (1, 0)
  | .fork _ _ _ cap _ => (b2n (childOpen cap), b2n (childLive cap))
  | _ => (0, 0)

/-- The sessions OPEN, and those ACTIVE or WAITING, with every increase that commands admitted so far will bring (03 R36); an `OPEN` that
waits for quota has passed its checks. -/
def openCount (s : State) : Nat :=
  (s.ses.tab.filter (fun e => e.2.d.st == .opened)).length + sumOf (s.stk.commits.map (fun k => (commitAdds k).1)) +
    sumOf (s.ses.tab.map (fun e => (headAdds e.2).1)) + (s.ses.opens.filter (fun w => 0 < w.waited)).length

def liveCount (s : State) : Nat :=
  (s.ses.tab.filter (fun e => e.2.d.st == .active || e.2.d.st == .waiting)).length +
    sumOf (s.stk.commits.map (fun k => (commitAdds k).2)) + sumOf (s.ses.tab.map (fun e => (headAdds e.2).2))

/-- Session IDs that staged commits and restores will take. -/
def stagedSids (s : State) : List Nat :=
  s.stk.commits.filterMap (fun k => match k with | .openSes sid _ _ => some sid | .fork _ ch _ _ _ => some ch | _ => none) ++
    (s.ckp.restores.map (fun (e : Nat × RestoreJob) => e.2.sess.filterMap (fun r => if r.charged && !r.up then some r.newSid else none))).flatten

/-- The lowest free Session ID above 0, so that a `D8.PARENT` of 0 names no parent; ID 0 comes last (03 R36; notes/assumptions/8.md). -/
def freeSid (s : State) : Option Nat :=
  let used := (stagedSids s).foldl setAdd (mapKeys s.ses.tab)
  let i := setFreeFrom used 1
  if i < 2 ^ 24 then some i else if used.contains 0 then none else some 0

/-- The generation that the next use of a Session ID takes. -/
def nextGen (s : State) (sid : Nat) : Nat := (mapGet s.ses.gens sid).getD 0

/-! ### Dirty reservations (05 R100) -/

/-- Pages of a list that a write or commit may make dirty: those with no dirty state yet. -/
def mayDirty (s : State) (ps : List Nat) : Nat := (ps.filter (fun p => (pteOf s p).any (fun e => !e.dirty))).length

/-- The reservations of units admitted in this stroke: charges held by sessions count their pages once they are written, so the
units granted since the catch are counted by what they may yet make dirty (kept in `tier.dirtyRes`). -/
def dirtyFits (s : State) (n : Nat) : Bool :=
  decide (s.pwr.tailIn - s.pwr.tailOut ≤ 2 ^ 26) &&
    (holdupState s = 4 || decide (dirtyPages s + s.tier.dirtyRes + n ≤ budgetPages s))

def dirtyReserve (s : State) (n : Nat) : State := { s with tier := { s.tier with dirtyRes := s.tier.dirtyRes + n } }

/-- A deferral by R100: counted, and `HOLD` raised at the first one after a stroke without (05 R100, R116). -/
def dirtyDefer (s : State) : State :=
  let s := cnt s R.TIER_HOLD_COUNT 1
  let s := if s.tier.heldBefore || s.tier.heldNow then s else raiseBit s .tier 0 4 .plain
  { s with tier := { s.tier with heldNow := true } }

end Sys2Proof.Machine
end

