-- ==== Sys2Proof/Machine/CkpBase.lean ====
section
/-! DEFINITION. Capturing a session for a checkpoint or an export (17_checkpoints.md R373 to R375, R379, R380). -/

namespace Sys2Proof.Machine

/-- A byte string cut or padded with zeros to n bytes. -/
def padTo (n : Nat) (bs : List Byte) : List Byte := bs.take n ++ List.replicate (n - bs.length) 0

/-- The 512-byte grammar state record (11 R253): the spec gives its size and contents; the places are the model's
(notes/assumptions/18.md). -/
def grmRecBytes (r : GrmRec) : List Byte :=
  padTo 512 (leBytes 2 r.table ++ leBytes 2 r.version ++ leBytes 2 r.st ++ leBytes 1 (b2n r.rejected) ++ leBytes 1 r.stack.length ++
    packFields 2 r.stack)

/-- A grammar record read back from those bytes. -/
def grmOfBytes (sid : Nat) (bs : List Byte) : GrmRec :=
  { session := sid, table := u16 bs 0, version := u16 bs 2, st := u16 bs 4, rejected := u8 bs 6 % 2 = 1,
    stack := fieldsAt 2 bs 8 (u8 bs 7) }

/-- The stream context state of 17 Table 17-4a, 2,304 bytes. -/
def txtBytes (x : TxtCtx) : List Byte :=
  padTo 24 (leBytes 4 x.model ++ leBytes 1 x.inCarry.length ++ leBytes 1 x.pend.length ++ leBytes 1 x.hold.length ++
      leBytes 1 x.stops.length ++ leBytes 8 x.offset ++ leBytes 2 x.pieceCarry.length) ++
    padTo 4 x.inCarry ++ padTo 4 x.pend ++ padTo 64 x.hold ++ padTo 1024 x.pieceCarry ++
    padTo 1152 ((x.stops.map (fun p => padTo 72 (leBytes 1 p.length ++ List.replicate 7 0 ++ p))).flatten) ++ List.replicate 32 0

/-- A stream context read back from those bytes. -/
def txtOfBytes (sid : Nat) (bs : List Byte) : TxtCtx :=
  { session := some sid, model := u32 bs 0, inCarry := bytesAt bs 24 (u8 bs 4), pend := bytesAt bs 28 (u8 bs 5),
    hold := bytesAt bs 32 (u8 bs 6), offset := u64 bs 8, pieceCarry := bytesAt bs 96 (u16 bs 16),
    stops := (List.range (u8 bs 7)).map (fun i => bytesAt bs (1120 + 72 * i + 8) (u8 bs (1120 + 72 * i))) }

/-- Whether a tenant has an enabled target (17 R372). -/
def ckpEnabled (s : State) (t : Nat) : Bool := rdB s R.CKP_TGT0_ENABLE t == 1

def ckpTgt (s : State) (t : Nat) : CkpTgt := (mapGet s.ckp.tgts t).getD {}

def setTgt (s : State) (t : Nat) (x : CkpTgt) : State := { s with ckp := { s.ckp with tgts := mapSet s.ckp.tgts t x } }

/-- The key under which a session's base is kept: its Session ID and generation. -/
def baseKey (sid gen : Nat) : Nat := gen * 2 ^ 24 + sid

/-- The record of a session as captured at a binding catch (17 R373, R375): differential where it has a base whose chain is short
enough and `full` is clear. -/
def captureRec (s : State) (sid : Nat) (x : Ses) (full : Bool) : CkpRec :=
  let base := mapGet (ckpTgt s x.d.tenant).bases (baseKey sid x.d.gen)
  let useBase := match base with
    | some b => if !full && decide (b.depth < rdF s R.CKP_CFG_CHAIN_MAX) then some b else none
    | none => none
  let first := match useBase with | some b => b.positions / x.span | none => 0
  let last := ceilDiv x.d.positions x.span
  let ps := (x.pl.filter (fun e => first * x.layers ≤ e.1 && e.1 < last * x.layers)).map (fun e => (e.2.page, e.2.shared))
  { sid := sid, gen := x.d.gen, epoch := x.d.epoch, diff := useBase.isSome,
    depth := match useBase with | some b => b.depth + 1 | none => 0
    baseCkpt := match useBase with | some b => b.ckpt | none => 0
    basePos := match useBase with | some b => b.positions | none => 0
    positions := x.d.positions, desc := x.d.words
    grm := match mapGet s.txt.recs x.d.grmState with
      | some r => if r.session = sid && x.d.grmTable != 0xFFFF then grmRecBytes r else List.replicate 512 0
      | none => List.replicate 512 0
    txt := match mapGet s.txt.ctxs x.d.textCtx with | some t => txtBytes t | none => List.replicate 2304 0
    first := first, layers := x.layers, log2p := x.log2p, pages := ps }

/-- The checkpoint key of a tenant, if it holds one (20 R432). -/
def ckpHasKey (s : State) (t : Nat) : Bool := ((mapGet s.sec.ckeys t).getD {}).cur.isSome

def jobOf (s : State) (i : Nat) : Option CkpJob := mapGet s.ckp.jobs i

def updJob (s : State) (i : Nat) (f : CkpJob → CkpJob) : State :=
  { s with ckp := { s.ckp with jobs := mapUpd s.ckp.jobs i f } }

/-- A job joins the others in order of arrival. -/
def addJob (s : State) (j : CkpJob) : State :=
  { s with ckp := { s.ckp with jobs := mapSet s.ckp.jobs s.ckp.nextJob j, nextJob := s.ckp.nextJob + 1 } }

/-- Pages that a captured record needs join the job's Mover entry; a page already read for it is not read again. -/
def wantPages (s : State) (j : CkpJob) (ps : List Nat) : State :=
  match j.op with
  | none => s
  | some op => updOp s op (fun o => { o with
      todo := o.todo ++ ps.eraseDups.filter (fun p => !o.todo.contains p && !o.flying.contains p && !mapHas o.got p) })

/-- A session leaves the jobs that still need it (17 R373: released before its record is written); bases go with their session. -/
def leaveJobs (s : State) (sid gen tenant : Nat) : State :=
  let k := (sid, gen)
  let s := { s with ckp := { s.ckp with jobs := mapAll s.ckp.jobs (fun _ j =>
    if j.isExport || j.manifest || !(j.toBind.contains k || j.recs.any (fun r => (r.sid, r.gen) == k)) then j
    else { j with
      toBind := j.toBind.filter (· != k)
      recs := j.recs.filter (fun r => (r.sid, r.gen) != k)
      skipped := j.skipped + 1 }) } }
  if mapHas s.ckp.tgts tenant then
    let x := ckpTgt s tenant
    setTgt s tenant { x with bases := mapErase x.bases (baseKey sid gen) }
  else s

/-- A page that stands in Tier N only (05 Table 05-1, `N`). -/
def lazyPage (s : State) (p : Nat) : Bool := (pteOf s p).any (fun e => e.n && !e.h && !e.f)

end Sys2Proof.Machine
end

