-- ==== Sys2Proof/Machine/SesCmd.lean ====
section
/-! DEFINITION. Session commands up to their commit (03_sessions_and_epochs.md R43 to R60, R496): the order of each session, the
checks at its head, and binding. -/

namespace Sys2Proof.Machine

/-! ### Plans, crews and modes that commands ask about -/

/-- The Rigging image in force (20 R429). -/
def rigNow (s : State) : Option Rigging := s.sec.rigs[s.sec.rigSlot]?

/-- Isolated mode (20 R438). -/
def isolated (s : State) : Bool := (rigNow s).any (·.isolated)

/-- Whether a tenant may name a model program: in Isolated mode one of another owner is refused (20 R439;
notes/assumptions/19.md). -/
def ownerOk (s : State) (tenant : Nat) (p : Plan) : Bool := !isolated s || p.owner == 0xFFF || p.owner == tenant

/-- The plan of a session's model. -/
def sesPlan (s : State) (x : Ses) : Option Plan := planOf s x.d.model

/-- Why a session may not join a crew (14 R310, 10 R227). `node` is the session's deepest shared node. -/
def crewCode (s : State) (tenant model node crew : Nat) : Option Nat :=
  if crew = 0xFFFF then none
  else
    match mapGet s.crw.crews crew with
    | none => some E_CREW_UNKNOWN
    | some k =>
      if k.tenant ≠ tenant ∨ k.model ≠ model then some E_CREW_MISMATCH
      else
        match mapGet s.courses crew with
        | some co => if (chainOf s node).contains co.node then none else some E_COURSE_INVALID
        | none => none

/-- The crew of a session at its first compute: the lowest-numbered AUTO crew of its tenant and model (14 R310). -/
def autoCrew (s : State) (x : Ses) : Option Nat :=
  if x.d.crew ≠ 0xFFFF then some x.d.crew
  else
    (s.crw.crews.find? (fun e => e.2.isAuto && e.2.tenant = x.d.tenant && e.2.model = x.d.model &&
      (crewCode s x.d.tenant x.d.model x.d.prefixNode e.1).isNone)).map (·.1)

/-- The first code of a list of checks. -/
def firstCode : List (Option Nat) → Option Nat
  | [] => none
  | some e :: _ => some e
  | none :: rest => firstCode rest

def codeIf (b : Bool) (e : Nat) : Option Nat := if b then some e else none

/-! ### Positions and pages a command needs -/

/-- Draft IDs of a STEP (03 Table 03-5): 21 bits each, three in W5, three in W6, one in W7. -/
def stepDrafts (c : Cmd) : List Nat :=
  [c.f5 0 21, c.f5 21 21, c.f5 42 21, c.f6 0 21, c.f6 21 21, c.f6 42 21, c.f7 0 21].take (c.f4 32 3)

/-- The text of an APPEND as the Text unit splits it (03 R51, 11 R242). -/
def appendText (s : State) (x : Ses) (c : Cmd) (data : List Byte) : Option TokOut :=
  (mapGet s.txt.ctxs x.d.textCtx).bind (fun t => (vocabOf s t.model).map (fun v =>
    tokenizeText v t.pieceCarry t.inCarry (data.take (c.f7 0 32)) false false 4194304 512))

/-- The tokens of an APPEND: its token list, or those of its text (03 R51, 11 R242). -/
def appendToks (s : State) (x : Ses) (c : Cmd) (data : List Byte) : List Nat :=
  if c.f4 16 1 = 0 then fieldsAt 4 data 0 (min (c.f4 0 10) (data.length / 4)) else (appendText s x c data).elim [] (·.ids)

/-- The Text unit counts what an APPEND's text gave it (11 R237, Table 11-14). -/
def textTaken (s : State) (x : Ses) (c : Cmd) (data : List Byte) : State :=
  if c.opcode ≠ 0x12 ∨ c.f4 16 1 = 0 then s
  else
    match appendText s x c data with
    | none => s
    | some o => cnt (cnt s R.TXT_IN_BYTES o.used) R.TXT_REPL_IN o.repl

/-- Whether the text of an APPEND is too long: over 4 MiB, or over 512 tokens (11 R242). -/
def appendLong (s : State) (x : Ses) (c : Cmd) (data : List Byte) : Bool :=
  if c.f4 16 1 = 0 then decide (512 < c.f4 0 10)
  else decide (4194304 < c.f7 0 32) || (appendText s x c data).any (·.truncToks)

/-- The positions that a STEP or APPEND writes: from `lo` up to but not including `hi`. -/
def writeRange (x : Ses) (c : Cmd) (n : Nat) : Nat × Nat :=
  let lo := if c.opcode = 0x13 then x.d.positions + c.f4 36 3 else x.d.positions
  (lo, lo + n)

/-- The page-list keys of spans [a, b). -/
def spanKeys (x : Ses) (a b : Nat) : List Nat := (List.range ((b - a) * x.layers)).map (a * x.layers + ·)

/-- The keys a range of positions touches, and those of them without a page. -/
def rangeKeys (x : Ses) (lo hi : Nat) : List Nat := if hi ≤ lo then [] else spanKeys x (lo / x.span) (ceilDiv hi x.span)
def freshKeys (x : Ses) (lo hi : Nat) : List Nat := (rangeKeys x lo hi).filter (fun k => !mapHas x.pl k)

/-- Long-context settings of a model (10 Table 10-5). -/
def lcSink (w : Nat) : Nat := bitsOf w 0 8
def lcRecent (w : Nat) : Nat := max 1 (bitsOf w 8 8)
def lcSel (w : Nat) : Nat := min 4096 (bitsOf w 16 13)
def lcFetchWait (w : Nat) : Nat := bitsOf w 32 16

def lcWord (s : State) (model : Nat) : Nat := match mapGet s.prg.progs model with | some p => p.lcCfg | none => 0

/-- The spans of a layer that a step selects (10 R222, R223): all under policy 0 and before the first scored step; else the sink
spans, the recent ones, the full spans without an index entry, and the last installed selection. -/
def selSpans (x : Ses) (lc policy layer : Nat) : List Nat :=
  let n := ceilDiv x.d.positions x.span
  if policy = 0 then List.range n
  else
    match mapGet x.sel layer with
    | none => List.range n
    | some sel =>
      (List.range n).filter (fun sp =>
        decide (sp < lcSink lc) || decide (n ≤ sp + lcRecent lc) || sel.contains sp ||
          (decide ((sp + 1) * x.span ≤ x.d.positions) && !mapHas x.index (x.plKey sp layer)))

/-- The pages a policy selects, over all layers. -/
def selPages (x : Ses) (lc policy : Nat) : List Nat :=
  ((List.range x.layers).map (fun l => (selSpans x lc policy l).filterMap (fun sp => (mapGet x.pl (x.plKey sp l)).map (·.page)))).flatten

/-- The prefix pages that a session reads only through its crew's course (10 R230). -/
def coursePages (s : State) (x : Ses) : List Nat :=
  match mapGet s.courses x.d.crew with
  | none => []
  | some co =>
    if mapHas co.homes x.d.session then
      ((chainOf s co.node).map (fun n => match nodeOf s n with | some y => y.pages | none => [])).flatten
    else []

/-- The pages that must be brought to Tier H before a STEP or APPEND computes: those it writes (05 R94) and, by the policy, those it
selects (10 R225), and shared pages that lie only in Tier F (04 R80, with policy 1 only where selected). -/
def copyUps (s : State) (x : Ses) (lo hi : Nat) : List Nat :=
  let written := (rangeKeys x lo hi).filterMap (fun k => (mapGet x.pl k).map (·.page))
  let want := if x.d.attPolicy = 1 then [] else selPages x (lcWord s x.d.model) x.d.attPolicy
  notInH s ((written ++ want.filter (fun p => !(coursePages s x).contains p)).eraseDups)

/-- The pages that a REVIVE brings in: the required ones and the trailing ones (03 R55, 10 R226). -/
def revivePolicy (x : Ses) (c : Cmd) : Nat := if c.f4 0 4 = 0 then x.d.attPolicy else c.f4 0 4 - 1

def reviveSets (s : State) (x : Ses) (c : Cmd) : List Nat × List Nat :=
  let out := coursePages s x
  let all := (notInH s x.pages.eraseDups).filter (fun p => !out.contains p)
  let req := (notInH s (selPages x (lcWord s x.d.model) (revivePolicy x c)).eraseDups).filter (fun p => !out.contains p)
  if revivePolicy x c = 0 then (all, []) else (req, all.filter (fun p => !req.contains p))

/-- The window of an IMPORT BEGIN that shares `sh` positions: first and last position, and the spans it covers (09 R209). -/
def winSpans (x : Ses) (count sh : Nat) : Nat × Nat :=
  ((x.d.positions + sh) / x.span, ceilDiv (x.d.positions + count) x.span)

def winPages (x : Ses) (count sh : Nat) : Nat :=
  if count ≤ sh then 0 else ((winSpans x count sh).2 - (winSpans x count sh).1) * x.layers

/-- The lookup of an IMPORT BEGIN (04 R71): the spans it matches with its chain, and the state with misses counted. -/
def importLookup (s : State) (x : Ses) (toks : List Nat) : PfxCtx × Nat × List (Nat × List Nat) × List Nat × State :=
  let ctx : PfxCtx := { tenant := x.d.tenant, model := x.d.model, log2p := x.log2p, keyGen := (pfxKeyOf s x.d.tenant).gen }
  let key := pfxKeyWords s x.d.tenant
  let top := nodeOf s x.d.prefixNode
  let depth := match top with | some y => y.depth | none => 0
  if x.d.positions = 0 || decide (0 < depth && x.d.positions = depth * x.span) then
    let h0 := match top with | some y => y.hash | none => ph64Zero key x.d.model x.span
    let chain := ph64Chain key h0 (fullSpans x.span toks)
    if rdF s R.PFX_CFG_ENABLE = 1 then
      let (ns, s) := pfxMatch s ctx x.d.prefixNode chain
      (ctx, depth, chain, ns, s)
    else (ctx, depth, [], [], s)
  else (ctx, 0, [], [], s)

/-! ### The checks at the head of the order (03 R496) -/

/-- Whether a command passes waiting ones while an import window is open (03 R50). -/
def passesImport (c : Cmd) : Bool :=
  (c.opcode = 0x11 && (c.f4 0 2 = 1 || c.f4 0 2 = 2)) || c.opcode = 0x17 || c.opcode = 0x18 || c.opcode = 0x19 || c.opcode = 0x58

/-- Accepted states (03 Table 03-4, 11 R258, 14 R310), with the flags they name (R49, R52, R54). Table 03-4 accepts `PARK` in WAITING and
names no flag; while an earlier `PARK` is still copying (`MOVING` 1) the model refuses another (DESIGN CHOICE, notes/assumptions/95.md). -/
def stateOk (x : Ses) (c : Cmd) : Bool :=
  let live := x.d.st == .opened || x.d.st == .active || x.d.st == .waiting
  match c.opcode with
  | 0x11 =>
    (x.d.st == .opened || x.d.st == .waiting) &&
      (if c.f4 0 2 = 0 then !x.d.importing && c.f4 32 32 != 0
       else x.d.importing && (c.f4 0 2 = 2 || x.win.any (fun w => w.count == c.f4 32 32)))
  | 0x12 => live
  | 0x13 => live && decide (c.f4 36 3 ≤ x.d.prov)
  | 0x33 => live
  | 0x14 => x.d.st == .waiting && !x.d.moving
  | 0x15 => x.d.st == .parked || (x.d.st == .waiting && x.d.moving)
  | 0x49 => c.f4 0 16 != 0xFFFF || x.d.st != .active
  | _ => true

/-- The epoch condition (03 R41). MOVE names no epoch. -/
def epochCode (x : Ses) (c : Cmd) : Option Nat :=
  if c.opcode = 0x20 ∨ c.opcode = 0x58 ∨ c.w3.toNat = 2 ^ 64 - 1 ∨ c.w3.toNat = x.d.epoch then none
  else if c.w3.toNat < x.d.epoch then some E_EPOCH_STALE else some E_EPOCH_AHEAD

/-- REMOTE without an enabled target (03 R58). -/
def durCode (s : State) (x : Ses) (c : Cmd) : Option Nat :=
  if c.opcode = 0x20 ∨ c.opcode = 0x58 then none else codeIf (durAsked s c x.d = 2 && !ckpEnabled s x.d.tenant) E_DUR_NO_TARGET

/-- The limits of 03 R36. -/
def limitCode (s : State) (x : Ses) (c : Cmd) : Option Nat :=
  if bringsLive x c then codeIf (decide (262144 ≤ liveCount s)) E_SES_LIMIT
  else if c.opcode = 0x16 then
    codeIf ((freeSid s).isNone || (childLive x && decide (262144 ≤ liveCount s)) ||
      (childOpen x && decide (65536 ≤ openCount s))) E_SES_LIMIT
  else none

/-- A token or draft beyond the vocabulary, on a session that holds a stream context (11 R244). -/
def tokenCode (s : State) (x : Ses) (c : Cmd) : Option Nat :=
  (mapGet s.txt.ctxs x.d.textCtx).bind (fun t => (vocabOf s t.model).bind (fun v =>
    codeIf ((c.f4 0 32 :: stepDrafts c).any (fun k => decide (v.toks.length ≤ k))) E_TXT_TOKEN))

/-- The grammar check of a STEP (11 R253): its accepted drafts and TOKEN against the masks of the states that precede them. -/
def grmCode (s : State) (x : Ses) (c : Cmd) : Option Nat :=
  if c.f4 41 1 = 0 ∨ x.d.grmTable = 0xFFFF then none
  else
    match mapGet s.txt.recs x.d.grmState with
    | none => none
    | some r =>
      match grmBound s r with
      | none => none
      | some g =>
        match vocabOf s g.model with
        | none => none
        | some v => codeIf (!grmPasses g v (recCfg r) (x.provToks.take (c.f4 36 3) ++ [c.f4 0 32])) E_GRM_REJECT

/-- The spans a FORK makes nodes of: full spans of the parent beyond its deepest node (04 R77). -/
def forkSpans (s : State) (x : Ses) : List Nat :=
  let depth := match nodeOf s x.d.prefixNode with | some y => y.depth | none => 0
  (List.range (x.d.positions / x.span)).filter (fun sp => depth ≤ sp)

/-- The nodes that FORKs admitted so far, waiting for quota or staged, will take at their finishes (04 R77). -/
def forkNodesDue (s : State) : Nat :=
  sumOf (s.stk.commits.map (fun k => match k with | .fork _ _ _ cap _ => (forkSpans s cap).length | _ => 0)) +
    sumOf (s.ses.tab.map (fun e => if e.2.head.any (fun r => r.cmd.opcode == 0x16) then (forkSpans s e.2).length else 0))

/-- What the pages of an EXPORT number, its page images being those of its record (17 R374, R379). -/
def exportPages (x : Ses) : Nat := (x.pagesBelow x.d.positions).length

/-- A plan that no STEP may use (21 R457). -/
def planCode (s : State) (x : Ses) : Option Nat :=
  match sesPlan s x with
  | none => some E_MODEL_UNKNOWN
  | some p => codeIf p.blocked E_FENCED

def ctxLimitOf (s : State) (x : Ses) : Nat := match sesPlan s x with | some p => p.hdr.ctxLimit | none => 0

/-- The entries that bringing pages to Tier H takes: one from Tier F, one from Tier N (05 Table 05-5). -/
def bringOps (s : State) (ps : List Nat) : Nat := b2n (ps.any (fun p => !lazyPage s p)) + b2n (ps.any (lazyPage s))

/-- The checks of the command's own rules, in their order (03 R496 item 6). -/
def specificCode (s : State) (x : Ses) (c : Cmd) (data : List Byte) : Option Nat :=
  match c.opcode with
  | 0x11 =>
    if c.f4 0 2 = 0 then
      firstCode [codeIf (decide (ctxLimitOf s x < x.d.positions + c.f4 32 32)) E_CTX_FULL,
        codeIf (!opRoom s 2 x.d.tenant) E_OP_FULL]
    else if c.f4 0 2 = 1 then
      codeIf (x.win.any (fun w => w.written.length !=
        (w.last + 1 - w.first) * w.layers * (65536 / x.span / 64))) E_IMPORT_GAP
    else none
  | 0x12 =>
    let n := (appendToks s x c data).length
    let r := writeRange x c n
    firstCode [
      codeIf (c.f4 16 1 = 1 && x.d.textCtx == 0xFFFF) E_TXT_CTX,
      codeIf (appendLong s x c data) E_APPEND_LONG,
      codeIf (decide (ctxLimitOf s x < x.d.positions + n)) E_CTX_FULL,
      planCode s x,
      codeIf (autoCrew s x).isNone E_CREW_NONE,
      codeIf (!opRooms s (bringOps s (copyUps s x r.1 r.2)) 1 x.d.tenant) E_OP_FULL]
  | 0x13 =>
    let r := writeRange x c (1 + c.f4 32 3)
    firstCode [
      codeIf (decide (ctxLimitOf s x < x.d.positions + c.f4 36 3 + 1 + c.f4 32 3)) E_CTX_FULL,
      codeIf ((sesPlan s x).any (fun p => p.hdr.posMax < 1 + c.f4 32 3)) E_POS_LIMIT,
      tokenCode s x c,
      grmCode s x c,
      planCode s x,
      codeIf (autoCrew s x).isNone E_CREW_NONE,
      codeIf (!opRooms s (bringOps s (copyUps s x r.1 r.2)) 1 x.d.tenant) E_OP_FULL]
  | 0x14 => firstCode [codeIf x.d.pinH E_SES_PINNED, codeIf (!opRoom s 2 x.d.tenant) E_OP_FULL]
  | 0x15 =>
    let crew := if c.f4 16 16 = 0xFFFF then x.d.crew else c.f4 16 16
    if x.d.moving then crewCode s x.d.tenant x.d.model x.d.prefixNode crew
    else
      let sets := reviveSets s x c
      firstCode [crewCode s x.d.tenant x.d.model x.d.prefixNode crew,
        codeIf (!opRooms s (bringOps s sets.1 + bringOps s sets.2) 1 x.d.tenant) E_OP_FULL]
  | 0x16 =>
    firstCode [codeIf (decide (nodeCap < nodesUsed s + forkNodesDue s + (forkSpans s x).length)) E_PFX_FULL,
      crewCode s x.d.tenant x.d.model x.d.prefixNode (c.f4 16 16)]
  | 0x17 =>
    firstCode [
      codeIf (decide (c.f7 0 32 < exportPages x)) E_EXPORT_SIZE,
      codeIf (c.f4 0 2 = 1 && !ckpEnabled s x.d.tenant) E_CKP_TARGET,
      codeIf (!ckpHasKey s x.d.tenant) E_SEC_NOKEY,
      codeIf (!opRoom s 2 x.d.tenant) E_OP_FULL]
  | 0x18 => codeIf (c.f4 0 2 = 1 && x.d.moving) E_SES_PINNED
  | 0x20 =>
    firstCode [
      codeIf (x.d.st == .parked || c.f2 16 10 == 0 || !domTenant s c.dom x.d.tenant) E_PLACE_DENIED,
      codeIf (x.d.pinH && x.pinLanes != 0 && (c.f2 16 10 &&& (1023 - x.pinLanes)) != 0) E_SES_PINNED,
      codeIf (!opRoom s 2 x.d.tenant) E_OP_FULL]
  | 0x33 =>
    firstCode [codeIf (x.d.textCtx == 0xFFFF) E_TXT_CTX,
      codeIf (c.f4 32 1 = 1 && (parseStops data (c.f7 0 5)).isNone) E_STOP_INVALID]
  | 0x49 =>
    firstCode [codeIf ((sesPlan s x).any (fun p => !ownerOk s x.d.tenant p)) E_SEC_MODE,
      crewCode s x.d.tenant x.d.model x.d.prefixNode (c.f4 0 16)]
  | _ => none

/-- All checks of 03 R496 for a command at the head of a session's order, in its order. `qp` is what the queue pair answered when the
command's host data was to be read (15 R351): of the checks of item 6 it comes first, since the others read that data
(notes/assumptions/96.md). -/
def headCode (s : State) (x : Ses) (c : Cmd) (data : List Byte) (qp : Option Nat := none) : Option Nat :=
  if x.d.gen ≠ cmdGen c then some E_SES_GONE
  else if c.opcode = 0x58 then none
  else
    firstCode [
      codeIf (!bitOf x.d.domains c.dom || (c.opcode = 0x16 && !domTenant s c.dom x.d.tenant)) E_SES_DENIED,
      codeIf (x.d.damaged && c.opcode != 0x17 && c.opcode != 0x19) E_SES_DAMAGED,
      codeIf (!stateOk x c) E_SES_STATE,
      epochCode x c,
      qp,
      specificCode s x c data,
      durCode s x c,
      limitCode s x c]

/-! ### Worst-case charges (05 R97, R98) -/

/-- The positions of a session once a command's effect commits. -/
def positionsAfter (s : State) (x : Ses) (c : Cmd) (data : List Byte) : Nat :=
  match c.opcode with
  | 0x11 => x.d.positions + c.f4 32 32
  | 0x12 => x.d.positions + (appendToks s x c data).length
  | 0x13 => x.d.positions + c.f4 36 3 + 1
  | _ => x.d.positions

/-- The index pages that a command's full spans need and have not (10 R220). -/
def indexNew (s : State) (x : Ses) (c : Cmd) (data : List Byte) : List Nat :=
  match sesPlan s x with
  | some p => freshIndex s x p.hdr (positionsAfter s x c data / x.span)
  | none => []

/-- The pages that a STEP or APPEND still charges: fresh ones and copies up, those excepted that a revival has charged in advance (05 R97). -/
def computeCharge (s : State) (x : Ses) (c : Cmd) (data : List Byte) (n : Nat) : Nat :=
  let r := writeRange x c n
  (freshKeys x r.1 r.2).length + (indexNew s x c data).length + ((copyUps s x r.1 r.2).filter (fun p => !x.trailSet.contains p)).length

/-- Pages charged in Tier H and in Tier F when the command is admitted. -/
def chargeOf (s : State) (x : Ses) (c : Cmd) (data : List Byte) : Nat × Nat :=
  match c.opcode with
  | 0x11 =>
    if c.f4 0 2 = 0 then
      let toks := fieldsAt 4 data 0 (c.f4 32 32)
      let (_, _, _, ns, _) := importLookup s x toks
      (winPages x (c.f4 32 32) (ns.length * x.span) + (indexNew s x c data).length, 0)
    else (0, 0)
  | 0x12 => (computeCharge s x c data (appendToks s x c data).length, 0)
  | 0x13 => (computeCharge s x c data (1 + c.f4 32 3), 0)
  | 0x14 => (0, (x.privPages.filter (fun p => !sealedNow s p && !lazyPage s p)).length)
  | 0x15 =>
    if x.d.moving then (0, 0)
    else ((reviveSets s x c).1.length + (reviveSets s x c).2.length, 0)
  | 0x16 =>
    (listPages x.capSpans x.layers + (match sesPlan s x with
      | some p => ceilDiv (x.d.positions / x.span * x.layers * indexBytes p.hdr) 65536
      | none => 0) +
      (if x.d.positions % x.span = 0 then 0 else x.layers), 0)
  | _ => (0, 0)

def chargeFits (s : State) (tenant : Nat) (n : Nat × Nat) : Option Nat :=
  match chargeFitsH s tenant n.1 with
  | some e => some e
  | none => chargeFitsF s tenant n.2

/-! ### Binding -/

/-- The head of a session's order is taken by a command. -/
def holdHead (s : State) (sid : Nat) (r : Run) : State := updSes s sid (fun x => { x with head := some r })

/-- A command whose whole effect stands in this stroke's finish. -/
def holdCommit (s : State) (sid epoch : Nat) (w : Wait) (k : Commit) : State :=
  stage (holdHead s sid { cmd := w.cmd, data := w.data, ph := .commit, epoch := epoch, headStroke := catchStroke s }) k

/-- The Mover's park entry stops and PARK completes with `E_SES_CANCELLED` (03 R54). -/
def cancelPark (s : State) (sid : Nat) (x : Ses) : State :=
  match x.parkOp, x.parkCmd with
  | some op, some c =>
    let s := updPtes s (match opOf s op with | some o => o.todo ++ o.flying | none => []) (fun e => { e with copying := false })
    let s := dropCharges (endOp s op E_SES_CANCELLED) (2 ^ 24 + op)
    stage (updSes s sid (fun y => { y with d := { y.d with moving := false }, parkOp := none, parkCmd := none })) (.parkCancelled sid c)
  | _, _ => s

/-- The page-list entries for fresh keys: new private pages, not yet committed (09 R204). -/
def addPages (s : State) (sid : Nat) (x : Ses) (keys : List Nat) : Option State :=
  if keys.isEmpty then some s
  else
    match allocPagesAway s keys.length x.d.tenant 1 x.pinLanes false (crowdedHbs s x) with
    | none => none
    | some (base, s) =>
      let s := if x.d.pinH || x.d.pinF then
          updPtes s ((List.range keys.length).map (base + ·)) (fun e => { e with
            pinH := x.d.pinH
            pinF := x.d.pinF
            lanes := if x.d.pinH then x.pinLanes else 0 })
        else s
      some (updSes s sid (fun y => { y with
        pl := ((List.range keys.length).zip keys).foldl (fun m (i, k) => mapSet m k { page := base + i, shared := false }) y.pl }))

/-- A copy-up of pages at class 1, with its advance charge (05 R94, R97). -/
def copyUp (s : State) (tenant : Nat) (ps : List Nat) : State :=
  if ps.isEmpty then s
  else
    let bring := fun (s : State) (src : Nat) (ps : List Nat) =>
      if ps.isEmpty then s
      else
        let (op, s) := takeOp s {
          kind := 4, cls := 1, src := src, dst := 0, tenant := tenant, object := ps.headD 0 * 65536, isSes := false, start := 0, todo := ps }
        addCharge s { owner := 2 ^ 24 + op, tenant := tenant, tier := 0, pages := ps.length }
    bring (bring s 1 (ps.filter (fun p => !lazyPage s p))) 2 (ps.filter (lazyPage s))

/-- A STEP or APPEND is admitted: its crew, its pages, its copy-ups (03 R40, 05 R94, 14 R310). `none` where the frames a fitting
charge needs cannot be had, which only placement masks can bring about. -/
def goCompute (s : State) (sid : Nat) (x : Ses) (w : Wait) : Option State :=
  let toks := if w.cmd.opcode = 0x13 then w.cmd.f4 0 32 :: stepDrafts w.cmd else appendToks s x w.cmd w.data
  let r := writeRange x w.cmd toks.length
  let ups := copyUps s x r.1 r.2
  let ix := indexNew s x w.cmd w.data
  match (addPages s sid x (freshKeys x r.1 r.2)).bind (fun s => placeIndex s x.d.tenant ix) with
  | none => none
  | some s =>
    let s := copyUp (useCharge (textTaken s x w.cmd w.data) sid 0 (ups.filter x.trailSet.contains).length) x.d.tenant ups
    let run : Run := {
      cmd := w.cmd, data := w.data, ph := .ready, epoch := x.d.epoch, toks := toks
      accept := if w.cmd.opcode = 0x13 then w.cmd.f4 36 3 else 0
      ver := match sesPlan s x with | some p => p.hdr.version | none => 0
      headStroke := catchStroke s }
    some (updSes s sid (fun y => { y with
      head := some run
      d := { y.d with crew := (autoCrew s x).getD 0xFFFF, idle := 0 } }))

/-- IMPORT BEGIN is admitted (03 R49, 04 R71 to R73, 09 R209). -/
def goImportBegin (s : State) (sid : Nat) (x : Ses) (w : Wait) : Option State :=
  let count := w.cmd.f4 32 32
  let toks := fieldsAt 4 w.data 0 count
  let (ctx, depth, chain, ns, s) := importLookup s x toks
  let sh := ns.length * x.span
  let n := winPages x count sh
  let sp := winSpans x count sh
  match (placeIndex s x.d.tenant (indexNew s x w.cmd w.data)).bind (fun s =>
      if n = 0 then some (0, s) else allocPagesAway s n x.d.tenant 1 0 false (crowdedHbs s x)) with
  | none => none
  | some (base, s) =>
    let s := pfxTake s ns
    let first := x.d.positions + sh
    let pages := (List.range n).map (base + ·)
    let keep := (first % x.span) * (65536 / x.span)
    let s := if n = 0 || keep = 0 then s
      else
        (List.range x.layers).foldl (fun s l =>
          match mapGet x.pl (x.plKey sp.1 l) with
          | some e => (match readPage s e.page 0 keep with | some bs => touch (writePage s (base + l) 0 bs) (base + l) | none => s)
          | none => s) s
    let parent := match ns.getLast? with | some m => m | none => x.d.prefixNode
    let s := pfxPublish s ctx sid (rdB s R.PFX_TEN_CFG_PUBLISH_SPANS x.d.tenant) parent (depth + ns.length + 1)
      (fun j => (List.range x.layers).map (fun l => base + j * x.layers + l)) 0 (chain.drop ns.length)
    let s := if n = 0 then s
      else (takeOp s {
        kind := 9, cls := 2, src := 2, dst := 0, tenant := x.d.tenant, object := sesObject sid x.d.gen, isSes := true, start := 0
        todo := pages }).2
    let win : ImpWin := {
      dom := w.cmd.dom, first := first, last := x.d.positions + count - 1, count := count, sharedPos := sh, toks := toks, base := base
      s0 := sp.1, s1 := sp.2 - 1, layers := x.layers }
    some (holdCommit s sid x.d.epoch w (.importBegin sid ns win w.cmd))

/-- The pages of an import window. -/
def ImpWin.pages (w : ImpWin) : List Nat :=
  if w.last < w.first then [] else (List.range ((w.s1 + 1 - w.s0) * w.layers)).map (w.base + ·)

/-- PARK binds: MOVING, and a park copy of the private pages without a current sealed copy (03 R53, 05 R106). -/
def goPark (s : State) (sid : Nat) (x : Ses) (w : Wait) : State :=
  let ps := x.privPages.filter (fun p => !sealedNow s p && !lazyPage s p)
  let (op, s) := takeOp s {
    kind := 1, cls := 2, src := 0, dst := 1, tenant := x.d.tenant, object := sesObject sid x.d.gen, isSes := true, start := 0
    todo := ps }
  let s := addCharge s { owner := 2 ^ 24 + op, tenant := x.d.tenant, tier := 1, pages := ps.length }
  updSes s sid (fun y => { y with d := { y.d with moving := true }, parkOp := some op, parkCmd := some w.cmd })

/-- REVIVE binds (03 R55): the required set at class 1, the trailing pages at class 2, both charged now. -/
def goRevive (s : State) (sid : Nat) (x : Ses) (w : Wait) : State :=
  let sets := reviveSets s x w.cmd
  let s := addCharge s { owner := sid, tenant := x.d.tenant, tier := 0, pages := sets.1.length + sets.2.length }
  let from_ := fun (s : State) (kind cls src : Nat) (ps : List Nat) =>
    if ps.isEmpty then s
    else (takeOp s {
      kind := kind, cls := cls, src := src, dst := 0, tenant := x.d.tenant, object := sesObject sid x.d.gen, isSes := true, start := 0
      todo := ps }).2
  let start := fun (s : State) (kind cls : Nat) (ps : List Nat) =>
    from_ (from_ s kind cls 1 (ps.filter (fun p => !lazyPage s p))) kind cls 2 (ps.filter (lazyPage s))
  let s := start (start s 2 1 sets.1) 3 2 sets.2
  updSes s sid (fun y => { y with
    d := { y.d with reviving := true }
    required := sets.1
    trailSet := sets.2
    head := some {
      cmd := w.cmd, data := w.data, ph := .reviving, epoch := x.d.epoch, headStroke := catchStroke s, charge := sets.1.length
      aux := w.cmd.f4 16 16 } })

/-- EXPORT binds: the session is captured and leaves the order (03 R57, 17 R381, 20 R435). Its pages are read once it starts. -/
def goExport (s : State) (sid : Nat) (x : Ses) (w : Wait) : State :=
  let (op, s) := takeOp s {
    kind := 0xA, cls := 2, src := 0, dst := 2, tenant := x.d.tenant, object := sesObject sid x.d.gen, isSes := true, start := 0
    cmd := some w.cmd }
  addJob s {
    tenant := x.d.tenant, cmd := some w.cmd, isExport := true, toHost := w.cmd.f4 0 2 = 0, full := true
    recs := [captureRec s sid x true], op := some op }

/-- MOVE of a session binds (05 R114). -/
def goMove (s : State) (sid : Nat) (x : Ses) (w : Wait) : State :=
  let mask := w.cmd.f2 16 10
  let ps := x.pages.eraseDups.filter (fun p => (pteOf s p).any (fun e => e.h && !bitOf mask (frameLane e.hFrame)))
  (takeOp s {
    kind := 8, cls := 2, src := 0, dst := 0, tenant := x.d.tenant, object := sesObject sid x.d.gen, isSes := true, start := 0
    lanes := mask, todo := ps, place := w.cmd.f2 4 1 = 1, cmd := some w.cmd }).2

/-- A checkpoint's capture of a session at the head of its order (17 R373): it goes to the tenant's checkpoint that still has the
session to bind; a damaged session is skipped and counted. -/
def goCapture (s : State) (sid : Nat) (x : Ses) : State :=
  match s.ckp.jobs.find? (fun (e : Nat × CkpJob) => e.2.started && e.2.tenant == x.d.tenant && e.2.toBind.contains (sid, x.d.gen)) with
  | none => s
  | some (i, j) =>
    let rest := j.toBind.filter (· != (sid, x.d.gen))
    if x.d.damaged then updJob s i (fun j => { j with toBind := rest, skipped := j.skipped + 1 })
    else
      let r := captureRec s sid x j.full
      wantPages (updJob s i (fun j => { j with toBind := rest, recs := j.recs ++ [r] })) j (r.pages.map (·.1))

/-- The pages that an IMPORT COMMIT may make dirty (05 R100): those of its window that have no current sealed copy, and those of the page list
that take its entries. -/
def commitDirty (s : State) (x : Ses) (w : ImpWin) : List Nat :=
  w.pages.filter (fun p => !sealedNow s p) ++ x.listAt (if w.last < w.first then [] else spanKeys x w.s0 (w.s1 + 1))

/-- Whether an IMPORT COMMIT must wait for the Dirty Budget (05 R100). -/
def commitHeld (s : State) (x : Ses) (c : Cmd) : Bool :=
  decide (c.opcode = 0x11 ∧ c.f4 0 2 = 1) && x.win.any (fun w => !dirtyFits s (mayDirty s (commitDirty s x w)))

/-- Whether a seal of one of these pages is under way or asked for. -/
def sealing (s : State) (ps : List Nat) : Bool :=
  (s.tier.ops.any (fun e => e.2.kind = 5 && e.2.todo.any ps.contains)) || s.tier.opWaits.any (fun o => o.kind = 5 && o.todo.any ps.contains)

/-- Commands that cancel a park when they reach the head of a moving session's order (03 R54). -/
def cancelsPark (x : Ses) (c : Cmd) : Bool :=
  x.d.moving && (c.opcode == 0x12 || c.opcode == 0x13 || c.opcode == 0x15 || c.opcode == 0x19)

/-- A command that passed its checks is admitted once its charge fits; until then it waits at the head (05 R98, R100). -/
def admitTurn (s : State) (sid : Nat) (x : Ses) (w : Wait) (waited head : Nat) : State :=
  let n := chargeOf s x w.cmd w.data
  let hold := fun (s : State) => holdHead s sid {
    cmd := w.cmd, data := w.data, ph := .quota, epoch := x.d.epoch, waited := waited, headStroke := head, charge := n.1, aux := n.2 }
  let orHold := fun (o : Option State) => match o with | some s' => s' | none => hold s
  if (chargeFits s x.d.tenant n).isSome then hold s
  else
    if commitHeld s x w.cmd then
      let s := dirtyDefer s
      let own := match x.win with | some v => v.pages.filter (fun p => !sealedNow s p) | none => []
      hold (if own.isEmpty || sealing s own then s
        else takeOp0 s {
          kind := 5, cls := 0, src := 0, dst := 1, tenant := x.d.tenant, object := own.headD 0 * 65536, isSes := false, start := 0
          todo := own })
    else
        match w.cmd.opcode with
        | 0x11 =>
          if w.cmd.f4 0 2 = 0 then orHold (goImportBegin s sid x w)
          else if w.cmd.f4 0 2 = 1 then
            let own := match x.win with | some v => mayDirty s (commitDirty s x v) | none => 0
            holdCommit (dirtyReserve s own) sid x.d.epoch w (.importCommit sid w.cmd)
          else holdCommit s sid x.d.epoch w (.importAbort sid (some w.cmd))
        | 0x12 => orHold (goCompute s sid x w)
        | 0x13 => orHold (goCompute s sid x w)
        | 0x14 => goPark s sid x w
        | 0x15 => goRevive s sid x w
        | 0x16 =>
          match freeSid s with
          | none => hold s
          | some child =>
            if !dirtyFits s n.1 then hold (dirtyDefer s)
            else stage (addCharge (dirtyReserve s n.1) { owner := child, tenant := x.d.tenant, tier := 0, pages := n.1 }) (.fork sid child (newListAt s x.sumPages) x w.cmd)
        | 0x17 => goExport s sid x w
        | 0x18 => holdCommit s sid x.d.epoch w (.pin sid w.cmd)
        | 0x19 => holdCommit s sid x.d.epoch w (.release sid w.cmd)
        | 0x20 => goMove s sid x w
        | 0x33 => holdCommit s sid x.d.epoch w (.streamSession sid w.cmd w.data)
        | 0x49 => holdCommit s sid x.d.epoch w (.join sid (w.cmd.f4 0 16) w.cmd)
        | 0x58 => goCapture s sid x
        | _ => s

/-- A command at the head that passed its checks: one that reaches the head of a moving session and computes, revives or releases stops the
park at once, whether or not it must still wait for quota (03 R54). A cancelling `REVIVE` has nothing to bring in. -/
def bindTurn (s : State) (sid : Nat) (x : Ses) (w : Wait) (waited head : Nat) : State :=
  if !cancelsPark x w.cmd then admitTurn s sid x w waited head
  else
    let s := cancelPark s sid x
    if w.cmd.opcode = 0x15 then holdCommit s sid x.d.epoch w (.reviveMoving sid w.cmd)
    else admitTurn s sid { x with d := { x.d with moving := false }, parkOp := none, parkCmd := none } w waited head

/-- The command at the head is checked and refused, or admitted (03 R40, R496). -/
def bindHead (s : State) (sid : Nat) (x : Ses) (w : Wait) : State :=
  match headCode s x w.cmd w.data w.qpErr with
  | some e => refuseSes s w.cmd e
  | none => bindTurn s sid x w 0 (catchStroke s)

/-- The first waiting command that may run, with the rest of the order (03 R50, R60). -/
def nextWait (x : Ses) : List Wait → Option (Wait × List Wait)
  | [] => none
  | w :: ws =>
    if !x.d.importing || passesImport w.cmd then some (w, ws)
    else match nextWait x ws with
      | some (v, vs) => some (v, w :: vs)
      | none => none

/-- A session's order is served until a command holds its head (03 R60). A session that a final copy round holds out is not
served (05 R107); a command whose data is still being read keeps its place. -/
def serveGo (sid : Nat) : Nat → State → State
  | 0, s => s
  | fuel + 1, s =>
    match sesOf s sid with
    | none => s
    | some x =>
      if x.heldOut || x.head.isSome then s
      else
        match nextWait x x.order with
        | none => s
        | some (w, rest) => if !w.ready then s else serveGo sid fuel (bindHead (setSes s sid { x with order := rest }) sid { x with order := rest } w)

def serve (s : State) (sid : Nat) : State := serveGo sid 32 s

/-! ### OPEN (03 R48, R496) -/

/-- The checks of an OPEN in the order of 03 R496. -/
def openCode (s : State) (c : Cmd) : Option Nat :=
  let model := c.f5 0 32
  let tenant := c.f4 0 12
  let dur := if c.f2 34 1 = 1 then c.f4 52 2 else c.f2 32 2
  firstCode [
    codeIf (!domTenant s c.dom tenant) E_SES_DENIED,
    codeIf (planOf s model).isNone E_MODEL_UNKNOWN,
    codeIf ((planOf s model).any (fun p => !ownerOk s tenant p)) E_SEC_MODE,
    crewCode s tenant model 0 (c.f4 16 16),
    openTextCode s model (c.f6 0 1 = 1) (c.f6 16 16),
    codeIf (dur = 2 && !ckpEnabled s tenant) E_DUR_NO_TARGET,
    codeIf (decide (65536 ≤ openCount s) || (freeSid s).isNone) E_SES_LIMIT]

/-- The session that an OPEN brings into being (03 Table 03-1). -/
def newSes (s : State) (sid meter : Nat) (c : Cmd) (h : PlanHdr) : Ses :=
  { d := {
      session := sid, gen := nextGen s sid, tenant := c.f4 0 12, owner := c.dom, model := c.f5 0 32, crew := c.f4 16 16
      domains := c.f4 32 16 ||| 2 ^ c.dom, attPolicy := c.f4 48 4, durDefault := c.f4 52 2
      pageRoot := newListAt s (openPages h) * 65536, grmTable := c.f6 16 16, meterId := meter }
    layers := h.layers, log2p := h.log2p, capSpans := capOf h, sumPages := openPages h }

/-- An OPEN whose checks passed: it takes its Session ID and its page list once the charge fits; `false` where it must wait. -/
def admitOpen (s : State) (c : Cmd) : Bool × State :=
  match planOf s (c.f5 0 32), freeSid s with
  | some p, some sid =>
    let n := listPages (capOf p.hdr) p.hdr.layers
    if (chargeFitsH s (c.f4 0 12) n).isSome then (false, s)
    else if !dirtyFits s n then (false, dirtyDefer s)
    else
      let s := dirtyReserve s n
      let (m, s) := newMeter s (c.f4 0 12)
      let x := newSes s sid m c p.hdr
      match placePages s (x.d.pageRoot / 65536) n (c.f4 0 12) 3 false with
      | none => (false, s)
      | some s => (true, stage s (.openSes sid x c))
  | _, _ => (false, s)

/-- An OPEN at its binding catch: refused, admitted, or kept waiting for quota. Its checks are made once (03 R496); a model program unloaded
while it waits leaves nothing to open. -/
def bindOpen (s : State) (w : Wait) : State :=
  match (if w.waited = 0 then openCode s w.cmd else codeIf (planOf s (w.cmd.f5 0 32)).isNone E_MODEL_UNKNOWN) with
  | some e => refuseSes s w.cmd e
  | none =>
    match admitOpen s w.cmd with
    | (true, s) => s
    | (false, s) => { s with ses := { s.ses with opens := s.ses.opens ++ [{ w with waited := w.waited + 1 }] } }

/-! ### Arrival (03 R44, R59, R60) -/

/-- Commands that read host memory and the queue pair they name (15 R351). -/
def sesQp (c : Cmd) : Option Nat :=
  match c.opcode with
  | 0x11 => if c.f4 0 2 = 0 then some (c.f6 32 16) else none
  | 0x12 => some (c.f6 32 16)
  | 0x33 => if c.f4 32 1 = 1 ∧ c.f7 0 5 ≠ 0 then some (c.f6 32 16) else none
  | _ => none

/-- Commands bind at a catch: one that arrives while a stroke is in its drive waits for the next (06 R126). Between a finish and the
catch nothing that binding reads changes, so the model binds there at once (notes/assumptions/2.md). -/
def mayBind (s : State) : Bool := s.stk.phase != .drive

/-- Why a session command may not join its session's order. -/
def joinCode (s : State) (c : Cmd) : Option Nat :=
  match liveSes s (cmdSid c) (cmdGen c) with
  | none => some E_SES_GONE
  | some x => if 16 ≤ x.order.length then some E_SES_BUSY else none

/-- The order of 03 R59: device arrival time, then host domain, then command queue. -/
def waitKey (w : Wait) : List Nat := [w.time, w.cmd.dom, w.cmd.queue]

/-- A session command joins its session's order at its place (03 R59); commands of one queue keep their order. -/
def joinWait (s : State) (c : Cmd) (data : List Byte) (ready : Bool) : State :=
  let w : Wait := {
    cmd := c, data := data, time := s.time.now, stroke := s.stk.number, ready := ready
    qpErr := match sesQp c with | some q => qpCheck s c.dom q | none => none }
  updSes s (cmdSid c) (fun x => { x with order := insertBy (fun a b => lexLe (waitKey a) (waitKey b)) w x.order })

/-- Whether a copy of a session may run its final round from the next catch on, which would hold the session out there (05 R107): its order is
then served at that catch. -/
def finalDue (s : State) (sid : Nat) : Bool :=
  (liveOps s).any (fun e => e.2.isSes && e.2.object % 2 ^ 24 == sid && e.2.st == .queued && e.2.round != 0)

/-- A session command whose host data has come joins its session's order, or is refused at once. -/
def joinOrder (s : State) (c : Cmd) (data : List Byte) : State :=
  match joinCode s c with
  | some e => refuseSes s c e
  | none =>
    let s := joinWait s c data true
    if mayBind s && !finalDue s (cmdSid c) then serve s (cmdSid c) else s

/-- OPEN arrives. -/
def arriveOpen (s : State) (c : Cmd) : State :=
  let w : Wait := { cmd := c, data := [], time := s.time.now, stroke := s.stk.number }
  if mayBind s then bindOpen s w
  else { s with ses := { s.ses with opens := s.ses.opens ++ [w] } }

/-! ### The commands -/

def startOpen (c : Cmd) (_ : List Byte) (s : State) : State := arriveOpen s c
def startSes (c : Cmd) (data : List Byte) (s : State) : State := joinOrder s c data

/-- MOVE of an SAS range (05 R114): refused for pages of class 4 or 6, for `LANES` 0 and for tenants the domain holds no right to. -/
def startMoveRange (c : Cmd) (s : State) : State :=
  let p0 := c.w3.toNat / 65536
  let ps := (s.tier.ptes.filter (fun e => p0 ≤ e.1 && decide (e.1 < p0 + c.f2 32 32)))
  let tenant := match ps.head? with | some e => e.2.tenant | none => 0xFFF
  if !sasOk c.w3.toNat then finishCmd (recordErr s .tier 0 0 E_SAS_RANGE) c E_SAS_RANGE
  else if c.f2 16 10 = 0 || ps.any (fun e => e.2.cls = 4 || e.2.cls = 6 || !domTenant s c.dom e.2.tenant) then
    finishCmd (recordErr s .tier 0 0 E_PLACE_DENIED) c E_PLACE_DENIED
  else if ps.any (fun e => e.2.pinH && e.2.lanes != 0 && (c.f2 16 10 &&& (1023 - e.2.lanes)) != 0) then
    finishCmd (recordErr s .ses 0 0 E_SES_PINNED) c E_SES_PINNED
  else if !opRoom s 2 tenant then finishCmd (opFull s) c E_OP_FULL
  else
    (takeOp s {
      kind := 8, cls := 2, src := 0, dst := 0, tenant := tenant, object := c.w3.toNat, isSes := false, start := 0
      lanes := c.f2 16 10, place := c.f2 4 1 = 1, cmd := some c, range := c.f2 32 32
      todo := (ps.filter (fun e => e.2.h && !bitOf (c.f2 16 10) (frameLane e.2.hFrame))).map (·.1) }).2

def startMove (c : Cmd) (data : List Byte) (s : State) : State :=
  if c.f2 0 4 = 0 then joinOrder s c data else startMoveRange c s

/-! ### The catch (06 R126) -/

/-- The session whose first waiting command may run and comes first in the order of 03 R59, with that command's key. -/
def dueSession (s : State) : Option (List Nat × Nat) :=
  (s.ses.tab.filterMap (fun (sid, x) =>
    if x.heldOut || x.head.isSome then none
    else (nextWait x x.order).bind (fun e => if e.1.ready then some (waitKey e.1, sid) else none))).foldl
      (fun best e => match best with | some b => if lexLe b.1 e.1 then some b else some e | none => some e) none

/-- One command of a session's order is served. -/
def serveOne (s : State) (sid : Nat) : State := serveGo sid 1 s

/-- The commands of a catch bind one after the other, OPENs and the heads of the sessions' orders alike, in the order of 03 R59. -/
def catchGo : Nat → List Wait → State → State
  | 0, _, s => s
  | fuel + 1, opens, s =>
    match opens, dueSession s with
    | [], none => s
    | w :: ws, none => catchGo fuel ws (bindOpen s w)
    | [], some (_, sid) => catchGo fuel [] (serveOne s sid)
    | w :: ws, some (k, sid) =>
      if lexLe (waitKey w) k then catchGo fuel ws (bindOpen s w) else catchGo fuel (w :: ws) (serveOne s sid)

/-- Commands that wait for quota are tried again, and every order is served, in the order of 03 R59. -/
def catchSessions (s : State) : State :=
  let quota := s.ses.tab.filterMap (fun (sid, x) => match x.head with
    | some r => if r.ph == .quota then some (sid, r) else none
    | none => none)
  let s := (sortBy (fun a b => a.2.headStroke ≤ b.2.headStroke) quota).foldl (fun s (sid, r) =>
    match sesOf s sid with
    | some x =>
      if x.heldOut then s
      else
        let w : Wait := { cmd := r.cmd, data := r.data, time := 0, stroke := r.headStroke }
        bindTurn (setSes s sid { x with head := none }) sid { x with head := none } w (r.waited + 1) r.headStroke
    | none => s) s
  let opens := sortBy (fun a b => lexLe (waitKey a) (waitKey b)) s.ses.opens
  let fuel := opens.length + sumOf (s.ses.tab.map (fun e => e.2.order.length))
  catchGo fuel opens { s with ses := { s.ses with opens := [] } }

end Sys2Proof.Machine
end

