-- ==== Sys2Proof/Machine/SesCommit.lean ====
section
/-! DEFINITION. What session commands make true at a finish (03_sessions_and_epochs.md R34 to R58), and the waits that expire. -/

namespace Sys2Proof.Machine

/-! ### Shared parts of commits -/

/-- A content change: the epoch, and the stroke of the commit (03 R38). -/
def bump (s : State) (d : Desc) : Desc := { d with epoch := d.epoch + 1, lastStroke := s.stk.number }

/-- Private and shared pages counted again (03 Table 03-1, D7). -/
def recount (x : Ses) : Ses :=
  { x with d := { x.d with
      priv := (x.pl.filter (fun e => !e.2.shared)).length
      shared := (x.pl.filter (fun e => e.2.shared)).length } }

/-- The head of a session's order is free again. -/
def freeHead (s : State) (sid : Nat) : State := updSes s sid (fun x => { x with head := none })

/-- Bytes of a page list as its pages hold them (05 R91, Table 05-2): the header, and the u32 entry of a key. -/
def Ses.listHeader (x : Ses) : List Byte :=
  leBytes 8 (x.layers % 2 ^ 16 + x.log2p % 2 ^ 8 * 2 ^ 16 + x.capSpans % 2 ^ 32 * 2 ^ 32) ++
    leBytes 8 (ceilDiv x.d.positions x.span % 2 ^ 32 + x.sharedSpans % 2 ^ 32 * 2 ^ 32) ++ List.replicate 48 0

def Ses.listEntry (x : Ses) (k : Nat) : List Byte :=
  leBytes 4 (match mapGet x.pl k with | some e => e.page % 2 ^ 30 + b2n e.shared * 2 ^ 31 | none => 0)

/-- The header and the entries of some keys are written into the list's pages; an entry never crosses a page, and neither does the header. -/
def writeList (s : State) (x : Ses) (keys : List Nat) : State :=
  let put := fun (s : State) (at_ : Nat) (bs : List Byte) => writePage s (x.d.pageRoot / 65536 + at_ / 65536) (at_ % 65536) bs
  keys.foldl (fun s k => put s (64 + 4 * k) (x.listEntry k)) (put s 0 x.listHeader)

/-- Page-list pages that hold the header or the entries of some keys are written (05 R91, R93). -/
def touchList (s : State) (x : Ses) (keys : List Nat) : State :=
  (x.listAt keys).foldl touch (writeList s x keys)

/-- Pages whose content a commit has reached (05 R99). -/
def commitPages (s : State) (ps : List Nat) : State := updPtes s ps (fun e => { e with committed := true })

/-- The page of the grammar state store that holds a session's record (03 R58, 11 R253). -/
def grmPage (s : State) (x : Ses) : List Nat :=
  if x.d.grmTable = 0xFFFF ∨ s.txt.grmBase = 0 then [] else [s.txt.grmBase + x.d.grmState / 128]

/-- Every page that SEALED_EPOCH asks a current sealed copy of (03 R58). -/
def wholePages (s : State) (x : Ses) : List Nat :=
  x.pages ++ x.listOf ++ grmPage s x

/-- The device time of the finish of the stroke in progress, where its commits take effect: boundary n + 1 (06 R127). -/
def finishTime (s : State) : Nat := s.stk.start + s.stk.length

/-- Sealing after a commit: class 1 for a SEALED request and for every commit in write-through, class 0 for every commit while the hold-up
state is FAILED (03 R58, 18 R393). -/
def sealAfter (s : State) (sid : Nat) (c : Cmd) : State :=
  match sesOf s sid with
  | none => s
  | some x =>
    let ps := (wholePages s x).filter (fun p => !sealedNow s p || s.stk.commits.contains (.touched p))
    if (durAsked s c x.d = 1 ∨ holdupState s = 3 ∨ holdupState s = 4) ∧ !ps.isEmpty then
      startOp s {
        kind := 5, cls := if holdupState s = 4 then 0 else 1, src := 0, dst := 1, tenant := x.d.tenant
        object := ps.headD 0 * 65536, isSes := false, start := 0, todo := ps }
    else s

/-- A session leaves and joins a course with its crew (10 R230, R231). -/
def courseLeave (s : State) (sid : Nat) : State :=
  { s with courses := mapAll s.courses (fun _ k => { k with homes := mapErase k.homes sid, inStep := setDel k.inStep sid }) }

def courseJoin (s : State) (sid crew : Nat) : State :=
  match mapGet s.courses crew with
  | none => s
  | some k =>
    if mapHas k.homes sid then s
    else { s with courses := mapSet s.courses crew { k with homes := mapSet k.homes sid (k.nextHome % 10), nextHome := k.nextHome + 1 } }

/-- A session takes a crew. -/
def setCrew (s : State) (sid crew : Nat) : State :=
  courseJoin (courseLeave (updSes s sid (fun x => { x with d := { x.d with crew := crew } })) sid) sid crew

/-- The tally of a commit (19 R404, Table 19-2). -/
def tallyCommit (s : State) (x : Ses) (tin tout detok bytes blade cmb : Nat) : State :=
  tally s { sesTally x 1 with tokIn := tin, tokOut := tout, detok := detok, textBytes := bytes, blade := blade, cmb := cmb }

/-- Bytes written across consecutive pages from a byte address on. -/
def writeAlong (s : State) (at_ : Nat) : Nat → List Byte → State
  | 0, _ => s
  | n + 1, bs =>
    if bs.isEmpty then s
    else
      let k := 65536 - at_ % 65536
      let p := at_ / 65536
      let s := touch (updPte (writePage s p (at_ % 65536) (bs.take k)) p (fun e => { e with committed := true })) p
      writeAlong s (at_ + k) n (bs.drop k)

/-- An entry of the coarse index is written: BF16 codes in order, at its place after the page list (10 R219, R220). -/
def putEntry (s : State) (x : Ses) (h : PlanHdr) (k : Nat) (e : List Nat) : State :=
  writeAlong s (x.d.pageRoot + listPages x.capSpans x.layers * 65536 + k * indexBytes h) (e.length + 1) (e.flatMap (leBytes 2))

/-! ### OPEN, FORK (03 R48, R56; 04 R77) -/

def commitOpen (s : State) (sid : Nat) (x : Ses) (c : Cmd) : State :=
  let (ctx, rec, s) := openText s sid x.d.model (c.f6 0 1 = 1) x.d.grmTable
  let x := { x with d := { x.d with lastStroke := s.stk.number, openTime := finishTime s, textCtx := ctx, grmState := rec } }
  let s := setSes s sid x
  let s := { s with ses := { s.ses with gens := mapSet s.ses.gens sid ((x.d.gen + 1) % 256) } }
  let s := commitPages (writeList s x []) x.listOf
  let s := courseJoin s sid x.d.crew
  let s := markJournal (tally s (sesTally x 3)) sid
  completeSes (sealAfter s sid c) sid c 0 0

/-- Step 1 of 04 R77: a READY node from a span of the parent; its pages become shared. -/
def forkNode (s : State) (sid : Nat) (sp : Nat) : State :=
  match sesOf s sid with
  | none => s
  | some x =>
    let key := pfxKeyWords s x.d.tenant
    let toks := (x.toks.drop (sp * x.span)).take x.span
    let h0 := match nodeOf s x.d.prefixNode with | some y => y.hash | none => ph64Zero key x.d.model x.span
    let ps := (List.range x.layers).filterMap (fun l => (mapGet x.pl (x.plKey sp l)).map (·.page))
    let inH := allInH s ps
    let (id, s) := newNode s {
      hash := ph64Next key h0 toks, parent := x.d.prefixNode, depth := sp + 1, model := x.d.model, tenant := x.d.tenant
      st := .ready, keyGen := (pfxKeyOf s x.d.tenant).gen, log2p := x.log2p, refs := 1, lastUse := s.stk.number
      tier := if inH then 1 else 2, pages := ps, toks := toks }
    let s := updPtes s ps (fun e => { e with cls := 2 })
    updSes s sid (fun x => recount { x with
      sharedSpans := sp + 1
      pl := mapAll x.pl (fun k e => if sp * x.layers ≤ k ∧ k < (sp + 1) * x.layers then { e with shared := true } else e)
      d := { x.d with prefixNode := id } })

/-- Step 3 of 04 R77: the parent's partial page of a layer is copied, rows below POSITIONS only, from Tier H or its sealed copy. -/
def forkCopy (s : State) (src dst keep : Nat) : State :=
  match pteOf s src with
  | none => s
  | some e =>
    let cells := if e.h then frameCells s e.hFrame else match sealedOk s src with | some x => x.cells | none => []
    match pteOf s dst with
    | none => s
    | some d => cnt (touch (fillFrame s d.hFrame (cells.filter (fun b => b.1 < keep))) dst) R.MOV_BYTES_HH 65536

/-- FORK as its parent stood when it bound (`cap`, 03 R40): the full spans of that epoch become nodes, and the child takes its rows and its
words. Positions below the bound epoch's stay as they are, whatever the parent does until this finish. -/
def commitFork (s : State) (sid child root : Nat) (cap : Ses) (c : Cmd) : State :=
  let s := dropCharges s child
  match sesOf s sid with
  | none => refuseSes s c E_SES_GONE
  | some _ =>
    let spans := forkSpans s cap
    let s := spans.foldl (fun s sp => forkNode s sid sp) s
    match sesOf s sid with
    | none => s
    | some now =>
      let full := cap.d.positions / cap.span * cap.layers
      let x := { cap with
        sharedSpans := if spans.isEmpty then cap.sharedSpans else now.sharedSpans
        pl := now.pl.filter (fun e => decide (e.1 < full) || !e.2.shared)
        d := { cap.d with prefixNode := if spans.isEmpty then cap.d.prefixNode else now.d.prefixNode } }
      let s := (chainOf s x.d.prefixNode).foldl (fun s n => updNode s n (fun y => { y with refs := y.refs + 1 })) s
      let s := touchList s now (mapKeys (x.pl.filter (fun e => e.2.shared)))
      let (m, s) := newMeter s x.d.tenant
      let part := if x.d.positions % x.span = 0 then 0 else x.layers
      match (placePages s root (listPages x.capSpans x.layers) x.d.tenant 3 true).bind (fun s =>
          match sesPlan s x with
          | some p => placeIndex s x.d.tenant
              (freshIndex s { x with d := { x.d with pageRoot := root * 65536 } } p.hdr (x.d.positions / x.span))
          | none => some s), part with
      | none, _ => refuseSes s c E_TIER_FULL
      | some s, part =>
        match (if part = 0 then some (0, s) else allocPages s part x.d.tenant 1 0 true) with
        | none => refuseSes s c E_TIER_FULL
        | some (base, s) =>
          let sp := x.d.positions / x.span
          let keep := (x.d.positions % x.span) * (65536 / x.span)
          let s := (List.range part).foldl (fun s l =>
            match mapGet x.pl (x.plKey sp l) with | some e => forkCopy s e.page (base + l) keep | none => s) s
          let d : Desc := {
            session := child, gen := nextGen s child, tenant := x.d.tenant, owner := c.dom, model := x.d.model, crew := c.f4 16 16
            domains := c.f4 32 16 ||| 2 ^ c.dom, attPolicy := x.d.attPolicy, durDefault := x.d.durDefault
            st := if childOpen x then .opened else if x.d.st == .parked then .parked else .waiting
            positions := x.d.positions, pageRoot := root * 65536, prefixNode := x.d.prefixNode
            parent := x.d.session + x.d.gen * 2 ^ 24, parentEpoch := x.d.epoch
            lastStroke := s.stk.number, openTime := finishTime s, meterId := m }
          let y : Ses := recount {
            d := d, layers := x.layers, log2p := x.log2p, capSpans := x.capSpans, sharedSpans := x.sharedSpans, sumPages := x.sumPages
            pl := x.pl.filter (fun e => e.2.shared) ++
              (List.range part).map (fun l => (x.plKey sp l, { page := base + l, shared := false }))
            toks := x.toks
            index := x.index.filter (fun e => decide (e.1 / max 1 x.layers < x.sharedSpans)) }
          let s := writeList (setSes s child y) y (mapKeys y.pl)
          let s := match sesPlan s y with
            | some p => y.index.foldl (fun s (k, e) => putEntry s y p.hdr k e) s
            | none => s
          let s := { s with ses := { s.ses with gens := mapSet s.ses.gens child ((d.gen + 1) % 256) } }
          let s := courseJoin s child d.crew
          let s := markJournal (markJournal (tally s (sesTally y 3)) child) sid
          let s := if y.d.st == .parked then tally s { sesTally y 2 with tokIn := 0 } else s
          completeSes (sealAfter s child c) child c 0 0

/-! ### IMPORT (03 R49, R50; 04 R72, R74; 09 R209) -/

def commitImportBegin (s : State) (sid : Nat) (ns : List Nat) (w : ImpWin) (c : Cmd) : State :=
  match sesOf s sid with
  | none => s
  | some x =>
    let sp0 := x.d.positions / x.span
    let ents := ((List.range ns.length).zip ns).map (fun (i, n) =>
      match nodeOf s n with
      | some y => ((List.range x.layers).zip y.pages).map (fun (l, p) => (x.plKey (sp0 + i) l, p))
      | none => [])
    let x := recount { x with
      head := none, win := some w, sharedSpans := x.sharedSpans + ns.length
      pl := ents.flatten.foldl (fun m (k, p) => mapSet m k { page := p, shared := true }) x.pl
      d := { x.d with importing := true, prefixNode := match ns.getLast? with | some n => n | none => x.d.prefixNode } }
    let s := touchList (setSes s sid x) x (ents.flatten.map (·.1))
    completeSes (markJournal s sid) sid c w.sharedPos (w.base * 65536)

/-- The Mover entry of a session's import window is freed (05 R103). -/
def freeWindowOp (s : State) (sid gen : Nat) : State :=
  match (liveOps s).find? (fun e => e.2.kind = 9 && e.2.object = sesObject sid gen) with
  | some (id, _) => freeOp s id
  | none => s

def commitImport (s : State) (sid : Nat) (c : Cmd) : State :=
  match sesOf s sid with
  | none => s
  | some x =>
    match x.win with
    | none => freeHead s sid
    | some w =>
      let fill := fillNodes s sid
      let own := (fill.map (fun e => e.2.pages)).flatten
      let keys := if w.last < w.first then [] else spanKeys x w.s0 (w.s1 + 1)
      let dead := keys.filterMap (fun k => (mapGet x.pl k).map (·.page))
      let s := freePages s dead
      let s := commitPages (pfxFill s fill) w.pages
      let x := recount { x with
        head := none, win := none, provToks := [], toks := x.toks ++ w.toks
        sharedSpans := x.sharedSpans + fill.length
        pl := ((List.range keys.length).zip keys).foldl (fun m (i, k) =>
          mapSet m k { page := w.base + i, shared := own.contains (w.base + i) }) x.pl
        d := { bump s x.d with
          importing := false, positions := x.d.positions + w.count, prov := 0
          st := if x.d.st == .opened then .active else x.d.st
          prefixNode := match fill.getLast? with | some (n, _) => n | none => x.d.prefixNode } }
      let s := touchList (setSes s sid x) x keys
      let s := freeWindowOp s sid x.d.gen
      let s := if x.d.grmTable = 0xFFFF then s else grmReset s x.d.grmState
      let s := markJournal (tallyCommit s x w.count 0 0 0 0 0) sid
      completeSes (sealAfter s sid c) sid c 0 0

/-- The window of a session closes without a commit: its pages are freed, the nodes it was filling become FREE, and the references
its BEGIN took are given back (03 R49, 04 R74, R76; notes/assumptions/20.md). -/
def dropWindow (s : State) (sid : Nat) : State :=
  match sesOf s sid with
  | none => s
  | some x =>
    match x.win with
    | none => s
    | some w =>
      let n := w.sharedPos / x.span
      let s := pfxUnfill s (fillNodes s sid)
      let s := freePages s w.pages
      let back := (chainOf s x.d.prefixNode).take n
      let up := match (chainOf s x.d.prefixNode).drop n with | m :: _ => m | [] => 0
      let s := back.foldl (fun s m => updNode s m (fun y => { y with refs := y.refs - 1 })) s
      let lo := (x.sharedSpans - n) * x.layers
      let hi := x.sharedSpans * x.layers
      let x := recount { x with
        win := none, sharedSpans := x.sharedSpans - n
        pl := x.pl.filter (fun e => e.1 < lo || hi ≤ e.1)
        d := { x.d with importing := false, prefixNode := if n = 0 then x.d.prefixNode else up } }
      markJournal (freeWindowOp (setSes s sid x) sid x.d.gen) sid

def commitAbort (s : State) (sid : Nat) (c : Option Cmd) : State :=
  let s := dropWindow s sid
  match c with
  | some c => completeSes (freeHead s sid) sid c 0 0
  | none => match sesOf s sid with | some x => sesEvent s EV_SES_IMPORT_ABORT x.d | none => s

/-! ### STEP and APPEND (03 R51, R52; 09 R208, R212; 11 R244, R253) -/

/-- The COUNT of the text record that a state's last stream record is, if `n` stream records stood before. -/
def textSent (s : State) (n : Nat) : Nat :=
  match s.out.streams.drop n with
  | r :: _ => u16 r.body 4
  | [] => 0

/-- The spans that a commit filled, from the positions before it on (10 R221). -/
def spansFilled (s : State) (sid : Nat) (x : Ses) (p0 : Nat) : State :=
  { s with stk := { s.stk with filled := s.stk.filled ++
    ((List.range (x.d.positions / x.span)).filter (fun sp => decide (p0 / x.span ≤ sp))).map (fun sp => (sid, sp)) } }

def commitStep (s : State) (sid : Nat) (x : Ses) (r : Run) (blade cmb : Nat) : State :=
  let ids := x.provToks.take r.accept ++ r.toks.take 1
  let p0 := x.d.positions
  let s := r.logits.foldl (fun s b => sendStream s r.cmd 1 b) (cnt s R.CMB_LOGIT_RECORDS r.logits.length)
  let d := bump s x.d
  let before := s.out.streams.length
  let (report, s) := if x.d.textCtx = 0xFFFF then (false, s) else detokCommit s x.d.textCtx sid x.d.gen d.epoch p0 r.cmd ids
  let bytes := textSent s before
  let s := if x.d.grmTable = 0xFFFF then s else grmCommit s x.d.grmState ids
  let x := recount { x with
    head := none, toks := x.toks ++ ids, provToks := r.toks.drop 1
    d := { d with
      positions := p0 + ids.length, prov := r.toks.length - 1, steps := satAdd 32 x.d.steps 1
      st := if report || r.cmd.f4 40 1 = 1 then .waiting else .active } }
  let keys := rangeKeys x p0 (p0 + ids.length)
  let s := commitPages (setSes s sid x) (keys.filterMap (fun k => (mapGet x.pl k).map (·.page)))
  let s := touchList s x keys
  let s := { s with txt := { s.txt with masks := mapErase s.txt.masks sid } }
  let s := spansFilled s sid x p0
  let s := tallyCommit s x 0 ids.length (if x.d.textCtx = 0xFFFF then 0 else ids.length) bytes blade cmb
  completeSes (sealAfter (markJournal s sid) sid r.cmd) sid r.cmd 0 0

def commitAppend (s : State) (sid : Nat) (x : Ses) (r : Run) (blade cmb : Nat) : State :=
  let p0 := x.d.positions
  let s := r.logits.foldl (fun s b => sendStream s r.cmd 1 b) (cnt s R.CMB_LOGIT_RECORDS r.logits.length)
  let s := if r.cmd.f4 16 1 = 1 then
      match mapGet s.txt.ctxs x.d.textCtx with
      | some t => setCtx (cacheUse s) x.d.textCtx { t with inCarry := [], pieceCarry := [] }
      | none => s
    else s
  let s := if x.d.grmTable = 0xFFFF then s else grmReset s x.d.grmState
  let x := recount { x with
    head := none, toks := x.toks ++ r.toks, provToks := []
    d := { bump s x.d with positions := p0 + r.toks.length, prov := 0, st := .active } }
  let keys := rangeKeys x p0 (p0 + r.toks.length)
  let s := commitPages (setSes s sid x) (keys.filterMap (fun k => (mapGet x.pl k).map (·.page)))
  let s := touchList s x keys
  let s := { s with txt := { s.txt with masks := mapErase s.txt.masks sid } }
  let s := spansFilled s sid x p0
  let s := tallyCommit s x r.toks.length 0 0 0 blade cmb
  completeSes (sealAfter (markJournal s sid) sid r.cmd) sid r.cmd r.toks.length 0

def commitCompute (s : State) (sid blade cmb : Nat) : State :=
  match sesOf s sid with
  | none => s
  | some x =>
    match x.head with
    | none => s
    | some r => if r.cmd.opcode = 0x13 then commitStep s sid x r blade cmb else commitAppend s sid x r blade cmb

/-! ### PARK, REVIVE, PIN, RELEASE, JOIN, STREAM (03 R53 to R57) -/

def commitParkCancelled (s : State) (sid : Nat) (c : Cmd) : State :=
  let s := recordErr s .ses 0 0 E_SES_CANCELLED
  match sesOf s sid with
  | none => finishCmd s c E_SES_CANCELLED
  | some x =>
    stageDone s { cmd := c, status := E_SES_CANCELLED, c0 := sesWords x.d 0 false, c1 := x.d.epoch, c2 := x.d.positions }

/-- A cancelling `REVIVE` completes (03 R54). The rule says nothing of its `W4.CREW`; the session takes the crew it names (DESIGN CHOICE,
notes/assumptions/97.md). -/
def commitReviveMoving (s : State) (sid : Nat) (c : Cmd) : State :=
  let s := if c.f4 16 16 = 0xFFFF then s else setCrew s sid (c.f4 16 16)
  completeSes (markJournal (freeHead s sid) sid) sid c 0 0

/-- The park copy equals the epoch: the session enters PARKED, its private pages leave Tier H, and SEALED_EPOCH takes the epoch (03
R53). -/
def enterParked (s : State) (sid op : Nat) : State :=
  match sesOf s sid with
  | none => s
  | some x =>
    let s := x.privPages.foldl freeH1 s
    let s := updSes s sid (fun x => { x with
      parkOp := none, parkCmd := none, heldOut := false
      d := { x.d with moving := false, st := .parked, sealedEpoch := x.d.epoch } })
    let s := dropCharges s (2 ^ 24 + op)
    let n := (x.privPages.filter (fun p => (pteOf s p).any (·.f))).length
    let s := tally s { sesTally x 2 with tokIn := n }
    let s := markJournal (courseLeave s sid) sid
    match x.parkCmd with
    | some c => completeSes s sid c 0 0
    | none => s

/-- REVIVE's required set is in Tier H (03 R55). -/
def enterRevived (s : State) (sid : Nat) (x : Ses) (r : Run) : State :=
  let left := notInH s x.trailSet
  let s := updSes s sid (fun x => { x with
    head := none, required := [], trailSet := left
    d := { x.d with st := .active, reviving := false, trailing := !left.isEmpty } })
  let s := setCrew (if left.isEmpty then dropCharges s sid else s) sid (if r.aux = 0xFFFF then x.d.crew else r.aux)
  let s := tally s { sesTally x 2 with tokIn := 0 }
  completeSes (markJournal s sid) sid r.cmd r.charge 0

/-- Revivals and trailing sets at a finish (03 R55). -/
def reviveFinish (s : State) : State :=
  s.ses.tab.foldl (fun s (sid, x) =>
    let s := if x.d.trailing && (notInH s x.trailSet).isEmpty then
        let s := updSes s sid (fun x => { x with trailSet := [], d := { x.d with trailing := false } })
        sesEvent (dropCharges s sid) EV_SES_TRAILED x.d
      else s
    match x.head with
    | some r => if r.ph == .reviving && (notInH s x.required).isEmpty then enterRevived s sid x r else s
    | none => s) s

/-- What a session whose `PIN_H` is 1 holds in Tier H and has not there yet, at a catch: its pages, or the shared ones alone while it is PARKED
(03 R57, 04 R80). They are brought once their charge and an entry can be had. -/
def pinHolds (s : State) : State :=
  s.ses.tab.foldl (fun s (_, x) =>
    if !x.d.pinH then s
    else
      let ps := if x.d.st == .parked then (x.pl.filter (fun e => e.2.shared)).map (·.2.page) else x.pages
      let up := (notInH s ps.eraseDups).filter (fun p => !(liveOps s).any (fun e => (e.2.todo ++ e.2.flying).contains p))
      if up.isEmpty || (chargeFitsH s x.d.tenant up.length).isSome || !opRooms s (bringOps s up) 1 x.d.tenant then s
      else copyUp s x.d.tenant up) s

def commitPin (s : State) (sid : Nat) (c : Cmd) : State :=
  match sesOf s sid with
  | none => s
  | some x =>
    let k := c.f4 0 2
    let lanes := c.f4 32 10
    let x := { x with
      head := none
      pinLanes := if k = 1 then lanes else if k = 0 then 0 else x.pinLanes
      d := { x.d with pinH := k == 1 || (k == 2 && x.d.pinH), pinF := k == 2 || (k == 1 && x.d.pinF) } }
    let s := setSes s sid x
    let ps := x.privPages
    let s := if k = 1 then updPtes s ps (fun e => { e with pinH := true, lanes := lanes })
      else if k = 2 then updPtes s ps (fun e => { e with pinF := true })
      else (ps.foldl unpinF s) |> (updPtes · ps (fun e => { e with pinH := false, lanes := if e.placed then e.lanes else 0 }))
    let out := if lanes = 0 then [] else
      ps.filter (fun p => (pteOf s p).any (fun e => e.h && !bitOf lanes (frameLane e.hFrame)))
    let s := if k = 1 && !out.isEmpty then
        startOp s {
          kind := 8, cls := 3, src := 0, dst := 0, tenant := x.d.tenant, object := sesObject sid x.d.gen, isSes := true, start := 0
          lanes := lanes, todo := out }
      else s
    completeSes (markJournal s sid) sid c 0 0

/-- Every page reference of a session is dropped (03 R57, 04 R76). -/
def dropSes (s : State) (sid : Nat) (x : Ses) : State :=
  let s := freePages s x.privPages
  let s := freePages s (rootPages s x)
  let s := pfxRelease s x.d.prefixNode
  let s := dropCharges (courseLeave s sid) sid
  { s with
    ses := { s.ses with tab := mapErase s.ses.tab sid }
    ump := { s.ump with waits := mapErase s.ump.waits sid }
    txt := { s.txt with masks := mapErase s.txt.masks sid }
    stk := { s.stk with passes := mapAll s.stk.passes (fun _ p => { p with sessions := p.sessions.filter (· != sid) }) } }

def commitRelease (s : State) (sid : Nat) (c : Cmd) : State :=
  let s := dropWindow s sid
  match sesOf s sid with
  | none => s
  | some x =>
    let d := { x.d with st := .released, importing := false }
    let s := x.durWaits.foldl (fun s w => waitDone s x.d w (durReached x.d w.epoch) w.epoch w.positions) s
    let s := stageDone s {
      cmd := c, status := E_OK, c0 := sesWords d (durReached x.d x.d.epoch) (durable s), c1 := x.d.epoch, c2 := x.d.positions }
    let s := closeText s x.d.textCtx x.d.grmState sid x.d.gen x.d.epoch x.d.positions (x.d.grmTable != 0xFFFF) c
    let s := journal (tally s (sesTally x 4)) 128
    let s := dropSes s sid x
    let s := leaveJobs s sid x.d.gen x.d.tenant
    (x.order.filter (fun w => w.cmd.opcode != 0x58)).foldl (fun s w => refuseSes s w.cmd E_SES_GONE) s

def commitJoin (s : State) (sid crew : Nat) (c : Cmd) : State :=
  completeSes (markJournal (setCrew (freeHead s sid) sid crew) sid) sid c 0 0

def commitStream (s : State) (sid : Nat) (c : Cmd) (data : List Byte) : State :=
  match sesOf s sid with
  | none => s
  | some x =>
    let x := { x with head := none, provToks := [], d := { bump s x.d with prov := 0 } }
    let s := setSes s sid x
    let stops := if c.f4 32 1 = 1 then parseStops data (c.f7 0 5) else none
    let before := s.out.streams.length
    let s := streamCommit s x.d.textCtx (if x.d.grmTable = 0xFFFF then none else some x.d.grmState) sid x.d.gen x.d.epoch x.d.positions c stops
    let n := textSent s before
    let s := if n = 0 then s else tallyCommit s x 0 0 0 n 0 0
    completeSes (sealAfter (markJournal s sid) sid c) sid c 0 0

/-! ### Idleness, sealed epochs and waits (03 R37, R58) -/

def commitIdle (s : State) (sid : Nat) : State :=
  match sesOf s sid with
  | none => s
  | some x =>
    let n := rdF s R.SES_CFG_IDLE_STROKES
    if x.d.st == .active && n != 0 && decide (n ≤ x.d.idle) then
      sesEvent (markJournal (updSes s sid (fun x => { x with d := { x.d with st := .waiting } })) sid) EV_SES_IDLE x.d
    else s

/-- `D13.IDLE` counts strokes; an open window counts its strokes (03 R37, R50). -/
def idleTick (s : State) : State :=
  { s with ses := { s.ses with tab := mapAll s.ses.tab (fun _ x => { x with
      d := { x.d with idle := satAdd 32 x.d.idle 1 }
      win := x.win.map (fun w => { w with strokes := w.strokes + 1 }) }) } }

/-- SEALED_EPOCH reaches the latest epoch once everything of it is in Tier F (03 R58). -/
def sealedFinish (s : State) : State :=
  s.ses.tab.foldl (fun s (sid, x) =>
    if x.d.sealedEpoch < x.d.epoch && decide (x.jmark ≤ s.pwr.tailOut) && (wholePages s x).all (sealedNow s) then
      updSes s sid (fun x => { x with d := { x.d with sealedEpoch := x.d.epoch } })
    else s) s

/-- Waiting completions whose class has been reached (03 R58). -/
def durFinish (s : State) : State :=
  s.ses.tab.foldl (fun s (sid, x) =>
    let due := x.durWaits.filter (fun w => durMet x.d w.cls w.epoch)
    let s := due.foldl (fun s w => waitDone s x.d w w.cls (arrivedAt x w).1 (arrivedAt x w).2) s
    if due.isEmpty then s
    else updSes s sid (fun x => { x with durWaits := x.durWaits.filter (fun w => !durMet x.d w.cls w.epoch) })) s

/-- The figures of the `SES` page (03 Table 03-9). -/
def sesFigures (s : State) : State :=
  let n := fun (st : SesSt) => (s.ses.tab.filter (fun e => e.2.d.st == st)).length
  let s := wrF (wrF s R.SES_COUNT0_OPEN (n .opened)) R.SES_COUNT0_ACTIVE (n .active)
  wrF (wrF s R.SES_COUNT1_WAITING (n .waiting)) R.SES_COUNT1_PARKED (n .parked)

/-! ### Commits that the Umpire must meter (19 R406) -/

/-- The session whose metered commit this is. -/
def meteredSid : Commit → Option Nat
  | .openSes sid _ _ => some sid
  | .fork _ child _ _ _ => some child
  | .importCommit sid _ => some sid
  | .compute sid _ _ => some sid
  | .release sid _ => some sid
  | _ => none

/-- While the Umpire is not running or the link is down, metered commits wait for a later finish (19 R406). -/
def deferMetered (s : State) (ks : List Commit) : List Commit × State :=
  if umpUp s then (ks, { s with ump := { s.ump with waits := [] } })
  else
    let wait := ks.filter (fun k => (meteredSid k).isSome)
    let waits := (wait.filterMap meteredSid).foldl (fun m sid => mapSet m sid ((mapGet m sid).getD 0 + 1)) s.ump.waits
    (ks.filter (fun k => (meteredSid k).isNone),
      { s with stk := { s.stk with commits := s.stk.commits ++ wait }, ump := { s.ump with waits := waits } })

/-! ### The rows of waits and timers -/

/-- SESSION_IDLE (03 R37). -/
def execSessionIdle (sid : Nat) (s : State) : Host.Outcome State Fault Refusal :=
  .next (match sesOf s sid with
    | none => s
    | some x =>
      let n := rdF s R.SES_CFG_IDLE_STROKES
      if x.d.st == .active && n != 0 && decide (n ≤ x.d.idle) then stage s (.idle sid) else s)

/-- IMPORT_WINDOW_TIMEOUT (03 R50). -/
def execImportWindowTimeout (sid : Nat) (s : State) : Host.Outcome State Fault Refusal :=
  .next (match sesOf s sid with
    | none => s
    | some x => if x.head.isNone && x.win.any (fun w => 2 ^ 22 ≤ w.strokes) then stage s (.importAbort sid none) else s)

/-- A command at the head that has waited `QUOTA_WAIT` strokes for quota is refused (05 R98). An IMPORT COMMIT that waits for the
Dirty Budget is not (05 R100). -/
def quotaExpiry (s : State) (sid : Nat) : State :=
  match sesOf s sid with
  | none => s
  | some x =>
    match x.head with
    | none => s
    | some r =>
      match chargeFits s x.d.tenant (r.charge, r.aux) with
      | none => s
      | some e =>
        if r.ph == .quota && decide (rdF s R.TIER_CFG_QUOTA_WAIT ≤ r.waited) then
          let s := refuseSes (setSes s sid { x with head := none }) r.cmd e
          if mayBind s then serve s sid else s
        else s

def openExpiry (s : State) (i : Nat) : State :=
  match s.ses.opens[i]? with
  | none => s
  | some w =>
    match planOf s (w.cmd.f5 0 32) with
    | none => s
    | some p =>
      match chargeFitsH s (w.cmd.f4 0 12) (listPages (capOf p.hdr) p.hdr.layers) with
      | none => s
      | some e =>
        if rdF s R.TIER_CFG_QUOTA_WAIT ≤ w.waited then
          refuseSes { s with ses := { s.ses with opens := s.ses.opens.eraseIdx i } } w.cmd e
        else s

/-- What a metered commit that the Umpire could not count gives back when it is refused (19 R406). -/
def undoMetered (s : State) (k : Commit) : State :=
  match k with
  | .openSes _ x c =>
    refuseSes (freePages s (rootPages s x)) c E_UMP_DOWN
  | .fork _ child _ _ c => refuseSes (dropCharges s child) c E_UMP_DOWN
  | .importCommit sid c => refuseSes (freeHead s sid) c E_UMP_DOWN
  | .release sid c => refuseSes (freeHead s sid) c E_UMP_DOWN
  | .compute sid _ _ =>
    match (sesOf s sid).map (·.head) with
    | some (some r) => refuseSes (freeHead s sid) r.cmd E_UMP_DOWN
    | _ => s
  | _ => s

/-- UMP_DOWN_WAIT_EXPIRY (19 R406): a commit that has waited 64 strokes is refused, and `EV_UMP_DOWN` goes to
every domain (R419). -/
def execUmpDownWaitExpiry (sid : Nat) (s : State) : Host.Outcome State Fault Refusal :=
  .next (
    if umpUp s || decide ((mapGet s.ump.waits sid).getD 0 < 64) then s
    else
      let ks := s.stk.commits.filter (fun k => meteredSid k == some sid)
      let s := { s with
        stk := { s.stk with commits := s.stk.commits.filter (fun k => meteredSid k != some sid) }
        ump := { s.ump with waits := mapErase s.ump.waits sid } }
      let s := ks.foldl undoMetered s
      if ks.isEmpty then s else raiseBit s .ump 0 5 (.named EV_UMP_DOWN [] allDoms))

end Sys2Proof.Machine
end

