-- ==== Sys2Proof/Machine/Mover.lean ====
section
/-! DEFINITION. The Mover: slices, copy rounds and what copies make true (05_tiers_and_the_mover.md R90 to R118). -/

namespace Sys2Proof.Machine

/-! ### Paths (05 R95, Table 05-3; 08 R189; 06 R128) -/

/-- The rate of a path in B/µs and its latency in ns, at full lane caps. Tier codes: 0 H, 1 F, 2 N or network. -/
def pathRate (src dst : Nat) : Nat × Nat :=
  match src, dst with
  | 1, 0 => (100000, 40000)
  | 0, 1 => (28000, 10000)
  | 0, 2 => (200000, 5000)
  | 2, 0 => (200000, 5000)
  | 0, 0 => (2000000, 2000)
  | 1, 2 => (200000, 5000)
  | _, _ => (200000, 5000)

/-- The sum over lanes of min(cap_now, 24 W), in 100 mW: 2,400 where no cap binds (08 R189). -/
def capShare (s : State) : Nat := sumOf ((List.range 10).map (fun k => min 240 (rdI s R.LANE_GOV_STATUS_CAP_NOW k)))

/-- The rate in force: paths that read from Tier H fall with the lane caps (08 R189). -/
def pathNow (s : State) (src dst : Nat) : Nat :=
  let r := (pathRate src dst).1
  if src = 0 then r * capShare s / 2400 else r

/-- What a path, and a lane of it, carries in this stroke. -/
def pathKey (src dst : Nat) : Nat := src * 4 + dst
def laneKey (src dst k : Nat) : Nat := 100 + pathKey src dst * 10 + k
def pathUsed (s : State) (key : Nat) : Nat := (mapGet s.tier.pathUsed key).getD 0
def addPath (s : State) (key n : Nat) : State :=
  { s with tier := { s.tier with pathUsed := mapSet s.tier.pathUsed key (pathUsed s key + n) } }

/-- The lane of a page's Tier H frame. -/
def pageLane (s : State) (p : Nat) : Nat := (pteOf s p).elim 0 (fun e => frameLane e.hFrame)

/-- What a flash channel reads in this stroke, in reads of 4 KiB: for Mover entries of classes 0 and 1, for the others and the repair sweeps, and
for walks (12 R277). -/
def chanKey (part k : Nat) : Nat := 200 + part * 32 + k

/-- Pages of an entry of a class take their part of a path, and of the lanes or the flash channels they are read from. -/
def takePath (s : State) (src dst cls : Nat) (ps : List Nat) : State :=
  let s := addPath s (pathKey src dst) ps.length
  if src = 0 then ps.foldl (fun s p => addPath s (laneKey src dst (pageLane s p)) 1) s
  else if src = 1 then ps.foldl (fun s p => addPath s (chanKey (if cls < 2 then 0 else 1) (channelOf s p)) 16) s
  else s

/-- The node reads that a channel's read time holds in a stroke's drive, a thirty-second of what Tier F reads provide (05 Table 05-3), and the
part of them that `SEARCH_PCT` sets ahead of Mover entries of classes 2 and 3 while a walk runs (12 R277). -/
def chanReads (s : State) : Nat := windowT s.stk.period (catchActs s.stk.period s.stk.catchUs) * 3125 / (10000 * 4096)
def searchReads (s : State) : Nat :=
  if s.mem.walks.any (fun e => e.2.use != .sweep && e.2.ver.isSome && !e.2.ended) then chanReads s * min 100 (rdF s R.FSHG_CFG_SEARCH_PCT) / 100 else 0

/-- The pages whose copies complete before the finish at a rate of a path (06 R128). -/
def slicePagesAt (s : State) (src dst rate : Nat) : Nat :=
  (windowT s.stk.period (catchActs s.stk.period s.stk.catchUs) - 10 * (pathRate src dst).2) * rate / (10000 * 65536)

/-- The pages that a path carries in a stroke at the rate in force, and what is left of them. -/
def slicePages (s : State) (src dst : Nat) : Nat := slicePagesAt s src dst (pathNow s src dst)
def pathRoom (s : State) (src dst : Nat) : Nat := slicePages s src dst - pathUsed s (pathKey src dst)

/-- What is left of a lane's share of a path that reads from Tier H: a lane whose cap is below 24 W gives its tenth of the path in that
proportion (08 R189). -/
def laneRoom (s : State) (src dst k : Nat) : Nat :=
  let cap := rdI s R.LANE_GOV_STATUS_CAP_NOW k
  if src = 0 ∧ cap < 240 then slicePagesAt s src dst (pathRate src dst).1 * cap / 2400 - pathUsed s (laneKey src dst k) else pathRoom s src dst

/-- Of some pages, in their order, those that a path takes within `room` and within the shares of their lanes. -/
def pickReady (s : State) (src dst room : Nat) (ps : List Nat) : List Nat :=
  (ps.foldl (fun (acc : List Nat × Map Nat × Nat) p =>
    let k := pageLane s p
    let n := (mapGet acc.2.1 k).getD 0
    if room ≤ acc.2.2 || decide (laneRoom s src dst k ≤ n) then acc
    else (p :: acc.1, mapSet acc.2.1 k (n + 1), acc.2.2 + 1)) ([], [], 0)).1.reverse

/-- The final-round allowance in pages (05 R106, Table 05-11). -/
def finalPages (s : State) (src dst : Nat) : Nat :=
  let us := min (min (max 10 (rdF s R.MOV_CFG_FINAL_US)) 1000) (s.stk.period * 8 / 10)
  us * (pathRate src dst).1 / 65536

/-- Kinds with copy rounds (05 Table 05-5). -/
def OpEnt.rounds (o : OpEnt) : Bool := o.kind = 1 || o.kind = 8

/-- Kinds whose pages the Mover's slices carry. Import windows are written by the host (`RDMA_WRITE` of its own), and a restore's bytes come
as the responses to its RDMA READs: those rows set the pace of their entries (notes/assumptions/14.md). -/
def OpEnt.sliced (o : OpEnt) : Bool := !(o.kind = 9 || o.kind = 0xC)

/-! ### Slices at a catch (05 R104, R105, R107) -/

/-- The pages of an entry that a slice may take: those no other copy has in flight, and for an image those whose frame is free for them
(09 R195). -/
def opReady (s : State) (o : OpEnt) : List Nat :=
  o.todo.filter (fun p => (pteOf s p).any (fun e => !e.copying && (e.h || !(o.kind = 0xD && o.src = 2))))

/-- Pages of an entry begin their copy. -/
def grantPages (s : State) (id : Nat) (ps : List Nat) : State :=
  let s := match opOf s id with | some o => takePath s o.src o.dst o.cls ps | none => s
  updPtes (updOp s id (fun o => { o with todo := o.todo.filter (fun p => !ps.contains p), flying := o.flying ++ ps })) ps
    (fun e => { e with copying := true })

/-- Entries of a path and class that may be served, oldest `START_STROKE` first, then lowest ID (05 R104). -/
def pathOps (s : State) (src dst cls : Nat) : List (Nat × OpEnt) :=
  sortBy (fun a b => lexLe [a.2.start, a.1] [b.2.start, b.1])
    (s.tier.ops.filter (fun e => e.2.src = src && e.2.dst = dst && e.2.cls = cls && e.2.sliced && e.2.st == .copying && !e.2.todo.isEmpty))

/-- The pages that copies up from Tier N may yet make dirty in this stroke (05 R99, R100): such a page has no copy in Tier F. -/
def dirtyRoom (s : State) : Nat :=
  if holdupState s = 4 then 2 ^ 24 else if dirtyFits s 0 then budgetPages s - (dirtyPages s + s.tier.dirtyRes) else 0

/-- The reservation of a slice; what does not fit is deferred. -/
def reserveSlice (s : State) (o : OpEnt) (ps : List Nat) : List Nat × State :=
  if o.src = 2 ∧ o.kind != 0xD then
    let go := ps.take (dirtyRoom s)
    (go, dirtyReserve (if go.length < ps.length then dirtyDefer s else s) go.length)
  else (ps, s)

/-- Slices for some entries within a number of pages; answers the pages left. -/
def serveOps (s : State) (room : Nat) : List (Nat × OpEnt) → Nat × State
  | [] => (room, s)
  | (id, _) :: rest =>
    match opOf s id with
    | none => serveOps s room rest
    | some o =>
      let (ps, s) := reserveSlice s o (pickReady s o.src o.dst room (opReady s o))
      serveOps (grantPages s id ps) (room - ps.length) rest

/-- The session of an entry, if its object is a live session. -/
def opSes (s : State) (o : OpEnt) : Option Ses :=
  if o.isSes then liveSes s (o.object % 2 ^ 24) (o.object / 2 ^ 24 % 256) else none

/-- The set an entry with rounds must copy next, as it stands at a finish (05 R106): for a park copy the private pages without a
current sealed copy; for a migration the object's pages outside the destination lanes whose copy at the destination is
missing or old. -/
def nextSet (s : State) (o : OpEnt) : List Nat :=
  if o.kind = 1 then
    match opSes s o with
    | some x => x.privPages.filter (fun p => !sealedNow s p && !lazyPage s p)
    | none => []
  else
    let cand := match opSes s o with
      | some x => x.pages.eraseDups
      | none => (mapKeys s.tier.ptes).filter (fun p => decide (o.object / 65536 ≤ p) && decide (p < o.object / 65536 + o.range)) ++
          mapKeys o.vers ++ mapKeys o.tgt
    cand.eraseDups.filter (fun p => (pteOf s p).any (fun e =>
      e.h && (mapGet o.vers p != some e.ver) && (mapHas o.vers p || (!bitOf o.lanes (frameLane e.hFrame) && o.lanes != 0) ||
        (o.lanes = 0 && !pcLends s e.tenant (frameHb e.hFrame / 128)))))

/-- A final round starts if its whole set fits the path time that class 0 leaves (05 R107): the session is held out of this catch. -/
def tryFinal (s : State) (room : Nat) (id : Nat) (o : OpEnt) : Nat × State :=
  let ready := opReady s o
  let importing := (opSes s o).any (fun x => x.d.importing)
  let computing := (opSes s o).any (fun x => s.stk.passes.any (fun e => e.2.cmbLeft.isSome && e.2.sessions.contains x.d.session))
  if o.st == .queued && !importing && !computing && ready.length = o.todo.length &&
      (pickReady s o.src o.dst room ready).length == o.todo.length && decide (o.todo.length ≤ finalPages s o.src o.dst) then
    let s := updOp s id (fun o => { o with st := .final, round := o.round + 1, pages := o.todo.length, done := 0, redo := 0 })
    let s := grantPages s id ready
    let s := cnt s R.MOV_NOCONV_HELD 1
    let s := match opSes s o with
      | some x => updSes s x.d.session (fun x => { x with heldOut := true })
      | none => s
    (room - ready.length, s)
  else (room, s)

/-- System frames begin to move, one page of the path each (05 R88). -/
def startSys (s : State) : State :=
  (s.tier.ops.filter (fun e => e.2.sys.isSome && e.2.st == .queued)).foldl (fun s e =>
    if pathRoom s 0 0 = 0 then s
    else updOp (addPath s (pathKey 0 0) 1) e.1 (fun o => { o with st := .copying, round := 1, pages := 1 })) s

/-- Entries begin their first round at a catch; a kind with rounds does not while its session imports (05 R102, R106). -/
def startRounds (s : State) : State :=
  { s with tier := { s.tier with ops := mapAll s.tier.ops (fun _ o =>
    if o.st == .queued && o.round = 0 && o.sys.isNone && !(o.rounds && (opSes s o).any (fun x => x.d.importing)) then
      { o with st := .copying, round := 1, pages := o.todo.length } else o) } }

/-- The first slices of one path at a catch (05 R104, R107): class 0, then final rounds. -/
def serveFirst (s : State) (src dst : Nat) : State :=
  let (room, s) := serveOps s (pathRoom s src dst) (pathOps s src dst 0)
  let finals := sortBy (fun a b => lexLe [a.2.start, a.1] [b.2.start, b.1])
    (s.tier.ops.filter (fun e => e.2.src = src && e.2.dst = dst && e.2.st == .queued && e.2.round != 0 && e.2.rounds && e.2.cls != 0))
  (finals.foldl (fun (acc : Nat × State) e => tryFinal acc.2 acc.1 e.1 e.2) (room, s)).2

/-- The other slices of the path, once commands have bound: class 0 again, then classes 1 and 2, of which class 3 keeps its floor unless
class 0 waits, then class 3. Node reads keep their share of a path from Tier F before class 2 (12 R277). -/
def servePath (s : State) (src dst : Nat) : State :=
  let all := slicePages s src dst
  let (room, s) := serveOps s (pathRoom s src dst) (pathOps s src dst 0)
  let wait0 := !(pathOps s src dst 0).isEmpty
  let bg := sumOf ((pathOps s src dst 3).map (fun e => (opReady s e.2).length))
  let floor := if wait0 then 0 else min bg (ceilDiv (all * rdF s R.MOV_CFG_BG_FLOOR) 100)
  let keep := min room floor
  let (left, s) := serveOps s (room - keep) (pathOps s src dst 1)
  let search := if src = 1 then searchReads s * 32 / 16 else 0
  let (left, s) := serveOps s (left - search) (pathOps s src dst 2)
  (serveOps s (left + keep) (pathOps s src dst 3)).2

/-- The paths of Table 05-3, and from a sealed copy to the network. -/
def paths : List (Nat × Nat) := [(0, 1), (1, 0), (0, 0), (0, 2), (2, 0), (1, 2)]

/-- Before commands bind: all sessions are admitted again, but those whose copy runs its final round in this stroke (05 R107). -/
def catchFinals (s : State) : State :=
  let s := { s with
    ses := { s.ses with tab := mapAll s.ses.tab (fun _ x => { x with heldOut := false }) }
    tier := { s.tier with pathUsed := [] } }
  paths.foldl (fun s (p : Nat × Nat) => serveFirst s p.1 p.2) (startRounds (startSys s))

/-- The slices of every path. -/
def catchMover (s : State) : State := paths.foldl (fun s (p : Nat × Nat) => servePath s p.1 p.2) (startRounds s)

/-! ### A page copied (05 R92, R93, R106) -/

/-- `EV_SES_DAMAGED` (03 R62). -/
def damageEvent (s : State) (d : Desc) : State :=
  raiseBit s .ses 0 3 (.named EV_SES_DAMAGED [d.session % 2 ^ 24 + d.gen % 256 * 2 ^ 24, d.epoch] (maskDoms d.domains))

/-- A page is lost: no copy of it can be read (05 Table 05-1, 03 R62). The sessions that hold it are damaged; while a stroke runs, their event
waits for its finish (03 R64). -/
def losePage (s : State) (p : Nat) : State :=
  let s := updPte (freeF1 (freeH1 s p) p) p (fun e => { e with lost := true, copying := false })
  s.ses.tab.foldl (fun s (sid, x) =>
    if x.pl.any (fun e => e.2.page = p && decide (e.1 < ceilDiv x.d.positions x.span * x.layers)) && !x.d.damaged then
      let s := updSes s sid (fun x => { x with d := { x.d with damaged := true } })
      if s.stk.phase = .drive then stage s (.damaged sid x.d.gen) else damageEvent s x.d
    else s) s

/-- The owner of the advance charge that an entry's arrivals in Tier H use (05 R97). -/
def chargeOwner (id : Nat) (o : OpEnt) : Nat :=
  if o.kind = 2 ∨ o.kind = 3 then o.object % 2 ^ 24 else 2 ^ 24 + id

/-- The bytes of a page of an image being loaded, which came by RDMA READ (09 R195, 11 R255). -/
def netCells (s : State) (p : Nat) : Option (Map Byte) :=
  match s.txt.loads.find? (fun l => l.pages.contains p) with
  | some l => some (cellsSet [] 0 (bytesAt l.image ((p - l.pages.headD 0) * 65536) 65536))
  | none =>
    s.prg.loads.findSome? (fun l =>
      ((l.plan.pages.zip l.offs).find? (fun e => e.1 = p)).map (fun e => cellsSet [] 0 (bytesAt l.plan.image e.2 65536)))

/-- The bytes that a copy of a page reads: its Tier H copy where the source is H, else its sealed copy, which must authenticate. -/
def copyCells (s : State) (o : OpEnt) (p : Nat) : Option (Nat × Map Byte) :=
  match pteOf s p with
  | none => none
  | some e =>
    if o.src = 2 then (netCells s p).map (fun c => (e.ver, c))
    else if o.src = 0 && e.h then some (e.ver, frameCells s e.hFrame)
    else (sealedOk s p).map (fun x => (e.ver, x.cells))

/-- What the Mover's entry counts when a page of it is done. -/
def opStep (o : OpEnt) (p ver : Nat) : OpEnt :=
  { o with flying := o.flying.filter (· != p), done := if mapHas o.got p then o.done else o.done + 1, copied := o.copied + 1, got := mapSet o.got p ver,
           vers := mapSet o.vers p ver }

/-- Window frame i of a course: of a lane, the read window (0) or the fill window (1), which change places when the ring advances (10
R228, R230). -/
def courseFrame (k : Course) (lane w i : Nat) : Nat := k.frames.getD ((lane * 2 + (k.ring + w) % 2) * k.win + i) 0

/-- A page of the block being filled stands in lane 0's fill window (10 R230). -/
def ringTake (s : State) (id p : Nat) (cells : Map Byte) : State :=
  let s := updPte s p (fun e => { e with copying := false })
  s.courses.foldl (fun s (_, k) =>
    if k.op = some id && k.block.contains p then fillFrame s (courseFrame k 0 1 (k.block.idxOf p)) cells else s) s

/-- A page goes back to its entry, to be copied again. -/
def copyAgain (s : State) (id p : Nat) (o : OpEnt) : State :=
  updPte (setOp s id { o with flying := o.flying.filter (· != p), todo := o.todo ++ [p] }) p (fun e => { e with copying := false })

/-- Classes 10 and 12 (21 R448, Table 21-2): the error is recorded, and the page is copied again (notes/assumptions/47.md). -/
def copyFault (s : State) (id p : Nat) (o : OpEnt) (r : CopyEnd) : State :=
  match r with
  | .program =>
    let die := (Config.dieOfFrame (freeFFrame s ((pteOf s p).elim 0 (·.tenant)))).toNat
    if o.dst ≠ 1 then s
    else noteErr (recordErr (copyAgain s id p o) .fch (die / 8) (die % 8) E_FLASH_PROG)
      { cls := 10, unit := unitId 9 die, code := E_FLASH_PROG, page := some p }
  | .link lane =>
    if 10 ≤ lane ∨ (o.src ≠ 0 ∧ o.dst ≠ 0) then s
    else noteErr (recordErr (copyAgain s id p o) .lane lane 0xFFFF E_LANE_LINK) { cls := 12, unit := unitId 6 lane, code := E_LANE_LINK, page := some p }
  | .done | .source => s

/-- The sealed copy of a page, if it authenticates and is current (05 R93). -/
def currentSeal (s : State) (p : Nat) : Option Sealed := (sealedOk s p).filter (fun x => (pteOf s p).any (fun e => x.ver == e.ver))

/-- Whether a leg owns the frame of a page: every copy of it waits for the finish (07 R147). -/
def pageOwned (s : State) (p : Nat) : Bool := (pteOf s p).any (fun e => e.h && frameOwned s e.hFrame)

/-- A page copy has ended: what was read stands at the destination at the finish (05 R92, R97). A source that can neither be corrected
nor authenticated is read from the other copy (05 R109), and the page is lost where there is none. -/
def pageCopied (s : State) (id p : Nat) (r : CopyEnd) : State :=
  let ok := r == .done
  match opOf s id with
  | none => s
  | some o =>
    if !o.flying.contains p || lazyPage s p || pageOwned s p then s
    else if r != .done && r != .source then copyFault s id p o r
    else if o.src = 2 && !ok then copyAgain s id p o
    else
      let src := copyCells s o p
      let other := if s.flt.repairs.contains p then none else copyCells s { o with src := 1 - o.src } p
      match (if ok then src else if o.src ≤ 1 then (if o.src = 0 then (currentSeal s p).map (fun x => (x.ver, x.cells))
          else other) else none) with
      | some (ver, cells) =>
        if o.kind = 0xE then ringTake (cnt (setOp s id (opStep o p ver)) R.MOV_BYTES_FH 65536) id p cells
        else stage (setOp s id (opStep o p ver)) (.landed id p 0 ver cells)
      | none =>
        let s := setOp s id (opStep o p 0)
        let s := { s with flt := { s.flt with repairs := s.flt.repairs.filter (· != p) } }
        let s := if o.src = 1 then raiseBit s .flt 0 4 .plain else s
        let e := (pteOf s p).getD { tenant := 0xFFF, cls := 6 }
        let die := (Config.dieOfFrame e.fFrame).toNat
        let g := frameHb e.hFrame
        let s := if o.src = 1 then
            noteErr (recordErr s .fch (die / 8) (die % 8) E_SEAL_AUTH) { cls := 11, unit := unitId 9 die, code := E_SEAL_AUTH, page := some p }
          else
            noteErr (recordErr (cntI s R.PCH_CW_UNCORR (bladePc g) 1) .pch (bladePc g) (g % 128) E_CW_UNCORR)
              { cls := 2, unit := unitId 3 g, code := E_CW_UNCORR, frame := some e.hFrame, page := some p }
        losePage s p

/-- MOVER_PAGE_COPIED (05 R105, R106). -/
def execMoverPageCopied (op page : Nat) (res : CopyEnd) (s : State) : Host.Outcome State Fault Refusal :=
  .next (pageCopied s op page res)

/-- A Tier H copy of a page comes to stand: a frame within its lanes, its bytes, and the charge of its arrival. -/
def landH (s : State) (p : Nat) (e : Pte) (mask : Nat) (cells : Map Byte) : Option State :=
  let try_ := fun m => allocAway s e.tenant m 1 (pageAvoids s p)
  match (match try_ mask with | some fs => some fs | none => if mask = 0 then none else try_ 0) with
  | some [f] =>
    let s := { s with tier := { s.tier with hUsed := setAdd s.tier.hUsed f } }
    let s := fillFrame s f cells
    some (setPte s p
      { e with h := true, hFrame := f, n := false, copying := false })
  | _ => none

/-- Another entry that waits for a page takes the completed copy as its own: the same destination tier, and `VER` unchanged (05 R105). -/
def adoptCopy (s : State) (id p ver dst : Nat) : State :=
  if (pteOf s p).any (fun e => e.ver != ver) || s.stk.commits.contains (.touched p) then s
  else
    { s with tier := { s.tier with ops := mapAll s.tier.ops (fun k o =>
      if k != id && o.dst = dst && o.todo.contains p && (dst = 1 || (dst = 0 && o.src != 0 && o.kind != 0xE)) then
        { opStep o p ver with todo := o.todo.filter (· != p) } else o) } }

/-- A landed page takes effect (05 R92, R97, R109). Where no lane has a free Tier H frame for a page that leaves a fenced unit, the model
frees its old frame and drops the Tier H copy (DESIGN CHOICE, notes/assumptions/99.md). -/
def applyLanded (s : State) (id p ver : Nat) (cells : Map Byte) : State :=
  match opOf s id, pteOf s p with
  | some o, some e =>
    let s := updPte s p (fun e => { e with copying := false })
    let e := { e with copying := false }
    match o.dst with
    | 1 =>
      if !e.h then s
      else
        let s := putSealed s p { page := p, ver := ver, tenant := e.tenant, cls := e.cls, ctr := s.tier.sealCtr + 1, cells := cells }
        cnt (adoptCopy (useCharge s (2 ^ 24 + id) 1 1) id p ver 1) R.MOV_BYTES_HF 65536
    | 0 =>
      if o.src = 2 ∧ e.h then cnt (fillFrame s e.hFrame cells) R.MOV_BYTES_NET 65536
      else if o.src = 0 then
        let s := cnt s R.MOV_BYTES_HH 65536
        if o.kind = 7 then
          let s := freeH1 s p
          match pteOf s p with
          | some e => (landH s p e e.lanes cells).getD s
          | none => s
        else
          match mapGet o.tgt p with
          | some f => fillFrame s f cells
          | none =>
            match allocAway s e.tenant o.lanes 1 (pageAvoids s p) with
            | some [f] =>
              let s := { s with tier := { s.tier with hUsed := setAdd s.tier.hUsed f } }
              updOp (fillFrame s f cells) id (fun o => { o with tgt := mapSet o.tgt p f })
            | _ => updOp s id (fun o => { o with vers := mapErase o.vers p })
      else if e.h then
        if s.flt.repairs.contains p then
          { fillFrame s e.hFrame cells with flt := { s.flt with repairs := s.flt.repairs.filter (· != p) } }
        else s
      else
        match landH s p e (if e.pinH || e.placed then e.lanes else o.lanes) cells with
        | some s => cnt (adoptCopy (useCharge s (chargeOwner id o) 0 1) id p ver 0) (if o.src = 1 then R.MOV_BYTES_FH else R.MOV_BYTES_NET) 65536
        | none => updOp s id (fun o => { o with todo := o.todo ++ [p] })
    | _ => cnt s R.MOV_BYTES_NET 65536
  | _, _ => s

/-! ### Ends of rounds and of entries (05 R106 to R110, R114) -/

/-- A migration changes `H_FRAME` of its pages at its final finish; the old frames are freed (05 R108). `MOVE` places the pages it moved, or
leaves them floating (05 Table 05-7). -/
def switchFrames (s : State) (o : OpEnt) : State :=
  o.tgt.foldl (fun s (p, f) =>
    match pteOf s p with
    | none => { s with tier := { s.tier with hUsed := setDel s.tier.hUsed f } }
    | some e =>
      if e.h then
        let s := zeroFrame s e.hFrame
        let s := { s with tier := { s.tier with hUsed := setDel s.tier.hUsed e.hFrame } }
        setPte s p { e with
          hFrame := f, copying := false
          placed := if o.cmd.isSome then o.place else e.placed
          lanes := if o.cmd.isNone then e.lanes else if o.place then o.lanes else if e.pinH then e.lanes else 0 }
      else { s with tier := { s.tier with hUsed := setDel s.tier.hUsed f } }) s

/-- The destination frames of a migration that ends without a switch are freed. -/
def dropTargets (s : State) (o : OpEnt) : State :=
  o.tgt.foldl (fun s (_, f) => zeroFrame { s with tier := { s.tier with hUsed := setDel s.tier.hUsed f } } f) s

/-- The completion of the command that an entry of `MOVE` serves (05 R114). -/
def moveDone (s : State) (o : OpEnt) (status : Nat) : State :=
  match o.cmd with
  | none => s
  | some c =>
    match opSes s o with
    | some x =>
      stageDone s {
        cmd := c, status := status, c0 := sesWords x.d 0 (status = E_OK && durable s), c1 := x.d.epoch
        c2 := x.d.positions % 2 ^ 32 + o.tgt.length % 2 ^ 32 * 2 ^ 32 }
    | none => stageDone (if o.isSes then recordErr s .ses 0 0 E_SES_GONE else s) { cmd := c, status := if o.isSes then E_SES_GONE else status, c2 := o.tgt.length % 2 ^ 32 * 2 ^ 32 }

/-- A prefix demotion has sealed its node's pages (04 R79): TIER 2 and no Tier H copies, or TIER 3 where a session took the node
meanwhile. -/
def demoted (s : State) (o : OpEnt) : State :=
  match s.pfx.nodes.find? (fun e => e.2.demoting && e.2.pages.headD 0 * 65536 = o.object) with
  | none => s
  | some (n, x) =>
    if x.refs = 0 then setNode (x.pages.foldl freeH1 s) n { x with demoting := false, tier := 2 }
    else setNode s n { x with demoting := false, tier := 3 }

/-- An entry is done (05 R106). -/
def opDone (s : State) (id : Nat) (o : OpEnt) : State :=
  match o.kind with
  | 1 =>
    match opSes s o with
    | some x => freeOp (enterParked (setOp s id o) x.d.session id) id
    | none => endOp s id E_SES_GONE
  | 6 => freeOp (demoted s o) id
  | 8 => freeOp (moveDone (switchFrames (setOp s id o) o) o E_OK) id
  | _ => freeOp (dropCharges s (2 ^ 24 + id)) id

/-- Round 4 left too many pages (05 R108). -/
def opNoConv (s : State) (id : Nat) (o : OpEnt) : State :=
  let s := raiseBit (cnt (recordErr s .mov 0 0 E_MOV_NOCONV) R.MOV_NOCONV_COUNT 1) .mov 0 2 .plain
  if o.kind = 1 then
    match opSes s o with
    | some x =>
      let s := updSes s x.d.session (fun x => { x with d := { x.d with moving := false }, parkOp := none, parkCmd := none })
      let s := dropCharges (endOp s id E_MOV_NOCONV) (2 ^ 24 + id)
      match x.parkCmd with
      | some c => stageDone s { cmd := c, status := E_MOV_NOCONV, c0 := sesWords { x.d with moving := false } 0 false, c1 := x.d.epoch, c2 := x.d.positions }
      | none => s
    | none => endOp s id E_SES_GONE
  else endOp (moveDone (dropTargets s o) { o with tgt := [] } E_MOV_NOCONV) id E_MOV_NOCONV

/-- A round of an entry with rounds has ended, or its final round waits (05 R106, R107). -/
def opRound (s : State) (id : Nat) (o : OpEnt) : State :=
  let next := nextSet s o
  let importing := (opSes s o).any (fun x => x.d.importing)
  if o.isSes && (opSes s o).isNone then endOp (moveDone (dropTargets s o) { o with tgt := [] } E_SES_GONE) id E_SES_GONE
  else if next.isEmpty || o.st == .final then opDone s id { o with epoch := (opSes s o).elim 0 (fun x => x.d.epoch) }
  else if next.length ≤ finalPages s o.src o.dst then
    setOp s id { o with st := .queued, todo := next, redo := next.length }
  else if importing then setOp s id { o with st := .queued, todo := next, redo := next.length }
  else if o.round < 4 then
    setOp s id { o with st := .copying, round := o.round + 1, todo := next, pages := next.length, done := 0, redo := next.length, got := [] }
  else opNoConv s id o

/-- A system frame has moved to its new half-bank, unless an SAS page still stands in its slot there (05 R88). -/
def sysArrived (s : State) (id : Nat) (o : OpEnt) : State :=
  match o.sys with
  | none => s
  | some (key, t) =>
    if s.tier.hUsed.contains (frameOf t 127) then s
    else
      freeOp (updOp { s with tier := { s.tier with sysMoved := mapSet s.tier.sysMoved key t } } id (fun o => { o with done := 1, copied := 1 })) id

/-- Every entry at a finish, after its landed pages took effect: a round that has ended, an entry without pages left, a wait for the
final round whose set is formed anew. -/
def moverFinish (s : State) : State :=
  (mapKeys s.tier.ops).foldl (fun s id =>
    match opOf s id with
    | none => s
    | some o =>
      if o.ended.isSome || o.round = 0 then s
      else if o.sys.isSome then sysArrived s id o
      else if o.rounds then
        if (o.todo.isEmpty && o.flying.isEmpty) || o.st == .queued then opRound s id o else s
      else if (o.kind = 9) || (o.kind = 0xA) || (o.kind = 0xB) || (o.kind = 0xC) || (o.kind = 0xE) then s
      else if o.kind = 0xD && o.src = 2 then s
      else if o.todo.isEmpty && o.flying.isEmpty then opDone s id o
      else s) (purgeOps s)

/-! ### Cleaning (05 R101, 18 R393, R394) -/

/-- Whether the dirty total passes a percentage of the Dirty Budget. -/
def dirtyOver (s : State) (pct : Nat) : Bool := decide (pct * budgetPages s < 100 * dirtyPages s)

/-- The cleaning state at a finish. -/
def cleaningNow (s : State) : Cleaning :=
  let start := rdF s R.TIER_CFG_CLEAN_START
  if holdupState s = 4 then (if dirtyPages s = 0 then .off else .protective)
  else if s.pwr.down.isSome || s.lnk.feather == .entering then .protective
  else if dirtyOver s start || (s.tier.cleaning != .off && decide ((start - 10) * budgetPages s ≤ 100 * dirtyPages s)) then
    (if dirtyOver s (rdF s R.TIER_CFG_CLEAN_PROTECT) then .protective else .background)
  else .off

/-- Pages that a seal has in hand. -/
def sealHeld (s : State) : List Nat := ((s.tier.ops.filter (fun e => e.2.dst = 1)).map (fun e => e.2.todo ++ e.2.flying)).flatten

/-- Dirty pages that no seal has in hand, oldest write first. -/
def cleanSet (s : State) : List Nat :=
  let held := sealHeld s
  ((sortBy (fun a b => lexLe [a.2.lastWrite, a.1] [b.2.lastWrite, b.1])
    (s.tier.ptes.filter (fun e => e.2.dirty && !held.contains e.1))).map (·.1))

/-- The class of cleaning's entries: 0 above `CLEAN_PROTECT`, else 3 (05 R101). When cleaning stops, its entries keep only the pages in
flight. -/
def cleanClass (s : State) (st : Cleaning) : State :=
  { s with tier := { s.tier with ops := mapAll s.tier.ops (fun _ o =>
    if !o.clean then o
    else match st with
      | .off => { o with todo := [], pages := o.done + o.flying.length }
      | .background => { o with cls := 3 }
      | .protective => { o with cls := 0 }) } }

/-- The pages that cleaning must still seal to come below its end. -/
def cleanFinish (s : State) : State :=
  let st := cleaningNow s
  let s := cleanClass { s with tier := { s.tier with cleaning := st } } st
  if st == .off then s
  else
    let stop := if holdupState s = 4 || s.pwr.down.isSome || s.lnk.feather == .entering then 0 else (rdF s R.TIER_CFG_CLEAN_START - 10) * budgetPages s / 100
    let held := ((sealHeld s).eraseDups.filter (fun p => (pteOf s p).any (·.dirty))).length
    let ps := (cleanSet s).take (dirtyPages s + 1 - stop - held)
    if ps.isEmpty then s
    else
      startOp s {
        kind := 5, cls := if st == .protective then 0 else 3, src := 0, dst := 1, tenant := 0xFFF, object := ps.headD 0 * 65536
        isSes := false, start := 0, todo := ps, clean := true }

/-! ### Versions, folding, figures, advice (05 R90, R93, R113, R116, R117) -/

/-- Pages written in the stroke take a new version at its finish (05 R93). -/
def applyTouched (s : State) (ps : List Nat) : State :=
  updPtes s ps.eraseDups (fun e => { e with ver := (e.ver + 1) % 2 ^ 32, lastWrite := s.stk.number })

/-- Leaves whose listed pages are all out of Tier H and not pinned to it are folded (05 R90). -/
def foldLeaves (s : State) : State :=
  let leaves := (s.tier.ptes.map (fun e => e.1 / 256)).eraseDups
  let folded := leaves.filter (fun l => s.tier.ptes.all (fun e => e.1 / 256 != l || (!e.2.h && !e.2.pinH)))
  { s with tier := { s.tier with folded := folded } }

/-- LEAF_UNFOLD (05 R90): the first access to a page of a folded leaf unfolds the leaf. -/
def execLeafUnfold (leaf : Nat) (s : State) : Host.Outcome State Fault Refusal :=
  .next { s with tier := { s.tier with folded := unfolded s.tier.folded (leaf * 256) } }

/-- Free frames below `LOW_PCT` percent of the tier's. -/
def lowFrames (s : State) (free all : Nat) : Bool := decide (free * 100 < rdF s R.TIER_CFG_LOW_PCT * all)

/-- An advice record (05 Table 05-6), at most one per object and reason in `ADVICE_MIN` strokes, and none in the first 1,024
(22 R477). -/
def advise (s : State) (reason kind from_ to_ pages object tenant : Nat) : State :=
  let last := s.tier.advice.find? (fun a => a.object = object && a.reason = reason)
  if rdF s R.TIER_CFG_ADVICE_EN = 0 ∨ strokesDone s < 1024 ∨ last.any (fun a => decide (s.stk.number < a.stroke + rdF s R.TIER_CFG_ADVICE_MIN)) then s
  else
    let kept := s.tier.advice.filter (fun a => !(a.object = object && a.reason = reason))
    let s := { s with tier := { s.tier with advice := kept ++ [Advice.mk object reason s.stk.number] } }
    raiseBit s .tier 0 5 (.named EV_PLACE_ADVICE
      [reason + kind * 2 ^ 4 + from_ * 2 ^ 8 + to_ * 2 ^ 18 + pages % 2 ^ 32 * 2 ^ 32, object, s.stk.number] (tenantDoms s tenant))

/-- The lanes that hold the Tier H copies of some pages. -/
def lanesOf (s : State) (ps : List Nat) : Nat :=
  maskOf (ps.filterMap (fun p => (pteOf s p).bind (fun e => if e.h then some (frameLane e.hFrame) else none)))

/-- Reason 5: the WAITING session idle longest is suggested for PARK (05 R113). -/
def adviseParks (s : State) : State :=
  let xs := s.ses.tab.filter (fun e => e.2.d.st == .waiting && !e.2.d.moving)
  (sortBy (fun a b => lexLe [2 ^ 32 - a.2.d.idle, a.1] [2 ^ 32 - b.2.d.idle, b.1]) xs).foldl (fun s (sid, x) =>
    advise s 5 0 (lanesOf s x.privPages) 0 x.privPages.length (sesObject sid x.d.gen) x.d.tenant) s

/-- Reasons 1, 2 and 4 name the objects that lie on a lane. -/
def adviseLane (s : State) (reason lane : Nat) : State :=
  s.ses.tab.foldl (fun s (sid, x) =>
    let ps := x.privPages.filter (fun p => (pteOf s p).any (fun e => e.h && frameLane e.hFrame = lane))
    if ps.isEmpty then s
    else
      advise s reason 0 (lanesOf s x.privPages) (maskOf ((liveLanes s).filter (· != lane))) ps.length (sesObject sid x.d.gen) x.d.tenant) s

/-- The figures of the `TIER` and `MOV` pages at a finish (05 Tables 05-10 and 05-11). -/
def tierFigures (s : State) : State :=
  let s := wrF (wrF s R.TIER_H_FRAMES (hFrames s)) R.TIER_H_FREE (freeH s)
  let s := wrF (wrF s R.TIER_F_FRAMES (fFrames s)) R.TIER_F_FREE (freeF s)
  let s := wrF s R.TIER_DIRTY_PAGES (dirtyPages s)
  let s := wrF s R.MOV_STAT_ACTIVE (liveOps s).length
  let s := if lowFrames s (freeH s) (hFrames s) then adviseParks (raiseBit s .tier 0 2 .plain) else s
  let s := if lowFrames s (freeF s) (fFrames s) then raiseBit s .tier 0 3 .plain else s
  { s with tier := { s.tier with heldBefore := s.tier.heldNow, heldNow := false } }

/-- The words O0 to O7 (05 Table 05-4). -/
def OpEnt.words (o : OpEnt) (id : Nat) : List Nat :=
  [id % 2 ^ 17 + o.kind % 16 * 2 ^ 20 + o.cls % 4 * 2 ^ 24 + o.st.code * 2 ^ 28 + o.round % 8 * 2 ^ 32 + o.src % 4 * 2 ^ 35 +
     o.dst % 4 * 2 ^ 37 + o.tenant % 2 ^ 12 * 2 ^ 48,
   o.object, o.pages % 2 ^ 32 + o.done % 2 ^ 32 * 2 ^ 32, o.redo % 2 ^ 32 + o.copied % 2 ^ 32 * 2 ^ 32, o.start, o.epoch,
   o.status % 2 ^ 16 + o.lanes % 2 ^ 10 * 2 ^ 16 + b2n o.forced * 2 ^ 32, 0]

end Sys2Proof.Machine
end

