-- ==== Sys2Proof/Machine/Lanes.lean ====
section
/-! DEFINITION. Lane dies (08_lane_dies.md): lane buses, lane reduce units, the ends of legs on blades, Control-die slots, and the
governors of the lanes. -/

namespace Sys2Proof.Machine

/-! ### The lane reduce unit (08 R179 to R181) -/

def tagKey (k lane tag : Nat) : Nat := (k * 16 + lane) * 4096 + tag

def tagEnts (s : State) (k lane : Nat) : List TagEnt :=
  match legOf s k with
  | none => []
  | some l => (mapGet l.tags lane).getD []

/-- The tag states of one granted leg on one lane. -/
def tagsOf (s : State) (k lane : Nat) : Map TagSt := s.bld.tags.filter (fun e => e.1 / 4096 = k * 16 + lane)

/-- Buffer words that a tag uses (08 R179), and whether a tag is open. -/
def tagWords (e : TagEnt) : Nat := if e.op = 1 then e.n * (32 * 2 ^ e.log2d + 2) else e.n
def tagOpen (e : TagEnt) (t : TagSt) : Bool := decide (t.got < e.contrib) || !t.halves.isEmpty

/-- The open tags of a lane with the words they use. -/
def openTags (s : State) (lane : Nat) : List Nat :=
  s.bld.tags.filterMap (fun (i, t) =>
    if i / 4096 % 16 = lane then
      match (tagEnts s (i / 65536) lane).find? (fun e => e.tag = i % 4096) with
      | some e => if tagOpen e t then some (tagWords e) else none
      | none => none
    else none)

/-- `LANE_REDUCE` follows the open tags (08 Table 08-6). -/
def reduceFigures (s : State) (lane : Nat) : State :=
  let ws := openTags s lane
  wrI (wrI s R.LANE_REDUCE_TAGS lane ws.length) R.LANE_REDUCE_PEAK_WORDS lane
    (max (rdI s R.LANE_REDUCE_PEAK_WORDS lane) (min (sumOf ws) 524287))

/-- A contribution error of a blade (08 R181): the leg is poisoned and `E_REDUCE_INVALID` recorded in the `LANE` page. -/
def reduceError (s : State) (k lane g : Nat) : State :=
  noteErr (recordErr (poisonLeg s k (some g)) .lane lane (bladePc g % 64) E_REDUCE_INVALID)
    { cls := 7, unit := unitId 6 lane, code := E_REDUCE_INVALID }

/-- FP32 words of a byte string. -/
def f32Words (b : List Byte) : List Num := (fieldsAt 4 b 0 (b.length / 4)).map f32Val
def f32Pack (xs : List Num) : List Byte := packFields 4 (xs.map f32Bits)

/-- Two pair states merged into one (08 R180): the pairs (m, l) and D words for each. -/
def mergePair (d : Nat) (ap : Int × Num) (ao : List Num) (bp : Int × Num) (bo : List Num) : (Int × Num) × List Num :=
  let m := max ap.1 bp.1
  let part := fun (p : Int × Num) (x : Num) => if p.1 = -32768 then Num.zero false else f32 (numScale (p.1 - m) x)
  ((m, f32Add (part ap ap.2) (part bp bp.2)),
    (List.range d).map (fun i => f32Add (part ap (ao.getD i (.zero false))) (part bp (bo.getD i (.zero false)))))

def pairsOf (b : List Byte) : List (Int × Num) :=
  (List.range (b.length / 8)).map (fun i => (signed 32 (u32 b (8 * i)), f32Val (u32 b (8 * i + 4))))

def pairBytes (ps : List (Int × Num)) : List Byte := (ps.map (fun p => leBytes 4 (unsigned 32 p.1) ++ leBytes 4 (f32Bits p.2))).flatten

/-- N pairs with their words merged (08 R180). -/
def mergeStates (n d : Nat) (ap aw bp bw : List Byte) : List Byte × List Byte :=
  let a := pairsOf ap
  let b := pairsOf bp
  let ow := f32Words aw
  let bo := f32Words bw
  let r := (List.range n).map (fun i =>
    mergePair d (a.getD i (-32768, .zero false)) ((ow.drop (i * d)).take d) (b.getD i (-32768, .zero false)) ((bo.drop (i * d)).take d))
  (pairBytes (r.map (·.1)), f32Pack (r.map (·.2)).flatten)

/-- A finished result goes to its Combine group with its poison (08 R181, 07 R164); `CMBG_POISON` counts each leg once for a group. -/
def deliver (s : State) (k lane : Nat) (e : TagEnt) (pairs bytes : List Byte) (poison : Bool) : State :=
  let first := poison && !s.bld.results.any (fun r => r.leg = k && r.group = e.cmbg && r.poison)
  let s := { s with bld := { s.bld with results := s.bld.results ++ [{
    leg := k, group := e.cmbg, dtag := e.dtag, lane := lane, kind := e.op, log2d := e.log2d, pairs := pairs, bytes := bytes
    poison := poison }] } }
  if first then cntI (poisonLeg s k none) R.CMBG_POISON_LEGS e.cmbg 1 else s

def setTag (s : State) (i : Nat) (t : TagSt) : State := { s with bld := { s.bld with tags := mapSet s.bld.tags i t } }

/-- One contribution more; the last one sends the result and frees the buffer. -/
def tagStep (s : State) (k lane : Nat) (e : TagEnt) (t : TagSt) (pairs bytes : List Byte) : State :=
  let i := tagKey k lane e.tag
  let t := { t with got := t.got + 1 }
  if t.got < e.contrib then setTag s i { t with pairs := pairs, bytes := bytes }
  else deliver (setTag s i { got := t.got }) k lane e pairs bytes t.poison

/-- A `SHIP` transfer reaches the reduce unit (08 R180, R181); one that carries poison poisons the leg (07 R164). -/
def reduceIn (s : State) (g : Nat) (x : Ship) : State :=
  let k := x.leg
  let lane := bladeLane g
  let bad := fun (s : State) => reduceError s k lane g
  let s := if x.poison then poisonLeg s k (some g) else s
  match (tagEnts s k lane).find? (fun e => e.tag = x.tag) with
  | none => bad s
  | some e =>
    let i := tagKey k lane x.tag
    let t := (mapGet s.bld.tags i).getD {}
    let waits := (tagsOf s k lane).any (fun y => mapHas y.2.halves g && (y.1 != i || x.area != 0))
    let t' := { t with poison := t.poison || x.poison }
    if waits || decide (e.contrib ≤ t.got) then bad s
    else if e.op = 1 then
      if x.area = 1 then
        if x.count = e.n then setTag s i { t' with halves := mapSet t.halves g x.bytes } else bad s
      else
        match mapGet t.halves g with
        | none => bad s
        | some ps =>
          let t' := { t' with halves := mapErase t.halves g }
          if x.count ≠ e.n * (32 * 2 ^ e.log2d) then bad (setTag s i t')
          else if t.got = 0 then tagStep s k lane e t' ps x.bytes
          else
            let r := mergeStates e.n (32 * 2 ^ e.log2d) t.pairs t.bytes ps x.bytes
            tagStep s k lane e t' r.1 r.2
    else if x.area ≠ 0 ∨ x.count ≠ e.n then bad s
    else if e.op = 2 then
      if t.got + 1 < e.contrib then deliver (setTag s i { got := t.got + 1 }) k lane e [] x.bytes x.poison
      else tagStep s k lane e { t with poison := x.poison } [] x.bytes
    else if t.got = 0 then tagStep s k lane e t' [] x.bytes
    else tagStep s k lane e t' [] (f32Pack ((f32Words t.bytes).zipWith f32Add (f32Words x.bytes)))

/-- Whether a lane has nothing more to ship for a leg. -/
def laneDone (s : State) (k lane : Nat) : Bool :=
  !(legOf s k).any (fun l => l.openBlades.any (fun g => bladeLane g = lane)) &&
    !s.bld.runs.any (fun e => bladeLane e.1 = lane && e.2.ships.any (fun x => x.leg = k))

/-- Tags still open once a leg's last pull on a lane has ended and its ships have arrived (08 R181). -/
def closeTags (s : State) (k lane : Nat) : State :=
  if !laneDone s k lane then s
  else
    let isOpen := (tagsOf s k lane).any (fun y => (tagEnts s k lane).any (fun e => e.tag = y.1 % 4096 && tagOpen e y.2))
    let s := if isOpen then
        noteErr (recordErr (poisonLeg s k none) .lane lane 0xFFFF E_REDUCE_INVALID)
          { cls := 7, unit := unitId 6 lane, code := E_REDUCE_INVALID }
      else s
    { s with bld := { s.bld with tags := s.bld.tags.filter (fun e => e.1 / 4096 ≠ k * 16 + lane) } }

/-! ### The lane bus (08 R175 to R178, 09 R200) -/

/-- Blades of a PC that are in use. -/
def pcBlades (s : State) (pc : Nat) : List Nat := ((List.range 128).map (pc * 128 + ·)).filter (fun g => !bladeFenced s g)

/-- Whether a blade has executed entry i of a leg, or has no entry of it. -/
def executed (s : State) (k g i : Nat) : Bool :=
  i == 0xFFFF || !(legOf s k).any (fun l => l.openBlades.contains g) || ((runOf s g).leg == some k && decide (i < (runOf s g).at_))

/-- The payload of a `QLOAD` (09 R200): bytes of the Combine store at `SOURCE`, group in its upper part (notes/assumptions/21.md). -/
def qloadBytes (s : State) (x : SchedEnt) : List Byte :=
  cellsGet s.bld.store x.source (8 * (bitsOf x.header 19 6 + 1))

/-- Which session (in slot order) and position of the pass a query slot of a leg serves (09 R199, R213): counted from the `QREG` of the first
template or entry that reads it. -/
def slotUse (s : State) (k g q : Nat) : Option (Nat × Nat) :=
  match legOf s k with
  | none => none
  | some l =>
    match legPlan s l with
    | none => none
    | some p =>
      let pm := if l.leg < p.hdr.stepLegs then max 1 p.hdr.posMax else 8
      let np := if l.leg < p.hdr.stepLegs then p.hdr.batch * pm else 8
      let qs := ((p.att.filter (fun t => t.leg = l.leg)).map (·.qreg)) ++
        ((legEntries s k g).filter (fun e => 1 ≤ entOp e && entOp e ≤ 4)).map entQreg
      (qs.find? (fun r => decide (r ≤ q) && decide (q < r + np))).map (fun r => ((q - r) / pm, (q - r) % pm))

/-- The absolute position of the query in a slot (0 where nothing reads it), none where the pass does not use the slot (09 R199, R204). -/
def slotPosition (s : State) (k g q : Nat) : Option Nat :=
  match legOf s k, slotUse s k g q with
  | some l, some (j, i) => (l.heads[j]?).bind (fun h => if i < h.2 then some (h.1 + i) else none)
  | _, _ => some 0

/-- Whether the Combine program has sent a `QLOAD` payload that it sends by `SEND` (09 R214). -/
def sendDone (s : State) (k : Nat) (x : SchedEnt) : Bool :=
  match legOf s k with
  | none => true
  | some l =>
    match legPlan s l with
    | none => true
    | some p =>
      let g := x.source / 2 ^ 23 % 16
      let prog := (mapGet p.comb (l.leg * 16 + g)).getD []
      !prog.any (fun i => i.op = 8 && i.src = x.source % 2 ^ 23) || s.bld.sends.contains (k, x.source)

/-- Whether a segment may be written to a blade (07 R144): what it overwrites of this leg's list has been executed. -/
def segFree (s : State) (k g t : Nat) (x : SchedEnt) : Bool :=
  match legOf s k with
  | none => true
  | some l =>
    match legPlan s l with
    | none => true
    | some p =>
      let n := (legEntries s k g).length
      n ≤ 1024 || (List.range (segCount x)).all (fun j =>
        match segEntry p l.leg g n t ((segFirst x + j) % 1024) with
        | some i => i < 1024 || executed s k g (i - 1024)
        | none => true)

/-- The next schedule transfer of a PC: of the first granted leg that still has one, where its `AFTER` entries have been executed and its
payload is there (09 R200). -/
def nextSched (s : State) (pc : Nat) : Option (Nat × SchedEnt) :=
  let ks := (sortBy (fun a b => lexLe [a.2.start94, a.1] [b.2.start94, b.1]) (s.stk.granted.filter (fun e => !e.2.stopped))).map (·.1)
  let rest := ks.filterMap (fun k => ((legSched s k pc).drop (schedDone s k pc)).head?.map (fun x => (k, x)))
  match rest with
  | [] => none
  | (k, x) :: _ =>
    let ts := (pcBlades s pc).filter (schedHits x)
    let free := ts.all (fun g => executed s k g x.after && (match legFor s g with | some j => j == k | none => true) &&
      (schedType x != 2 || segFree s k g (schedDone s k pc) x))
    if free && (schedType x != 1 || sendDone s k x) then some (k, x) else none

/-- The blade that a transfer reaches takes up the leg, if it has not (07 R144). -/
def takeLeg (s : State) (k g : Nat) : State := if (runOf s g).leg = some k then s else beginLeg s g k

/-- A query load reaches one blade (07 R159); a slot that the pass does not use is loaded with zeros and position 0 (09 R199). -/
def qload (s : State) (k g : Nat) (x : SchedEnt) : State :=
  let s := takeLeg s k g
  let q := bitsOf x.header 12 3
  let pos := slotPosition s k g q
  let s := sramPut s g (0x200 * q) (if pos.isSome then qloadBytes s x else List.replicate (8 * (bitsOf x.header 19 6 + 1)) 0)
  sramPut s g (0x3800 + 8 * q) (leBytes 4 (bitsOf x.header 15 4 + 256) ++ leBytes 4 (pos.getD 0))

/-- The words of a segment for one blade (09 R200, R202): the image's, or those of the device's blocks where `FILL` is set. -/
def segWords (s : State) (k g t : Nat) (x : SchedEnt) : List Word :=
  match legOf s k with
  | none => []
  | some l =>
    match legPlan s l with
    | none => []
    | some p =>
      if x.fill then
        let es := legEntries s k g
        (List.range (segCount x)).map (fun j =>
          match (segEntry p l.leg g es.length t ((segFirst x + j) % 1024)).bind (fun i => es[i]?) with
          | some e => e
          | none => baseEnt 0)
      else (fieldsAt 8 (bytesAt ((mapGet p.pullSrc (bladeLane g)).getD []) x.source (8 * segCount x)) 0 (segCount x)).map (BitVec.ofNat 64)

/-- A segment reaches one blade's pull-list store (07 R144). -/
def segLoad (s : State) (k t g : Nat) (x : SchedEnt) : State :=
  let ws := segWords s k g t x
  ((List.range ws.length).zip ws).foldl (fun s (j, w) =>
    sramPut s g (0x1800 + 8 * ((segFirst x + j) % 1024)) (leBytes 8 w.toNat)) (takeLeg s k g)

def setBus (s : State) (pc : Nat) (b : BusSt) : State :=
  { s with bld := { s.bld with buses := if b = {} then mapErase s.bld.buses pc else mapSet s.bld.buses pc b } }

/-- Bytes carried: a header beat and the payload beats (08 R175). -/
def busBytes (s : State) (pc beats : Nat) : State := cntI s R.PCH_LBUS_BYTES pc (8 * (1 + beats))

/-- A parity error on a leg's transfer to or from a blade (08 R178). -/
def busParity (s : State) (k g : Nat) : State :=
  let pc := bladePc g
  let s := recordErr (cntI (poisonLeg s k (some g)) R.PCH_LBUS_ERR_PARITY pc 1) .pch pc (g % 128) E_LBUS_PARITY
  noteErr s { cls := 4, unit := unitId 5 pc, code := E_LBUS_PARITY }

/-- The blade whose `SHIP` is served next: round-robin after the one last served (08 R177). -/
def nextShip (s : State) (pc : Nat) : Option (Nat × Ship × List Ship) :=
  let order := (List.range 128).map (fun i => pc * 128 + ((busOf s pc).last + 1 + i) % 128)
  order.findSome? (fun g =>
    match (runOf s g).ships with
    | [] => none
    | x :: xs => some (g, x, xs))

def doSched (s : State) (pc k : Nat) (x : SchedEnt) (parity : Bool) : State :=
  let beats := if schedType x = 1 then bitsOf x.header 19 6 + 1 else segCount x
  let b := busOf s pc
  let t := schedDone s k pc
  let ts := (pcBlades s pc).filter (schedHits x)
  let s := busBytes s pc beats
  let s := ts.foldl (fun s g => if schedType x = 1 then qload s k g x else segLoad s k t g x) s
  let s := setBus s pc { b with done := mapSet b.done k (t + 1) }
  if parity then busParity s k (pc * 128 + bitsOf x.header 5 7) else s

/-- A `SHIP`: two words per beat, or one pair (08 Table 08-1). -/
def doShip (s : State) (pc g : Nat) (x : Ship) (xs : List Ship) (parity : Bool) : State :=
  let s := setBus (busBytes s pc (ceilDiv x.bytes.length 8)) pc { busOf s pc with last := g % 128 }
  let s := updRun s g (fun r => { r with ships := xs })
  if !mapHas s.stk.granted x.leg then s
  else
    let s := if parity then busParity s x.leg g else s
    reduceFigures (closeTags (reduceIn s g x) x.leg (bladeLane g)) (bladeLane g)

/-! ### Contexts of PCs moved (07 R138, 14 R318, R320, R322) -/

/-- A run of cells copied into a run of another array. -/
def cellsMove (src dst : Map Byte) (lo base len : Nat) : Map Byte :=
  dst.filter (fun e => decide (e.1 < base)) ++
    (src.filter (fun e => decide (lo ≤ e.1) && decide (e.1 < lo + len))).map (fun e => (e.1 - lo + base, e.2)) ++
    dst.filter (fun e => decide (base + len ≤ e.1))

/-- The half-banks of a PC. -/
def pcHalfBanks (pc : Nat) : List Nat := (List.range 128).map (pc * 128 + ·)

/-- Working SRAM and standby seat of a PC's blades change places. -/
def exchangePc (s : State) (pc : Nat) : State :=
  (pcHalfBanks pc).foldl (fun s g =>
    let m := s.bld.sram
    let a := cellsMove m m (g * 32768 + 16384) (g * 32768) 16384
    { s with bld := { s.bld with sram := cellsMove m a (g * 32768) (g * 32768 + 16384) 16384 } }) s

/-- The place of a blade's 16 KiB in a lane image of the context store. -/
def imageAt (image g : Nat) : Nat := image * 2 ^ 27 + g % 8192 * 16384

/-- `SAVE` of one blade's working SRAM to a lane image. -/
def saveBlade (s : State) (image g : Nat) : State :=
  { s with crw := { s.crw with store := cellsMove s.bld.sram s.crw.store (g * 32768) (imageAt image g) 16384 } }

/-- The lane image that holds the carry of a pass on a lane. -/
def imageOf (s : State) (pass lane : Nat) : Option Nat := (s.crw.images.find? (fun e => e.2 = pass * 16 + lane)).map (·.1)

/-- `RESTORE` of one blade's context to its working SRAM (`at_` 0) or standby seat (16,384): from the context store where a saved pass's
carry stands there, else the plan's resident entries with all other bytes zero. -/
def restoreBlade (s : State) (c : Ctx) (g at_ : Nat) : State :=
  match c.carry.bind (fun i => imageOf s i (bladeLane g)) with
  | some im => { s with bld := { s.bld with sram := cellsMove s.crw.store s.bld.sram (imageAt im g) (g * 32768 + at_) 16384 } }
  | none =>
    let s := { s with bld := { s.bld with sram := cellsClear s.bld.sram (g * 32768 + at_) (g * 32768 + at_ + 16384) } }
    match planVer s c.model c.version with
    | some p => putResident s p g at_
    | none => s

def restorePc (s : State) (c : Ctx) (pc at_ : Nat) : State := (pcHalfBanks pc).foldl (fun s g => restoreBlade s c g at_) s

/-- The context that a switch brings to a PC: the carry stands only where the pass ran. -/
def switchCtx (s : State) (w : Switch) (pc : Nat) : Ctx :=
  if w.incoming.carry.any (fun i => (mapGet s.stk.passes i).any (fun p => p.pcs.contains pc)) then w.incoming else { w.incoming with carry := none }

/-- The blades of a PC that a switch has transferred. -/
def movedOf (w : Switch) (pc : Nat) : Nat := (mapGet w.moved pc).getD 0

/-- One transfer of a switch, `SAVE` or `RESTORE`: the next blade of a PC, 2,048 beats (08 R175 to R177). -/
def switchBlade (s : State) (pc : Nat) (w : Switch) : State :=
  let g := pc * 128 + movedOf w pc
  let s := busBytes s pc 2048
  let s := match w.saveImage with | some pass => (match imageOf s pass (pc / 64) with | some im => saveBlade s im g | none => s)
                                  | none => restoreBlade s (switchCtx s w pc) g 0
  { s with crw := { s.crw with switches := mapUpd s.crw.switches w.lane (fun w => { w with moved := mapSet w.moved pc (movedOf w pc + 1) }) } }

/-- A `SAVE` or `RESTORE` transfer of a switch running on the lane: a parity error fails the switch on its PC (08 R178, 14 R322). -/
def doSwitchBus (s : State) (pc : Nat) (w : Switch) (parity : Bool) : State :=
  let g := movedOf w pc
  if !parity then switchBlade s pc w
  else
    let s := recordErr (cntI (busBytes s pc 2048) R.PCH_LBUS_ERR_PARITY pc 1) .pch pc g E_LBUS_PARITY
    let s := noteErr (recordErr s .pch pc g E_CREW_SWITCH) { cls := 6, unit := unitId 5 pc, code := E_CREW_SWITCH }
    { s with crw := { s.crw with switches := mapUpd s.crw.switches w.lane (fun w => { w with failed := w.failed ++ [pc] }) } }

/-- LANE_BUS_TRANSFER: what the bus of a PC carries next, in the order of 08 R177. -/
def busTransfer (s : State) (pc : Nat) (parity : Bool) : State :=
  match nextSched s pc with
  | some (k, x) => doSched s pc k x parity
  | none =>
    match nextShip s pc with
    | some (g, x, xs) => doShip s pc g x xs parity
    | none =>
      match mapGet s.crw.switches (pc / 64) with
      | some w => if w.whole.contains pc && !w.failed.contains pc && decide (movedOf w pc < 128) then doSwitchBus s pc w parity else s
      | none => s

def execLaneBusTransfer (pc : Nat) (parity : Bool) (s : State) : Host.Outcome State Fault Refusal :=
  if 640 ≤ pc then .fault .noSuchUnit else .next (busTransfer s pc parity)

/-! ### LEG_END (07 R147) -/

def legEnd (s : State) (g : Nat) : State :=
  match legFor s g with
  | none => s
  | some k =>
    let s1 := takeLeg s k g
    match legOf s1 k with
    | none => s
    | some l =>
      match legPlan s1 l with
      | none => s
      | some p =>
        let n := (legEntries s1 k g).length
        let s1 := runToPull k g p l n n s1
        if (runOf s1 g).at_ < n then s
        else
          let s1 := updRun s1 g (fun r => { r with leg := none, at_ := 0, words := [], pairs := [], stalled := false, kbase := 0, sblk := 0 })
          let s1 := updLeg s1 k (fun l => { l with openBlades := setDel l.openBlades g })
          reduceFigures (closeTags (idleSlot s1 (bankOf g)) k (bladeLane g)) (bladeLane g)

def execLegEnd (blade : Nat) (s : State) : Host.Outcome State Fault Refusal :=
  if 81920 ≤ blade then .fault .noSuchUnit else .next (legEnd s blade)

/-! ### Control-die slots (07 R147, 08 R169, R173) -/

/-- CONTROL_DIE_SLOT: one row read or written whole through the Lane die's ECC, charged to the half-bank's window. A slot for a frame that a leg
owns waits, and so does one of a busy blade whose window has no room for it and one forced refresh. -/
def controlSlot (s : State) (g row : Nat) (wr : Option (List Byte)) (flips : List (Nat × Byte)) : State :=
  let f := frameOf g (row / 64)
  if frameOwned s f then s
  else if !bladeIdle s g && decide (1099 < slotCharge s g + 141 + 280) then cntI s R.PCH_CSLOT_DEFERRED (bladePc g) 1
  else
    let s := chargeSlot (if bladeIdle s g then s else cntI s R.PCH_CSLOT_GRANTED (bladePc g) 1) 141 g
    match wr with
    | some bs => touchFrame (writeFrame s f (row % 64 * 1024) (bs.take 1024)) f
    | none =>
      let r := rowRead s g row flips
      pullNotes s g row r.2.1 r.2.2

def execControlDieSlot (blade row : Nat) (wr : Option (List Byte)) (flips : List (Nat × Byte)) (s : State) :
    Host.Outcome State Fault Refusal :=
  if 81920 ≤ blade ∨ 8192 ≤ row then .fault .noSuchUnit else .next (controlSlot s blade row wr flips)

end Sys2Proof.Machine
end

