-- ==== Sys2Proof/Machine/Governor.lean ====
section
/-! DEFINITION. The lanes' governors (08_lane_dies.md R182 to R189): `cap_now`, limits, the slow and the fast loop, sprint holds and
cold starts. Caps are held in the 100 mW of `LANE_GOV_STATUS.CAP_NOW`, rounded down (notes/assumptions/22.md). -/

namespace Sys2Proof.Machine

/-- `CAP_W` in 100 mW. -/
def capProg (s : State) (k : Nat) : Nat := 10 * rdI s R.LANE_GOV_CAP_W k

/-- `adapt` in 100 mW. 0, its reset value, is no value of `adapt`: the loop has not begun and `adapt` starts at `CAP_W`. -/
def adaptOf (s : State) (k : Nat) : Nat := let a := rdI s R.LANE_ADAPT_CAP k; if a = 0 then capProg s k else min a (capProg s k)

def laneHot (s : State) (k : Nat) : Bool := rdI s R.LANE_GOV_STATUS_HOT k == 1
def laneTripped (s : State) (k : Nat) : Bool := s.gov.trips.contains k
def laneCold (s : State) (k : Nat) : Bool := decide (0 < rdI s R.LANE_COLD_LEFT k)

/-- The current factor as the bound it sets. -/
def currentCap (s : State) (k : Nat) : Nat := capProg s k * s.pwr.factor / 16

/-- `cap_now` of a lane (08 R182). -/
def capNow (s : State) (k : Nat) : Nat :=
  let c := capProg s k
  let c := if rdI s R.LANE_GOV_MODE k = 0 then min c (adaptOf s k) else c
  let c := if laneCold s k then min c (capProg s k * 7 / 10) else c
  let c := if laneHot s k then min c 160 else c
  min c (currentCap s k)

/-- Whether a lane is online (22 R476), and whether its Erg test holds it out (21 R453). -/
def laneOnline (s : State) (k : Nat) : Bool := bitOf (rdF s R.BOOT_LANES_ONLINE) k
def laneHeld (s : State) (k : Nat) : Bool := s.flt.tests.any (fun t => t.unit == unitId 6 k && t.ended.isNone)

/-- Whether grants are allowed on a lane (08 R182, 15 R334, 21 R453, 22 R468, R476). -/
def grantsAllowed (s : State) (k : Nat) : Bool :=
  !laneTripped s k && s.pwr.water.isNone && s.gov.pllOk && laneOnline s k && !laneHeld s k && s.lnk.feather == .full

/-- `LIMITER` (08 R182, Table 08-6). -/
def limiterOf (s : State) (k : Nat) : Nat :=
  let c := capNow s k
  if laneTripped s k then 6
  else if s.pwr.water.isSome then 5
  else if c = capProg s k then 0
  else if currentCap s k = c then 3
  else if laneHot s k ∧ c = 160 then 4
  else if laneCold s k ∧ c = capProg s k * 7 / 10 then 2
  else 1

/-- The protective limits of rows 1 to 5 that take `cap_now` below `CAP_W` or stop grants, as `LIMITER` codes in the order of Table
08-3 (08 R186). -/
def limitsOf (s : State) (k : Nat) : List Nat :=
  (if laneTripped s k then [6] else []) ++ (if s.pwr.water.isSome then [5] else []) ++
    (if currentCap s k < capProg s k then [3] else []) ++ (if laneHot s k && decide (160 < capProg s k) then [4] else []) ++
    (if laneCold s k then [2] else [])

/-- `EV_POLICY_OVERRIDE` at the onset of each limit while `MODE` is 1 (08 R186). -/
def overrides (s : State) (k : Nat) : State :=
  let now := limitsOf s k
  let old := (mapGet s.gov.limits k).getD []
  let s := { s with gov := { s.gov with limits := if now.isEmpty then mapErase s.gov.limits k else mapSet s.gov.limits k now } }
  if rdI s R.LANE_GOV_MODE k ≠ 1 then s
  else
    (now.filter (fun x => !old.contains x)).foldl (fun s x =>
      raiseBit (cntI s R.LANE_OVERRIDE_COUNT k 1) .lane k 4
        (.tied EV_POLICY_OVERRIDE [k + x * 16 + capNow s k % 65536 * 65536, 1])) s

/-- The governors at a catch (08 R182). -/
def governCatch (s : State) : State :=
  (List.range 10).foldl (fun s k =>
    let s := wrI s R.LANE_ADAPT_CAP k (adaptOf s k)
    let s := wrI (wrI s R.LANE_GOV_STATUS_CAP_NOW k (capNow s k)) R.LANE_GOV_STATUS_LIMITER k (limiterOf s k)
    overrides s k) s

/-- The slow loop of a lane counts its 64 strokes anew (08 R183). -/
def slowRestart (s : State) (k : Nat) : State :=
  { s with gov := { s.gov with slowAt := mapSet s.gov.slowAt k s.stk.number } }

/-- A sprint hold ends (08 R185). -/
def holdEnd (s : State) (k : Nat) : State :=
  let s := slowRestart s k
  let s := wrI (wrI (wrI s R.LANE_GOV_MODE k 0) R.LANE_GOV_STATUS_HOLD_LEFT k 0) R.LANE_ADAPT_CAP k (capProg s k)
  raiseBit s .lane k 5 (.tied EV_GOV_HOLD_END [k])

/-- A `LANE_GOV` word takes effect (08 R185, R187). -/
def applyGov (s : State) (k w : Nat) : State :=
  let was := rdI s R.LANE_GOV_MODE k
  let s := wrWord s .lane k 0 0x100 w
  if rdI s R.LANE_GOV_MODE k = 1 then wrI s R.LANE_GOV_STATUS_HOLD_LEFT k (rdI s R.LANE_GOV_HOLD_STROKES k)
  else
    let s := wrI s R.LANE_GOV_STATUS_HOLD_LEFT k 0
    if was = 1 then wrI (slowRestart s k) R.LANE_ADAPT_CAP k (capProg s k) else s

/-- The lanes a list of words allows energy to: replaces a lane's value by its sum with n. -/
def spend (s : State) (k n : Nat) : State := { s with gov := { s.gov with spent := modNth s.gov.spent k (· + n) } }

/-- P_idle × T in fJ; the register holds mW and T is in µs (06 R130). -/
def idleFj (s : State) (k us : Nat) : Nat := rdI s R.LANE_COEF_P_IDLE_MW k * us * 1000000

/-- The counts of holds and cold starts, which the stroke that ends takes down by one (08 R185, R188). -/
def governCounts (s : State) : State :=
  (List.range 10).foldl (fun s k =>
    let s := wrI s R.LANE_GOV_STATUS_HOLD_LEFT k (rdI s R.LANE_GOV_STATUS_HOLD_LEFT k - 1)
    if s.gov.cold.contains k then wrI s R.LANE_COLD_LEFT k (rdI s R.LANE_COLD_LEFT k - 1) else s) s

/-- The fast energy loop at a finish (08 R184). `energy` is the measured energy of each lane in fJ. -/
def governFinish (s : State) (energy : List Nat) : State :=
  let us := s.stk.period
  let s := (List.range 10).foldl (fun s k =>
    let e := energy.getD k 0
    let allow := idleFj s k us + s.gov.spent.getD k 0
    let s := wrI s R.LANE_ENERGY_LAST_UJ k (min (e / 10 ^ 9) (2 ^ 32 - 1))
    if allow < e then
      cntI { s with stk := { s.stk with overspent := modNth s.stk.overspent k (· + (e - allow)) } } R.LANE_ENERGY_OVER k 1
    else s) s
  { s with gov := { s.gov with spent := List.replicate 10 0 } }

/-! ### The governor's rows -/

/-- SLOW_THERMAL_LOOP (08 R183): in `FLOATING` only, and every 64 strokes. -/
def slowLoop (s : State) (k predict : Nat) : State :=
  if rdI s R.LANE_GOV_MODE k ≠ 0 ∨ s.stk.number < (mapGet s.gov.slowAt k).getD 0 + 64 then s
  else
    let s := slowRestart s k
    let target := max 70 (min 90 (rdI s R.LANE_GOV_TARGET_C k))
    let a := adaptOf s k
    let a := if target < predict then max 160 (a - 10) else if predict + 3 < target then min (capProg s k) (a + 10) else a
    wrI (wrI s R.LANE_TEMP_PREDICT k (min predict 255)) R.LANE_ADAPT_CAP k a

def execSlowThermalLoop (lane predict : Nat) (s : State) : Host.Outcome State Fault Refusal :=
  if 10 ≤ lane then .fault .noSuchUnit else .next (slowLoop s lane predict)

/-- The hottest core-die sensor is seen (08 Table 08-6). -/
def seeTemp (s : State) (k die temp : Nat) : State :=
  wrI (wrI s R.LANE_TEMP_CORE_MAX k (min temp 255)) R.LANE_TEMP_HOT_DIE k (die % 16)

/-- `LANE_TEMP` with the lane in [35:32] (15 Table 15-10). -/
def tempWord (s : State) (k : Nat) : Nat := rdWord s .lane k 0 0x118 % 2 ^ 32 + k * 2 ^ 32

/-- `hot` is set (08 R182, R190). -/
def setHot (s : State) (k : Nat) : State :=
  if laneHot s k then s
  else raiseBit (wrI s R.LANE_GOV_STATUS_HOT k 1) .lane k 2 (.tied EV_LANE_THERMAL [tempWord s k])

def hotSet (s : State) (k die temp : Nat) : State :=
  if temp < rdI s R.LANE_THERM_LIMIT_C k then s else setHot (seeTemp s k die temp) k

def execLaneHotSet (lane die temp : Nat) (s : State) : Host.Outcome State Fault Refusal :=
  if 10 ≤ lane then .fault .noSuchUnit else .next (hotSet s lane die temp)

/-- `hot` clears below `CLEAR_C`, and with it a trip; the alarm clears once no lane is hot (08 Table 08-3, 23 R491). -/
def hotClear (s : State) (k temp : Nat) : State :=
  if rdI s R.LANE_THERM_CLEAR_C k ≤ temp then s
  else
    let s := wrI (wrI s R.LANE_TEMP_CORE_MAX k temp) R.LANE_GOV_STATUS_HOT k 0
    let s := { s with gov := { s.gov with trips := setDel s.gov.trips k } }
    { s with gov := { s.gov with alarm := s.gov.alarm && (List.range 10).any (laneHot s) } }

def execLaneHotClear (lane temp : Nat) (s : State) : Host.Outcome State Fault Refusal :=
  if 10 ≤ lane then .fault .noSuchUnit else .next (hotClear s lane temp)

/-- Running legs of a lane stop by R132 at the next pull boundary (08 Table 08-3 rows 1 and 2). -/
def stopLegs (s : State) (hit : Nat → Bool) : State :=
  { s with stk := { s.stk with granted := mapAll s.stk.granted (fun _ l =>
    if (List.range 10).any (fun k => bitOf l.lanes k && hit k) && !(l.openBlades.isEmpty && l.openGroups.isEmpty) then { l with stopped := true }
    else l) }
           crw := { s.crw with switches := mapAll s.crw.switches (fun k w => if hit k then { w with strokes := w.total, moved := [] } else w) } }

/-- LANE_TEMP_TRIP (08 Table 08-3 row 1). -/
def tempTrip (s : State) (k die temp : Nat) : State :=
  if temp < rdI s R.LANE_THERM_TRIP_C k then s
  else
    let s := setHot (seeTemp s k die temp) k
    if laneTripped s k then s
    else
      let s := { s with gov := { s.gov with trips := setAdd s.gov.trips k, alarm := true } }
      let s := stopLegs s (· == k)
      let s := { s with stk := { s.stk with granted := mapAll s.stk.granted (fun _ l =>
        if l.stopped && bitOf l.lanes k && l.trip.isNone then { l with trip := some k } else l) } }
      let s := raiseBit s .lane k 3 (.tied EV_LANE_TRIP [tempWord s k])
      overrides s k

def execLaneTempTrip (lane die temp : Nat) (s : State) : Host.Outcome State Fault Refusal :=
  if 10 ≤ lane then .fault .noSuchUnit else .next (tempTrip s lane die temp)

/-- SPRINT_HOLD_END (08 R185): a hold whose strokes have run out. -/
def execSprintHoldEnd (lane : Nat) (s : State) : Host.Outcome State Fault Refusal :=
  if 10 ≤ lane then .fault .noSuchUnit
  else .next (if rdI s R.LANE_GOV_MODE lane = 1 ∧ rdI s R.LANE_GOV_STATUS_HOLD_LEFT lane = 0 then holdEnd s lane else s)

/-- COLD_START_END (08 R188). -/
def execColdStartEnd (lane : Nat) (s : State) : Host.Outcome State Fault Refusal :=
  if 10 ≤ lane then .fault .noSuchUnit
  else .next (
    if s.gov.cold.contains lane ∧ rdI s R.LANE_COLD_LEFT lane = 0 then
      raiseBit { s with gov := { s.gov with cold := setDel s.gov.cold lane } } .lane lane 6 (.tied EV_LANE_COLD_END [lane])
    else s)

/-- A lane comes online: its cold start begins, and its governor floats at its cap (08 R188). -/
def coldStart (s : State) (k : Nat) : State :=
  let s := wrI (wrI s R.LANE_COLD_LEFT k 4000) R.LANE_ADAPT_CAP k (capProg s k)
  { s with gov := { s.gov with cold := setAdd s.gov.cold k } }

end Sys2Proof.Machine
end

