-- ==== Sys2Proof/Machine/Combine.lean ====
section
/-! DEFINITION. Combine programs (09_decode_legs.md R198, R205, R206, R208, R214) and the logit records they form. -/

namespace Sys2Proof.Machine

/-! ### The store and the operands -/

/-- P, D and the bytes of an element (09 Table 09-1, R201). -/
def PlanHdr.span (h : PlanHdr) : Nat := 2 ^ h.log2p
def PlanHdr.head (h : PlanHdr) : Nat := 32 * 2 ^ h.log2d
def PlanHdr.recBytes (h : PlanHdr) : Nat := 2 * h.kvHeads * h.head * (fmtBits h.kvFmt / 8)

def storeGet (s : State) (g off n : Nat) : List Byte := cellsGet s.bld.store (g * 2 ^ 23 + off) n

def storePut (s : State) (g off : Nat) (bs : List Byte) : State :=
  { s with bld := { s.bld with store := cellsSet s.bld.store (g * 2 ^ 23 + off % 2 ^ 23) bs } }

/-- The program of a group in a granted leg. -/
def cmbProg (s : State) (l : GLeg) (g : Nat) : List CmbIns :=
  match legPlan s l with
  | none => []
  | some p => (mapGet p.comb (l.leg * 16 + g)).getD []

/-- The results that an instruction names (09 R214), and whether all of them have arrived. -/
def namedResults (s : State) (k g dtag : Nat) : List CmbRes :=
  (List.range 10).flatMap (fun lane =>
    s.bld.results.filter (fun r => r.leg = k && r.group = g && r.dtag = dtag && r.lane = lane))

/-- The same results in the order in which they arrived, in which `MERGE` folds them (07 R166). -/
def arrivedResults (s : State) (k g dtag : Nat) : List CmbRes :=
  s.bld.results.filter (fun r => r.leg = k && r.group = g && r.dtag = dtag)

def resultsHere (s : State) (k : Nat) (l : GLeg) (g dtag : Nat) : Bool :=
  (List.range 10).all (fun lane =>
    ((mapGet l.tags lane).getD []).all (fun e =>
      e.cmbg != g || e.dtag != dtag ||
        decide ((if e.op = 2 then e.contrib else 1) ≤
          ((namedResults s k g dtag).filter (fun r => r.lane = lane)).length)))

/-- The scale exponent a, −64 to 63 (09 R214). -/
def CmbIns.exp (i : CmbIns) : Int := signed 7 i.a

/-- Bytes of N elements of a format. -/
def elemSpan (fmt n : Nat) : Nat := ceilDiv (n * fmtBits fmt) 8

/-- The source operand of an instruction: the named results in order of lane, else the store. -/
def cmbSrc (s : State) (k g : Nat) (i : CmbIns) : List Byte :=
  match Config.namedDtag i.op i.src i.dst with
  | some d => ((namedResults s k g d).map (fun r => r.pairs ++ r.bytes)).flatten
  | none => storeGet s g i.src (elemSpan i.sfmt i.n)

/-- The constant operand: bytes of the group's constant store (09 Table 09-2, `CONSTANTS`). -/
def cmbConst (s : State) (l : GLeg) (g : Nat) (i : CmbIns) : List Byte :=
  match legPlan s l with
  | none => []
  | some p => bytesAt ((mapGet p.consts g).getD []) i.dst (elemSpan i.dfmt i.n)

/-- Elements of a byte string as values. -/
def elems (fmt n : Nat) (b : List Byte) : List Num := (List.range n).map (fun i => numDecode fmt false (elemAt fmt b i))

/-- Whether a value saturates in a format (07 R158). -/
def saturates (fmt : Nat) (v : Num) : Bool :=
  match fpFmt fmt with
  | some f =>
    match v with
    | .inf _ => !f.ieee
    | .fin m e => !f.ieee && (fpRound f m.natAbs e).isNone
    | _ => false
  | none =>
    let n := if fmt = 9 then 4 else 8
    match v with
    | .inf _ => true
    | .fin m e =>
      let a : Nat := if 0 ≤ e then m.natAbs * 2 ^ e.toNat else rneShift m.natAbs (-e).toNat
      if m < 0 then decide (2 ^ (n - 1) < a) else decide (2 ^ (n - 1) ≤ a)
    | _ => false

/-- The bytes of an opaque result, of the length the instruction gives it. -/
def cmbBytes (i : CmbIns) (len : Nat) (src other : List Byte) : List Byte :=
  let o := Config.cmbOut i.op i.sfmt i.dfmt i.n i.a src other
  (o ++ List.replicate (len - o.length) 0).take len

/-! ### Logit records (09 R208) -/

/-- Which session and rated position of a pass a query slot serves (09 R199, R213). -/
def slotOwner (s : State) (p : Pass) (t : Nat) : Option (Nat × Nat) :=
  if p.isAppend then p.sessions.head?.map (fun sid => (sid, t))
  else
    let pm := match planVer s p.model p.version with | some q => max 1 q.hdr.posMax | none => 1
    p.sessions[t / pm]?.map (fun sid => (sid, t % pm))

/-- The positions a head computes in one leg, and the first of them: a step's token and drafts, or the group of an APPEND (09 R212). -/
def headRange (x : Ses) (r : Run) : Nat × Nat :=
  let lo := (writeRange0 x r)
  if r.cmd.opcode = 0x13 then (lo, r.toks.length) else (lo + 8 * r.group, min 8 (r.toks.length - 8 * r.group))
where
  writeRange0 (x : Ses) (r : Run) : Nat := if r.cmd.opcode = 0x13 then x.d.positions + r.accept else x.d.positions

/-- K of a record (09 R208). -/
def topK (s : State) (r : Run) : Nat :=
  min 1024 (if r.cmd.opcode = 0x13 then r.cmd.f4 48 11 else rdF s R.CMB_CFG_APPEND_K)

/-- Whether the logits of a position are masked: `STEP.GRAMMAR` with a table on the session, or an APPEND of one (09 R208, R212). -/
def maskedHead (x : Ses) (r : Run) : Bool :=
  x.d.grmTable != 0xFFFF && (r.cmd.opcode = 0x12 || r.cmd.f4 41 1 = 1)

/-- The order of TOPK: descending logits, ties to the lower token. `xs` are (token, FP32 bits). -/
def topOrder (xs : List (Nat × Nat)) : List (Nat × Nat) :=
  sortBy (fun a b => numLt (f32Val b.2) (f32Val a.2) || (!numLt (f32Val a.2) (f32Val b.2) && decide (a.1 ≤ b.1))) xs

/-- The logit record of rated position `idx` of a session (09 Table 09-6). `bits` are the logits' FP32 codes; `mask` is the grammar
mask, if one applies. Answers the record, if K is not 0, and the NaNs met. -/
def logitRecord (s : State) (x : Ses) (r : Run) (idx : Nat) (bits : List Nat) (mask : Option (List Bool)) : Option (List Byte) × Nat :=
  let all := (List.range bits.length).zip bits
  let isNaN := fun (b : Nat) => f32Val b == .nan
  let nans := (all.filter (fun e => isNaN e.2)).length
  let ok := all.filter (fun e => !isNaN e.2 && (match mask with | some m => m.getD e.1 false | none => true))
  let k := topK s r
  let top := (topOrder ok).take k
  let app := r.cmd.opcode = 0x12
  let pos := (headRange x r).1 + idx
  let head := [
    x.d.session % 2 ^ 24 + x.d.gen % 256 * 2 ^ 24 + (if app then 0 else idx % 8) * 2 ^ 32 + b2n mask.isSome * 2 ^ 35 +
      b2n app * 2 ^ 36 + top.length % 2 ^ 11 * 2 ^ 48,
    x.d.epoch + 1, pos % 2 ^ 32 + ok.length % 2 ^ 32 * 2 ^ 32, (Config.lse (ok.map (·.2))).toNat]
  (if k = 0 then none else some (packFields 8 head ++ packFields 8 (top.map (fun e => e.1 % 2 ^ 32 + e.2 % 2 ^ 32 * 2 ^ 32))), nans)

/-- The mask that applies to a rated position: the one that the grammar engine built (11 R252). -/
def maskFor (s : State) (x : Ses) (r : Run) (idx : Nat) : Option (List Bool) :=
  if maskedHead x r then
    some (match ((mapGet s.txt.masks x.d.session).getD []).find? (fun m => m.idx = if r.cmd.opcode = 0x12 then 0 else idx) with
      | some m => m.mask
      | none => [])
  else none

/-- Whether a position's logits are sent: every position of a step, and the last one of an APPEND (09 R208, R212). -/
def ratedHere (r : Run) (idx : Nat) : Bool :=
  if r.cmd.opcode = 0x13 then decide (idx < r.toks.length) else decide (8 * r.group + idx + 1 = r.toks.length)

/-- The logits of a query slot of a leg become a record kept with the session's head until the commit. -/
def putLogits (s : State) (p : Pass) (t : Nat) (bits : List Nat) : State :=
  match slotOwner s p t with
  | none => s
  | some (sid, idx) =>
    match sesOf s sid with
    | none => s
    | some x =>
      match x.head with
      | none => s
      | some r =>
        if !ratedHere r idx then s
        else
          let (b, nans) := logitRecord s x r idx bits (maskFor s x r idx)
          let s := if nans = 0 then s else cnt s R.CMB_LOGIT_NAN nans
          match b with
          | none => s
          | some b => updSes s sid (fun x => { x with head := some { r with logits := r.logits ++ [b] } })

/-! ### Experts (09 R206) -/

/-- The experts a position chooses: the `ROUTE_K` highest gate values, ties to the lower number. Private slots of a tenant without a set
have gates of −∞. -/
def chooseExperts (p : Plan) (hasSet : Bool) (vals : List Num) : List Nat :=
  let n := p.hdr.experts
  let xs := ((List.range vals.length).zip vals).filter (fun e => hasSet || decide (e.1 < n))
  ((sortBy (fun a b => numLt b.2 a.2 || (!numLt a.2 b.2 && decide (a.1 ≤ b.1))) xs).take p.hdr.routeK).map (·.1)

def hasExpertSet (s : State) (model tenant : Nat) : Bool := mapHas s.prg.sets (model * 4096 + tenant)

/-! ### Rotary codes (09 R205) -/

/-- The element that makes a pair with element j of a head, the pair's number, and whether j is its first (09 Table 09-1, `ROPE_PAIR`). -/
def ropePair (h : PlanHdr) (j : Nat) : Nat × Nat × Bool :=
  if h.ropePair = 0 then (if j % 2 = 0 then j + 1 else j - 1, j / 2, j % 2 == 0)
  else
    let half := h.head / 2
    (if j < half then j + half else j - half, j % half, decide (j < half))

/-- Heads of one position rotated: pair i by 2πτ with τ = ((x × F_i) mod 2^64) ÷ 2^64, in FP32. -/
def ropeVec (h : PlanHdr) (fs : List Nat) (x : Nat) (v : List Num) : List Num :=
  (List.range v.length).map (fun e =>
    let base := e / h.head * h.head
    let (mate, i, first) := ropePair h (e % h.head)
    let own := v.getD e (.zero false)
    let other := v.getD (base + mate) (.zero false)
    if h.rotPairs ≤ i then own
    else
      let t : Word := BitVec.ofNat 64 (x * fs.getD i 0)
      let c := f32Val (Config.cosTau t).toNat
      let s := f32Val (Config.sinTau t).toNat
      if first then f32Sub (f32Mul own c) (f32Mul other s) else f32Add (f32Mul other s) (f32Mul own c))

/-- The absolute position at a place in a leg's pass. -/
def ropePos (h : PlanHdr) (l : GLeg) (t : Nat) : Nat :=
  let pm := if l.leg < h.stepLegs then max 1 h.posMax else 8
  ((l.heads[t / pm]?).map (fun e => e.1 + t % pm)).getD 0

/-! ### One instruction -/

/-- How many instructions of an operation precede place i in the programs of a leg, in order of group: the query slot that a `MASK` or
`TOPK` serves (notes/assumptions/23.md). -/
def slotIndex (s : State) (l : GLeg) (g i op : Nat) : Nat :=
  sumOf ((List.range g).map (fun h => ((cmbProg s l h).filter (fun x => x.op = op)).length)) +
    (((cmbProg s l g).take i).filter (fun x => x.op = op)).length

/-- σ of an FP32 value (09 Table 09-7a, `ACT`). -/
def sigmoid (x : Num) : Num := f32Val (Config.sigmoid (BitVec.ofNat 32 (f32Bits x))).toNat

/-- Each o of a state divided by its l: n words of heads of D after their pairs, as `MERGE` leaves them (09 R203, `SDIV`). -/
def divState (d n : Nat) (st : List Byte) : List Num :=
  let ps := pairsOf (st.take (8 * (n / d)))
  (f32Words (st.drop (8 * (n / d)))).zipIdx.map (fun (o, j) => f32Div o (ps.getD (j / d) (0, .zero false)).2)

/-- The effect of instruction i of group g of a granted leg (09 Table 09-7a). -/
def cmbRun (s : State) (k : Nat) (l : GLeg) (g at_ : Nat) (i : CmbIns) : State :=
  let src := cmbSrc s k g i
  let out := elemSpan i.dfmt i.n
  let pass := mapGet s.stk.passes l.pass
  match i.op with
  | 0x01 =>
    let xs := elems i.sfmt i.n src
    let r := f32Val (Config.rms (xs.map f32Bits)).toNat
    let gain := elems i.dfmt i.n (cmbConst s l g i)
    storePut s g i.src (packElems i.sfmt ((xs.zipWith (fun x y => f32Mul (f32Mul x r) y) gain).map (fun v => (numEncode i.sfmt v).1)))
  | 0x02 =>
    let xs := elems i.sfmt i.n src
    let gate := elems i.dfmt i.n (storeGet s g i.dst out)
    storePut s g i.dst (packElems i.dfmt ((xs.zipWith (fun x y => f32Mul (f32Mul x (sigmoid x)) y) gate).map (fun v => (numEncode i.dfmt v).1)))
  | 0x03 =>
    match legPlan s l with
    | none => s
    | some p =>
      storePut s g i.dst (packElems i.dfmt ((ropeVec p.hdr p.rotary (ropePos p.hdr l (Config.ropeSlot l.leg g at_)) (elems i.sfmt i.n src)).map
        (fun v => (numEncode i.dfmt v).1)))
  | 0x04 =>
    match Config.namedDtag i.op i.src i.dst with
    | none => s
    | some d =>
      match arrivedResults s k g d with
      | [] => s
      | r :: rs =>
        let dd := 32 * 2 ^ r.log2d
        let m := rs.foldl (fun a b => mergeStates (r.pairs.length / 8) dd a.1 a.2 b.pairs b.bytes) (r.pairs, r.bytes)
        storePut s g i.dst (m.1 ++ m.2)
  | 0x05 =>
    match legPlan s l with
    | none => s
    | some p =>
      storePut s g i.dst (packElems i.dfmt ((divState p.hdr.head i.n (storeGet s g i.src (8 * (i.n / p.hdr.head) + 4 * i.n))).map
        (fun v => (numEncode i.dfmt v).1)))
  | 0x06 =>
    let a := elems i.sfmt i.n src
    let b := elems i.dfmt i.n (storeGet s g i.dst out)
    storePut s g i.dst (packElems i.dfmt ((a.zipWith f32Add b).map (fun v => (numEncode i.dfmt v).1)))
  | 0x07 =>
    let e := if i.dfmt = 0 then i.exp else -i.exp
    let vs := (elems i.sfmt i.n src).map (fun v => f32 (numScale e v))
    let sat := (vs.filter (saturates i.dfmt)).length
    let s := if sat = 0 then s else cntI s R.CMBG_SAT_COUNT g sat
    storePut s g i.dst (packElems i.dfmt (vs.map (fun v => (numEncode i.dfmt v).1)))
  | 0x08 => { s with bld := { s.bld with sends := s.bld.sends ++ [(k, g * 2 ^ 23 + i.src)] } }
  | 0x09 =>
    let s := storePut s g i.dst (cmbBytes i out src [])
    match legPlan s l, pass with
    | some p, some q =>
      let xs := chooseExperts p (hasExpertSet s l.model q.tenant) (elems i.sfmt i.n src)
      let old := (mapGet s.bld.routed l.pass).getD []
      let s := cnt s R.CMB_EXPERT_PRIVATE (xs.filter (fun e => decide (p.hdr.experts ≤ e) && !old.contains e)).length
      { s with bld := { s.bld with routed := mapSet s.bld.routed l.pass (xs.foldl setAdd old) } }
    | _, _ => s
  | 0x0A =>
    match pass.bind (fun p => slotOwner s p (slotIndex s l g at_ 0x0A)) with
    | none => s
    | some (sid, idx) =>
      match sesOf s sid with
      | none => s
      | some x =>
        match x.head.bind (fun r => maskFor s x r idx) with
        | none => storePut s g i.dst (packElems i.dfmt ((elems i.sfmt i.n src).map (fun v => (numEncode i.dfmt v).1)))
        | some m =>
          storePut s g i.dst (packElems i.dfmt (((List.range i.n).zip (elems i.sfmt i.n src)).map (fun (t, v) =>
            (numEncode i.dfmt (if m.getD t false then v else .inf true)).1)))
  | 0x0B =>
    match pass with
    | none => s
    | some p => putLogits s p (slotIndex s l g at_ 0x0B) ((elems i.sfmt i.n src).map f32Bits)
  | 0x0C =>
    let a := elems i.sfmt i.n src
    let b := elems i.dfmt i.n (cmbConst s l g i)
    storePut s g i.src (packElems i.sfmt ((a.zipWith f32Mul b).map (fun v => (numEncode i.sfmt v).1)))
  | _ => s

/-- Lane operations per element (09 Table 09-7a). -/
def cmbOps : Nat → Nat
  | 0x01 => 3 | 0x02 => 6 | 0x03 => 3 | 0x04 => 3 | 0x08 => 0 | 0x09 => 4 | 0x0B => 2 | _ => 1

/-- Arithmetic clocks of an instruction (09 R215). -/
def cmbClocks (i : CmbIns) (engines : Nat) : Nat :=
  let w := if i.sfmt = 0 then 64 else if fmtBits i.sfmt = 16 then 128 else 256
  24 + ceilDiv (cmbOps i.op * i.n) (max 1 engines * w)

/-- COMBINE_INSTRUCTION: the next instruction of a group's program completes, once the results it names have arrived; an engine fault
poisons the leg (21 Table 21-2 class 8). -/
def combineStep (s : State) (k g : Nat) (bad : Option Nat) : State :=
  match legOf s k with
  | none => s
  | some l =>
    let prog := cmbProg s l g
    let at_ := (mapGet l.cmbPc g).getD 0
    match prog[at_]? with
    | none => s
    | some i =>
      let here := match Config.namedDtag i.op i.src i.dst with | some d => resultsHere s k l g d | none => true
      if l.stopped || !l.openGroups.contains g || !here then s
      else
        let ns := ceilDiv (10638 * cmbClocks i (groupEngines s g)) 10000
        let s := cmbRun s k l g at_ i
        let s := updLeg s k (fun l => { l with
          cmbPc := mapSet l.cmbPc g (at_ + 1)
          openGroups := if at_ + 1 < prog.length then l.openGroups else setDel l.openGroups g })
        let s := { s with bld := { s.bld with cmbNs := mapSet s.bld.cmbNs g ((mapGet s.bld.cmbNs g).getD 0 + ns) } }
        match bad with
        | none => s
        | some e =>
          let s := cntI (poisonLeg s k none) R.CMBG_POISON_LEGS g 1
          noteErr (recordErr s .cmbg g (e % 8) E_CMB_CHECK) { cls := 8, unit := unitId 7 (g * 8 + e % 8), code := E_CMB_CHECK }

def execCombineInstruction (leg group : Nat) (fault : Option Nat) (s : State) : Host.Outcome State Fault Refusal :=
  if 16 ≤ group then .fault .noSuchUnit else .next (combineStep s leg group fault)

/-- `CMBG_BUSY` of the stroke (09 Table 09-12), at the finish. -/
def cmbFigures (s : State) : State :=
  let s := (List.range 16).foldl (fun s g =>
    let n := min ((mapGet s.bld.cmbNs g).getD 0) (2 ^ 32 - 1)
    wrI (wrI s R.CMBG_BUSY_NS g n) R.CMBG_BUSY_PEAK_NS g (max n (rdI s R.CMBG_BUSY_PEAK_NS g))) s
  { s with bld := { s.bld with cmbNs := [] } }

end Sys2Proof.Machine
end

