-- ==== Sys2Proof/Machine/PlanImage.lean ====
section
/-! DEFINITION. Reading and checking leg plan images (09_decode_legs.md R193 to R207, R213, R214; 07_blades.md R145 to R160; 08_lane_dies.md
R172, R179). -/

namespace Sys2Proof.Machine

/-- Why an image is refused: status, the first two result words, and the lane where a tag table is at fault. -/
structure PlanErr where
  code : Nat
  c0 : Nat := 0
  c1 : Nat := 0
  lane : Nat := 0
deriving DecidableEq, Repr

/-- `E_PLAN_INVALID` with its reason and section type (09 R216). -/
def planErr (reason sect : Nat) : PlanErr := { code := E_PLAN_INVALID, c0 := reason + sect * 256 }

/-- The first error of a list of checks. -/
def firstErr : List (Option PlanErr) → Option PlanErr
  | [] => none
  | some e :: _ => some e
  | none :: rest => firstErr rest

def errIf (b : Bool) (e : PlanErr) : Option PlanErr := if b then some e else none

/-! ### The header (09 Table 09-1) -/

def parseHdr (d : List Byte) : PlanHdr := {
  model := hw d 1 0 32
  version := hw d 1 32 16
  kind := hw d 1 48 1
  tenant := hw d 1 52 12
  layers := hw d 2 0 16
  dModel := hw d 2 16 16
  kvHeads := hw d 2 32 4
  log2g := hw d 2 36 3
  log2d := hw d 2 39 3
  kvFmt := hw d 2 44 4
  actFmt := hw d 2 48 4
  log2p := hw d 2 56 4
  ctxLimit := hw d 3 0 32
  vocab := hw d 3 32 20
  stepLegs := hw d 4 0 8
  appendLegs := hw d 4 8 8
  batch := hw d 4 16 4
  posMax := hw d 4 20 4
  kvPerBlade := hw d 4 24 8
  legs := hw d 4 32 16
  experts := hw d 4 48 8
  privSlots := hw d 4 56 8
  sectOff := hw d 5 0 32
  sectCount := hw d 5 32 16
  bytes := u64 d 48
  routeK := hw d 7 0 4
  ropePair := hw d 7 4 1
  rotPairs := hw d 7 8 8 }

/-- Reserved header bits (09 R193). -/
def hdrZero (d : List Byte) : Bool :=
  hwZero d 0 [(0, 48)] && hwZero d 1 [(0, 49), (52, 12)] && hwZero d 2 [(0, 42), (44, 8), (56, 4)] && hwZero d 3 [(0, 52)] &&
    hwZero d 5 [(0, 48)] && hwZero d 7 [(0, 5), (8, 8)]

def kvFormats : List Nat := [1, 2, 3, 4, 8]

/-- The ranges of Table 09-1 (reason 4). -/
def hdrOk (d : List Byte) (h : PlanHdr) : Bool :=
  hdrZero d && decide (1 ≤ h.version) && (if h.kind = 0 then h.tenant == 0xFFF else decide (h.tenant < 0xFFF)) &&
    decide (1 ≤ h.layers ∧ h.layers ≤ 1024) && decide (1 ≤ h.dModel ∧ h.dModel % 512 = 0 ∧ h.dModel ≤ 32768) &&
    decide (1 ≤ h.kvHeads ∧ h.kvHeads ≤ 8) && decide (h.log2g ≤ 4) && decide (h.log2d ≤ 3) &&
    kvFormats.contains h.kvFmt && kvFormats.contains h.actFmt && decide (4 ≤ h.log2p ∧ h.log2p ≤ 8) &&
    h.span * h.recBytes == 65536 && decide (1 ≤ h.ctxLimit) && h.ctxLimit % h.span == 0 &&
    decide (1 ≤ h.vocab ∧ h.vocab ≤ 524288) && decide (1 ≤ h.stepLegs ∧ h.stepLegs ≤ 64) &&
    decide (1 ≤ h.appendLegs ∧ h.appendLegs ≤ 64) && decide (1 ≤ h.batch ∧ 1 ≤ h.posMax ∧ h.batch * h.posMax ≤ 8) &&
    decide (1 ≤ h.kvPerBlade ∧ h.kvPerBlade ≤ 128) && h.legs == h.stepLegs + h.appendLegs && decide (h.privSlots ≤ 64) &&
    decide (1 ≤ h.sectCount ∧ h.sectCount ≤ 1024) && decide (h.routeK ≤ 8) && decide (2 * h.rotPairs ≤ h.head)

/-! ### Sections

`PULL_LISTS` gives each list a u16 count. The spec gives no delimiter for the lists of `TAGS`, `COMBINE` and `CONSTANTS`; the model
reads a u16 count of entries before each list of the first two and a u32 count of bytes before each group's constants
(notes/assumptions/24.md). -/

/-- Counted lists of 8·w-byte items: `n` of them, each a count of `cw` bytes and its bytes. -/
def countedLists (cw item : Nat) : Nat → List Byte → Option (List (List Byte))
  | 0, _ => some []
  | n + 1, d =>
    let k := u cw d 0 * item
    if d.length < cw + k then none
    else
      match countedLists cw item n (d.drop (cw + k)) with
      | none => none
      | some xs => some (bytesAt d cw k :: xs)

def wordsOf (d : List Byte) : List Word := (fieldsAt 8 d 0 (d.length / 8)).map (BitVec.ofNat 64)

def tagEntry (t w : Nat) : TagEnt := {
  tag := t, op := bitsOf w 0 2, n := bitsOf w 2 9 + 1, log2d := bitsOf w 11 3, contrib := bitsOf w 14 13 + 1, cmbg := bitsOf w 32 4
  dtag := bitsOf w 36 12 }

/-- Bits of a reduce tag entry that Table 08-2 does not list. -/
def tagReserved (w : Nat) : Bool := bitsOf w 27 5 != 0 || bitsOf w 48 16 != 0 || bitsOf w 0 2 == 3

def schedEntry (d : List Byte) : SchedEnt :=
  let s1 := u64 d 8
  let s2 := u64 d 16
  { header := u64 d 0, pc := bitsOf s1 0 6, fill := bitOf s1 6, after := bitsOf s1 16 16, before := bitsOf s1 32 16
    leg := bitsOf s2 0 16, source := bitsOf s2 32 32 }

def attEntry (d : List Byte) : AttTpl :=
  let a := u64 d 0
  let b := u64 d 8
  { layer := bitsOf a 0 16, leg := bitsOf a 16 16, qreg := bitsOf a 32 3, mode := bitsOf a 35 1, block := bitsOf a 36 16
    entries := bitsOf b 0 16, tag := bitsOf b 16 12, cmbg := bitsOf b 28 4, acc := bitsOf b 32 9, scr := bitsOf b 41 7
    dtag := bitsOf b 48 12 }

def expertEntry (d : List Byte) : Expert :=
  let a := u64 d 0
  let b := u64 d 8
  { expert := bitsOf a 0 8, priv := bitOf a 8, leg := bitsOf a 16 16, layer := bitsOf a 32 16, first := bitsOf b 0 16
    last := bitsOf b 16 16, lanes := bitsOf b 32 10 }

def cmbEntry (d : List Byte) : CmbIns :=
  let a := u64 d 0
  let b := u64 d 8
  { op := bitsOf a 0 8, sfmt := bitsOf a 8 4, dfmt := bitsOf a 12 4, n := bitsOf a 16 20, a := bitsOf a 36 7
    src := bitsOf b 0 32, dst := bitsOf b 32 32 }

/-- The lanes a section belongs to. -/
def Sect.lanes (x : Sect) : List Nat := if x.lane = 15 then List.range 10 else [x.lane]

/-- Every section of a type with its bytes, lane by lane. -/
def laneSects (img : List Byte) (ss : List Sect) (ty : Nat) : List (Nat × List Byte) :=
  ((ss.filter (fun x => x.ty == ty)).map (fun x => x.lanes.map (fun k => (k, sectBytes img x)))).flatten

/-- Place lists in a table, leaving out empty ones. -/
def putLists {α : Type} (m : Map (List α)) (xs : List (Nat × List α)) : Map (List α) :=
  xs.foldl (fun m e => if e.2.isEmpty then m else mapSet m e.1 e.2) m

/-- The sections of an image as the machine uses them; `none` with the section type where one cannot be read (reason 3). -/
def parseSects (img : List Byte) (h : PlanHdr) (ss : List Sect) : Except Nat Plan :=
  let pulls := (laneSects img ss 3).map (fun (k, d) => (countedLists 2 8 (8192 * h.legs) d).map (fun xs =>
    ((List.range xs.length).zip xs).map (fun (i, b) => ((k * 8192 + i / h.legs) * 256 + i % h.legs, wordsOf b))))
  let tags := (laneSects img ss 4).map (fun (k, d) => (countedLists 2 8 h.legs d).map (fun xs =>
    ((List.range xs.length).zip xs).map (fun (i, b) =>
      (i * 16 + k, ((List.range (b.length / 8)).zip (fieldsAt 8 b 0 (b.length / 8))).map (fun (t, w) => tagEntry t w)))))
  let comb := (laneSects img ss 6).take 1 |>.map (fun (_, d) => (countedLists 2 16 (16 * h.legs) d).map (fun xs =>
    ((List.range xs.length).zip xs).map (fun (i, b) => (i, (chunks 16 b).map cmbEntry))))
  let consts := (laneSects img ss 7).take 1 |>.map (fun (_, d) => (countedLists 4 1 16 d).map (fun xs => (List.range xs.length).zip xs))
  let sched := (laneSects img ss 5).map (fun (k, d) => (k, (chunks 24 d).map schedEntry))
  if pulls.contains none then .error 3
  else if tags.contains none then .error 4
  else if comb.contains none then .error 6
  else if consts.contains none then .error 7
  else
    .ok {
      hdr := h
      pulls := putLists [] ((pulls.filterMap id).flatten)
      pullSrc := putLists [] (laneSects img ss 3)
      tags := putLists [] ((tags.filterMap id).flatten)
      sched := putLists [] sched
      comb := putLists [] ((comb.filterMap id).flatten)
      consts := putLists [] ((consts.filterMap id).flatten)
      att := (chunks 16 ((sectOf img ss 8).getD [])).map attEntry
      rotary := match sectOf img ss 9 with | some d => fieldsAt 8 d 0 (d.length / 8) | none => []
      experts := (chunks 16 ((sectOf img ss 10).getD [])).map expertEntry
      digest := img.drop (img.length - 32)
      image := img }

/-- The weight pages of an image: frame number and offset of its 64 KiB, lane by lane; `none` where sections 0x01 and 0x02 do not fit
each other. -/
def weightPages (img : List Byte) (ss : List Sect) : Option (List (Nat × Nat)) :=
  let of_ := fun (k : Nat) =>
    let w := ss.find? (fun x => x.ty == 1 && x.lanes.contains k)
    let p := ss.find? (fun x => x.ty == 2 && x.lanes.contains k)
    match w, p with
    | none, none => some []
    | some w, some p =>
      if w.len = p.len / 4 * 65536 ∧ p.len % 4 = 0 then
        some ((List.range (p.len / 4)).map (fun i => (k * 2 ^ 20 + u32 img (p.off + 4 * i) % 2 ^ 20, w.off + 65536 * i)))
      else none
    | _, _ => none
  let xs := (List.range 10).map of_
  if xs.contains none then none else some (xs.filterMap id).flatten

/-! ### Pull lists (07 R145 to R160, 08 R172) -/

/-- Elements that a 512-byte slot holds. -/
def slotElems (qfmt : Nat) : Nat := 4096 / fmtBits qfmt

/-- Clocks of a non-pull entry (07 Table 07-5). -/
def entClocks (e : Word) : Nat := if entOp e = 8 then ceilDiv (entF e 41 9 + 1) 16 else 1

/-- Bits [63:32] that Table 07-6 does not list for an operation (07 R149). -/
def entReserved (e : Word) : Bool :=
  match entOp e with
  | 0x3 => entF e 59 5 != 0
  | 0x4 => entF e 58 6 != 0
  | 0x5 => entF e 32 32 != 0
  | 0x8 => entF e 51 13 != 0
  | 0x9 => entF e 63 1 != 0
  | 0xB => entF e 42 22 != 0
  | _ => false

/-- Why an entry breaks a rule (07 Table 07-11), given the formats of its pass's slots and the scale byte of the next `MX` row. -/
def entBad (e : Word) (qs : List Nat) (sblk : Nat) : Option Nat :=
  let op := entOp e
  let fmt := entFmt e
  let np := entNpos e + 1
  let mx := entMx e
  let elems := rowElems fmt
  let room := fun (n : Nat) => qs.all (fun q => decide (n ≤ slotElems q))
  let fits := qs.all (fun q => (streamsS fmt q).isSome)
  let mxBad := fun (len : Nat) => mx && (fmt < 3 || entF e 44 11 % 32 != 0 || decide (1024 < sblk + (entF e 44 11 + len) / 32))
  let reserved := op = 0 || op = 7 || decide (0xC ≤ op) || decide (0xA < fmt) || entF e 10 3 != 0 || entReserved e
  if reserved then some 1
  else if 7 < entQreg e + entNpos e then some 2
  else
    match op with
    | 0x1 =>
      let len := 32 * 2 ^ entF e 41 3
      let nseg := entF e 55 6 + 1
      if 512 < entF e 32 9 + np * nseg then some 3
      else if 5 < entF e 41 3 || decide (elems < entF e 44 11 + nseg * len) || !room (entF e 61 3 * 64 + len) then some 4
      else if 9 < fmt || !fits then some 5
      else if mxBad (nseg * len) then some 6 else none
    | 0x2 =>
      let len := 32 * 2 ^ entF e 41 3
      if 512 < entF e 32 9 + np * len then some 3
      else if 4 < entF e 41 3 || decide (elems < entF e 44 11 + len) || !room (entF e 55 9 + 1) then some 4
      else if 9 < fmt || !fits then some 5
      else if mxBad len then some 6 else none
    | 0x3 =>
      let d := 32 * 2 ^ entF e 32 3
      let hs := 2 ^ entF e 35 2
      let n := np * hs * 2 ^ entF e 39 3
      if entF e 37 2 = 3 ∨ 4 < entF e 39 3 then some 1
      else if 120 < entF e 52 7 + n ∨ 512 < entF e 43 9 + n * d then some 3
      else if 3 < entF e 32 3 || !room (hs * 2 ^ entF e 39 3 * d) then some 4
      else if !kvFormats.contains fmt || mx || !fits then some 5
      else if 1024 / 2 ^ entF e 37 2 < 2 * hs * d * (fmtBits fmt / 8) then some 7 else none
    | 0x4 =>
      let sw := 64 * 2 ^ entF e 32 3
      let nsk := entF e 51 7 + 1
      if 512 < entF e 35 9 + np * nsk then some 3
      else if 6 < entF e 32 3 ∨ 8192 < (entF e 44 7 + nsk) * sw then some 4
      else if fmt ≠ 0xA || mx || qs.any (· != 0xA) then some 5 else none
    | 0x5 => if fmt ≠ 0 ∨ mx then some 5 else none
    | 0x6 =>
      let n := entF e 42 10 + 1
      let src := entF e 52 2
      let soff := entF e 54 10
      if src = 3 then some 1
      else if (src = 0 ∧ 512 < soff + n * 8 / fmtBits fmt) ∨ (src = 1 ∧ 2048 < 8 * soff + n) ∨ (src = 2 ∧ 4096 < 8 * soff + n) then some 3
      else if 1024 < entF e 32 10 + n ∨ (src = 0 ∧ n * 8 % fmtBits fmt ≠ 0) then some 4
      else if src = 0 ∧ 9 < fmt then some 5
      else if mx then some 6 else none
    | 0x8 => if (if entF e 50 1 = 0 then 512 else 120) < entF e 32 9 + entF e 41 9 + 1 then some 3 else none
    | 0x9 => if (if entF e 50 1 = 0 then 512 else 120) < entF e 32 9 + entF e 41 9 + 1 then some 3 else none
    | _ => none

/-- The scale byte after an entry (07 R154, R156). -/
def sblkNext (e : Word) (sblk : Nat) : Nat :=
  if entOp e = 0xB then entF e 32 10
  else if entMx e && (entOp e = 1 || entOp e = 2) then sblk + rowElems (entFmt e) / 32 else sblk

/-- The streams of a pull by the formats of its slots, the most that one of them needs. -/
def streamsOf (e : Word) (qs : List Nat) : Nat := maxOf (qs.map (entStreams e))

/-- The first broken entry of a list from entry i on: its reason (0: too long, 08 R172) and its index. `qf i q` is the format of slot q at
entry i. -/
def listBad (qf : Nat → Nat → Nat) : Nat → Nat → List Word → Option (Nat × Nat)
  | _, _, [] => none
  | i, sblk, e :: es =>
    let qs := (passSlots e).map (qf i)
    match entBad e qs sblk with
    | some r => some (r, i)
    | none => if 114 < streamsOf e qs then some (0, i) else listBad qf (i + 1) (sblkNext e sblk) es

/-- The transfers of a leg that reach a blade, in order. -/
def bladeSched (p : Plan) (leg g : Nat) : List SchedEnt := (pcSched p leg (bladePc g)).filter (fun x => schedHits x g)

/-- The load whose content an entry finds in a slot (09 R200): the last one that must have come before it, or that may have where it names no
`BEFORE`. -/
def slotLoad (xs : List SchedEnt) (q i : Nat) : Option SchedEnt :=
  ((xs.filter (fun x => schedType x = 1 && bitsOf x.header 12 3 = q &&
    (if x.before = 0xFFFF then x.after == 0xFFFF || decide (x.after < i) else decide (x.before ≤ i)))).reverse).head?

/-- The format of a slot at an entry: that of its load, else `ACT_FMT`. -/
def slotFmtAt (p : Plan) (xs : List SchedEnt) (i q : Nat) : Nat :=
  match slotLoad xs q i with | some x => bitsOf x.header 15 4 | none => p.hdr.actFmt

/-- Whether entry i of a blade's list has no way to arrive in time (07 R144, reason 8): past the ring with no segment to bring it, or brought by
one that starts, or must wait for one that starts, only after the entry itself (notes/assumptions/106.md). -/
def segLate (p : Plan) (leg g n i : Nat) : Bool :=
  match entSegment p leg g n i with
  | none => decide (1024 ≤ i)
  | some t => ((pcSched p leg (bladePc g)).take (t + 1)).any (fun x => schedHits x g && x.after != 0xFFFF && decide (i ≤ x.after))

/-- The first broken list of a plan (07 R167): lanes, then blades, then legs. Attention blocks are the device's own (09 R202). -/
def pullsBad (p : Plan) : Option PlanErr :=
  p.pulls.findSome? (fun (key, es) =>
    let g := key / 256
    let leg := key % 256
    let xs := bladeSched p leg g
    let inBlock := fun (i : Nat) => p.att.any (fun t => t.leg = leg && decide (t.block ≤ i) && decide (i < t.block + t.entries))
    let es' := ((List.range es.length).zip es).map (fun (i, e) => if inBlock i && decide (entFmt e ≤ 0xA) then baseEnt 0 else e)
    let late := (List.range es.length).find? (segLate p leg g es.length)
    let err := fun (code reason i : Nat) => ({
      code := code, c0 := reason + bladeLane g * 16 + leg * 2 ^ 16 + p.hdr.model * 2 ^ 32, c1 := g % 8192 + i * 2 ^ 32 } : PlanErr)
    match listBad (slotFmtAt p xs) 0 0 es' with
    | some (0, i) => some (err E_PULL_LONG 0 i)
    | some (r, i) => some (err E_PULL_INVALID r i)
    | none => late.map (err E_PULL_INVALID 8))

/-! ### Tags, schedules, templates, programs -/

/-- Tag tables (08 R179). -/
def tagsBad (img : List Byte) (h : PlanHdr) (ss : List Sect) (p : Plan) : Option PlanErr :=
  let raw := (laneSects img ss 4).find? (fun (_, d) =>
    match countedLists 2 8 h.legs d with
    | none => false
    | some xs => xs.any (fun b => decide (4096 < b.length / 8) || (fieldsAt 8 b 0 (b.length / 8)).any tagReserved))
  let overspent := (p.tags.find? (fun e => decide (262144 < sumOf (e.2.map tagWords)))).map (fun e => e.1 % 16)
  match raw, overspent with
  | some e, _ => some { code := E_REDUCE_INVALID, lane := e.1 }
  | none, some k => some { code := E_REDUCE_INVALID, lane := k }
  | none, none => none

/-- The slots an entry of a list reads. -/
def entReads (e : Word) : List Nat :=
  if 1 ≤ entOp e ∧ entOp e ≤ 4 then (List.range (entNpos e + 1)).map (entQreg e + ·)
  else if entOp e = 6 ∧ entF e 52 2 = 2 then [entF e 54 10 / 64, (8 * entF e 54 10 + entF e 42 10) / 512] else []

/-- The slots read at each entry number of a list, attention blocks included. -/
def listReads (p : Plan) (leg : Nat) (es : List Word) : List (Nat × List Nat) :=
  let h := p.hdr
  let np := if leg < h.stepLegs then h.batch * h.posMax else 8
  ((List.range es.length).zip es).map (fun (i, e) =>
    match p.att.find? (fun t => t.leg = leg && decide (t.block ≤ i) && decide (i < t.block + t.entries)) with
    | some t => (i, (List.range np).map (t.qreg + ·))
    | none => (i, entReads e))

/-- The ordering rules of 09 R200 for the lists of one blade (reason 9): a read of a slot whose load names a later `BEFORE`, and a reload
before the `AFTER` of the last entry that reads the earlier content. -/
def schedOrderBad (p : Plan) (leg g : Nat) (es : List Word) : Bool :=
  let loads := (bladeSched p leg g).filter (fun x => schedType x = 1)
  let reads := listReads p leg es
  reads.any (fun (i, qs) => qs.any (fun q => (slotLoad loads q i).isNone &&
      loads.any (fun x => bitsOf x.header 12 3 = q && x.before != 0xFFFF && decide (i < x.before)))) ||
    (List.range loads.length).any (fun j =>
      match loads[j]? with
      | none => false
      | some x =>
        let q := bitsOf x.header 12 3
        (loads.take j).any (fun y => bitsOf y.header 12 3 = q) &&
          reads.any (fun (i, qs) => qs.contains q && decide (i < x.before) && (x.after == 0xFFFF || decide (x.after < i))))

/-- A header that no schedule may hold (00 R11, 08 R176): another type than `QLOAD` and `SEGMENT`, a reserved format code, or bits that Table 08-1
does not list for the type. The spec names no reason for it (notes/assumptions/106.md). -/
def headerBad (x : SchedEnt) : Bool :=
  if schedType x = 1 then decide (0xA < bitsOf x.header 15 4) || bitsOf x.header 25 7 != 0
  else if schedType x = 2 then bitsOf x.header 31 33 != 0
  else true

def schedBad (p : Plan) : Bool :=
  p.sched.any (fun e => e.2.any headerBad) || p.pulls.any (fun (key, es) => schedOrderBad p (key % 256) (key / 256) es)

/-- Attention templates (09 R202, R213; reason 6). -/
def attBad (p : Plan) : Bool :=
  let h := p.hdr
  let ok := fun (i : Nat) (t : AttTpl) =>
    let app := decide (h.layers ≤ i)
    let np := if app then 8 else h.batch * h.posMax
    decide (t.layer < h.layers) && (if app then decide (h.stepLegs ≤ t.leg ∧ t.leg < h.legs) && t.qreg == 0 else decide (t.leg < h.stepLegs)) &&
      decide (np * (4 + 65 * h.kvPerBlade) ≤ t.entries) && decide (t.qreg + np ≤ 8)
  p.att.length != 2 * h.layers || ((List.range p.att.length).zip p.att).any (fun (i, t) => !ok i t)

/-- Combine programs and constants (reason 10). -/
def combBad (p : Plan) : Bool :=
  p.comb.any (fun e => e.2.any (fun i => i.op == 0 || decide (0xC < i.op) || decide (0xA < i.sfmt) || decide (0xA < i.dfmt)))

def constsBad (p : Plan) : Bool := p.consts.any (fun e => decide (8388608 < e.2.length))

/-! ### An image as a whole -/

/-- Reasons 1 to 3 of Table 09-10, which need nothing but the image: the header and its sections. -/
def planFrame (img : List Byte) (length : Nat) : Except PlanErr (PlanHdr × List Sect) :=
  let h := parseHdr img
  let ss := sectsAt img h.sectOff h.sectCount
  if hw img 0 0 32 ≠ 0x57504C47 ∨ hw img 0 32 16 ≠ 1 then .error (planErr 1 0)
  else if !imageWhole img h.bytes || length != img.length then .error (planErr 2 0)
  else if !sectsOk img h.sectOff h.sectCount [1, 2, 3, 4, 5, 6, 7, 8, 9, 10] ss then .error (planErr 3 0)
  else .ok (h, ss)

/-- The checks of a `KIND` 0 image that need only the image (09 R195). -/
def planBody (img : List Byte) (h : PlanHdr) (ss : List Sect) : Except PlanErr Plan :=
  if !hdrOk img h then .error (planErr 4 0)
  else
    match parseSects img h ss with
    | .error t => .error (planErr 3 t)
    | .ok p =>
      match firstErr [
          errIf (weightPages img ss).isNone (planErr 3 2),
          errIf (p.rotary.length != h.rotPairs) (planErr 3 9),
          errIf (attBad p) (planErr 6 8),
          pullsBad p,
          tagsBad img h ss p,
          errIf (schedBad p) (planErr 9 5),
          errIf (combBad p) (planErr 10 6),
          errIf (constsBad p) (planErr 10 7)] with
      | some e => .error e
      | none => .ok p

end Sys2Proof.Machine
end

