-- ==== Sys2Proof/Machine/PlanFit.lean ====
section
/-! DEFINITION. Fit records and admission (06_the_stroke.md R129, R130, R136; 07_blades.md R139, R142; 09_decode_legs.md R203, R213, R215),
and the resident and carry figures of contexts (14_crews_and_shares.md R316). -/

namespace Sys2Proof.Machine

/-! ### Pulls, bytes and energy of a leg (06 R130) -/

/-- The lists of a leg: blade and entries. -/
def legLists (p : Plan) (leg : Nat) : List (Nat × List Word) :=
  p.pulls.filterMap (fun e => if e.1 % 256 = leg then some (e.1 / 256, e.2) else none)

/-- Positions and layers of a leg: `BATCH` × `POS_MAX` for step legs, 8 for append legs (09 R203, R213). -/
def legPositions (h : PlanHdr) (leg : Nat) : Nat := if leg < h.stepLegs then h.batch * h.posMax else 8
def legSessions (h : PlanHdr) (leg : Nat) : Nat := if leg < h.stepLegs then h.batch else 1
def legAtts (p : Plan) (leg : Nat) : List AttTpl := p.att.filter (fun t => t.leg = leg)

/-- Pulls that the entries of a list count as: one per stream, and the excess of non-pull entries between two pulls (07 R142).
`run` is the clocks of non-pull entries since the last pull, none before the first. -/
def countPulls (p : Plan) (leg : Nat) (xs : List SchedEnt) : List (Nat × Word) → Option Nat → Nat
  | [], _ => 0
  | (i, e) :: es, run =>
    if (legAtts p leg).any (fun t => decide (t.block ≤ i) && decide (i < t.block + t.entries)) then countPulls p leg xs es run
    else if entPull e then
      streamsOf e ((passSlots e).map (slotFmtAt p xs i)) + (match run with | some n => ceilDiv (n - 11) 139 | none => 0) +
        countPulls p leg xs es (some 0)
    else countPulls p leg xs es (run.map (· + entClocks e))

def bladePulls (p : Plan) (leg g : Nat) (es : List Word) : Nat :=
  countPulls p leg (bladeSched p leg g) ((List.range es.length).zip es) none

/-- The attention part of PEAK_k and N_k (09 R203): the latter rounded to the nearest pull. -/
def attPeak (p : Plan) (leg : Nat) : Nat :=
  if (legAtts p leg).isEmpty then 0 else legPositions p.hdr leg * p.hdr.kvPerBlade * 64

def attPulls (p : Plan) (leg : Nat) : Nat :=
  let pages := (legAtts p leg).length * (p.hdr.ctxLimit / p.hdr.span)
  (2 * (pages * 64 * legPositions p.hdr leg) + 10) / 20

/-- Bytes of a schedule transfer, and of the `SHIP` entries of a list: header and payload beats (08 R175, R176). -/
def schedBytes (x : SchedEnt) : Nat := 8 * (2 + (if schedType x = 1 then bitsOf x.header 19 6 else bitsOf x.header 22 9))

def shipsBytes (es : List Word) : Nat :=
  sumOf ((es.filter (fun e => entOp e = 9)).map (fun e =>
    let n := entF e 41 9 + 1
    8 * (1 + (if entF e 50 1 = 0 then ceilDiv n 2 else n))))

/-- Bytes that the lane bus of local PC n of lane k carries in a leg. -/
def pcBytes (p : Plan) (leg k n : Nat) : Nat :=
  sumOf ((((mapGet p.sched k).getD []).filter (fun x => x.leg = leg && x.pc = n)).map schedBytes) +
    sumOf (((legLists p leg).filter (fun e => bladePc e.1 = k * 64 + n)).map (fun e => shipsBytes e.2))

/-- Combine clocks of a leg's group, and the leg's Combine time (09 R215, 21 R456). -/
def combineNs (s : State) (p : Plan) (leg : Nat) : Nat :=
  let t := (List.range 16).map (fun g => sumOf (((mapGet p.comb (leg * 16 + g)).getD []).map (fun i => cmbClocks i (groupEngines s g))))
  ceilDiv (10638 * maxOf t) 10000

/-- The Combine groups a leg names. -/
def legGroups (p : Plan) (leg : Nat) : List Nat := (List.range 16).filter (fun g => mapHas p.comb (leg * 16 + g))

/-! ### SRAM use (07 R139) -/

def up64 (n : Nat) : Nat := ceilDiv n 64 * 64

/-- The runs of bytes of the query registers that an entry reads, as first byte and length (07 R139). -/
def entQuery (fmtOf : Nat → Nat) (e : Word) : List (Nat × Nat) :=
  let run := fun (first n : Nat) => (passSlots e).map (fun q => let b := elemBytes (fmtOf q) first (first + n); (512 * q + b.1, b.2 - b.1))
  match entOp e with
  | 0x1 => run (entF e 61 3 * 64) (32 * 2 ^ entF e 41 3)
  | 0x2 => run (entF e 55 9) 1
  | 0x3 => run 0 (2 ^ entF e 35 2 * 2 ^ entF e 39 3 * (32 * 2 ^ entF e 32 3))
  | 0x4 => (passSlots e).map (fun q => (512 * q, 8 * 2 ^ entF e 32 3))
  | 0x6 => if entF e 52 2 = 2 then [(8 * entF e 54 10, entF e 42 10 + 1)] else []
  | _ => []

/-- Scale-buffer bytes used by a list (07 R156). -/
def scaleUse : List Word → Nat → Nat
  | [], _ => 0
  | e :: es, sb =>
    let used := if entMx e then sb + (entF e 44 11 + (if entOp e = 1 then entF e 55 6 + 1 else 1) * (32 * 2 ^ entF e 41 3)) / 32 else 0
    max (if entOp e = 5 then 1024 else used) (scaleUse es (sblkNext e sb))

/-- How many numbers below n lie in one of some runs. -/
def runSize (n : Nat) (rs : List (Nat × Nat)) : Nat :=
  ((List.range n).filter (fun i => rs.any (fun r => decide (r.1 ≤ i) && decide (i < r.1 + r.2)))).length

/-- The words and the pairs that the blocks of a leg use: every position of the pass uses the template's own (09 R202). -/
def attRuns (h : PlanHdr) (ts : List AttTpl) : List (Nat × Nat) × List (Nat × Nat) :=
  let n := h.kvHeads * 2 ^ h.log2g
  (ts.map (fun t => (t.acc, n * h.head)), ts.map (fun t => (t.scr, n)))

/-- SRAM use of a blade in a leg: the bytes of each region that its entries read or write, rounded up (07 R139). -/
def bladeSram (p : Plan) (leg g : Nat) (es : List Word) : Nat :=
  let att := legAtts p leg
  let h := p.hdr
  let np := legPositions h leg
  let xs := bladeSched p leg g
  let query := (((List.range es.length).zip es).map (fun (i, e) => entQuery (slotFmtAt p xs i) e)).flatten ++
    (att.map (fun t => (List.range np).map (fun j => (512 * (t.qreg + j), elemSpan h.actFmt (h.kvHeads * 2 ^ h.log2g * h.head))))).flatten
  let ones := fun (ns : List Nat) => ns.map (fun n => (n, 1))
  let words := ones (es.map entWords).flatten ++ (attRuns h att).1
  let pairs := ones (es.map entPairs).flatten ++ (attRuns h att).2
  up64 (runSize 4096 query) + up64 (4 * runSize 512 words) + up64 (8 * min es.length 1024) + 64 + up64 (8 * runSize 120 pairs) + up64 (scaleUse es 0)

/-- Whether a leg's blocks reach past a region of Table 07-1 (07 R139); entries that would are refused with their list. -/
def attTooLarge (p : Plan) (leg : Nat) : Bool :=
  let r := attRuns p.hdr (legAtts p leg)
  r.1.any (fun x => decide (512 < x.1 + x.2)) || r.2.any (fun x => decide (120 < x.1 + x.2))

/-! ### Fit records -/

/-- The fit record of a leg (06 R130, R136). The bits that the spec gives no rule for are those of notes/assumptions/25.md: `LOCK`,
`OPS` and `CHARGE_H`. -/
def fitOf (s : State) (p : Plan) (leg : Nat) : Fit :=
  let h := p.hdr
  let ls := legLists p leg
  let att := !(legAtts p leg).isEmpty
  let lanes := (List.range 10).filter (fun k => ls.any (fun e => bladeLane e.1 = k) || (att && !laneFenced s k))
  let peak := (List.range 10).map (fun k =>
    if lanes.contains k then
      maxOf ((ls.filter (fun e => bladeLane e.1 = k)).map (fun e => bladePulls p leg e.1 e.2)) + attPeak p leg
    else 0)
  let pcs := (List.range 10).map (fun k => (List.range 64).map (pcBytes p leg k))
  let bus := pcs.map maxOf
  let busAll := pcs.map sumOf
  let pulls := (List.range 10).map (fun k =>
    if lanes.contains k then
      sumOf ((ls.filter (fun e => bladeLane e.1 = k)).map (fun e => bladePulls p leg e.1 e.2)) + attPulls p leg
    else 0)
  let cns := combineNs s p leg
  let crossing := (legGroups p leg).any (fun g =>
    let ds := (List.range 10).map (fun k => (((mapGet p.tags (leg * 16 + k)).getD []).filter (fun t => t.cmbg = g)).map (·.dtag))
    (List.range 10).any (fun a => (List.range a).any (fun b => (ds.getD a []).any (fun d => (ds.getD b []).contains d))))
  { leg := leg
    lock := att || crossing
    lanes := maskOf lanes
    sram := maxOf (64 :: ls.map (fun e => bladeSram p leg e.1 e.2))
    combineNs := cns
    groups := maskOf (legGroups p leg)
    ops := legSessions h leg
    chargeH := (legAtts p leg).length * legSessions h leg
    tLeg94 := maxOf ((peak.zip bus).map (fun (a, b) => a * 320 * 94 + b * 25)) + (cns + 2000) * 94
    peak := peak, bus := bus, pulls := pulls, busAll := busAll
    energyFj := (List.range 10).map (fun k =>
      pulls.getD k 0 * rdI s R.LANE_COEF_E_PULL_PJ k * 1000 + busAll.getD k 0 * rdI s R.LANE_COEF_E_BUS_FJ k) }

/-- t_leg in ns, as `F2.T_LEG_NS` shows it. -/
def Fit.ns (f : Fit) : Nat := ceilDiv f.tLeg94 94

/-- Words F0 to F15 of a fit record (06 Table 06-7). -/
def Fit.words (f : Fit) : List Nat :=
  let h16 := fun (xs : List Nat) (i : Nat) => (xs.getD i 0) % 65536
  let pack16 := fun (xs : List Nat) (j : Nat) => h16 xs (4 * j) + h16 xs (4 * j + 1) * 2 ^ 16 + h16 xs (4 * j + 2) * 2 ^ 32 + h16 xs (4 * j + 3) * 2 ^ 48
  let bus := f.bus.map (fun b => ceilDiv b 64)
  [f.leg % 65536 + b2n f.lock * 2 ^ 16 + f.lanes % 1024 * 2 ^ 32 + f.sram % 65536 * 2 ^ 48,
   f.combineNs % 2 ^ 32 + f.ops % 65536 * 2 ^ 32,
   f.chargeH % 2 ^ 32 + f.ns % 2 ^ 32 * 2 ^ 32,
   pack16 f.peak 0, pack16 f.peak 1, pack16 f.peak 2, pack16 bus 0, pack16 bus 1, pack16 bus 2] ++
    (List.range 5).map (fun j => f.pulls.getD (2 * j) 0 % 2 ^ 32 + f.pulls.getD (2 * j + 1) 0 % 2 ^ 32 * 2 ^ 32) ++
    [ceilDiv (maxOf f.energyFj) 1000000 % 2 ^ 32, 0]

/-! ### Admission (06 R129) -/

/-- A period (µs), catch length (µs) and caps (W, one per lane) to check against. -/
structure FitCase where
  period : Nat
  catchUs : Nat
  caps : List Nat
deriving DecidableEq, Repr

/-- What is in force now. -/
def fitCaseNow (s : State) : FitCase :=
  { period := s.stk.period, catchUs := s.stk.catchUs, caps := (List.range 10).map (rdI s R.LANE_GOV_CAP_W) }

/-- (`CAP_k` − P_idle) × T in fJ, 0 where the cap is not above P_idle. -/
def budgetFj (s : State) (capMw k us : Nat) : Nat := (capMw - rdI s R.LANE_COEF_P_IDLE_MW k) * us * 1000000

/-- Whether a leg names a fenced unit (06 Table 06-3 reason 6, 21 R457): the first such lane. -/
def legFenced (s : State) (p : Plan) (leg : Nat) : Option Nat :=
  match (legLists p leg).find? (fun e => bladeFenced s e.1) with
  | some e => some (bladeLane e.1)
  | none =>
    if (legGroups p leg).any (fun g => groupFenced s g || groupEngines s g = 0) then some 0
    else (p.frames.find? (fun f => unitFenced s (unitId 1 f))).map frameLane

/-- TIME of Table 06-3: t_leg > W. The lane named is the one with the longest term. -/
def timeFails (f : Fit) (c : FitCase) : Option Nat :=
  if windowT c.period (catchActs c.period c.catchUs) * 94 < f.tLeg94 * 10 then
    some (((onesOf 10 f.lanes).find? (fun k => f.peak.getD k 0 * 320 * 94 + f.bus.getD k 0 * 25 + (f.combineNs + 2000) * 94 == f.tLeg94)).getD 0)
  else none

/-- ENERGY of Table 06-3: the first lane whose budget E_k passes. -/
def energyFails (s : State) (f : Fit) (c : FitCase) : Option Nat :=
  (onesOf 10 f.lanes).find? (fun k => decide (budgetFj s (c.caps.getD k 0 * 1000) k c.period < f.energyFj.getD k 0))

/-- The first check of Table 06-3 that a leg fails: reason and lane. `need` is the pages that the SPACE check asks for beside the leg's
own charge. The lane that a refusal names is the failing lane where the check is of one lane, else 0; for TIME it is the lane with the longest
term (DESIGN CHOICE, notes/assumptions/104.md). -/
def fitFails (s : State) (p : Plan) (f : Fit) (c : FitCase) (need : Nat) : Option (Nat × Nat) :=
  match timeFails f c with
  | some k => some (1, k)
  | none =>
    match energyFails s f c with
    | some k => some (2, k)
    | none =>
      if 16384 < f.sram || attTooLarge p f.leg then some (3, 0)
      else if 7936 < f.ops then some (4, 0)
      else if freeH s < need + f.chargeH then some (5, 0)
      else (legFenced s p f.leg).map (fun k => (6, k))

/-- The first leg of a plan that fails, with its reason and lane. -/
def planFails (s : State) (p : Plan) (c : FitCase) (need : Nat) : Option (Nat × Nat × Nat) :=
  p.fits.findSome? (fun f => (fitFails s p f c need).map (fun r => (f.leg, r.1, r.2)))

/-- `STK_NOFIT` and its word (06 R135, Table 06-6). -/
def nofitWord (model leg reason lane : Nat) : Nat := reason + lane * 16 + leg * 2 ^ 16 + model * 2 ^ 32

def noteNofit (s : State) (w : Nat) : State := wrWord s .stk 0 0 0x160 w

/-- A refusal with `E_NOFIT`. -/
def markNofit (s : State) (w : Nat) : State := raiseBit (noteNofit s w) .stk 0 5 .plain

/-- Of every loaded plan, the first leg that fails the energy check, and with `time` also the time check, against other figures (06 R124, 08
R187). -/
def plansFail (s : State) (time : Bool) (c : FitCase) : Option Nat :=
  s.prg.progs.findSome? (fun (m, g) =>
    (g.cur :: g.old.toList).findSome? (fun p =>
      p.fits.findSome? (fun f =>
        match (if time then timeFails f c else none), energyFails s f c with
        | some k, _ => some (nofitWord m f.leg 1 k)
        | none, some k => some (nofitWord m f.leg 2 k)
        | none, none => none)))

/-! ### Contexts (14 R316) -/

/-- Resident bytes Z: entries that no `SEGMENT` of their leg delivers, the largest over the blades. -/
def residentOf (p : Plan) : Nat :=
  let gs := (p.pulls.map (fun e => e.1 / 256)).eraseDups
  up64 (maxOf (gs.map (fun g =>
    8 * sumOf ((p.pulls.filter (fun e => e.1 / 256 = g)).map (fun (key, es) =>
      ((List.range es.length).filter (fun i => (entSegment p (key % 256) g es.length i).isNone)).length)))))

/-- Whether an entry sets what it touches without reading it first. -/
def entSets (e : Word) : Bool := entOp e = 4 || entOp e = 8
def entIsRead (e : Word) : Bool := entOp e != 4 && entOp e != 8

/-- What a list writes, and what it reads before writing it, of one region. -/
def listWrites (get : Word → List Nat) (es : List Word) : List Nat := ((es.filter entWrites).map get).flatten.eraseDups

def readsFirst (get : Word → List Nat) : List Word → List Nat → List Nat
  | [], _ => []
  | e :: es, seen =>
    let here := if entIsRead e then (get e).filter (fun i => !seen.contains i) else []
    here ++ readsFirst get es (if entWrites e then seen ++ get e else seen)


/-- Carry bytes K_i of a leg to the next: per region rounded by 07 R139, the largest over the blades (14 R316). -/
def carryOf (p : Plan) (leg : Nat) : Nat :=
  if leg + 1 = p.hdr.stepLegs ∨ p.hdr.legs ≤ leg + 1 then 0
  else
    maxOf ((legLists p leg).map (fun (g, es) =>
      match (legLists p (leg + 1)).find? (fun e => e.1 = g) with
      | none => 0
      | some (_, next) =>
        let both := fun (get : Word → List Nat) => (((readsFirst get next []).eraseDups).filter (listWrites get es).contains).length
        let ws := both entWords
        let ps := both entPairs
        let mx := if es.any (fun e => entOp e = 5) && (match next.find? (fun e => entOp e = 5 || entMx e) with | some e => entMx e | none => false)
          then 1024 else 0
        (if ws = 0 then 0 else up64 (4 * ws)) + (if ps = 0 then 0 else up64 (8 * ps)) + mx))

/-- A plan with the figures the device derives when it loads (06 R129, 14 R316). -/
def withFits (s : State) (p : Plan) : Plan :=
  { p with
    fits := (List.range p.hdr.legs).map (fitOf s p)
    resident := residentOf p
    carry := (List.range p.hdr.legs).map (carryOf p) }

end Sys2Proof.Machine
end

