-- ==== Sys2Proof/Machine/Plans.lean ====
section
/-! DEFINITION. Loading and unloading leg plans and expert sets (09_decode_legs.md R193 to R197, R207, R216). -/

namespace Sys2Proof.Machine

/-! ### Refusals -/

/-- A refused load (09 R216, 07 R167, 08 R179): the code is recorded in the page that its chapter names. -/
def refusePlan (s : State) (c : Cmd) (e : PlanErr) : State :=
  let s :=
    if e.code = E_PULL_INVALID then recordErr s .pch (bitsOf e.c0 4 4 * 64 + e.c1 % 8192 / 128) (e.c1 % 128) e.code
    else if e.code = E_PULL_LONG then recordErr s .lane (bitsOf e.c0 4 4) (e.c1 % 8192 / 128) e.code
    else if e.code = E_REDUCE_INVALID then recordErr s .lane e.lane 0xFFFF e.code
    else if e.code = E_TIER_FULL then recordErr s .tier 0 0 e.code
    else if e.code = E_OP_FULL then opFull s
    else if e.code = E_SEC_RIGHT then recordErr s .sec 0 0 e.code
    else if e.code = E_NOFIT then recordErr s .stk 0 0 e.code
    else recordErr s .cmb 0 0 e.code
  stageDone s { cmd := c, status := e.code, c0 := e.c0, c1 := e.c1 }

/-! ### What is installed -/

/-- Plans and expert sets in being, those loading included. -/
def progPlans (g : Prog) : List Plan := g.cur :: g.old.toList
def allPlans (s : State) : List Plan :=
  ((mapVals s.prg.progs).map progPlans).flatten ++ ((mapVals s.prg.sets).map progPlans).flatten ++ s.prg.loads.map (·.plan)

def setKey (model tenant : Nat) : Nat := model * 4096 + tenant

/-- Versions of a model program, or of one tenant's set of it, loads in flight included (09 R196). -/
def versionsOf (s : State) (h : PlanHdr) : Nat :=
  let held := match (if h.kind = 0 then mapGet s.prg.progs h.model else mapGet s.prg.sets (setKey h.model h.tenant)) with
    | some g => 1 + b2n g.old.isSome
    | none => 0
  held + (s.prg.loads.filter (fun l =>
    l.plan.hdr.model = h.model && l.plan.hdr.kind = h.kind && (h.kind = 0 || l.plan.hdr.tenant = h.tenant))).length

/-- Whether a new version agrees with the installed one (09 R196; reason 5). -/
def compatible (old new : PlanHdr) : Bool :=
  old.layers == new.layers && old.kvHeads == new.kvHeads && old.log2g == new.log2g && old.log2d == new.log2d &&
    old.kvFmt == new.kvFmt && old.log2p == new.log2p && old.rotPairs == new.rotPairs && decide (old.ctxLimit ≤ new.ctxLimit)

/-! ### The frames of `PLACEMENT` (09 R195, reason 7) -/

/-- Whether a frame may not take a weight page (09 Table 09-10): a frame of the system region, or one that holds a placed or pinned page or a
page of another plan, one that loads included. Pages that float are migrated first; a frame that an engine holds without a page is waited for. A
frame of a fenced unit is left to R129's fence check. -/
def frameBarred (s : State) (plans : List Nat) (f : Nat) : Bool :=
  frameSystem s f || s.prg.loads.any (fun l => l.plan.frames.contains f) ||
    (pageOfFrame s f).any (fun p => plans.contains p || (pteOf s p).any (fun e => e.pinH || e.placed))

def framesBad (s : State) (fs : List Nat) : Bool :=
  let plans := ((allPlans s).map (·.pages)).flatten
  fs.eraseDups.length != fs.length || fs.any (frameBarred s plans)

/-- The owner's allotment in Isolated mode (20 R439, reason 11): its PCs hold every weight page, its Combine groups run every program. -/
def ownerBad (s : State) (owner : Nat) (fs groups : List Nat) : Bool :=
  isolated s && (fs.any (fun f => !pcLends s owner (frameHb f / 128)) ||
    (match mapGet s.sec.allots owner with
     | some a => groups.any (fun g => !bitOf a.cmbg g)
     | none => false))

/-- The Combine groups that a plan names. -/
def planGroups (p : Plan) : List Nat := (p.comb.map (fun e => e.1 % 16)).eraseDups

/-! ### A load begins -/

/-- A weight page gets its SAS page; where a floating page stands in its frame, its own copy waits for the frame (09 R195). -/
def takeFrame (s : State) (p f : Nat) : State :=
  if s.tier.hUsed.contains f then setPte s p { hFrame := f, tenant := 0xFFF, cls := 4, h := false, lastWrite := s.stk.number }
  else newPage s p f 0xFFF 4 false

/-- The floating pages in some frames that no entry moves yet are migrated (09 R195). -/
def clearFrames (s : State) (fs : List Nat) : State :=
  let busy := (fs.filterMap (pageOfFrame s)).filter (fun p => !(pteOf s p).any (fun e => e.pinH || e.placed) &&
    !s.tier.ops.any (fun o => o.2.kind = 8 && (o.2.todo.contains p || o.2.flying.contains p || mapHas o.2.vers p)))
  if busy.isEmpty then s
  else
    (takeOp s {
      kind := 8, cls := 2, src := 0, dst := 0, tenant := 0xFFF, object := busy.headD 0 * 65536, isSes := false, start := 0
      todo := busy }).2

/-- The Mover entries of a load: kind 0x8 for the floating pages in its frames, then kind 0xD for the weight pages. -/
def beginLoad (s : State) (c : Cmd) (p : Plan) (fs : List (Nat × Nat)) : State :=
  let base := sasRun s fs.length
  let pages := (List.range fs.length).map (base + ·)
  let wait := ((pages.zip fs).filter (fun e => s.tier.hUsed.contains e.2.1)).map (·.1)
  let s := (pages.zip fs).foldl (fun s e => takeFrame s e.1 e.2.1) (clearFrames s (fs.map (·.1)))
  let (op, s) := takeOp s {
    kind := 0xD, cls := 2, src := 2, dst := 0, tenant := 0xFFF, object := base * 65536, isSes := false, start := 0, todo := pages }
  { s with prg := { s.prg with loads := s.prg.loads ++ [{
    cmd := c, plan := { p with pages := pages, frames := fs.map (·.1) }, offs := fs.map (·.2), todo := wait, op := op }] } }

/-- A model program (`KIND` 0) whose own checks passed. -/
def loadModel (s : State) (c : Cmd) (p : Plan) (fs : List (Nat × Nat)) : State :=
  let h := p.hdr
  let owner := if isolated s then c.f5 0 12 else 0xFFF
  let p := withFits s { p with owner := owner, frames := fs.map (·.1) }
  let differs := (mapGet s.prg.progs h.model).any (fun g => !compatible g.cur.hdr h)
  match firstErr [
      errIf differs (planErr 5 0),
      errIf (framesBad s p.frames) (planErr 7 2),
      errIf (ownerBad s owner p.frames (planGroups p)) (planErr 11 0)] with
  | some e => refusePlan s c e
  | none =>
    match planFails s p (fitCaseNow s) p.frames.length with
    | some (leg, r, k) =>
      let w := nofitWord h.model leg r k
      refusePlan (markNofit s w) c { code := E_NOFIT, c0 := w }
    | none => if opRoom s 2 0xFFF then beginLoad s c p fs else refusePlan s c { code := E_OP_FULL }

/-- The pages of a model plan's private slots: (half-bank, slot) relative to a set's base, in order of half-bank (09 R207). -/
def privPagesOf (p : Plan) : List (Nat × Nat) :=
  let keys := (p.pulls.map (fun (key, es) =>
    let g := key / 256
    let here := p.experts.filter (fun x => x.priv && x.leg = key % 256 && bitOf x.lanes (bladeLane g))
    (((List.range es.length).zip es).filter (fun (i, e) =>
      entPull e && here.any (fun x => decide (x.first ≤ i) && decide (i ≤ x.last)))).map (fun (_, e) => g * 128 + entRow e / 64))).flatten
  ((keys.foldl setAdd []).map (fun k => (k / 128, k % 128)))

/-- The lowest slot base at which every page of a set finds a free frame (09 R207). -/
def setBase (s : State) (ps : List (Nat × Nat)) : Option Nat :=
  (List.range 128).find? (fun b => ps.all (fun (g, i) =>
    decide (i + b < 128) && frameUsable s (frameOf g (i + b)) && !s.tier.hUsed.contains (frameOf g (i + b))))

/-- An expert set (`KIND` 1; 09 R207). -/
def loadSet (s : State) (c : Cmd) (img : List Byte) (h : PlanHdr) (ss : List Sect) : State :=
  match weightPages img ss, planOf s h.model with
  | none, _ => refusePlan s c (planErr 3 2)
  | some _, none => refusePlan s c (planErr 8 2)
  | some fs, some m =>
    let ps := privPagesOf m
    if ss.any (fun x => x.ty != 1 && x.ty != 2) || fs.map (fun e => frameHb e.1) != ps.map (·.1) then refusePlan s c (planErr 8 2)
    else
      match setBase s ps with
      | none => refusePlan s c { code := E_TIER_FULL }
      | some b =>
        let at_ := (ps.zip fs).map (fun (q, f) => (frameOf q.1 (q.2 + b), f.2))
        if ownerBad s h.tenant (at_.map (·.1)) [] then refusePlan s c (planErr 11 0)
        else if opRoom s 2 0xFFF then
          beginLoad s c { hdr := h, rowBase := 64 * b, digest := img.drop (img.length - 32), image := img, owner := h.tenant } at_
        else refusePlan s c { code := E_OP_FULL }

/-- PLAN_LOAD (09 R195). -/
def startPlanLoad (c : Cmd) (data : List Byte) (s : State) : State :=
  if !domPlanLoad s c.dom then refusePlan s c { code := E_SEC_RIGHT }
  else
    match qpCheck s c.dom (c.f3 32 16) with
    | some e => finishCmd s c e
    | none =>
      match planFrame data c.w4.toNat with
      | .error e => refusePlan s c e
      | .ok (h, ss) =>
        if 2 ≤ versionsOf s h then refusePlan s c { code := E_TABLE_BUSY }
        else if h.kind = 1 then (if hdrOk data h then loadSet s c data h ss else refusePlan s c (planErr 4 0))
        else
          match planBody data h ss, weightPages data ss with
          | .error e, _ => refusePlan s c e
          | .ok p, some fs => loadModel s c p fs
          | .ok _, none => refusePlan s c (planErr 3 2)

def execPlanLoad (c : Cmd) (data : List Byte) (s : State) : Host.Outcome State Fault Refusal :=
  .next (submit s c data startPlanLoad)

/-! ### PLAN_UNLOAD (09 R197) -/

/-- Contexts of a version leave the PCs with it. -/
def dropContexts (s : State) (model version : Nat) : State :=
  let keep := fun (c : Option Ctx) => c.filter (fun x => !(x.model == model && x.version == version))
  { s with crw := { s.crw with
      pcs := (mapAll s.crw.pcs (fun _ p => { p with work := keep p.work, seat := keep p.seat })).filter (fun e =>
        e.2.work.isSome || e.2.seat.isSome) } }

/-- Whether a step of a model is in progress (for a tenant, where one is given). -/
def stepping (s : State) (model : Nat) (tenant : Option Nat) : Bool :=
  s.ses.tab.any (fun e => e.2.d.model = model && (match tenant with | some t => e.2.d.tenant = t | none => true) &&
    e.2.head.any (fun r => (r.cmd.opcode = 0x12 || r.cmd.opcode = 0x13) && r.ph != .quota))

/-- Whether a session that is not RELEASED names a model. -/
def modelNamed (s : State) (model : Nat) : Bool :=
  s.ses.tab.any (fun e => e.2.d.model = model) ||
    s.stk.commits.any (fun k => match k with | .openSes _ x _ => x.d.model = model | _ => false)

def removeModel (s : State) (model : Nat) : State :=
  match mapGet s.prg.progs model with
  | none => s
  | some g =>
    let s := (progPlans g).foldl (fun s p => dropContexts (freePages s p.pages) model p.hdr.version) s
    { s with prg := { s.prg with progs := mapErase s.prg.progs model } }

def removeSet (s : State) (key : Nat) : State :=
  match mapGet s.prg.sets key with
  | none => s
  | some g =>
    let s := (progPlans g).foldl (fun s p => freePages s p.pages) s
    { s with prg := { s.prg with sets := mapErase s.prg.sets key } }

/-- An unload takes effect (06 R127): a model that a session of the same finish names stays. -/
def planUnloaded (s : State) (c : Cmd) : State :=
  let model := c.f2 0 32
  let tenant := c.f2 52 12
  if c.f2 32 1 = 0 then if modelNamed s model then refusePlan s c { code := E_PLAN_BUSY } else finishCmd (removeModel s model) c E_OK
  else if stepping s model (some tenant) then { s with prg := { s.prg with dropSets := s.prg.dropSets ++ [c] } }
  else finishCmd (removeSet s (setKey model tenant)) c E_OK

def startPlanUnload (c : Cmd) (_ : List Byte) (s : State) : State :=
  let model := c.f2 0 32
  let tenant := c.f2 52 12
  if !domPlanLoad s c.dom then refusePlan s c { code := E_SEC_RIGHT }
  else if c.f2 32 1 = 0 then
    if !mapHas s.prg.progs model then refusePlan s c { code := E_MODEL_UNKNOWN }
    else if modelNamed s model then refusePlan s c { code := E_PLAN_BUSY }
    else if s.stk.phase = .idle then planUnloaded s c
    else stage s (.planUnload c)
  else if !mapHas s.prg.sets (setKey model tenant) then refusePlan s c { code := E_MODEL_UNKNOWN }
  else if stepping s model (some tenant) then { s with prg := { s.prg with dropSets := s.prg.dropSets ++ [c] } }
  else if s.stk.phase = .idle then planUnloaded s c
  else stage s (.planUnload c)

def execPlanUnload (c : Cmd) (s : State) : Host.Outcome State Fault Refusal := .next (submit s c [] startPlanUnload)

/-! ### At the finish -/

/-- Frames that floating pages have left take their weight pages (09 R195). -/
def takeVacated (s : State) : State :=
  s.prg.loads.foldl (fun s l =>
    let s := if opRoom s 2 0xFFF then clearFrames s (l.todo.filterMap (fun p => (pteOf s p).map (·.hFrame))) else s
    let free := l.todo.filter (fun p => (pteOf s p).any (fun e => !s.tier.hUsed.contains e.hFrame))
    let s := free.foldl (fun s p => match pteOf s p with
      | some e => { setPte s p { e with h := true } with tier := { (setPte s p { e with h := true }).tier with hUsed := setAdd s.tier.hUsed e.hFrame } }
      | none => s) s
    { s with prg := { s.prg with loads := s.prg.loads.map (fun x => if x.op = l.op then { x with todo := x.todo.filter (!free.contains ·) } else x) } }) s

/-- The word of `EV_PLAN_INSTALLED` and `EV_PLAN_RETIRED` (15 Table 15-10), also C0 of a load's completion. -/
def planWord (h : PlanHdr) : Nat := h.model % 2 ^ 32 + h.version % 2 ^ 16 * 2 ^ 32

def planEvent (s : State) (retired : Bool) (h : PlanHdr) : State :=
  raiseBit s .cmb 0 (if retired then 3 else 2)
    (.named (if retired then EV_PLAN_RETIRED else EV_PLAN_INSTALLED) [planWord h] (planDoms s))

/-- `CMB_LC_CFG` after reset: what a plan first installed takes (10 R232). -/
def lcReset : Nat := regReset .cmb 0x140

/-- A load whose weight pages all stand in Tier H installs at this finish (09 R195). -/
def installPlan (s : State) (l : PlanLoad) : State :=
  let h := l.plan.hdr
  let s := { s with prg := { s.prg with loads := s.prg.loads.filter (fun x => x.op != l.op) } }
  let s := freeOp (updPtes s l.plan.pages (fun e => { e with committed := true })) l.op
  let s := if h.kind = 0 then
      let g : Prog := match mapGet s.prg.progs h.model with
        | some g => { g with cur := l.plan, old := some g.cur }
        | none => { cur := l.plan, lcCfg := lcReset }
      { s with prg := { s.prg with progs := mapSet s.prg.progs h.model g } }
    else
      let g : Prog := match mapGet s.prg.sets (setKey h.model h.tenant) with
        | some g => { g with cur := l.plan, old := some g.cur }
        | none => { cur := l.plan, lcCfg := 0 }
      { s with prg := { s.prg with sets := mapSet s.prg.sets (setKey h.model h.tenant) g } }
  let s := sealImage (planEvent s false h) l.plan.pages
  stageDone s { cmd := l.cmd, status := E_OK, c0 := planWord h }

def loadReady (s : State) (l : PlanLoad) : Bool :=
  l.todo.isEmpty && (match opOf s l.op with | some o => o.todo.isEmpty && o.flying.isEmpty | none => false)

/-- Steps bound to a version (09 R196, `CMB_PLAN1.OLD_STEPS`). -/
def boundSteps (s : State) (model version : Nat) : Nat :=
  (s.ses.tab.filter (fun e => e.2.d.model = model &&
    e.2.head.any (fun r => (r.cmd.opcode = 0x12 || r.cmd.opcode = 0x13) && r.started && r.ver = version))).length

/-- An older version that no step is bound to retires (09 R196). -/
def retirePlan (s : State) (model : Nat) : State :=
  match mapGet s.prg.progs model with
  | some { cur := p, old := some o, lcCfg := w, lcPend := q } =>
    if boundSteps s model o.hdr.version ≠ 0 ∨ s.stk.passes.any (fun e => e.2.model = model && e.2.version = o.hdr.version && e.2.started.isSome) then s
    else
      let s := dropContexts (freePages s o.pages) model o.hdr.version
      planEvent { s with prg := { s.prg with progs := mapSet s.prg.progs model { cur := p, lcCfg := w, lcPend := q } } } true o.hdr
  | _ => s

def retireSet (s : State) (key : Nat) : State :=
  match mapGet s.prg.sets key with
  | some { cur := p, old := some o, lcCfg := w, lcPend := q } =>
    if stepping s (key / 4096) (some (key % 4096)) then s
    else
      let s := freePages s o.pages
      planEvent { s with prg := { s.prg with sets := mapSet s.prg.sets key { cur := p, lcCfg := w, lcPend := q } } } true o.hdr
  | _ => s

/-- An expert set whose unload waited goes once no step uses it (09 R197). -/
def dropWaiting (s : State) (c : Cmd) : State :=
  if stepping s (c.f2 0 32) (some (c.f2 52 12)) then s
  else
    finishCmd (removeSet { s with prg := { s.prg with dropSets := eraseCmd s.prg.dropSets c } } (setKey (c.f2 0 32) (c.f2 52 12))) c E_OK

/-- `SEALED` follows the weight pages (09 R195), and writes to `CMB_LC_CFG` take effect (10 R232). -/
def sealedPlan (s : State) (p : Plan) : Plan := { p with isSealed := p.pages.all (sealedNow s) }

def settleProg (s : State) (g : Prog) : Prog :=
  { g with cur := sealedPlan s g.cur, old := g.old.map (sealedPlan s), lcCfg := g.lcPend.getD g.lcCfg, lcPend := none }

/-- Everything of this chapter's loads that a finish makes true. -/
def plansFinish (s : State) : State :=
  let s := takeVacated s
  let s := (s.prg.loads.filter (loadReady s)).foldl installPlan s
  let s := (mapKeys s.prg.progs).foldl retirePlan s
  let s := (mapKeys s.prg.sets).foldl retireSet s
  let s := s.prg.dropSets.foldl dropWaiting s
  { s with prg := { s.prg with
      progs := mapAll s.prg.progs (fun _ g => settleProg s g)
      sets := mapAll s.prg.sets (fun _ g => settleProg s g) } }

end Sys2Proof.Machine
end

