-- ==== Sys2Proof/Machine/Gsx.lean ====
section
/-! DEFINITION. The Gather/Scatter engine (13_gather_scatter.md). -/

namespace Sys2Proof.Machine

def gsxOf (s : State) (t : Nat) : Option GsxTab := (mapGet s.gsx.tabs t).map (·.cur)

/-- The version of a table that a command is bound to. -/
def gsxBound (s : State) (t version : Nat) : Option GsxTab :=
  match mapGet s.gsx.tabs t with
  | none => none
  | some p => if p.cur.version = version then some p.cur else p.old.filter (fun o => o.version == version)

def gsxOrder (s : State) (t : Nat) : List GsxReq := (mapGet s.gsx.orders t).getD []

def setOrder (s : State) (t : Nat) (q : List GsxReq) : State :=
  { s with gsx := { s.gsx with orders := if q.isEmpty then mapErase s.gsx.orders t else mapSet s.gsx.orders t q } }

/-- A refusal that the engine reports: an error of its page (13 R306, 02 R27). -/
def refuseGsx (s : State) (c : Cmd) (code c0 : Nat) : State :=
  refuseWith (if code = E_OP_FULL then opFull s else recordErr s .gsx 0 0 code) c code c0

/-! ### The image (13 R292 to R294) -/

/-- The formats a gather table or an output may have. -/
def gsxFmt (f : Nat) : Bool := [0, 1, 2, 3, 4, 8].contains f

/-- The header's ranges and reserved bits (reason 2 of 13 R294, with R293). -/
def gsxHdrOk (img : List Byte) : Bool :=
  let n := hw img 2 40 4
  let row := hw img 2 48 15
  let aux := hw img 3 0 15
  hw img 1 0 16 != 0xFFFF && hw img 1 16 16 != 0 && gsxFmt (hw img 2 32 4) && decide (6 ≤ n) && decide (n ≤ 14) &&
  decide (8 ≤ row) && decide (row ≤ 16384) && row % 8 == 0 && decide (aux ≤ 16376) && aux % 4 == 0 && decide (row + aux ≤ 2 ^ n) &&
  decide (hw img 5 32 16 ≤ 1) &&
  hwZero img 0 [(0, 48)] && hwZero img 1 [(0, 32), (32, 12), (48, 1)] && hwZero img 2 [(0, 36), (40, 4), (48, 15)] &&
  hwZero img 3 [(0, 15)] && hwZero img 4 [] && hwZero img 5 [(0, 48)] && hwZero img 7 []

/-- The checks of 13 R294 before the count of tables: the table and its `DATA` bytes (none where every byte is zero), or the reason. -/
def parseGsx (img : List Byte) (length : Nat) : Except Nat (GsxTab × List Byte) :=
  if hw img 0 0 32 ≠ 0x57475458 ∨ hw img 0 32 16 ≠ 1 ∨ length ≠ img.length ∨ !imageWhole img (u64 img 48) then .error 1
  else if !gsxHdrOk img then .error 2
  else
    let ss := sectsAt img (hw img 5 0 32) (hw img 5 32 16)
    let rows := hw img 2 0 32 + 1
    if !(sectsOk img (hw img 5 0 32) (hw img 5 32 16) [0x41] ss && ss.all (fun x => x.lane == 0 && x.len == rows * 2 ^ hw img 2 40 4)) then
      .error 3
    else
      .ok ({
        table := hw img 1 0 16, version := hw img 1 16 16, tenant := hw img 1 32 12, updatable := hw img 1 48 1 = 1, rows := rows
        fmt := hw img 2 32 4, log2Stride := hw img 2 40 4, rowBytes := hw img 2 48 15, auxBytes := hw img 3 0 15
        digest := img.drop (img.length - 32) },
        (sectOf img ss 0x41).getD [])

/-- A table's pages: class 4, charged to no tenant (05 R97), brought by a Mover entry of kind 0xD (13 R294). -/
def loadGsx (s : State) (c : Cmd) (t : GsxTab) (bytes : List Byte) : State :=
  let n := ceilDiv (t.rows * 2 ^ t.log2Stride) 65536
  if freeH s < n then refuseGsx s c E_TIER_FULL 0
  else if !opRoom s 2 0xFFF then refuseGsx s c E_OP_FULL 0
  else
    match allocPages s n 0xFFF 4 0 false with
    | none => refuseGsx s c E_TIER_FULL 0
    | some (base, s) =>
      let pages := (List.range n).map (base + ·)
      let (op, s) := takeOp s {
        kind := 0xD, cls := 2, src := 2, dst := 0, tenant := 0xFFF, object := base * 65536, isSes := false, start := 0, todo := pages }
      { s with txt := { s.txt with loads := s.txt.loads ++ [{
        cmd := c, kind := 2, key := t.table, version := t.version, pages := pages, image := bytes, gsx := some t, op := op }] } }

def startGsxLoad (c : Cmd) (data : List Byte) (s : State) : State :=
  if !domPlanLoad s c.dom then refuseTxt s .sec c E_SEC_RIGHT 0
  else
    match qpCheck s c.dom (c.f3 32 16) with
    | some e => finishCmd s c e
    | none =>
      match parseGsx data c.w4.toNat with
      | .error k => refuseGsx s c E_GSX_INVALID k
      | .ok (t, bytes) =>
        let have_ := loadsOf s 2 t.table + (match mapGet s.gsx.tabs t.table with | some p => 1 + b2n p.old.isSome | none => 0)
        let tables := ((s.txt.loads.filter (fun l => l.kind = 2)).map (·.key) ++ mapKeys s.gsx.tabs).eraseDups
        if 2 ≤ have_ then refuseGsx s c E_TABLE_BUSY 0
        else if !tables.contains t.table ∧ 256 ≤ tables.length then refuseGsx s c E_GSX_INVALID 4
        else loadGsx s c t bytes

def execGsxLoad (c : Cmd) (data : List Byte) (s : State) : Host.Outcome State Fault Refusal := .next (submit s c data startGsxLoad)

/-! ### Commands join a table's order (13 R295, R297 to R299, R302) -/

def joinTable (s : State) (c : Cmd) (data : List Byte) : State :=
  setOrder s (c.f2 0 16) (gsxOrder s (c.f2 0 16) ++ [{ cmd := c, data := data }])

/-- The part of the input after the indices: weights of mode 2 and bag ends of modes 1 and 2 (13 R299). -/
def bagEnds (c : Cmd) (data : List Byte) : List Nat :=
  let n := c.f2 32 21
  fieldsAt 4 data (if c.f2 16 2 = 2 then 8 * n else 4 * n) (c.f6 32 17)

def rising : List Nat → Bool
  | [] => true
  | [_] => true
  | a :: b :: xs => decide (a ≤ b) && rising (b :: xs)

/-- Why a GATHER's fields or bag ends are refused (13 R298, R299); the first result is the code. -/
def gatherCode (c : Cmd) (data : List Byte) : Option (Nat × Nat) :=
  let n := c.f2 32 21
  let pooled := c.f2 16 2 != 0
  let bags := c.f6 32 17
  if 1048576 < n ∨ (pooled ∧ 65536 < bags) then some (E_GSX_LONG, 0)
  else if n = 0 ∨ c.f2 16 2 = 3 ∨ 0xA < c.f2 20 4 ∨ (pooled ∧ (bags = 0 ∨ !gsxFmt (c.f2 20 4))) then some (E_GSX_INVALID, 5)
  else if pooled ∧ (!rising (bagEnds c data) ∨ (bagEnds c data).getLastD 0 ≠ n) then some (E_GSX_INVALID, 5)
  else none

def startGather (c : Cmd) (data : List Byte) (s : State) : State :=
  match gsxOf s (c.f2 0 16) with
  | none => refuseGsx s c E_GSX_UNKNOWN 0
  | some t =>
    if t.tenant ≠ 0xFFF ∧ !domTenant s c.dom t.tenant then refuseGsx s c E_GSX_DENIED 0
    else
      match qpCheck s c.dom (c.f4 32 16) with
      | some e => finishCmd s c e
      | none =>
        match gatherCode c data with
        | some (e, k) => refuseGsx s c e k
        | none => joinTable s c data

def execGather (c : Cmd) (data : List Byte) (s : State) : Host.Outcome State Fault Refusal := .next (submit s c data startGather)

/-- Elements of a row. -/
def GsxTab.elems (t : GsxTab) : Nat := t.rowBytes * 8 / fmtBits t.fmt

/-- Auxiliary bytes that an update rule needs (13 Table 13-4). -/
def auxNeed (t : GsxTab) : Nat → Nat
  | 3 => 4 | 4 => 4 * t.elems | 5 => 4 * t.elems | _ => 0

def startScatter (c : Cmd) (data : List Byte) (s : State) : State :=
  match gsxOf s (c.f2 0 16) with
  | none => refuseGsx s c E_GSX_UNKNOWN 0
  | some t =>
    if (t.tenant ≠ 0xFFF ∧ !domTenant s c.dom t.tenant) ∨ (t.tenant = 0xFFF ∧ !domPlanLoad s c.dom) then refuseGsx s c E_GSX_DENIED 0
    else if !t.updatable ∨ 6 ≤ c.f2 16 4 ∨ t.auxBytes < auxNeed t (c.f2 16 4) then refuseGsx s c E_GSX_RULE 0
    else
      match qpCheck s c.dom (c.f4 32 16) with
      | some e => finishCmd s c e
      | none =>
        if 1048576 < c.f2 32 21 then refuseGsx s c E_GSX_LONG 0
        else if c.f2 32 21 = 0 then refuseGsx s c E_GSX_INVALID 5
        else joinTable s c data

def execScatter (c : Cmd) (data : List Byte) (s : State) : Host.Outcome State Fault Refusal := .next (submit s c data startScatter)

/-- GSX_SEAL names a table as the other commands do; the right that 13 R295 asks of them is asked of it too
(notes/assumptions/30.md). -/
def startGsxSeal (c : Cmd) (_ : List Byte) (s : State) : State :=
  match gsxOf s (c.f2 0 16) with
  | none => refuseGsx s c E_GSX_UNKNOWN 0
  | some t =>
    if t.tenant ≠ 0xFFF ∧ !domTenant s c.dom t.tenant then refuseGsx s c E_GSX_DENIED 0
    else joinTable s c []

def execGsxSeal (c : Cmd) (s : State) : Host.Outcome State Fault Refusal := .next (submit s c [] startGsxSeal)

/-! ### The coalescer (13 R300, R301) -/

/-- A batch's list: position and row of each valid index, and the positions of those dropped. -/
structure Batch where
  valid : List (Nat × Nat)
  dropped : List Nat
deriving DecidableEq, Repr

def batchOf (t : GsxTab) (c : Cmd) (data : List Byte) : Batch :=
  let l := (fieldsAt 4 data 0 (c.f2 32 21)).zipIdx.map (fun (r, i) => (i, r))
  { valid := l.filter (fun e => e.2 < t.rows), dropped := (l.filter (fun e => t.rows ≤ e.2)).map (·.1) }

/-- Distinct rows, lowest first, each with the positions that name it in list order. -/
def groupRows (xs : List (Nat × Nat)) : Map (List Nat) :=
  xs.foldl (fun m (i, r) => mapSet m r ((mapGet m r).getD [] ++ [i])) []

/-- The highest duplicate count, and the lowest row that reached it. -/
def topDup (g : Map (List Nat)) : Nat × Nat :=
  g.foldl (fun (b : Nat × Nat) (r, is) => if b.1 < is.length then (is.length, r) else b) (0, 0)

/-- Bytes of a row from an offset; none where its page has no Tier H copy that can be read. -/
def tabRead (s : State) (t : GsxTab) (r off n : Nat) : Option (List Byte) :=
  let a := r * 2 ^ t.log2Stride + off
  match t.pages[a / 65536]? with
  | none => none
  | some p => readPage s p (a % 65536) n

def tabWrite (s : State) (t : GsxTab) (r off : Nat) (bs : List Byte) : State :=
  let a := r * 2 ^ t.log2Stride + off
  match t.pages[a / 65536]? with
  | none => s
  | some p => writePage s p (a % 65536) bs

/-- The elements of a row as numbers. -/
def rowNums (t : GsxTab) (bs : List Byte) : List Num := (List.range t.elems).map (fun i => numDecode t.fmt false (elemAt t.fmt bs i))

/-- A sum in FP32 from the first term on, in the order given. -/
def f32Sum : List Num → Num
  | [] => .zero false
  | x :: xs => xs.foldl f32Add x

def vecAdd (a b : List Num) : List Num := a.zipWith f32Add b

/-- The sum of vectors in FP32, element by element, from the first on. -/
def vecSum (zero : List Num) : List (List Num) → List Num
  | [] => zero
  | x :: xs => xs.foldl vecAdd x

/-- One bag (13 R299, R301): the weights of each row are summed in list order, the row is scaled once, and the terms are added in
ascending row order. -/
def bagVec (s : State) (t : GsxTab) (weight : Nat → Num) (xs : List (Nat × Nat)) : List Num :=
  vecSum (List.replicate t.elems (.zero false))
    ((groupRows xs).map (fun (r, is) =>
      let w := f32Sum (is.map weight)
      (rowNums t ((tabRead s t r 0 t.rowBytes).getD [])).map (fun x => f32Mul x w)))

/-- The output of a GATHER (13 R299, R300). -/
def gatherOut (s : State) (t : GsxTab) (c : Cmd) (data : List Byte) (b : Batch) : List Byte :=
  let n := c.f2 32 21
  if c.f2 16 2 = 0 then
    ((fieldsAt 4 data 0 n).map (fun r =>
      match (if r < t.rows then tabRead s t r 0 t.rowBytes else none) with
      | some bs => bs
      | none => List.replicate t.rowBytes 0)).flatten
  else
    let weight := fun i => if c.f2 16 2 = 2 then f32Val (u32 data (4 * n + 4 * i)) else f32Val 0x3F800000
    let ends := bagEnds c data
    let out := (ends.zip (0 :: ends)).map (fun (hi, lo) =>
      let v := bagVec s t weight (b.valid.filter (fun e => decide (lo ≤ e.1) && decide (e.1 < hi)))
      packElems (c.f2 20 4) (v.map (fun x => (numEncode (c.f2 20 4) x).1)))
    out.flatten

/-! ### Update rules (13 R303) -/

/-- The value vector of a list position. -/
def valueVec (t : GsxTab) (c : Cmd) (data : List Byte) (i : Nat) : List Num :=
  let at_ := 4 * c.f2 32 21 + 4 * t.elems * i
  (fieldsAt 4 data at_ t.elems).map f32Val

/-- A row and its auxiliary state after an update: rule, row r, state h, the sum g of the values, and the last value. -/
def updateRow (c : Cmd) (elems : Nat) (r h g last : List Num) : List Num × List Num :=
  let lr := f32Val (c.f5 0 32)
  let eps := f32Val (c.f5 32 32)
  let beta := f32Val (c.f6 0 32)
  let step := fun (x gx hx : Num) => f32Sub x (f32Div (f32Mul lr gx) (f32Add (f32Sqrt hx) eps))
  match c.f2 16 4 with
  | 0 => (last, h)
  | 1 => (vecAdd r g, h)
  | 2 => (r.zipWith (fun x y => f32Sub x (f32Mul lr y)) g, h)
  | 3 =>
    let h0 := f32Add (h.headD (.zero false)) (f32Div (f32Sum (g.map (fun x => f32Mul x x))) (f32 (.fin elems 0)))
    (r.zipWith (fun x y => step x y h0) g, [h0])
  | 4 =>
    let h := h.zipWith (fun x y => f32Add x (f32Mul y y)) g
    ((r.zip (g.zip h)).map (fun (x, y, z) => step x y z), h)
  | _ =>
    let v := h.zipWith (fun x y => f32Add (f32Mul beta x) y) g
    (r.zipWith (fun x y => f32Sub x (f32Mul lr y)) v, v)

/-- One distinct row is updated; false where its bytes cannot be read, and then it stays as it is (13 R303). -/
def scatterRow (s : State) (t : GsxTab) (c : Cmd) (data : List Byte) (r : Nat) (is : List Nat) : Bool × State :=
  let n := auxNeed t (c.f2 16 4)
  match tabRead s t r 0 t.rowBytes, tabRead s t r t.rowBytes n with
  | some row, some aux =>
    let vals := is.map (valueVec t c data)
    let zero := List.replicate t.elems (Num.zero false)
    let (row', h) := updateRow c t.elems (rowNums t row) ((fieldsAt 4 aux 0 (n / 4)).map f32Val) (vecSum zero vals) (vals.getLastD zero)
    let s := tabWrite s t r 0 (packElems t.fmt (row'.map (fun x => (numEncode t.fmt x).1)))
    (true, tabWrite s t r t.rowBytes (packFields 4 (h.map f32Bits)))
  | _, _ => (false, s)

/-! ### Running (13 R297, R301, R305) -/

/-- The counters of the `GSX` page that a command moves (13 R300, R307). -/
def gsxCount (s : State) (drop rows : Nat) (top : Nat × Nat) : State :=
  let s := cnt (cnt s R.GSX_INDEX_INVALID drop) R.GSX_ROWS_READ rows
  let s := if rdF s R.GSX_DUP_MAX < top.1 then wrF (wrF s R.GSX_DUP_MAX top.1) R.GSX_DUP_ROW top.2 else s
  if drop = 0 then s else raiseBit s .gsx 0 4 .plain

/-- The completion of a GATHER or SCATTER (13 R305). -/
def gsxDone (c : Cmd) (outs : Nat) (b : Batch) (g : Map (List Nat)) (version left : Nat) : Done :=
  let top := topDup g
  { cmd := c, status := E_OK, c0 := outs % 2 ^ 32 + b.dropped.length % 2 ^ 32 * 2 ^ 32, c1 := g.length % 2 ^ 32 + top.1 % 2 ^ 32 * 2 ^ 32
    c2 := top.2 % 2 ^ 32 + (b.dropped.headD 0xFFFFFFFF) % 2 ^ 32 * 2 ^ 32, c3 := version % 2 ^ 16 + left % 2 ^ 32 * 2 ^ 32 }

/-- Strokes that a command takes: the coalescer's 1 ns per index, then row bytes at 400 GB/s (13 R301; notes/assumptions/31.md). -/
def gsxStrokes (s : State) (t : GsxTab) (r : GsxReq) : Nat :=
  let b := batchOf t r.cmd r.data
  let rows := (groupRows b.valid).length
  let bytes := rows * (if r.cmd.opcode = 0x42 then 2 * (t.rowBytes + auxNeed t (r.cmd.f2 16 4)) else t.rowBytes)
  max 1 (ceilDiv (10 * (r.cmd.f2 32 21 + ceilDiv bytes 400)) (windowT s.stk.period (catchActs s.stk.period s.stk.catchUs)))

/-- Whether a new version of a table waits to install: its pages all stand in Tier H (13 R296). -/
def gsxWaits (s : State) (t : Nat) : Bool :=
  s.txt.loads.any (fun l => l.kind = 2 && l.key = t && (opOf s l.op).any (fun o => o.todo.isEmpty && o.flying.isEmpty))

/-- A sealing entry for a table's changed pages (13 R304). -/
def sealTable (s : State) (t : GsxTab) : State :=
  let ps := t.changed.filter (fun p => !sealedNow s p)
  if ps.isEmpty then s
  else startOp s {
    kind := 5, cls := 1, src := 0, dst := 1, tenant := 0xFFF, object := ps.headD 0 * 65536, isSes := false, start := 0, todo := ps }

/-- The head of an order that may start at this catch (13 R297). -/
def startOrder (s : State) (t : Nat) : State :=
  match gsxOf s t with
  | none => s
  | some x =>
    let q := gsxOrder s t
    let run := fun (r : GsxReq) => { r with ph := .running, left := gsxStrokes s x r, version := x.version }
    let gathers := q.takeWhile (fun r => r.cmd.opcode = 0x41)
    if !gathers.isEmpty then
      setOrder s t (gathers.map (fun r => if r.ph == .waiting then run r else r) ++ q.drop gathers.length)
    else
      match q with
      | [] => s
      | r :: rest =>
        if r.ph != .waiting || gsxWaits s t then s
        else if r.cmd.opcode = 0x43 then sealTable (setOrder s t ({ r with ph := .running, version := x.version } :: rest)) x
        else setOrder s t (run r :: rest)

/-- The Gather/Scatter engine at a catch. -/
def gsxCatch (s : State) : State := (mapKeys s.gsx.orders).foldl startOrder s

/-- A GATHER has read its rows: its output goes out, and its completion follows it (13 R298, R305). -/
def gatherEnd (s : State) (t : GsxTab) (r : GsxReq) : State :=
  let b := batchOf t r.cmd r.data
  let g := groupRows b.valid
  let outs := if r.cmd.f2 16 2 = 0 then b.valid.length else r.cmd.f6 32 17
  issueWrite (gsxCount s b.dropped.length g.length (topDup g)) {
    qp := r.cmd.f4 32 16, rkey := r.cmd.f6 0 32, addr := r.cmd.w5.toNat, data := gatherOut s t r.cmd r.data b
    use := .recovery (gsxDone r.cmd outs b g t.version 0) }

/-- The pages that hold a row. -/
def rowPage (t : GsxTab) (r : Nat) : Option Nat := t.pages[r * 2 ^ t.log2Stride / 65536]?

/-- A SCATTER commits all its updates (13 R297, R303). -/
def scatterEnd (s : State) (t : GsxTab) (r : GsxReq) : State :=
  let b := batchOf t r.cmd r.data
  let g := groupRows b.valid
  let (rows, s) := g.foldl (fun (acc : List Nat × State) (row, is) =>
    let (ok, s) := scatterRow acc.2 t r.cmd r.data row is
    (if ok then acc.1 ++ [row] else acc.1, s)) ([], s)
  let ps := (rows.filterMap (rowPage t)).eraseDups
  let s := ps.foldl touch s
  let s := { s with gsx := { s.gsx with tabs := mapUpd s.gsx.tabs t.table (fun p => { p with cur := { p.cur with
    changed := ps.foldl setAdd p.cur.changed } }) } }
  let s := gsxCount s b.dropped.length g.length (topDup g)
  stageDone s (gsxDone r.cmd rows.length b g t.version (g.length - rows.length))

/-- A running request at a finish: one stroke less; at the last one it ends. Answers what is left of the request. -/
def reqFinish (s : State) (t : GsxTab) (r : GsxReq) : Option GsxReq × State :=
  if r.ph != .running || r.cmd.opcode = 0x43 then (some r, s)
  else if 1 < r.left then (some { r with left := r.left - 1 }, s)
  else if r.cmd.opcode = 0x41 then (some { r with ph := .output, left := 0 }, gatherEnd s t r)
  else (none, scatterEnd s t r)

/-- The engine's commands at a finish, before the stroke's commits are taken. -/
def gsxFinish (s : State) : State :=
  (mapKeys s.gsx.orders).foldl (fun s k =>
    let (q, s) := (gsxOrder s k).foldl (fun (acc : List GsxReq × State) r =>
      match gsxBound acc.2 k r.version with
      | none => (acc.1 ++ [r], acc.2)
      | some t =>
        let (x, s) := reqFinish acc.2 t r
        (acc.1 ++ x.toList, s)) ([], s)
    setOrder s k q) s

/-- A GATHER whose output has been acknowledged leaves its order (13 R297, R305). -/
def gatherAcked (s : State) (c : Cmd) : State :=
  let k := c.f2 0 16
  setOrder s k ((gsxOrder s k).filter (fun r => !(r.ph == .output && r.cmd == c)))

/-! ### Installs, seals and retirement (13 R296, R304; 11 R255) -/

/-- A GSX_SEAL ends when the last of the pages is sealed. -/
def sealFinish (s : State) (k : Nat) : State :=
  match mapGet s.gsx.tabs k with
  | none => s
  | some p =>
    let p := { p with cur := { p.cur with changed := p.cur.changed.filter (fun q => !sealedNow s q) } }
    let s := { s with gsx := { s.gsx with tabs := mapSet s.gsx.tabs k p } }
    match gsxOrder s k with
    | r :: rest =>
      if r.cmd.opcode = 0x43 && r.ph == .running then
        if p.cur.changed.isEmpty then finishCmd (setOrder s k rest) r.cmd E_OK
        else if s.tier.ops.any (fun e => e.2.kind = 5 && p.cur.changed.any (fun q => e.2.todo.contains q || e.2.flying.contains q)) ||
            s.tier.opWaits.any (fun o => p.cur.changed.any (fun q => o.todo.contains q)) then s
        else sealTable s p.cur
      else s
    | [] => s

/-- A gather table installs, its sealed copy follows, and its completion is sent (13 R294, R296). -/
def installGsx (s : State) (l : TabLoad) (t : GsxTab) : State :=
  let s := { s with txt := { s.txt with loads := s.txt.loads.filter (fun x => x.op != l.op) } }
  let s := updPtes s l.pages (fun e => { e with committed := true })
  let s := { s with gsx := { s.gsx with tabs := mapSet s.gsx.tabs l.key { cur := { t with pages := l.pages }, old := gsxOf s l.key } } }
  let s := sealImage (tableEvent s false 2 l.key l.version) l.pages
  stageDone s { cmd := l.cmd, status := E_OK, c0 := l.key % 2 ^ 32 + l.version * 2 ^ 32 }

/-- Whether a SCATTER or GSX_SEAL runs on a table. -/
def gsxWriting (s : State) (k : Nat) : Bool := (gsxOrder s k).any (fun r => r.cmd.opcode != 0x41 && r.ph == .running)

def retireGsx (s : State) (k : Nat) : State :=
  match mapGet s.gsx.tabs k with
  | some { cur := t, old := some o } =>
    if (gsxOrder s k).any (fun r => r.ph == .running && r.version = o.version) then s
    else tableEvent { freePages s o.pages with gsx := { s.gsx with tabs := mapSet s.gsx.tabs k { cur := t } } } true 2 k o.version
  | _ => s

/-- Image loads of the Text unit and of the Gather/Scatter engine whose last page stands in Tier H install at this finish (11 R255, 13
R296). -/
def installLoad (s : State) (l : TabLoad) : State :=
  if !(opOf s l.op).any (fun o => o.todo.isEmpty && o.flying.isEmpty) then s
  else
    match l.gsx with
    | none => installTable (freeOp s l.op) l
    | some t => if gsxWriting s l.key then s else installGsx (freeOp s l.op) l t

/-- Tables at a finish, after the stroke's copies have landed. -/
def tablesFinish (s : State) : State :=
  let s := (mapKeys s.gsx.tabs).foldl sealFinish s
  let s := s.txt.loads.foldl installLoad s
  let s := (mapKeys s.gsx.tabs).foldl retireGsx s
  wrF (retireTables s) R.GSX_STAT_TABLES s.gsx.tabs.length

end Sys2Proof.Machine
end

