-- ==== Sys2Proof/Machine/Crew.lean ====
section
/-! DEFINITION. Crews (14_crews_and_shares.md R308 to R310, R319, R323 to R325), the contexts of PCs and their switches (R316 to R318, R320
to R322). -/

namespace Sys2Proof.Machine

/-! ### Crews and their plans -/

def crewOf (s : State) (k : Nat) : Option Crew := mapGet s.crw.crews k
def setCrewRec (s : State) (k : Nat) (x : Crew) : State := { s with crw := { s.crw with crews := mapSet s.crw.crews k x } }
def updCrew (s : State) (k : Nat) (f : Crew → Crew) : State := { s with crw := { s.crw with crews := mapUpd s.crw.crews k f } }

/-- The PCs that a plan uses. -/
def planPcs (p : Plan) : List Nat := (p.pulls.map (fun e => bladePc (e.1 / 256))).foldl setAdd []

/-- A fast crew of another model program on a PC that a plan uses (14 R319). -/
def seatTaken (s : State) (model : Nat) (pcs : List Nat) : Bool :=
  s.crw.crews.any (fun e => e.2.fast && e.2.model != model &&
    (match planOf s e.2.model with | some p => (planPcs p).any pcs.contains | none => false))

def seatBad (s : State) (model : Nat) : Bool :=
  match planOf s model with
  | some p => seatTaken s model (planPcs p)
  | none => false

/-- A refusal of the `CREW` page. -/
def refuseCrew (s : State) (c : Cmd) (code : Nat) : State :=
  refuseWith (recordErr s (if code = E_MODEL_UNKNOWN then .ses else if code = E_SEC_MODE then .sec else .crew) 0 0 code) c code 0

/-! ### CREW (14 R309) -/

def crewCreateCode (s : State) (c : Cmd) (id : Nat) : Option Nat :=
  let tenant := c.f3 0 12
  let model := c.f3 32 32
  firstCode [
    codeIf (!domTenant s c.dom tenant || (c.f2 4 1 = 1 && !domPlanLoad s c.dom)) E_CREW_DENIED,
    codeIf (planOf s model).isNone E_MODEL_UNKNOWN,
    codeIf ((planOf s model).any (fun p => !ownerOk s tenant p)) E_SEC_MODE,
    codeIf (c.f2 32 16 = 0) E_CREW_RANGE,
    codeIf (decide (65535 ≤ s.crw.crews.length)) E_CREW_LIMIT,
    codeIf (c.f2 16 16 != 0xFFFF && mapHas s.crw.crews id) E_CREW_RANGE,
    codeIf (c.f2 4 1 = 1 && seatBad s model) E_CREW_SEAT]

def startCrewCreate (c : Cmd) (_ : List Byte) (s : State) : State :=
  let id := if c.f2 16 16 = 0xFFFF then mapFree s.crw.crews else c.f2 16 16
  match crewCreateCode s c id with
  | some e => refuseCrew s c e
  | none =>
    let fast := c.f2 4 1 = 1
    let s := setCrewRec s id {
      tenant := c.f3 0 12, model := c.f3 32 32, weight := c.f2 32 16, fast := fast, isAuto := c.f2 5 1 = 1, split := c.f2 6 1 = 1
      created := s.stk.number, winStart := s.stk.number, seatCmd := if fast then some c else none }
    if fast then s else stageDone s { cmd := c, status := E_OK, c0 := id }

def startCrewModify (c : Cmd) (_ : List Byte) (s : State) : State :=
  match crewOf s (c.f2 16 16) with
  | none => refuseCrew s c E_CREW_UNKNOWN
  | some x =>
    let fast := c.f2 4 1 = 1
    match firstCode [
        codeIf (!domTenant s c.dom x.tenant || (fast && !domPlanLoad s c.dom)) E_CREW_DENIED,
        codeIf (c.f2 32 16 = 0) E_CREW_RANGE,
        codeIf (fast && seatBad s x.model) E_CREW_SEAT] with
    | some e => refuseCrew s c e
    | none => stage s (.crewModify (c.f2 16 16) c)

/-- A modify takes effect at the finish; one that sets `FAST` completes when the crew is seated. -/
def commitCrewModify (s : State) (k : Nat) (c : Cmd) : State :=
  match crewOf s k with
  | none => refuseCrew s c E_CREW_UNKNOWN
  | some x =>
    let fast := c.f2 4 1 = 1
    let waits := fast && !x.seated
    let s := setCrewRec s k { x with
      weight := c.f2 32 16, fast := fast, isAuto := c.f2 5 1 = 1, split := c.f2 6 1 = 1, seated := x.seated && fast
      seatCmd := if waits then some c else x.seatCmd }
    if waits then s else stageDone s { cmd := c, status := E_OK, c0 := k }

/-- Whether a session that is not RELEASED, or one being opened, names a crew. -/
def crewNamed (s : State) (k : Nat) : Bool :=
  s.ses.tab.any (fun e => e.2.d.crew = k) || s.stk.commits.any (fun x => match x with
    | .openSes _ y _ => y.d.crew = k
    | .fork _ _ _ _ c => c.f4 16 16 = k
    | .join _ crew _ => crew = k
    | _ => false)

def startCrewDelete (c : Cmd) (_ : List Byte) (s : State) : State :=
  let k := c.f2 16 16
  match crewOf s k with
  | none => refuseCrew s c E_CREW_UNKNOWN
  | some x =>
    if !domTenant s c.dom x.tenant then refuseCrew s c E_CREW_DENIED
    else if crewNamed s k || mapHas s.courses k then refuseCrew s c E_CREW_BUSY
    else stageDone { s with crw := { s.crw with crews := mapErase s.crw.crews k } } { cmd := c, status := E_OK, c0 := k }

def execCrewCreate (c : Cmd) (s : State) : Host.Outcome State Fault Refusal := .next (submit s c [] startCrewCreate)
def execCrewModify (c : Cmd) (s : State) : Host.Outcome State Fault Refusal := .next (submit s c [] startCrewModify)
def execCrewDelete (c : Cmd) (s : State) : Host.Outcome State Fault Refusal := .next (submit s c [] startCrewDelete)

/-! ### Contexts of PCs (14 R316 to R318) -/

def pcCtx (s : State) (n : Nat) : PcCtx := (mapGet s.crw.pcs n).getD {}
def setPc (s : State) (n : Nat) (x : PcCtx) : State :=
  { s with crw := { s.crw with pcs := if x = {} then mapErase s.crw.pcs n else mapSet s.crw.pcs n x } }

/-- Same model program and plan version. -/
def sameProg (a b : Ctx) : Bool := a.model == b.model && a.version == b.version

/-- Whether a context is the incoming one as it stands: it holds the carry that the pass needs, or none is needed and it holds none. -/
def ctxServes (have_ want : Ctx) : Bool := sameProg have_ want && have_.carry == want.carry

/-- Whether a crew is seated whose context this is. -/
def seatedCtx (s : State) (x : Ctx) : Bool :=
  s.crw.crews.any (fun e => e.2.fast && e.2.seated && e.2.model = x.model)

/-- What a leg's switch on a PC takes: its time in ns, exchanges and whole saves and restores, and the PC afterwards; none where the PC
is held and the leg may not have it (14 R317 to R321). `fast`: the leg's crew holds fast seats; `live`: its live bytes. -/
structure PcSwitch where
  ns : Nat := 0
  exchanges : Nat := 0
  wholes : Nat := 0
  after : PcCtx
deriving DecidableEq, Repr

def pcSwitch (s : State) (n : Nat) (want : Ctx) (fast : Bool) (live : Nat) : Option PcSwitch :=
  let pc := pcCtx s n
  let inc : Ctx := { want with carry := none }
  let swap : PcSwitch := { ns := 4000, exchanges := 1, after := { work := some inc, seat := pc.work } }
  let inSeat := pc.seat.any (fun x => ctxServes x want)
  let heldWork := pc.work.any (fun x => x.carry.isSome && x.carry != want.carry)
  let heldSeat := pc.seat.any (fun x => x.carry.isSome && x.carry != want.carry)
  if pc.work.any (fun x => ctxServes x want) then some { after := { pc with work := some inc } }
  else if heldWork then (if fast && inSeat then some swap else none)
  else if heldSeat then none
  else if inSeat then some swap
  else if fast then some { ns := 4000 + 34 * live, exchanges := 1, after := { work := some inc, seat := pc.work } }
  else if pc.work.any (seatedCtx s) then
    some { ns := 4000 + 557000, exchanges := 1, wholes := 1, after := { work := some inc, seat := pc.work } }
  else some { ns := 557000, wholes := 1, after := { pc with work := some inc } }

/-! ### Lane images of the context store (14 R318) -/

/-- A lane image in use is listed with pass × 16 + lane. -/
def freeImage (s : State) : Option Nat :=
  if mapFree s.crw.images < rdF s R.CREW_STORE_IMAGES then some (mapFree s.crw.images) else none

def takeImages (s : State) (pass : Nat) (lanes : List Nat) : Option State :=
  lanes.foldl (fun o k => o.bind (fun s => (freeImage s).map (fun i =>
    { s with crw := { s.crw with images := mapSet s.crw.images i (pass * 16 + k) } }))) (some s)

def dropImages (s : State) (pass : Nat) : State :=
  { s with crw := { s.crw with
      images := s.crw.images.filter (fun e => e.2 / 16 != pass)
      store := s.crw.store.filter (fun e => (mapGet s.crw.images (e.1 / 2 ^ 27)).any (fun i => i / 16 != pass)) } }

/-! ### Switches that run alone (14 R320) -/

/-- The lanes of some PCs. -/
def lanesOfPcs (pcs : List Nat) : List Nat := (pcs.map (· / 64)).foldl setAdd []

/-- The drive window in 1/94 ns of the stroke in progress: tenths of a ns are below the unit. -/
def windowNs (s : State) : Nat := windowT s.stk.period (catchActs s.stk.period s.stk.catchUs) / 10

/-- An outgoing context of a seated crew is first exchanged into the standby seats (14 R318). -/
def seatOutgoing (s : State) (n : Nat) : State :=
  let pc := pcCtx s n
  if pc.work.any (seatedCtx s) then setPc (exchangePc s n) n { work := pc.seat, seat := pc.work } else s

/-- A switch begins on a lane: its strokes, the PCs that save or restore whole, and the energy of its transfers in each stroke. -/
def beginSwitch (s : State) (lane : Nat) (inc : Ctx) (crew : Nat) (pcs whole : List Nat) (ns wholes : Nat) (image : Option Nat) (pre : Bool) : State :=
  let n := max 1 (ceilDiv ns (max 1 (windowNs s)))
  let bytes := wholes * 16384 * 128 * pcs.length
  let s := if pre then s else whole.foldl seatOutgoing s
  let s := cnt s R.CREW_SWITCH_ORDINARY wholes
  { s with crw := { s.crw with switches := mapSet s.crw.switches lane {
    lane := lane, incoming := inc, crew := crew, pcs := pcs, strokes := n, saveImage := image, isPreempt := pre, whole := whole, total := n
    energyFj := bytes * rdI s R.LANE_COEF_E_BUS_FJ lane / n } } }

/-- The transfers of a PC that a switch has still to make. -/
def finishMoves (s : State) (lane n : Nat) : State :=
  (List.range 128).foldl (fun s _ =>
    match mapGet s.crw.switches lane with
    | some w => if movedOf w n < 128 then switchBlade s n w else s
    | none => s) s

/-- A context comes to a PC by way of its standby seats: restored there, if it is not, and exchanged (14 R318, R320). -/
def seatIn (s : State) (n : Nat) (c : Ctx) : State :=
  exchangePc (if (pcCtx s n).seat.any (fun x => ctxServes x c) then s else restorePc s c n 16384) n

/-- The switch of a PC within a leg's own start (14 R317, R318). -/
def legSwitch (s : State) (n : Nat) (want : Ctx) (w : PcSwitch) : State :=
  let s :=
    if w.wholes ≠ 0 then restorePc (if w.exchanges ≠ 0 then exchangePc s n else s) want n 0
    else if w.exchanges ≠ 0 then seatIn s n want
    else s
  setPc s n w.after

/-- A switch's context stands in a PC. -/
def switchPc (s : State) (lane : Nat) (w : Switch) (n : Nat) : State :=
  let c := switchCtx s w n
  let pc := pcCtx s n
  if w.whole.contains n then setPc (finishMoves s lane n) n { work := some c, seat := pc.seat }
  else setPc (seatIn s n c) n { work := some c, seat := pc.work }

/-- SWITCH_DONE (14 R318, R320): a switch whose strokes have passed puts its contexts in place. -/
def switchDone (s : State) (lane : Nat) : State :=
  match mapGet s.crw.switches lane with
  | none => s
  | some w =>
    if w.strokes ≠ 0 ∨ !w.failed.isEmpty then s
    else
      let s := w.pcs.foldl (fun s n => switchPc s lane w n) s
      { s with crw := { s.crw with switches := mapErase s.crw.switches lane } }

def execSwitchDone (lane : Nat) (s : State) : Host.Outcome State Fault Refusal :=
  if 10 ≤ lane then .fault .noSuchUnit else .next (switchDone s lane)

/-! ### Charges (14 R312, R313) -/

/-- Blade-µs, Combine-µs and the device charge in ns of a grant. -/
def chargesOf (s : State) (lanes groups : List Nat) (tNs cmbNs : Nat) : Nat × Nat × Nat :=
  let b := ceilDiv (sumOf (lanes.map (laneBlades s)) * tNs) 1000
  let g := ceilDiv (sumOf (groups.map (groupEngines s)) * cmbNs) 1000
  (b, g, max (ceilDiv (b * 1000) (devBlades s)) (ceilDiv (g * 1000) (devEngines s)))

/-- A crew is charged (14 R313, R315). -/
def chargeCrew (s : State) (k : Nat) (c : Nat × Nat × Nat) : State :=
  updCrew s k (fun x => { x with
    v := (x.v + ceilDiv (c.2.2 * 256) (max 1 x.weight)) % 2 ^ 64
    bladeUs := (x.bladeUs + c.1) % 2 ^ 64
    cmbUs := (x.cmbUs + c.2.1) % 2 ^ 64 })

/-! ### Seats (14 R319) -/

/-- CREW_SEATED: the crew's context stands in the standby seats of every PC its plan uses; the command that waits completes. -/
def crewSeated (s : State) (k : Nat) : State :=
  match crewOf s k with
  | none => s
  | some x =>
    match planOf s x.model with
    | none => s
    | some p =>
      if !x.fast || x.seated then s
      else
        let want : Ctx := { model := x.model, version := p.hdr.version }
        let s := (planPcs p).foldl (fun s n =>
          let pc := pcCtx s n
          if pc.work.any (sameProg want) || pc.seat.any (sameProg want) then s
          else setPc (restorePc s want n 16384) n { pc with seat := some want }) s
        let s := setCrewRec s k { x with seated := true, seatCmd := none }
        match x.seatCmd with
        | some c => stageDone s { cmd := c, status := E_OK, c0 := k }
        | none => s

def execCrewSeated (crew : Nat) (s : State) : Host.Outcome State Fault Refusal := .next (crewSeated s crew)

/-! ### Pre-emption (14 R321) -/

def passOf (s : State) (i : Nat) : Option Pass := mapGet s.stk.passes i
def setPass (s : State) (i : Nat) (p : Pass) : State := { s with stk := { s.stk with passes := mapSet s.stk.passes i p } }
def updPass (s : State) (i : Nat) (f : Pass → Pass) : State := { s with stk := { s.stk with passes := mapUpd s.stk.passes i f } }

/-- PREEMPT: the held context of a pass goes to the context store, one image per lane, and its PCs are released. -/
def preempt (s : State) (i : Nat) : State :=
  match passOf s i with
  | none => s
  | some p =>
    let max_ := rdF s R.CREW_CFG_HOLD_MAX
    let lanes := lanesOfPcs p.pcs
    let fast := (crewOf s p.crew).any (·.fast)
    if !p.held || p.image.isSome || fast || max_ = 0 || decide (s.stk.number < p.holdStroke + max_) ||
        lanes.any (fun k => mapHas s.crw.switches k) then s
    else
      match takeImages s i lanes with
      | none => s
      | some s =>
        let inc : Ctx := { model := p.model, version := p.version }
        let s := lanes.foldl (fun s k =>
          beginSwitch s k inc p.crew (p.pcs.filter (fun n => n / 64 = k)) (p.pcs.filter (fun n => n / 64 = k)) 557000 1 (some i) true) s
        let s := chargeCrew s p.crew (chargesOf s lanes [] 557000 0)
        let s := updPass s i (fun p => { p with held := false, image := some i })
        let s := updCrew s p.crew (fun x => { x with winPreempted := x.winPreempted + 1 })
        raiseBit (cnt s R.CREW_PREEMPT_COUNT 1) .crew 0 3 .plain

def execPreempt (pass : Nat) (s : State) : Host.Outcome State Fault Refusal := .next (preempt s pass)

/-! ### Restarts (06 R132, 07 R164) -/

/-- The carry of a pass is lost or no longer wanted. -/
def dropCarry (s : State) (i : Nat) : State :=
  let cut := fun (c : Option Ctx) => c.map (fun x => if x.carry = some i then { x with carry := none } else x)
  dropImages { s with crw := { s.crw with pcs := mapAll s.crw.pcs (fun _ p => { work := cut p.work, seat := cut p.seat }) } } i

/-- A pass starts again from its first leg, on the version then current; what it was charged is waste (14 R315). -/
def restartPass (s : State) (i : Nat) : State :=
  match passOf s i with
  | none => s
  | some p =>
    let cur := planOf s p.model
    let ver := match cur with | some q => q.hdr.version | none => p.version
    let first := if p.isAppend then (match cur with | some q => q.hdr.stepLegs | none => 0) else 0
    let s := { s with bld := { s.bld with routed := mapErase s.bld.routed i } }
    let s := updCrew (dropCarry s i) p.crew (fun x => { x with waste := (x.waste + p.bladeUs) % 2 ^ 64 })
    let s := setPass s i { p with
      version := ver, leg := if p.lap then p.leg else first, held := false, image := none, pcs := [], bladeUs := 0, cmbUs := 0, lastFinish := s.stk.number
      cmbLeft := none }
    p.sessions.foldl (fun s sid => updSes s sid (fun x => { x with
      head := x.head.map (fun r => { r with ver := ver, logits := [], shortLayers := 0, shortPages := 0 }) })) s

/-- A switch that failed on some PCs (14 R322): a carry is lost, and its pass restarts; a restore of resident entries is repeated from the
plan. -/
def switchFailed (s : State) (lane : Nat) (w : Switch) : State :=
  let s := raiseBit (cnt s R.CREW_PREEMPT_FAIL w.failed.length) .crew 0 4 .plain
  let put := fun (s : State) (w : Switch) => { s with crw := { s.crw with
    switches := if w.pcs.isEmpty then mapErase s.crw.switches lane else mapSet s.crw.switches lane w } }
  match w.saveImage.or (w.failed.findSome? (fun n => (switchCtx s w n).carry)) with
  | none => put s { w with failed := [], strokes := w.total, moved := w.moved.filter (fun e => !w.failed.contains e.1) }
  | some i =>
    let keep := fun (ns : List Nat) => ns.filter (fun n => !w.failed.contains n)
    let s := w.failed.foldl (fun s n => setPc s n { pcCtx s n with work := none }) s
    restartPass (put s { w with failed := [], pcs := keep w.pcs, whole := keep w.whole, incoming := { w.incoming with carry := none } }) i

/-- Switches at a finish: those that failed are dealt with, the others have one stroke less to go. -/
def switchFinish (s : State) : State :=
  s.crw.switches.foldl (fun s (lane, w) =>
    if !w.failed.isEmpty then switchFailed s lane w
    else
      let s := updCrew s w.crew (fun x => { x with winSwitch := x.winSwitch + 1 })
      { s with crw := { s.crw with switches := mapSet s.crw.switches lane { w with strokes := w.strokes - 1 } } }) s

/-! ### Split reports (14 R323 to R325) -/

def addCause (kind crew : Nat) : List SplitCause → List SplitCause
  | [] => [{ kind := kind, crew := crew, count := 1 }]
  | x :: xs => if x.kind = kind ∧ x.crew = crew then { x with count := x.count + 1 } :: xs else x :: addCause kind crew xs

/-- The four largest attributions: descending count, then the lower kind, then the lower crew (14 R324). -/
def topCauses (xs : List SplitCause) : List SplitCause :=
  (sortBy (fun a b => lexLe [2 ^ 32 - a.count, a.kind, a.crew] [2 ^ 32 - b.count, b.kind, b.crew]) xs).take 4

/-- The words S0 to S7 (14 Table 14-2). -/
def splitWords (k : Nat) (x : Crew) (cold : Bool) : List Nat :=
  let cs := (topCauses x.causes).map (fun c => (if c.kind = 0 then c.crew else 0) % 65536 + c.count % 2 ^ 32 * 2 ^ 16 + c.kind * 2 ^ 48)
  [k + b2n cold * 2 ^ 16 + x.winPasses % 2 ^ 32 * 2 ^ 32, x.winStart,
   (if x.winLegs = 0 then 0 else 1000 * x.winElapsed / x.winLegs) % 2 ^ 32 + x.winDeferred % 2 ^ 32 * 2 ^ 32,
   x.winSwitch % 2 ^ 32 + x.winPreempted % 2 ^ 32 * 2 ^ 32] ++ (cs ++ List.replicate (4 - cs.length) 0)

/-- The length of a window; a window of 0 strokes is one of 1. -/
def splitLen (s : State) : Nat := max 1 (rdF s R.CREW_CFG_SPLIT_STROKES)

/-- SPLIT_WINDOW_END: the report of a window whose last stroke has finished. -/
def splitEnd (s : State) (k : Nat) : State :=
  match crewOf s k with
  | none => s
  | some x =>
    let n := splitLen s
    let next := (x.winStart / n + 1) * n
    if !x.split || decide (catchStroke s < next) then s
    else
      let cold := decide (x.winStart < s.stk.sl1At + 256) || decide (x.winStart < x.created + 256)
      let ws := splitWords k x cold
      let slow := if x.winLegs = 0 then 0 else 1000 * x.winElapsed / x.winLegs
      let s := setCrewRec s k { x with
        report := ws, winStart := catchStroke s / n * n, winPasses := 0, winElapsed := 0, winLegs := 0, winDeferred := 0
        winSwitch := 0, winPreempted := 0, causes := [] }
      if cold || decide (slow < rdF s R.CREW_CFG_SPLIT_MIN) then s
      else raiseBit s .crew 0 2 (.named EV_CREW_SPLIT ws (tenantDoms s x.tenant))

def execSplitWindowEnd (crew : Nat) (s : State) : Host.Outcome State Fault Refusal := .next (splitEnd s crew)

/-- The figures of the `CREW` page at a finish (14 Table 14-4). -/
def crewFigures (s : State) : State :=
  let s := wrF (wrF s R.CREW_STAT_CREWS s.crw.crews.length) R.CREW_STAT_SEATED
    (min 255 (s.crw.crews.filter (fun e => e.2.seated)).length)
  wrF (wrF s R.CREW_VMIN s.crw.vmin) R.CREW_STORE_USED s.crw.images.length

end Sys2Proof.Machine
end

