-- ==== Sys2Proof/Machine/Grant.lean ====
section
/-! DEFINITION. Passes, candidates and grants (14_crews_and_shares.md R311 to R314, 06_the_stroke.md R131), and what a grant builds: attention
blocks and reduce tags (09_decode_legs.md R199, R202, R203, R213; 10_long_contexts.md R224, R225). -/

namespace Sys2Proof.Machine

/-! ### Sessions that may compute (05 R94, R107; 10 R225) -/

/-- The positions that the next legs of a session's head compute: first position, how many (09 R199, R212). -/
def legRange (x : Ses) (r : Run) : Nat × Nat := headRange x r

/-- The spans of a layer that a step attends to, those of its new positions included (10 R222). -/
def attSpans (s : State) (x : Ses) (hi layer : Nat) : List Nat :=
  let n := ceilDiv x.d.positions x.span
  selSpans x (lcWord s x.d.model) x.d.attPolicy layer ++ ((List.range (ceilDiv hi x.span)).filter (fun sp => decide (n ≤ sp)))

/-- The pages of those spans that the session reads itself, and not through its crew's course. -/
def attPages (s : State) (x : Ses) (hi layer : Nat) : List (Nat × Nat) :=
  let out := coursePages s x
  (attSpans s x hi layer).filterMap (fun sp => (mapGet x.pl (x.plKey sp layer)).bind (fun e =>
    if out.contains e.page then none else some (sp, e.page)))

/-- Whether the pages a head waits for are in Tier H: those it writes, and by the policy those it selects (10 Table 10-1). -/
def pagesReady (s : State) (x : Ses) (r : Run) : Bool :=
  let (lo, n) := legRange x r
  let written := (rangeKeys x lo (lo + n)).filterMap (fun k => (mapGet x.pl k).map (·.page))
  let sel := ((List.range x.layers).map (fun l => (attPages s x (lo + n) l).map (·.2))).flatten
  allInH s written &&
    (if x.d.attPolicy = 1 then true
     else if x.d.attPolicy = 2 then r.fetchWaited == 1 || allInH s sel
     else allInH s sel)

/-- FETCH_WAIT_EXPIRY (10 R225): a policy 2 step that has waited `FETCH_WAIT` strokes at the head runs with what is resident. -/
def fetchExpiry (s : State) (sid : Nat) : State :=
  match sesOf s sid with
  | none => s
  | some x =>
    match x.head with
    | none => s
    | some r =>
      if x.d.attPolicy = 2 ∧ r.ph = .ready ∧ r.headStroke + lcFetchWait (lcWord s x.d.model) ≤ s.stk.number then
        setSes s sid { x with head := some { r with fetchWaited := 1 } }
      else s

def execFetchWaitExpiry (sid : Nat) (s : State) : Host.Outcome State Fault Refusal := .next (fetchExpiry s sid)

/-- Whether a session's head can have a leg granted now. -/
def sesReady (s : State) (x : Ses) : Bool :=
  !x.heldOut && (match x.head with | some r => r.ph == .ready && pagesReady s x r | none => false)

/-! ### Passes (14 R311) -/

def inPass (s : State) (sid : Nat) : Bool := s.stk.passes.any (fun e => e.2.sessions.contains sid)

/-- Whether a session computes through its crew's course (10 R230). -/
def inCourse (s : State) (sid crew : Nat) : Bool := (mapGet s.courses crew).any (fun c => mapHas c.homes sid)

/-- Whether the steps of a plan run as Combine steps: at SL1, and at SL2 while a lane that its legs use is not online (22 R475). -/
def cmbMode (s : State) (p : Plan) : Bool :=
  let level := rdF s R.SVC_LEVEL_LEVEL
  level = 1 || (level = 2 && p.fits.any (fun f => (onesOf 10 f.lanes).any (fun k => !laneOnline s k)))

/-- Sessions that new passes take, in the order of R311: of a crew, with a given opcode at the head. -/
def freshHeads (s : State) (crew op : Nat) : List Nat :=
  let xs := s.ses.tab.filterMap (fun (sid, x) =>
    match x.head with
    | some r =>
      if x.d.crew = crew && r.cmd.opcode = op && sesReady s x && !inPass s sid && !(op = 0x13 && inCourse s sid crew && !(planOf s x.d.model).any (cmbMode s)) then
        some [r.headStroke, sid]
      else none
    | none => none)
  (sortBy lexLe xs).map (fun k => k.getD 1 0)

def newPass (s : State) (p : Pass) : State :=
  setPass { s with stk := { s.stk with nextPass := s.stk.nextPass + 1 } } s.stk.nextPass p

/-- The sessions of a pass are bound to its version (09 R196). -/
def bindVersion (s : State) (sids : List Nat) (ver : Nat) : State :=
  sids.foldl (fun s sid => updSes s sid (fun x => { x with head := x.head.map (fun r => { r with ver := ver }) })) s

/-- Passes none of whose legs has been granted bind to the version current at this catch (09 R196); one that is too large for its batch forms
anew. -/
def rebindPasses (s : State) (k : Nat) (p : Plan) : State :=
  (s.stk.passes.filter (fun e => e.2.crew = k && e.2.started.isNone && e.2.version != p.hdr.version && !e.2.lap)).foldl (fun s (i, x) =>
    if x.sessions.length ≤ max 1 p.hdr.batch then
      setPass (bindVersion s x.sessions p.hdr.version) i { x with version := p.hdr.version, leg := if x.isAppend then p.hdr.stepLegs else 0 }
    else { s with stk := { s.stk with passes := mapErase s.stk.passes i } }) s

/-- The passes of one crew that form at this catch. -/
def formPasses (s : State) (k : Nat) (c : Crew) : State :=
  match planOf s c.model with
  | none => s
  | some p =>
    if p.blocked then s
    else
      let make := fun (app : Bool) (s : State) (sids : List Nat) =>
        newPass (bindVersion s sids p.hdr.version) {
          crew := k, tenant := c.tenant, model := c.model, version := p.hdr.version, isAppend := app, sessions := sids
          leg := if app then p.hdr.stepLegs else 0, firstCand := s.stk.number }
      let s := rebindPasses s k p
      let s := (chunks (max 1 p.hdr.batch) (freshHeads s k 0x13)).foldl (make false) s
      ((freshHeads s k 0x12).map (fun sid => [sid])).foldl (make true) s

/-! ### The attention blocks and tags of a grant (09 R202, R203) -/

/-- The entry words that a block is made of (07 Table 07-4). -/
def aclrEnt (area off n : Nat) : Word := BitVec.ofNat 64 (8 + off * 2 ^ 32 + (n - 1) * 2 ^ 41 + area * 2 ^ 50)
def shipEnt (area off n tag : Nat) : Word := BitVec.ofNat 64 (9 + off * 2 ^ 32 + (n - 1) * 2 ^ 41 + area * 2 ^ 50 + tag * 2 ^ 51)

def attEnt (h : PlanHdr) (q row acc scr : Nat) : Word :=
  BitVec.ofNat 64 (3 + h.kvFmt * 2 ^ 4 + q * 2 ^ 13 + row * 2 ^ 19 + h.log2d * 2 ^ 32 + log2 h.kvHeads * 2 ^ 35 + (h.log2p - 6) * 2 ^ 37 +
    h.log2g * 2 ^ 39 + 2 ^ 42 + acc * 2 ^ 43 + scr * 2 ^ 52)

/-- The entries of one page: its base, then one `ATT` per row. -/
def pageEnts (h : PlanHdr) (t : AttTpl) (q span slot : Nat) : List Word :=
  baseEnt (span * h.span) :: (List.range 64).map (fun i => attEnt h q (slot * 64 + i) t.acc t.scr)

/-- A selected page in Tier H: session's place in the pass, span, half-bank, slot. -/
structure AttPage where
  j : Nat
  span : Nat
  g : Nat
  slot : Nat
deriving DecidableEq, Repr

/-- The sessions of a pass with their heads, in slot order, each with its first position and its number of positions. -/
def passHeads (s : State) (p : Pass) : List (Nat × Ses × Run × Nat × Nat) :=
  ((List.range p.sessions.length).zip p.sessions).filterMap (fun (j, sid) =>
    match sesOf s sid with
    | some x =>
      match x.head with
      | some r => some (j, x, r, (legRange x r).1, (legRange x r).2)
      | none => none
    | none => none)

/-- The pages that a template's layer reads, and how many selected pages are not in Tier H, session by session. -/
def layerPages (s : State) (p : Pass) (layer : Nat) : List AttPage × List (Nat × Nat) :=
  let hs := passHeads s p
  let top := maxOf (hs.map (fun (_, _, _, lo, n) => lo + n - 1))
  let per := hs.map (fun (j, x, _, lo, n) =>
    let ps := attPages s x (lo + n) layer
    let here := ps.filterMap (fun (sp, pg) => (pteOf s pg).bind (fun e =>
      if e.h && decide (sp * x.span ≤ top) then some { j := j, span := sp, g := frameHb e.hFrame, slot := frameSlot e.hFrame : AttPage } else none))
    (here, (x.d.session, (notInH s (ps.map (fun (e : Nat × Nat) => e.2))).length)))
  ((per.map (·.1)).flatten, per.map (·.2))

/-- The block of one blade for one template. A `MODE` 1 block, whose stages R204 names without their entries, is left to the plan's own
`BASE` entries (notes/assumptions/26.md). -/
def blockOf (h : PlanHdr) (t : AttTpl) (app : Bool) (counts : List (Nat × Nat)) (ps : List AttPage) : List Word :=
  if t.mode = 1 then List.replicate t.entries (baseEnt 0)
  else
    let n := h.kvHeads * 2 ^ h.log2g
    let pm := if app then 8 else h.posMax
    let one := fun (j q tag : Nat) =>
      [aclrEnt 0 t.acc (n * h.head), aclrEnt 1 t.scr n] ++
        ((ps.filter (fun a => a.j = j)).map (fun a => pageEnts h t q a.span a.slot)).flatten ++
        [shipEnt 1 t.scr n tag, shipEnt 0 t.acc (n * h.head) tag]
    let ws := (counts.map (fun (j, np) =>
      if ps.any (fun a => a.j = j) then ((List.range np).map (fun i => one j (t.qreg + j * pm + i) (t.tag + j * pm + i))).flatten else [])).flatten
    (ws ++ List.replicate (t.entries - ws.length) (baseEnt 0)).take t.entries

/-- The templates of a leg with their places in the section. -/
def legTpls (p : Plan) (leg : Nat) : List (Nat × AttTpl) := ((List.range p.att.length).zip p.att).filter (fun e => e.2.leg = leg)

/-- The tags that a template sets in one lane. -/
def attTags (h : PlanHdr) (t : AttTpl) (app : Bool) (counts : List (Nat × Nat)) (ps : List AttPage) (lane : Nat) : List TagEnt :=
  let pm := if app then 8 else h.posMax
  (counts.map (fun (j, np) =>
    let c := ((ps.filter (fun a => a.j = j && bladeLane a.g = lane)).map (·.g)).eraseDups.length
    if c = 0 then []
    else (List.range np).map (fun i => {
      tag := t.tag + j * pm + i, op := 1, n := h.kvHeads * 2 ^ h.log2g, log2d := h.log2d, contrib := c, cmbg := t.cmbg, dtag := t.dtag : TagEnt }))).flatten

/-- What the device builds for a leg of a pass: blocks by blade × 2,048 + template, tags by lane, the
spans attended to by layer, and the layers and pages that are short by session. -/
structure LegBuild where
  blocks : Map (List Word) := []
  tags : Map (List TagEnt) := []
  att : Map (List Nat) := []
  short : List (Nat × Nat) := []
  pages : List (Nat × AttPage) := []
deriving DecidableEq, Repr

def buildLeg (s : State) (p : Pass) (q : Plan) (leg : Nat) : LegBuild :=
  let h := q.hdr
  let hs := passHeads s p
  let counts := hs.map (fun (j, _, _, _, n) => (j, n))
  (legTpls q leg).foldl (fun b (i, t) =>
    let (ps, short) := layerPages s p t.layer
    let gs := (ps.map (·.g)).foldl setAdd []
    let blocks := gs.foldl (fun m g => mapSet m (g * 2048 + i) (blockOf h t p.isAppend counts (ps.filter (fun a => a.g = g)))) b.blocks
    let tags := (List.range 10).foldl (fun m k =>
      let es := attTags h t p.isAppend counts ps k
      if es.isEmpty then m else mapSet m k ((mapGet m k).getD [] ++ es)) b.tags
    { blocks := blocks, tags := tags, att := mapSet b.att t.layer ((ps.map (·.span)).foldl setAdd [])
      short := b.short ++ short.filter (fun e => e.2 != 0), pages := b.pages ++ ps.map (fun a => (t.layer, a)) })
    { tags := (List.range 10).foldl (fun m k => match mapGet q.tags (leg * 16 + k) with | some es => mapSet m k es | none => m) [] }

/-- Pages beyond `A` of one session on one half-bank in a leg (09 R203). -/
def crowded (a : Nat) (ps : List (Nat × AttPage)) : List (Nat × AttPage) :=
  ((List.range ps.length).zip ps).filterMap (fun ((i, x) : Nat × Nat × AttPage) =>
    if a ≤ ((ps.take i).filter (fun y => y.2.j = x.2.j && y.2.g = x.2.g)).length then some x else none)

/-! ### Candidates in order (14 R314) -/

/-- The order of a candidate: held passes by their hold, then by crew; then ascending V, crew, started before new, and the order of the
first grant or of R311. -/
def candKey (s : State) (i : Nat) (p : Pass) : List Nat :=
  let v := match crewOf s p.crew with | some c => c.v | none => 0
  if p.held then [0, p.holdStroke, p.crew, 0, 0, i]
  else
    match p.started with
    | some n => [1, v, p.crew, 0, n, i]
    | none => [1, v, p.crew, 1, i, 0]

/-- The first of some candidates. -/
def firstCand (s : State) : List Nat → Option Nat
  | [] => none
  | i :: is =>
    match firstCand s is, passOf s i with
    | some j, some p =>
      match passOf s j with
      | some q => if lexLe (candKey s i p) (candKey s j q) then some i else some j
      | none => some i
    | none, _ => some i
    | some j, none => some j

/-- Whether the sessions of a pass let its next leg be a candidate that can be granted. -/
def passReady (s : State) (p : Pass) : Bool :=
  !p.sessions.isEmpty && p.sessions.all (fun sid => (sesOf s sid).any (sesReady s)) &&
    (match planVer s p.model p.version with | some q => !q.blocked && !q.pages.any s.flt.repairs.contains | none => false)

/-- Whether the leg runs the `MASK` instructions of the step: the final one (11 R252). -/
def lastLeg (q : Plan) (p : Pass) : Bool := p.leg + 1 = (if p.isAppend then q.hdr.legs else q.hdr.stepLegs)

/-- The masks that a final leg needs (11 R252): one per rated position of each masked head. -/
def masksHere (s : State) (p : Pass) : Bool :=
  (passHeads s p).all (fun (_, x, r, _, _) =>
    if !maskedHead x r then true
    else if r.cmd.opcode = 0x12 then (decide (r.toks.length > 8 * r.group + 8)) || masksReady s x.d.session 1
    else masksReady s x.d.session r.toks.length)

/-! ### A grant (06 R131) -/

/-- The PCs that a leg uses: those of its lists and of its blocks. -/
def legPcs (q : Plan) (leg : Nat) (b : LegBuild) : List Nat :=
  (((legLists q leg).map (fun (e : Nat × List Word) => bladePc e.1)) ++ b.blocks.map (fun (e : Nat × List Word) => bladePc (e.1 / 2048))).foldl setAdd []

/-- The blades with work in a leg. -/
def legBlades (s : State) (q : Plan) (leg : Nat) (b : LegBuild) : List Nat :=
  ((((legLists q leg).map (fun (e : Nat × List Word) => e.1)) ++ b.blocks.map (fun (e : Nat × List Word) => e.1 / 2048)).foldl setAdd []).filter (fun g => !bladeFenced s g)

/-- The pages that a leg writes: those of its layers at its new positions, and with the last leg those of the page list that its commit
writes. -/
def legWrites (s : State) (p : Pass) (q : Plan) (leg : Nat) : List Nat :=
  let layers := ((legTpls q leg).map (fun e => e.2.layer)).eraseDups
  let last := leg + 1 = (if p.isAppend then q.hdr.legs else q.hdr.stepLegs)
  ((passHeads s p).map (fun (_, x, _, lo, n) =>
    (rangeKeys x lo (lo + n)).filterMap (fun k => if layers.contains (k % max 1 x.layers) then (mapGet x.pl k).map (·.page) else none) ++
      (if last then x.listAt (rangeKeys x lo (lo + n)) else []))).flatten

/-- What passes under way have written and a commit will make dirty: their reservations stand until then (05 R100). -/
def startedDirty (s : State) : Nat :=
  sumOf (s.stk.passes.map (fun (_, p) =>
    match p.started, planVer s p.model p.version with
    | some _, some q =>
      let first := if p.isAppend then q.hdr.stepLegs else 0
      let done := ((passHeads s p).map (fun (_, x, _, lo, _) => (rangeKeys x x.d.positions lo).filterMap (fun k => (mapGet x.pl k).map (·.page)))).flatten
      mayDirty s (done ++ ((List.range (p.leg - first)).map (fun i => legWrites s p q (first + i))).flatten).eraseDups
    | _, _ => 0))

/-- What a candidate that passes every test needs: its build, its PCs with their switches, and its start. -/
structure GrantAt where
  build : LegBuild
  pcs : List (Nat × PcSwitch)
  start94 : Nat
deriving DecidableEq, Repr

def laneSwitchNs (xs : List (Nat × PcSwitch)) (k : Nat) : Nat := maxOf ((xs.filter (fun e => e.1 / 64 = k)).map (fun e => e.2.ns))

/-- Credit enough, and grants allowed, on a lane (06 R131, 08 R182). -/
def laneFree (s : State) (f : Fit) (k : Nat) : Bool :=
  grantsAllowed s k && decide (rdI s R.LANE_COEF_P_IDLE_MW k < rdI s R.LANE_GOV_STATUS_CAP_NOW k * 100) && !mapHas s.crw.switches k &&
    decide (((f.energyFj.getD k 0 : Nat) : Int) ≤ s.stk.credit.getD k 0)

/-- The context that a pass's leg needs in a PC: with the pass's carry where the pass holds one there. -/
def wantCtx (i : Nat) (p : Pass) (n : Nat) : Ctx :=
  { model := p.model, version := p.version, carry := if (p.held || p.image.isSome) && p.pcs.contains n then some i else none }

/-- The frames that a leg owns until the finish (07 R147): those that its `WR` entries name, and those of the pages it writes. -/
def legOwns (s : State) (k : Nat) (l : GLeg) (q : Plan) (writes : List Nat) : List Nat :=
  let wr := (l.openBlades.map (fun g =>
    let es := legEntries s k g
    (((List.range es.length).zip es).filter (fun e => entOp e.2 = 6)).map (fun e => frameOf g (entRowAt q l g e.1 e.2 / 64)))).flatten
  (writes.filterMap (fun p => (pteOf s p).bind (fun e => if e.h then some e.hFrame else none))).foldl setAdd (wr.foldl setAdd [])

/-! ### The rows a leg writes (09 R201, R204) -/

/-- The record of one new position in a page: free bytes (notes/assumptions/44.md), unless `WR` entries of the leg's plan write that frame. -/
def writeRow (s : State) (wr : List Nat) (page off n : Nat) : State :=
  match pteOf s page with
  | none => s
  | some e =>
    if !e.h || wr.contains e.hFrame then s
    else
      let (i, s) := nextFree s
      touchFrame (writeFrame s e.hFrame off ((List.range n).map (Config.kvByte i))) e.hFrame

/-- The records of a leg's new positions in its layers, before any entry of the leg reads them. -/
def writeRows (s : State) (wr : List Nat) (p : Pass) (q : Plan) (leg : Nat) : State :=
  (legTpls q leg).foldl (fun s (_, t) =>
    (passHeads s p).foldl (fun s (_, x, _, lo, n) =>
      let rec_ := 65536 / max 1 x.span
      (List.range n).foldl (fun s i =>
        match mapGet x.pl (x.plKey ((lo + i) / x.span) t.layer) with
        | some e => writeRow s wr e.page ((lo + i) % x.span * rec_) rec_
        | none => s) s) s) s

/-- The frames in which a granted leg's `WR` entries write rows. -/
def wrFrames (s : State) (k : Nat) (l : GLeg) (q : Plan) : List Nat := legOwns s k l q []

/-- A granted leg takes its frames and its new rows are written (07 R147, 09 R204). -/
def startLeg (s : State) (k : Nat) (p : Pass) (q : Plan) : State :=
  match legOf s k with
  | none => s
  | some l =>
    let s := updLeg s k (fun l => { l with owns := legOwns s k l q (legWrites s p q l.leg) })
    writeRows s (wrFrames s k l q) p q l.leg

/-- The grant itself. -/
def grantLeg (s : State) (i : Nat) (p : Pass) (q : Plan) (f : Fit) (x : GrantAt) : State :=
  let k := s.stk.grants
  let lanes := onesOf 10 f.lanes
  let groups := legGroups q p.leg
  let tsw := maxOf (lanes.map (laneSwitchNs x.pcs))
  let c := chargesOf s lanes groups (f.ns + tsw) f.combineNs
  let base := match mapGet s.prg.sets (setKey p.model p.tenant) with | some g => g.cur.rowBase | none => 0
  let s := chargeCrew s p.crew c
  let s := x.pcs.foldl (fun s (n, w) => legSwitch s n (wantCtx i p n) w) s
  let s := dropCarry s i
  let s := cnt (cnt s R.CREW_SWITCH_EXCHANGE (b2n (x.pcs.any (fun e => e.2.exchanges != 0)))) R.CREW_SWITCH_ORDINARY
    (b2n (x.pcs.any (fun e => e.2.wholes != 0)))
  let used : List Nat := x.pcs.map (fun (e : Nat × PcSwitch) => e.1)
  let g : GLeg := {
    pass := i, model := p.model, version := p.version, leg := p.leg, start94 := x.start94, lanes := f.lanes
    openBlades := legBlades s q p.leg x.build, openGroups := groups, charge := c.1, chargeCmb := c.2.1
    blocks := x.build.blocks, tags := x.build.tags, heads := (passHeads s p).map (fun e => (e.2.2.2.1, e.2.2.2.2)), lock := f.lock
    rowBase := base, att := x.build.att }
  let s := { s with stk := { s.stk with
      granted := mapSet s.stk.granted k g
      grants := k + 1
      busy := (List.range 10).map (fun j => if lanes.contains j then x.start94 + f.tLeg94 else s.stk.busy.getD j 0)
      credit := (List.range 10).map (fun j =>
        if lanes.contains j then s.stk.credit.getD j 0 - (f.energyFj.getD j 0 : Nat) else s.stk.credit.getD j 0) } }
  let s := lanes.foldl (fun s j => spend s j (f.energyFj.getD j 0)) s
  let s := setPass s i { p with
    started := some (p.started.getD k)
    image := none, held := false
    pcs := used
    bladeUs := p.bladeUs + c.1, cmbUs := p.cmbUs + c.2.1 }
  let s := startLeg (dirtyReserve s (mayDirty s (legWrites s p q p.leg))) k p q
  p.sessions.foldl (fun s sid =>
    let short := x.build.short.filter (fun e => e.1 = sid)
    updSes s sid (fun y => { y with head := y.head.map (fun r => { r with
      started := true
      leg := p.leg
      shortLayers := r.shortLayers + short.length
      shortPages := r.shortPages + sumOf (short.map (·.2)) }) })) s

/-- The excess pages of a crowded leg move at class 1; the command of a session whose pages crowd it is refused after `QUOTA_WAIT` strokes
(09 R203). -/
def spreadPages (s : State) (p : Pass) (xs : List (Nat × AttPage)) : State :=
  let ps := ((xs.filterMap (fun e => pageOfFrame s (frameOf e.2.g e.2.slot))).eraseDups).filter (fun p =>
    (pteOf s p).any (fun e => !e.placed && !e.pinH))
  let busy := s.tier.ops.any (fun o => o.2.kind = 8 && (o.2.todo ++ o.2.flying ++ mapKeys o.2.vers).any ps.contains)
  let s := if busy || ps.isEmpty || !opRoom s 1 p.tenant then s
    else
      (takeOp s {
        kind := 8, cls := 1, src := 0, dst := 0, tenant := p.tenant, object := ps.headD 0 * 65536, isSes := false, start := 0, todo := ps }).2
  ((xs.map (·.2.j)).eraseDups.filterMap (fun j => p.sessions[j]?)).foldl (fun s sid =>
    match sesOf s sid with
    | none => s
    | some x =>
      match x.head with
      | none => s
      | some r =>
        if rdF s R.TIER_CFG_QUOTA_WAIT ≤ r.waited then
          updPassOf (refuseSes (setSes s sid { x with head := none }) r.cmd E_TIER_FULL) sid
        else setSes s sid { x with head := some { r with waited := r.waited + 1 } }) s
where
  updPassOf (s : State) (sid : Nat) : State :=
    { s with stk := { s.stk with passes := mapAll s.stk.passes (fun _ p => { p with sessions := p.sessions.filter (· != sid) }) } }

/-- Switches of a candidate that do not fit beside its leg run alone (14 R320). -/
def startSwitches (s : State) (p : Pass) (pcs : List (Nat × PcSwitch)) (want : Nat → Ctx) : State :=
  let due := ((pcs.filter (fun e => e.2.ns != 0)).map (fun e => e.1 / 64)).foldl setAdd []
  let lanes := due.filter (fun k => s.stk.busy.getD k 0 = 0 && !mapHas s.crw.switches k && grantsAllowed s k)
  if lanes.isEmpty then s
  else
    let s := lanes.foldl (fun s k =>
      let here := pcs.filter (fun e => e.1 / 64 = k && e.2.ns != 0)
      beginSwitch s k (want (((here.map (·.1)).filter (fun n => (want n).carry.isSome)).headD (k * 64))) p.crew (here.map (·.1))
        ((here.filter (fun e => e.2.wholes != 0)).map (·.1)) (laneSwitchNs pcs k) (maxOf (here.map (fun e => e.2.wholes))) none false) s
    chargeCrew s p.crew (chargesOf s lanes [] (maxOf (lanes.map (laneSwitchNs pcs))) 0)

/-! ### Combine steps (22 R475) -/

/-- The legs of a pass's step, or of its append group. -/
def passLegs (q : Plan) (app : Bool) : List Nat :=
  if app then (List.range q.hdr.appendLegs).map (q.hdr.stepLegs + ·) else List.range q.hdr.stepLegs

/-- t_c in ns: the bytes read at 26,200 B/ns, or the multiply-accumulates at 24,600 per ns, and the Combine programs. The weights' bytes count
for both, once per position for the operations; the selected pages count as bytes (notes/assumptions/43.md). -/
def combineStepNs (s : State) (p : Pass) (q : Plan) : Nat :=
  let legs := passLegs q p.isAppend
  let weights := sumOf (legs.map (fun l => sumOf ((legLists q l).map (fun e => bladePulls q l e.1 e.2)) * 1024))
  let hs := passHeads s p
  let pages := sumOf (hs.map (fun (_, x, _, lo, n) => sumOf ((List.range x.layers).map (fun l => (attPages s x (lo + n) l).length))))
  let positions := sumOf (hs.map (fun (_, _, _, _, n) => n))
  max (ceilDiv (weights + pages * 65536) 26200) (ceilDiv (weights * positions) 24600) + sumOf (legs.map (fun l => (q.fits[l]?).elim 0 (·.combineNs)))

/-- A Combine step begins: one at a time in the device. -/
def startCombine (s : State) (i : Nat) (p : Pass) (q : Plan) : Bool × State :=
  let legs := passLegs q p.isAppend
  let writes := (legs.map (legWrites s p q)).flatten.eraseDups
  if s.stk.passes.any (fun e => e.2.cmbLeft.isSome) || !passReady s p || s.pwr.water.isSome || !s.gov.pllOk || s.lnk.feather != .full then (false, s)
  else if !masksHere s p then (false, cnt s R.GRM_WAIT_LEGS 1)
  else if !dirtyFits s (mayDirty s writes) then (false, dirtyDefer s)
  else
    let t := combineStepNs s p q
    let g := ceilDiv (128 * t) 1000
    let k := s.stk.grants
    let short := (legs.map (fun l => (buildLeg s p q l).short)).flatten
    let s := chargeCrew { s with stk := { s.stk with grants := k + 1 } } p.crew (0, g, t)
    let s := setPass s i { p with started := some k, cmbLeft := some (max 1 (ceilDiv t (max 1 (windowNs s)))), cmbUs := p.cmbUs + g }
    let s := dirtyReserve s (mayDirty s writes)
    (true, p.sessions.foldl (fun s sid =>
      let mine := short.filter (fun e => e.1 = sid)
      updSes s sid (fun y => { y with head := y.head.map (fun r => { r with
        started := true, shortLayers := mine.length, shortPages := sumOf (mine.map (·.2)) }) })) s)

/-- One candidate is tried (06 R131). Answers whether it was granted. -/
def tryLeg (s : State) (i : Nat) : Bool × State :=
  match passOf s i with
  | none => (false, s)
  | some p =>
    match planVer s p.model p.version with
    | none => (false, s)
    | some q =>
      match q.fits[p.leg]? with
      | none => (false, s)
      | some f =>
        let held := p.held || p.image.isSome
        let want : Nat → Ctx := wantCtx i p
        let fast := (crewOf s p.crew).any (·.fast)
        let carry := if held ∧ 0 < p.leg then q.carry.getD (p.leg - 1) 0 else 0
        let lanes := onesOf 10 f.lanes
        if p.leg = (if p.isAppend then q.hdr.stepLegs else 0) && cmbMode s q then startCombine s i p q
        else if !passReady s p || 1024 ≤ s.stk.granted.length then (false, s)
        else if lastLeg q p && !masksHere s p then (false, cnt s R.GRM_WAIT_LEGS 1)
        else
          let b := buildLeg s p q p.leg
          let overspent := crowded q.hdr.kvPerBlade b.pages
          if !overspent.isEmpty then (false, spreadPages s p overspent)
          else
            let pcs := (legPcs q p.leg b).map (fun n => (n, pcSwitch s n (want n) fast (q.resident + carry)))
            if pcs.any (fun e => e.2.isNone) then (false, s)
            else
              let pcs := pcs.filterMap (fun e => e.2.map (fun w => (e.1, w)))
              let start := maxOf (lanes.map (fun k => s.stk.busy.getD k 0 + 94 * laneSwitchNs pcs k))
              let tsw := maxOf (lanes.map (laneSwitchNs pcs))
              let w10 := windowT s.stk.period (catchActs s.stk.period s.stk.catchUs) * 94
              if !dirtyFits s (mayDirty s (legWrites s p q p.leg)) then (false, dirtyDefer s)
              else if 0 < tsw ∧ w10 < (94 * tsw + f.tLeg94) * 10 then (false, startSwitches s p pcs want)
              else if w10 < (start + f.tLeg94) * 10 || !lanes.all (laneFree s f) then (false, s)
              else (true, grantLeg s i p q f { build := b, pcs := pcs, start94 := start })

/-- The causes of a deferral (14 R324). -/
def deferCauses (s : State) (p : Pass) (lanes : Nat) : List (Nat × Nat) :=
  let on := fun (m : Nat) => (m &&& lanes) != 0
  let ran := (s.stk.granted.filterMap (fun e => if on e.2.lanes then (passOf s e.2.pass).map (·.crew) else none)) ++
    (s.crw.switches.filterMap (fun e => if bitOf lanes e.1 then some e.2.crew else none))
  let mine := (ran.filter (fun k => (crewOf s k).any (fun c => c.tenant = p.tenant))).foldl setAdd []
  let others := ran.any (fun k => (crewOf s k).any (fun c => c.tenant != p.tenant))
  let gov := (onesOf 10 lanes).any (fun k => (limitsOf s k).any (fun _ => true) && decide (capNow s k < capProg s k || laneTripped s k))
  let out := p.sessions.any (fun sid => (sesOf s sid).any (fun x => x.heldOut || x.head.any (fun r => r.ph == .quota)))
  mine.map (fun k => (0, k)) ++ (if others then [(1, 0)] else []) ++ (if gov then [(2, 0)] else []) ++ (if out then [(3, 0)] else [])

/-- A candidate that was not granted (06 R131, 14 R323, R324). -/
def deferLeg (s : State) (i : Nat) : State :=
  match passOf s i with
  | none => s
  | some p =>
    let fit := (planVer s p.model p.version).bind (fun q => q.fits[p.leg]?)
    let lanes := fit.elim 0 (·.lanes)
    let poor := (onesOf 10 lanes).filter (fun k => decide (s.stk.credit.getD k 0 < ((fit.elim 0 (fun f => f.energyFj.getD k 0) : Nat) : Int)))
    let s := { s with gov := { s.gov with short := poor.foldl setAdd s.gov.short } }
    updCrew s p.crew (fun c =>
      if c.split then { c with winDeferred := c.winDeferred + 1, causes := (deferCauses s p lanes).foldl (fun m e => addCause e.1 e.2 m) c.causes }
      else c)

/-- All candidates, one after the other, the order taken anew after each grant (14 R314). Answers those not granted. -/
def grantGo : Nat → List Nat → List Nat → State → List Nat × State
  | 0, _, out, s => (out, s)
  | fuel + 1, is, out, s =>
    match firstCand s is with
    | none => (out, s)
    | some i =>
      let (ok, s) := tryLeg s i
      grantGo fuel (is.filter (· != i)) (if ok then out else out ++ [i]) s

/-- Credit at a catch (06 R131). -/
def refillCredit (s : State) : State :=
  let us := s.stk.period
  { s with stk := { s.stk with
      credit := (List.range 10).map (fun k =>
        let now := budgetFj s (rdI s R.LANE_GOV_STATUS_CAP_NOW k * 100) k us
        let prog := budgetFj s (rdI s R.LANE_GOV_CAP_W k * 1000) k us
        min (s.stk.credit.getD k 0 + (now : Int) - (s.stk.overspent.getD k 0 : Int)) (prog : Int))
      overspent := List.replicate 10 0
      busy := List.replicate 10 0 } }

/-- Switches that run in this stroke take their transfers' energy from the lane's credit (14 R320). -/
def switchEnergy (s : State) : State :=
  s.crw.switches.foldl (fun s (k, w) =>
    spend { s with stk := { s.stk with credit := modNth s.stk.credit k (· - (w.energyFj : Int)) } } k w.energyFj) s

/-- Virtual times at a catch (14 R313). -/
def crewTimes (s : State) : State :=
  let now := ((mapVals s.stk.passes).map (·.crew)).foldl setAdd []
  let before := s.crw.crews.filter (fun e => e.2.hadCand)
  let vmin := match before.map (fun e => e.2.v) with | [] => s.crw.vmin | v :: vs => vs.foldl min v
  { s with crw := { s.crw with
      vmin := vmin
      crews := mapAll s.crw.crews (fun k c =>
        if now.contains k then { c with v := if c.hadCand then c.v else max c.v vmin, hadCand := true } else { c with hadCand := false }) } }

/-- What a catch settles before its grants: passes form, those without sessions go, virtual times and credits are taken anew (06 R131, 14
R311 to R313). -/
def grantPrep (s : State) : State :=
  let s := s.crw.crews.foldl (fun s (k, c) => formPasses s k c) s
  let s := (mapKeys (s.stk.passes.filter (fun e => e.2.sessions.isEmpty))).foldl dropCarry s
  let s := { s with stk := { s.stk with passes := s.stk.passes.filter (fun e => !e.2.sessions.isEmpty) } }
  switchEnergy (refillCredit (crewTimes s))

/-- The grants of a catch (06 R131, 14 R311 to R314), after those of course steps. -/
def grantLegs (s : State) : State :=
  let is := mapKeys (s.stk.passes.filter (fun e => !e.2.lap && e.2.cmbLeft.isNone))
  let (out, s) := grantGo is.length is [] s
  let s := out.foldl deferLeg s
  wrF (wrF s R.STK_LOAD_GRANTED (min s.stk.granted.length 65535)) R.STK_LOAD_DEFERRED (min out.length 65535)

end Sys2Proof.Machine
end

