-- ==== Sys2Proof/Machine/LegFinish.lean ====
section
/-! DEFINITION. What the end of a stroke makes of its granted legs (06_the_stroke.md R132, 07_blades.md R164, 09_decode_legs.md R206, R208,
R212; 14_crews_and_shares.md R311, R315, R321), and the coarse page index and selections (10_long_contexts.md R219 to R225). -/

namespace Sys2Proof.Machine

/-! ### The coarse page index (10 R219 to R221) -/

/-- The summary of one span and layer: for each KV head the mean of its keys, as BF16 codes. The sum is rounded to FP32 once
(notes/assumptions/27.md). -/
def summaryOf (h : PlanHdr) (d : List Byte) : List Nat :=
  (List.range (h.kvHeads * h.head)).map (fun i =>
    let keys := (List.range h.span).map (fun x => numDecode h.kvFmt false (elemAt h.kvFmt (bytesAt d (x * h.recBytes) h.recBytes) i))
    (numEncode 1 (f32 (numScale (-(h.log2p : Int)) (f32 (numSum keys))))).1)

/-- Whether a span of a session is full and has no entry for a layer. -/
def unsummarised (x : Ses) (sp layer : Nat) : Bool :=
  decide ((sp + 1) * x.span ≤ x.d.positions) && decide (layer < x.layers) && !mapHas x.index (x.plKey sp layer)

/-- INDEX_BUILD (10 R221); the read of a frame that a leg owns waits (07 R147). -/
def indexBuild (s : State) (sid sp layer : Nat) : State :=
  match sesOf s sid with
  | none => s
  | some x =>
    match sesPlan s x, mapGet x.pl (x.plKey sp layer) with
    | some p, some e =>
      if !unsummarised x sp layer || (pteOf s e.page).any (fun e => e.h && frameOwned s e.hFrame) then s
      else
        match readPage s e.page 0 65536 with
        | none => s
        | some d =>
          let k := x.plKey sp layer
          match placeIndex s x.d.tenant (freshIndex s x p.hdr (sp + 1)) with
          | none => s
          | some s1 =>
            if !dirtyFits s1 2 then dirtyDefer s
            else
              let sm := summaryOf p.hdr d
              cnt (putEntry (setSes s1 sid { x with index := mapSet x.index k sm }) x p.hdr k sm) R.CMB_LC_IDX_BUILT 1
    | _, _ => s

/-- The recovery builds the entries of the spans that steps and appends filled at the finish (10 R221). -/
def indexRecovery (s : State) : State :=
  let s1 := s.stk.filled.foldl (fun s (sid, sp) =>
    (List.range ((sesOf s sid).elim 0 (·.layers))).foldl (fun s l => indexBuild s sid sp l) s) s
  { s1 with stk := { s1.stk with filled := [] } }

def execIndexBuild (sid span layer : Nat) (s : State) : Host.Outcome State Fault Refusal := .next (indexBuild s sid span layer)

/-! ### Selections (10 R222, R223) -/

/-- The score of a span: the largest q · summary over positions, heads and query vectors. `q slot i` is element i of a query slot. -/
def spanScore (h : PlanHdr) (slots : List Nat) (q : Nat → Nat → Num) (sum : List Nat) : Num :=
  let g := 2 ^ h.log2g
  let key := fun (i : Nat) => numDecode 1 false (sum.getD i 0)
  let scores := slots.flatMap (fun t => (List.range h.kvHeads).flatMap (fun hd => (List.range g).map (fun v =>
    f32 (numSum ((List.range h.head).map (fun i => numMul (q t ((hd * g + v) * h.head + i)) (key (hd * h.head + i))))))))
  match scores with
  | [] => .zero false
  | a :: as => as.foldl (fun m v => if numLt m v then v else m) a

/-- The selection of a layer after its queries: the `SEL` best of the spans that are neither sink, recent nor unsummarised. -/
def newSelection (s : State) (x : Ses) (h : PlanHdr) (layer : Nat) (slots : List Nat) (q : Nat → Nat → Num) : List Nat :=
  let lc := lcWord s x.d.model
  let n := ceilDiv x.d.positions x.span
  let rest := (List.range n).filterMap (fun sp =>
    if sp < lcSink lc ∨ n ≤ sp + lcRecent lc then none
    else (mapGet x.index (x.plKey sp layer)).map (fun e => (sp, spanScore h slots q e)))
  (((sortBy (fun a b => numLt b.2 a.2 || (!numLt a.2 b.2 && decide (a.1 ≤ b.1))) rest).take (lcSel lc)).map (·.1)).foldl setAdd []

/-- Index bytes that scoring one layer of a session reads. -/
def scoreBytes (x : Ses) (h : PlanHdr) (layer : Nat) : Nat :=
  (x.index.filter (fun e => e.1 % max 1 x.layers = layer)).length * indexBytes h

/-- The layers of a leg scored in what remains of the drive after it, at 800 GB/s; the others keep their selection (10 R223). -/
def scoreLeg (s : State) (l : GLeg) (p : Pass) (q : Plan) : State :=
  let h := q.hdr
  let pm := if p.isAppend then 8 else h.posMax
  let f := (q.fits.getD l.leg { leg := 0, lock := false, lanes := 0, sram := 0, combineNs := 0, groups := 0, ops := 0, chargeH := 0, tLeg94 := 0, peak := [], bus := [], pulls := [], busAll := [], energyFj := [] })
  let left := windowNs s - (l.start94 + f.tLeg94) / 94
  match (legLists q l.leg).head? with
  | none => s
  | some (g, _) =>
    ((legTpls q l.leg).foldl (fun (acc : Nat × State) (_, t) =>
      (passHeads acc.2 p).foldl (fun (acc : Nat × State) (j, x, _, _, n) =>
        if x.d.attPolicy = 0 then acc
        else
          let used := acc.1 + scoreBytes x h t.layer
          if left * 800 < used then (used, cnt acc.2 R.CMB_LC_STAT_STALE 1)
          else
            let slots := (List.range n).map (fun i => t.qreg + j * pm + i)
            (used, updSes acc.2 x.d.session (fun x => { x with
              sel := mapSet x.sel t.layer (newSelection s x h t.layer slots (queryAt s g)) }))) acc) (0, s)).2

/-- A short step (10 R225). -/
def shortStep (s : State) (sid : Nat) : State :=
  match sesOf s sid with
  | none => s
  | some x =>
    match x.head with
    | none => s
    | some r =>
      let short := r.shortLayers != 0
      let s := updSes s sid (fun x => { x with wasShort := short })
      if !short then s
      else
        let s := cnt s R.CMB_LC_STAT_SHORT 1
        if x.wasShort then s
        else
          raiseBit s .cmb 0 5 (.named EV_LC_SHORT
            [x.d.session % 2 ^ 24 + x.d.gen % 256 * 2 ^ 24, x.d.epoch, r.shortLayers % 2 ^ 32 + r.shortPages % 2 ^ 32 * 2 ^ 32]
            (maskDoms x.d.domains))

/-! ### A leg that completed -/

/-- An equal share of a charge; the remainder goes to the first session (14 R315). -/
def shareOf (total n i : Nat) : Nat := total / max 1 n + if i = 0 then total % max 1 n else 0

/-- The window figures of a crew when a pass commits (14 R323). -/
def countPass (s : State) (p : Pass) (legs : Nat) : State :=
  updCrew s p.crew (fun c => { c with
    winPasses := c.winPasses + 1, winElapsed := c.winElapsed + (s.stk.number + 1 - p.firstCand), winLegs := c.winLegs + legs })

def dropPass (s : State) (i : Nat) : State :=
  dropCarry { s with stk := { s.stk with passes := mapErase s.stk.passes i } } i

/-- The commits of a finished pass: a step's for each session, an append's after its last group (03 R51, R52; 09 R212). -/
def passDone (s : State) (i : Nat) (p : Pass) (q : Plan) : State :=
  let n := p.sessions.length
  let s := ((List.range n).zip p.sessions).foldl (fun s (j, sid) =>
    let b := shareOf p.bladeUs n j
    let c := shareOf p.cmbUs n j
    match (sesOf s sid).bind (·.head) with
    | none => s
    | some r =>
      if p.isAppend && decide (8 * (r.group + 1) < r.toks.length) then
        updSes s sid (fun x => { x with head := some { r with group := r.group + 1, bladeUs := r.bladeUs + b, cmbUs := r.cmbUs + c } })
      else
        let s := shortStep s sid
        let s := updSes s sid (fun x => { x with head := some { r with ph := .commit } })
        stage s (.compute sid (r.bladeUs + b) (r.cmbUs + c))) s
  dropPass (countPass s p (if p.isAppend then q.hdr.appendLegs else q.hdr.stepLegs)) i

/-- The carry that a leg leaves stays in the PCs it ran on (14 R316, R321). -/
def keepCarry (s : State) (i : Nat) (p : Pass) : State :=
  let s := p.pcs.foldl (fun s n => setPc s n { pcCtx s n with work := (pcCtx s n).work.map (fun x => { x with carry := some i }) }) s
  setPass s i { p with held := true, holdStroke := s.stk.number }

def legComplete (s : State) (l : GLeg) : State :=
  match passOf s l.pass, legPlan s l with
  | some p, some q =>
    let s := scoreLeg s l p q
    let p := { p with leg := p.leg + 1, lastFinish := s.stk.number }
    if p.leg = (if p.isAppend then q.hdr.legs else q.hdr.stepLegs) then passDone s l.pass p q
    else if q.carry.getD l.leg 0 = 0 then setPass s l.pass p
    else keepCarry s l.pass p
  | _, _ => s

/-! ### A leg that did not (06 R132) -/

/-- The lane that an overrun names: the one that tripped, else the lowest that still had work, else the lowest of the leg. -/
def lateLane (l : GLeg) : Nat :=
  match l.trip.toList ++ ((onesOf 10 l.lanes).filter (fun k => l.openBlades.any (fun g => bladeLane g = k))) with
  | k :: _ => k
  | [] => (onesOf 10 l.lanes).headD 0

def legOverrun (s : State) (l : GLeg) : State :=
  let k := lateLane l
  let s := raiseBit (cnt s R.STK_OVERRUN_COUNT 1) .stk 0 2 (.tied EV_STK_OVERRUN [l.leg % 65536 + k * 2 ^ 16 + l.model * 2 ^ 32])
  noteErr s { cls := 5, unit := unitId 6 k, code := 0, model := some l.model }

/-- Whether a leg still had work at the finish. -/
def GLeg.late (l : GLeg) : Bool := !(l.openBlades.isEmpty && l.openGroups.isEmpty)

/-- The overruns of a finish are noted before the errors of the stroke are judged: of legs that had work left, and of legs that a
temperature trip stopped (06 R132, 08 Table 08-3). Legs that a switch-off of all grants or a fence stopped restart without being
overruns (notes/assumptions/28.md). -/
def overrunNotes (s : State) : State :=
  s.stk.granted.foldl (fun s (_, l) => if l.late && (!l.stopped || l.trip.isSome) then legOverrun s l else s) s

/-- One granted leg at the finish. -/
def legFinish (s : State) (l : GLeg) : State :=
  let s := match l.poisonBy with | some g => recordErr s .pch (bladePc g) (g % 128) E_BLADE_POISON | none => s
  if l.poisoned || l.stopped || l.late then restartPass s l.pass else legComplete s l

/-- The blade clock at a boundary: 0.47 clocks per ns of the stroke have passed (08 R168). -/
def clockFinish (s : State) : State :=
  let n := max s.bld.clock (s.bld.strokeClk + s.stk.length * 47 / 100)
  { s with bld := { s.bld with clock := n, strokeClk := n } }

/-- All legs of the stroke; the blades, buses, reduce units and Combine groups have nothing of them left, and banks that owe refresh take it. -/
def legsFinish (s : State) : State :=
  let s := clockFinish ((mapVals s.stk.granted).foldl legFinish s)
  let s := { s with
    stk := { s.stk with granted := [] }
    bld := { s.bld with
      runs := (mapAll s.bld.runs (fun _ r => { r with leg := none, at_ := 0, words := [], pairs := [], ships := [], stalled := false })).filter
        (fun e => e.2 != {})
      buses := (mapAll s.bld.buses (fun _ b => { b with done := [] })).filter (fun e => e.2 != {})
      tags := [], results := [], sends := []
      routed := s.bld.routed.filter (fun e => mapHas s.stk.passes e.1) } }
  (mapKeys s.bld.owed).foldl idleSlot s

/-- The plan, fit, context and index figures of the `CMB` page at a finish (10 Table 10-5). -/
def indexFigures (s : State) : State :=
  wrF s R.CMB_LC_IDX_PENDING (min (2 ^ 32 - 1) (sumOf (s.ses.tab.map (fun e =>
    e.2.d.positions / e.2.span * e.2.layers - (e.2.index.filter (fun i => decide (i.1 < e.2.d.positions / e.2.span * e.2.layers))).length))))

end Sys2Proof.Machine
end

