-- ==== Sys2Proof/Machine/Mem.lean ====
section
/-! DEFINITION. Memory search: indexes, node slots, commands, walks and their reads (12_memory_search.md R263 to R279, R286 to R288). -/

namespace Sys2Proof.Machine

def idxOf (s : State) (i : Nat) : Option MemIdx := mapGet s.mem.idxs i

def updIdx (s : State) (i : Nat) (f : MemIdx → MemIdx) : State :=
  { s with mem := { s.mem with idxs := mapUpd s.mem.idxs i f } }

def walkOf (s : State) (w : Nat) : Option Walk := mapGet s.mem.walks w

def setWalk (s : State) (w : Nat) (x : Walk) : State := { s with mem := { s.mem with walks := mapSet s.mem.walks w x } }

/-- The current version of an index. -/
def MemIdx.cur (x : MemIdx) : MemVer := x.vers.headD { version := 0 }

/-- A kept version, the one a sweep reads included. -/
def MemIdx.ver (x : MemIdx) (v : Nat) : Option MemVer :=
  match x.vers.find? (fun m => m.version = v) with
  | some m => some m
  | none => (x.sweep.map (·.from_)).filter (fun m => m.version == v)

/-- The map entry of a node in a version, if the node is allocated there. -/
def MemVer.ent (m : MemVer) (n : Nat) : Option MapEnt := (mapGet m.map n).filter (·.alloc)

/-- Dead for a walk bound to a version (12 R269, R272): tombstoned by then, or of another generation than the edge's. -/
def deadAt (x : MemIdx) (m : MemVer) (n gen : Nat) : Bool :=
  (mapGet x.tombs n).any (fun d => decide (d ≤ m.version)) || !(m.ent n).any (fun e => e.gen == gen)

/-! ### Node slots (12 R265) -/

/-- What a node slot holds. -/
structure NodeSlot where
  node : Nat
  gen : Nat
  index : Nat
  key : Nat
  version : Nat
  sketch : Nat
  vector : List Byte
  nbrs : List (Nat × Nat × Nat)
deriving DecidableEq, Repr

/-- The 4 KiB of a slot as the device writes them into a fill page; the seal's bytes come with the sealed copy (`slotImage`). -/
def slotBytes (x : NodeSlot) : List Byte :=
  leBytes 8 (x.node % 2 ^ 32 + x.gen % 256 * 2 ^ 32 + x.nbrs.length % 128 * 2 ^ 40 + x.index % 2 ^ 16 * 2 ^ 48) ++
  leBytes 8 x.key ++ leBytes 8 (x.version % 2 ^ 32) ++ leBytes 32 x.sketch ++ List.replicate 40 0 ++
  padTo 1536 x.vector ++
  padTo 320 ((x.nbrs.map (fun e => leBytes 5 (e.1 % 2 ^ 32 + e.2.1 % 256 * 2 ^ 32))).flatten) ++
  padTo 2048 ((x.nbrs.map (fun e => leBytes 32 e.2.2)).flatten) ++
  List.replicate 96 0

/-- A slot read back from its bytes. -/
def slotOf (d : List Byte) : NodeSlot :=
  let h := u64 d 0
  { node := bitsOf h 0 32, gen := bitsOf h 32 8, index := bitsOf h 48 16, key := u64 d 8, version := u32 d 16, sketch := u 32 d 24
    vector := bytesAt d 0x60 1536
    nbrs := (List.range (min 64 (bitsOf h 40 7))).map (fun i =>
      (u 4 d (0x660 + 5 * i), u8 d (0x664 + 5 * i), u 32 d (0x7A0 + 32 * i))) }

/-- The slot at a place, if its page's sealed copy stands and authenticates (20 R434). -/
def slotAt (s : State) (page slot : Nat) : Option NodeSlot :=
  (sealedOk s page).map (fun x => slotOf (cellsGet x.cells (slot * 4096) 4096))

/-- Hamming distance of two 256-bit sketches. -/
def hamming (a b : Nat) : Nat := popCount 256 (a ^^^ b)

/-- The score of a vector (12 R264), rounded to FP32 once (notes/assumptions/27.md), as bits. -/
def memScore (x : MemIdx) (q v : List Byte) : Nat :=
  let at_ := fun (d : List Byte) (i : Nat) => numDecode x.fmt false (elemAt x.fmt d i)
  f32Bits (numSum ((List.range x.dims).map (fun i =>
    if x.metric = 0 then numMul (at_ q i) (at_ v i)
    else
      let d := numAdd (at_ q i) (numNeg (at_ v i))
      numNeg (numMul d d))))

/-! ### Commands (12 R263, R286, R287) -/

/-- A refusal that memory search reports: an error of the `FSHG` page (12 R289, 02 R27). -/
def refuseMem (s : State) (c : Cmd) (code c0 : Nat) : State := refuseWith (recordErr s .fshg 0 0 code) c code c0

/-- The index a command names, if its domain sees it (12 R263). -/
def idxFor (s : State) (c : Cmd) : Option MemIdx :=
  (idxOf s (c.f2 0 16)).filter (fun x => x.dropping.isNone && domTenant s c.dom x.tenant)

def vecBytes (fmt dims : Nat) : Nat := ceilDiv (dims * fmtBits fmt) 8

def startMemCreate (c : Cmd) (_ : List Byte) (s : State) : State :=
  if !domTenant s c.dom (c.f2 0 12) then refuseMem s c E_MEM_UNKNOWN 0
  else if !gsxFmt (c.f2 12 4) ∨ 1 < c.f2 16 2 ∨ c.f2 20 12 = 0 ∨ c.f2 32 7 < 8 ∨ 64 < c.f2 32 7 ∨ c.f2 40 9 < 16 ∨ 256 < c.f2 40 9 then
    refuseMem s c E_MEM_INVALID 1
  else if 1536 < vecBytes (c.f2 12 4) (c.f2 20 12) then refuseMem s c E_MEM_INVALID 2
  else if 1024 ≤ s.mem.idxs.length + s.mem.creates.length then refuseMem s c E_MEM_INVALID 3
  else { s with mem := { s.mem with creates := s.mem.creates ++ [(c, 0)] } }

def execMemCreate (c : Cmd) (s : State) : Host.Outcome State Fault Refusal := .next (submit s c [] startMemCreate)

def startMemDrop (c : Cmd) (_ : List Byte) (s : State) : State :=
  match idxFor s c with
  | none => refuseMem s c E_MEM_UNKNOWN 0
  | some _ => updIdx s (c.f2 0 16) (fun x => { x with dropping := some c })

def execMemDrop (c : Cmd) (s : State) : Host.Outcome State Fault Refusal := .next (submit s c [] startMemDrop)

/-- Walks that wait for a context, and the contexts in use on a unit: of walks, and of a sweep's reads (12 R275, R284). -/
def walksWaiting (s : State) : Nat := (s.mem.walks.filter (fun e => e.2.use != .sweep && !e.2.ended && e.2.ver.isNone)).length
def unitUsed (s : State) (k : Nat) : Nat :=
  (s.mem.walks.filter (fun e => !e.2.ended && e.2.unit = some k)).length +
    sumOf (s.mem.walks.map (fun e =>
      if e.2.use = .sweep then (e.2.flying.filter (fun f => channelOf s f.2.1 = k)).length else 0))

/-- The Channel units whose contexts an index's walks may take (12 R275, 20 R439): not fenced, not held out by a test (21 Table 21-3), in the tenant's allotment if it has one,
and otherwise in no tenant's. -/
def walkUnits (s : State) (x : MemIdx) : List Nat :=
  (List.range 32).filter (fun k => !channelFenced s k && !s.flt.tests.any (fun t => t.unit == unitId 10 k && t.ended.isNone) &&
    (match mapGet s.sec.allots x.tenant with
     | some a => bitOf a.fch k
     | none => s.sec.allots.all (fun e => !bitOf e.2.fch k)))

def freeContexts (s : State) (x : MemIdx) : Nat := sumOf ((walkUnits s x).map (fun k => 1024 - unitUsed s k))

/-- A walk joins the waiting ones. -/
def addWalk (s : State) (w : Walk) : State :=
  { s with mem := { s.mem with walks := mapSet s.mem.walks s.mem.nextWalk w, nextWalk := s.mem.nextWalk + 1 } }

/-- Record `i` of a command's input: its bytes, padded to a multiple of 64 (12 R287). -/
def memRecord (x : MemIdx) (head : Nat) (data : List Byte) (i : Nat) : List Byte :=
  let n := ceilDiv (head + vecBytes x.fmt x.dims) 64 * 64
  bytesAt data (i * n) n

def queryWalk (x : MemIdx) (c : Cmd) (data : List Byte) (i : Nat) : Walk :=
  let r := memRecord x 32 data i
  { use := .query c i, index := c.f2 0 16, sketch := u 32 r 0, vector := bytesAt r 32 (vecBytes x.fmt x.dims)
    l := c.f7 0 9, k := c.f7 9 10 + 1, expandMax := c.f7 19 10 + 1, beam := c.f7 29 3 + 1 }

/-- The refusals that the three commands of 12 Table 12-5 share; `most` is the largest count. -/
def memCmdCode (s : State) (c : Cmd) (most : Nat) : Option (Nat × Nat) :=
  match qpCheck s c.dom (c.f4 32 16) with
  | some e => some (e, 0)
  | none => if c.f2 16 17 = 0 ∨ most < c.f2 16 17 then some (E_MEM_INVALID, 1) else none

def startMemQuery (c : Cmd) (data : List Byte) (s : State) : State :=
  match idxFor s c with
  | none => refuseMem s c E_MEM_UNKNOWN 0
  | some x =>
    match memCmdCode s c 4096 with
    | some (e, k) => if e = E_MEM_INVALID then refuseMem s c e k else finishCmd s c e
    | none =>
      if c.f7 0 9 = 0 ∨ 256 < c.f7 0 9 then refuseMem s c E_MEM_INVALID 1
      else if 65536 + freeContexts s x < walksWaiting s + c.f2 16 17 then refuseMem s c E_WALK_FULL 0
      else (List.range (c.f2 16 17)).foldl (fun s i => addWalk s (queryWalk x c data i)) s

def execMemQuery (c : Cmd) (data : List Byte) (s : State) : Host.Outcome State Fault Refusal := .next (submit s c data startMemQuery)

def insertRec (x : MemIdx) (c : Cmd) (data : List Byte) (i : Nat) : MemRec :=
  let r := memRecord x 40 data i
  { cmd := c, idx := i, key := u64 r 0, sketch := u 32 r 8, vector := bytesAt r 40 (vecBytes x.fmt x.dims) }

/-- The walk of an insert record (12 R279). -/
def insertWalk (x : MemIdx) (index : Nat) (r : MemRec) : Walk :=
  { use := .insert r.cmd r.idx, index := index, sketch := r.sketch, vector := r.vector, l := x.buildL, k := x.rMax
    expandMax := 1024, beam := Config.insertBeamM1.toNat + 1 }

def startMemInsert (c : Cmd) (data : List Byte) (s : State) : State :=
  match idxFor s c with
  | none => refuseMem s c E_MEM_UNKNOWN 0
  | some x =>
    match memCmdCode s c 4096 with
    | some (e, k) => if e = E_MEM_INVALID then refuseMem s c e k else finishCmd s c e
    | none =>
      if 65536 + freeContexts s x < walksWaiting s + c.f2 16 17 then refuseMem s c E_WALK_FULL 0
      else
        let recs := (List.range (c.f2 16 17)).map (insertRec x c data)
        let s := updIdx s (c.f2 0 16) (fun x => { x with recs := x.recs ++ recs })
        recs.foldl (fun s r => addWalk s (insertWalk x (c.f2 0 16) r)) s

def execMemInsert (c : Cmd) (data : List Byte) (s : State) : Host.Outcome State Fault Refusal := .next (submit s c data startMemInsert)

def startMemDelete (c : Cmd) (data : List Byte) (s : State) : State :=
  match idxFor s c with
  | none => refuseMem s c E_MEM_UNKNOWN 0
  | some _ =>
    match memCmdCode s c 65536 with
    | some (e, k) => if e = E_MEM_INVALID then refuseMem s c e k else finishCmd s c e
    | none => updIdx s (c.f2 0 16) (fun x => { x with dels := x.dels ++ [(c, data)] })

def execMemDelete (c : Cmd) (data : List Byte) (s : State) : Host.Outcome State Fault Refusal := .next (submit s c data startMemDelete)

/-! ### Reads (12 R271, R272, R276 to R278) -/

/-- Whether a slot's read is already queued or in flight (12 R278). -/
def slotFlying (s : State) (page slot : Nat) : Bool :=
  s.mem.walks.any (fun e => e.2.flying.any (fun f => f.2.1 == page && f.2.2.1 == slot && f.2.2.2))

/-- Whether the channel has read time left for one more read: after Mover entries of classes 0 and 1, a walk has its share of `SEARCH_PCT` first
and then what all leave; a sweep has what a Mover entry of class 3 has (12 R277, R284). -/
def channelFits (s : State) (x : Walk) (k : Nat) : Bool :=
  let first := pathUsed s (chanKey 0 k)
  let rest := pathUsed s (chanKey 1 k)
  let own := pathUsed s (chanKey 2 k)
  if x.use == .sweep then decide (first + rest + max own (searchReads s) < chanReads s)
  else decide (first + own < chanReads s) && (decide (own < searchReads s) || decide (first + rest + own < chanReads s))

/-- Whether a read that a walk issues now on a channel completes before the finish at the worst-case read time; else it waits for the next drive
(12 R277, 06 R128). -/
def readFits (s : State) (x : Walk) (k : Nat) : Bool :=
  s.stk.phase == .drive && channelFits s x k && decide (10 * (x.clock + rdF s R.FSHG_TIMING_RD_MAX_NS) ≤ windowT s.stk.period (catchActs s.stk.period s.stk.catchUs))

/-- What the walker does with a slot before it goes on, ns: the exact score's arithmetic clocks of 1.0638 ns (12 R273), and 2 blade clocks of 100 / 47 ns
for the switch of contexts and 8 for the sketches (R276). -/
def slotTime (x : MemIdx) : Nat :=
  let w := if x.fmt = 0 then 64 else if fmtBits x.fmt = 16 then 128 else 256
  ceilDiv ((24 + ceilDiv (3 * x.dims) (8 * w)) * 10638) 10000 + ceilDiv (10 * 100) 47

/-- A read ends: it took a time of its own, at most the worst case (notes/assumptions/105.md). -/
def readEnds (s : State) (x : Walk) (node : Nat) : Walk × State :=
  let (n, s) := nextFree s
  let took := (Config.freeWord n).toNat % (rdF s R.FSHG_TIMING_RD_MAX_NS + 1)
  ({ x with clock := max x.clock ((mapGet x.issued node).getD 0 + took), issued := mapErase x.issued node }, s)

/-- A read is issued, or rides on an earlier one of the same slot. -/
def issueSlot (s : State) (w : Nat) (x : Walk) (node page slot : Nat) : State :=
  let x := { x with issued := mapSet x.issued node x.clock }
  if slotFlying s page slot then
    cntI (setWalk s w { x with flying := x.flying ++ [(node, page, slot, false)], coalesced := x.coalesced + 1 })
      R.FCH_READS_COALESCED (channelOf s page) 1
  else
    setWalk (addPath s (chanKey (if x.use == .sweep then 1 else 2) (channelOf s page)) 1) w
      { x with flying := x.flying ++ [(node, page, slot, true)], reads := x.reads + 1 }

def markCand (n : Nat) (q : List Cand) : List Cand := q.map (fun c => if c.node = n then { c with expanded := true } else c)

/-- The inner loop of 12 R271: reads of the best unexpanded candidates, at most `beam` in flight. No read is issued once `EXPAND_MAX`
nodes are expanded (notes/assumptions/33.md). -/
def issueGo (m : MemVer) (w : Nat) : Nat → State → State
  | 0, s => s
  | fuel + 1, s =>
    match walkOf s w with
    | none => s
    | some x =>
      if x.beam ≤ x.flying.length ∨ x.expandMax ≤ x.seen.length then s
      else
        match x.queue.find? (fun c => !c.expanded) with
        | none => s
        | some c =>
          match m.ent c.node with
          | none => s
          | some e =>
            if !slotFlying s e.page e.slot && !readFits s x (channelOf s e.page) then s else
            let x := { x with queue := markCand c.node x.queue, seen := setAdd x.seen c.node }
            issueGo m w fuel (issueSlot s w x c.node e.page e.slot)

/-- The outer condition of 12 R271: the walk stops when every entry of its queue is expanded or `EXPAND_MAX` is reached, and ends when its
last read has completed. -/
def walkCheck (s : State) (w : Nat) (m : MemVer) : State :=
  match walkOf s w with
  | none => s
  | some x =>
    let full := decide (x.expandMax ≤ x.seen.length)
    let stop := x.stopped || full || x.queue.all (·.expanded)
    if stop then
      let done := x.flying.isEmpty
      setWalk s w { x with stopped := true, limit := x.limit || full, ended := done, unit := if done then none else x.unit }
    else issueGo m w 8 s

/-- A candidate enters the queue: by distance, then by ID, and only among the L best. -/
def candIn (l : Nat) (q : List Cand) (c : Cand) : List Cand :=
  (insertBy (fun a b => lexLe [a.dist, a.node] [b.dist, b.node]) c q).take l

/-- Results in score order, then by ID (12 R264). -/
def hitLe (a b : Hit) : Bool :=
  numLt (f32Val b.score) (f32Val a.score) || (!numLt (f32Val a.score) (f32Val b.score) && decide (a.node ≤ b.node))

/-- The neighbours of a slot read, for the walk that asked for it (12 R271, R272). -/
def offerNbrs (x : MemIdx) (m : MemVer) (w : Walk) : List (Nat × Nat × Nat) → Walk
  | [] => w
  | (n, g, sk) :: rest =>
    if deadAt x m n g then offerNbrs x m { w with dead := w.dead + 1 } rest
    else if w.seen.contains n || w.queue.any (fun c => c.node = n) then offerNbrs x m w rest
    else offerNbrs x m { w with queue := candIn w.l w.queue { dist := hamming sk w.sketch, node := n, gen := g } } rest

/-- One walk takes a slot that was read (none: it could not be, 12 R274). -/
def walkTake (s : State) (w node page : Nat) (r : Option NodeSlot) : State :=
  match walkOf s w with
  | none => s
  | some x =>
    match idxOf s x.index with
    | none => s
    | some i =>
      match x.ver.bind i.ver with
      | none => s
      | some m =>
        let (x, s) := readEnds s { x with flying := x.flying.filter (fun f => f.1 != node) } node
        let x := if r.isSome then { x with clock := x.clock + slotTime i } else x
        match r with
        | none => walkCheck (setWalk s w { x with lost := true }) w m
        | some d =>
          let hit : Hit := { node := node, gen := d.gen, key := d.key, dist := hamming d.sketch x.sketch, sketch := d.sketch, score := memScore i x.vector d.vector }
          let y := { x with hits := (insertBy hitLe hit x.hits).take x.k }
          let y := if y.stopped then y else offerNbrs i m y d.nbrs
          walkCheck (cntI (setWalk s w y) R.FCH_DEAD_EDGES (channelOf s page) (y.dead - x.dead)) w m

/-! ### The sweep's reads (12 R284) -/

/-- A sweep issues reads while its contexts on the slots' channels allow: at most 32 per Channel unit, of the 1,024. -/
def sweepIssue (s : State) (w : Nat) (m : MemVer) : State :=
  match walkOf s w with
  | none => s
  | some x =>
    x.todo.foldl (fun s n =>
      match walkOf s w, m.ent n with
      | some x, some e =>
        let k := channelOf s e.page
        if 32 ≤ (x.flying.filter (fun f => channelOf s f.2.1 = k)).length ∨ 1024 ≤ unitUsed s k ∨ (!slotFlying s e.page e.slot && !readFits s x k) = true then s
        else issueSlot s w { x with todo := x.todo.filter (· != n) } n e.page e.slot
      | some x, none => setWalk s w { x with todo := x.todo.filter (· != n) }
      | none, _ => s) s

/-- A sweep takes a slot: `seen` lists the nodes whose slots could be read. -/
def sweepTake (s : State) (w node : Nat) (r : Option NodeSlot) : State :=
  match walkOf s w with
  | none => s
  | some x =>
    let (x, s) := readEnds s { x with flying := x.flying.filter (fun f => f.1 != node) } node
    let s := setWalk s w { x with seen := if r.isSome then setAdd x.seen node else x.seen }
    match (idxOf s x.index).bind (·.sweep) with
    | some sw => sweepIssue s w sw.from_
    | none => s

/-- A slot that could not be read is counted and reported (12 R274, 21 Table 21-2). -/
def slotLost (s : State) (page code cls : Nat) : State :=
  let die := dieOfPage s page
  let s := cntI s R.FCH_LOST_SLOTS (die / 8) 1
  noteErr (recordErr s .fch (die / 8) (die % 8) code) { cls := cls, unit := unitId 9 die, code := code, page := some page }

/-- NODE_READ_DONE (12 R271 to R274, R278): the read of a slot that walk `w` issued ends; every walk that rides on it takes the slot. -/
def nodeRead (s : State) (w node : Nat) (ok : Bool) : State :=
  match (walkOf s w).bind (fun x => x.flying.find? (fun f => f.1 = node && (f.2.2.2 || !slotFlying s f.2.1 f.2.2.1))) with
  | none => s
  | some (_, page, slot, _) =>
    let s := cntI s R.FCH_READS_NODE (channelOf s page) 1
    let r := if ok then slotAt s page slot else none
    let s := if !ok then slotLost s page E_FLASH_READ 9 else if r.isNone then slotLost s page E_SEAL_AUTH 11 else s
    let riders := s.mem.walks.filterMap (fun (k, x) =>
      (x.flying.find? (fun f => f.2.1 = page && f.2.2.1 = slot)).map (fun f => (k, f.1, x.use == .sweep)))
    riders.foldl (fun s (k, n, sw) => if sw then sweepTake s k n r else walkTake s k n page r) s

def execNodeReadDone (walk slot : Nat) (ok : Bool) (s : State) : Host.Outcome State Fault Refusal := .next (nodeRead s walk slot ok)

/-- The catch grants flash bursts: the reads that waited for this drive (06 Table 06-2, 12 R277). -/
def burstsCatch (s : State) : State :=
  (mapKeys s.mem.walks).foldl (fun s w =>
    match walkOf s w with
    | none => s
    | some x =>
      let s := setWalk s w { x with clock := 0, issued := mapAll x.issued (fun _ _ => 0) }
      match (idxOf s x.index) with
      | none => s
      | some i =>
        if x.use == .sweep then (match i.sweep with | some sw => sweepIssue s w sw.from_ | none => s)
        else if x.ended then s
        else match x.ver.bind i.ver with | some m => walkCheck s w m | none => s) s

/-! ### Admission (12 R269, R271, R275) -/

/-- The unit with the most free contexts, the lowest number first. -/
def bestUnit (s : State) (ks : List Nat) : Option Nat :=
  ks.foldl (fun (b : Option Nat) k =>
    if 1024 ≤ unitUsed s k then b
    else match b with
      | none => some k
      | some j => if unitUsed s k < unitUsed s j then some k else b) none

/-- The version that a command's queries are all bound to, once one of them is (12 R287). -/
def queryVer (s : State) (u : WalkFor) : Option Nat :=
  match u with
  | .query c _ => s.mem.walks.findSome? (fun e => match e.2.use with | .query c' _ => if c' = c then e.2.ver else none | _ => none)
  | _ => none

/-- Whether a walk waits and none waits before it that could take one of its contexts. -/
def walkFirst (s : State) (w : Nat) (units : List Nat) : Bool :=
  s.mem.walks.all (fun e => decide (w ≤ e.1) || e.2.ended || e.2.ver.isSome ||
    (match idxOf s e.2.index with | some i => !(walkUnits s i).any units.contains | none => true))

/-- A walk whose version is no longer kept has expired (12 R270). -/
def expireWalk (s : State) (w : Nat) (x : Walk) : State :=
  let s := setWalk s w { x with unit := none, flying := [], ended := true, expired := true, hits := [], queue := [] }
  let s := raiseBit (recordErr s .fshg 0 0 E_SNAPSHOT_EXPIRED) .fshg 0 3 .plain
  match x.use with
  | .insert c j => updIdx s x.index (fun i => { i with recs := i.recs.map (fun r =>
      if r.cmd = c && r.idx = j && r.found.isNone then { r with code := E_SNAPSHOT_EXPIRED } else r) })
  | _ => s

/-- WALK_ADMIT: the oldest waiting walk takes a context and binds to a version; its first reads are issued. -/
def walkAdmit (s : State) (w : Nat) : State :=
  match walkOf s w with
  | none => s
  | some x =>
    match idxOf s x.index with
    | none => s
    | some i =>
      if x.ended || x.ver.isSome || x.use == .sweep || s.stk.phase == .idle || !walkFirst s w (walkUnits s i) then s
      else
        match bestUnit s (walkUnits s i) with
        | none => s
        | some k =>
          let v := (queryVer s x.use).getD i.cur.version
          match i.vers.find? (fun m => m.version = v) with
          | none => expireWalk s w { x with ver := some v }
          | some m =>
            let live := m.entries.filter (fun e => !deadAt i m e.node e.gen)
            let q := live.foldl (fun (q : List Cand) e =>
              if q.any (fun c => c.node = e.node) then q
              else candIn x.l q { dist := hamming e.sketch x.sketch, node := e.node, gen := e.gen }) []
            let d := m.entries.length - live.length
            let s := cntI s R.FCH_DEAD_EDGES k d
            walkCheck (setWalk s w { x with unit := some k, ver := some v, queue := q, dead := d }) w m

def execWalkAdmit (walk : Nat) (s : State) : Host.Outcome State Fault Refusal := .next (walkAdmit s walk)

/-- An insert walk that has ended gives its record's neighbours (12 R279). -/
def takeFound (s : State) (w : Nat) (x : Walk) : State :=
  match x.use with
  | .insert c j =>
    if !x.ended then s
    else
      let found := x.hits.map (fun h => (h.node, h.gen, h.sketch))
      let s := if x.expired then s else updIdx s x.index (fun i => { i with recs := i.recs.map (fun r =>
        if r.cmd = c && r.idx = j && r.found.isNone then { r with found := some found } else r) })
      { s with mem := { s.mem with walks := mapErase s.mem.walks w } }
  | _ => s

end Sys2Proof.Machine
end

