-- ==== Sys2Proof/Machine/MemCommit.lean ====
section
/-! DEFINITION. Memory search at the finish: inserts, commits, deletes, entry nodes, repair sweeps and completions
(12_memory_search.md R266 to R270, R279 to R288). -/

namespace Sys2Proof.Machine

/-! ### Changes to a slot (12 R280, R284) -/

/-- The entry farthest from the node's own sketch, the lower ID on a tie. -/
def farthest (own : Nat) : List (Nat × Nat × Nat) → Option (Nat × Nat × Nat)
  | [] => none
  | e :: es =>
    match farthest own es with
    | none => some e
    | some f =>
      let a := hamming e.2.2 own
      let b := hamming f.2.2 own
      if b < a ∨ (a = b ∧ e.1 < f.1) then some e else some f

/-- Candidates by distance to a sketch, then by ID, each node once. -/
def byDist (own : Nat) (xs : List (Nat × Nat × Nat)) : List (Nat × Nat × Nat) :=
  (sortBy (fun a b => lexLe [hamming a.2.2 own, a.1] [hamming b.2.2 own, b.1]) xs).foldl (fun acc e =>
    if acc.any (fun a => a.1 = e.1) then acc else acc ++ [e]) []

/-- One change to a node's neighbours. -/
def applyChange (x : MemIdx) (node own : Nat) (ns : List (Nat × Nat × Nat)) : NodeChange → List (Nat × Nat × Nat)
  | .back n g sk =>
    if ns.length < x.rMax then ns ++ [(n, g, sk)]
    else
      match farthest own ns with
      | none => ns
      | some f => if hamming sk own < hamming f.2.2 own then ns.map (fun e => if e.1 = f.1 then (n, g, sk) else e) else ns
  | .sweep upTo cand =>
    let kept := ns.filter (fun e => !(mapGet x.tombs e.1).any (fun d => decide (d ≤ upTo)))
    kept ++ (byDist own (cand.filter (fun e => e.1 != node && !kept.any (fun k => k.1 = e.1)))).take (x.rMax - kept.length)

/-! ### Creating an index (12 R267, R268, R286; 05 R98) -/

/-- Pages of an index's tombstone bitmap. -/
def tombCount (capM1 : Nat) : Nat := ceilDiv (capM1 + 1) 524288

/-- The index comes into being: version 0, with its tombstone pages. -/
def installIdx (s : State) (c : Cmd) : Option State :=
  let t := c.f2 0 12
  let n := tombCount (c.f3 0 32)
  match chargeFitsH s t n with
  | some _ => none
  | none =>
    match allocPages s n t 5 0 true with
    | none => none
    | some (base, s) =>
      let i := mapFree s.mem.idxs
      let x : MemIdx := {
        tenant := t, fmt := c.f2 12 4, metric := c.f2 16 2, dims := c.f2 20 12, rMax := c.f2 32 7, buildL := c.f2 40 9
        capM1 := c.f3 0 32, word := c.w2.toNat % 2 ^ 49, vers := [{ version := 0 }], tombPages := (List.range n).map (base + ·) }
      some (stageDone { s with mem := { s.mem with idxs := mapSet s.mem.idxs i x } } { cmd := c, status := E_OK, c0 := i })

/-- A MEM_CREATE whose pages do not fit waits up to `QUOTA_WAIT` strokes (05 R98). -/
def createFinish (s : State) (c : Cmd) (waited : Nat) : State :=
  let s := { s with mem := { s.mem with creates := s.mem.creates.filter (fun e => e.1 != c) } }
  match installIdx s c with
  | some s => s
  | none =>
    if waited < rdF s R.TIER_CFG_QUOTA_WAIT then { s with mem := { s.mem with creates := s.mem.creates ++ [(c, waited + 1)] } }
    else refuseMem s c ((chargeFitsH s (c.f2 0 12) (tombCount (c.f3 0 32))).getD E_TIER_FULL) 0

/-! ### Closing a batch (12 R266, R279 to R281) -/

/-- The lowest node ID that neither the current version nor the batch has allocated. -/
def freeNode (m : MemVer) (ents : Map (List NodeChange)) (newOnes : Map Nat) : Nat → Nat → Nat
  | 0, i => i
  | fuel + 1, i => if (m.ent i).isSome || mapHas newOnes i || mapHas ents i then freeNode m ents newOnes fuel (i + 1) else i

/-- What a batch gathers: the new nodes by record, new nodes by ID with their generation, and changes per node in order. -/
structure Gather where
  recs : List MemRec := []
  newOnes : Map Nat := []
  ents : Map (List NodeChange) := []
  again : List MemRec := []
deriving DecidableEq, Repr

/-- One insert record joins the batch (12 R279 to R281). -/
def gatherRec (x : MemIdx) (g : Gather) (r : MemRec) : Gather :=
  match r.found with
  | none => g
  | some ns =>
    let m := x.cur
    let touched := ns.filter (fun e => (m.ent e.1).any (fun q => q.gen == e.2.1))
    let more := (touched.filter (fun e => !mapHas g.ents e.1)).length + 1
    if !g.again.isEmpty ∨ 65536 < g.newOnes.length + g.ents.length + more then { g with again := g.again ++ [r] }
    else
      let n := freeNode m g.ents g.newOnes (m.map.length + g.newOnes.length + 1) 0
      if x.capM1 < n then { g with recs := g.recs ++ [{ r with code := E_MEM_FULL }] }
      else
        let gen := match mapGet x.gens n with | some k => (k + 1) % 256 | none => 0
        { g with
          recs := g.recs ++ [{ r with node := some (n, gen) }], newOnes := mapSet g.newOnes n gen
          ents := touched.foldl (fun es e => mapSet es e.1 ((mapGet es e.1).getD [] ++ [.back n gen r.sketch])) g.ents }

/-- A sweep's rewrite joins the batch after the inserts, while its slots fit. -/
def gatherSweep (x : MemIdx) (g : Gather × List (Nat × List NodeChange)) (e : Nat × List NodeChange) :
    Gather × List (Nat × List NodeChange) :=
  if (x.cur.ent e.1).isNone then g
  else if !mapHas g.1.ents e.1 ∧ 65536 ≤ g.1.newOnes.length + g.1.ents.length then (g.1, g.2 ++ [e])
  else ({ g.1 with ents := mapSet g.1.ents e.1 ((mapGet g.1.ents e.1).getD [] ++ e.2) }, g.2)

/-- The slots of a batch: of new nodes, and of rewritten ones whose present slot can be read. -/
def batchSlots (s : State) (index : Nat) (x : MemIdx) (g : Gather) : List NodeSlot :=
  let v := x.cur.version + 1
  let fresh := g.recs.filterMap (fun r => r.node.map (fun (n, gen) =>
    NodeSlot.mk n gen index r.key v r.sketch r.vector (r.found.getD [])))
  let old := g.ents.filterMap (fun (n, cs) =>
    ((x.cur.ent n).bind (fun e => slotAt s e.page e.slot)).map (fun d =>
      { d with version := v, nbrs := cs.foldl (applyChange x n d.sketch) d.nbrs }))
  sortBy (fun a b => decide (a.node ≤ b.node)) (fresh ++ old)

/-- Slots are written into fill pages, sixteen in each (12 R266). Answers where each node's slot lies. -/
def writeSlots (s : State) (base : Nat) (xs : List NodeSlot) : Map MapEnt × State :=
  xs.zipIdx.foldl (fun (acc : Map MapEnt × State) (d, i) =>
    (mapSet acc.1 d.node { page := base + i / 16, slot := i % 16, gen := d.gen },
      writePage acc.2 (base + i / 16) (i % 16 * 4096) (slotBytes d))) ([], s)

/-- Records of a batch that finds no room wait; after `QUOTA_WAIT` strokes they are refused (05 R98). -/
def batchWaits (s : State) (i : Nat) (code : Nat) : State :=
  let most := rdF s R.TIER_CFG_QUOTA_WAIT
  updIdx s i (fun x => { x with recs := x.recs.map (fun r =>
    if r.found.isSome && r.code = 0 && r.node.isNone then
      (if most ≤ r.waited then { r with code := code } else { r with waited := r.waited + 1 })
    else r) })

/-- A record's walk runs again, bound to a newer version (12 R281). -/
def runAgain (s : State) (i : Nat) (r : MemRec) : State :=
  match idxOf s i with
  | none => s
  | some x => addWalk s (insertWalk x i r)

/-- The Tier H and Tier F pages that the records of an index waiting for room would take. -/
def batchNeed (i : Nat) (s : State) (x : MemIdx) : Nat × Nat :=
  if x.recs.any (fun r => r.found.isSome && r.code = 0 && r.node.isNone && decide (0 < r.waited)) then
    let g := (x.recs.filter (fun r => r.found.isSome && r.code = 0 && r.node.isNone)).foldl (gatherRec x) {}
    let slots := batchSlots s i x g
    (ceilDiv slots.length 16 + (slots.map (fun d => d.node / 8192)).eraseDups.length, ceilDiv slots.length 16)
  else (0, 0)

/-- Changes that wait are closed: slots are written into fill pages, which are sealed (12 R266). -/
def closeBatch (s : State) (i : Nat) (x : MemIdx) : State :=
  let g := (x.recs.filter (fun r => r.found.isSome && r.code = 0 && r.node.isNone)).foldl (gatherRec x) {}
  let (g, restSweep) := (match x.sweep.bind (·.rewrites) with | some rs => rs | none => []).foldl (gatherSweep x) (g, [])
  let slots := batchSlots s i x g
  let n := ceilDiv slots.length 16
  let mapNos := ((slots.map (fun d => d.node / 8192))).eraseDups
  let put := fun (s : State) (recs : List MemRec) (b : Option MemBatch) =>
    updIdx s i (fun x => { x with
      recs := x.recs.map (fun r => (recs.find? (fun q => q.cmd = r.cmd && q.idx = r.idx)).getD r)
      batch := b, sweep := x.sweep.map (fun w => { w with rewrites := w.rewrites.map (fun _ => restSweep) }) })
  match chargeFitsH s x.tenant (n + mapNos.length), chargeFitsF s x.tenant n with
  | some e, _ => batchWaits s i e
  | none, some e => batchWaits s i e
  | none, none =>
    if !opRoom s 3 0xFFF then s
    else
      match allocPages s (n + mapNos.length) x.tenant 5 0 false with
      | none => batchWaits s i E_TIER_FULL
      | some (base, s) =>
        let (ents, s) := writeSlots s base slots
        let pages := (List.range n).map (base + ·)
        let s := if n = 0 then s
          else startOp s {
            kind := 5, cls := 3, src := 0, dst := 1, tenant := 0xFFF, object := base * 65536, isSes := false, start := 0, todo := pages }
        let last := (x.sweep.bind (·.rewrites)).isSome && restSweep.isEmpty
        let s := put s (g.recs ++ g.again.map (fun r => { r with found := none }))
          (if slots.isEmpty && !last then none else some {
            recs := g.recs.filter (fun r => r.node.isSome), ents := ents, lastSweep := last, pages := pages
            mapPages := ((mapNos.zipIdx).map (fun e => (e.1, base + n + e.2))).foldl (fun m e => mapSet m e.1 e.2) [] })
        g.again.foldl (fun s r => runAgain s i r) s

/-! ### A commit (12 R268 to R270, R282, R283, R285) -/

/-- The deletes that join a commit: commands in order while at most 65,536 nodes are named (12 R281). -/
def joinDels : Nat → List (Cmd × List Byte) → List (Cmd × List Byte) × List (Cmd × List Byte)
  | _, [] => ([], [])
  | n, (c, d) :: rest =>
    if n + c.f2 16 17 ≤ 65536 then
      let (a, b) := joinDels (n + c.f2 16 17) rest
      ((c, d) :: a, b)
    else ([], (c, d) :: rest)

/-- One delete command's nodes: tombstones set at a version, the nodes applied, and the count skipped (12 R283). -/
def applyDel (m : Map MapEnt) (v : Nat) (tombs : Map Nat) (c : Cmd) (d : List Byte) : Map Nat × List Nat × Nat :=
  (fieldsAt 4 d 0 (c.f2 16 17)).foldl (fun (acc : Map Nat × List Nat × Nat) n =>
    if (mapGet m n).any (·.alloc) && !mapHas acc.1 n then (mapSet acc.1 n v, acc.2.1 ++ [n], acc.2.2)
    else (acc.1, acc.2.1, acc.2.2 + 1)) (tombs, [], 0)

/-- The entry that takes a deleted entry node's place: the first neighbour of its slot that is live and not pending deletion, `later` being the
nodes whose deletes wait for the next commit (12 R282). -/
def entryAfter (s : State) (m : Map MapEnt) (tombs : Map Nat) (later : List Nat) (old : MemVer) (e : EntryNode) : Option EntryNode :=
  match (old.ent e.node).bind (fun q => slotAt s q.page q.slot) with
  | none => none
  | some d =>
    (d.nbrs.find? (fun b => (mapGet m b.1).any (fun q => q.alloc && q.gen == b.2.1) && !mapHas tombs b.1 && !later.contains b.1)).map (fun b => EntryNode.mk b.1 b.2.1 b.2.2)

/-- The entry nodes of the new version. -/
def newEntries (s : State) (m : Map MapEnt) (tombs : Map Nat) (later : List Nat) (old : MemVer) (recs : List MemRec) : List EntryNode :=
  let kept := old.entries.filterMap (fun e =>
    if (mapGet m e.node).any (fun q => q.alloc && q.gen == e.gen) && !mapHas tombs e.node then some e else entryAfter s m tombs later old e)
  recs.foldl (fun es r =>
    match r.node with
    | some (n, g) => if es.length < 4 && !mapHas tombs n then es ++ [{ node := n, gen := g, sketch := r.sketch }] else es
    | none => es) kept

/-- The slot pages that a version names. -/
def slotPages (m : MemVer) : List Nat := ((m.map.filter (fun e => e.2.alloc)).map (fun e => e.2.page)).eraseDups

/-- Pages that no kept version, batch or sweep names any more are freed: slot pages (12 R266) and map pages (R268). -/
def freeDropped (s : State) (x : MemIdx) (dropped : List MemVer) : State :=
  let kept := x.vers ++ (x.sweep.map (·.from_)).toList
  let slots := (kept.map slotPages).flatten
  let maps := (kept.map (fun m => mapVals m.pages)).flatten
  let dead := (((dropped.map slotPages).flatten).filter (fun p => !slots.contains p)).eraseDups ++
    (((dropped.map (fun m => mapVals m.pages)).flatten).filter (fun p => !maps.contains p)).eraseDups
  freePages s dead

/-- The map pages of the new version: those of the batch, and copies of the ones whose entries lose `ALLOC`. -/
def newMapPages (s : State) (tenant : Nat) (pages : Map Nat) (nos : List Nat) : Map Nat × State :=
  nos.foldl (fun (acc : Map Nat × State) k =>
    match allocPages acc.2 1 tenant 5 0 true with
    | some (p, s) => (mapSet acc.1 k p, s)
    | none => acc) (pages, s)

/-- A node map entry's 8 bytes (12 R267). -/
def MapEnt.word (e : MapEnt) : Nat := e.page % 2 ^ 30 + e.slot % 16 * 2 ^ 30 + e.gen % 256 * 2 ^ 34 + b2n e.alloc * 2 ^ 42

/-- The entries of a version are written into its new map pages, 8,192 in each (12 R267). -/
def mapPageBytes (s : State) (m : Map MapEnt) (pages : List (Nat × Nat)) : State :=
  pages.foldl (fun s (k, p) =>
    (m.filter (fun e => e.1 / 8192 = k)).foldl (fun s (n, e) => writePage s p (n % 8192 * 8) (leBytes 8 e.word)) s) s

/-- The bytes of the tombstone bitmap that hold a node whose bit changes, one bit per node ID (12 R267). -/
def tombBytes (s : State) (pages : List Nat) (old new : Map Nat) : State :=
  let changed := (mapKeys old).filter (fun n => !mapHas new n) ++ (mapKeys new).filter (fun n => !mapHas old n)
  ((changed.map (· / 8)).eraseDups).foldl (fun s j =>
    match pages[j / 65536]? with
    | none => s
    | some p => writePage s p (j % 65536) (leBytes 1 (sumOf ((List.range 8).map (fun i => b2n (mapHas new (8 * j + i)) * 2 ^ i))))) s

/-- Walks bound to a version that is no longer kept fail (12 R270). -/
def expireWalks (s : State) (i n : Nat) : State :=
  s.mem.walks.foldl (fun s (w, x) =>
    if x.index = i && x.use != .sweep && !x.ended && x.ver.any (fun v => decide (v + 4 ≤ n)) then expireWalk s w x else s) s

/-- `EV_MEM_REPAIRED` and the completions of MEM_REPAIR at commit s + 3 (12 R285, R286). -/
def repaired (s : State) (i tenant n : Nat) (e : SweepEnd) : State :=
  let s := raiseBit s .fshg 0 2 (.named EV_MEM_REPAIRED [i % 2 ^ 16 + n % 2 ^ 32 * 2 ^ 32] (tenantDoms s tenant))
  e.cmds.foldl (fun s c => finishCmd s c E_OK) s

/-- A commit of an index. -/
def commitIdx (s : State) (i : Nat) (x : MemIdx) : State :=
  let old := x.cur
  let n := old.version + 1
  let b := x.batch.getD { recs := [], ents := [], lastSweep := false, pages := [], mapPages := [] }
  let m1 := b.ents.foldl (fun m e => mapSet m e.1 e.2) old.map
  let (now, later) := joinDels 0 x.dels
  let (tombs, done) := now.foldl (fun (acc : Map Nat × List (Cmd × Nat × Nat)) (c, d) =>
    let (t, ok, skip) := applyDel m1 n acc.1 c d
    (t, acc.2 ++ [(c, ok.length, skip)])) (x.tombs, [])
  let due := x.ended.filter (fun e => decide (e.s + 3 ≤ n))
  let gone := (tombs.filter (fun e => due.any (fun d => decide (e.2 ≤ d.s0)))).map (·.1)
  let m2 := mapAll m1 (fun k e => if gone.contains k then { e with alloc := false } else e)
  let tombs := tombs.filter (fun e => !gone.contains e.1)
  let nos := (gone.map (· / 8192)).eraseDups.filter (fun k => !mapHas b.mapPages k)
  let (pages, s) := newMapPages s x.tenant (b.mapPages.foldl (fun m e => mapSet m e.1 e.2) old.pages) nos
  let s := updPtes s (b.pages ++ mapVals b.mapPages) (fun e => { e with committed := true })
  let s := b.pages.foldl freeH1 s
  let s := if now.isEmpty && gone.isEmpty then s else x.tombPages.foldl touch s
  let s := mapPageBytes (tombBytes s x.tombPages x.tombs tombs) m2 ((mapKeys b.mapPages ++ nos).filterMap (fun k => (mapGet pages k).map (fun p => (k, p))))
  let pend := (later.map (fun (c, d) => fieldsAt 4 d 0 (c.f2 16 17))).flatten
  let new : MemVer := { version := n, map := m2, entries := newEntries s m2 tombs pend old b.recs, pages := pages }
  let all := new :: x.vers
  let ended := x.ended.filter (fun e => !decide (e.s + 3 ≤ n)) ++
    (match x.sweep with | some w => if b.lastSweep then [SweepEnd.mk w.from_.version n w.cmds] else [] | none => [])
  let y : MemIdx := { x with
    vers := all.take 4, tombs := tombs, lastCommit := some s.stk.number, dels := later, batch := none, ended := ended
    gens := b.recs.foldl (fun g r => match r.node with | some (k, v) => mapSet g k v | none => g) x.gens
    recs := x.recs.map (fun r => if r.node.isSome then { r with out := true } else r)
    sweep := if b.lastSweep then none else x.sweep }
  let s := { s with mem := { s.mem with idxs := mapSet s.mem.idxs i y } }
  let s := if b.lastSweep then (match x.sweep with | some w => { s with mem := { s.mem with walks := mapErase s.mem.walks w.walk } } | none => s) else s
  let s := freeDropped s y (all.drop 4 ++ (if b.lastSweep then (x.sweep.map (·.from_)).toList else []))
  let s := expireWalks s i n
  let s := done.foldl (fun s (c, ok, skip) => stageDone s { cmd := c, status := E_OK, c0 := ok % 2 ^ 32 + skip % 2 ^ 32 * 2 ^ 32 }) s
  due.foldl (fun s e => repaired s i x.tenant n e) s

/-! ### Sweeps (12 R284, R285) -/

/-- A sweep starts: it binds to the current version and reads every slot of it. -/
def startSweep (s : State) (i : Nat) (x : MemIdx) (cmds : List Cmd) : State :=
  let m := x.cur
  let w := s.mem.nextWalk
  let s := addWalk s { use := .sweep, index := i, ver := some m.version, todo := (m.map.filter (fun e => e.2.alloc)).map (·.1) }
  let s := updIdx s i (fun x => { x with sweep := some { from_ := m, cmds := cmds, walk := w } })
  sweepIssue s w m

def startMemRepair (c : Cmd) (_ : List Byte) (s : State) : State :=
  match idxFor s c with
  | none => refuseMem s c E_MEM_UNKNOWN 0
  | some x =>
    match x.sweep with
    | some _ => updIdx s (c.f2 0 16) (fun x => { x with sweep := x.sweep.map (fun w => { w with cmds := w.cmds ++ [c] }) })
    | none => startSweep s (c.f2 0 16) x [c]

def execMemRepair (c : Cmd) (s : State) : Host.Outcome State Fault Refusal := .next (submit s c [] startMemRepair)

/-- Live slots of a sealed page, as the sweep's version has them. -/
def liveNodes (x : MemIdx) (m : MemVer) : List (Nat × MapEnt) :=
  m.map.filter (fun e => e.2.alloc && !(mapGet x.tombs e.1).any (fun d => decide (d ≤ m.version)))

/-- The rewrites of a sweep whose reads have ended. -/
def sweepRewrites (s : State) (x : MemIdx) (m : MemVer) (read : List Nat) : List (Nat × List NodeChange) :=
  let live := liveNodes x m
  let slot := fun n => if read.contains n then (m.ent n).bind (fun e => slotAt s e.page e.slot) else none
  let gone := fun n => (mapGet x.tombs n).any (fun d => decide (d ≤ m.version))
  let isLive := fun (e : Nat × Nat × Nat) => !deadAt x m e.1 e.2.1
  let few := fun (page : Nat) => decide ((live.filter (fun e => e.2.page = page)).length ≤ rdF s R.FSHG_CFG_COMPACT_SLOTS)
  live.filterMap (fun (n, e) =>
    match slot n with
    | none => none
    | some d =>
      let removed := d.nbrs.filter (fun b => gone b.1 && (m.ent b.1).any (fun q => q.gen == b.2.1))
      if !removed.isEmpty then
        let cand := (removed.flatMap (fun b => match slot b.1 with | some r => r.nbrs.filter isLive | none => []))
        some (n, [.sweep m.version (cand.filter (fun c => c.1 != n && !d.nbrs.any (fun b => b.1 = c.1)))])
      else if few e.page then some (n, [])
      else none)

/-- A sweep at a finish: its reads have all ended and its rewrites are formed. With none to make it ends at the version current now
(notes/assumptions/34.md). -/
def sweepFinish (s : State) (i : Nat) : State :=
  match idxOf s i with
  | none => s
  | some x =>
    match x.sweep with
    | none =>
      let nodes := (x.cur.map.filter (fun e => e.2.alloc)).length
      let pct := rdF s R.FSHG_CFG_REPAIR_PCT
      if pct ≠ 0 ∧ pct * nodes < 100 * x.tombs.length ∧ x.dropping.isNone then startSweep s i x [] else s
    | some w =>
      let s := sweepIssue s w.walk w.from_
      match walkOf s w.walk with
      | some k =>
        if w.rewrites.isSome || !k.todo.isEmpty || !k.flying.isEmpty then s
        else
          let rs := sweepRewrites s x w.from_ k.seen
          if rs.isEmpty then
            let s := updIdx s i (fun x => { x with
              sweep := none, ended := x.ended ++ [SweepEnd.mk w.from_.version x.cur.version w.cmds] })
            let s := { s with mem := { s.mem with walks := mapErase s.mem.walks w.walk } }
            match idxOf s i with
            | some y => freeDropped s y (if y.vers.any (fun m => m.version = w.from_.version) then [] else [w.from_])
            | none => s
          else updIdx s i (fun x => { x with sweep := some { w with rewrites := some rs } })
      | none => s

/-! ### Completions (12 R286 to R288) -/

/-- A query's result block (12 Table 12-6). -/
def resultBlock (x : MemIdx) (w : Walk) : List Byte :=
  let v := w.ver.getD 0
  let r0 := w.hits.length % 2 ^ 16 + b2n (w.dead != 0) * 2 ^ 16 + b2n w.limit * 2 ^ 17 + b2n w.lost * 2 ^ 18 + w.seen.length % 2 ^ 32 * 2 ^ 32
  leBytes 8 r0 ++ leBytes 8 (v % 2 ^ 32 + w.dead % 2 ^ 32 * 2 ^ 32) ++ leBytes 8 (w.reads % 2 ^ 32 + w.coalesced % 2 ^ 32 * 2 ^ 32) ++
  leBytes 8 (if w.expired then E_SNAPSHOT_EXPIRED else E_OK) ++
  (w.hits.map (fun h =>
    let since := (mapGet x.tombs h.node).any (fun d => decide (v < d)) && (x.cur.ent h.node).any (fun e => e.gen == h.gen)
    leBytes 8 h.key ++ leBytes 8 (h.node % 2 ^ 32 + h.gen % 256 * 2 ^ 32 + b2n since * 2 ^ 40 + h.dist % 512 * 2 ^ 48) ++
      leBytes 8 h.score)).flatten

/-- A MEM_QUERY all of whose queries have ended: its blocks go out, and its completion follows the last (12 R288). -/
def queryDone (s : State) (c : Cmd) : State :=
  let mine := s.mem.walks.filter (fun e => match e.2.use with | .query c' _ => c' = c | _ => false)
  if mine.any (fun e => !e.2.ended) then s
  else
    let x := (mine.head?.bind (fun e => idxOf s e.2.index)).getD {
      tenant := 0, fmt := 0, metric := 0, dims := 0, rMax := 0, buildL := 0, capM1 := 0, word := 0, vers := [] }
    let lost := (mine.filter (fun e => e.2.expired)).length
    let d : Done := {
      cmd := c, status := if lost = 0 then E_OK else E_SNAPSHOT_EXPIRED, c0 := (mine.length - lost) % 2 ^ 32 + lost % 2 ^ 32 * 2 ^ 32
      c1 := (mine.findSome? (fun e => e.2.ver)).getD 0 }
    let s := { s with mem := { s.mem with walks := mine.foldl (fun m e => mapErase m e.1) s.mem.walks } }
    let step := 32 + 24 * (c.f7 9 10 + 1)
    mine.foldl (fun s (_, w) =>
      match w.use with
      | .query _ j => issueWrite s {
          qp := c.f4 32 16, rkey := c.f6 0 32, addr := c.w5.toNat + j * step, data := resultBlock x w
          use := if j + 1 = c.f2 16 17 then .recovery d else .quiet }
      | _ => s) s

def queriesFinish (s : State) : State :=
  let cs := (s.mem.walks.filterMap (fun e => match e.2.use with | .query c _ => some c | _ => none)).eraseDups
  cs.foldl queryDone s

/-- A MEM_INSERT all of whose records are published or refused (12 R286, R287). The entry of a refused record is a free value: Table
12-5 gives none. -/
def insertDone (s : State) (i : Nat) (c : Cmd) : State :=
  match idxOf s i with
  | none => s
  | some x =>
    let mine := x.recs.filter (fun r => r.cmd = c)
    if mine.any (fun r => !r.out && r.code = 0) then s
    else
      let (words, s) := mine.foldl (fun (acc : List Nat × State) r =>
        match r.node with
        | some (n, g) => (acc.1 ++ [n % 2 ^ 32 + g % 256 * 2 ^ 32], acc.2)
        | none =>
          let (k, s) := nextFree acc.2
          (acc.1 ++ [(Config.freeWord k).toNat], s)) ([], s)
      let s := updIdx s i (fun x => { x with recs := x.recs.filter (fun r => r.cmd != c) })
      let code := (mine.findSome? (fun r => if r.code = 0 then none else some r.code)).getD E_OK
      let s := if code = E_OK then s else recordErr s .fshg 0 0 code
      issueWrite s {
        qp := c.f4 32 16, rkey := c.f6 0 32, addr := c.w5.toNat, data := packFields 8 words, use := .recovery { cmd := c, status := code } }

/-- MEM_DROP at the finish after the last walk bound to the index ends (12 R286). Changes that have not been committed are refused with
`E_MEM_UNKNOWN` (notes/assumptions/35.md). -/
def dropFinish (s : State) (i : Nat) (x : MemIdx) (c : Cmd) : State :=
  if s.mem.walks.any (fun e => e.2.index = i && e.2.use != .sweep) then s
  else
    let kept := x.vers ++ (x.sweep.map (·.from_)).toList
    let pages := ((kept.map (fun m => slotPages m ++ mapVals m.pages)).flatten ++ x.tombPages ++
      (match x.batch with | some b => b.pages ++ mapVals b.mapPages | none => [])).eraseDups
    let cmds := ((x.recs.map (·.cmd)).eraseDups ++ x.dels.map (·.1) ++ (x.sweep.map (·.cmds)).getD [] ++ (x.ended.map (·.cmds)).flatten)
    let s := freePages s pages
    let s := { s with mem := { s.mem with
      idxs := mapErase s.mem.idxs i, walks := s.mem.walks.filter (fun e => e.2.index != i) } }
    finishCmd (cmds.foldl (fun s c => finishCmd s c E_MEM_UNKNOWN) s) c E_OK

/-- Whether the strokes of `COMMIT_STROKES` have passed since the last commit. -/
def commitDue (s : State) (x : MemIdx) : Bool :=
  match x.lastCommit with
  | none => true
  | some n => decide (n + max 1 (rdF s R.FSHG_CFG_COMMIT_STROKES) ≤ s.stk.number)

/-- Changes are closed for a commit in the stroke before it is due, so that their slots can be sealed (notes/assumptions/32.md). -/
def closeDue (s : State) (x : MemIdx) : Bool :=
  match x.lastCommit with
  | none => true
  | some n => decide (n + rdF s R.FSHG_CFG_COMMIT_STROKES ≤ s.stk.number + 1)

/-- One index at a finish. -/
def idxFinish (s : State) (i : Nat) : State :=
  match idxOf s i with
  | none => s
  | some x =>
    match x.dropping with
    | some c => dropFinish s i x c
    | none =>
      let s := sweepFinish s i
      match idxOf s i with
      | none => s
      | some x =>
        let s := match x.batch with
          | some b => if commitDue s x && b.pages.all (sealedNow s) then commitIdx s i x else s
          | none =>
            if x.recs.any (fun r => r.found.isSome && r.code = 0 && r.node.isNone) || (x.sweep.bind (·.rewrites)).isSome then
              (if closeDue s x then closeBatch s i x else s)
            else if commitDue s x && !x.dels.isEmpty then commitIdx s i x
            else s
        match idxOf s i with
        | none => s
        | some x => ((x.recs.map (·.cmd)).eraseDups).foldl (fun s c => insertDone s i c) s

/-- Memory search at a finish, after the stroke's copies have landed. -/
def memFinish (s : State) : State :=
  let s := s.mem.creates.foldl (fun s (c, n) => createFinish s c n) s
  let s := s.mem.walks.foldl (fun s (w, x) => takeFound s w x) s
  let s := queriesFinish s
  (mapKeys s.mem.idxs).foldl idxFinish s

/-- The figures of the `FSHG` and `FCH` pages (12 R290, R291). -/
def memFigures (s : State) : State :=
  let used := (List.range 32).map (unitUsed s)
  let s := (List.range 32).foldl (fun s k => wrI s R.FCH_WALK_USED k (used.getD k 0)) s
  let s := wrF (wrF s R.FSHG_WALK_USED (sumOf used)) R.FSHG_WALK_WAITING (walksWaiting s)
  wrF s R.FSHG_IDX_COUNT s.mem.idxs.length

end Sys2Proof.Machine
end

