-- ==== Sys2Proof/Machine/Course.lean ====
section
/-! DEFINITION. Course circulation (10_long_contexts.md R227 to R231). The lap's arithmetic (the `ATT` passes over the read windows and
their merge in the lap accumulators) has no state of its own here; what the course step leaves in its sessions comes from the
legs of Table 10-3 (notes/assumptions/36.md). -/

namespace Sys2Proof.Machine

/-- A refusal that the course's engine reports: an error of the `CMB` page (10 R232, 02 R27). -/
def refuseCourse (s : State) (c : Cmd) (code c0 : Nat) : State := refuseWith (recordErr s .cmb 0 0 code) c code c0

/-- The largest `WIN` at the current period (10 R228). -/
def winLimit (s : State) : Nat :=
  let w := windowT s.stk.period (catchActs s.stk.period s.stk.catchUs)
  min ((10 * w - 4000000) / 65536) ((200 * w - 4000000) / (9 * 65536))

/-- Bytes of a lead row: the embedding, then query, key and value of layer 0, in `ACT_FMT` (10 R229). -/
def leadRowBytes (h : PlanHdr) : Nat :=
  (h.dModel + h.kvHeads * 2 ^ h.log2g * h.head + 2 * h.kvHeads * h.head) * fmtBits h.actFmt / 8

/-- Whether a plan runs one layer per leg (10 R227, reason 1). -/
def layerPerLeg (p : Plan) : Bool := p.hdr.stepLegs == p.hdr.layers && p.att.all (fun t => t.leg == t.layer || decide (p.hdr.stepLegs ≤ t.leg))

/-- Sessions of a crew, lowest Session ID first. -/
def crewSes (s : State) (crew : Nat) : List (Nat × Ses) := s.ses.tab.filter (fun e => e.2.d.crew = crew)

/-- The reason of a refusal by 10 R227, in the order of the list. -/
def courseReason (s : State) (c : Cmd) (crew : Nat) (k : Crew) : Option Nat :=
  let node := c.f3 0 32
  let win := c.f3 32 9
  let p := planOf s k.model
  let lead := gsxOf s (c.f4 0 16)
  let xs := crewSes s crew
  if !(match p, lead with | some p, some t => layerPerLeg p && t.rowBytes == leadRowBytes p.hdr && t.fmt == p.hdr.actFmt | _, _ => false) then
    some 1
  else if xs.any (fun e => !(chainOf s e.2.d.prefixNode).contains node) then some 2
  else if !(nodeOf s node).any (fun n => n.st == .ready && n.tenant == k.tenant) then some 3
  else if win < 16 ∨ winLimit s < win then some 4
  else if mapHas s.courses crew ∨ s.courseWaits.any (fun e => e.1.f2 0 16 = crew) ∨
      8 < ceilDiv xs.length 10 * p.elim 1 (fun p => max 1 p.hdr.posMax) then some 5
  else none

/-- Two windows of `WIN` frames in every lane. -/
def courseFrames (s : State) (tenant win : Nat) : Option (List Nat) :=
  (allSome ((List.range 10).map (fun k => allocFrames s tenant (2 ^ k) (2 * win)))).map (·.flatten)

/-- The owner of the advance charge that holds a course's windows. -/
def courseOwner (crew : Nat) : Nat := 2 ^ 26 + crew

/-- The course opens where its frames are free (10 R227, R228). -/
def openCourse (s : State) (c : Cmd) : Option State :=
  let crew := c.f2 0 16
  match crewOf s crew with
  | none => none
  | some k =>
    let win := c.f3 32 9
    let node := c.f3 0 32
    let depth := (nodeOf s node).elim 0 (·.depth)
    let layers := (planOf s k.model).elim 0 (fun p => p.hdr.layers)
    let nb := ceilDiv depth win
    match chargeFitsH s k.tenant (20 * win), courseFrames s k.tenant win with
    | none, some fs =>
      let homes := (crewSes s crew).zipIdx.foldl (fun m (e, i) => mapSet m e.1 (i % 10)) []
      let s := fs.foldl zeroFrame s
      let s := addCharge s { owner := courseOwner crew, tenant := k.tenant, tier := 0, pages := 20 * win }
      let s := { s with courses := mapSet s.courses crew {
        node := node, win := win, lead := c.f4 0 16, nb := nb, layers := layers, homes := homes, nextHome := homes.length, frames := fs } }
      some (stageDone s { cmd := c, status := E_OK, c0 := nb % 2 ^ 32 + (layers * (nb + 1) + 10) % 2 ^ 32 * 2 ^ 32 })
    | _, _ => none

def startCourseOpen (c : Cmd) (_ : List Byte) (s : State) : State :=
  match crewOf s (c.f2 0 16) with
  | none => refuseCourse s c E_CREW_UNKNOWN 0
  | some k =>
    if !domTenant s c.dom k.tenant then refuseCourse s c E_CREW_DENIED 0
    else
      match courseReason s c (c.f2 0 16) k with
      | some r => refuseCourse s c E_COURSE_INVALID r
      | none => (openCourse s c).getD { s with courseWaits := s.courseWaits ++ [(c, 0)] }

def execCourseOpen (c : Cmd) (s : State) : Host.Outcome State Fault Refusal := .next (submit s c [] startCourseOpen)

/-- COURSE with `CLOSE` (10 R231); a crew without a course gives reason 0 (notes/assumptions/37.md). -/
def startCourseClose (c : Cmd) (_ : List Byte) (s : State) : State :=
  let crew := c.f2 0 16
  match crewOf s crew with
  | none => refuseCourse s c E_CREW_UNKNOWN 0
  | some k =>
    if !domTenant s c.dom k.tenant then refuseCourse s c E_CREW_DENIED 0
    else
      match mapGet s.courses crew with
      | none => refuseCourse s c E_COURSE_INVALID 0
      | some x =>
        if x.closing.isSome then refuseCourse s c E_COURSE_INVALID 0
        else { s with courses := mapSet s.courses crew { x with closing := some c } }

def execCourseClose (c : Cmd) (s : State) : Host.Outcome State Fault Refusal := .next (submit s c [] startCourseClose)

/-- A course that waits for frames tries again, and counts the stroke (05 R98). -/
def courseRetry (s : State) (c : Cmd) (n : Nat) : State :=
  let s := { s with courseWaits := s.courseWaits.filter (fun e => e.1 != c) }
  match openCourse s c with
  | some s => s
  | none => { s with courseWaits := s.courseWaits ++ [(c, n + 1)] }

/-- QUOTA_WAIT_EXPIRY of a course (05 R98). -/
def courseExpiry (s : State) (crew : Nat) : State :=
  match s.courseWaits.find? (fun e => e.1.f2 0 16 = crew) with
  | none => s
  | some (c, n) =>
    if rdF s R.TIER_CFG_QUOTA_WAIT ≤ n then
      let s := { s with courseWaits := s.courseWaits.filter (fun e => e.1 != c) }
      let t := (crewOf s crew).elim 0 (·.tenant)
      refuseCourse s c ((chargeFitsH s t (20 * c.f3 32 9)).getD E_TIER_FULL) 0
    else s

/-! ### A course step (10 R230) -/

/-- Course sessions with a STEP at the head that can run. -/
def stepHeads (s : State) (k : Course) : List Nat :=
  (mapKeys k.homes).filter (fun sid => (sesOf s sid).any (fun x =>
    !x.heldOut && x.head.any (fun r => r.cmd.opcode = 0x13 && r.ph == .ready) && (x.head.any (fun r => pagesReady s x r))) && !inPass s sid)

/-- The lead rows are gathered (10 R229): the engine's counters move as for a plain gather of the sessions' tokens. -/
def gatherLead (s : State) (k : Course) (sids : List Nat) : State :=
  match gsxOf s k.lead with
  | none => s
  | some t =>
    let toks := (sids.map (fun sid => ((sesOf s sid).bind (·.head)).elim [] (·.toks))).flatten
    let valid := (toks.zipIdx.filter (fun e => e.1 < t.rows)).map (fun e => (e.2, e.1))
    let g := groupRows valid
    gsxCount s (toks.length - valid.length) g.length (topDup g)

/-- COURSE_STEP_START: every course session has a STEP at the head of its order, or `CMB_COURSE_CFG.WAIT` strokes have passed since the
first of them. One pass per lane forms. -/
def courseStep (s : State) (crew : Nat) : State :=
  match mapGet s.courses crew, crewOf s crew with
  | some k, some w =>
    match planOf s w.model with
    | none => s
    | some p =>
      let sids := stepHeads s k
      let due := decide (sids.length = k.homes.length) ||
        k.firstStep.any (fun n => decide (n + rdF s R.CMB_COURSE_CFG_WAIT ≤ s.stk.number))
      if k.start.isSome || sids.isEmpty || !due || s.stk.phase != .drive || p.blocked || cmbMode s p || !opRoom s 1 w.tenant then s
      else
        let (op, s) := takeOp s {
          kind := 0xE, cls := 1, src := 1, dst := 0, tenant := w.tenant, object := ((nodeOf s k.node).elim 0 (fun n => n.pages.headD 0)) * 65536
          isSes := false, start := 0 }
        let s := gatherLead s k sids
        let s := (List.range 10).foldl (fun s lane =>
          let mine := sids.filter (fun sid => mapGet k.homes sid = some lane)
          if mine.isEmpty then s
          else
            newPass (bindVersion s mine p.hdr.version) {
              crew := crew, tenant := w.tenant, model := w.model, version := p.hdr.version, isAppend := false, sessions := mine
              firstCand := s.stk.number, lap := true }) s
        { s with courses := mapSet s.courses crew { k with
          start := some s.stk.number, inStep := sids, ring := 0, firstStep := none, op := some op, block := [], late := false } }
  | _, _ => s

def execCourseStepStart (crew : Nat) (s : State) : Host.Outcome State Fault Refusal := .next (courseStep s crew)

/-- The pages of the block that fills in a stroke of the course step: block b of layer j (10 R228, R230). -/
def blockPages (s : State) (k : Course) : List Nat :=
  let j := k.ring / (k.nb + 1)
  let b := k.ring % (k.nb + 1)
  if j < k.layers ∧ b < k.nb then
    (((chainOf s k.node).reverse.drop (b * k.win)).take k.win).filterMap (fun n => (nodeOf s n).bind (fun x => x.pages[j]?))
  else []

/-- The leg that lane `lane` runs in this stroke, if one is due: t_j + nb + k + 1 of Table 10-3. -/
def lapLeg (k : Course) (lane : Nat) : Option Nat :=
  let r := k.ring
  if r < k.nb + lane + 1 then none
  else if (r - (k.nb + lane + 1)) % (k.nb + 1) = 0 ∧ (r - (k.nb + lane + 1)) / (k.nb + 1) < k.layers then some ((r - (k.nb + lane + 1)) / (k.nb + 1))
  else none

/-- A lane's pass in a course step. -/
def lapPass (s : State) (crew : Nat) (k : Course) (lane : Nat) : Option (Nat × Pass) :=
  s.stk.passes.find? (fun e => e.2.lap && e.2.crew = crew && (match e.2.sessions.head? with
    | some sid => mapGet k.homes sid = some lane
    | none => false))

/-- The legs of a course's lanes at a catch. A leg that is due and cannot be granted holds the ring (notes/assumptions/36.md). -/
def lapLegs (s : State) (crew : Nat) (k : Course) : Bool × State :=
  (List.range 10).foldl (fun (acc : Bool × State) lane =>
    match lapLeg k lane, lapPass acc.2 crew k lane with
    | some j, some (i, p) =>
      if p.leg = j then
        let (ok, s) := tryLeg acc.2 i
        (acc.1 || !ok, s)
      else acc
    | _, _ => acc) (false, s)

/-- The pages that the ring shifts in this stroke: the read windows of lanes 0 to 8 go on to the next lane. -/
def shiftPages (k : Course) : Nat := 9 * k.win

/-- A course step at a catch, before the Mover's slices: the block of the stroke joins its entry, to be served at class 1 on the path from
Tier F, and the shifts take the path within Tier H (10 R230, 05 R95, R104). Where that path has too little room left, the ring does not
advance at this finish. -/
def courseFill1 (s : State) (crew : Nat) : State :=
  match mapGet s.courses crew with
  | none => s
  | some k =>
    match k.start, k.op with
    | some _, some o =>
      let fits := decide (shiftPages k ≤ pathRoom s 0 0)
      let s := if fits then addPath s (pathKey 0 0) (shiftPages k) else s
      let s := { s with courses := mapUpd s.courses crew (fun k => { k with shiftShort := !fits }) }
      if (opOf s o).any (fun e => !e.flying.isEmpty || !e.todo.isEmpty) then s
      else
        let ps := blockPages s k
        let s := { s with courses := mapUpd s.courses crew (fun k => { k with block := ps }) }
        updOp s o (fun e => { e with todo := ps, pages := ps.length, done := 0, got := [] })
    | _, _ => s

def courseFills (s : State) : State := (mapKeys s.courses).foldl courseFill1 s

/-- A course at a catch: the first waiting STEP is noted, or the legs due are granted. -/
def courseCatch1 (s : State) (crew : Nat) : State :=
  match mapGet s.courses crew with
  | none => s
  | some k =>
    match k.start with
    | none =>
      let first := if (stepHeads s k).isEmpty then none else some (k.firstStep.getD s.stk.number)
      { s with courses := mapSet s.courses crew { k with firstStep := first } }
    | some _ =>
      let (late, s) := lapLegs s crew k
      { s with courses := mapUpd s.courses crew (fun k => { k with late := late || k.shiftShort }) }

/-- Courses at a catch: waiting ones try again (05 R98), and the others go on. The legs of course steps are granted before those of R131. -/
def courseCatch (s : State) : State :=
  let s := s.courseWaits.foldl (fun s (c, n) => courseRetry s c n) s
  (mapKeys s.courses).foldl courseCatch1 s

/-- The windows swap; each lane's read window has been copied to the next lane's fill window (10 R230). -/
def advanceRing (s : State) (k : Course) : State :=
  (List.range 9).reverse.foldl (fun s lane =>
    (List.range k.win).foldl (fun s i => fillFrame s (courseFrame k (lane + 1) 1 i) (frameCells s (courseFrame k lane 0 i))) s)
    (cnt s R.MOV_BYTES_HH (65536 * shiftPages k))

/-- A course closes: its windows are freed, and its CLOSE completes (10 R231). -/
def closeCourse (s : State) (crew : Nat) (k : Course) : State :=
  let s := k.frames.foldl zeroFrame s
  let s := dropCharges { s with courses := mapErase s.courses crew } (courseOwner crew)
  match k.closing with
  | some c => finishCmd s c E_OK
  | none => s

/-- A course at a finish, after the stroke's legs: the ring advances unless a fill, a shift or a leg did not complete, and the course step
ends with its last commit. -/
def courseFinish1 (s : State) (crew : Nat) : State :=
  match mapGet s.courses crew with
  | none => s
  | some k =>
    match k.start with
    | none => if k.closing.isSome then closeCourse s crew k else s
    | some _ =>
      let filled := !k.op.any (fun o => (opOf s o).any (fun e => !e.flying.isEmpty || !e.todo.isEmpty))
      let held := (List.range 10).any (fun lane => match lapLeg k lane, lapPass s crew k lane with
        | some j, some (_, p) => p.leg = j
        | _, _ => false)
      let more := s.stk.passes.any (fun e => e.2.lap && e.2.crew = crew)
      if !more then
        let s := match k.op with | some o => freeOp s o | none => s
        let k := { k with start := none, inStep := [], ring := 0, block := [], op := none, late := false }
        if k.closing.isSome then closeCourse s crew k else { s with courses := mapSet s.courses crew k }
      else if filled && !held && !k.late then
        { advanceRing s k with courses := mapSet s.courses crew { k with ring := k.ring + 1, block := [] } }
      else { s with courses := mapSet s.courses crew { k with stall := k.stall + 1 } }

def courseFinish (s : State) : State := (mapKeys s.courses).foldl courseFinish1 s

end Sys2Proof.Machine
end

