-- ==== Sys2Proof/Machine/CkpTake.lean ====
section
/-! DEFINITION. Taking checkpoints and exports (17_checkpoints.md R368 to R382; 20_security.md R435). -/

namespace Sys2Proof.Machine

/-! ### The target's registers and keys -/

def tgtLen (s : State) (t : Nat) : Nat := rdB s R.CKP_TGT_LEN t
def tgtAddr (s : State) (t : Nat) : Nat := rdB s R.CKP_TGT_ADDR t
def tgtQp (s : State) (t : Nat) : Nat := rdB s R.CKP_TGT0_QP t
def tgtRkey (s : State) (t : Nat) : Nat := rdB s R.CKP_TGT0_RKEY t

/-- The per-checkpoint key (20 Table 20-2) from the words of a tenant's checkpoint key. -/
def perCkptKey (key : List Nat) (serial epoch : Nat) : List Byte :=
  kdf (packFields 8 key) (ascii "CKPT") (leBytes 8 serial ++ leBytes 8 epoch) 256

def ckeyOf (s : State) (t : Nat) : CkpKey := (mapGet s.sec.ckeys t).getD {}

def jobKey (s : State) (j : CkpJob) : List Byte := perCkptKey (ckeyOf s j.tenant).curKey (rdF s R.DEV_SERIAL) j.epoch

/-- Nonces of shard bodies, shard heads and session records (17 R377, R378). -/
def bodyNonce (shard i : Nat) : List Byte := leBytes 4 shard ++ leBytes 4 i ++ leBytes 4 0
def headNonce (shard : Nat) : List Byte := leBytes 4 shard ++ leBytes 4 0xFFFFFFFF ++ leBytes 4 0
def recNonce (n : Nat) : List Byte := leBytes 4 0xFFFFFFFF ++ leBytes 4 0xFFFFFFFF ++ leBytes 4 n

/-! ### The log (17 R369) -/

/-- Where the oldest content of the log that is still needed starts; none while the log holds nothing. -/
def logOldest (x : CkpTgt) (j : CkpJob) : Option Nat :=
  match x.log.head? with
  | some e => some e.2.1
  | none => if j.placed then some j.first else none

/-- The offset at which n bytes may be appended: at the write offset, or at 64 KiB where they would straddle the region's end; the write
offset never passes the start of the oldest checkpoint that is not released. -/
def logPlace (len : Nat) (x : CkpTgt) (j : CkpJob) (n : Nat) : Option Nat :=
  let here := decide (x.write + n ≤ len)
  match logOldest x j with
  | none => if here then some x.write else if 65536 + n ≤ len then some 65536 else none
  | some o =>
    if o < x.write then (if here then some x.write else if 65536 + n ≤ o then some 65536 else none)
    else if x.write + n ≤ o then some x.write else none

/-! ### Shards (17 R374, R377) -/

/-- The page image at the bound epoch: rows at or above `POSITIONS` are zero (17 R374). `i` is the page's place in the record. -/
def pageImage (r : CkpRec) (i : Nat) (cells : Map Byte) : Map Byte :=
  let span := 2 ^ r.log2p
  let sp := r.first + i / max 1 r.layers
  let rows := min span (r.positions - sp * span)
  cells.filter (fun (c : Nat × Byte) => decide (c.1 < rows * (65536 / span)))

def imageBytes (cells : Map Byte) : List Byte := cellsGet cells 0 65536

/-- A shard: head and encrypted bodies (17 R377, Table 17-2). -/
def shardBytes (key : List Byte) (tenant epoch shard serial : Nat) (bodies : List CkpBody) : List Byte :=
  let enc := ((List.range bodies.length).zip bodies).map (fun (e : Nat × CkpBody) =>
    let c := gcmCrypt key (bodyNonce shard e.1) (imageBytes e.2.cells)
    (c, e.2.digest ++ gcmTag key (bodyNonce shard e.1) [] c))
  let head := leBytes 8 (0x57434B53 + 2 ^ 32) ++ leBytes 8 epoch ++ leBytes 8 (shard + tenant * 2 ^ 32 + bodies.length * 2 ^ 48) ++
    leBytes 8 serial ++ List.replicate 16 0
  let dir := (enc.map (fun (e : List Byte × List Byte) => e.2)).flatten
  let tag := gcmTag key (headNonce shard) (head ++ List.replicate 16 0 ++ dir) []
  padTo 16384 (head ++ tag ++ dir) ++ (enc.map (fun (e : List Byte × List Byte) => e.1)).flatten

/-! ### Manifests (17 R378, R379) -/

def refBytes (r : Option CkpRef) (shared : Bool) : List Byte :=
  match r with
  | some r => leBytes 8 r.ckpt ++ leBytes 4 r.shard ++ leBytes 1 r.slot ++ leBytes 1 (b2n shared) ++ [0, 0]
  | none => List.replicate 16 0

/-- A session record in clear (17 R379, Tables 17-4 and 17-4a). A page lost before it could be read has the reference 0
(03 R62: an EXPORT marks each lost page in its output). -/
def recBytes (r : CkpRec) : List Byte :=
  leBytes 8 (r.sid % 2 ^ 24 + r.gen % 256 * 2 ^ 24 + b2n r.diff * 2 ^ 32 + r.depth % 16 * 2 ^ 40) ++ leBytes 8 r.epoch ++
    leBytes 8 r.baseCkpt ++ leBytes 8 (r.positions + r.basePos * 2 ^ 32) ++ leBytes 8 r.pages.length ++ List.replicate 24 0 ++
    packFields 8 r.desc ++ padTo 512 r.grm ++ padTo 2304 r.txt ++
    (((List.range r.pages.length).zip r.pages).map (fun (e : Nat × Nat × Bool) => refBytes (mapGet r.refs e.1) e.2.2)).flatten

/-- The manifest of a job without its signature (17 R378, Table 17-3). -/
def manifestBody (s : State) (j : CkpJob) : List Byte :=
  let key := jobKey s j
  let recs := (((List.range j.recs.length).zip j.recs).map (fun (e : Nat × CkpRec) =>
    let c := gcmCrypt key (recNonce e.1) (recBytes e.2)
    c ++ gcmTag key (recNonce e.1) [] c)).flatten
  leBytes 8 (0x57434B4D + 2 ^ 32) ++ leBytes 8 j.epoch ++ leBytes 8 (rdF s R.DEV_SERIAL) ++
    leBytes 8 (j.tenant + ((ckeyOf s j.tenant).cur.getD 0) * 2 ^ 16 + j.recs.length * 2 ^ 32) ++ leBytes 8 j.shards ++
    leBytes 8 (64 + recs.length + 384) ++ leBytes 8 j.time ++ leBytes 8 0 ++ recs

/-! ### Writing -/

/-- Bytes of a job are written to its target's log or, for an export to host memory, behind what it has written; none where the log has
no room. Answers the place. -/
def jobWrite (s : State) (i : Nat) (j : CkpJob) (data : List Byte) (use : WriteFor) : Option (Nat × State) :=
  if j.toHost then
    match j.cmd with
    | none => none
    | some c =>
      let s := issueWrite s { qp := c.f6 32 16, rkey := c.f6 0 32, addr := c.w5.toNat + j.at_, data := data, use := use }
      some (j.at_, updJob s i (fun j => { j with at_ := j.at_ + data.length, pendingWrites := j.pendingWrites + 1, blocked := false }))
  else
    let x := ckpTgt s j.tenant
    match logPlace (tgtLen s j.tenant) x j data.length with
    | none => none
    | some off =>
      let s := issueWrite s { qp := tgtQp s j.tenant, rkey := tgtRkey s j.tenant, addr := tgtAddr s j.tenant + off, data := data, use := use }
      some (off, updJob (setTgt s j.tenant { x with write := off + data.length }) i (fun j => { j with
        first := if j.placed then j.first else off
        placed := true
        pendingWrites := j.pendingWrites + 1
        blocked := false }))

/-- Whether every page of a job has been read: no session left to bind, nothing left of its Mover entry. -/
def jobRead (s : State) (j : CkpJob) : Bool :=
  j.toBind.isEmpty && (match j.op.bind (opOf s) with
    | some o => o.todo.isEmpty && o.flying.isEmpty
    | none => true)

/-- A record whose pages all have references. -/
def recWhole (r : CkpRec) : Bool := (List.range r.pages.length).all (mapHas r.refs)

/-- The manifest follows the last shard (17 R378); a session whose pages could not all be read is skipped, unless an export marks them. -/
def jobManifest (s : State) (i : Nat) (j : CkpJob) : State :=
  let keep := if j.isExport then j.recs else j.recs.filter recWhole
  let j := { j with recs := keep, skipped := j.skipped + (j.recs.length - keep.length) }
  let body := manifestBody s j
  let (n, s1) := nextFree s
  let data := body ++ padTo 384 (Config.identSign n body)
  match jobWrite (updJob s1 i (fun _ => j)) i j data (.manifest i data.length) with
  | none => updJob s i (fun j => { j with blocked := true })
  | some (off, s) => updJob s i (fun j => { j with manifest := true, manifestAt := off, manifestLen := data.length })

/-- Shards that are full, or the last one, and then the manifest are written as far as the log has room (17 R377, R378, R382). -/
def jobPump (s : State) (i : Nat) : Nat → State
  | 0 => s
  | fuel + 1 =>
    match jobOf s i with
    | none => s
    | some j =>
      if !j.started || j.manifest then s
      else if 255 ≤ j.bodies.length || (jobRead s j && !j.bodies.isEmpty) then
        let data := shardBytes (jobKey s j) j.tenant j.epoch j.shards (rdF s R.DEV_SERIAL) (j.bodies.take 255)
        match jobWrite s i j data (.shard i data.length) with
        | none => updJob s i (fun j => { j with blocked := true })
        | some (_, s) => jobPump (updJob s i (fun j => { j with shards := j.shards + 1, bodies := j.bodies.drop 255 })) i fuel
      else if jobRead s j && j.pendingWrites = 0 then jobManifest s i j
      else s

def pump (s : State) (i : Nat) : State :=
  match jobOf s i with
  | none => s
  | some j => jobPump s i (j.bodies.length / 255 + 2)

/-! ### Pages read (17 R373, R374, R376) -/

/-- A page read for a job: its image's digest names a copy already written, or the image joins the shard being filled. -/
def ckpPage (s : State) (op p : Nat) (cells : Map Byte) : State :=
  match s.ckp.jobs.find? (fun (e : Nat × CkpJob) => e.2.op == some op) with
  | none => s
  | some (i, j) =>
    let at_ := fun (r : CkpRec) => ((List.range r.pages.length).zip r.pages).filterMap (fun (e : Nat × Nat × Bool) =>
      if e.2.1 = p then some e.1 else none)
    match j.recs.findSome? (fun r => (at_ r).head?.map (fun k => (r, k))) with
    | none => s
    | some (r0, k0) =>
      let image := pageImage r0 k0 cells
      let digest := sha256 (imageBytes image)
      let have_ := if j.isExport && j.toHost then j.seen else (ckpTgt s j.tenant).digests ++ j.seen
      let known := (have_.find? (fun (e : List Byte × CkpRef) => e.1 == digest)).map (fun e => e.2)
      let ref : CkpRef := known.getD { ckpt := j.epoch, shard := j.written / 255, slot := j.written % 255 }
      let j := if known.isSome then { j with dedup := j.dedup + 1 }
        else { j with
          bodies := j.bodies ++ [{ digest := digest, cells := image }]
          seen := j.seen ++ [(digest, ref)]
          written := j.written + 1 }
      let j := { j with recs := j.recs.map (fun r => { r with refs := (at_ r).foldl (fun m k => mapSet m k ref) r.refs }) }
      let s := updJob s i (fun _ => j)
      pump (if known.isSome && !j.toHost then cnt s R.CKP_DEDUP_PAGES 1 else s) i

/-! ### Starting a job (17 R372, R373, R381) -/

/-- The place in a session's order that a capture takes (17 R373): it carries the session it names. -/
def captureCmd (sid gen : Nat) : Cmd :=
  { dom := 0, assoc := 0, w0 := 0x58, w1 := 0, w2 := BitVec.ofNat 64 (sid + gen * 2 ^ 24), w3 := 0, w4 := 0, w5 := 0, w6 := 0, w7 := 0 }

/-- Each session of the tenant that exists takes a place in its order; every other one is skipped (17 R373). -/
def jobBinds (s : State) (i : Nat) (j : CkpJob) : State :=
  let good := j.toBind.filter (fun (k : Nat × Nat) => (liveSes s k.1 k.2).any (fun x => x.d.tenant == j.tenant))
  let s := updJob s i (fun j => { j with toBind := good, skipped := j.skipped + (j.toBind.length - good.length) })
  good.foldl (fun s (k : Nat × Nat) =>
    let w : Wait := { cmd := captureCmd k.1 k.2, data := [], time := s.time.now, stroke := s.stk.number }
    let s := updSes s k.1 (fun x => { x with order := x.order ++ [w] })
    if mayBind s then serve s k.1 else s) s

/-- A job takes its checkpoint epoch and its Mover entry (17 R370, R372; 20 R435). Answers `none` where no entry is free. -/
def jobStart (s : State) (i : Nat) (j : CkpJob) : Option State :=
  let cls := if rdF s R.CKP_CFG_CLASS = 2 then 2 else 3
  if j.op.isNone && !opRoom s cls j.tenant then none
  else
    let (op, s) := match j.op with
      | some op => (op, s)
      | none => takeOp s { kind := 0xB, cls := cls, src := 0, dst := 2, tenant := j.tenant, object := 0, isSes := false, start := 0, cmd := j.cmd }
    let x := ckpTgt s j.tenant
    let (epoch, s) := if j.toHost then
        (2 ^ 63 + (s.sec.exportCtr + 1), { s with sec := { s.sec with exportCtr := s.sec.exportCtr + 1 } })
      else (x.next, setTgt s j.tenant { x with next := x.next + 1 })
    let j := { j with op := some op, epoch := epoch, started := true }
    let s := updJob s i (fun _ => j)
    let s := wantPages s j ((j.recs.map (fun r => r.pages.map (fun (e : Nat × Bool) => e.1))).flatten)
    some (pump (jobBinds s i j) i)

/-! ### Ends (17 R378, R381, R382) -/

/-- A command of the Checkpoint engine ends with a code. -/
def ckpRefuse (s : State) (c : Cmd) (code : Nat) : State :=
  if c.opcode = 0x17 then refuseSes s c code else finishCmd (recordErr s (codeBlk code) 0 0 code) c code

/-- REMOTE requests of a session that no checkpoint will serve complete as ACK (17 R381). -/
def remoteGiveUp (s : State) (sid gen : Nat) : State :=
  match liveSes s sid gen with
  | none => s
  | some x =>
    let due := x.durWaits.filter (fun w => w.cls = 2)
    let s := due.foldl (fun s w => waitDone s x.d w (min 1 (durReached x.d w.epoch)) w.epoch w.positions) s
    updSes s sid (fun x => { x with durWaits := x.durWaits.filter (fun w => w.cls != 2) })

/-- The job of a number leaves, with its Mover entry and the places it still has in orders. -/
def jobGone (s : State) (i : Nat) (j : CkpJob) : State :=
  let s := match j.op with | some op => freeOp s op | none => s
  let s := j.toBind.foldl (fun s (k : Nat × Nat) => updSes s k.1 (fun x => { x with
    order := if x.d.gen = k.2 then eraseFirst (fun w => w.cmd == captureCmd k.1 k.2) x.order else x.order })) s
  { s with
    ckp := { s.ckp with jobs := mapErase s.ckp.jobs i }
    lnk := { s.lnk with writes := s.lnk.writes.filter (fun (e : Nat × RdmaWrite) => match e.2.use with
      | .shard k _ => k != i
      | .manifest k _ => k != i
      | .anchor k => k != i
      | _ => true) } }
where
  eraseFirst (p : Wait → Bool) : List Wait → List Wait
    | [] => []
    | w :: ws => if p w then ws else w :: eraseFirst p ws

/-- A job fails: no manifest, bases unchanged, its shards abandoned (17 R382); the log goes on where it stood. -/
def jobFail (s : State) (i : Nat) (code : Nat) : State :=
  match jobOf s i with
  | none => s
  | some j =>
    let s := jobGone s i j
    let x := ckpTgt s j.tenant
    let s := if j.placed && !j.toHost then setTgt s j.tenant { x with write := j.first } else s
    let s := if code = E_CKP_FULL then raiseBit s .ckp 0 3 .plain else s
    let s := match j.cmd with | some c => ckpRefuse s c code | none => s
    if j.remote then
      (j.toBind ++ j.recs.map (fun r => (r.sid, r.gen))).foldl (fun s (k : Nat × Nat) => remoteGiveUp s k.1 k.2) s
    else s

/-- The next checkpoint of a target starts once no other runs (17 R372). -/
def jobNextGo (t : Nat) : Nat → State → State
  | 0, s => s
  | fuel + 1, s =>
    let mine := s.ckp.jobs.filter (fun (e : Nat × CkpJob) => e.2.tenant == t && !e.2.toHost)
    if !ckpEnabled s t || !(ckpTgt s t).ready || mine.any (fun e => e.2.started) then s
    else
      match mine.head? with
      | none => s
      | some (i, j) =>
        match jobStart s i j with
        | some s => s
        | none => jobNextGo t fuel (jobFail (opFull s) i E_OP_FULL)

def jobNext (s : State) (t : Nat) : State := jobNextGo t (s.ckp.jobs.length + 1) s

/-- The lowest checkpoint epoch that a record refers to, directly or through its base chain (17 R371). -/
def recOldest (bases : Map CkpBase) (epoch : Nat) (r : CkpRec) : Nat :=
  let direct := (mapVals r.refs).foldl (fun n (e : CkpRef) => min n e.ckpt) epoch
  if r.diff then (match mapGet bases (baseKey r.sid r.gen) with
    | some b => min direct (min b.oldest b.ckpt)
    | none => direct)
  else direct

/-- A checkpoint is complete: the log, the digest store, the bases (17 R370, R375, R376), the completion of CHECKPOINT or EXPORT. -/
def jobComplete (s : State) (i : Nat) : State :=
  match jobOf s i with
  | none => s
  | some j =>
    let s := jobGone s i j
    let s := if j.toHost then s
      else
        let x := ckpTgt s j.tenant
        let room := rdB s R.CKP_TGT_DIGESTS_CAPACITY j.tenant - x.digests.length
        let live := fun (r : CkpRec) => (liveSes s r.sid r.gen).isSome
        setTgt s j.tenant { x with
          complete := j.epoch
          log := x.log ++ [(j.epoch, j.first, j.manifestAt + j.manifestLen)]
          digests := x.digests ++ j.seen.take room
          bases := (j.recs.filter live).foldl (fun m r => mapSet m (baseKey r.sid r.gen) {
            ckpt := j.epoch, positions := r.positions, depth := r.depth, oldest := recOldest x.bases j.epoch r }) x.bases }
    let s := cnt s R.CKP_DEDUP_SKIPPED j.skipped
    let s := match j.cmd with
      | none => s
      | some c =>
        if j.isExport then
          match liveSes s (cmdSid c) (cmdGen c), j.recs.head? with
          | some x, some r => stageDone s {
              cmd := c, status := E_OK, c0 := sesWords x.d (durReached x.d r.epoch) (durable s), c1 := r.epoch
              c2 := r.positions % 2 ^ 32 + j.written % 2 ^ 32 * 2 ^ 32 }
          | none, some r =>
            if recWhole r then stageDone s {
              cmd := c, status := E_OK, c0 := r.sid + r.gen * 2 ^ 24 + b2n (durable s) * 2 ^ 34 + 4 * 2 ^ 35, c1 := r.epoch
              c2 := r.positions % 2 ^ 32 + j.written % 2 ^ 32 * 2 ^ 32 }
            else refuseSes s c E_SES_GONE
          | _, _ => refuseSes s c E_SES_GONE
        else stageDone s {
          cmd := c, status := E_OK, c0 := j.epoch, c1 := j.manifestAt, c2 := j.written % 2 ^ 32 + j.dedup % 2 ^ 32 * 2 ^ 32
          c3 := j.recs.length + j.skipped * 2 ^ 32 }
    jobNext s j.tenant

/-! ### Acknowledged writes (17 R377, R378) -/

/-- The last write of a shard has been acknowledged. -/
def shardAck (s : State) (i bytes : Nat) : State :=
  match jobOf s i with
  | none => s
  | some j =>
    let s := if j.toHost then s else cnt s R.CKP_BYTES bytes
    pump (updJob s i (fun j => { j with pendingWrites := j.pendingWrites - 1 })) i

/-- The manifest is complete: its epochs reach the sessions at the next finish, and the anchor slot is written (17 R369, R381). -/
def manifestAck (s : State) (i bytes : Nat) : State :=
  match jobOf s i with
  | none => s
  | some j =>
    let s := updJob s i (fun j => { j with pendingWrites := 0, acked := true })
    if j.toHost then jobComplete s i
    else
      let s := cnt s R.CKP_BYTES bytes
      let s := { s with ckp := { s.ckp with arrived := s.ckp.arrived ++ j.recs.map (fun r => (r.sid, r.gen, r.epoch, r.positions)) } }
      issueWrite s {
        qp := tgtQp s j.tenant, rkey := tgtRkey s j.tenant, addr := tgtAddr s j.tenant + 32 * (j.epoch % 2040)
        data := leBytes 8 j.epoch ++ leBytes 8 j.manifestAt ++ leBytes 8 j.manifestLen ++ leBytes 8 0, use := .anchor i }

def anchorAck (s : State) (i : Nat) : State := jobComplete (cnt s R.CKP_BYTES 32) i

/-! ### Targets (17 R368 to R371, R388) -/

/-- The slots of an anchor: checkpoint epoch, log offset and length, of those in use, lowest epoch first. -/
def anchorSlots (bs : List Byte) : List (Nat × Nat × Nat) :=
  sortBy (fun a b => decide (a.1 ≤ b.1)) (((List.range 2040).map (fun i => (u64 bs (32 * i), u64 bs (32 * i + 8), u64 bs (32 * i + 16)))).filter
    (fun (e : Nat × Nat × Nat) => e.1 != 0))

/-- Where the shards of a checkpoint start: behind the manifest of the one before it in the anchor, or at the log's start. -/
def ckpStarts (slots : List (Nat × Nat × Nat)) : List (Nat × Nat × Nat) :=
  (slots.zip (65536 :: slots.map (fun (e : Nat × Nat × Nat) => e.2.1 + e.2.2))).map (fun (e : (Nat × Nat × Nat) × Nat) =>
    (e.1.1, e.2, e.1.2.1 + e.1.2.2))

/-- The anchor of a target that was enabled has been read (17 R370): numbering goes on behind the highest epoch found. -/
def anchorRead (s : State) (t : Nat) (data : List Byte) : State :=
  let slots := anchorSlots data
  let x := ckpTgt s t
  let x := match slots.getLast? with
    | none => { x with next := 1, write := 65536, complete := 0, log := [] }
    | some (e, off, len) => { x with next := e + 1, write := off + len, complete := e, log := ckpStarts slots }
  jobNext (setTgt s t { x with ready := true }) t

/-- Why a write of `ENABLE` = 1 is refused (17 R368; 20 R432): the queue pair must be of a domain with a right to the tenant, the region at
least 128 MiB long, and the tenant must hold a checkpoint key. -/
def enableCode (s : State) (t : Nat) : Option Nat :=
  let qpBad := match qpOf s (tgtQp s t) with | some q => !domTenant s q.dom t | none => true
  if qpBad || decide (tgtLen s t < 2 ^ 27) then some E_CKP_INVALID
  else if !ckpHasKey s t then some E_SEC_NOKEY
  else none

/-- A target takes its new `ENABLE` at the finish (17 R388). A disabled target keeps no log, store or base, and its checkpoints end. -/
def tgtTurn (s : State) (t : Nat) (on : Bool) : State :=
  let x := ckpTgt s t
  if on then
    issueRead (wrB (setTgt s t { x with turn := none, ready := false }) R.CKP_TGT0_ENABLE t 1) {
      qp := tgtQp s t, rkey := tgtRkey s t, addr := tgtAddr s t, len := 65536, use := .anchor t }
  else
    let s := wrB (setTgt s t {}) R.CKP_TGT0_ENABLE t 0
    (s.ckp.jobs.filter (fun (e : Nat × CkpJob) => e.2.tenant == t && !e.2.toHost)).foldl (fun s e => jobFail s e.1 E_CKP_TARGET) s

/-- Old checkpoints are released (17 R371). -/
def ckpRelease (s : State) (t r : Nat) : State :=
  let x := ckpTgt s t
  setTgt (wrB s R.CKP_TGT_RELEASE t r) t { x with
    log := x.log.filter (fun (e : Nat × Nat × Nat) => decide (r ≤ e.1))
    digests := x.digests.filter (fun (e : List Byte × CkpRef) => decide (r ≤ e.2.ckpt))
    bases := x.bases.filter (fun (e : Nat × CkpBase) => decide (r ≤ e.2.ckpt)) }

/-! ### Pages in Tier N (17 R385) -/

/-- The latest release of a tenant's target. -/
def ckpKept (s : State) (t ckpt : Nat) : Bool := decide (rdB s R.CKP_TGT_RELEASE t ≤ ckpt)

/-- Pages that the Mover's slices granted and that stand in Tier N only are read from there; a page whose shard was released is
lost. -/
def lazyReads (s : State) : State :=
  let due := ((s.tier.ops.map (fun (e : Nat × OpEnt) => e.2.flying)).flatten.eraseDups).filter (fun p => lazyPage s p &&
    !s.lnk.reads.any (fun (r : Nat × RdmaRead) => r.2.use == .copyUp p))
  due.foldl (fun s p =>
    match mapGet s.ckp.lazy p with
    | none => s
    | some z =>
      if !ckpKept s z.tenant z.ref.ckpt then losePage s p
      else if !ckpEnabled s z.tenant then s
      else issueRead s { qp := tgtQp s z.tenant, rkey := tgtRkey s z.tenant, addr := tgtAddr s z.tenant + z.off, len := 65536, use := .copyUp p }) s

/-- The image of a body: decrypted, and none where its tag or its digest does not match (17 R385). -/
def openBody (key tag digest : List Byte) (shard slot : Nat) (data : List Byte) : Option (Map Byte) :=
  let plain := gcmCrypt key (bodyNonce shard slot) data
  if gcmTag key (bodyNonce shard slot) [] data == tag && sha256 plain == digest then some (cellsSet [] 0 plain) else none

/-- A lazy page has been read: it lands at the finish, or it is lost. -/
def lazyArrived (s : State) (p : Nat) (data : List Byte) : State :=
  match mapGet s.ckp.lazy p with
  | none => s
  | some z =>
    match openBody z.key z.tag z.digest z.ref.shard z.ref.slot data with
    | none => losePage s p
    | some cells =>
      (s.tier.ops.filter (fun (e : Nat × OpEnt) => e.2.flying.contains p)).foldl (fun s (e : Nat × OpEnt) =>
        stage (setOp s e.1 (opStep e.2 p 0)) (.landed e.1 p 0 0 cells)) s

/-! ### Catch and finish -/

/-- Jobs that can start do so: an export to host memory at once, the others in their target's turn. -/
def jobsBegin (s : State) : State :=
  s.ckp.jobs.foldl (fun s (e : Nat × CkpJob) =>
    if e.2.started then s
    else if e.2.toHost then (jobStart s e.1 e.2).getD s
    else jobNext s e.2.tenant) s

/-- At a catch, once the sessions have bound: the device time of a checkpoint's first binding catch (17 Table 17-3, `MF6.TIME`). -/
def ckpCatch (s : State) : State :=
  let s := { s with ckp := { s.ckp with jobs := mapAll s.ckp.jobs (fun _ j =>
    if j.timed || j.recs.isEmpty then j else { j with timed := true, time := s.time.now }) } }
  jobsBegin s

/-- REMOTE_EPOCH takes the epochs of complete manifests (17 R381). -/
def remoteFinish (s : State) : State :=
  let s1 := s.ckp.arrived.foldl (fun s (e : Nat × Nat × Nat × Nat) =>
    match liveSes s e.1 e.2.1 with
    | some x =>
      if x.d.remoteEpoch < e.2.2.1 then markJournal (setSes s e.1 { x with d := { x.d with remoteEpoch := e.2.2.1 }, remotePos := e.2.2.2 }) e.1
      else s
    | none => s) s
  { s1 with ckp := { s1.ckp with arrived := [] } }

/-- The REMOTE requests of a stroke become one checkpoint per tenant (17 R381). -/
def remoteStart (s : State) : State :=
  let rs := s.ckp.remote.eraseDups
  let s := { s with ckp := { s.ckp with remote := [] } }
  ((rs.map (fun (e : Nat × Nat) => e.1)).eraseDups).foldl (fun s t =>
    let ks := rs.filterMap (fun (e : Nat × Nat) => if e.1 = t then (sesOf s e.2).map (fun x => (e.2, x.d.gen)) else none)
    jobNext (addJob s { tenant := t, cmd := none, remote := true, toBind := ks }) t) s

/-- The figures of the `CKP` page (17 Table 17-9). -/
def ckpFigures (s : State) : State :=
  s.ckp.tgts.foldl (fun s (e : Nat × CkpTgt) =>
    let old := match (mapVals e.2.bases).map (fun (b : CkpBase) => min b.oldest b.ckpt) with
      | [] => 0
      | n :: ns => ns.foldl min n
    wrB (wrB (wrB (wrB s R.CKP_TGT_WRITE e.1 (if e.2.ready then e.2.write else 0)) R.CKP_TGT_EPOCH e.1 e.2.next) R.CKP_TGT_OLDEST e.1 old)
      R.CKP_TGT_DIGESTS_USED e.1 e.2.digests.length) s

/-- Everything of this chapter at a finish, after the pages read in the stroke have been taken: new settings of `ENABLE`, shards, strokes
waited for room, figures. -/
def ckpFinish (s : State) : State :=
  let s := s.ckp.tgts.foldl (fun s (e : Nat × CkpTgt) => match e.2.turn with | some on => tgtTurn s e.1 on | none => s) s
  let s := (mapKeys s.ckp.jobs).foldl pump (jobsBegin s)
  let s := { s with ckp := { s.ckp with
    jobs := mapAll s.ckp.jobs (fun _ j => if j.blocked then { j with waited := j.waited + 1 } else j)
    lazy := s.ckp.lazy.filter (fun (e : Nat × LazyPage) => lazyPage s e.1) } }
  ckpFigures s

/-! ### The commands -/

/-- The sessions that a CHECKPOINT names (17 Table 17-1). -/
def ckpSessions (s : State) (c : Cmd) (data : List Byte) : List (Nat × Nat) :=
  let t := c.f2 0 12
  match c.f2 12 2 with
  | 0 => s.ses.tab.filterMap (fun (e : Nat × Ses) => if e.2.d.tenant = t then some (e.1, e.2.d.gen) else none)
  | 1 => (fieldsAt 4 data 0 (c.f5 0 32)).map (fun v => (v % 2 ^ 24, v / 2 ^ 24))
  | _ => [(c.f5 32 24, c.f5 56 8)]

/-- CHECKPOINT (17 R372). -/
def startCheckpoint (c : Cmd) (data : List Byte) (s : State) : State :=
  let t := c.f2 0 12
  let scope := c.f2 12 2
  if !ckpEnabled s t then ckpRefuse s c E_CKP_TARGET
  else if !domTenant s c.dom t then ckpRefuse s c E_CKP_DENIED
  else if scope = 3 || (scope = 1 && (c.f5 0 32 = 0 || decide (262144 < c.f5 0 32))) then ckpRefuse s c E_CKP_INVALID
  else
    match (if scope = 1 then qpCheck s c.dom (c.f4 32 16) else none) with
    | some e => ckpRefuse s c e
    | none =>
      jobNext (addJob s { tenant := t, cmd := some c, full := c.f2 16 1 = 1, toBind := ckpSessions s c data }) t

def execCheckpoint (c : Cmd) (data : List Byte) (s : State) : Host.Outcome State Fault Refusal :=
  .next (submit s c data startCheckpoint)

/-- CKP_WAIT_EXPIRY (17 R381, R382): the tenant's running checkpoint has waited `CKP_CFG.WAIT` strokes for room and still has none. -/
def ckpExpiry (s : State) (t : Nat) : State :=
  match s.ckp.jobs.find? (fun (e : Nat × CkpJob) => e.2.tenant == t && e.2.started && !e.2.toHost) with
  | none => s
  | some (i, j) =>
    if j.blocked && decide (rdF s R.CKP_CFG_WAIT ≤ j.waited) then jobNext (jobFail s i E_CKP_FULL) t else s

def execCkpWaitExpiry (tenant : Nat) (s : State) : Host.Outcome State Fault Refusal := .next (ckpExpiry s tenant)

/-- A queue pair has entered error (17 R382, 15 R353): the checkpoints and exports that use it fail. -/
def ckpQpError (s : State) (q : Nat) : State :=
  let bad := s.ckp.jobs.filter (fun (e : Nat × CkpJob) =>
    if e.2.toHost then e.2.cmd.any (fun c => c.f6 32 16 = q) else ckpEnabled s e.2.tenant && tgtQp s e.2.tenant = q)
  bad.foldl (fun s e => jobFail s e.1 E_QP_ERROR) s

end Sys2Proof.Machine
end

