-- ==== Sys2Proof/Machine/CkpRest.lean ====
section
/-! DEFINITION. Restoring sessions from checkpoints (17_checkpoints.md R383 to R386). -/

namespace Sys2Proof.Machine

def restOf (s : State) (id : Nat) : Option RestoreJob := mapGet s.ckp.restores id
def setRest (s : State) (id : Nat) (r : RestoreJob) : State := { s with ckp := { s.ckp with restores := mapSet s.ckp.restores id r } }

/-- A read of the tenant's target for a restore, by its offset. -/
def restRead (s : State) (id : Nat) (r : RestoreJob) (off len : Nat) : State :=
  let t := r.cmd.f2 0 12
  issueRead s { qp := tgtQp s t, rkey := tgtRkey s t, addr := tgtAddr s t + off, len := len, use := .restore id off }

/-! ### Reading manifests (17 R378, R379, R383) -/

def refOf (bs : List Byte) (at_ : Nat) : CkpRef := { ckpt := u64 bs at_, shard := u32 bs (at_ + 8), slot := u8 bs (at_ + 12) }

/-- A session record in clear. -/
def recOf (bs : List Byte) : RestRec :=
  let w := fun i => u64 bs (8 * i)
  { sid := bitsOf (w 0) 0 24, gen := bitsOf (w 0) 24 8, diff := bitOf (w 0) 32, depth := bitsOf (w 0) 40 4, epoch := w 1, baseCkpt := w 2
    positions := bitsOf (w 3) 0 32, basePos := bitsOf (w 3) 32 32, desc := (List.range 16).map (fun i => u64 bs (64 + 8 * i))
    grm := bytesAt bs 192 512, txt := bytesAt bs 704 2304, refs := (List.range (bitsOf (w 4) 0 32)).map (fun i => refOf bs (3008 + 16 * i)) }

/-- The records of a manifest from record n at an offset: each decrypts with its own nonce and carries its tag. Answers the records,
whether every tag is good, and where they end. -/
def recsOf (key bs : List Byte) : Nat → Nat → Nat → List RestRec × Bool × Nat
  | 0, _, at_ => ([], true, at_)
  | left + 1, n, at_ =>
    let refs := u32 (gcmCrypt key (recNonce n) (bytesAt bs at_ 64)) 32
    let len := 3008 + 16 * refs
    let c := bytesAt bs at_ len
    let good := c.length = len ∧ bytesAt bs (at_ + len) 16 = gcmTag key (recNonce n) [] c
    if good then
      let (rs, ok, e) := recsOf key bs left (n + 1) (at_ + len + 16)
      (recOf (gcmCrypt key (recNonce n) c) :: rs, ok, e)
    else ([], false, at_)

/-- The words of the tenant's key of a generation, if it is held (20 R432). -/
def keyOfGen (s : State) (t gen : Nat) : Option (List Nat) :=
  let k := ckeyOf s t
  if k.cur = some gen then some k.curKey else if k.prev = some gen then some k.prevKey else none

/-- Whether a signature verifies against a key that `CKP_TRUST` lists; four zero words list none. -/
def trusted (s : State) (msg sig : List Byte) : Bool :=
  [0, 4].any (fun b =>
    let h := (List.range 4).map (fun i => rdFx s R.CKP_TRUST 0 0 (b + i))
    h.any (· != 0) && Config.pssOk h msg sig)

/-- A manifest read from the target, complete or not (17 R383). -/
def manifestOf (s : State) (t off : Nat) (bs : List Byte) : Manifest :=
  let w := fun i => u64 bs (8 * i)
  let epoch := w 1
  let head := bitsOf (w 0) 0 48 = 0x57434B4D + 2 ^ 32 ∧ bitsOf (w 3) 0 12 = t ∧ w 5 = bs.length ∧ 448 ≤ bs.length
  match keyOfGen s t (bitsOf (w 3) 16 8) with
  | none => { epoch := epoch, serial := w 2, off := off, complete := false, shards := 0, recs := [] }
  | some key =>
    let (recs, tags, stop) := recsOf (perCkptKey key (w 2) epoch) bs (min (bitsOf (w 3) 32 32) bs.length) 0 64
    let msg := bs.take (bs.length - 384)
    { epoch := epoch, serial := w 2, off := off, shards := bitsOf (w 4) 0 32, recs := recs
      complete := head && tags && decide (stop + 384 = bs.length) && trusted s msg (bs.drop (bs.length - 384)) }

/-! ### Shard heads (17 R377, R384) -/

/-- A shard head that is good: magic, checkpoint epoch, shard, tenant and tag under a key that is held. -/
def headOf (s : State) (t epoch shard off : Nat) (bs : List Byte) : Option ShardHead :=
  let w := fun i => u64 bs (8 * i)
  let pages := bitsOf (w 2) 48 8
  let fine := bitsOf (w 0) 0 48 = 0x57434B53 + 2 ^ 32 ∧ w 1 = epoch ∧ bitsOf (w 2) 0 32 = shard ∧ bitsOf (w 2) 32 12 = t ∧ 1 ≤ pages
  let dir := bytesAt bs 64 (48 * pages)
  let keys := ([(ckeyOf s t).cur, (ckeyOf s t).prev].filterMap (fun g => g.bind (keyOfGen s t))).map (fun k => perCkptKey k (w 3) epoch)
  let opens := fun key => bytesAt bs 48 16 == gcmTag key (headNonce shard) (bs.take 48 ++ List.replicate 16 0 ++ dir) []
  if fine then
    (keys.find? opens).map (fun key => {
      ckpt := epoch, shard := shard, off := off, serial := w 3, key := key
      dir := (List.range pages).map (fun i => (bytesAt dir (48 * i) 32, bytesAt dir (48 * i + 32) 16)) })
  else none

def headAt (r : RestoreJob) (e : CkpRef) : Option ShardHead := r.heads.find? (fun h => h.ckpt == e.ckpt && h.shard == e.shard)

/-- The digest, tag and place of the body that a reference names. -/
def bodyAt (r : RestoreJob) (e : CkpRef) : Option (ShardHead × List Byte × List Byte × Nat) :=
  (headAt r e).bind (fun h => (h.dir[e.slot]?).map (fun d => (h, d.1, d.2, h.off + 16384 + e.slot * 65536)))

/-! ### Choosing (17 R384) -/

def recIn (m : Manifest) (sid gen : Nat) : Option RestRec := m.recs.find? (fun x => x.sid == sid && x.gen == gen)

/-- The chain of a record through complete manifests of its writer, newest first; none where a base is missing. -/
def chainIn (ms : List Manifest) (serial : Nat) : Nat → RestRec → Option (List RestRec)
  | 0, _ => none
  | fuel + 1, x =>
    if !x.diff then some [x]
    else ((ms.find? (fun m => m.complete && m.serial == serial && m.epoch == x.baseCkpt)).bind (fun m => recIn m x.sid x.gen)).bind
      (fun b => (chainIn ms serial fuel b).map (x :: ·))

/-- Whether every shard that a chain refers to has a good head with an entry for the slot. -/
def chainGood (r : RestoreJob) (ch : List RestRec) : Bool := ch.all (fun x => x.refs.all (fun e => (bodyAt r e).isSome))

/-- The manifests in the order of 17 R384: highest checkpoint epoch first. -/
def newestFirst (ms : List Manifest) : List Manifest := sortBy (fun a b => decide (b.epoch ≤ a.epoch)) ms

/-- The pages of a session from its chain: the newest record that covers a span supplies it. -/
def chainPages (h : PlanHdr) (ch : List RestRec) (positions : Nat) : List CkpRef :=
  let span := 2 ^ h.log2p
  (List.range (ceilDiv positions span * h.layers)).filterMap (fun k =>
    let sp := k / h.layers
    (ch.find? (fun x => decide ((if x.diff then x.basePos / span else 0) ≤ sp) && decide (sp < ceilDiv x.positions span))).bind (fun x =>
      x.refs[k - (if x.diff then x.basePos / span else 0) * h.layers]?))

/-- One session seen: the first manifest that qualifies, or why none does. -/
def chooseSes (s : State) (r : RestoreJob) (serial sid gen : Nat) : RestSes :=
  let named := newestFirst (r.manifests.filter (fun m => m.serial == serial && (recIn m sid gen).isSome))
  let good := named.filter (·.complete)
  let pick := good.findSome? (fun m => (recIn m sid gen).bind (fun x =>
    (chainIn r.manifests serial 17 x).bind (fun ch => if chainGood r ch then some (m, x, ch) else none)))
  let base : RestSes := { serial := serial, sid := sid, gen := gen }
  match pick with
  | none => { base with result := some (if good.isEmpty then 3 else 2) }
  | some (m, x, ch) =>
    let model := bitsOf (x.desc.getD 1 0) 0 32
    let base := { base with
      ckpt := m.epoch, rec_ := some x, model := model
      newer := named.any (fun n => !n.complete && decide (m.epoch < n.epoch))
      oldest := (ch.map (fun (y : RestRec) => y.refs.foldl (fun n (e : CkpRef) => min n e.ckpt) m.epoch)).foldl min m.epoch }
    match planOf s model with
    | none => { base with result := some 4 }
    | some p => { base with src := chainPages p.hdr ch x.positions }

def chooseAll (s : State) (r : RestoreJob) : List RestSes :=
  let keys := ((r.manifests.map (fun m => m.recs.map (fun x => (m.serial, x.sid, x.gen)))).flatten).eraseDups
  keys.map (fun (k : Nat × Nat × Nat) => chooseSes s r k.1 k.2.1 k.2.2)

/-! ### Charges and pages (17 R385, R386) -/

/-- A session whose charge fits takes its Session ID, its page list and its pages (05 R97, R98); none where it must wait. -/
def restCharge (s : State) (r : RestoreJob) (x : RestSes) : Option (RestSes × State) :=
  let t := r.cmd.f2 0 12
  let mode := r.cmd.f2 12 2
  match planOf s x.model, freeSid s with
  | some p, some sid =>
    let n := openPages p.hdr
    let k := x.src.length
    let h := p.hdr
    let l := listPages (capOf h) h.layers
    let q := ceilDiv (k / max 1 h.layers * h.layers * indexBytes h) 65536
    if (chargeFits s t (l + q + (if mode = 0 then k else 0), if mode = 1 then k else 0)).isSome then none
    else
      let root := newListAt s n
      match placePages s root (l + q) t 3 false with
      | none => none
      | some s =>
        let gen := nextGen s sid
        let out := fun base => { x with charged := true, newSid := sid, newGen := gen, root := root, base := base, left := List.range k }
        if mode = 0 then
          (allocPages s k t 1 0 false).map (fun (e : Nat × State) => (out e.1, e.2))
        else
          let base := sasRun s k
          let bare := fun i => { tenant := t, cls := 1, h := false, n := mode = 2, fFrame := if mode = 2 then i % 2 ^ 30 else 0
                                 committed := true, lastWrite := s.stk.number : Pte }
          let s := (List.range k).foldl (fun s i => setPte s (base + i) (bare i)) s
          if mode = 1 then some (out base, addCharge s { owner := sid, tenant := t, tier := 1, pages := k })
          else
            let lazies := ((List.range k).zip x.src).foldl (fun m (e : Nat × CkpRef) => match bodyAt r e.2 with
              | some (h, digest, tag, off) => mapSet m (base + e.1) {
                  tenant := t, ref := e.2, off := off, key := h.key, tag := tag, digest := digest }
              | none => m) s.ckp.lazy
            some ({ out base with left := [] }, { s with ckp := { s.ckp with lazy := lazies } })
  | _, _ => none

/-- Sessions that wait for their charge try it, in their order. -/
def restCharges (s : State) (id : Nat) : State :=
  match restOf s id with
  | none => s
  | some r =>
    (List.range r.sess.length).foldl (fun s i =>
      match restOf s id with
      | none => s
      | some r =>
        match r.sess[i]? with
        | none => s
        | some x =>
          if x.charged || x.result.isSome then s
          else
            match restCharge s r x with
            | none => s
            | some (x, s) => setRest s id { r with sess := setNth r.sess i x }) s

/-- The digest of the page that a session's i-th reference names. -/
def digestAt (r : RestoreJob) (x : RestSes) (i : Nat) : Option (List Byte × Nat) :=
  (x.src[i]?).bind (fun e => (bodyAt r e).map (fun b => (b.2.1, b.2.2.2)))

/-- How many pages of the restore a digest still fills. -/
def digestUses (r : RestoreJob) (d : List Byte) : Nat :=
  sumOf (r.sess.map (fun x => (x.left.filter (fun i => (digestAt r x i).any (fun e => e.1 == d))).length))

/-- The bodies not yet asked for, one for each digest (17 R385). -/
def restWanted (r : RestoreJob) : List (List Byte × Nat) :=
  let all := (r.sess.map (fun x => x.left.filterMap (digestAt r x))).flatten
  let flown := r.flying.filterMap (fun off => (all.find? (fun e => e.2 == off)).map (fun e => e.1))
  all.foldl (fun acc e => if flown.contains e.1 || acc.any (fun a => a.1 == e.1) then acc else acc ++ [e]) []

/-- Reads of page bodies go out, at most 16 at a time (15 R351); into Tier H no more than the Dirty Budget takes (05 R100). -/
def restReads (s : State) (id : Nat) : Nat → State
  | 0 => s
  | fuel + 1 =>
    match restOf s id with
    | none => s
    | some r =>
      match (restWanted r).head? with
      | none => s
      | some (d, off) =>
        let busy := sumOf (r.flying.map (fun o => sumOf (r.sess.map (fun x =>
          (x.left.filter (fun i => (digestAt r x i).any (fun e => e.2 == o))).length))))
        if 16 ≤ r.flying.length || (r.cmd.f2 12 2 = 0 && !dirtyFits s (busy + digestUses r d)) then s
        else restReads (restRead (setRest s id { r with flying := r.flying ++ [off] }) id r off 65536) id fuel

/-- A page of a restored session takes its content: its Tier H frame, or a sealed copy. -/
def restPut (s : State) (mode p owner : Nat) (cells : Map Byte) : State :=
  match pteOf s p with
  | none => s
  | some e =>
    let s := cnt s R.MOV_BYTES_NET 65536
    if mode = 0 then
      updPte (fillFrame s e.hFrame cells) p (fun e => { e with committed := true, ver := (e.ver + 1) % 2 ^ 32, lastWrite := s.stk.number })
    else
      useCharge (putSealed s p { page := p, ver := e.ver, tenant := e.tenant, cls := e.cls, ctr := s.tier.sealCtr + 1, cells := cells }) owner 1 1

/-- A body has arrived: every page with its digest takes it; a page whose digest or tag differs is lost (17 R385). -/
def restBody (s : State) (id off : Nat) (data : List Byte) : State :=
  match restOf s id with
  | none => s
  | some r =>
    let found := r.heads.findSome? (fun h => if h.off + 16384 ≤ off && off < h.off + 16384 + h.dir.length * 65536 then
      (h.dir[(off - h.off - 16384) / 65536]?).map (fun d => (h, (off - h.off - 16384) / 65536, d)) else none)
    let s := setRest s id { r with flying := r.flying.filter (· != off) }
    match found with
    | none => s
    | some (h, slot, d) =>
      let image := openBody h.key d.2 d.1 h.shard slot data
      (List.range r.sess.length).foldl (fun s i =>
        match restOf s id with
        | none => s
        | some r =>
          match r.sess[i]? with
          | none => s
          | some x =>
            let mine := x.left.filter (fun k => (digestAt r x k).any (fun e => e.1 == d.1))
            if mine.isEmpty then s
            else
              let s := mine.foldl (fun s k => match image with
                | some cells => restPut s (r.cmd.f2 12 2) (x.base + k) x.newSid cells
                | none => updPte s (x.base + k) (fun e => { e with lost := true })) s
              let x := { x with
                left := x.left.filter (fun k => !mine.contains k)
                lost := if image.isSome then x.lost else x.lost ++ mine }
              setRest s id { r with sess := setNth r.sess i x }) s

/-! ### Sessions appear (17 R385, R386) -/

/-- The descriptor of a restored session (17 R385): what its record keeps, and what is new. -/
def restDesc (s : State) (r : RestoreJob) (x : RestSes) (y : RestRec) : Desc :=
  let w := fun i => y.desc.getD i 0
  let mode := r.cmd.f2 12 2
  { session := x.newSid, gen := x.newGen, st := if mode = 0 then .waiting else .parked, tenant := r.cmd.f2 0 12
    owner := bitsOf (w 0) 60 4, model := x.model, crew := r.cmd.f2 16 16, domains := bitsOf (w 1) 48 16, epoch := y.epoch
    sealedEpoch := if mode = 1 then y.epoch else 0, remoteEpoch := y.epoch, positions := y.positions, attPolicy := bitsOf (w 5) 36 4
    durDefault := bitsOf (w 5) 40 2, pageRoot := x.root * 65536, priv := x.src.length, lastStroke := s.stk.number, openTime := s.time.now
    damaged := !x.lost.isEmpty }

/-- The grammar record and stream context of a restored session (17 R380, R385). -/
def restText (s : State) (x : RestSes) (y : RestRec) : Nat × Nat × Nat × State :=
  let w := y.desc.getD 10 0
  let table := bitsOf w 16 16
  if bitsOf w 0 16 = 0xFFFF then (0xFFFF, 0xFFFF, 0, s)
  else
    let i := mapFree s.txt.ctxs
    let s := setCtx s i { txtOfBytes x.newSid y.txt with session := some x.newSid }
    if table = 0xFFFF then (i, table, 0, s)
    else
      let k := mapFree s.txt.recs
      let g := grmOfBytes x.newSid y.grm
      let stale := !(grmOf s table).any (fun t => t.version == g.version)
      (i, table, k, setRec s k { g with rejected := g.rejected || stale })

/-- Whether a context and a record are free for the session. -/
def restRoom (s : State) (y : RestRec) : Bool :=
  let w := y.desc.getD 10 0
  bitsOf w 0 16 = 0xFFFF || ((freeCtx s).isSome && (bitsOf w 16 16 = 0xFFFF || (freeRec s).isSome))

/-- A session whose pages are in place comes into being at a finish: a new meter record, its base on the target. -/
def restAppear (s : State) (id i : Nat) : State :=
  match restOf s id with
  | none => s
  | some r =>
    match r.sess[i]? with
    | none => s
    | some x =>
      match x.rec_, planOf s x.model with
      | some y, some p =>
        let (m, s) := newMeter s (r.cmd.f2 0 12)
        let (ctx, table, grm, s) := restText s x y
        let d := { restDesc s r x y with textCtx := ctx, grmTable := table, grmState := grm, meterId := m }
        let h := p.hdr
        let ses : Ses := {
          d := d, layers := h.layers, log2p := h.log2p, capSpans := capOf h, sumPages := openPages h
          pl := (List.range x.src.length).map (fun k => (k, { page := x.base + k, shared := false }))
          toks := (List.range y.positions).map (fun k => (Config.restoredTok m k).toNat) }
        let s := setSes s x.newSid ses
        let s := { s with ses := { s.ses with gens := mapSet s.ses.gens x.newSid ((x.newGen + 1) % 256) } }
        let s := commitPages (writeList s ses (mapKeys ses.pl)) ses.listOf
        let s := courseJoin s x.newSid d.crew
        let s := markJournal (tally s (sesTally ses 3)) x.newSid
        let s := if d.damaged then raiseBit s .ses 0 3 (.named EV_SES_DAMAGED
          [d.session % 2 ^ 24 + d.gen % 256 * 2 ^ 24, d.epoch] (maskDoms d.domains)) else s
        let t := ckpTgt s d.tenant
        let s := setTgt s d.tenant { t with
          digests := []
          bases := mapSet t.bases (baseKey x.newSid x.newGen) { ckpt := x.ckpt, positions := y.positions, depth := y.depth, oldest := x.oldest } }
        setRest (dropCharges s x.newSid) id { r with sess := setNth r.sess i { x with up := true, result := some (b2n x.newer) } }
      | _, _ => s

/-! ### The report and the end (17 R386) -/

/-- A report entry (17 Table 17-6). -/
def reportEntry (x : RestSes) : List Byte :=
  leBytes 4 (x.sid + x.gen * 2 ^ 24) ++ leBytes 4 (if x.up then x.newSid + x.newGen * 2 ^ 24 else 0) ++
    leBytes 8 (if x.up then x.ckpt else 0) ++ leBytes 8 (if x.up then x.rec_.elim 0 (·.epoch) else 0) ++ leBytes 8 (x.result.getD 0)

/-- The completion of a RESTORE. -/
def restDone (r : RestoreJob) : Done :=
  let up := (r.sess.filter (·.up)).length
  let not_ := r.sess.length - up
  { cmd := r.cmd
    status := if !r.manifests.any (·.complete) then E_RESTORE_NONE else if 0 < not_ then E_RESTORE_PART else E_OK
    c0 := up + not_ * 2 ^ 32, c1 := maxOf ((r.sess.filter (·.up)).map (·.ckpt)) }

/-- Every session has its result: the report is written, and the completion follows it. -/
def restReport (s : State) (id : Nat) (r : RestoreJob) : State :=
  let d := restDone r
  let s := match r.op with | some op => freeOp s op | none => s
  let s := { s with ckp := { s.ckp with restores := mapErase s.ckp.restores id } }
  let s := if d.status = E_OK then s else recordErr s .ckp 0 0 d.status
  let s := if d.status = E_RESTORE_PART then raiseBit s .ckp 0 2 .plain else s
  if r.sess.isEmpty then stageDone s d
  else issueWrite s {
    qp := r.cmd.f4 32 16, rkey := r.cmd.f4 0 32, addr := r.cmd.w6.toNat, data := (r.sess.map reportEntry).flatten, use := .recovery d }

/-- What a restore can do once its manifests and heads are read: charges, reads of pages. -/
def restGo (s : State) (id : Nat) : State :=
  match restOf s id with
  | none => s
  | some r => if r.stage == .pages then restReads (restCharges s id) id 16 else s

/-- At a finish (17 R386): sessions whose pages are in place appear while the Umpire can count them (19 R406), and a restore with every
result reports. -/
def restFinish (s : State) : State :=
  (mapKeys s.ckp.restores).foldl (fun s id =>
    match restOf s id with
    | none => s
    | some r =>
      if r.stage != .pages then s
      else
        let s := (List.range r.sess.length).foldl (fun s i =>
          match (restOf s id).bind (fun r => r.sess[i]?) with
          | some x => if x.charged && !x.up && x.left.isEmpty && umpUp s && x.rec_.any (restRoom s) then restAppear s id i else s
          | none => s) s
        let s := match restOf s id with
          | some r => if r.sess.any (fun x => !x.charged && x.result.isNone) then setRest s id { r with waited := r.waited + 1 } else s
          | none => s
        match restOf s id with
        | some r => if r.sess.all (fun x => x.result.isSome) then restReport s id r else restGo s id
        | none => s) s

/-! ### The stages of reading -/

/-- Every head that a reference of a complete manifest asks for has been read or could not be: the sessions are chosen. -/
def restChosen (s : State) (id : Nat) (r : RestoreJob) : State :=
  let r := { r with stage := .pages, sess := chooseAll s r }
  restGo (setRest s id r) id

/-- The next head to read, or the choice. -/
def restHeads (s : State) (id : Nat) (r : RestoreJob) : State :=
  match r.walks with
  | [] => restChosen s id r
  | (_, _, off) :: _ => restRead (setRest s id { r with stage := .heads }) id r off 16384

/-- The walks over the shards that complete manifests refer to: each checkpoint's shards follow the manifest of the checkpoint before it. -/
def restWalks (r : RestoreJob) : List (Nat × Nat × Nat) :=
  let epochs := (((r.manifests.filter (·.complete)).map (fun m => m.recs.map (fun x => x.refs.map (·.ckpt)))).flatten.flatten).eraseDups
  epochs.map (fun e => (e, 0, ((ckpStarts r.anchor).find? (fun a => a.1 == e)).elim 65536 (fun a => a.2.1)))

/-- The last shard of a checkpoint that a reference asks for. -/
def lastShard (r : RestoreJob) (epoch : Nat) : Nat :=
  maxOf ((r.manifests.map (fun m => m.recs.map (fun x => (x.refs.filter (fun e => e.ckpt == epoch)).map (·.shard)))).flatten.flatten)

/-- The next manifest to read, or the heads. -/
def restManifests (s : State) (id : Nat) (r : RestoreJob) : State :=
  match r.todo with
  | [] => restHeads s id { r with walks := restWalks r }
  | off :: _ => restRead (setRest s id { r with stage := .manifests }) id r off 64

/-- Bytes of the target have arrived for a restore. -/
def restArrived (s : State) (id off : Nat) (data : List Byte) : State :=
  match restOf s id with
  | none => s
  | some r =>
    let t := r.cmd.f2 0 12
    match r.stage with
    | .anchor =>
      let slots := anchorSlots data
      restManifests s id { r with anchor := slots, todo := if r.cmd.w3.toNat = 0 then slots.map (·.2.1) else r.list }
    | .manifests =>
      let bytes := u64 data 40
      if data.length = 64 && bitsOf (u64 data 0) 0 48 = 0x57434B4D + 2 ^ 32 && decide (448 ≤ bytes) && decide (off + bytes ≤ tgtLen s t) then
        restRead s id r off bytes
      else
        let m := if data.length = 64 then { epoch := u64 data 8, serial := u64 data 16, off := off, complete := false, shards := 0, recs := [] }
          else manifestOf s t off data
        restManifests s id { r with todo := r.todo.drop 1, manifests := r.manifests ++ [m] }
    | .heads =>
      match r.walks with
      | [] => restChosen s id r
      | (epoch, shard, _) :: rest =>
        match headOf s t epoch shard off data with
        | some h =>
          let more := if shard < lastShard r epoch then [(epoch, shard + 1, off + 16384 + h.dir.length * 65536)] else []
          restHeads s id { r with heads := r.heads ++ [h], walks := more ++ rest }
        | none => restHeads s id { r with walks := (if off = 65536 then [] else [(epoch, shard, 65536)]) ++ rest }
    | _ => restGo (restBody s id off data) id

/-! ### The command -/

/-- RESTORE (17 R383). -/
def startRestore (c : Cmd) (data : List Byte) (s : State) : State :=
  let t := c.f2 0 12
  if !ckpEnabled s t then ckpRefuse s c E_CKP_TARGET
  else if !domTenant s c.dom t then ckpRefuse s c E_CKP_DENIED
  else if c.f2 12 2 = 3 || (c.w3.toNat != 0 && (c.f5 0 11 = 0 || decide (2040 < c.f5 0 11))) then ckpRefuse s c E_CKP_INVALID
  else
    match qpCheck s c.dom (c.f4 32 16) with
    | some e => ckpRefuse s c e
    | none =>
      if !opRoom s 2 t then finishCmd (opFull s) c E_OP_FULL
      else
        let (op, s) := takeOp s {
          kind := 0xC, cls := 2, src := 2, dst := if c.f2 12 2 = 1 then 1 else 0, tenant := t, object := 0, isSes := false, start := 0
          cmd := some c }
        let id := mapFree s.ckp.restores
        let r : RestoreJob := { cmd := c, list := fieldsAt 8 data 0 (c.f5 0 11), op := some op }
        restRead (setRest s id r) id r 0 65536

def execRestore (c : Cmd) (data : List Byte) (s : State) : Host.Outcome State Fault Refusal := .next (submit s c data startRestore)

/-- QUOTA_WAIT_EXPIRY of a restore (05 R98, 17 R386): sessions whose charge still does not fit are reported and left. -/
def restExpiry (s : State) (id : Nat) : State :=
  let s := restCharges s id
  match restOf s id with
  | none => s
  | some r =>
    if r.stage == .pages && decide (rdF s R.TIER_CFG_QUOTA_WAIT ≤ r.waited) then
      setRest s id { r with sess := r.sess.map (fun x => if !x.charged && x.result.isNone then { x with result := some 5 } else x) }
    else s

/-- A restore whose queue pair entered error ends (15 R353): what it had not brought to its end is given back. -/
def restFail (s : State) (id code : Nat) : State :=
  match restOf s id with
  | none => s
  | some r =>
    let s := (r.sess.filter (fun x => x.charged && !x.up)).foldl (fun s x =>
      let n := match planOf s x.model with | some p => openPages p.hdr | none => 0
      dropCharges (freePages (freePages s ((List.range x.src.length).map (x.base + ·))) (((List.range n).map (x.root + ·)).filter (fun p => (pteOf s p).isSome))) x.newSid) s
    let s := match r.op with | some op => freeOp s op | none => s
    ckpRefuse { s with
      ckp := { s.ckp with restores := mapErase s.ckp.restores id }
      lnk := { s.lnk with reads := s.lnk.reads.filter (fun (e : Nat × RdmaRead) => match e.2.use with
        | .restore k _ => k != id
        | _ => true) } } r.cmd code

/-- The restores that use a queue pair end with it. -/
def restQpError (s : State) (q : Nat) : State :=
  (s.ckp.restores.filter (fun (e : Nat × RestoreJob) =>
    e.2.cmd.f4 32 16 = q || tgtQp s (e.2.cmd.f2 0 12) = q)).foldl (fun s e => restFail s e.1 E_QP_ERROR) s

end Sys2Proof.Machine
end

