-- ==== Sys2Proof/Machine/Power.lean ====
section
/-! DEFINITION. The power block (18_power_and_hold_water.md): the input, the current factor, the hold-up test and the Dirty Budget, the
system journal, and the start of the Hold-water sequence. -/

namespace Sys2Proof.Machine

/-! ### The input (18 R389, R390) -/

/-- The input voltage is seen. -/
def seeVolt (s : State) (mv : Nat) : State :=
  wrF { s with mod := { s.mod with inputMv := mv } } R.PWR_IN_VOLT_MV (min mv 65535)

/-- `EV_PWR_RANGE` with the word `PWR_IN` (18 R401). -/
def rangeEvent (s : State) : State := raiseBit s .pwr 0 3 (.tied EV_PWR_RANGE [rdWord s .pwr 0 0 0x100])

/-- INPUT_RANGE_LOW: 50 V to below 54 V for 1 ms. -/
def rangeLow (s : State) (mv : Nat) : State :=
  if mv < 50000 || 54000 ≤ mv then s
  else
    let s := seeVolt s mv
    if s.pwr.rangeLow then s
    else rangeEvent { s with pwr := { s.pwr with rangeLow := true, rangeHigh := false } }

def execInputRangeLow (mv : Nat) (s : State) : Host.Outcome State Fault Refusal := .next (rangeLow s mv)

/-- INPUT_RANGE_HIGH: above 63 V to 64.5 V for 1 ms. -/
def rangeHigh (s : State) (mv : Nat) : State :=
  if mv ≤ 63000 || 64500 < mv then s
  else
    let s := seeVolt s mv
    if s.pwr.rangeHigh then s
    else rangeEvent { s with pwr := { s.pwr with rangeHigh := true, rangeLow := false } }

def execInputRangeHigh (mv : Nat) (s : State) : Host.Outcome State Fault Refusal := .next (rangeHigh s mv)

/-- INPUT_IN_RANGE: 54 to 63 V. -/
def inputInRange (s : State) (mv : Nat) : State :=
  if mv < 54000 || 63000 < mv then s
  else seeVolt { s with pwr := { s.pwr with rangeLow := false, rangeHigh := false } } mv

def execInputInRange (mv : Nat) (s : State) : Host.Outcome State Fault Refusal := .next (inputInRange s mv)

/-- The factor in sixteenths that R390 computes from the stroke means (newest first, each with its stroke's start). -/
def factorOf (f tdp now : Nat) (means : List (Nat × Nat)) (low : Bool) : Nat :=
  let last := (means.take 64).map (fun (e : Nat × Nat) => e.1)
  let sum := sumOf last
  let n := last.length
  let peak := maxOf ((means.filter (fun (e : Nat × Nat) => decide (now ≤ e.2 + 10000000))).map (fun (e : Nat × Nat) => e.1))
  let f := if 1300 < peak then min f 8
    else if tdp * n < sum then max (f - 1) 4
    else if 100 * sum < 95 * tdp * n then min (f + 1) 16
    else f
  if low then min f 8 else f

/-- The current factor at a catch, with the mean input power of the stroke before (18 R390). -/
def powerCatch (s : State) (w : Nat) : State :=
  let means := ((w, s.time.now) :: s.pwr.means).filter (fun (e : Nat × Nat) => decide (s.time.now ≤ e.2 + 100000000))
  let means := if means.length < 64 then ((w, s.time.now) :: s.pwr.means).take 64 else means
  let f := factorOf s.pwr.factor (rdF s R.PWR_CFG_TDP_W) s.time.now means s.pwr.rangeLow
  let s := { s with pwr := { s.pwr with means := means, factor := f } }
  let s := wrF (wrF s R.PWR_FACTOR_F f) R.PWR_IN_POWER_W (min w 65535)
  if f < 16 then raiseBit s .pwr 0 4 .plain else s

/-! ### The hold-up test (18 R391 to R395) -/

/-- Twice the Dirty Budget of R392 in units of 256 MiB before rounding, as a fraction: 0.7 × B_f = E × 7 × 10^7 B/J, with E from C in µF
and ESR in µΩ. -/
def budgetFrac (capUf esrUohm : Nat) : Nat × Nat :=
  (capUf * (174000000 ^ 2 - (90000000 + 28 * esrUohm) ^ 2) * 7, 1800000000000 * 2 ^ 28)

/-- E in mJ and t_hold in µs (18 R392), each rounded down. -/
def holdEnergy (capUf esrUohm : Nat) : Nat × Nat :=
  let d := capUf * (174000000 ^ 2 - (90000000 + 28 * esrUohm) ^ 2)
  (d / (18 * 10 ^ 15), d / (18 * 280 * 10 ^ 12))

/-- The hold-up state and the Dirty Budget in pages that a result gives (18 R392, R393): nearest multiple of 256 MiB, ties down, at most
`BUDGET_MAX`. -/
def holdResult (capUf esrUohm budgetMax : Nat) : Nat × Nat :=
  let (n, d) := budgetFrac capUf esrUohm
  if 200000 < esrUohm ∨ 2 * n < d then (4, 0)
  else
    let units := min (if 2 * n ≤ d then 0 else ceilDiv (2 * n - d) (2 * d)) budgetMax
    (if units < 2 then 3 else 2, units * 4096)

/-- A Dirty Budget takes effect with a hold-up state; a change of state is reported (18 R393, R394). -/
def setHold (s : State) (st pages : Nat) : State :=
  let was := s.pwr.hold
  let geo := budgetPages s != pages
  let s := { s with pwr := { s.pwr with hold := st, down := none } }
  let s := wrF (wrF s R.TIER_DIRTY_BUDGET pages) R.HOLDUP_STATUS_STATE (if s.pwr.testing then 1 else st)
  let s := if geo then wrF s R.GEO_GEN_GEN ((rdF s R.GEO_GEN_GEN + 1) % 2 ^ 32) else s
  if was = st then s else raiseBit s .pwr 0 2 (.named EV_HOLDUP [rdWord s .pwr 0 0 0x118] allDoms)

/-- A budget is asked for: a higher one takes effect, a lower one once the dirty total is at or below it (18 R394). FAILED sets no budget
to wait for and takes effect at once (notes/assumptions/38.md). -/
def askBudget (s : State) (st pages : Nat) : State :=
  if st = 4 ∨ budgetPages s ≤ pages ∨ dirtyPages s ≤ pages then setHold s st pages
  else { s with pwr := { s.pwr with down := some (pages, st) } }

/-- A test begins: a retest uses ¾ of the present budget until its result (18 R395). -/
def startTest (s : State) : State :=
  if s.pwr.testing then s
  else
    let now := budgetPages s
    let s := wrF { s with pwr := { s.pwr with testing := true, retestDue := false, testBudget := some now } } R.HOLDUP_STATUS_STATE 1
    if s.pwr.hold = 0 ∨ now = 0 then s else askBudget s s.pwr.hold (now * 3 / 4)

/-- HOLDUP_TEST: the test after a reset, or one that was asked for and whose catch has come (18 R391). -/
def execHoldupTest (s : State) : Host.Outcome State Fault Refusal :=
  .next (if s.pwr.retestDue || s.pwr.hold = 0 then startTest s else s)

/-- HOLDUP_RETEST_TIMER: `RETEST_H` hours after the previous test (18 R391). -/
def execHoldupRetestTimer (s : State) : Host.Outcome State Fault Refusal :=
  .next (if rdF s R.PWR_CFG_RETEST_H = 0 ∨ s.pwr.testing then s else { s with pwr := { s.pwr with retestDue := true } })

/-- The result of a test is installed: the measurement registers, the state and the budget (18 R392 to R395). -/
def installResult (s : State) : State :=
  match s.pwr.result with
  | none => s
  | some (c, r) =>
    let (e, us) := holdEnergy c r
    let (st, pages) := holdResult c r (rdF s R.PWR_CFG_BUDGET_MAX)
    let s := { s with pwr := { s.pwr with result := none, testing := false, testBudget := none } }
    let s := wrF (wrF s R.HOLDUP_MEAS_CAP_UF (min c 65535)) R.HOLDUP_MEAS_ESR_UOHM (min r (2 ^ 20 - 1))
    let s := wrF (wrF s R.HOLDUP_ENERGY_E_MJ (min e (2 ^ 32 - 1))) R.HOLDUP_ENERGY_HOLD_US (min us (2 ^ 32 - 1))
    let s := wrF s R.HOLDUP_STATUS_STATE s.pwr.hold
    askBudget s st pages

/-- HOLDUP_TEST_RESULT: the result is installed at the next finish; before strokes begin, at once. -/
def holdupResult (s : State) (capUf esrUohm : Nat) : State :=
  if !s.pwr.testing then s
  else
    let s := { s with pwr := { s.pwr with result := some (capUf, esrUohm) } }
    if s.stk.phase = .idle then installResult s else s

def execHoldupTestResult (capUf esrUohm : Nat) (s : State) : Host.Outcome State Fault Refusal := .next (holdupResult s capUf esrUohm)

/-- The power block at a finish (18 R391, R394). -/
def powerFinish (s : State) : State :=
  let s := installResult s
  match s.pwr.down with
  | some (pages, st) => if dirtyPages s ≤ pages then setHold s st pages else s
  | none => s

/-! ### The system journal (18 R396) -/

/-- JOURNAL_TAIL_WRITTEN: a write of the journal to Tier F completes. -/
def execJournalTailWritten (bytes : Nat) (s : State) : Host.Outcome State Fault Refusal :=
  .next { s with pwr := { s.pwr with tailOut := min s.pwr.tailIn (s.pwr.tailOut + bytes) } }

/-! ### The start of the Hold-water sequence (18 R397; 22 R464, R465) -/

/-- A test is abandoned; the last installed result stands (18 R395). -/
def abandonTest (s : State) : State :=
  if !s.pwr.testing then s
  else
    let back := s.pwr.testBudget.getD (budgetPages s)
    let s := { s with pwr := { s.pwr with testing := false, testBudget := none, result := none, down := none } }
    wrF (wrF s R.TIER_DIRTY_BUDGET back) R.HOLDUP_STATUS_STATE s.pwr.hold

/-- The steps of Table 18-3 begin: no grants, no commits of the stroke in progress, one `EV_HOLD_WATER` record per domain; queued
completions, streams and receipts are dropped and the ports power down. `cause` 0 stands for the steps before a reset. -/
def startWater (s : State) (cause : Nat) : State :=
  if s.pwr.water.isSome || !s.mod.pwrGood then s
  else
    let s := abandonTest (stopLegs s (fun _ => true))
    let s := { s with pwr := { s.pwr with water := some cause } }
    let s := pushEvents s allDoms { code := EV_HOLD_WATER, page := pageOf .pwr 0, bit := 63, words := [s.pwr.lastFinish] }
    (List.range 10).foldl overrides { s with
      stk := { s.stk with commits := [] }
      out := { s.out with cpls := [], streams := [], rcpts := [] } }

/-- A reset source arises (22 R464, R465): the steps of Table 18-3 run first; during a running sequence it is recorded, and the first
one recorded gives the cause. -/
def askReset (s : State) (cause : Nat) : State :=
  if !s.mod.pwrGood then s
  else
    let s := if s.pwr.resetCause.isSome then s else { s with pwr := { s.pwr with resetCause := some cause } }
    startWater s 0

/-- POWER_LOSS: below 50 V for 20 µs. -/
def execPowerLoss (mv : Nat) (s : State) : Host.Outcome State Fault Refusal :=
  .next (if 50000 ≤ mv then s else startWater (seeVolt s mv) 1)

/-- OVER_VOLTAGE: above 64.5 V for 20 µs. -/
def execOverVoltage (mv : Nat) (s : State) : Host.Outcome State Fault Refusal :=
  .next (if mv ≤ 64500 then s else startWater (seeVolt s mv) 2)

/-- PWR_EN_DEASSERT: for 20 µs. -/
def execPwrEnDeassert (s : State) : Host.Outcome State Fault Refusal :=
  .next (startWater { s with mod := { s.mod with pwrEn := false } } 3)

end Sys2Proof.Machine
end

