-- ==== Sys2Proof/Machine/Fault.lean ====
section
/-! DEFINITION. Faults, Erg tests and fencing (21_faults_and_erg.md). -/

namespace Sys2Proof.Machine

/-! ### Fault records (21 R462) -/

/-- A record is written; answers its index. -/
def addRec (s : State) (n : ErrNote) (outcome : Nat) : Nat × State :=
  let i := s.flt.next
  (i, { s with flt := { s.flt with
    next := i + 1
    log := mapSet s.flt.log (i % 4096) {
      cls := n.cls, outcome := outcome, code := n.code, unit := n.unit, stroke := s.stk.number, time := s.time.now
      object := n.page.elim 0 (· * 65536) } } })

/-- The records of an error are updated when its outcome is known; one that the ring has overwritten is not. -/
def updRecs (s : State) (is : List Nat) (f : FltRec → FltRec) : State :=
  { s with flt := { s.flt with log := is.foldl (fun m i => if s.flt.next ≤ i + 4096 then mapUpd m (i % 4096) f else m) s.flt.log } }

/-- FR0 to FR3 (21 Table 21-8). -/
def FltRec.words (r : FltRec) : List Nat :=
  [r.cls % 32 + r.outcome % 8 * 2 ^ 8 + r.erg % 4 * 2 ^ 12 + r.code % 2 ^ 16 * 2 ^ 16 + r.unit % 2 ^ 32 * 2 ^ 32, r.stroke, r.time, r.object]

/-! ### Error histories (21 R454) -/

def window (s : State) : Nat := 2 ^ min 26 (max 16 (rdF s R.FLT_CFG_WINDOW_LOG2))

/-- An event joins the history, events older than a window leave it. -/
def noteHist (s : State) (what key : Nat) : State :=
  let keep := s.flt.hist.filter (fun h => decide (s.stk.number < h.stroke + window s))
  { s with flt := { s.flt with hist := keep ++ [{ what := what, key := key, stroke := s.stk.number }] } }

def histCount (s : State) (what key : Nat) : Nat :=
  (s.flt.hist.filter (fun h => h.what = what && h.key = key && decide (s.stk.number < h.stroke + window s))).length

/-! ### Blocked plans (21 R457) -/

/-- The plan version of a model, changed. -/
def updPlanVer (s : State) (model ver : Nat) (f : Plan → Plan) : State :=
  { s with prg := { s.prg with progs := mapUpd s.prg.progs model (fun g =>
    if g.cur.hdr.version = ver then { g with cur := f g.cur } else { g with old := g.old.map (fun p => if p.hdr.version = ver then f p else p) }) } }

/-- Whether a session's STEP or APPEND under way is bound to a plan version: by its pass, or by being the current one. -/
def boundTo (s : State) (model ver sid : Nat) (x : Ses) : Bool :=
  x.d.model == model && x.head.any (fun r => r.ph == .ready && (r.cmd.opcode = 0x12 || r.cmd.opcode = 0x13)) &&
    (match s.stk.passes.find? (fun e => e.2.sessions.contains sid) with
     | some (_, p) => p.version == ver
     | none => (planOf s model).any (fun p => p.hdr.version == ver))

/-- Steps under way on a version complete with `E_FENCED`, and its passes go. -/
def dropBound (s : State) (model ver : Nat) : State :=
  let out := s.ses.tab.filter (fun e => boundTo s model ver e.1 e.2)
  let s := (mapKeys (s.stk.passes.filter (fun e => e.2.model = model && e.2.version = ver))).foldl dropPass s
  out.foldl (fun s (sid, x) => match x.head with
    | some r => refuseSes (freeHead s sid) r.cmd E_FENCED
    | none => s) s

/-- A plan is blocked, with the leg, reason and lane that `STK_NOFIT` shows, by a unit. -/
def blockPlan (s : State) (model ver leg reason lane unit : Nat) : State :=
  match planVer s model ver with
  | none => s
  | some p =>
    if p.blocked then s
    else
      let s := updPlanVer s model ver (fun p => { p with blocked := true })
      let s := noteNofit (dropBound s model ver) (nofitWord model leg reason lane)
      raiseBit s .flt 0 3 (.named EV_PLAN_FENCED [model % 2 ^ 32 + ver % 2 ^ 16 * 2 ^ 32, unit] (planDoms s))

/-- Every installed plan that fails a check of R129 after a fence is blocked; a fence of an engine or a group changes its fits first (21
R456, R457). -/
def blockFailing (s : State) (unit : Nat) : State :=
  let s := if unitTy unit = 7 ∨ unitTy unit = 8 then
      { s with prg := { s.prg with progs := mapAll s.prg.progs (fun _ g => { g with cur := withFits s g.cur, old := g.old.map (withFits s) }) } }
    else s
  s.prg.progs.foldl (fun s (m, g) =>
    (g.cur :: g.old.toList).foldl (fun s p =>
      if p.blocked then s
      else
        match planFails s p (fitCaseNow s) 0 with
        | some (leg, r, k) => blockPlan s m p.hdr.version leg r k unit
        | none => s) s) s

/-! ### What a fence takes with it (21 R455, Table 21-5; 05 R109, R112) -/

/-- Whether a leg granted in this stroke uses a unit. -/
def legUses (s : State) (k : Nat) (l : GLeg) (u : Nat) : Bool :=
  let i := unitIdx u
  match legPlan s l with
  | none => false
  | some q =>
    let gs := ((legLists q l.leg).map (fun (e : Nat × List Word) => e.1)) ++ l.blocks.map (fun (e : Nat × List Word) => e.1 / 2048)
    match unitTy u with
    | 1 => gs.contains (frameHb i) && (legEntries s k (frameHb i)).any (fun e => entPull e && entRow e / 64 == frameSlot i)
    | 2 => gs.contains i
    | 3 => gs.contains i
    | 4 => gs.any (fun g => g / 128 == i)
    | 5 => gs.any (fun g => g / 128 == i)
    | 6 => bitOf l.lanes i
    | 7 => (legGroups q l.leg).contains (i / 8)
    | 8 => (legGroups q l.leg).contains i
    | _ => false

/-- Whether a page of a class may not lie in a frame of a fenced unit. -/
def unitHits (u f cls : Nat) : Bool :=
  let i := unitIdx u
  match unitTy u with
  | 1 => f == i
  | 2 => frameHb f == i && (cls == 1 || cls == 2 || cls == 4 || cls == 5)
  | 3 => frameHb f == i
  | 4 => frameHb f / 128 == i
  | 5 => frameHb f / 128 == i
  | 6 => frameLane f == i
  | _ => false

/-- The SAS pages in Tier H that a fence moves. -/
def unitPages (s : State) (u : Nat) : List Nat := (s.tier.ptes.filter (fun e => e.2.h && unitHits u e.2.hFrame e.2.cls)).map (·.1)

/-- Destination frames in a fenced unit leave the entries that copied to them: their pages are copied again, to other frames, and `DONE` stays
(05 R110). -/
def retarget (s : State) (u : Nat) : State :=
  s.tier.ops.foldl (fun s (id, o) =>
    let bad := o.tgt.filter (fun e => unitHits u e.2 ((pteOf s e.1).elim 0 (·.cls)))
    if bad.isEmpty then s
    else
      let ps := (mapKeys bad).filter (fun p => !(o.todo ++ o.flying).contains p)
      let s := bad.foldl (fun s e => { s with tier := { s.tier with hUsed := setDel s.tier.hUsed e.2 } }) s
      setOp s id { o with
        tgt := o.tgt.filter (fun e => !mapHas bad e.1), vers := o.vers.filter (fun e => !mapHas bad e.1), todo := o.todo ++ ps
        st := if o.st == .final then .queued else o.st }) s

/-- The object that a page belongs to, as `O1.OBJECT` names it (05 Table 05-4): the session whose own page it is, else its SAS address. -/
def pageObject (s : State) (p : Nat) : Nat :=
  match s.ses.tab.find? (fun e => e.2.privPages.contains p) with
  | some (sid, x) => sesObject sid x.d.gen
  | none => p * 65536

/-- Pages leave a fenced unit by a class 0 entry of kind 0x7. Placed and pinned pages move under an entry of their object with `FORCED`, each of
them counted, and `EV_POLICY_OVERRIDE` names each object (05 R109, R112, R116). -/
def migrateOut (s : State) (ps : List Nat) : State :=
  let held := ps.filter (fun p => (pteOf s p).any (fun e => e.pinH || e.placed))
  let free := ps.filter (fun p => !held.contains p)
  let go : State → Bool → Nat → List Nat → State := fun s forced object todo =>
    if todo.isEmpty then s
    else
      startOp s {
        kind := 7, cls := 0, src := 0, dst := 0, tenant := 0xFFF, object := object, isSes := false, start := 0
        forced := forced, todo := todo }
  let s := go s false (free.headD 0 * 65536) free
  ((held.map (pageObject s)).eraseDups).foldl (fun s object =>
    let mine := held.filter (fun p => pageObject s p = object)
    let s := cnt (go s true object mine) R.TIER_OVERRIDE_COUNT mine.length
    raiseBit s .tier 0 6 (.named EV_POLICY_OVERRIDE [object, 0] (eventDoms s))) s

/-- The lowest half-bank in use that holds no system frame. -/
def sysTarget (s : State) : Option Nat :=
  let going := sysGoing s
  (List.range 81920).find? (fun g => !hbFenced s g && !hbSystem s g && !going.contains g)

/-- An SAS page leaves the frame that a system frame takes. -/
def clearSlot (s : State) (t : Nat) : State :=
  match pageOfFrame s (frameOf t 127) with
  | some p => migrateOut s [p]
  | none => s

/-- The system frame of a fenced half-bank moves by a class 0 entry of kind 0x7 (05 R88); one that was on its way to that half-bank goes
elsewhere. -/
def moveSys (s : State) (g : Nat) : State :=
  match sysTarget s with
  | none => s
  | some t =>
    let turn : OpEnt → OpEnt := fun o => if o.sys.any (fun e => e.2 = g) then { o with sys := o.sys.map (fun e => (e.1, t)) } else o
    if (sysGoing s).contains g then
      clearSlot { s with tier := { s.tier with ops := mapAll s.tier.ops (fun _ o => turn o), opWaits := s.tier.opWaits.map turn } } t
    else
      let key := match s.tier.sysMoved.find? (fun e => e.2 = g) with | some e => e.1 | none => g
      if !hbSystem s g || (mapVals s.tier.ops ++ s.tier.opWaits).any (fun o => o.ended.isNone && o.sys.any (fun e => e.1 = key)) then s
      else
        clearSlot (takeOp0 s {
          kind := 7, cls := 0, src := 0, dst := 0, tenant := 0xFFF, object := 0, isSes := false, start := 0, sys := some (key, t) }) t

/-- The half-banks whose system frames a fence moves. -/
def unitHbs (u : Nat) : List Nat :=
  let i := unitIdx u
  match unitTy u with
  | 3 => [i]
  | 4 => (List.range 128).map (i * 128 + ·)
  | 5 => (List.range 128).map (i * 128 + ·)
  | 6 => (List.range 8192).map (i * 8192 + ·)
  | _ => []

/-- Sealed copies that may not stay where they are stand in other frames (notes/assumptions/39.md). -/
def moveSealed (s : State) (bad : State → Pte → Bool) : State :=
  s.tier.ptes.foldl (fun s (p, e) =>
    if e.f && bad s e then
      match mapGet s.tier.sealedAt e.fFrame with
      | some x =>
        let f := freeFFrame s e.tenant
        let y := { x with ctr := s.tier.sealCtr + 1 }
        let s := { s with tier := { s.tier with sealedAt := mapSet (mapErase s.tier.sealedAt e.fFrame) f y, sealCtr := y.last } }
        updPte s p (fun e => { e with fFrame := f })
      | none => s
    else s) s

/-- Sealed copies on a fenced flash die are rebuilt from parity. -/
def rebuildDie (s : State) : State := moveSealed s (fun s e => dieFenced s (Config.dieOfFrame e.fFrame).toNat)

/-- Walks that hold contexts on a fenced Channel unit end with `LOST`. -/
def endWalks (s : State) (k : Nat) : State :=
  { s with mem := { s.mem with walks := mapAll s.mem.walks (fun _ w => if w.unit = some k then { w with lost := true, ended := true } else w) } }

/-- What a fence of a unit takes with it, once the fence table holds it. -/
def fenceEffects (s : State) (u : Nat) : State :=
  let s := { s with stk := { s.stk with granted := s.stk.granted.map (fun (k, l) => (k, if legUses s k l u then { l with stopped := true } else l)) } }
  let s := migrateOut (retarget s u) (unitPages s u)
  let s := (unitHbs u).foldl moveSys s
  let s := if unitTy u = 9 ∨ unitTy u = 10 then rebuildDie s else s
  let s := if unitTy u = 10 then endWalks s (unitIdx u) else s
  blockFailing s u

/-! ### The fence table (21 R458) -/

def fenceEnt (s : State) (u : Nat) : Option FenceEnt := s.flt.fences.find? (fun e => e.unit = u)

/-- Retired frames of a half-bank. -/
def retiredIn (s : State) (g : Nat) : Nat :=
  (s.flt.fences.filter (fun e => e.active && unitTy e.unit = 1 && frameHb (unitIdx e.unit) = g)).length

/-- The half-bank with the most retired frames, the lowest of several. -/
def mostRetired (s : State) : Option Nat :=
  let gs := ((s.flt.fences.filter (fun e => unitTy e.unit = 1)).map (fun e => frameHb (unitIdx e.unit))).eraseDups
  let top := maxOf (gs.map (retiredIn s))
  ((gs.filter (fun g => retiredIn s g = top)).foldl setAdd []).head?

/-- An entry is written: a unit fenced before counts once more, up to 3 (2 bits). -/
def putFence (s : State) (u cls : Nat) : State :=
  match fenceEnt s u with
  | some _ =>
    { s with flt := { s.flt with fences := s.flt.fences.map (fun e =>
      if e.unit = u then { e with cls := cls, count := min 3 (e.count + 1), active := true, time := s.time.now } else e) } }
  | none =>
    { s with flt := { s.flt with fences := s.flt.fences ++ [{ unit := u, cls := cls, count := 1, active := true, time := s.time.now }] } }

/-- A unit goes out of use: its entry, `EV_FENCE`, what it takes with it, and the reset of 05 R88 where too few half-banks remain. -/
def fenceOne (s : State) (u cls : Nat) : State :=
  let s := putFence s u cls
  let s := raiseBit s .flt 0 2 (.named EV_FENCE [u % 2 ^ 32 + cls % 32 * 2 ^ 32] allDoms)
  let s := fenceEffects s u
  if 81920 - hbsFenced s < 49152 then askReset s 6 else s

/-- When the table is full, the retired frames of the half-bank with the most of them give way to one half-bank entry. -/
def makeRoom (s : State) : State :=
  if s.flt.fences.length < 4096 then s
  else
    match mostRetired s with
    | none => s
    | some g =>
      let s := { s with flt := { s.flt with
        fences := s.flt.fences.filter (fun e => !(unitTy e.unit = 1 && frameHb (unitIdx e.unit) = g)) } }
      if unitFenced s (unitId 3 g) then s else fenceOne s (unitId 3 g) 2

/-- The larger unit that a fence takes with it by Table 21-4. -/
def cascade (s : State) (u : Nat) : Option Nat :=
  let i := unitIdx u
  let on := (s.flt.fences.filter (·.active)).map (·.unit)
  match unitTy u with
  | 1 => if 8 ≤ retiredIn s (frameHb i) then some (unitId 3 (frameHb i)) else none
  | 2 => if 16 ≤ (((on.filter (fun v => (unitTy v = 2 || unitTy v = 3) && unitIdx v / 128 = i / 128)).map unitIdx).eraseDups).length then
      some (unitId 4 (i / 128)) else none
  | 3 => if 16 ≤ (((on.filter (fun v => (unitTy v = 2 || unitTy v = 3) && unitIdx v / 128 = i / 128)).map unitIdx).eraseDups).length then
      some (unitId 4 (i / 128)) else none
  | 4 => if 8 ≤ (((on.filter (fun v => (unitTy v = 4 || unitTy v = 5) && unitIdx v / 64 = i / 64)).map unitIdx).eraseDups).length then
      some (unitId 6 (i / 64)) else none
  | 5 => if 8 ≤ (((on.filter (fun v => (unitTy v = 4 || unitTy v = 5) && unitIdx v / 64 = i / 64)).map unitIdx).eraseDups).length then
      some (unitId 6 (i / 64)) else none
  | 7 => if 4 ≤ (on.filter (fun v => unitTy v = 7 && unitIdx v / 8 = i / 8)).length then some (unitId 8 (i / 8)) else none
  | 9 => if 2 ≤ (on.filter (fun v => unitTy v = 9 && unitIdx v / 8 = i / 8)).length then some (unitId 10 (i / 8)) else none
  | _ => none

/-- A unit is fenced or retired, with the larger units that follow. A unit out of use already is left as it is. -/
def fenceGo (cls : Nat) : Nat → Nat → State → State
  | 0, _, s => s
  | fuel + 1, u, s =>
    if unitFenced s u then s
    else
      let s := fenceOne (makeRoom s) u cls
      match cascade s u with
      | some v => fenceGo cls fuel v s
      | none => s

def fence (s : State) (u cls : Nat) : State := fenceGo cls 4 u s

/-- A fence is lifted (21 R459): its entry keeps its count, the unit's history restarts, and a lane begins a cold start. -/
def unfence (s : State) (u : Nat) : State :=
  let s := { s with flt := { s.flt with
    fences := s.flt.fences.map (fun e => if e.unit = u then { e with active := false } else e)
    hist := s.flt.hist.filter (fun h => !(h.what = 0 && h.key = u) && !(h.what = 1 && unitTy u = 3 && frameHb h.key = unitIdx u) &&
      !(h.what = 1 && unitTy u = 1 && h.key = unitIdx u)) } }
  if unitTy u = 6 then coldStart s (unitIdx u) else s

/-! ### Erg tests (21 R448, R452 to R454, R459) -/

/-- Frames that a test takes at its start: the free ones of its half-bank. -/
def testFrames (s : State) (u : Nat) : List Nat :=
  if unitTy u = 3 then
    ((List.range 128).map (frameOf (unitIdx u))).filter (fun f => frameUsable s f && !s.tier.hUsed.contains f)
  else []

/-- A blade's test discards the working context of its PC: a pass whose carry stood there starts again. -/
def dropContext (s : State) (pc : Nat) : State :=
  match (pcCtx s pc).work with
  | none => s
  | some x =>
    let s := setPc s pc { pcCtx s pc with work := none }
    match x.carry with
    | some i => restartPass { s with stk := { s.stk with granted := mapAll s.stk.granted (fun _ l => if l.pass = i then { l with stopped := true } else l) } } i
    | none => s

/-! ### The time of Erg tests (21 R452, R453) -/

/-- The lane on which a test takes slices, if it runs in slices. A frame's test is its half-bank's. -/
def sliceLane (t : ErgTest) : Option Nat :=
  match unitTy t.unit with
  | 1 => some (frameLane (unitIdx t.unit))
  | 2 => some (unitIdx t.unit / 8192)
  | 3 => some (unitIdx t.unit / 8192)
  | 4 => some (unitIdx t.unit / 64)
  | 5 => some (unitIdx t.unit / 64)
  | _ => none

/-- The time of a unit's test (21 Table 21-3): ns of slices, or strokes of a unit held out or of flash bursts. -/
def ergTime (s : State) (u free : Nat) : Nat :=
  let strokes := fun (ns : Nat) => max 1 (ceilDiv ns (max 1 (windowNs s)))
  match unitTy u with
  | 1 => 2424800
  | 2 => 60000
  | 3 => 2424800 + 37900 * free
  | 4 => 94900
  | 5 => 34900
  | 6 => strokes 2150000
  | 9 => strokes 12000000
  | 10 => strokes 100000000
  | _ => 1

/-- What the stroke in progress gives each test: of the drive time its lane's grants leave, 0.925, the oldest test first, and what it is
granted ahead of legs; one stroke where the unit is held out. Tests of one unit run as one. -/
def ergGives (s : State) : List Nat :=
  (s.flt.tests.foldl (fun (acc : List (Nat × Nat) × List Nat × List Nat) t =>
    let (units, used, out) := acc
    match mapGet units t.unit with
    | some g => (units, used, out ++ [g])
    | none =>
      if t.queued then (units, used, out ++ [0]) else
      match sliceLane t with
      | none => (units ++ [(t.unit, 1)], used, out ++ [1])
      | some k =>
        let room := (windowNs s - s.stk.busy.getD k 0 / 94) * 925 / 1000 - used.getD k 0
        let g := min t.left room
        (units ++ [(t.unit, g + t.owed)], modNth used k (· + g), out ++ [g + t.owed])) ([], List.replicate 10 0, [])).2.2

/-- The tests at a finish: what the stroke gave them is taken from what they need, and strokes with less than `ERG_MIN_US` are counted. -/
def ergCount (s : State) : State :=
  { s with flt := { s.flt with tests := (s.flt.tests.zip (ergGives s)).map (fun (t, g) =>
    let t := { t with left := t.left - g, owed := 0 }
    if t.queued then t else if (sliceLane t).isSome then { t with starved := if g < rdF s R.FLT_CFG_ERG_MIN_US * 1000 then t.starved + 1 else 0 } else t) } }

/-- After 16 of them a test is granted `ERG_MIN_US` ahead of legs. -/
def ergCatch (s : State) : State :=
  let s := { s with flt := { s.flt with tests := s.flt.tests.map (fun t => { t with queued := false }) } }
  let ks := ((s.flt.tests.filter (fun t => decide (16 ≤ t.starved))).filterMap sliceLane).foldl setAdd []
  let ns := rdF s R.FLT_CFG_ERG_MIN_US * 1000
  { s with
    stk := { s.stk with busy := ks.foldl (fun b k => modNth b k (· + ceilDiv (ns * 1000) 925 * 94)) s.stk.busy }
    flt := { s.flt with tests := s.flt.tests.map (fun t => if 16 ≤ t.starved then { t with starved := 0, owed := ns } else t) } }

def addTest (s : State) (t : ErgTest) : State :=
  let fs := testFrames s t.unit
  let left := match s.flt.tests.find? (fun x => x.unit = t.unit && x.ended.isNone) with
    | some x => x.left
    | none => ergTime s t.unit fs.length
  let s := { s with flt := { s.flt with tests := s.flt.tests ++ [{ t with frames := fs, left := left }] } }
  match unitTy t.unit with
  | 2 => dropContext s (unitIdx t.unit / 128)
  | 4 => dropContext s (unitIdx t.unit)
  | _ => s

/-- `EV_ERG`: 1 pass, 2 fail. -/
def ergEvent (s : State) (u res : Nat) : State := sendEvent s (pageOf .flt 0) EV_ERG [u % 2 ^ 32 + res * 2 ^ 32] (eventDoms s)

/-- The `ERG` commands that a test serves complete (21 R459). -/
def ergDone (s : State) (t : ErgTest) (res : Nat) (lifted : Bool) : State :=
  t.cmds.foldl (fun s c => stageDone s { cmd := c, status := E_OK, c0 := res + b2n (lifted && c.f2 32 1 = 1) * 2 ^ 8 }) s

/-- What a lasting fault fences or retires: the frame of a failing row of a half-bank's test that an error or the coverage started, and
the unit tested otherwise (21 Table 21-4, R459). -/
def lastingUnit (t : ErgTest) (row : Option Nat) : Nat :=
  match row with
  | some r => if unitTy t.unit = 3 ∧ t.cmds.isEmpty then unitId 1 (frameOf (unitIdx t.unit) (r / 64)) else t.unit
  | none => t.unit

/-- A fault is lasting. -/
def lasting (s : State) (t : ErgTest) (u : Nat) (erg : Nat) : State :=
  let s := updRecs s t.logs (fun r => { r with outcome := if r.outcome = 5 then 5 else if unitTy u = 1 then 3 else 2, erg := erg })
  ergDone (ergEvent (fence s u t.cls) t.unit 2) t 2 false

/-- Whether bring-up coverage tests a lane now, or covers its half-banks while it is in service (22 R476). -/
def covering (s : State) (k : Nat) : Bool :=
  rdF s R.BOOT_LANES_COVERING = k || (rdF s R.BOOT_CFG_QUICK = 1 && laneOnline s k && !s.boot.covered.contains k)

/-- A test has ended (21 R454): a pass is transient unless a rule of Table 21-4 makes it lasting. -/
def testEnd (s : State) (t : ErgTest) : State :=
  match t.ended with
  | none => { s with flt := { s.flt with tests := s.flt.tests ++ [t] } }
  | some (true, _) =>
    let lift := t.cmds.any (fun c => c.f2 32 1 = 1) && fencedSelf s (unitTy t.unit) (unitIdx t.unit)
    let s := updRecs s t.logs (fun r => { r with outcome := if r.outcome = 0 then 1 else r.outcome, erg := 1 })
    let s := if lift then unfence s t.unit else s
    let s := if t.cmds.isEmpty then s else ergEvent s t.unit 1
    let s := ergDone s t 1 lift
    if t.cls = 0 ∨ t.cls = 2 then s
    else if t.cls = 5 then
      s.prg.progs.foldl (fun s (m, g) => if 3 ≤ histCount s 3 m then blockPlan s m g.cur.hdr.version 0 6 0 t.unit else s) s
    else
      let s := noteHist s 0 t.unit
      if max 2 (rdF s R.FLT_CFG_TRANSIENT_MAX) ≤ histCount s 0 t.unit then
        let s := fence (updRecs s t.logs (fun r => { r with outcome := if r.outcome = 5 then 5 else 2 })) t.unit t.cls
        if t.cmds.isEmpty then ergEvent s t.unit 1 else s
      else s
  | some (false, row) => lasting s t (lastingUnit t row) 2

/-- ERG (21 R459). -/
def refuseErg (s : State) (c : Cmd) (code : Nat) : State :=
  finishCmd (recordErr s (if code = E_SEC_RIGHT then .sec else .flt) 0 0 code) c code

def startErg (c : Cmd) (_ : List Byte) (s : State) : State :=
  let u := c.f2 0 32
  if !domRegWrite s c.dom then refuseErg s c E_SEC_RIGHT
  else if !unitOk u then refuseErg s c E_ERG_INVALID
  else if c.f2 32 1 = 1 && (!fencedSelf s (unitTy u) (unitIdx u) || (fenceEnt s u).any (fun e => decide (2 ≤ e.count))) then
    refuseErg s c E_FLT_NOUNFENCE
  else if s.flt.tests.any (fun t => t.unit = u && t.ended.isNone) then
    let one := (s.flt.tests.find? (fun t => t.unit = u && t.ended.isNone)).elim 0 (·.cls)
    { s with flt := { s.flt with tests := s.flt.tests.map (fun t =>
      if t.unit = u && t.cls = one && t.ended.isNone then { t with cmds := t.cmds ++ [c] } else t) } }
  else addTest s { unit := u, cls := 0, cmds := [c] }

def execErg (c : Cmd) (s : State) : Host.Outcome State Fault Refusal := .next (submit s c [] startErg)

/-- ERG_TEST_END: the result of the tests of a unit, in the stroke that gives them the rest of their time; of a half-bank, PC or lane that bring-up coverage tests where none was asked for (22
R476). It takes effect at the finish. -/
def ergTestEnd (s : State) (u : Nat) (pass : Bool) (row : Option Nat) : State :=
  if s.flt.tests.any (fun t => t.unit = u && t.ended.isNone) then
    { s with flt := { s.flt with tests := (s.flt.tests.zip (ergGives s)).map (fun (t, g) =>
      if t.unit = u && t.ended.isNone && !t.queued && decide (t.left ≤ g) then { t with ended := some (pass, row) } else t) } }
  else
    let lane := match unitTy u with | 3 => unitIdx u / 8192 | 4 => unitIdx u / 64 | 6 => unitIdx u | _ => 15
    if !unitOk u || 10 ≤ lane || !covering s lane then s
    else
      let s := if unitTy u = 3 then
          let s := cnt s R.BOOT_COVER_HB_TESTED 1
          let s := if pass then s else cnt s R.BOOT_COVER_HB_FAILED 1
          if rdF s R.BOOT_LANES_COVERING = lane then wrF s R.BOOT_LANES_HB_DONE (min 8192 (rdF s R.BOOT_LANES_HB_DONE + 1)) else s
        else s
      { s with flt := { s.flt with tests := s.flt.tests ++ [{ unit := u, cls := 0, ended := some (pass, row) }] } }

def execErgTestEnd (unit : Nat) (pass : Bool) (row : Option Nat) (s : State) : Host.Outcome State Fault Refusal :=
  if unitOk unit then .next (ergTestEnd s unit pass row) else .fault .noSuchUnit

/-! ### Repairs (21 R449 to R451) -/

/-- A page that cannot be read in any tier: `FLT` bit 4 with what losing it means. -/
def loseFlt (s : State) (p : Nat) : State := raiseBit (losePage s p) .flt 0 4 .plain

/-- Whether a row of a private page holds nothing below its session's `POSITIONS`. -/
def rowBeyond (s : State) (p row : Nat) : Bool :=
  s.ses.tab.any (fun (_, x) => x.pl.any (fun (k, e) =>
    e.page = p && !e.shared && decide (x.d.positions ≤ k / max 1 x.layers * x.span + row % 64 * (x.span / 64))))

/-- The frame of a page is rewritten from its sealed copy, by a class 0 copy-up. -/
def repairPage (s : State) (p : Nat) : State :=
  if s.flt.repairs.contains p then s
  else
    startOp { s with flt := { s.flt with repairs := s.flt.repairs ++ [p] } } {
      kind := 4, cls := 0, src := 1, dst := 0, tenant := (pteOf s p).elim 0xFFF (·.tenant), object := p * 65536, isSes := false, start := 0
      todo := [p] }

/-- The plan versions whose weights stand in a page. -/
def plansOfPage (s : State) (p : Nat) : List (Nat × Nat) :=
  (s.prg.progs.map (fun (m, g) => ((g.cur :: g.old.toList).filter (fun q => q.pages.contains p)).map (fun q => (m, q.hdr.version)))).flatten

/-- The repair of an uncorrectable codeword; answers the outcome of its record (21 Table 21-8): 4 where the page is written again from a
sealed copy, 5 where it is lost, 0 where nothing of it is (notes/assumptions/45.md). -/
def repair (s : State) (n : ErrNote) : Nat × State :=
  match n.page with
  | none => (0, s)
  | some p =>
    match pteOf s p with
    | none => (0, s)
    | some e =>
      if !e.h || e.cls = 6 || s.gsx.tabs.any (fun g => (g.2.cur.pages ++ g.2.old.elim [] (·.pages)).contains p) then (0, s)
      else if rowBeyond s p (n.row.getD 0) then (0, s)
      else if sealedNow s p then (4, repairPage s p)
      else
        match plansOfPage s p with
        | [] => (5, loseFlt s p)
        | vs => (5, vs.foldl (fun s (m, v) => blockPlan s m v 0 6 0 n.unit) (loseFlt s p))

/-- An error makes its unit SUSPECT and queues its test; a second one of the class before the test ends is lasting (21 R448). -/
def suspect (s : State) (n : ErrNote) (i : Nat) : State :=
  match s.flt.tests.find? (fun t => t.unit = n.unit && t.cls = n.cls) with
  | some t =>
    let s := { s with flt := { s.flt with tests := s.flt.tests.filter (fun x => !(x.unit = n.unit && x.cls = n.cls)) } }
    lasting s { t with logs := t.logs ++ [i] } n.unit 0
  | none => addTest s { unit := n.unit, cls := n.cls, logs := [i] }

/-- One error at the finish after it (21 R447 to R450, R454). -/
def noteFinish (s : State) (n : ErrNote) : State :=
  let out := unitFenced s n.unit
  let (i, s) := addRec s n 0
  if out then s
  else
    match n.cls, n.frame with
    | 1, some f =>
      let row := f * 64 + n.row.getD 0 % 64
      let s := (List.range n.count).foldl (fun s _ => noteHist s 2 row) s
      if max 2 (rdF s R.FLT_CFG_CE_ROW) ≤ histCount s 2 row then
        fence (updRecs s [i] (fun r => { r with outcome := 3 })) (unitId 1 f) 1
      else cnt (updRecs s [i] (fun r => { r with outcome := 4 })) R.FLT_SCRUB_REWRITTEN n.count
    | 2, some f =>
      let s := noteHist s 1 f
      if 2 ≤ histCount s 1 f then
        fence (updRecs s [i] (fun r => { r with outcome := 3 })) (unitId 1 f) 2
      else
        let (o, s) := repair s n
        suspect (updRecs s [i] (fun r => { r with outcome := o })) n i
    | 5, _ => suspect (match n.model with | some m => noteHist s 3 m | none => s) n i
    | _, _ => suspect s n i

/-! ### The finish -/

/-- A STEP, an APPEND or a command that waits for room, at the head of a damaged session, can never read the rows that are lost: it is
refused (03 R62), and the pass it was in starts again with the sessions left (notes/assumptions/46.md). -/
def dropDamaged (s : State) : State :=
  s.ses.tab.foldl (fun s (sid, x) =>
    match x.head with
    | none => s
    | some r =>
      if !x.d.damaged || !(r.ph == .quota || r.ph == .ready) || r.cmd.opcode = 0x17 || r.cmd.opcode = 0x19 then s
      else
        let s := refuseSes (freeHead s sid) r.cmd E_SES_DAMAGED
        match s.stk.passes.find? (fun e => e.2.sessions.contains sid) with
        | none => s
        | some (i, _) => restartPass (updPass s i (fun p => { p with sessions := p.sessions.filter (· != sid) })) i) s

/-- Faults at a finish, before its legs are settled: the errors of the stroke, then tests that have ended (21 R448, R454, R455); geometry
changes with the fences (R460). -/
def faultFinish (s : State) : State :=
  let before := s.flt.fences
  let notes := s.flt.notes
  let s := notes.foldl noteFinish { s with flt := { s.flt with notes := [] } }
  let tests := s.flt.tests
  let s := tests.foldl testEnd { s with flt := { s.flt with tests := [] } }
  if s.flt.fences = before then s else wrF s R.GEO_GEN_GEN ((rdF s R.GEO_GEN_GEN + 1) % 2 ^ 32)

/-! ### Rows of the fault block -/

/-- PATROL_SCRUB (21 R450): one row of every half-bank in use, with the bits read wrongly. -/
def patrolScrub (s : State) (flips : List (Nat × Nat × Byte)) : State :=
  if rdF s R.FLT_CFG_SCRUB_STROKES = 0 then s
  else
    let row := s.flt.scrubRow
    let gs := (flips.map (fun (e : Nat × Nat × Byte) => e.1)).foldl setAdd []
    let s := gs.foldl (fun s g =>
      if 81920 ≤ g || hbFenced s g then s
      else
        let (_, fixed, bad) := rowRead s g row ((flips.filter (fun (e : Nat × Nat × Byte) => e.1 = g)).map (fun (e : Nat × Nat × Byte) => e.2))
        pullNotes s g row fixed bad) s
    let s := { s with flt := { s.flt with scrubRow := (row + 1) % 8192 } }
    if row + 1 = 8192 then cnt s R.FLT_SCRUB_PASSES 1 else s

def execPatrolScrub (flips : List (Nat × Nat × Byte)) (s : State) : Host.Outcome State Fault Refusal := .next (patrolScrub s flips)

/-- FLASH_READ_FAIL (21 R451): a second read serves; else the page is rebuilt from parity into a new frame (notes/assumptions/39.md); else the
copy is lost. A node slot's loss shows in its walk (R274). -/
def flashFail (s : State) (f : Nat) (retryOk parityOk : Bool) : State :=
  match mapGet s.tier.sealedAt f with
  | none => s
  | some x =>
    let die := (Config.dieOfFrame f).toNat
    let s := noteErr (recordErr s .fch (die / 8) (die % 8) E_FLASH_READ) { cls := 9, unit := unitId 9 die, code := E_FLASH_READ, page := some x.page }
    match pteOf s x.page with
    | none => s
    | some e =>
      if retryOk || !e.f || e.fFrame ≠ f then s
      else if parityOk then
        putSealed s x.page { x with ctr := s.tier.sealCtr + 1 }
      else if e.h then freeF1 s x.page
      else if e.cls = 5 then s
      else loseFlt s x.page

def execFlashReadFail (frame : Nat) (retryOk parityOk : Bool) (s : State) : Host.Outcome State Fault Refusal :=
  if 805306368 ≤ frame then .fault .noSuchUnit else .next (flashFail s frame retryOk parityOk)

end Sys2Proof.Machine
end

