-- ==== Sys2Proof/Machine/Sec.lean ====
section
/-! DEFINITION. Security (20_security.md): measurements, rights, keys, allotments, image updates, attestation. -/

namespace Sys2Proof.Machine

/-! ### Measurements (20 R425) -/

/-- A slot is extended with a digest. -/
def extendMeas (s : State) (slot : Nat) (d : List Byte) : State :=
  { s with sec := { s.sec with meas := modNth s.sec.meas slot (fun m => sha256 (m ++ d)) } }

/-- A change record of 20 R431, R432 and R441 is measured in slot 5; it is the numbers the change consists of, and never key bytes. -/
def measureChange (s : State) (words : List Nat) : State := extendMeas s 5 (sha256 (packFields 8 words))

/-- The digest that an image carries as its last 32 bytes (09 R193). -/
def imageDigest (img : List Byte) : List Byte := img.drop (img.length - 32)

/-- Images installed since an earlier state of the same finish: leg plans and private expert sets in slot 3, vocabularies, grammar tables
and gather tables in slot 4. -/
def measureInstalls (before s : State) : State :=
  let legs := fun (x : State) => ((mapVals x.prg.progs ++ mapVals x.prg.sets).map (fun p => ([p.cur] ++ p.old.toList).map (·.digest))).flatten
  let texts := fun (x : State) =>
    (mapVals x.txt.vocabs).map (fun v => imageDigest v.cur.image) ++ (mapVals x.txt.grms).map (fun g => imageDigest g.cur.image) ++
      (mapVals x.gsx.tabs).map (fun g => g.cur.digest)
  let fresh := fun (old new_ : List (List Byte)) => new_.filter (fun i => !old.contains i)
  let s := (fresh (legs before) (legs s)).foldl (fun s d => extendMeas s 3 d) s
  (fresh (texts before) (texts s)).foldl (fun s d => extendMeas s 4 d) s

/-! ### Modes -/

/-- Whether the Rigging image in force sets confidential mode (20 R442). -/
def confidential (s : State) : Bool := (rigNow s).any (·.conf)

/-- Whether every frame of a domain must be encrypted (20 R436). -/
def encNeeded (s : State) (d : Nat) : Bool := domEncReq s d || confidential s

/-! ### Rights and tenant sets (20 R431) -/

/-- The state with the waiting changes of rights applied to its registers. -/
def withChanges (s : State) (cs : List RightsChange) : State :=
  cs.foldl (fun s (c : RightsChange) => wrWord s .sec 0 c.dom c.off c.word) s

/-- Whether some domain is both enabled and administering. -/
def someAdmin (s : State) : Bool := allDoms.any (fun d => domEnabled s d && domAdmin s d)

/-- A change of rights or of a tenant set waits for the finish, or is refused (20 R431). `none`: accepted. -/
def rightsWrite (s : State) (d off word : Nat) : Option Nat × State :=
  let c : RightsChange := { dom := d, off := off, word := if off = 0x148 then word % 32 else word }
  let cs := s.sec.changes ++ [c]
  if someAdmin (withChanges s cs) then (none, { s with sec := { s.sec with changes := cs } }) else (some E_SEC_LAST_ADMIN, s)

/-- What a change does at the finish at which it takes effect: it is measured, and a tenant that leaves a domain's set takes the domain from
its sessions. -/
def rightsApply (s : State) (c : RightsChange) : State :=
  let old := rdWord s .sec 0 c.dom c.off
  let s := measureChange (wrWord s .sec 0 c.dom c.off c.word) [1, c.dom, c.off, c.word]
  if c.off < 0x200 then s
  else
    let t0 := (c.off - 0x200) / 8 * 64
    let gone := (onesOf 64 old).filter (fun i => !bitOf c.word i)
    if gone.isEmpty then s
    else { s with ses := { s.ses with tab := mapAll s.ses.tab (fun _ x =>
      if gone.any (fun i => x.d.tenant = t0 + i) && bitOf x.d.domains c.dom then
        { x with d := { x.d with domains := x.d.domains - 2 ^ c.dom } }
      else x) } }

/-! ### Checkpoint keys (20 R432) -/

/-- `SEC_CKEY_CTRL` is written with `INSTALL`: a generation already held is refused. `none`: accepted. -/
def keyInstall (s : State) (t gen : Nat) : Option Nat × State :=
  let k := (mapGet s.sec.ckeys t).getD {}
  if k.cur = some gen ∨ k.prev = some gen then (some E_SEC_KEY, s)
  else (none, { s with sec := { s.sec with ckeys := mapSet s.sec.ckeys t { k with pend := some gen } } })

/-- Word w of a key being written. -/
def keyWord (s : State) (t w v : Nat) : State :=
  let k := (mapGet s.sec.ckeys t).getD {}
  { s with sec := { s.sec with ckeys := mapSet s.sec.ckeys t { k with words := setNth k.words w v } } }

/-- The new key becomes current, the former one previous; a key older than that is dropped. -/
def keyApply (s : State) (t : Nat) (k : CkpKey) : State :=
  match k.pend with
  | none => s
  | some gen =>
    let k := { k with
      prev := k.cur, prevKey := k.curKey, cur := some gen, curKey := k.words, words := [0, 0, 0, 0], pend := none }
    measureChange { s with sec := { s.sec with ckeys := mapSet s.sec.ckeys t k } } [2, t, gen]

/-! ### Allotments (20 R439, R441) -/

/-- The PCs that an allotment holds. -/
def Allot.pcList (a : Allot) : List Nat := (List.range 640).filter a.hasPc

/-- The allotment that a tenant's registers spell. -/
def allotOf (s : State) (t : Nat) : Allot :=
  { pcs := (List.range 10).map (fun k => rdFx s R.SEC_ALLOT_PC 0 t k), fch := rdB s R.SEC_ALLOT_FCH t, cmbg := rdB s R.SEC_ALLOT_CMBG t }

/-- Why `APPLY` is refused (20 R441). -/
def allotBad (s : State) (t : Nat) (a : Allot) : Bool :=
  let others := mapVals (mapErase s.sec.allots t)
  let all := a :: others
  let old := (mapGet s.sec.allots t).getD { pcs := [], fch := 0, cmbg := 0 }
  let overlap := others.any (fun b => a.pcList.any b.hasPc || a.fch &&& b.fch != 0 || a.cmbg &&& b.cmbg != 0)
  let noneLeft := (List.range 640).all (fun n => all.any (·.hasPc n)) || (List.range 32).all (fun n => all.any (fun b => bitOf b.fch n)) ||
    (List.range 16).all (fun n => all.any (fun b => bitOf b.cmbg n))
  let moved := (List.range 640).filter (fun n => a.hasPc n != old.hasPc n)
  let image := s.tier.ptes.any (fun e => e.2.cls = 4 && e.2.h && moved.contains (frameHb e.2.hFrame / 128))
  !isolated s || rdB s R.TIER_TEN_QH_QUOTA t = 0 || overlap || noneLeft || image ||
    (!a.pcList.isEmpty && (a.fch = 0 || a.cmbg = 0))

/-- The pages that break the allotments, in Tier H. -/
def allotBreaks (s : State) : List Nat :=
  (s.tier.ptes.filter (fun e => e.2.h && e.2.cls != 4 && !pcLends s e.2.tenant (frameHb e.2.hFrame / 128))).map (·.1)

/-- Migrations of the pages that break the allotments, class 2, kind 0x8. -/
def allotMoves (s : State) : State :=
  let held := (s.tier.ops.map (fun e => e.2.todo ++ e.2.flying)).flatten
  let ps := (allotBreaks s).filter (fun p => !held.contains p)
  if ps.isEmpty then s
  else startOp s {
    kind := 8, cls := 2, src := 0, dst := 0, tenant := 0xFFF, object := ps.headD 0 * 65536, isSes := false, start := 0, todo := ps }

/-- `SEC_ALLOT_CTRL.APPLY` (20 R441): new frames follow the new allotment, and the Mover migrates what breaks it. -/
def allotApply (s : State) (t : Nat) : Option Nat × State :=
  let a := allotOf s t
  if allotBad s t a then (some E_SEC_ALLOT, s)
  else
    let s := { s with sec := { s.sec with
      allots := if a.pcList.isEmpty && a.fch = 0 && a.cmbg = 0 then mapErase s.sec.allots t else mapSet s.sec.allots t a
      pending := setAdd s.sec.pending t } }
    (none, allotMoves (moveSealed s (fun s e => !chanLends s e.tenant ((Config.dieOfFrame e.fFrame).toNat / 8))))

/-- The first finish at which no page breaks a pending allotment. -/
def allotFinish (s : State) : State :=
  if s.sec.pending.isEmpty then s
  else if !(allotBreaks s).isEmpty then allotMoves s
  else
    let ts := s.sec.pending
    ts.foldl (fun s t =>
      let a := allotOf s t
      raiseBit (measureChange s ([3, t] ++ a.pcs ++ [a.fch, a.cmbg])) .sec 0 3 (.named EV_SEC_ALLOT [t] allDoms))
      { s with sec := { s.sec with pending := [] } }

/-! ### Image updates (20 R424, R429) -/

/-- The slot that did not boot takes an image. -/
def putSlot {α : Type} (xs : List α) (booted : Nat) (x : α) : List α :=
  if xs.length < 2 then (if booted = 0 then xs.take 1 ++ [x] else x :: xs.drop 1) else setNth xs (1 - booted) x

def refuseSec (s : State) (c : Cmd) (code : Nat) : State := finishCmd (recordErr s .sec 0 0 code) c code

/-- RIG_UPDATE with a Rigging image (20 R429). -/
def startRigUpdate (c : Cmd) (data : List Byte) (s : State) : State :=
  if !domAdmin s c.dom then refuseSec s c E_SEC_RIGHT
  else
    match qpCheck s c.dom (c.f3 32 16) with
    | some e => finishCmd s c e
    | none =>
      if c.f5 0 1 = 0 then
        let r := rigParse data
        if rigSigned s.sec.owner data && decide (s.sec.rigCtr ≤ r.version) && decide ((rigNow s).elim 0 (·.version) < r.version) then
          finishCmd { s with sec := { s.sec with rigs := putSlot s.sec.rigs s.sec.rigSlot { r with valid := true, digest := sha256 data } } } c E_OK
        else refuseSec s c E_SEC_RIGGING
      else
        let v := fwParse data
        let now := (s.sec.fws[s.sec.fwSlot]?).elim 0 (·.version)
        if fwSigned data && decide (s.sec.fwCtr ≤ v) && decide (now < v) then
          finishCmd { s with sec := { s.sec with fws := putSlot s.sec.fws s.sec.fwSlot {
            version := v, valid := true, digest := sha256 data } } } c E_OK
        else refuseSec s c E_SEC_RIGGING

def execRigUpdateRigging (c : Cmd) (data : List Byte) (s : State) : Host.Outcome State Fault Refusal :=
  .next (submit s c data startRigUpdate)
def execRigUpdateFirmware (c : Cmd) (data : List Byte) (s : State) : Host.Outcome State Fault Refusal :=
  .next (submit s c data startRigUpdate)

/-! ### Attestation (20 R437) -/

/-- The quote's 768 bytes (20 Table 20-5), all taken at once. -/
def quoteBytes (s : State) (n : Nat) (c : Cmd) : List Byte :=
  let b := leBytes 8 (0x57515554 + 2 ^ 32) ++ leBytes 8 (rdF s R.DEV_SERIAL) ++ leBytes 8 (rdWord s .dev 0 0 0x100) ++
    leBytes 8 (rdWord s .dev 0 0 0x110) ++ leBytes 8 (rdWord s .sec 0 0 0x100) ++ leBytes 8 (if s.stk.phase = .idle then 2 ^ 64 - 1 else s.stk.number) ++ leBytes 8 s.time.now ++ leBytes 8 0 ++
    packFields 8 [c.w4.toNat, c.w5.toNat, c.w6.toNat, c.w7.toNat] ++ List.replicate 32 0 ++ s.sec.meas.flatten
  b ++ padTo 384 (Config.identSign n b)

/-- The quote is taken and written with the certificate chain behind it. -/
def quoteNow (s : State) (c : Cmd) : State :=
  let (n, s) := nextFree s
  issueWrite s {
    qp := c.f3 32 16, rkey := c.f3 0 32, addr := c.w2.toNat, data := quoteBytes s n c ++ Config.identCert
    use := .now { cmd := c, status := E_OK, c0 := 768 + Config.identCert.length % 2 ^ 32 * 2 ^ 32 } }

/-- ATTEST: from any enabled domain; before strokes begin it is taken at once (22 R474). -/
def startAttest (c : Cmd) (_ : List Byte) (s : State) : State :=
  if !domEnabled s c.dom then refuseSec s c E_SEC_RIGHT
  else
    match qpCheck s c.dom (c.f3 32 16) with
    | some e => finishCmd s c e
    | none =>
      if s.stk.phase = .idle then quoteNow s c
      else { s with sec := { s.sec with quotes := s.sec.quotes ++ [{ cmd := c, bound := false }] } }

def execAttest (c : Cmd) (s : State) : Host.Outcome State Fault Refusal := .next (submit s c [] startAttest)

/-! ### Catch and finish -/

/-- Attestations bind at the catch. -/
def secCatch (s : State) : State :=
  { s with sec := { s.sec with quotes := s.sec.quotes.map (fun (q : Quote) => { q with bound := true }), plainBefore := s.sec.plainNow, plainNow := false } }

/-- What this chapter makes true at a finish: rights, keys, allotments; then the quotes, which show it. -/
def secFinish (s : State) : State :=
  let cs := s.sec.changes
  let s := cs.foldl rightsApply { s with sec := { s.sec with changes := [] } }
  let s := if cs.isEmpty then s else raiseBit s .sec 0 2 (.named EV_SEC_RIGHTS [] allDoms)
  let s := s.sec.ckeys.foldl (fun s (e : Nat × CkpKey) => keyApply s e.1 e.2) s
  allotFinish s

def quotesFinish (s : State) : State :=
  let due := s.sec.quotes.filter (·.bound)
  due.foldl (fun s (q : Quote) => quoteNow s q.cmd) { s with sec := { s.sec with quotes := s.sec.quotes.filter (fun (q : Quote) => !q.bound) } }

end Sys2Proof.Machine
end

