-- ==== Sys2Proof/Machine/SesRows.lean ====
section
/-! DEFINITION. The rows of session commands (03_sessions_and_epochs.md R47 to R57, 05 R114, 14 R310) and of the Text unit
(11_text_unit.md R236 to R258, R498): handing on, then what `SesCmd` and `Text` make of them. -/

namespace Sys2Proof.Machine

def execOpenSes (c : Cmd) (s : State) : Host.Outcome State Fault Refusal := .next (submit s c [] startOpen)
def execImportBegin (c : Cmd) (data : List Byte) (s : State) : Host.Outcome State Fault Refusal := .next (submit s c data startSes)
def execImportCommit (c : Cmd) (s : State) : Host.Outcome State Fault Refusal := .next (submit s c [] startSes)
def execImportAbort (c : Cmd) (s : State) : Host.Outcome State Fault Refusal := .next (submit s c [] startSes)
def execAppend (c : Cmd) (data : List Byte) (s : State) : Host.Outcome State Fault Refusal := .next (submit s c data startSes)
def execStep (c : Cmd) (s : State) : Host.Outcome State Fault Refusal := .next (submit s c [] startSes)
def execPark (c : Cmd) (s : State) : Host.Outcome State Fault Refusal := .next (submit s c [] startSes)
def execRevive (c : Cmd) (s : State) : Host.Outcome State Fault Refusal := .next (submit s c [] startSes)
def execFork (c : Cmd) (s : State) : Host.Outcome State Fault Refusal := .next (submit s c [] startSes)
def execExportSes (c : Cmd) (s : State) : Host.Outcome State Fault Refusal := .next (submit s c [] startSes)
def execPin (c : Cmd) (s : State) : Host.Outcome State Fault Refusal := .next (submit s c [] startSes)
def execRelease (c : Cmd) (s : State) : Host.Outcome State Fault Refusal := .next (submit s c [] startSes)
def execJoin (c : Cmd) (s : State) : Host.Outcome State Fault Refusal := .next (submit s c [] startSes)
def execMove (c : Cmd) (s : State) : Host.Outcome State Fault Refusal := .next (submit s c [] startMove)

def execVocabLoad (c : Cmd) (data : List Byte) (s : State) : Host.Outcome State Fault Refusal := .next (submit s c data startVocabLoad)
def execGrmLoad (c : Cmd) (data : List Byte) (s : State) : Host.Outcome State Fault Refusal := .next (submit s c data startGrmLoad)
def execTableUnload (c : Cmd) (s : State) : Host.Outcome State Fault Refusal := .next (submit s c [] startTableUnload)
def execStreamSession (c : Cmd) (data : List Byte) (s : State) : Host.Outcome State Fault Refusal := .next (submit s c data startSes)
def execStreamAllocate (c : Cmd) (s : State) : Host.Outcome State Fault Refusal := .next (submit s c [] startStreamAllocate)
def execStreamFree (c : Cmd) (s : State) : Host.Outcome State Fault Refusal := .next (submit s c [] startStreamFree)
def execStreamConfigure (c : Cmd) (data : List Byte) (s : State) : Host.Outcome State Fault Refusal :=
  .next (submit s c data startStreamConfigure)
def execTokenize (c : Cmd) (data : List Byte) (s : State) : Host.Outcome State Fault Refusal := .next (submit s c data startTokenize)
def execDetokenize (c : Cmd) (data : List Byte) (s : State) : Host.Outcome State Fault Refusal := .next (submit s c data startDetokenize)

/-- STREAM_ENGINE_TAKE (11 R234, R498): 64 stream engines. -/
def execStreamEngineTake (engine : Nat) (s : State) : Host.Outcome State Fault Refusal :=
  if 64 ≤ engine then .fault .noSuchUnit else .next (engineTake s engine)

/-- The masked head of a session with the table and vocabulary its masks are built from, and the configuration before its tokens (11
R252 to R254): an APPEND's position is rated from the start state. -/
def maskSource (s : State) (sid : Nat) : Option (Run × Grm × Vocab × GrmCfg) :=
  (sesOf s sid).bind (fun x => x.head.bind (fun r =>
    if !maskedHead x r then none
    else (mapGet s.txt.recs x.d.grmState).bind (fun k =>
      (if r.cmd.opcode = 0x12 then grmOf s x.d.grmTable else grmBound s k).bind (fun g => (vocabOf s g.model).map (fun v =>
        if r.cmd.opcode = 0x12 then (r, g, v, { st := g.start, stack := [], rejected := false })
        else (r, g, v, (x.provToks.take r.accept).foldl (grmAdvance g v) (recCfg k)))))))

/-- MASK_BUILD (11 R252, R253): index 0 of a step follows its token, index n its draft n. -/
def maskBuild (s : State) (sid idx : Nat) : State :=
  match maskSource s sid with
  | none => s
  | some (r, g, v, c) =>
    if r.cmd.opcode = 0x12 then (if idx = 0 then maskPut s sid 0 (maskNs g v c.st) (maskOfCfg g v c) else s)
    else
      match (cfgRun g v c r.toks)[idx + 1]? with
      | some c => maskPut s sid idx (maskNs g v c.st) (maskOfCfg g v c)
      | none => s

def execMaskBuild (sid idx : Nat) (s : State) : Host.Outcome State Fault Refusal := .next (maskBuild s sid idx)

/-- QUOTA_WAIT_EXPIRY of a session's head, of a waiting OPEN, of a course (05 R98, 10 R229). -/
def execQuotaWaitExpiry (who : Waiter) (s : State) : Host.Outcome State Fault Refusal :=
  .next (match who with
    | .session sid => quotaExpiry s sid
    | .opening i => openExpiry s i
    | .course crew => courseExpiry s crew
    | .restore id => restExpiry s id)

end Sys2Proof.Machine
end

