-- ==== Sys2Proof/Machine/Time.lean ====
section
/-! DEFINITION. Device time, the servo and the time rows (06_the_stroke.md R119 to R125, R134; 15 R333). -/

namespace Sys2Proof.Machine

/-! ### Realignment (06 R125) -/

/-- How long a stroke that began at `start` lasts when it is lengthened until the first boundary `origin` + m × `T`, in a time that is `by_`
ahead, that lies at least `least` after its start: one nominal period, and the length it has already where that is more, since a stroke is
never shortened. -/
def alignedLength (start least T origin : Nat) (by_ : Int) : Nat :=
  least + (((origin : Int) - ((start + least : Nat) + by_)) % (T : Int)).toNat

/-- The stroke in progress is lengthened for a step of device time (0 for a realignment alone); `STK_ORIGIN` takes effect
(06 Table 06-6). -/
def lengthen (s : State) (by_ : Int) : State :=
  let origin := rdF s R.STK_ORIGIN
  if s.stk.phase = .idle then s
  else { s with stk := { s.stk with
    origin := origin, length := alignedLength s.stk.start (max s.stk.length (1000 * s.stk.period)) (1000 * s.stk.period) origin by_ } }

/-- Device time is stepped: at the stroke boundary, or at once before strokes begin (06 R121). -/
def stepTime (s : State) (by_ : Int) : State :=
  let s := wrF s R.STK_TIME_STATUS_STEPPED 1
  if s.stk.phase = .idle then { s with time := { s.time with now := ((s.time.now : Int) + by_).toNat } }
  else { lengthen s by_ with time := { s.time with stepBy := some by_ } }

/-- Device time has reached `t`, as a row that carries a time says; never past the end of the stroke in progress. -/
def timeAt (s : State) (t : Nat) : State :=
  let t := if s.stk.phase = .idle then t else min t (s.stk.start + s.stk.length)
  if s.time.now < t then { s with time := { s.time with now := t } } else s

/-! ### Sources (06 R120) -/

/-- The order of the default dataset comparison of IEEE 1588-2019 on the fields of a dataset. -/
def ptpKey (d : PtpDataset) : List Nat := [d.prio1, d.clkClass, d.accuracy, d.variance, d.prio2, d.identity, d.steps]

/-- Whether a dataset is better than another. -/
def betterMaster (a b : PtpDataset) : Bool := lexLe (ptpKey a) (ptpKey b) && ptpKey a != ptpKey b

/-- The interface of a port with a selected master; the lower one where both have equal masters. -/
def portMaster (s : State) (p : Nat) : Option (Nat × PtpDataset) :=
  match mapGet s.time.masters (2 * p), mapGet s.time.masters (2 * p + 1) with
  | some a, some b => if betterMaster b a then some (2 * p + 1, b) else some (2 * p, a)
  | some a, none => some (2 * p, a)
  | none, some b => some (2 * p + 1, b)
  | none, none => none

/-- The interface whose measurements discipline device time (06 Table 06-1). -/
def timeIface (s : State) : Option Nat :=
  match rdF s R.STK_TIME_CFG_SRC with
  | 1 => (portMaster s 0).map (·.1)
  | 2 => (portMaster s 1).map (·.1)
  | 3 =>
    match portMaster s 0, portMaster s 1 with
    | some a, some b => if betterMaster b.2 a.2 then some b.1 else some a.1
    | some a, none => some a.1
    | none, some b => some b.1
    | none, none => none
  | _ => none

/-! ### The servo (06 R121, R122) -/

/-- The lock state changes; a change to or from LOCKED raises its bit (06 R122). -/
def setLock (s : State) (l : Nat) : State :=
  let was := rdF s R.STK_TIME_STATUS_LOCK
  let s := wrF s R.STK_TIME_STATUS_LOCK l
  if was ≠ l ∧ (was = 2 ∨ l = 2) then raiseBit s .stk 0 3 (.tied EV_TIME_LOCK [rdWord s .stk 0 0 0x130]) else s

/-- A frequency adjustment that removes an offset of 1 ms or less: the spec bounds it at ±100 ppm and gives no value
(notes/assumptions/6.md). -/
def freeAdjust (s : State) : State :=
  let (n, s) := nextFree s
  { s with time := { s.time with adj := unsigned 32 (((Config.freeWord n).toNat % 200001 : Nat) - 100000) } }

/-- An update from the selected source: its offset is device time less the source's time. The first one after reset steps device time; an
offset of 1 ms or less is slewed away; device time that is more than 1 ms behind is stepped forward; device time that is more than 1 ms
ahead is slewed at −100 ppm, never stepped. -/
def servo (s : State) (offset : Int) : State :=
  let s := wrF s R.STK_TIME_OFFSET (unsigned 64 offset)
  let good := if offset.natAbs < rdF s R.STK_TIME_CFG_LOCK_NS then s.time.good + 1 else 0
  let s := { s with time := { s.time with good := good } }
  let s := setLock s (if 16 ≤ good then 2 else 1)
  if !s.time.firstLock then stepTime { s with time := { s.time with firstLock := true } } (-offset)
  else if offset.natAbs ≤ 1000000 then freeAdjust s
  else if offset < 0 then stepTime s (-offset)
  else raiseBit { s with time := { s.time with adj := unsigned 32 (-100000) } } .stk 0 4 (.tied EV_TIME_FAULT [rdF s R.STK_TIME_OFFSET])

/-- `STK_TIME_STATUS.PORT` names the port of the interface whose master is selected (06 Table 06-6); 0 where there is none. -/
def choosePort (s : State) : State := wrF s R.STK_TIME_STATUS_PORT ((timeIface s).elim 0 (· / 2))

/-- A new time source (06 R120): the lock is lost, and without a source the clock runs free. -/
def setSource (s : State) (src : Nat) : State :=
  if rdF s R.STK_TIME_CFG_SRC = src then s
  else
    let s := wrF { s with time := { s.time with good := 0 } } R.STK_TIME_CFG_SRC src
    setLock (choosePort s) (if src = 0 then 0 else 1)

/-! ### Rows -/

/-- PTP_MESSAGE (15 R333): messages of another transport, delay mechanism or domain are not the clock's. An Announce replaces the
interface's master if it is from the same clock or better; a measured offset feeds the servo where its interface is the selected one. -/
def ptpMessage (s : State) (i : Nat) (m : PtpMsg) : State :=
  if rdPort s R.PORT_CFG_PTP_EN i ≠ 1 ∨ m.transport ≠ rdPort s R.PORT_CFG_PTP_TRANSPORT i ∨ b2n m.p2p ≠ rdPort s R.PORT_CFG_PTP_P2P i ∨
      m.domain ≠ rdPort s R.PORT_CFG_PTP_DOMAIN i ∨ !linkUp s i then s
  else
    match m.kind with
    | .announce d =>
      let take := match mapGet s.time.masters i with
        | some e => e.identity == d.identity || betterMaster d e
        | none => true
      if take then choosePort { s with time := { s.time with masters := mapSet s.time.masters i d } } else s
    | .announceLost => choosePort { s with time := { s.time with masters := mapErase s.time.masters i } }
    | .offset ns => if timeIface s = some i then servo s ns else s

def execPtpMessage (iface : Nat) (m : PtpMsg) (s : State) : Host.Outcome State Fault Refusal :=
  if 4 ≤ iface then .fault .noSuchUnit else .next (ptpMessage s iface m)

/-- PPS_IN_EDGE (06 R120): with `SRC` 4 the edge marks a whole second. `offset` is how far device time stands from the nearest whole second at
the edge. The seconds are those of `STK_TIME_SET` at the first edge after it is written; later edges mark the whole seconds that follow it
(notes/assumptions/103.md). -/
def ppsEdge (s : State) (offset : Int) : State :=
  if rdF s R.STK_TIME_CFG_SRC ≠ 4 then s
  else if s.time.ppsSet then
    let near : Int := ((s.time.now + 500000000) / 1000000000 : Nat)
    servo { s with time := { s.time with ppsSet := false } } ((near - (rdWord s .stk 0 0 0x128 : Nat)) * 1000000000 + offset)
  else servo s offset

def execPpsInEdge (offset : Int) (s : State) : Host.Outcome State Fault Refusal := .next (ppsEdge s offset)

/-- TIME_HOLDOVER (06 R122): no update came for 4 s; the last frequency adjustment is kept. A clock without a source stays FREE. -/
def execTimeHoldover (s : State) : Host.Outcome State Fault Refusal :=
  .next (if rdF s R.STK_TIME_CFG_SRC = 0 ∨ rdF s R.STK_TIME_STATUS_LOCK = 0 then s
    else setLock { s with time := { s.time with good := 0 } } 3)

/-- PPS_OUT_PULSE (06 R134): at a boundary whose stroke number is a multiple of `PPS_DIV`, or at a whole second of device time. -/
def execPpsOutPulse (s : State) : Host.Outcome State Fault Refusal :=
  .next (
    let due := if rdF s R.STK_TIME_CFG_PPS_MODE = 1 then
        s.stk.phase == .drive && s.stk.number % max 1 (rdF s R.STK_TIME_CFG_PPS_DIV) == 0
      else true
    if due then { s with mod := { s.mod with ppsOut := some (
      if rdF s R.STK_TIME_CFG_PPS_MODE = 1 then s.stk.start else (s.time.now + 999999999) / 1000000000 * 1000000000) } } else s)

end Sys2Proof.Machine
end

