-- ==== Sys2Proof/Machine/Umpire.lean ====
section
/-! DEFINITION. The tally link and the Umpire (19_umpire.md). -/

namespace Sys2Proof.Machine

/-! ### The commit hardware's side (19 R406, R407) -/

def crcByte (c b : Nat) : Nat :=
  (List.range 8).foldl (fun c _ => if c % 2 = 1 then c / 2 ^^^ 0xEDB88320 else c / 2) (c ^^^ b)

/-- The CRC-32 of IEEE 802.3. -/
def crc32 (bs : List Byte) : Nat := (bs.foldl (fun c b => crcByte c b.toNat) 0xFFFFFFFF) ^^^ 0xFFFFFFFF

/-- A tally record's 32 bytes (19 Table 19-2). -/
def TallyRec.bytes (r : TallyRec) : List Byte :=
  leBytes 8 (r.session % 2 ^ 24 + r.gen % 256 * 2 ^ 24 + r.kind % 16 * 2 ^ 32 + b2n r.text * 2 ^ 36 + r.detok % 256 * 2 ^ 40) ++
    leBytes 8 r.meter ++ leBytes 8 (r.tokIn % 2 ^ 32 + r.tokOut % 256 * 2 ^ 32 + r.textBytes % 2 ^ 16 * 2 ^ 48) ++
    leBytes 8 (r.blade % 2 ^ 32 + r.cmb % 2 ^ 32 * 2 ^ 32)

def tallyOf (bs : List Byte) : TallyRec :=
  let w := fun i => u64 bs (8 * i)
  { session := bitsOf (w 0) 0 24, gen := bitsOf (w 0) 24 8, kind := bitsOf (w 0) 32 4, text := bitOf (w 0) 36, detok := bitsOf (w 0) 40 8
    meter := w 1, tokIn := bitsOf (w 2) 0 32, tokOut := bitsOf (w 2) 32 8, textBytes := bitsOf (w 2) 48 16
    blade := bitsOf (w 3) 0 32, cmb := bitsOf (w 3) 32 32 }

/-- The pages of a session that count as parked: its private pages in Tier F while it is PARKED (19 Table 19-1). -/
def parkedPages (s : State) (x : Ses) : Nat :=
  if x.d.st == .parked then (x.privPages.filter (fun p => (pteOf s p).any (·.f))).length else 0

/-- `KIND` 2 records for the sessions whose parked pages changed at this finish. -/
def tallyParked (s : State) : State :=
  s.ses.tab.foldl (fun s (e : Nat × Ses) =>
    let n := parkedPages s e.2
    if (mapGet s.ump.parkedSent e.2.d.meterId).getD 0 = n then s
    else
      let s := tally s { sesTally e.2 2 with tokIn := n }
      { s with ump := { s.ump with
          parkedSent := if n = 0 then mapErase s.ump.parkedSent e.2.d.meterId else mapSet s.ump.parkedSent e.2.d.meterId n } }) s

/-- A tally frame: a 32-byte head of stroke, device time, record count and sequence number, the records, and a CRC-32
(19 R406; notes/assumptions/41.md). -/
def tallyBytes (stroke time seq : Nat) (rs : List TallyRec) : List Byte :=
  let b := leBytes 8 stroke ++ leBytes 8 time ++ leBytes 8 rs.length ++ leBytes 8 seq ++ (rs.map TallyRec.bytes).flatten
  b ++ leBytes 4 (crc32 b)

/-- At each finish one frame goes to the Umpire, with or without records (19 R406). -/
def tallySend (s : State) : State :=
  let s := tallyParked s
  let s := { s with ump := { s.ump with
    recs := []
    seq := s.ump.seq + 1
    wire := if s.ump.link then s.ump.wire ++ [tallyBytes s.stk.number s.time.now s.ump.seq s.ump.recs] else s.ump.wire } }
  { s with ump := { s.ump with tens := mapAll s.ump.tens (fun _ t => { t with nowCmds := [], nowDue := t.nowDue ++ t.nowCmds }) } }

/-! ### The Umpire's log (19 R414) -/

/-- An event record's 64 bytes (19 R414; notes/assumptions/41.md): kind, Umpire time, two words, and the hash that chains it. -/
def UmpEvent.bytes (e : UmpEvent) : List Byte :=
  leBytes 8 e.kind ++ leBytes 8 e.time ++ leBytes 8 e.words.1 ++ leBytes 8 e.words.2 ++ e.chain

/-- An event record is written while the event area has room; its chain is the SHA-256 of the record before it. -/
def umpEvent (s : State) (kind : Nat) (words : Nat × Nat) : State :=
  if 4096 ≤ s.ump.events.length then s
  else
    let chain := match s.ump.events.getLast? with | some e => sha256 e.bytes | none => List.replicate 32 0
    { s with ump := { s.ump with events := s.ump.events ++ [{ kind := kind, time := s.ump.time, words := words, chain := chain }] } }

def eventsFull (s : State) : Bool := decide (4096 ≤ s.ump.events.length)

def umpTen (s : State) (t : Nat) : UmpTen := (mapGet s.ump.tens t).getD {}
def setTen (s : State) (t : Nat) (x : UmpTen) : State := { s with ump := { s.ump with tens := mapSet s.ump.tens t x } }

/-- The tenant of a meter record. -/
def meterTenant (m : Nat) : Nat := m % 4096

/-- The tenants that the Umpire knows: those of its meter records and of its receipts. -/
def umpTenants (s : State) : List Nat :=
  ((mapKeys s.ump.meters).map meterTenant ++ mapKeys s.ump.tens).foldl setAdd []

/-- The bytes that a receipt area of 4 GiB less the event area keeps (19 R414). -/
def receiptArea : Nat := 2 ^ 32 - 4096 * 64

def receiptSize (r : Receipt) : Nat := r.body.length + 384

/-! ### Closing receipts (19 R410, R411) -/

/-- A receipt line (19 Table 19-4). -/
def Meter.line (id : Nat) (m : Meter) : List Byte :=
  leBytes 8 (m.session % 2 ^ 24 + m.gen % 256 * 2 ^ 24 + b2n m.openedNow * 2 ^ 32 + b2n m.closedNow * 2 ^ 33 + b2n (m.mismatches != 0) * 2 ^ 34 +
      b2n (!m.hasText) * 2 ^ 35 + min m.mismatches 4095 * 2 ^ 36) ++
    leBytes 8 id ++ leBytes 8 m.tokIn ++ leBytes 8 m.tokOut ++ leBytes 8 m.blade ++ leBytes 8 m.cmb ++ leBytes 8 (m.parkedNs / 1000) ++
    leBytes 8 m.textBytes

/-- A receipt's header with PREV_HASH still zero, and its lines (19 Table 19-3). -/
def receiptBody (s : State) (t : Nat) (x : UmpTen) (part parts rseq : Nat) (lines : List (Nat × Meter)) : List Byte :=
  leBytes 8 (0x57554D52 + 2 ^ 32) ++ leBytes 8 Config.umpSerial.toNat ++
    leBytes 8 (t + part % 256 * 2 ^ 16 + parts % 256 * 2 ^ 24 + lines.length * 2 ^ 32 + b2n s.ump.tamper * 2 ^ 48 + b2n x.gap * 2 ^ 49 +
      b2n (lines.any (fun e => e.2.mismatches != 0)) * 2 ^ 50 + b2n s.ump.updated * 2 ^ 51 + b2n s.ump.clockBad * 2 ^ 52 + b2n x.power * 2 ^ 53) ++
    leBytes 8 rseq ++ leBytes 8 x.start ++ leBytes 8 s.ump.time ++ leBytes 8 s.ump.lastStroke ++ leBytes 8 s.ump.lastDev ++
    List.replicate 32 0 ++ s.ump.fwHash ++ (lines.map (fun e => e.2.line e.1)).flatten

/-- A tenant's receipt is closed with a line for each changed meter record, 1,024 to a part (19 R410); where the receipt area is full of
unacknowledged receipts it is not (19 R414). -/
def closeReceipt (s : State) (t : Nat) : State :=
  let lines := s.ump.meters.filter (fun (e : Nat × Meter) => meterTenant e.1 = t && e.2.changed)
  if lines.isEmpty then s
  else
    let x := umpTen s t
    let parts := chunks 1024 lines
    let rs := ((List.range parts.length).zip parts).map (fun (e : Nat × List (Nat × Meter)) =>
      { tenant := t, rseq := x.nextRseq + e.1, body := receiptBody s t x e.1 parts.length (x.nextRseq + e.1) e.2 : Receipt })
    let need := sumOf (rs.map receiptSize)
    let open_ := s.ump.receipts.filter (fun r => !r.acked)
    if receiptArea < sumOf (open_.map receiptSize) + need then
      raiseBit { s with ump := { s.ump with logFull := true } } .ump 0 4 (.named EV_UMP_LOG_FULL [] allDoms)
    else
      let held := if receiptArea < sumOf (s.ump.receipts.map receiptSize) + need then open_ else s.ump.receipts
      let s := { s with ump := { s.ump with
        receipts := held ++ rs
        logFull := false
        meters := mapAll s.ump.meters (fun k m => if meterTenant k = t && m.changed then
          { m with openedNow := false, closedNow := false, mismatches := 0, changed := false } else m) } }
      setTen s t { x with nextRseq := x.nextRseq + parts.length, start := s.ump.time, gap := false, power := false }

/-- Whether a tenant's previous receipt has been signed (19 R410). -/
def allSigned (s : State) (t : Nat) : Bool := s.ump.receipts.all (fun r => r.tenant != t || r.bytes.isSome)

/-! ### Counting frames (19 R404 to R409) -/

/-- What one record adds (19 R404, R405, R409). -/
def countRec (s : State) (r : TallyRec) : State :=
  let m := (mapGet s.ump.meters r.meter).getD { session := r.session, gen := r.gen, tenant := meterTenant r.meter, hasText := r.text }
  let m := { m with hasText := r.text }
  let put := fun (s : State) (m : Meter) => { s with ump := { s.ump with meters := mapSet s.ump.meters r.meter m } }
  match r.kind with
  | 1 =>
    let bad := r.text && r.detok != r.tokOut
    let m := { m with
      tokIn := m.tokIn + r.tokIn, tokOut := m.tokOut + r.tokOut, textBytes := m.textBytes + r.textBytes
      blade := m.blade + r.blade, cmb := m.cmb + r.cmb, mismatches := m.mismatches + b2n bad, changed := true }
    let s := put s m
    if bad then raiseBit { s with ump := { s.ump with mismatches := s.ump.mismatches + 1 } } .ump 0 3 (.named EV_UMP_MISMATCH [] allDoms)
    else s
  | 2 => put s { m with parked := r.tokIn }
  | 3 => put s { m with openedNow := true, changed := true }
  | 4 => put s { m with closedNow := true, changed := true, parked := 0 }
  | _ => s

/-- A gap (19 R408): recorded, set in every tenant's next receipt, announced with the strokes missing; sixteen within 64 strokes take the
link down. -/
def umpGap (s : State) (first last : Nat) : State :=
  let s := umpEvent s 5 (first, last)
  let s := (umpTenants s).foldl (fun s t => setTen s t { umpTen s t with gap := true }) s
  let s := raiseBit s .ump 0 2 (.named EV_UMP_GAP [first, last] allDoms)
  let recent := (s.ump.gapStrokes ++ [last]).filter (fun g => decide (last < g + 64))
  { s with ump := { s.ump with gaps := s.ump.gaps + 1, gapStrokes := recent, link := s.ump.link && decide (recent.length < 16) } }

/-- Umpire time that passed while device time passed `dt` ns: within 50 ppm (19 R405). -/
def umpElapsed (s : State) (dt : Nat) : Nat := dt * (10 ^ 6 + (Config.umpPpm s.ump.expSeq).toNat % 101 - 50) / 10 ^ 6

/-- `RECEIPT_NOW`s whose finish this frame reports (19 Table 19-5). -/
def nowServe (s : State) : State :=
  s.ump.tens.foldl (fun s (e : Nat × UmpTen) =>
    if e.2.nowDue.isEmpty then s
    else
      let s := closeReceipt s e.1
      let s := e.2.nowDue.foldl (fun s c => finishCmd s c E_OK) s
      setTen s e.1 { umpTen s e.1 with nowDue := [] }) s

/-- A whole frame with a good CRC is counted; time passes for parked pages (19 R404, R406). -/
def countFrame (s : State) (f : List Byte) : State :=
  let stroke := u64 f 0
  let dev := u64 f 8
  let seq := u64 f 24
  let want := s.ump.expStroke.getD stroke
  let s := if seq ≠ s.ump.expSeq ∨ stroke ≠ want then umpGap s want (stroke - 1) else s
  let dt := if s.ump.expStroke.isSome then umpElapsed s (dev - s.ump.lastDev) else 0
  let s := { s with ump := { s.ump with
    meters := mapAll s.ump.meters (fun _ m => if m.parked = 0 || dt = 0 then m else
      { m with parkedNs := m.parkedNs + m.parked * dt, changed := true })
    time := s.ump.time + dt
    periodDev := if s.ump.expStroke.isNone && s.ump.periodDev = 0 then dev else s.ump.periodDev
    lastDev := dev, lastStroke := stroke, expSeq := seq + 1, expStroke := some (stroke + 1) } }
  let s := ((List.range (min (u64 f 16) f.length)).map (fun i => tallyOf (bytesAt f (32 + 32 * i) 32))).foldl countRec s
  nowServe s

/-- TALLY_FRAME (19 R406, R408): a frame arrives while the Umpire runs and the link is up. -/
def tallyFrame (s : State) (f : List Byte) (ok : Bool) : State :=
  if !umpUp s then s
  else
    let s := { s with ump := { s.ump with wire := s.ump.wire.drop 1 } }
    if ok then countFrame s f else umpGap s (s.ump.expStroke.getD s.stk.number) (s.ump.expStroke.getD s.stk.number)

def execTallyFrame (f : List Byte) (crcOk : Bool) (s : State) : Host.Outcome State Fault Refusal := .next (tallyFrame s f crcOk)

/-! ### Period ends, signing (19 R410, R411, R415, R416) -/

/-- Whether the clocks differ by more than 200 ppm over the period (19 R415). -/
def clockOff (ump dev : Nat) : Bool := decide (200 * dev < 10 ^ 6 * (if ump < dev then dev - ump else ump - dev))

/-- RECEIPT_PERIOD_END: the finish just counted ends a receipt period. -/
def periodEnd (s : State) (umpNs : Nat) : State :=
  if s.ump.run != .running || s.ump.lastStroke % max 1 s.ump.period != 0 then s
  else
    let bad := clockOff umpNs (s.ump.lastDev - s.ump.periodDev)
    let s := { s with ump := { s.ump with clockBad := bad, periodDev := s.ump.lastDev } }
    let s := if bad then umpEvent s 6 (umpNs, s.ump.lastDev) else s
    let s := match s.ump.newFw with
      | none => { s with ump := { s.ump with updated := false } }
      | some h =>
        let s := umpEvent s 3 (leNat (s.ump.fwHash.take 8), leNat (h.take 8))
        { s with ump := { s.ump with fwHash := h, newFw := none, updated := true } }
    let s := (umpTenants s).foldl (fun s t => if allSigned s t then closeReceipt s t else s) s
    { s with ump := { s.ump with period := s.ump.nextPeriod.getD s.ump.period, nextPeriod := none } }

def execReceiptPeriodEnd (umpNs : Nat) (s : State) : Host.Outcome State Fault Refusal := .next (periodEnd s umpNs)

/-- RECEIPT_SIGNED: the tenant's oldest unsigned receipt takes the hash of the one before it and its signature (19 R411), and goes to the
domains with a right to the tenant (19 R410). -/
def signReceipt (s : State) (t : Nat) : State :=
  if s.ump.run != .running then s
  else
    match s.ump.receipts.find? (fun r => r.tenant == t && r.bytes.isNone) with
    | none => s
    | some r =>
      let x := umpTen s t
      let b := r.body.take 64 ++ x.prevHash ++ r.body.drop 96
      let (n, s) := nextFree s
      let whole := b ++ padTo384 (Config.umpSign n b)
      let s := { s with ump := { s.ump with receipts := s.ump.receipts.map (fun q => if q = r then { q with bytes := some whole } else q) } }
      let s := setTen s t { x with prevHash := sha256 whole }
      { s with out := { s.out with rcpts := s.out.rcpts ++ (tenantDoms s t).map (fun d => (d, whole)) } }
where
  padTo384 (bs : List Byte) : List Byte := bs.take 384 ++ List.replicate (384 - bs.length) 0

def execReceiptSigned (tenant : Nat) (s : State) : Host.Outcome State Fault Refusal := .next (signReceipt s tenant)

/-! ### Tamper, seal, self-test, link (19 R406, R414, R417; 23 R487) -/

/-- The `SEAL_OK` pin (23 R487). -/
def sealPin (s : State) : Bool := s.ump.run == .running && !s.ump.tamper

/-- The event of an opened cover. -/
def tamperEvent (s : State) : State :=
  raiseBit (umpEvent { s with ump := { s.ump with tamperDue := false } } 1 (0, 0)) .ump 0 6 (.named EV_UMP_TAMPER [] allDoms)

/-- TAMPER_OPEN (19 R417): the latch holds without power; what was latched unpowered is found at the next power-up. -/
def tamperOpen (s : State) : State :=
  let s := { s with ump := { s.ump with tamper := true, tamperDue := true } }
  if s.ump.run == .running || s.ump.run == .selfTest then tamperEvent s else s

def execTamperOpen (s : State) : Host.Outcome State Fault Refusal := .next (tamperOpen s)

/-- SEAL_RECORD (19 R417): only an authorised verifier clears the latch. -/
def execSealRecord (number : Nat) (authorised : Bool) (s : State) : Host.Outcome State Fault Refusal :=
  .next (if !authorised || s.ump.run != .running then s
    else umpEvent { s with ump := { s.ump with tamper := false, tamperDue := false, sealNo := number % 2 ^ 32 } } 2 (number % 2 ^ 32, 0))

/-! ### Requests (19 R413, R416) -/

/-- A refusal of the Umpire path. -/
def refuseUmp (s : State) (c : Cmd) (code : Nat) : State := finishCmd (recordErr s .ump 0 0 code) c code

/-- Bytes for host memory at the place a request names; the completion follows their acknowledgement. -/
def umpWrite (s : State) (c : Cmd) (data : List Byte) (count : Nat) : State :=
  let d : Done := { cmd := c, status := E_OK, c0 := count }
  if data.isEmpty then stageDone s d
  else issueWrite s { qp := c.f4 32 16, rkey := c.f4 0 32, addr := c.w3.toNat, data := data, use := .now d }

/-- Why a request is refused before the Umpire takes it (19 R413, Table 19-5; 15 R353). -/
def umpCode (s : State) (c : Cmd) : Option Nat :=
  let t := c.f2 4 12
  let qp := qpCheck s c.dom (c.f4 32 16)
  let ten := codeIf (!domTenant s c.dom t) E_UMP_DENIED
  match c.f2 0 4 with
  | 0 => ten
  | 1 => firstCode [ten, qp]
  | 2 => ten
  | 3 => firstCode [codeIf (!domRegWrite s c.dom) E_UMP_DENIED, qp]
  | 4 => firstCode [codeIf (!domRegWrite s c.dom) E_UMP_DENIED,
      codeIf (decide (c.f5 0 32 < 256) || decide (4000000 < c.f5 0 32)) E_UMP_INVALID, codeIf (eventsFull s) E_UMP_LOG_FULL]
  | 5 => firstCode [codeIf (!domPlanLoad s c.dom) E_UMP_DENIED, codeIf (eventsFull s) E_UMP_LOG_FULL, qp]
  | 6 => qp
  | _ => some E_UMP_INVALID

/-- What the Umpire makes of a request (19 Table 19-5). -/
def umpServe (s : State) (c : Cmd) (data : List Byte) : State :=
  let t := c.f2 4 12
  match c.f2 0 4 with
  | 0 => setTen s t { umpTen s t with nowCmds := (umpTen s t).nowCmds ++ [c] }
  | 1 =>
    let rs := ((s.ump.receipts.filter (fun r => r.tenant = t && decide (c.w5.toNat ≤ r.rseq))).filterMap (·.bytes)).take (c.f6 0 16)
    umpWrite s c rs.flatten rs.length
  | 2 =>
    let s := { s with ump := { s.ump with receipts := s.ump.receipts.map (fun (r : Receipt) =>
      if r.tenant = t && decide (r.rseq ≤ c.w5.toNat) && r.bytes.isSome then { r with acked := true } else r) } }
    finishCmd { s with ump := { s.ump with
      logFull := s.ump.logFull && decide (receiptArea ≤ sumOf ((s.ump.receipts.filter (fun r => !r.acked)).map receiptSize)) } } c E_OK
  | 3 =>
    let es := (s.ump.events.drop c.w5.toNat).take (c.f6 0 16)
    umpWrite s c (es.map UmpEvent.bytes).flatten es.length
  | 4 => finishCmd (umpEvent { s with ump := { s.ump with nextPeriod := some (c.f5 0 32) } } 4 (c.f5 0 32, 0)) c E_OK
  | 5 =>
    if Config.umpImageOk data then finishCmd { s with ump := { s.ump with newFw := some (sha256 data) } } c E_OK
    else refuseUmp s c E_UMP_INVALID
  | _ => umpWrite s c Config.umpCert 0

/-- UMP_REQ: a request that the Umpire cannot take yet waits until it runs (notes/assumptions/42.md). -/
def startUmp (c : Cmd) (data : List Byte) (s : State) : State :=
  match umpCode s c with
  | some e => if e = E_QP_DENIED ∨ e = E_QP_ERROR then finishCmd s c e else refuseUmp s c e
  | none =>
    if s.ump.run == .running then umpServe s c data
    else { s with ump := { s.ump with requests := s.ump.requests ++ [(c, data)] } }

def execReceiptNow (c : Cmd) (s : State) : Host.Outcome State Fault Refusal := .next (submit s c [] startUmp)
def execLogRead (c : Cmd) (s : State) : Host.Outcome State Fault Refusal := .next (submit s c [] startUmp)
def execUmpAck (c : Cmd) (s : State) : Host.Outcome State Fault Refusal := .next (submit s c [] startUmp)
def execEventRead (c : Cmd) (s : State) : Host.Outcome State Fault Refusal := .next (submit s c [] startUmp)
def execSetPeriod (c : Cmd) (s : State) : Host.Outcome State Fault Refusal := .next (submit s c [] startUmp)
def execFwUpdate (c : Cmd) (data : List Byte) (s : State) : Host.Outcome State Fault Refusal := .next (submit s c data startUmp)
def execCertRead (c : Cmd) (s : State) : Host.Outcome State Fault Refusal := .next (submit s c [] startUmp)

/-- UMP_SELF_TEST_END (19 R406, R414): the Umpire runs, or stands in fault; its result is an event record, and an opening of the cover
while it was unpowered is found. -/
def umpSelfTest (s : State) (ok : Bool) : State :=
  if s.ump.run != .selfTest then s
  else
    let s := umpEvent { s with ump := { s.ump with run := if ok then .running else .fault } } 8 (b2n ok, 0)
    let s := if s.ump.tamperDue then tamperEvent s else s
    if !ok then s
    else
      let rs := s.ump.requests
      rs.foldl (fun s (e : Cmd × List Byte) => umpServe s e.1 e.2) { s with ump := { s.ump with requests := [] } }

def execUmpSelfTestEnd (ok : Bool) (s : State) : Host.Outcome State Fault Refusal := .next (umpSelfTest s ok)

/-- TALLY_LINK_UP (19 R406): the link is trained; numbering goes on from the next frame. -/
def execTallyLinkUp (s : State) : Host.Outcome State Fault Refusal :=
  .next (if s.ump.run == .off then s
    else { s with ump := { s.ump with link := true, gapStrokes := [], expSeq := s.ump.seq, expStroke := none } })

/-! ### Power (19 R418) -/

/-- Power fails: the frames sent are counted, an event record is written, and each tenant's period ends with `POWER`. -/
def umpPowerLoss (s : State) : State :=
  if s.ump.run != .running then s
  else
    let s := s.ump.wire.foldl (fun s f => tallyFrame s f true) s
    let s := umpEvent s 7 (s.ump.lastStroke, 0)
    (umpTenants s).foldl (fun s t => setTen s t { umpTen s t with power := true }) s

/-- The Umpire is without power. -/
def umpOff (s : State) : State := { s with ump := { s.ump with run := .off, link := false, wire := [], recs := [], expStroke := none } }

/-- The Umpire starts at power-on (22 R465). Its firmware is the one it was made with until it is changed. -/
def umpPowerOn (s : State) : State :=
  if s.ump.run != .off then s
  else { s with ump := { s.ump with
    run := .selfTest
    fwHash := if s.ump.fwHash.isEmpty then packFields 8 ((List.range 4).map (fun i => (Config.umpFwHash i).toNat)) else s.ump.fwHash } }

/-! ### The mirror (19 R420) -/

def umpFigures (s : State) : State :=
  let s := wrF (wrF (wrF s R.UMP_STATUS_STATE s.ump.run.code) R.UMP_STATUS_LINK (b2n s.ump.link)) R.UMP_STATUS_SEAL_OK (b2n (sealPin s))
  let s := wrF (wrF s R.UMP_STATUS_TAMPER (b2n s.ump.tamper)) R.UMP_STATUS_CLOCK (b2n s.ump.clockBad)
  let s := wrF (wrF s R.UMP_STATUS_LOG_FULL (b2n s.ump.logFull)) R.UMP_STATUS_EVT_FULL (b2n (eventsFull s))
  let s := wrF (wrF s R.UMP_PERIOD_STROKES s.ump.period) R.UMP_SEAL_NUMBER s.ump.sealNo
  let s := wrF (wrF (wrF s R.UMP_TALLY_STROKE s.ump.lastStroke) R.UMP_FAULTS_GAPS (min s.ump.gaps (2 ^ 32 - 1))) R.UMP_FAULTS_MISMATCHES
    (min s.ump.mismatches (2 ^ 32 - 1))
  wrF (wrF s R.UMP_LOG_HELD (s.ump.receipts.filter (fun r => r.bytes.isSome && !r.acked)).length) R.UMP_LOG_EVENTS (min s.ump.events.length 4095)

end Sys2Proof.Machine
end

