-- ==== Sys2Proof/Machine/Windows.lean ====
section
/-! DEFINITION. What the read-only fields of control space show: selections and their windows (02_control_space.md R495), geometry (R29,
R30), fences (R26, 08 R192, 09 R218) and the figures of the pages. -/

namespace Sys2Proof.Machine

/-! ### Selections -/

/-- A selection register is one of the device, not one per domain: its key. -/
def selKey (b : Blk) (inst off : Nat) : Nat := pageOf b inst * 4096 + off

def selWord (s : State) (b : Blk) (inst off : Nat) : Nat := (mapGet s.reg.sel (selKey b inst off)).getD 0

/-- The bit of a selection register that reads `VALID`, for the registers whose field tables have one. -/
def validBit (b : Blk) (off : Nat) : Option Nat :=
  match b, off with
  | .pfx, 0x140 => some 12 | .pfx, 0x180 => some 32 | .tier, 0x140 => some 12 | .tier, 0x180 => some 32 | .mov, 0x180 => some 32
  | .stk, 0x180 => some 48 | .pch, 0x148 => some 8 | .cmb, 0x108 => some 48 | .cmb, 0x158 => some 16 | .txt, 0x140 => some 32
  | .grm, 0x110 => some 16 | .gsx, 0x140 => some 16 | .crew, 0x140 => some 16 | .crew, 0x180 => some 48 | .fshg, 0x140 => some 16
  | .flt, 0x140 => some 12 | .flt, 0x180 => some 12 | .ckp, 0x140 => some 12 | .sec, 0x140 => some 4 | .sec, 0x150 => some 12
  | .sec, 0x180 => some 12 | .bwp, 0x140 => some 4 | .bwp, 0x180 => some 8 | .ses, 0x120 => some 24
  | _, _ => none

/-- The selection register and word number of a window register that a finish loads. -/
def winAt (b : Blk) (off : Nat) : Option (Nat × Nat) :=
  let run := fun (sel lo n base : Nat) => if lo ≤ off ∧ off < lo + 8 * n ∧ off % 8 = 0 then some (sel, base + (off - lo) / 8) else none
  match b with
  | .ses => run 0x120 0x200 16 0
  | .pfx => run 0x180 0x200 8 0
  | .tier => run 0x180 0x188 2 0
  | .mov => run 0x180 0x200 8 0
  | .stk => run 0x180 0x200 16 0
  | .pch => run 0x148 0x150 1 0
  | .cmb => run 0x108 0x110 2 0
  | .txt => run 0x140 0x148 1 0
  | .grm => run 0x110 0x118 2 0
  | .gsx => run 0x140 0x148 2 0
  | .crew =>
    match run 0x140 0x148 6 0, run 0x140 0x200 8 6 with
    | some x, _ => some x
    | none, some x => some x
    | none, none => run 0x180 0x188 1 0
  | .fshg => run 0x140 0x148 4 0
  | .flt =>
    match run 0x140 0x150 4 0 with
    | some x => some x
    | none => run 0x180 0x188 2 0
  | _ => none

/-- Whether a finish loads the windows of a selection register. -/
def finishLoads (b : Blk) (off : Nat) : Bool :=
  match b, off with
  | .ses, 0x120 | .pfx, 0x180 | .tier, 0x180 | .mov, 0x180 | .stk, 0x180 | .pch, 0x148 | .cmb, 0x108 | .txt, 0x140 | .grm, 0x110
  | .gsx, 0x140 | .crew, 0x140 | .crew, 0x180 | .fshg, 0x140 | .flt, 0x140 | .flt, 0x180 => true
  | _, _ => false

/-! ### What a window holds -/

def versionOf {α : Type} (x : Option α) (f : α → Nat) : Nat := match x with | some p => f p % 65536 | none => 0

/-- `CMB_PLAN0` and `CMB_PLAN1` of a model program or of a tenant's expert set of it (09 Table 09-11). -/
def planWords (s : State) (g : Prog) (model tenant : Nat) : List Nat :=
  let steps := match g.old with
    | none => 0
    | some o => (s.stk.passes.filter (fun (e : Nat × Pass) => e.2.model == model &&
        (if tenant = 0xFFF then e.2.version == o.hdr.version else e.2.tenant == tenant))).length
  [g.cur.hdr.version % 65536 + versionOf g.old (·.hdr.version) * 2 ^ 16 + b2n g.cur.isSealed * 2 ^ 32,
   (s.ses.tab.filter (fun (e : Nat × Ses) => e.2.d.model == model)).length % 2 ^ 32 + steps % 2 ^ 32 * 2 ^ 32]

/-- `PCH_BLADE_STATE` of a blade (08 Table 08-7); `ENTRY` is a place of the pull-list store. -/
def bladeWord (s : State) (g : Nat) : Nat :=
  let lane := g / 8192
  let r := (mapGet s.bld.runs g).getD {}
  let st := if s.crw.switches.any (fun (e : Nat × Switch) => e.1 == lane && e.2.pcs.contains (g / 128)) then 3
    else if r.stalled then 2 else if r.leg.isSome then 1 else 0
  let entry := match r.leg.bind (legOf s) with
    | some l => (match legPlan s l with | some p => ringPlace p l.leg g r.at_ | none => 0)
    | none => 0
  entry + st * 2 ^ 12 + (mapGet s.bld.owed (lane * 4096 + g % 8192 / 2)).getD 0 % 16 * 2 ^ 16

/-- `CREW_D0` to `CREW_WASTE`, then the Split report (14 Table 14-4). -/
def crewWords (s : State) (id : Nat) (k : Crew) : List Nat :=
  let ses := s.ses.tab.filter (fun (e : Nat × Ses) => e.2.d.crew == id)
  [k.tenant % 4096 + b2n k.fast * 2 ^ 12 + b2n k.isAuto * 2 ^ 13 + b2n k.split * 2 ^ 14 + b2n k.seated * 2 ^ 15 +
     k.weight % 65536 * 2 ^ 16 + k.model % 2 ^ 32 * 2 ^ 32,
   ses.length + (ses.filter (fun (e : Nat × Ses) => e.2.d.st == .active)).length * 2 ^ 32,
   k.v, k.bladeUs, k.cmbUs, k.waste] ++ (List.range 8).map (fun i => k.report.getD i 0)

/-- `FSHG_IDX0` to `FSHG_IDX3` (12 Table 12-9). -/
def idxWords (x : MemIdx) : List Nat :=
  let cur := x.vers.head?
  let nodes := match cur with | some v => v.map.filter (fun (e : Nat × MapEnt) => e.2.alloc) | none => []
  let dead := (nodes.filter (fun (e : Nat × MapEnt) => mapHas x.tombs e.1)).length
  [x.word % 2 ^ 49, (nodes.length - dead) % 2 ^ 32 + dead % 2 ^ 32 * 2 ^ 32,
   (match cur with | some v => v.version | none => 0) % 2 ^ 32 + b2n x.sweep.isSome * 2 ^ 32, x.capM1 % 2 ^ 32]

/-- What a selection shows: who may see it and its words; none where it names no object (02 R495). -/
def winWords (s : State) (b : Blk) (inst selOff sel : Nat) : Option (WinAcc × List Nat) :=
  match b, selOff with
  | .ses, _ => (mapGet s.ses.tab (sel % 2 ^ 24)).map (fun x => (.mask x.d.domains, x.d.words))
  | .pfx, _ => (mapGet s.pfx.nodes (sel % 2 ^ 32)).map (fun x => (.tenant x.tenant, x.words))
  | .tier, _ => (mapGet s.tier.ptes (sel % 2 ^ 30)).map (fun e => (.tenant e.tenant, [e.e0, e.e1]))
  | .mov, _ => (mapGet s.tier.ops (sel % 2 ^ 17)).map (fun o => (.tenant o.tenant, o.words (sel % 2 ^ 17)))
  | .stk, _ =>
    ((mapGet s.prg.progs (sel % 2 ^ 32)).bind (fun g => g.cur.fits.find? (fun f => f.leg == bitsOf sel 32 16))).map (fun f =>
      (.all, f.words))
  | .pch, _ => some (.all, [bladeWord s (inst * 128 + sel % 128)])
  | .cmb, _ =>
    let model := bitsOf sel 0 32
    let tenant := bitsOf sel 52 12
    (if tenant = 0xFFF then mapGet s.prg.progs model else mapGet s.prg.sets (model * 4096 + tenant)).map (fun g =>
      (.all, planWords s g model tenant))
  | .txt, _ => (mapGet s.txt.vocabs (sel % 2 ^ 32)).map (fun v =>
      (.all, [v.cur.version % 65536 + versionOf v.old (·.version) * 2 ^ 16 + v.cur.toks.length % 2 ^ 20 * 2 ^ 32]))
  | .grm, _ => (mapGet s.txt.grms (sel % 65536)).map (fun g =>
      let bound := fun (v : Nat) => (s.txt.recs.filter (fun (e : Nat × GrmRec) => e.2.table == sel % 65536 && e.2.version == v)).length
      (.all, [g.cur.version % 65536 + versionOf g.old (·.version) * 2 ^ 16 + g.cur.states.length % 2 ^ 17 * 2 ^ 32,
        bound g.cur.version + (match g.old with | some o => bound o.version | none => 0) * 2 ^ 32]))
  | .gsx, _ => (mapGet s.gsx.tabs (sel % 65536)).map (fun g =>
      (.tenant g.cur.tenant,
        [g.cur.version % 65536 + versionOf g.old (·.version) * 2 ^ 16 + g.cur.tenant % 4096 * 2 ^ 32 + b2n g.cur.updatable * 2 ^ 48,
         (g.cur.rows - 1) % 2 ^ 32 + g.cur.changed.length % 2 ^ 32 * 2 ^ 32]))
  | .crew, 0x140 => (mapGet s.crw.crews (sel % 65536)).map (fun k => (.tenant k.tenant, crewWords s (sel % 65536) k))
  | .crew, _ =>
    (mapGet s.prg.progs (sel % 2 ^ 32)).bind (fun g =>
      (g.cur.carry[bitsOf sel 32 16]?).map (fun k =>
        (.all, [min 65535 g.cur.resident + min 65535 k * 2 ^ 16 + b2n (k = 0) * 2 ^ 32])))
  | .fshg, _ => (mapGet s.mem.idxs (sel % 65536)).map (fun x => (.tenant x.tenant, idxWords x))
  | .flt, 0x140 => (mapGet s.flt.log (sel % 4096)).map (fun r => (.all, r.words))
  | .flt, _ => (s.flt.fences[sel % 4096]?).map (fun e =>
      (.all, [e.unit % 2 ^ 32 + e.cls % 32 * 2 ^ 32 + e.count % 4 * 2 ^ 40 + b2n e.active * 2 ^ 42, e.time]))
  | _, _ => none

/-- The windows whose selection was written since the finish before are loaded (02 R495, 03 R66). -/
def windowsFinish (s : State) : State :=
  let seen := s.reg.wins.filter (fun e => !e.2.loaded && blkOfPage (e.1 / 4096) == some (Blk.tier, 0))
  let folded := seen.foldl (fun (f : List Nat) e => unfolded f (e.2.sel % 2 ^ 30)) s.tier.folded
  { s with
    tier := { s.tier with folded := folded }
    reg := { s.reg with wins := mapAll s.reg.wins (fun k w =>
      if w.loaded then w
      else
        match blkOfPage (k / 4096) with
        | none => { w with loaded := true }
        | some (b, inst) =>
          match winWords s b inst (k % 4096) w.sel with
          | none => { w with loaded := true, valid := false }
          | some (acc, ws) => { w with loaded := true, valid := true, acc := acc, words := ws }) } }

/-! ### Banks -/

/-- The bank of a register: the tenant, domain, queue or interface that a selection picks (04 R84, 05 R117, 15 R355, 16 R367, 17 R388, 20
R444). -/
def regBank (s : State) (b : Blk) (off : Nat) : Nat :=
  let within := fun (lo hi : Nat) => decide (lo ≤ off) && decide (off ≤ hi)
  match b with
  | .pfx => if within 0x148 0x160 then selWord s .pfx 0 0x140 else 0
  | .tier => if within 0x148 0x160 then selWord s .tier 0 0x140 else 0
  | .ckp => if within 0x148 0x180 then selWord s .ckp 0 0x140 else 0
  | .sec =>
    if off = 0x148 || within 0x200 0x3F8 then selWord s .sec 0 0x140
    else if within 0x158 0x178 then selWord s .sec 0 0x150
    else if within 0x188 0x1F0 then selWord s .sec 0 0x180 else 0
  | .egq =>
    if within 0x108 0x140 then rdF s R.EGQ_SEL_PORT * 64 + rdF s R.EGQ_SEL_QUEUE
    else if within 0x188 0x190 || within 0x200 0x3F8 then rdF s R.EGQ_GCL_SEL_IFACE
    else if off = 0x1A0 then rdF s R.EGQ_MAP_SEL_DOMAIN else 0
  | .bwp => if within 0x148 0x150 then selWord s .bwp 0 0x140 else 0
  | _ => 0

/-- Whether a domain may use the bank of a register. -/
def bankSeen (s : State) (dom : Nat) (b : Blk) (off : Nat) : Bool :=
  let within := fun (lo hi : Nat) => decide (lo ≤ off) && decide (off ≤ hi)
  match b with
  | .pfx => !within 0x148 0x160 || domTenant s dom (selWord s .pfx 0 0x140)
  | .tier => !within 0x148 0x160 || domTenant s dom (selWord s .tier 0 0x140)
  | .ckp => !within 0x148 0x180 || domTenant s dom (selWord s .ckp 0 0x140)
  | .sec =>
    if off = 0x148 || within 0x200 0x3F8 then domAdmin s dom || selWord s .sec 0 0x140 == dom
    else if within 0x158 0x178 then domTenant s dom (selWord s .sec 0 0x150)
    else !within 0x188 0x1F0 || domAdmin s dom || domTenant s dom (selWord s .sec 0 0x180)
  | .bwp =>
    if within 0x148 0x150 then selWord s .bwp 0 0x140 == dom
    else !within 0x188 0x198 || (match mapGet s.lnk.assocs (selWord s .bwp 0 0x180) with | some a => a.dom == dom | none => false)
  | _ => true

/-- The crew whose course a domain sees (10 Table 10-5). -/
def seenCourse (s : State) (dom : Nat) : Option (Nat × Course) :=
  let k := selWord s .cmb 0 0x158
  match mapGet s.courses k, mapGet s.crw.crews k with
  | some c, some x => if domTenant s dom x.tenant then some (k, c) else none
  | _, _ => none

/-- What `VALID` of a selection register reads for a domain. -/
def validNow (s : State) (dom : Nat) (b : Blk) (inst off : Nat) : Bool :=
  if finishLoads b off then
    match mapGet s.reg.wins (selKey b inst off) with
    | some w => w.loaded && w.valid && winSees s dom w.acc
    | none => false
  else
    match b, off with
    | .pfx, _ | .tier, _ | .ckp, _ => bankSeen s dom b 0x148
    | .sec, 0x140 => bankSeen s dom .sec 0x148
    | .sec, 0x150 => bankSeen s dom .sec 0x158
    | .sec, _ => bankSeen s dom .sec 0x188
    | .bwp, 0x140 => bankSeen s dom .bwp 0x148
    | .bwp, _ => bankSeen s dom .bwp 0x188
    | .cmb, _ => (seenCourse s dom).isSome
    | _, _ => false

/-! ### Geometry and fences -/

/-- How many PCs, channels, dies and the like are out of use. -/
def pcsOut (s : State) : Nat := ((List.range 640).filter (pcFenced s)).length
def channelsOut (s : State) : Nat := ((List.range 32).filter (channelFenced s)).length
def diesOut (s : State) : Nat := ((List.range 256).filter (dieFenced s)).length
def groupsOut (s : State) : Nat := ((List.range 16).filter (groupFenced s)).length

/-- Unit and nominal value of the geometry items (02 Table 02-5). -/
def geoNominal : List (Nat × Nat) :=
  [(0, 10), (0, 640), (0, 81920), (0, 128), (1, 687194767360), (1, 52776558133248), (0, 32), (0, 32768), (0, 131072), (0, 16777216),
   (0, 262144), (0, 4096), (0, 65536), (0, 16), (0, 4096), (1, 201326592), (2, 940000000), (2, 470000000), (3, 296), (1, 2147483648)]

/-- What is available of item i + 1 now, after fencing (02 R30, 18 R392). Until the first hold-up result the Dirty Budget is Table 02-5's
default (DESIGN CHOICE, notes/assumptions/93.md). -/
def geoNow (s : State) (i : Nat) : Nat :=
  match i with
  | 0 => (liveLanes s).length
  | 1 => 640 - pcsOut s
  | 2 => devBlades s
  | 3 => devEngines s
  | 4 => (hFrames s + 49152) * 65536
  | 5 => fFrames s * 65536
  | 6 => 32 - channelsOut s
  | 7 => 1024 * (32 - channelsOut s)
  | 19 => budgetPages s * 65536
  | _ => (geoNominal.getD i (0, 0)).2

/-- One or more entries below nominal (02 Table 02-4). -/
def geoReduced (s : State) : Bool := (List.range 20).any (fun i => decide (geoNow s i < (geoNominal.getD i (0, 0)).2))

def geoWord (s : State) (i : Nat) : Nat :=
  match geoNominal[i]? with
  | some (u, _) => (i + 1) + u * 2 ^ 8 + geoNow s i % 2 ^ 48 * 2 ^ 16
  | none => 0

/-- Fenced sub-units of a page, and whether the whole unit is fenced (02 Table 02-3, 08 R192). Table 02-3 does not say which sub-units the
page of a global block counts: the model shows none there (DESIGN CHOICE, notes/assumptions/92.md). -/
def fenceCount (s : State) (b : Blk) (inst : Nat) : Nat × Bool :=
  match b with
  | .pch => (((List.range 128).filter (fun i => bladeFenced s (inst * 128 + i))).length, pcFenced s inst)
  | .lane => (((List.range 64).filter (fun i => pcFenced s (inst * 64 + i))).length, laneFenced s inst)
  | .cmbg => (8 - groupEngines s inst, groupFenced s inst)
  | .fch => (((List.range 8).filter (fun i => dieFenced s (inst * 8 + i))).length, channelFenced s inst)
  | _ => (0, false)

/-- Whether the unit that a page serves is wholly fenced (02 R25). -/
def pageFenced (s : State) (b : Blk) (inst : Nat) : Bool := (fenceCount s b inst).2

/-- The pages whose fence figures a unit's fence can change. -/
def fencePages (u : Nat) : List (Blk × Nat) :=
  let i := unitIdx u
  match unitTy u with
  | 2 | 3 => [(.pch, i / 128)]
  | 4 | 5 => [(.pch, i), (.lane, i / 64)]
  | 6 => (.lane, i) :: (List.range 64).map (fun n => (.pch, i * 64 + n))
  | 7 => [(.cmbg, i / 8)]
  | 8 => [(.cmbg, i)]
  | 9 => [(.fch, i / 8)]
  | 10 => [(.fch, i)]
  | _ => []

/-- `EVT_STATUS.FENCE` of a page is raised where its `FENCE` differs from what the fence table gave before (02 Table 02-3). -/
def fencePage (before : List FenceEnt) (s : State) (b : Blk) (inst : Nat) : State :=
  if fenceCount { s with flt := { s.flt with fences := before } } b inst = fenceCount s b inst then s else raiseBit s b inst 1 .plain

/-- The pages of the units whose fences have changed. -/
def fenceFigures (before : List FenceEnt) (s : State) : State :=
  let us := (s.flt.fences.filter (fun e => !before.contains e)).map (·.unit)
  (((us.map fencePages).flatten).eraseDups).foldl (fun s (e : Blk × Nat) => fencePage before s e.1 e.2) s

/-! ### Other figures -/

/-- `STATUS.STATE`: 0 offline before SL0, 1 in bring-up, 3 with fenced parts, 4 fenced, 2 otherwise (02 Table 02-3). -/
def statusState (s : State) (b : Blk) (inst : Nat) : Nat :=
  let (n, whole) := fenceCount s b inst
  if whole then 4
  else if !s.boot.sl0 then 0
  else if s.stk.phase = .idle || (b == .lane && !laneOnline s inst) || (b == .pch && !laneOnline s (inst / 64)) then 1
  else if n ≠ 0 then 3
  else 2

/-- Bytes of the 8 MiB store that installed plans hold in a Combine group: the constants they place there (09 R215, Table 09-12). -/
def storeBytes (s : State) (g : Nat) : Nat :=
  sumOf ((mapVals s.prg.progs ++ mapVals s.prg.sets).map (fun (p : Prog) =>
    sumOf (([p.cur] ++ p.old.toList).map (fun q => match mapGet q.consts g with | some bs => bs.length | none => 0))))

/-- Tenants with a Tier H quota above 0: the tenants that hold allotments (05 Table 05-10). -/
def quotaTenants (s : State) : List Nat :=
  (s.reg.ctl.filter (fun (e : Nat × Word) => e.1 % 4096 == 0x148 && e.1 / 4096 % 4096 == 7 && e.2.toNat % 2 ^ 32 != 0)).map
    (fun (e : Nat × Word) => e.1 / 2 ^ 24)

/-- The fields of a register whose value is computed when it is read, with that value. -/
def liveFields (s : State) (b : Blk) (inst bank off : Nat) : List (Fld × Nat) :=
  match b, off with
  | _, 0x000 => [(R.BLOCK_ID_PAGE, pageOf b inst), (R.BLOCK_ID_TYPE, b.typeCode), (R.BLOCK_ID_INST, inst)]
  | _, 0x008 => [(R.BLOCK_VER_MAJOR, 1)]
  | _, 0x020 => [(R.STATUS_STATE, statusState s b inst)]
  | _, 0x050 => [(R.FENCE_UNITS, (fenceCount s b inst).1), (R.FENCE_WHOLE, b2n (fenceCount s b inst).2)]
  | .dev, 0x120 => [(R.SVC_LEVEL_REDUCED, b2n (geoReduced s))]
  | .boot, 0x138 => [(R.BOOT_COLD_ADVICE_LEFT, 1024 - strokesDone s), (R.BOOT_COLD_SPLIT_LEFT, 256 - strokesDone s)]
  | .stk, 0x110 => [(R.STK_NUMBER, s.stk.number)]
  | .stk, 0x118 => [(R.STK_TIME, s.time.now)]
  | .stk, 0x140 => [(R.STK_FREQ_ADJ, s.time.adj)]
  | .boot, 0x118 => [(R.BOOT_TIME0_SL0_MS, s.boot.times.getD 0 0), (R.BOOT_TIME0_SL1_MS, s.boot.times.getD 1 0)]
  | .boot, 0x120 => [(R.BOOT_TIME1_SL2_MS, s.boot.times.getD 2 0), (R.BOOT_TIME1_SL3_MS, s.boot.times.getD 3 0)]
  | .ump, 0x108 => [(R.UMP_SERIAL, Config.umpSerial.toNat)]
  | .stk, 0x158 => [(R.STK_DRIVE_W_NS, windowT s.stk.period (catchActs s.stk.period s.stk.catchUs) / 10)]
  | .pfx, 0x108 => [(R.PFX_NODES_USED, s.pfx.nodes.length)]
  | .pfx, 0x160 =>
    let ns := (mapVals s.pfx.nodes).filter (fun (x : Node) => x.tenant == bank)
    [(R.PFX_TEN_USE_NODES, ns.length),
     (R.PFX_TEN_USE_PAGES_H, sumOf (ns.map (fun x => (x.pages.filter (fun p => (pteOf s p).any (·.h))).length)))]
  | .tier, 0x130 => [(R.TIER_ALLOT_USED, (quotaTenants s).length)]
  | .tier, 0x148 => [(R.TIER_TEN_QH_USE, useH s bank)]
  | .tier, 0x150 => [(R.TIER_TEN_QF_USE, useF s bank)]
  | .tier, 0x158 => [(R.TIER_TEN_OPS_USE, opsOf s bank)]
  | .tier, 0x160 => [(R.TIER_TEN_DIRTY_PAGES, dirtyOf s bank)]
  | .sec, 0x100 =>
    match rigNow s with
    | some r => [(R.SEC_STATUS_MODE, b2n r.isolated), (R.SEC_STATUS_CONF, b2n r.conf), (R.SEC_STATUS_FW_SLOT, s.sec.fwSlot),
        (R.SEC_STATUS_RIG_SLOT, s.sec.rigSlot), (R.SEC_STATUS_RIG_VERSION, r.version)]
    | none => []
  | .sec, 0x108 => [(R.SEC_COUNTERS_FW, s.sec.fwCtr), (R.SEC_COUNTERS_RIG, s.sec.rigCtr)]
  | .sec, 0x178 =>
    let k := (mapGet s.sec.ckeys bank).getD {}
    [(R.SEC_CKEY_CTRL_CUR, k.cur.getD 0), (R.SEC_CKEY_CTRL_PREV, k.prev.getD 0), (R.SEC_CKEY_CTRL_HELD_CUR, b2n k.cur.isSome),
     (R.SEC_CKEY_CTRL_HELD_PREV, b2n k.prev.isSome)]
  | .sec, 0x188 => [(R.SEC_ALLOT_CTRL_PENDING, b2n (s.sec.pending.contains bank))]
  | .flt, 0x108 =>
    [(R.FLT_STAT_SUSPECT, (((s.flt.tests.filter (fun t => t.cls != 0)).map (·.unit)).eraseDups).length), (R.FLT_STAT_TESTS, ((s.flt.tests.map (·.unit)).eraseDups).length),
     (R.FLT_STAT_RECORDS, s.flt.next)]
  | .flt, 0x110 =>
    [(R.FLT_FENCED0_FRAMES, (s.flt.fences.filter (fun e => e.active && unitTy e.unit == 1)).length), (R.FLT_FENCED0_HALF_BANKS, hbsFenced s)]
  | .flt, 0x118 => [(R.FLT_FENCED1_BLADES, 81920 - devBlades s), (R.FLT_FENCED1_PCS, pcsOut s), (R.FLT_FENCED1_LANES, 10 - (liveLanes s).length)]
  | .flt, 0x120 =>
    [(R.FLT_FENCED2_ENGINES, 128 - devEngines s), (R.FLT_FENCED2_GROUPS, groupsOut s), (R.FLT_FENCED2_DIES, diesOut s),
     (R.FLT_FENCED2_CHANNELS, channelsOut s)]
  | .flt, 0x148 => [(R.FLT_LOG_HEAD_NEXT, s.flt.next % 4096)]
  | .flt, 0x198 => [(R.FLT_FTBL_USED_ENTRIES, s.flt.fences.length)]
  | .portg, 0x108 => [(R.PORTG_FEATHER_STATE, s.lnk.feather.code)]
  | .egq, 0x120 =>
    let q := refill (queueOf s bank) s.time.now
    [(R.EGQ_Q_TOKENS_TC, q.tc / 8000), (R.EGQ_Q_TOKENS_TP, q.tp / 8000)]
  | .egq, 0x140 => [(R.EGQ_Q_FINISH, (queueOf s bank).tag)]
  | .egq, 0x190 => [(R.EGQ_V, (ifaceOf s bank).v)]
  | .bwp, 0x110 => [(R.BWP_STAT_ASSOCS, (s.lnk.assocs.filter (fun (e : Nat × Assoc) => e.2.st == .opened)).length)]
  | .bwp, 0x128 => [(R.BWP_QP_USED, s.lnk.qps.length)]
  | .bwp, 0x148 => [(R.BWP_DOM_ASSOCS, (s.lnk.assocs.filter (fun (e : Nat × Assoc) => e.2.st == .opened && e.2.dom == bank)).length),
      (R.BWP_DOM_IMPORT_RKEY, s.lnk.rkeys.getD bank 0)]
  | .cmbg, 0x118 => [(R.CMBG_FENCE_ENGINES, maskOf ((List.range 8).filter (fun e => engineFenced s (inst * 8 + e))))]
  | .cmbg, 0x120 => [(R.CMBG_STORE_BYTES, storeBytes s inst)]
  | .pch, 0x100 => [(R.PCH_FENCE0, maskOf ((List.range 64).filter (fun i => bladeFenced s (inst * 128 + i))))]
  | .pch, 0x108 => [(R.PCH_FENCE1, maskOf ((List.range 64).filter (fun i => bladeFenced s (inst * 128 + 64 + i))))]
  | _, _ => []

/-- The whole words that are computed when they are read. -/
def liveWord (s : State) (dom : Nat) (b : Blk) (_inst off : Nat) : Option Nat :=
  let within := fun (lo hi : Nat) => decide (lo ≤ off) && decide (off ≤ hi)
  match b with
  | .dev => if within 0x200 0x2F8 then some (geoWord s ((off - 0x200) / 8)) else none
  | .sec =>
    if within 0x400 0x4F8 then some (u64 (s.sec.meas.getD ((off - 0x400) / 32) []) ((off - 0x400) % 32))
    else if within 0x500 0x518 then some (if s.boot.sl0 then (Config.identHash ((off - 0x500) / 8)).toNat else 0) else none
  | .ump =>
    if within 0x110 0x128 then some (u64 s.ump.fwHash (off - 0x110))
    else if within 0x130 0x148 then some (Config.umpKeyHash ((off - 0x130) / 8)).toNat else none
  | .cmb =>
    match off, seenCourse s dom with
    | 0x140, _ => some (match mapGet s.prg.progs (bitsOf (selWord s .cmb 0 0x108) 0 32) with | some p => p.lcCfg | none => 0)
    | 0x160, some (_, k) => some (k.node % 2 ^ 32 + k.win % 512 * 2 ^ 32 + k.homes.length % 65536 * 2 ^ 48)
    | 0x168, some (_, k) => some (min (2 ^ 32 - 1) k.stall + (k.layers * (k.nb + 1) + 10) % 2 ^ 32 * 2 ^ 32)
    | _, _ => none
  | .bwp =>
    match off, mapGet s.lnk.assocs (selWord s .bwp 0 0x180) with
    | 0x188, some a => some (a.id % 2 ^ 32 + a.dom % 16 * 2 ^ 32 + a.iface % 4 * 2 ^ 36 +
        (match a.st with | .opened => 1 | .lingering => 2) * 2 ^ 38 + b2n a.events * 2 ^ 40)
    | 0x190, some a => some a.queues
    | 0x198, some a => some (a.rx % 2 ^ 32 + a.tx % 2 ^ 32 * 2 ^ 32)
    | _, _ => none
  | _ => none

end Sys2Proof.Machine
end

