-- ==== Sys2Proof/Machine/Regs.lean ====
section
/-! DEFINITION. Access to control space (02_control_space.md R18 to R28; 00_scope.md R6 to R9): reads, writes, what each register's write
does, and register requests (15 R347). -/

namespace Sys2Proof.Machine

/-! ### Reads -/

/-- The bits of a word that a list of fields of one access type covers. -/
def accMask (fs : List Fld) (a : Acc) : Nat := fieldsMask (fs.filter (fun f => f.acc == a))

/-- A word with fields replaced by values, each held to its field's width. -/
def putFields (w : Nat) (xs : List (Fld × Nat)) : Nat := xs.foldl (fun w (e : Fld × Nat) => putBits w e.1.lo e.1.wd (min e.2 (2 ^ e.1.wd - 1))) w

/-- The registers that show what no row of the model measures: input current, bank voltage, Lane-die temperature and the blade-clock
counter. Each read shows a free value (notes/assumptions/6.md); the counter never goes back (notes/assumptions/107.md). -/
def freeFields (b : Blk) (off : Nat) : List Fld :=
  match b, off with
  | .pwr, 0x100 => [R.PWR_IN_CURR_MA]
  | .pwr, 0x118 => [R.HOLDUP_STATUS_BANK_MV]
  | .lane, 0x118 => [R.LANE_TEMP_LANE_DIE]
  | .clk, 0x110 => [R.CLK_BLADE_COUNT]
  | _, _ => []

/-- A read of the register at an offset of a listed page: its word, and the state after it (00 R6: a read clears RC fields and shows 0 for
WO fields; every offset of the `UMP` page is RO, 02 R24). Reserved bits and offsets read as 0 (00 R9), as does the bank or window of an object that the domain may not see. -/
def regRead (s : State) (dom page off : Nat) : Nat × State :=
  match blkOfPage page with
  | none => (0, s)
  | some (b, inst) =>
    let fs := regFields b off
    match winAt b off with
    | some (sel, i) =>
      if validNow s dom b inst sel then
        match mapGet s.reg.wins (selKey b inst sel) with
        | some w => (w.words.getD i 0 % 2 ^ 64, s)
        | none => (0, s)
      else (0, s)
    | none =>
      if !bankSeen s dom b off then (0, s)
      else
        let bank := regBank s b off
        match liveWord s dom b inst off with
        | some w =>
          let s := if b = .cmb ∧ off = 0x168 then
              (match seenCourse s dom with
                | some (k, _) => { s with courses := mapUpd s.courses k (fun c => { c with stall := 0 }) }
                | none => s)
            else s
          (w % 2 ^ 64, s)
        | none =>
          let stored := rdWord s b inst bank off
          let shown := putFields (stored &&& fieldsMask fs) (liveFields s b inst bank off)
          let shown := match validBit b off with
            | some v => putBits 0 v 1 (b2n (validNow s dom b inst off))
            | none => shown
          let (shown, s) := (freeFields b off).foldl (fun (acc : Nat × State) f =>
            let (n, s) := nextFree acc.2
            let w := (Config.freeWord n).toNat
            if b = .clk then (putBits acc.1 f.lo f.wd (s.bld.clock + w), { s with bld := { s.bld with clock := s.bld.clock + w } })
            else (putBits acc.1 f.lo f.wd w, s)) (shown, s)
          let hidden := accMask fs .wo ||| (if off = 0x38 then 2 ^ 64 - 1 else 0)
          let rc := if b = .ump then 0 else accMask fs .rc
          let kept := stored - (stored &&& rc)
          let kept := if b = .mov ∧ off = 0x108 then putBits kept 32 18 (bitsOf stored 0 18) else kept
          (shown - (shown &&& hidden), if rc = 0 then s else wrWord s b inst bank off kept)

/-! ### Writes -/

/-- What a write leads to: a status code that refuses it, or the state after it. -/
abbrev RegOut := Nat ⊕ State

/-- The word after a write of its RW and RWL fields (00 R6). -/
def storedWord (s : State) (b : Blk) (inst bank off v : Nat) : Nat :=
  let locked := bitOf (rdWord s b inst 0 0x18) 0
  (regFields b off).foldl (fun w f =>
    if f.acc = .rw ∨ (f.acc = .rwl ∧ !locked) then putBits w f.lo f.wd (bitsOf v f.lo f.wd) else w) (rdWord s b inst bank off)

/-- A write that stores its fields and does nothing else. -/
def storeReg (s : State) (b : Blk) (inst bank off v : Nat) : State := wrWord s b inst bank off (storedWord s b inst bank off v)

def pageLocked (s : State) (b : Blk) (inst : Nat) : Bool := bitOf (rdWord s b inst 0 0x18) 0

/-- A selection is written: the windows that a finish loads read as empty until then (02 R495). -/
def selWrite (s : State) (b : Blk) (inst off v : Nat) : State :=
  let w := v &&& accMask (regFields b off) .wo
  let k := selKey b inst off
  let s := { s with reg := { s.reg with sel := if w = 0 then mapErase s.reg.sel k else mapSet s.reg.sel k w } }
  if finishLoads b off then { s with reg := { s.reg with wins := mapSet s.reg.wins k { sel := w } } } else s

/-- The header's registers (02 R24 to R28). -/
def headerWrite (s : State) (b : Blk) (inst off v : Nat) : State :=
  let isUmp := b == .ump
  let page := pageOf b inst
  match off with
  | 0x018 =>
    if isUmp then s
    else
      let s := if bitOf v 0 then wrWord s b inst 0 0x18 (rdWord s b inst 0 0x18 ||| 1) else s
      if b = .stk ∧ bitOf v 8 then lengthen s (s.time.stepBy.getD 0) else s
  | 0x028 => wrWord s b inst 0 0x28 (rdWord s b inst 0 0x28 - (rdWord s b inst 0 0x28 &&& v))
  | 0x030 =>
    let old := rdWord s b inst 0 0x30
    let st := rdWord s b inst 0 0x28
    let s := wrWord s b inst 0 0x30 v
    ((onesOf 64 v).filter (fun i => !bitOf old i && bitOf st i)).foldl (fun s i =>
      pushEvents s (eventDoms s) { code := 0x0001, page := page, bit := i, words := [] }) s
  | 0x038 => if isUmp then s else (onesOf 64 v).foldl (fun s i => raiseBit s b inst i .plain) s
  | _ => s

/-- A change of a register that takes effect at the second boundary after its write (06 R124, 08 R187). -/
def delayReg (s : State) (b : Blk) (inst off w : Nat) : State :=
  let k := regKey b inst 0 off
  { s with stk := { s.stk with
    delayed := s.stk.delayed ++ [{ left := 2, key := k, word := BitVec.ofNat 64 w }] } }

/-- The word that a register will hold once the waiting changes have taken effect. -/
def comingWord (s : State) (b : Blk) (inst off : Nat) : Nat :=
  match s.stk.delayed.reverse.find? (fun d => d.key == regKey b inst 0 off) with
  | some d => d.word.toNat
  | none => rdWord s b inst 0 off

/-- The period, catch length and caps that hold once the waiting changes have taken effect. -/
def fitCaseComing (s : State) : FitCase :=
  let w := comingWord s .stk 0 0x100
  { period := bitsOf w 0 11, catchUs := bitsOf w 16 8, caps := (List.range 10).map (fun k => bitsOf (comingWord s .lane k 0x100) 0 7) }

/-- STK_CFG (06 R124, R126). -/
def writeStkCfg (s : State) (v : Nat) : RegOut :=
  let period := bitsOf v 0 11
  let catchUs := bitsOf v 16 8
  if pageLocked s .stk 0 then .inr s
  else if period < 50 ∨ 2000 < period ∨ catchUs < 2 then .inl E_STK_RANGE
  else
    match plansFail s true { fitCaseComing s with period := period, catchUs := catchUs } with
    | some _ => .inl E_NOFIT
    | none => .inr (delayReg s .stk 0 0x100 (period + catchUs * 2 ^ 16))

/-- STK_TIME_CFG: the codes that Table 06-1 reserves are refused (06 R120). -/
def writeTimeCfg (s : State) (v : Nat) : RegOut :=
  if 4 < bitsOf v 0 3 then .inl E_STK_RANGE
  else
    let keep := rdF s R.STK_TIME_CFG_SRC
    .inr (setSource (wrF (storeReg s .stk 0 0 0x120 v) R.STK_TIME_CFG_SRC keep) (bitsOf v 0 3))

/-- LANE_GOV (08 R187). -/
def writeGov (s : State) (k v : Nat) : RegOut :=
  let cap := bitsOf v 0 7
  let mode := bitsOf v 8 2
  if cap < 16 ∨ 92 < cap ∨ 2 ≤ mode ∨ (mode = 1 ∧ bitsOf v 12 20 = 0) then .inl E_GOV_RANGE
  else
    let now := fitCaseComing s
    let lower := decide (cap < now.caps.getD k 0)
    match (if lower then plansFail s false { now with caps := setNth now.caps k cap } else none) with
    | some _ => .inl E_NOFIT
    | none => .inr (delayReg s .lane k 0x100 (v &&& accMask (regFields .lane 0x100) .rw))

/-- The plan that a refused write of a period or a cap names (06 R124, 08 R187). -/
def nofitOf (s : State) (b : Blk) (inst v : Nat) : Option Nat :=
  if b = .stk then plansFail s true { fitCaseComing s with period := bitsOf v 0 11, catchUs := bitsOf v 16 8 }
  else plansFail s false { fitCaseComing s with caps := setNth (fitCaseComing s).caps inst (bitsOf v 0 7) }

/-- The `PFX_TEN_*` registers (04 R81, R82; 20 R442). -/
def writePfxTen (s : State) (t off v : Nat) : RegOut :=
  let key := (mapGet s.pfx.keys t).getD {}
  let setKey := fun (s : State) (k : PfxKey) => { s with pfx := { s.pfx with keys := mapSet s.pfx.keys t k } }
  match off with
  | 0x148 =>
    if confidential s ∧ bitOf v 16 then .inl E_SEC_MODE
    else
      let s := storeReg s .pfx 0 t 0x148 v
      .inr (if bitOf v 32 then setKey s { key with change := true } else s)
  | 0x150 => if confidential s then .inl E_SEC_MODE else .inr (setKey s { key with k0 := v, k0Written := true })
  | 0x158 =>
    if confidential s then .inl E_SEC_MODE
    else .inr (setKey s { key with k1 := v, change := key.change || key.k0Written, k0Written := false })
  | _ => .inr s

/-- The `CKP_TGT_*` registers (17 R368, R371, R388). -/
def writeTgt (s : State) (t off v : Nat) : RegOut :=
  let on := ckpEnabled s t
  match off with
  | 0x148 =>
    let s' := if on then s else wrB (wrB s R.CKP_TGT0_QP t (bitsOf v 16 16)) R.CKP_TGT0_RKEY t (bitsOf v 32 32)
    if bitOf v 0 && !on then
      match enableCode s' t with
      | some e => .inl e
      | none => .inr (setTgt s' t { ckpTgt s' t with turn := some true })
    else if !bitOf v 0 && (on || (ckpTgt s t).turn.isSome) then .inr (setTgt s' t { ckpTgt s' t with turn := some false })
    else .inr s'
  | 0x150 | 0x158 => .inr (if on then s else storeReg s .ckp 0 t off v)
  | 0x168 => if (ckpTgt s t).complete < v then .inl E_CKP_INVALID else .inr (ckpRelease s t v)
  | _ => .inr s

/-- `SEC_DOM_RIGHTS` and `SEC_DOM_TEN` (20 R431, R442). -/
def writeRights (s : State) (dom off v : Nat) : RegOut :=
  if !domAdmin s dom then .inl E_REG_DENIED
  else if confidential s then .inl E_SEC_MODE
  else match rightsWrite s (selWord s .sec 0 0x140) off v with
    | (some e, _) => .inl e
    | (none, s) => .inr s

/-- `SEC_CKEY` and `SEC_CKEY_CTRL` (20 R432): in encrypted frames only. -/
def writeCkey (s : State) (enc : Bool) (off v : Nat) : RegOut :=
  let t := selWord s .sec 0 0x150
  if !enc then .inl E_REG_DENIED
  else if off = 0x178 then
    if bitOf v 8 then
      match keyInstall s t (bitsOf v 0 8) with
      | (some e, _) => .inl e
      | (none, s) => .inr s
    else .inr s
  else .inr (keyWord s t ((off - 0x158) / 8) v)

/-- `SEC_ALLOT_*` (20 R441, R442). -/
def writeAllot (s : State) (dom off v : Nat) : RegOut :=
  let t := selWord s .sec 0 0x180
  if !domAdmin s dom then .inl E_REG_DENIED
  else if confidential s then .inl E_SEC_MODE
  else if off = 0x188 then
    if bitOf v 0 then
      match allotApply s t with
      | (some e, _) => .inl e
      | (none, s) => .inr s
    else .inr s
  else .inr (storeReg s .sec 0 t off v)

/-- The queue window (16 R362). -/
def writeQueue (s : State) (k off v : Nat) : RegOut :=
  let was := rdWord s .egq 0 k off
  let new_ := storedWord s .egq 0 k off v
  let at_ := fun (o : Nat) => if o = off then new_ else rdWord s .egq 0 k o
  if !queueCfgOk (at_ 0x108) (at_ 0x110) (at_ 0x118) then .inl E_EGQ_RANGE
  else
    let s := wrWord s .egq 0 k off new_
    .inr (if off != 0x108 || bitsOf was 9 3 != bitsOf new_ 9 3 then { s with eg := { s.eg with changed := setAdd s.eg.changed k } } else s)

/-- `EGQ_GCL_CTRL` (16 R365). -/
def writeGcl (s : State) (i v : Nat) : RegOut :=
  let s' := storeReg s .egq 0 i 0x188 v
  if bitOf v 8 then
    match gateCommit s' i with
    | some s'' => .inr s''
    | none => .inl E_EGQ_RANGE
  else .inr s'

/-- A link goes down: `EV_PORT_LINK`, and what it held of a peer is gone (15 R328, R333, R346). -/
def linkDown (s : State) (i : Nat) : State :=
  if !linkUp s i then s
  else
    let s := wrPort (wrPort s R.PORT_STATUS_LINK i 0) R.PORT_STATUS_SPEED i 0
    let s := updIface s i (fun x => { x with paused := [], wire := none })
    raiseBit s .port (i / 2) 2 (.tied EV_PORT_LINK [i % 4])

/-- `PORTG_CFG.BREAKOUT`: a port whose mode changes goes down; the mode counts when its link next trains (15 R328). -/
def writeBreakout (s : State) (v : Nat) : State :=
  let s' := storeReg s .portg 0 0 0x100 v
  let was := rdF s R.PORTG_CFG_BREAKOUT
  let now := rdF s' R.PORTG_CFG_BREAKOUT
  ((List.range 2).filter (fun p => bitOf was p != bitOf now p)).foldl (fun s p => linkDown (linkDown s (2 * p)) (2 * p + 1)) s'

/-- The device begins to leave the Feather state (15 R334). -/
def wakeNow (s : State) : State :=
  if s.lnk.feather = .feather then { s with lnk := { s.lnk with feather := .waking } } else s

/-- `PORT_CFG` (15 R332, 20 R442): confidential mode holds MACsec on; an interface that is disabled goes down. -/
def writePort (s : State) (inst off v : Nat) : RegOut :=
  if off = 0x100 ∨ off = 0x200 then
    if confidential s && !(bitOf v 24 && bitOf v 25) then .inl E_SEC_MODE
    else
      let s := storeReg s .port inst 0 off v
      .inr (if bitOf v 0 then s else linkDown s (2 * inst + off / 0x100 - 1))
  else .inr (storeReg s .port inst 0 off v)

/-- `CMB_LC_CFG` of the selected model, at the next finish (10 R232). -/
def writeLcCfg (s : State) (v : Nat) : State :=
  let m := bitsOf (selWord s .cmb 0 0x108) 0 32
  { s with prg := { s.prg with progs := mapUpd s.prg.progs m (fun p => { p with lcPend := some (v &&& accMask (regFields .cmb 0x140) .rw) }) } }

/-- A write to a window of the `PFX` or the `TIER` page by a domain without the right to the tenant of the object shown (04 R84, 05 R117). -/
def windowDenied (s : State) (dom : Nat) (b : Blk) (inst off : Nat) : Bool :=
  match b, winAt b off with
  | .pfx, some (sel, _) | .tier, some (sel, _) =>
    (winWords s b inst sel (selWord s b inst sel)).any (fun w => !winSees s dom w.1)
  | _, _ => false

/-- A write that acts on the fenced part of a partly fenced page is ignored (02 R25): a blade selection that names a fenced blade. -/
def partFenced (s : State) (b : Blk) (inst off v : Nat) : Bool :=
  b == .pch && off == 0x148 && bladeFenced s (inst * 128 + bitsOf v 0 7)

/-- What a write of a block-specific register does (02 R21). A write to a bank of an object that the domain may not use is refused. That holds
for `BWP_DOM` and `BWP_DOM_EVT` too, of which 15 R355 says only that `VALID` reads 0 (DESIGN CHOICE, notes/assumptions/91.md). -/
def blkWrite (s : State) (dom : Nat) (enc : Bool) (b : Blk) (inst off v : Nat) : RegOut :=
  let bank := regBank s b off
  if (validBit b off).isSome then .inr (selWrite s b inst off v)
  else if b = .ump then .inr s
  else if windowDenied s dom b inst off then .inl E_REG_DENIED
  else if !bankSeen s dom b off && !(regFields b off).isEmpty && (winAt b off).isNone && !(b == .bwp && 0x180 ≤ off) then .inl E_REG_DENIED
  else match b, off with
    | .boot, 0x108 => if bitOf v 0 then (if domAdmin s dom then .inr (askReset s 3) else .inl E_REG_DENIED) else .inr s
    | .pwr, 0x108 =>
      if pageLocked s .pwr 0 then .inr s
      else if bitsOf v 0 11 < 600 ∨ 1150 < bitsOf v 0 11 ∨ bitsOf v 24 4 = 0 then .inl E_PWR_RANGE
      else .inr (storeReg s .pwr 0 0 0x108 v)
    | .pwr, 0x130 =>
      if !bitOf v 0 then .inr s
      else if s.pwr.testing then .inl E_HOLDUP_BUSY
      else .inr { s with pwr := { s.pwr with retestDue := true } }
    | .stk, 0x100 => writeStkCfg s v
    | .stk, 0x120 => writeTimeCfg s v
    | .stk, 0x128 => .inr { storeReg s .stk inst bank off v with time := { s.time with ppsSet := true } }
    | .lane, 0x100 => writeGov s inst v
    | .pfx, 0x148 | .pfx, 0x150 | .pfx, 0x158 => writePfxTen s bank off v
    | .tier, 0x148 =>
      if bitsOf v 0 32 != 0 && !(quotaTenants s).contains bank && decide (640 ≤ (quotaTenants s).length) then .inl E_ALLOT_FULL
      else .inr (storeReg s .tier 0 bank 0x148 v)
    | .ckp, _ =>
      if 0x148 ≤ off ∧ off ≤ 0x180 then writeTgt s bank off v else .inr (storeReg s .ckp 0 0 off v)
    | .sec, _ =>
      if off = 0x148 ∨ (0x200 ≤ off ∧ off ≤ 0x3F8) then writeRights s dom off v
      else if 0x158 ≤ off ∧ off ≤ 0x178 then writeCkey s enc off v
      else if 0x188 ≤ off ∧ off ≤ 0x1E8 then writeAllot s dom off v
      else .inr s
    | .egq, _ =>
      if 0x108 ≤ off ∧ off ≤ 0x118 then writeQueue s bank off v
      else if off = 0x188 then writeGcl s bank v
      else .inr (storeReg s .egq 0 bank off v)
    | .portg, 0x100 => .inr (writeBreakout s v)
    | .portg, 0x108 => .inr (if bitOf v 8 then wakeNow s else s)
    | .port, _ => writePort s inst off v
    | .cmb, 0x140 => .inr (writeLcCfg s v)
    | _, _ => .inr (storeReg s b inst bank off v)

/-- A write of the register at an offset of a listed page by a domain (02 R19, R24, R25). A block's refusal of a period or cap that a
loaded plan does not fit is shown in `STK_NOFIT`. -/
def regWrite (s : State) (dom : Nat) (enc : Bool) (page off v : Nat) : Option Nat × State :=
  match blkOfPage page with
  | none => (some E_REG_UNMAPPED, s)
  | some (b, inst) =>
    if !domRegWrite s dom then (some E_REG_DENIED, s)
    else if off < 0x100 then (none, headerWrite s b inst off v)
    else if pageFenced s b inst || partFenced s b inst off v then (none, s)
    else match blkWrite s dom enc b inst off v with
      | .inr s => (none, s)
      | .inl e =>
        if e = E_NOFIT then
          (some e, match nofitOf s b inst v with | some w => markNofit s w | none => s)
        else (some e, s)

/-! ### Requests (15 R347, 02 R22) -/

/-- Reads of consecutive registers: their words. -/
def readRun (dom page : Nat) : Nat → Nat → State → List Nat × State
  | _, 0, s => ([], s)
  | off, n + 1, s =>
    let (w, s) := regRead s dom page off
    let (ws, s) := readRun dom page (off + 8) n s
    (w :: ws, s)

/-- Writes of consecutive registers, up to the first that is refused: its code and offset. -/
def writeRun (dom : Nat) (enc : Bool) (page : Nat) : Nat → List Nat → State → Option (Nat × Nat) × State
  | _, [], s => (none, s)
  | off, v :: vs, s =>
    match regWrite s dom enc page off v with
    | (some e, s) => (some (e, off), s)
    | (none, s) => writeRun dom enc page (off + 8) vs s

/-- One request: a head word and, for a write, its data words. Answers the words of the response (15 Table 15-11): the echoed head, the
status word, and `COUNT` words for a read. -/
def regRequest (s : State) (dom : Nat) (enc : Bool) (head : Nat) (data : List Nat) : List Nat × State :=
  let page := bitsOf head 0 12
  let off := bitsOf head 12 12
  let count := bitsOf head 24 5 + 1
  let isWrite := bitOf head 32
  let bad := if off % 8 ≠ 0 then some E_REG_ALIGN
    else if (blkOfPage page).isNone then some E_REG_UNMAPPED
    else if 0x1000 < off + 8 * count then some E_REG_RANGE
    else none
  match bad with
  | some e => ([head, e + off * 2 ^ 16] ++ (if isWrite then [] else List.replicate count 0), s)
  | none =>
    if isWrite then
      match writeRun dom enc page off data s with
      | (some (e, o), s) => ([head, e + o * 2 ^ 16], s)
      | (none, s) => ([head, E_OK], s)
    else
      let (ws, s) := readRun dom page off count s
      ([head, E_OK] ++ ws, s)

/-- The requests of a `REG_REQ` payload in order, with the response to each; words that spell no whole request are left (15 R347). `fuel`
bounds the requests. -/
def regRequests (dom : Nat) (enc : Bool) : Nat → List Nat → State → List (List Nat) × State
  | 0, _, s => ([], s)
  | _, [], s => ([], s)
  | fuel + 1, head :: rest, s =>
    let n := if bitOf head 32 then bitsOf head 24 5 + 1 else 0
    if rest.length < n then ([], s)
    else
      let (ws, s) := regRequest s dom enc head (rest.take n)
      let (more, s) := regRequests dom enc fuel (rest.drop n) s
      (ws :: more, s)

end Sys2Proof.Machine
end

