-- ==== Sys2Proof/Machine/Roce.lean ====
section
/-! DEFINITION. RoCEv2 queue pairs and their packets (15_host_link.md R350 to R353), the commands of 15, and the start of every
command by its opcode. -/

namespace Sys2Proof.Machine

/-- A refusal of the host link, counted on the page of its code (02 R27). -/
def refuseLink (s : State) (c : Cmd) (code : Nat) : State := finishCmd (recordErr s (codeBlk code) 0 0 code) c code

/-! ### Queue pairs (15 R350) -/

/-- QP_CREATE (15 R350, Table 15-12; 16 R356). The local QPN is the device's choice (notes/assumptions/6.md). -/
def startQpCreate (c : Cmd) (_ : List Byte) (s : State) : State :=
  let iface := c.f2 24 2
  let egq := c.f2 32 6
  if 4096 ≤ s.lnk.qps.length then refuseLink s c E_QP_FULL
  else if c.f2 26 2 = 3 ∨ c.f2 40 5 = 0 ∨ 20 < c.f2 40 5 ∨ queueIface s (iface / 2) egq ≠ iface then refuseLink s c E_QP_INVALID
  else
    let i := mapFree s.lnk.qps
    let (n, s) := nextFree s
    let qpn := (Config.freeWord n).toNat % 2 ^ 24
    let x : Qp := {
      dom := c.dom, qpn := qpn, remoteQpn := c.f2 0 24, iface := iface, pmtu := c.f2 26 2, notify := bitOf c.w2.toNat 28, egq := egq
      ackTimeout := c.f2 40 5, gidLo := c.w3.toNat, gidHi := c.w4.toNat, sqPsn := c.f5 0 24, rqPsn := c.f5 32 24, nextHop := c.f6 0 48
      pkey := if c.f7 0 16 = 0 then 0xFFFF else c.f7 0 16 }
    stageDone { s with lnk := { s.lnk with qps := mapSet s.lnk.qps i x } } { cmd := c, status := E_OK, c0 := qpn + i * 2 ^ 32 }

def execQpCreate (c : Cmd) (s : State) : Host.Outcome State Fault Refusal := .next (submit s c [] startQpCreate)

/-- A queue pair that is to be destroyed leaves once nothing of it is outstanding. -/
def qpClose (s : State) (q : Nat) : State :=
  match (qpOf s q).bind (·.closing) with
  | none => s
  | some c =>
    if s.lnk.reads.any (fun e => e.2.qp == q) || s.lnk.writes.any (fun e => e.2.qp == q) then s
    else finishCmd { s with lnk := { s.lnk with qps := mapErase s.lnk.qps q } } c E_OK

/-- QP_DESTROY (15 R350): at once, or when the last outstanding operation of the queue pair ends. -/
def startQpDestroy (c : Cmd) (_ : List Byte) (s : State) : State :=
  match qpOf s (c.f2 0 16) with
  | none => refuseLink s c E_QP_DENIED
  | some x =>
    if x.dom ≠ c.dom ∨ x.closing.isSome then refuseLink s c E_QP_DENIED
    else qpClose (updQp s (c.f2 0 16) (fun x => { x with closing := some c })) (c.f2 0 16)

def execQpDestroy (c : Cmd) (s : State) : Host.Outcome State Fault Refusal := .next (submit s c [] startQpDestroy)

/-! ### FEATHER, WAKE, NOP (15 R334, R344) -/

/-- A command of this chapter waits for its binding catch. -/
def waitBind (s : State) (c : Cmd) : State := { s with lnk := { s.lnk with toBind := s.lnk.toBind ++ [c] } }

/-- FEATHER (15 R334; 20 R497). -/
def startFeather (c : Cmd) (_ : List Byte) (s : State) : State :=
  if !domRegWrite s c.dom then finishCmd (recordErr s .sec 0 0 E_SEC_RIGHT) c E_SEC_RIGHT else waitBind s c

def execFeather (c : Cmd) (s : State) : Host.Outcome State Fault Refusal := .next (submit s c [] startFeather)

/-- WAKE; before strokes begin there is no Feather state to leave. -/
def startWake (c : Cmd) (_ : List Byte) (s : State) : State := if s.stk.phase = .idle then finishCmd s c E_OK else waitBind s c

def execWake (c : Cmd) (s : State) : Host.Outcome State Fault Refusal := .next (submit s c [] startWake)

/-- NOP: a round trip through a catch and a finish; before strokes begin at once (22 R474). -/
def startNop (c : Cmd) (_ : List Byte) (s : State) : State := if s.stk.phase = .idle then finishCmd s c E_OK else waitBind s c

def execNop (c : Cmd) (s : State) : Host.Outcome State Fault Refusal := .next (submit s c [] startNop)

/-- Why FEATHER is refused at its binding catch (15 R334). -/
def featherBusy (s : State) : Bool :=
  s.lnk.feather != .full || s.ses.tab.any (fun e => e.2.d.st == .active || e.2.win.isSome) ||
    s.tier.ops.any (fun e => decide (e.2.cls ≤ 2))

/-- The device enters another of the states of `PORTG_FEATHER.STATE`. -/
def setFeather (s : State) (f : FeatherSt) : State := { s with lnk := { s.lnk with feather := f } }

/-- FEATHER, WAKE and NOP bind at a catch. A WAKE with nothing to leave has nothing to do; one that comes while the device is on its way
between the states is refused as busy (notes/assumptions/80.md). -/
def linkBind (s : State) : State :=
  s.lnk.toBind.foldl (fun s c =>
    match c.opcode with
    | 0x52 =>
      if featherBusy s then refuseLink s c E_FEATHER_BUSY
      else let s := setFeather s .entering; { s with lnk := { s.lnk with featherCmd := some c } }
    | 0x53 =>
      match s.lnk.feather with
      | .full => finishCmd s c E_OK
      | .feather => let s := setFeather s .waking; { s with lnk := { s.lnk with featherCmd := some c } }
      | _ => refuseLink s c E_FEATHER_BUSY
    | _ => finishCmd s c E_OK) { s with lnk := { s.lnk with toBind := [] } }

/-! ### Starting a command -/

/-- What each opcode starts (the rows of spec/opcode_table.json by their opcode and selector). -/
def startByOpcode (c : Cmd) (data : List Byte) (s : State) : State :=
  match c.opcode with
  | 0x10 => startOpen c data s
  | 0x20 => startMove c data s
  | 0x28 => startPlanLoad c data s
  | 0x29 => startPlanUnload c data s
  | 0x2A => if c.f2 16 1 = 0 then startCourseOpen c data s else startCourseClose c data s
  | 0x30 => startVocabLoad c data s
  | 0x31 => startGrmLoad c data s
  | 0x32 => startTableUnload c data s
  | 0x33 =>
    match c.f4 0 2 with
    | 0 => startSes c data s
    | 1 => startStreamAllocate c data s
    | 2 => startStreamFree c data s
    | _ => startStreamConfigure c data s
  | 0x34 => startTokenize c data s
  | 0x35 => startDetokenize c data s
  | 0x38 => startMemCreate c data s
  | 0x39 => startMemDrop c data s
  | 0x3A => startMemQuery c data s
  | 0x3B => startMemInsert c data s
  | 0x3C => startMemDelete c data s
  | 0x3D => startMemRepair c data s
  | 0x40 => startGsxLoad c data s
  | 0x41 => startGather c data s
  | 0x42 => startScatter c data s
  | 0x43 => startGsxSeal c data s
  | 0x48 =>
    match c.f2 0 2 with
    | 0 => startCrewCreate c data s
    | 1 => startCrewModify c data s
    | _ => startCrewDelete c data s
  | 0x50 => startQpCreate c data s
  | 0x51 => startQpDestroy c data s
  | 0x52 => startFeather c data s
  | 0x53 => startWake c data s
  | 0x54 => startNop c data s
  | 0x58 => startCheckpoint c data s
  | 0x59 => startRestore c data s
  | 0x60 => startUmp c data s
  | 0x61 => startAttest c data s
  | 0x62 => startRigUpdate c data s
  | 0x68 => startErg c data s
  | _ => startSes c data s

/-- The host memory a command reads before it starts (15 R351): address, remote key, queue pair and bytes. -/
def hostRead (s : State) (c : Cmd) : Option (Nat × Nat × Nat × Nat) :=
  let at3 := fun (n : Nat) => some (c.w3.toNat, c.f4 0 32, c.f4 32 16, n)
  let at2 := some (c.w2.toNat, c.f3 0 32, c.f3 32 16, c.w4.toNat)
  let at5 := fun (n : Nat) => some (c.w5.toNat, c.f6 0 32, c.f6 32 16, n)
  let rec_ := fun (head : Nat) => match idxFor s c with
    | some x => at3 (c.f2 16 17 * (ceilDiv (head + vecBytes x.fmt x.dims) 64 * 64))
    | none => none
  match c.opcode with
  | 0x11 => if c.f4 0 2 = 0 then at5 (4 * c.f4 32 32) else none
  | 0x12 => at5 (if c.f4 16 1 = 1 then c.f7 0 32 else 4 * c.f4 0 10)
  | 0x28 | 0x30 | 0x31 | 0x40 | 0x62 => at2
  | 0x33 => if (c.f4 0 2 = 0 ∨ c.f4 0 2 = 3) ∧ c.f4 32 1 = 1 then at5 (72 * c.f7 0 5) else none
  | 0x34 => at3 (c.f5 0 32)
  | 0x35 => at3 (4 * c.f5 0 32)
  | 0x3A => rec_ 32
  | 0x3B => rec_ 40
  | 0x3C => at3 (4 * c.f2 16 17)
  | 0x41 => at3 (4 * c.f2 32 21 + (if c.f2 16 2 = 2 then 4 * c.f2 32 21 else 0) + (if c.f2 16 2 = 0 then 0 else 4 * c.f6 32 17))
  | 0x42 => match gsxOf s (c.f2 0 16) with
    | some t => at3 (4 * c.f2 32 21 + 4 * t.elems * c.f2 32 21)
    | none => none
  | 0x58 => if c.f2 16 1 = 1 then at3 (4 * c.f5 0 32) else none
  | 0x59 => if c.w3.toNat = 0 then none else at3 (8 * c.f5 0 11)
  | 0x60 => if c.f2 0 4 = 5 then at3 (c.f5 0 32) else none
  | _ => none

/-- A command begins: it asks for its host memory, or starts. A session command takes its place in the order before its data comes. -/
def beginCmd (s : State) (c : Cmd) : State :=
  match hostRead s c with
  | none => startByOpcode c [] s
  | some (addr, rkey, qp, len) =>
    if len = 0 || (qpCheck s c.dom qp).isSome then startByOpcode c [] s
    else
      let r : RdmaRead := { qp := qp, rkey := rkey, addr := addr, len := len, use := .command c }
      if inOrder c then
        if (joinCode s c).isSome then startByOpcode c [] s else issueRead (joinWait s c [] false) r
      else issueRead s r

/-- A descriptor of a `CMD` frame is handed on (15 R342, R343). -/
def handOn (s : State) (c : Cmd) : State :=
  let s1 := joinQueue s c
  match handOnCode s c with
  | some e => refuseHand s1 c e
  | none =>
    if fenceOk s1 c then beginCmd s1 c
    else { s1 with out := { s1.out with fenced := s1.out.fenced ++ [(c, none)] } }

/-- Commands that `W0.FENCE` held begin once every earlier command of their queue has completed. -/
def serveFenced (s : State) : State :=
  s.out.fenced.foldl (fun s e =>
    if fenceOk s e.1 then
      let s := { s with out := { s.out with fenced := s.out.fenced.erase e } }
      match e.2 with
      | some data => startByOpcode e.1 data s
      | none => beginCmd s e.1
    else s) s

/-! ### What a transfer leads to (15 R351) -/

/-- The host memory of a command has come. -/
def commandData (s : State) (c : Cmd) (data : List Byte) : State :=
  if inOrder c then
    let s := updSes s (cmdSid c) (fun x => { x with
      order := x.order.map (fun w => if w.cmd == c && !w.ready then { w with data := data, ready := true } else w) })
    if mayBind s then serve s (cmdSid c) else s
  else startByOpcode c data s

/-- RDMA_READ_RESPONSE. A response to no request that was asked, or of another length, delivers nothing. -/
def readResponse (s : State) (id : Nat) (data : List Byte) : State :=
  match mapGet s.lnk.reads id with
  | none => s
  | some r =>
    if !r.asked || data.length != r.len || (qpOf s r.qp).any (·.err) then s
    else
      let s := { s with lnk := { s.lnk with reads := mapErase s.lnk.reads id } }
      let s := updQp s r.qp (fun x => { x with retries := 0, rnrRetries := 0 })
      let s := match r.use with
        | .command c => commandData s c data
        | .anchor t => anchorRead s t data
        | .restore id off => restArrived s id off data
        | .copyUp p => lazyArrived s p data
      qpClose s r.qp

def execRdmaReadResponse (id : Nat) (data : List Byte) (s : State) : Host.Outcome State Fault Refusal := .next (readResponse s id data)

/-- An engine of the Text unit is free again (11 R498). -/
def engineFree (s : State) (e : Nat) : State := { s with txt := { s.txt with engines := mapErase s.txt.engines e } }

/-- The packets of an RDMA WRITE: PMTU bytes each, at least one. -/
def writePkts (x : Qp) (w : RdmaWrite) : Nat := max 1 (ceilDiv w.data.length (1024 * 2 ^ x.pmtu))

/-- RDMA_WRITE_ACK, once every packet has been sent. -/
def writeAck (s : State) (id : Nat) : State :=
  match mapGet s.lnk.writes id with
  | none => s
  | some w =>
    match qpOf s w.qp with
    | none => s
    | some x =>
      let waiting := s.eg.queues.any (fun e => e.2.frames.any (fun f => match f.fr with | .write i _ => i == id | _ => false))
      if x.err || decide (w.pkts < writePkts x w) || waiting then s
      else
        let s := { s with lnk := { s.lnk with writes := mapErase s.lnk.writes id } }
        let s := updQp s w.qp (fun x => { x with retries := 0, rnrRetries := 0 })
        let s := match w.use with
          | .now d => sendCpl s d
          | .engine e d => sendCpl (engineFree s e) d
          | .recovery d => let s := stageDone s d; if d.cmd.opcode = 0x41 then gatherAcked s d.cmd else s
          | .shard j n => shardAck s j n
          | .manifest j n => manifestAck s j n
          | .anchor j => anchorAck s j
          | .quiet => s
        qpClose s w.qp

def execRdmaWriteAck (id : Nat) (s : State) : Host.Outcome State Fault Refusal := .next (writeAck s id)

/-! ### Errors (15 R353) -/

/-- A read ends without its data. A session command is refused when it reaches the head of its order (03 R496). -/
def readFails (s : State) (r : RdmaRead) : State :=
  match r.use with
  | .command c =>
    if inOrder c then
      let s := updSes s (cmdSid c) (fun x => { x with order := x.order.map (fun w =>
        if w.cmd == c && !w.ready then { w with ready := true, qpErr := some E_QP_ERROR } else w) })
      if mayBind s then serve s (cmdSid c) else s
    else refuseLink s c E_QP_ERROR
  | _ => s

/-- A write ends unacknowledged. -/
def writeFails (s : State) (w : RdmaWrite) : State :=
  match w.use with
  | .now d => sendCpl (recordErr s .bwp 0 0 E_QP_ERROR) { cmd := d.cmd, status := E_QP_ERROR }
  | .engine e d => sendCpl (recordErr (engineFree s e) .bwp 0 0 E_QP_ERROR) { cmd := d.cmd, status := E_QP_ERROR }
  | .recovery d => let s := refuseLink s d.cmd E_QP_ERROR; if d.cmd.opcode = 0x41 then gatherAcked s d.cmd else s
  | _ => s

/-- Transfers on queue pairs that are gone or in error end with them. -/
def qpSweep (s : State) : State :=
  let dead := fun (q : Nat) => match qpOf s q with | some x => x.err | none => true
  let rs := (mapVals s.lnk.reads).filter (fun r => dead r.qp)
  let ws := (mapVals s.lnk.writes).filter (fun w => dead w.qp)
  if rs.isEmpty && ws.isEmpty then s
  else
    let s := { s with lnk := { s.lnk with
      reads := s.lnk.reads.filter (fun e => !dead e.2.qp), writes := s.lnk.writes.filter (fun e => !dead e.2.qp) } }
    let s := ws.foldl writeFails (rs.foldl readFails s)
    let qs := (rs.map (·.qp) ++ ws.map (·.qp)).eraseDups
    qs.foldl (fun s q => qpClose (restQpError (ckpQpError s q) q) q) s

/-- A queue pair enters the error state with a syndrome of 15 Table 15-13. -/
def qpFail (s : State) (q syn : Nat) : State :=
  match qpOf s q with
  | none => s
  | some x =>
    if x.err then s
    else
      let s := updQp s q (fun x => { x with err := true })
      let s := sendEvent s (pageOf .bwp 0) EV_QP_ERROR [q + syn * 2 ^ 16] [x.dom]
      qpClose (restQpError (ckpQpError (qpSweep s) q) q) q

/-- QP_ERROR: a fatal NAK, or exhausted retries. -/
def execQpError (qp syn : Nat) (s : State) : Host.Outcome State Fault Refusal :=
  .next (if 1 ≤ syn ∧ syn ≤ 5 then qpFail s qp syn else s)

/-- LOCAL_ACK_TIMEOUT (15 R351): the oldest request of the queue pair is sent again, seven times at most for each kind of retry. -/
def ackTimeout (s : State) (q : Nat) (rnr : Bool) : State :=
  match qpOf s q with
  | none => s
  | some x =>
    let r := (s.lnk.reads.find? (fun e => e.2.qp == q && e.2.asked)).map (·.1)
    let w := (s.lnk.writes.find? (fun e => e.2.qp == q && e.2.pkts != 0)).map (·.1)
    if x.err || (r.isNone && w.isNone) then s
    else if 7 ≤ (if rnr then x.rnrRetries else x.retries) then qpFail s q (if rnr then 2 else 1)
    else
      let s := updQp s q (fun x => if rnr then { x with rnrRetries := x.rnrRetries + 1 } else { x with retries := x.retries + 1 })
      let first := match r, w with
        | some i, some j => decide (i < j)
        | some _, none => true
        | _, _ => false
      if first then { s with lnk := { s.lnk with reads := mapUpd s.lnk.reads (r.getD 0) (fun r => { r with asked := false }) } }
      else { s with lnk := { s.lnk with writes := mapUpd s.lnk.writes (w.getD 0) (fun w => { w with pkts := 0 }) } }

def execLocalAckTimeout (qp : Nat) (rnr : Bool) (s : State) : Host.Outcome State Fault Refusal := .next (ackTimeout s qp rnr)

/-! ### Packets (15 R351, R353; 16 R357) -/

/-- Bytes of a RoCEv2 frame with n bytes behind its base transport header: Ethernet, IPv4 or IPv6 by the remote GID, UDP, the header,
ICRC and FCS. -/
def roceBytes (x : Qp) (n : Nat) : Nat := 14 + (if x.gidHi = 0 ∧ x.gidLo / 2 ^ 32 = 0xFFFF then 20 else 40) + 8 + 12 + n + 4 + 4

/-- A packet of a queue pair enters its egress queue. -/
def sendQp (s : State) (q : Nat) (fr : EgFrame) (n : Nat) : State :=
  match qpOf s q with
  | none => s
  | some x => enqueue s x.iface x.egq { fr := fr, bytes := roceBytes x n }

/-- The queue pair's rate lets its next packet go only after this one's time at that rate. -/
def paceQp (s : State) (q n : Nat) : State :=
  match qpOf s q with
  | none => s
  | some x =>
    if x.rate ≥ 10000 then s
    else updQp s q (fun x => { x with nextAt := s.time.now + roceBytes x n * 8 * 10000 / max 1 (x.rate * linkRate s x.iface) })

/-- The next packet of a queue pair: the RDMA READ request or the part of an RDMA WRITE of its oldest operation that is not yet sent. -/
def pumpQp (s : State) (q : Nat) (x : Qp) : State :=
  if x.err || decide (s.time.now < x.nextAt) then s
  else
    let flying := readsInFlight s
    let r := s.lnk.reads.find? (fun e => e.2.qp == q && !e.2.asked && flying.contains e.1)
    let w := s.lnk.writes.find? (fun e => e.2.qp == q && decide (e.2.pkts < writePkts x e.2))
    let read := fun (id : Nat) =>
      paceQp (sendQp { s with lnk := { s.lnk with reads := mapUpd s.lnk.reads id (fun r => { r with asked := true }) } } q (.read id) 16) q 16
    let write := fun (id : Nat) (w : RdmaWrite) =>
      let m := 1024 * 2 ^ x.pmtu
      let n := (if w.pkts = 0 then 16 else 0) + min m (w.data.length - m * w.pkts)
      paceQp (sendQp { s with lnk := { s.lnk with writes := mapUpd s.lnk.writes id (fun w => { w with pkts := w.pkts + 1 }) } }
        q (.write id w.pkts) n) q n
    match r, w with
    | some r, some w => if r.1 < w.1 then read r.1 else write w.1 w.2
    | some r, none => read r.1
    | none, some w => write w.1 w.2
    | none, none => s

/-- The queue pairs of an interface send; none does in the Feather state (15 R335). -/
def pumpRoce (s : State) (i : Nat) : State :=
  if s.lnk.feather = .feather ∨ s.lnk.feather = .waking then s
  else s.lnk.qps.foldl (fun s (e : Nat × Qp) => if e.2.iface = i then pumpQp s e.1 e.2 else s) s

/-- ROCE_INVALID_REQUEST (15 R351): an RDMA READ, SEND or atomic to the device. -/
def execRoceInvalidRequest (qp : Nat) (s : State) : Host.Outcome State Fault Refusal :=
  .next (if (qpOf s qp).any (fun x => !x.err) then sendQp s qp (.nak qp 4) 4 else s)

/-- CNP_RX (15 R353): the rate is halved. -/
def execCnpRx (qp : Nat) (s : State) : Host.Outcome State Fault Refusal :=
  .next (if (qpOf s qp).isSome then cnt (updQp s qp (fun x => { x with rate := x.rate / 2 })) R.BWP_QP_CNP_RX 1 else s)

/-- ROCE_RATE_RAISE (15 R353): 1 % of line rate more. -/
def execRoceRateRaise (qp : Nat) (s : State) : Host.Outcome State Fault Refusal :=
  .next (updQp s qp (fun x => { x with rate := min 10000 (x.rate + 100) }))

/-- ECN_MARKED_RX (15 R353): at most one congestion notification packet per queue pair per 50 µs. -/
def ecnMarked (s : State) (q time : Nat) : State :=
  match qpOf s q with
  | none => s
  | some x =>
    if x.err || x.lastCnp.any (fun t => decide (time < t + 50000)) then s
    else sendQp (updQp s q (fun x => { x with lastCnp := some time })) q (.cnp q) 16

def execEcnMarkedRx (qp time : Nat) (s : State) : Host.Outcome State Fault Refusal := .next (ecnMarked s qp time)

/-- With `NOTIFY` the completion of an EXPORT or CHECKPOINT also goes out as a SEND behind its last write (15 R351). -/
def notify (s : State) (d : Done) (bytes : List Byte) : State :=
  let q := if d.cmd.opcode = 0x17 then some (d.cmd.f6 32 16)
    else if d.cmd.opcode = 0x58 then some (tgtQp s (d.cmd.f2 0 12)) else none
  match q with
  | some q => if d.status = E_OK ∧ (qpOf s q).any (fun x => x.notify && !x.err) then sendQp s q (.notice q bytes) 64 else s
  | none => s

/-! ### Imports (09 R209, R210; 15 R352) -/

/-- Where a run of an import region's bytes lies, if every byte belongs to a record of a window position: the session, its window, and the
64-byte blocks touched, numbered by record. -/
def importBlock (w : ImpWin) (rowBytes addr : Nat) : Option Nat :=
  let p := addr / 65536
  if p < w.base ∨ w.base + (w.s1 + 1 - w.s0) * w.layers ≤ p then none
  else
    let j := p - w.base
    let pos := (w.s0 + j / w.layers) * (65536 / rowBytes) + addr % 65536 / rowBytes
    if pos < w.first ∨ w.last < pos then none
    else some (((pos - w.first) * w.layers + j % w.layers) * (rowBytes / 64) + addr % rowBytes / 64)

/-- The blocks of a write, or none where a byte lies outside the window's records. Records begin at multiples of 64 bytes, so a block lies
inside a record or outside. -/
def importBlocks (w : ImpWin) (rowBytes addr len : Nat) : Option (List Nat) :=
  allSome ((List.range (ceilDiv (addr % 64 + len) 64)).map (fun k => importBlock w rowBytes (addr / 64 * 64 + 64 * k)))

/-- The window a write falls into: one of its queue pair's domain, whose COMMIT or ABORT has not bound. -/
def importWin (s : State) (dom addr len : Nat) : Option (Nat × Nat × List Nat) :=
  s.ses.tab.findSome? (fun (e : Nat × Ses) =>
    match e.2.win with
    | none => none
    | some w =>
      if w.dom ≠ dom ∨ e.2.head.any (fun r => r.cmd.opcode = 0x11) then none
      else (importBlocks w (65536 / e.2.span) addr len).map (fun bs => (e.1, w.base, bs)))

/-- Bytes written at an SAS address, page by page. -/
def writeSas (s : State) : Nat → Nat → List Byte → State
  | 0, _, _ => s
  | fuel + 1, addr, bs =>
    if bs.isEmpty then s
    else
      let n := 65536 - addr % 65536
      writeSas (touch (writePage s (addr / 65536) (addr % 65536) (bs.take n)) (addr / 65536)) fuel (addr + n) (bs.drop n)

/-- IMPORT_RDMA_WRITE. -/
def importWrite (s : State) (qp rkey addr : Nat) (data : List Byte) : State :=
  match qpOf s qp with
  | none => s
  | some x =>
    if x.err then s
    else
      match (if rkey = s.lnk.rkeys.getD x.dom 0 then importWin s x.dom addr data.length else none) with
      | none => sendQp (cnt s R.CMB_IMPORT_NAK 1) qp (.nak qp 3) 4
      | some (sid, _, bs) =>
        let s := cnt (writeSas s (data.length / 65536 + 2) addr data) R.MOV_BYTES_NET data.length
        let s := updSes s sid (fun x => { x with win := x.win.map (fun w => { w with written := bs.foldl setAdd w.written }) })
        sendQp s qp (.ackPkt qp) 4

def execImportRdmaWrite (qp rkey addr : Nat) (data : List Byte) (s : State) : Host.Outcome State Fault Refusal :=
  .next (importWrite s qp rkey addr data)

end Sys2Proof.Machine
end

