-- ==== Sys2Proof/Machine/Bwp.lean ====
section
/-! DEFINITION. BWP: frames, associations, sequencing, and what the device sends (15_host_link.md R336 to R349; 20 R436). -/

namespace Sys2Proof.Machine

/-! ### Associations -/

def assocOf (s : State) (id : Nat) : Option Assoc := (s.lnk.assocs.find? (fun e => e.2.id == id)).map (·.2)

def updAssoc (s : State) (id : Nat) (f : Assoc → Assoc) : State :=
  { s with lnk := { s.lnk with assocs := mapAll s.lnk.assocs (fun _ a => if a.id = id then f a else a) } }

def openAssoc (s : State) (id : Nat) : Option Assoc := (assocOf s id).filter (fun a => a.st == .opened)

/-- The largest payload of a frame (15 R337). -/
def lenMax (s : State) : Nat := if rdF s R.BWP_CFG_JUMBO = 1 then 8192 else 1024

/-- How far a sequence number lies ahead of another, modulo 2^32. -/
def seqDist (a b : Nat) : Nat := (a + 2 ^ 32 - b % 2 ^ 32) % 2 ^ 32

/-- Whether a sequence number lies below another (15 R340). -/
def seqBelow (a b : Nat) : Bool := decide (2 ^ 31 ≤ seqDist a b)

/-! ### Headers and tags (15 R337, R338) -/

/-- The 32 bytes of 15 Table 15-3. -/
def headerBytes (version ty : Nat) (enc acknow : Bool) (len seq ack txc assoc sack : Nat) : List Byte :=
  leBytes 1 version ++ leBytes 1 ty ++ leBytes 2 (b2n enc + 2 * b2n acknow) ++ leBytes 4 len ++ leBytes 4 seq ++ leBytes 4 ack ++
    leBytes 8 txc ++ leBytes 4 assoc ++ leBytes 4 sack

def frameNonce (assoc txc : Nat) : List Byte := leBytes 4 assoc ++ leBytes 8 txc

/-- The payload of a frame in the clear, if its tag is right under a key. -/
def openFrame (key : List Byte) (f : BwpFrame) : Option (List Byte) :=
  let head := headerBytes f.version f.ty f.enc f.acknow f.len f.seq f.ack f.txc f.assoc f.sack
  let nonce := frameNonce f.assoc f.txc
  if f.tag == gcmTag key nonce head f.payload then some (if f.enc then gcmCrypt key nonce f.payload else f.payload) else none

/-- A frame that the device sends: header, payload, tag. -/
def sealFrame (key : List Byte) (f : DevFrame) (ack txc assoc sack : Nat) : List Byte :=
  let head := headerBytes 1 f.ty f.enc false f.payload.length f.seq ack txc assoc sack
  let nonce := frameNonce assoc txc
  let body := if f.enc then gcmCrypt key nonce f.payload else f.payload
  head ++ body ++ gcmTag key nonce head body

/-- Whether a frame keeps the limits of 15 R336 and R337: its port, its version, a type that a host sends, and its length. -/
def frameOk (s : State) (f : BwpFrame) : Bool :=
  f.dstPort == rdF s R.BWP_CFG_UDP_PORT && f.version == 1 && [0x01, 0x04, 0x08, 0x09, 0x0B].contains f.ty &&
    f.len == f.payload.length && decide (f.len ≤ lenMax s) && f.tag.length == 16 && decide (f.seq < 2 ^ 32) && decide (f.ack < 2 ^ 32) &&
    decide (f.txc < 2 ^ 64) && decide (f.assoc < 2 ^ 32) && decide (f.sack < 2 ^ 32)

/-! ### Sending (15 R340, R341; 16 R357) -/

/-- The egress queue of a domain for a kind of frame. In breakout a queue that serves the other interface acts as the one that serves this
one with the same number modulo 32 (notes/assumptions/81.md). -/
def mapQueue (s : State) (iface dom ty : Nat) : Nat :=
  let q := if ty = 0x03 then rdB s R.EGQ_MAP_EVENT dom else if ty = 0x06 then rdB s R.EGQ_MAP_STREAM dom
    else if ty = 0x07 then rdB s R.EGQ_MAP_RECEIPT dom else rdB s R.EGQ_MAP_CTRL dom
  if queueIface s (iface / 2) q = iface then q else q % 32 + 32 * (iface % 2)

/-- Bytes of a BWP frame from destination address to FCS (16 R358). -/
def bwpBytes (ip len : Nat) : Nat := 14 + (if ip < 2 ^ 32 then 20 else 40) + 8 + 32 + len + 16 + 4

/-- A frame of an association enters its queue. -/
def queueFrame (s : State) (a : Assoc) (f : DevFrame) : State :=
  enqueue s a.iface (mapQueue s a.iface a.dom f.ty) { fr := .bwp a.id f, bytes := bwpBytes a.ip f.payload.length }

/-- Whether a frame of an association waits in an egress queue. -/
def frameQueued (s : State) (id : Nat) (f : DevFrame) : Bool :=
  s.eg.queues.any (fun e => e.2.frames.any (fun x => match x.fr with | .bwp i g => i == id && g.seq == f.seq && g.ty == f.ty | _ => false))

/-- Frames that wait for window are sent while fewer than `WINDOW` are unacknowledged. `fuel` bounds them. -/
def sendUnsent (id : Nat) : Nat → State → State
  | 0, s => s
  | fuel + 1, s =>
    match openAssoc s id with
    | none => s
    | some a =>
      match a.unsent with
      | [] => s
      | f :: fs =>
        if rdF s R.BWP_CFG_WINDOW ≤ a.unacked.length then s
        else
          let s := updAssoc s id (fun a => { a with unsent := fs, unacked := a.unacked ++ [f] })
          sendUnsent id fuel (queueFrame s a f)

/-- A frame that takes a sequence number. -/
def sendFrame (s : State) (id ty : Nat) (payload : List Byte) : State :=
  let s := updAssoc s id (fun a => { a with
    tx := (a.tx + 1) % 2 ^ 32, unsent := a.unsent ++ [{ ty := ty, seq := a.tx, payload := payload, enc := a.enc }] })
  sendUnsent id 1 s

/-- An `ACK` frame, which takes none. -/
def sendAck (s : State) (id : Nat) : State :=
  match openAssoc s id with
  | none => s
  | some a => queueFrame s a { ty := 0x08, seq := a.tx, payload := [], enc := a.enc }

/-- A frame is sent again. -/
def resend (s : State) (a : Assoc) (f : DevFrame) : State := queueFrame (cnt s R.BWP_RETX_SENT 1) a f

/-- Queued frames of an association, or others that `p` names, leave their queues. -/
def purgeFrames (s : State) (p : EgFrame → Bool) : State :=
  s.eg.queues.foldl (fun s (e : Nat × EgQ) =>
    let left := e.2.frames.filter (fun x => !p x.fr)
    if left.length = e.2.frames.length then s
    else
      let i := queueIface s (e.1 / 64) (e.1 % 64)
      match left.head?, e.2.frames.head? with
      | some x, some y =>
        if x == y then setQueue s e.1 { e.2 with frames := left }
        else setQueue s e.1 { e.2 with
          frames := left, tag := headTag s e.1 (ifaceOf s i).v e.2.tag (frameLen s i x.bytes), red := false, waited := false }
      | _, _ => setQueue s e.1 { e.2 with frames := [], red := false, waited := false }) s

def purgeAssoc (s : State) (id : Nat) : State := purgeFrames s (fun fr => match fr with | .bwp i _ => i == id | _ => false)

/-! ### Closing (15 R341) -/

/-- Completions and stream bytes that an association still held. -/
def heldWork (a : Assoc) : Nat :=
  sumOf ((a.unacked ++ a.unsent).map (fun f =>
    if f.ty = 0x02 then f.payload.length / 64 else if f.ty = 0x06 then f.payload.length else 0)) + a.stream.length

/-- An association ends with what it held. -/
def dropAssoc (s : State) (id : Nat) : State :=
  match assocOf s id with
  | none => s
  | some a =>
    let s := cnt (purgeAssoc s id) R.BWP_STAT_LOST (heldWork a)
    { s with lnk := { s.lnk with assocs := s.lnk.assocs.filter (fun e => e.2.id != id) } }

/-- An association closes and lingers: its frames are kept, and `EV_BWP_CLOSED` goes to its domain's other associations. -/
def lingerAssoc (s : State) (id cause : Nat) : State :=
  match openAssoc s id with
  | none => s
  | some a =>
    let s := updAssoc (purgeAssoc s id) id (fun a => { a with st := .lingering, held := [], ackDue := false })
    sendEvent s (pageOf .bwp 0) EV_BWP_CLOSED [id + cause * 2 ^ 32] [a.dom]

/-- The associations of domains that are no longer enabled close (20 R431). -/
def closeDisabled (s : State) : State :=
  ((mapVals s.lnk.assocs).filter (fun a => !domEnabled s a.dom)).foldl (fun s a => dropAssoc s a.id) s

/-! ### Acknowledgements (15 R340, R341) -/

/-- A frame's `ACK` and `SACK`: frames below `ACK` are acknowledged, those that `SACK` names are marked, and a frame that is missing
while a later one was received is sent again. -/
def takeAck (s : State) (id ack sack : Nat) : State :=
  let s := updAssoc s id (fun a => { a with
    unacked := (a.unacked.filter (fun f => !seqBelow f.seq ack)).map (fun f =>
      let n := seqDist f.seq ack
      if n ≠ 0 ∧ n ≤ 32 ∧ bitOf sack (n - 1) then { f with sacked := true } else f) })
  match openAssoc s id with
  | none => s
  | some a =>
    let missing := if sack = 0 then [] else a.unacked.filter (fun f =>
      !f.sacked && a.unacked.any (fun g => g.sacked && seqBelow f.seq g.seq) && !frameQueued s id f)
    sendUnsent id (a.unsent.length) (missing.foldl (fun s f => resend s a f) s)

/-! ### What comes in (15 R340, R342, R347) -/

/-- The descriptors of a `CMD` payload. -/
def cmdOf (dom assoc : Nat) (bs : List Byte) : Cmd :=
  let w := fun (i : Nat) => BitVec.ofNat 64 (u64 bs (8 * i))
  { dom := dom, assoc := assoc, w0 := w 0, w1 := w 1, w2 := w 2, w3 := w 3, w4 := w 4, w5 := w 5, w6 := w 6, w7 := w 7 }

/-- Responses packed whole into payloads of at most `room` bytes. -/
def packWhole (room : Nat) (xs : List (List Byte)) : List (List Byte) :=
  (xs.foldl (fun (acc : List (List Byte)) x =>
    match acc with
    | [] => [x]
    | y :: ys => if y.length + x.length ≤ room then (y ++ x) :: ys else x :: y :: ys) []).reverse

/-- A frame whose turn has come (15 Table 15-4). -/
def serveFrame (s : State) (a : Assoc) (f : BwpFrame) : State :=
  if f.ty = 0x01 then
    ((chunks 64 f.payload).filter (fun d => d.length == 64)).foldl (fun s d => handOn s (cmdOf a.dom a.id d)) s
  else if f.ty = 0x04 then
    let ws := fieldsAt 8 f.payload 0 (f.payload.length / 8)
    let (rs, s) := regRequests a.dom f.enc ws.length ws s
    (packWhole (lenMax s) (rs.map (packFields 8))).foldl (fun s p => sendFrame s a.id 0x05 p) s
  else if f.ty = 0x0B then dropAssoc s a.id
  else s

/-- Held frames are handed on in the order of their numbers. -/
def serveHeld (id : Nat) : Nat → State → State
  | 0, s => s
  | fuel + 1, s =>
    match openAssoc s id with
    | none => s
    | some a =>
      match mapGet a.held a.rx with
      | none => s
      | some f =>
        let s := updAssoc s id (fun a => { a with held := mapErase a.held a.rx, rx := (a.rx + 1) % 2 ^ 32 })
        serveHeld id fuel (serveFrame s a f)

/-- A frame with a sequence number: one within the window is held and handed on in order, and one below the expected number is a duplicate.
An acknowledgement leaves at once for a duplicate, out of order or asked for, and later otherwise. -/
def seqFrame (s : State) (a : Assoc) (f : BwpFrame) : State :=
  let d := seqDist f.seq a.rx
  if 2 ^ 31 ≤ d then sendAck (cnt s R.BWP_RETX_DUP 1) a.id
  else if rdF s R.BWP_CFG_WINDOW ≤ d then s
  else
    let s := updAssoc s a.id (fun a => { a with held := if mapHas a.held f.seq then a.held else mapSet a.held f.seq f, ackDue := true })
    let s := serveHeld a.id (a.held.length + 1) s
    if d ≠ 0 ∨ f.acknow then sendAck s a.id else s

/-- A frame of a domain that must be encrypted and is not (20 R436, R443). -/
def dropPlain (s : State) : State :=
  let s := cnt s R.SEC_DROP_PLAIN 1
  let s := if s.sec.plainNow || s.sec.plainBefore then s else raiseBit s .sec 0 4 .plain
  { s with sec := { s.sec with plainNow := true } }

/-- A frame of an open association, from its endpoint. -/
def assocFrame (s : State) (a : Assoc) (f : BwpFrame) : State :=
  match openFrame a.key f with
  | none => cnt s R.BWP_AUTH_FAIL 1
  | some p =>
    if encNeeded s a.dom && !f.enc then dropPlain s
    else
      let s := takeAck s a.id f.ack f.sack
      if f.ty = 0x08 then (if f.acknow then sendAck s a.id else s) else
      match openAssoc s a.id with
      | none => s
      | some a => seqFrame s a { f with payload := p }

/-! ### HELLO (15 R339; 20 R426, R436) -/

/-- The domain whose key a HELLO's tag is right under, with its payload. -/
def helloDom (s : State) (f : BwpFrame) : Option (Nat × List Byte) :=
  allDoms.findSome? (fun d =>
    match (rigNow s).bind (fun r => r.doms[d]?) with
    | none => none
    | some x =>
      if x.key.length ≠ 32 then none
      else (openFrame x.key f).bind (fun p => if p.length = 32 ∧ bitsOf (u64 p 0) 0 4 = d then some (d, p) else none))

def domKey (s : State) (d : Nat) : List Byte := match (rigNow s).bind (fun r => r.doms[d]?) with | some x => x.key | none => []

/-- `HELLO_RSP` for an endpoint (15 Table 15-5). -/
def helloAnswer (s : State) (iface : Nat) (f : BwpFrame) (d status id seq0 resumeAck : Nat) (nonce : List Byte) (enc : Bool) : State :=
  let p := leBytes 4 status ++ leBytes 4 id ++ leBytes 4 seq0 ++ leBytes 4 resumeAck ++ nonce
  enqueue s iface (mapQueue s iface d 0x0A) {
    fr := .helloRsp d f.srcIp f.srcPort { ty := 0x0A, seq := seq0, payload := p, enc := enc }, bytes := bwpBytes f.srcIp 32 }

/-- Why a HELLO is refused (15 R339), beside `RESUME`, and the association it resumes. -/
def helloBad (s : State) (d queues : Nat) (old : Option Assoc) (resume : Bool) : Bool :=
  let others := (mapVals s.lnk.assocs).filter (fun a => old.all (fun o => o.id != a.id))
  !domEnabled s d || decide (64 ≤ others.length) || (resume && old.isNone) ||
    others.any (fun a => a.st == .opened && a.dom == d && a.queues &&& queues != 0)

/-- A HELLO whose tag is right. The association ID counts up; the device's first sequence number and nonce are its own choice
(notes/assumptions/6.md); a resumed association's frames keep their numbers (notes/assumptions/81.md). -/
def helloTake (s : State) (iface : Nat) (f : BwpFrame) (d : Nat) (p : List Byte) : State :=
  let w0 := u64 p 0
  let queues := u64 p 8
  let resume := bitOf w0 9
  let old := if resume then (assocOf s (bitsOf w0 32 32)).filter (fun a => a.dom == d) else none
  let enc := f.enc || encNeeded s d
  if helloBad s d queues old resume then
    helloAnswer (recordErr s .bwp 0 0 E_BWP_HELLO) iface f d E_BWP_HELLO 0 0 0 (List.replicate 16 0) enc
  else
    let (n, s) := nextFree s
    let (_, s) := nextFree s
    let (_, s) := nextFree s
    let nonce := leBytes 8 (Config.freeWord (n + 1)).toNat ++ leBytes 8 (Config.freeWord (n + 2)).toNat
    let frames := match old with | some o => o.unacked ++ o.unsent | none => []
    let tx := match old with | some o => o.tx | none => (Config.freeWord n).toNat % 2 ^ 32
    let seq0 := match frames.head? with | some g => g.seq | none => tx
    let id := s.lnk.nextAssoc
    let a : Assoc := {
      id := id, dom := d, iface := iface, ip := f.srcIp, port := f.srcPort, events := bitOf w0 8
      queues := queues ||| (match old with | some o => o.queues | none => 0)
      key := kdf (domKey s d) (ascii "BWP") (leBytes 4 id ++ bytesAt p 16 16 ++ nonce) 256, enc := enc, age := s.lnk.age
      rx := f.seq, tx := tx, unsent := frames.map (fun g => { g with enc := enc, retries := 0, sacked := false })
      stream := match old with | some o => o.stream | none => [] }
    let s := match old with
      | some o =>
        let s := purgeAssoc s o.id
        { s with lnk := { s.lnk with assocs := s.lnk.assocs.filter (fun e => e.2.id != o.id) } }
      | none => s
    let s := { s with lnk := { s.lnk with
      assocs := mapSet s.lnk.assocs (mapFree s.lnk.assocs) a, nextAssoc := id % (2 ^ 32 - 1) + 1, age := s.lnk.age + 1 } }
    let s := helloAnswer s iface f d E_OK id seq0 (match old with | some o => o.rx | none => 0) nonce enc
    sendUnsent id a.unsent.length s

def helloFrame (s : State) (iface : Nat) (f : BwpFrame) : State :=
  match helloDom s f with
  | none => cnt s R.BWP_AUTH_FAIL 1
  | some (d, p) => if encNeeded s d && !f.enc then dropPlain s else helloTake s iface f d p

/-! ### Rows of arriving frames -/

/-- A BWP frame arrives on an interface. -/
def frameRx (s : State) (iface : Nat) (f : BwpFrame) : State :=
  if !linkUp s iface || s.pwr.water.isSome || !frameOk s f then s
  else if f.ty = 0x09 then helloFrame s iface f
  else
    match openAssoc s f.assoc with
    | none => s
    | some a => if a.ip = f.srcIp ∧ a.port = f.srcPort ∧ a.iface = iface then assocFrame s a f else s

/-! ### Payloads (15 R344, R345, R348) -/

/-- A completion's 64 bytes (15 Table 15-8). -/
def cplBytes (x : Cpl) : List Byte :=
  leBytes 1 x.opcode ++ leBytes 1 x.queue ++ leBytes 2 x.tag ++ leBytes 2 x.status ++ leBytes 2 (x.dom % 16) ++ leBytes 8 x.hostCtx ++
    leBytes 8 x.stroke ++ leBytes 8 x.time ++ packFields 8 [x.c0, x.c1, x.c2, x.c3]

/-- An event record (15 Table 15-9). -/
def evBytes (x : EvRec) : List Byte :=
  leBytes 2 x.code ++ leBytes 4 (x.page % 2 ^ 12 + x.bit % 64 * 2 ^ 12 + x.words.length % 16 * 2 ^ 20) ++ leBytes 2 x.lost ++
    leBytes 8 x.stroke ++ packFields 8 x.words

/-- A stream record with its head (15 R348). -/
def streamBytes (x : StreamRec) : List Byte := leBytes 8 (x.kind % 16 + (1 + x.body.length / 8) * 2 ^ 16) ++ x.body

/-- The association that owns a command queue: the open one that claimed it, or one that still lingers. -/
def queueOwner (s : State) (dom queue : Nat) : Option Nat :=
  let mine := (mapVals s.lnk.assocs).filter (fun a => a.dom == dom && bitOf a.queues queue)
  ((mine.find? (fun a => a.st == .opened)).or mine.head?).map (·.id)

/-- The association that receives a domain's events: its newest open one with `EVENTS`, or its lowest-numbered open one (15 R345). -/
def eventAssoc (s : State) (dom : Nat) : Option Nat :=
  let mine := (mapVals s.lnk.assocs).filter (fun a => a.dom == dom && a.st == .opened)
  match (sortBy (fun a b => decide (b.age ≤ a.age)) (mine.filter (·.events))).head? with
  | some a => some a.id
  | none => (sortBy (fun a b => decide (a.id ≤ b.id)) mine).head?.map (·.id)

/-- Completions leave, packed per association (15 R344); those of a queue that no association owns are lost. -/
def pumpCpls (s : State) : State :=
  let xs := s.out.cpls.map (fun x => (queueOwner s x.dom x.queue, x))
  let s := { s with out := { s.out with cpls := [] } }
  let s := cnt s R.BWP_STAT_LOST (xs.filter (fun e => e.1.isNone)).length
  ((xs.filterMap (·.1)).eraseDups).foldl (fun s id =>
    (packWhole (lenMax s) ((xs.filter (fun e => e.1 == some id)).map (fun e => cplBytes e.2))).foldl (fun s p => sendFrame s id 0x02 p) s) s

/-- Stream records join their association's stream, which is cut into frames (15 R348). -/
def pumpStreams (s : State) : State :=
  let xs := s.out.streams.map (fun x => (queueOwner s x.dom x.queue, x))
  let s := { s with out := { s.out with streams := [] } }
  let s := xs.foldl (fun s e =>
    match e.1 with
    | none => cnt s R.BWP_STAT_LOST (streamBytes e.2).length
    | some id => updAssoc s id (fun a => { a with stream := a.stream ++ streamBytes e.2 })) s
  (mapVals s.lnk.assocs).foldl (fun s a =>
    (chunks (lenMax s) a.stream).foldl (fun s p => sendFrame s a.id 0x06 p) (updAssoc s a.id (fun a => { a with stream := [] }))) s

/-- Event records of each domain leave while its association has no frame waiting for window; the first one tells how many were lost. -/
def pumpEvents (s : State) : State :=
  allDoms.foldl (fun s d =>
    match mapGet s.out.evq d with
    | none | some [] => s
    | some (r :: rs) =>
      match (eventAssoc s d).bind (assocOf s) with
      | none => s
      | some a =>
        if !a.unsent.isEmpty then s
        else
          let lost := min 65535 ((mapGet s.out.evLost d).getD 0)
          let s := { s with out := { s.out with evq := mapErase s.out.evq d, evLost := mapErase s.out.evLost d } }
          (packWhole (lenMax s) (({ r with lost := lost } :: rs).map evBytes)).foldl (fun s p => sendFrame s a.id 0x03 p) s) s

/-- Receipts leave (15 R349). One that no association receives stays in the Umpire's log alone. -/
def pumpReceipts (s : State) : State :=
  let xs := s.out.rcpts
  xs.foldl (fun s e =>
    match eventAssoc s e.1 with
    | none => s
    | some id => (chunks (lenMax s) e.2).foldl (fun s p => sendFrame s id 0x07 p) s) { s with out := { s.out with rcpts := [] } }

/-- What waits to leave the device becomes frames. -/
def linkPump (s : State) : State := pumpReceipts (pumpEvents (pumpStreams (pumpCpls (qpSweep (serveFenced s)))))

/-! ### Rows -/

def bwpRow (s : State) (iface : Nat) (f : BwpFrame) : Host.Outcome State Fault Refusal :=
  if 4 ≤ iface then .fault .noSuchUnit else .next (linkPump (frameRx s iface f))

/-- BWP_FRAME_RX: a frame of any type. -/
def execBwpFrameRx (iface : Nat) (f : BwpFrame) (s : State) : Host.Outcome State Fault Refusal := bwpRow s iface f

/-- HELLO, CLOSE and BWP_ACK_FRAME: a frame of that type. -/
def execHello (iface : Nat) (f : BwpFrame) (s : State) : Host.Outcome State Fault Refusal := bwpRow s iface { f with ty := 0x09 }
def execClose (iface : Nat) (f : BwpFrame) (s : State) : Host.Outcome State Fault Refusal := bwpRow s iface { f with ty := 0x0B }
def execBwpAckFrame (iface : Nat) (f : BwpFrame) (s : State) : Host.Outcome State Fault Refusal := bwpRow s iface { f with ty := 0x08 }

/-- BWP_RETRANSMIT_TIMER (15 R341): a frame that has left and is not acknowledged is sent again, or the association closes. -/
def retransmit (s : State) (id seq : Nat) : State :=
  match openAssoc s id with
  | none => s
  | some a =>
    match a.unacked.find? (fun f => f.seq == seq) with
    | none => s
    | some f =>
      if frameQueued s id f then s
      else if rdF s R.BWP_CFG_RETRIES ≤ f.retries then lingerAssoc s id 1
      else
        resend (updAssoc s id (fun a => { a with
          unacked := a.unacked.map (fun g => if g.seq = seq then { g with retries := g.retries + 1 } else g) })) a f

def execBwpRetransmitTimer (assoc seq : Nat) (s : State) : Host.Outcome State Fault Refusal := .next (retransmit s assoc seq)

/-- BWP_ACK_DELAY (15 R340). -/
def execBwpAckDelay (assoc : Nat) (s : State) : Host.Outcome State Fault Refusal :=
  .next (if (openAssoc s assoc).any (·.ackDue) then updAssoc (sendAck s assoc) assoc (fun a => { a with ackDue := false }) else s)

/-- BWP_IDLE_TIMEOUT (15 R341). -/
def execBwpIdleTimeout (assoc : Nat) (s : State) : Host.Outcome State Fault Refusal := .next (lingerAssoc s assoc 2)

/-- BWP_LINGER_EXPIRY (15 R341). -/
def execBwpLingerExpiry (assoc : Nat) (s : State) : Host.Outcome State Fault Refusal :=
  .next (if (assocOf s assoc).any (fun a => a.st == .lingering) then dropAssoc s assoc else s)

end Sys2Proof.Machine
end

