-- ==== Sys2Proof/Machine/Ports.lean ====
section
/-! DEFINITION. The Ethernet ports (15_host_link.md R328 to R332), the Feather state (R334, R335), and the frame that an interface
sends (16_egress_scheduling.md R359). -/

namespace Sys2Proof.Machine

/-! ### Frames that arrive (15 R330, R331) -/

/-- A configured IPv6 address. -/
def portIpv6 (s : State) (i : Nat) : Nat :=
  rdWord s .port (i / 2) 0 (0x118 + 0x100 * (i % 2)) + rdWord s .port (i / 2) 0 (0x120 + 0x100 * (i % 2)) * 2 ^ 64

/-- PFC and PAUSE frames are MAC control frames, which carry no VLAN tag (notes/assumptions/82.md). -/
def EthBody.control : EthBody → Bool
  | .pause _ | .pfc _ _ => true
  | _ => false

/-- Whether the VLAN rule of 15 R330 accepts a frame. -/
def vlanOk (s : State) (i : Nat) (f : EthFrame) : Bool :=
  EthBody.control f.body || (if rdPort s R.PORT_CFG_VLAN_EN i = 1 then f.vlans == [rdPort s R.PORT_CFG_VID i] else f.vlans.isEmpty)

/-- What an accepted frame does here: answers to ARP and Neighbour Solicitation, and pauses. -/
def ethServe (s : State) (i : Nat) (f : EthFrame) : State :=
  match f.body with
  | .arp target mac ip =>
    let own := rdPort s R.PORT_IPV4 i
    if own ≠ 0 ∧ target = own then sendControl s i (.arpReply mac ip) else s
  | .neighbour target mac ip =>
    let own := portIpv6 s i
    if own ≠ 0 ∧ target = own then sendControl s i (.neighbourReply mac ip) else s
  | .pause q =>
    let s := cntPort s R.PORT_PAUSE_RX i 1
    if rdPort s R.PORT_CFG_PFC_EN i = 1 then s else updIface s i (fun x => { x with paused := if q = 0 then [] else List.range 8 })
  | .pfc en qs =>
    let s := cntPort s R.PORT_PAUSE_RX i 1
    if rdPort s R.PORT_CFG_PFC_EN i = 1 then
      (onesOf 8 en).foldl (fun s p => updIface s i (fun x => { x with
        paused := if qs.getD p 0 = 0 then setDel x.paused p else setAdd x.paused p })) s
    else s
  | _ => s

/-- ETH_FRAME_RX. -/
def ethRx (s : State) (i : Nat) (f : EthFrame) : State :=
  if !linkUp s i || s.pwr.water.isSome then s
  else if decide (f.len < 64) || decide (9216 < f.len) || !f.fcsOk || f.fragment || f.extHeader || !vlanOk s i f then
    cntPort s R.PORT_DROP_FRAME i 1
  else if !f.secured && rdPort s R.PORT_CFG_MACSEC_REQ i = 1 && f.body != .eapol then cntPort s R.PORT_DROP_MACSEC i 1
  else if f.secured && !(rdPort s R.PORT_CFG_MACSEC_EN i = 1 && mapHas s.lnk.mkaKeys i) then s
  else ethServe s i f

def execEthFrameRx (iface : Nat) (f : EthFrame) (s : State) : Host.Outcome State Fault Refusal :=
  if 4 ≤ iface then .fault .noSuchUnit else .next (ethRx s iface f)

/-! ### MKA (15 R332) -/

/-- MKA_FRAME: a message under the CAK is answered. The key server's secure association key is installed; the device makes one itself where
its own priority is the better (lower) one (its value is free, notes/assumptions/6.md). -/
def mkaRx (s : State) (i : Nat) (m : MkaMsg) : State :=
  if !linkUp s i || rdPort s R.PORT_CFG_MACSEC_EN i != 1 || !m.authentic then s
  else
    let install := fun (s : State) (k : Nat) =>
      wrPort { s with lnk := { s.lnk with mkaKeys := mapSet s.lnk.mkaKeys i k } } R.PORT_STATUS_SECURE i 1
    let s := if rdPort s R.PORT_MKA_KS_PRIO i < m.keyServerPrio then
        if mapHas s.lnk.mkaKeys i then s
        else
          let (n, s) := nextFree s
          install s (Config.freeWord n).toNat
      else match m.sak with
        | some k => install s k
        | none => s
    sendControl s i .mka

def execMkaFrame (iface : Nat) (m : MkaMsg) (s : State) : Host.Outcome State Fault Refusal :=
  if 4 ≤ iface then .fault .noSuchUnit else .next (mkaRx s iface m)

/-! ### Links and the Feather state (15 R328, R334) -/

/-- The Feather state or the full state is reached: the command completes and `EV_FEATHER` is sent. -/
def featherReached (s : State) : State :=
  let (f, s) := if s.lnk.feather = .entering then (FeatherSt.feather, setFeather s .feather) else (.full, setFeather s .full)
  let s := match s.lnk.featherCmd with
    | some c => sendCpl { s with lnk := { s.lnk with featherCmd := none } } { cmd := c, status := E_OK }
    | none => s
  raiseBit s .portg 0 2 (.tied EV_FEATHER [f.code])

/-- Links retrain: those that are up go down, and the interfaces of `next` are awaited. -/
def retrainPorts (s : State) (next : Nat → List Nat) : State :=
  let ports := (List.range 2).filter (fun p => linkUp s (2 * p) || linkUp s (2 * p + 1))
  let s := (List.range 4).foldl linkDown s
  let s := { s with lnk := { s.lnk with retrain := (ports.map next).flatten } }
  if s.lnk.retrain.isEmpty then featherReached s else s

/-- The finish of a stroke (15 Table 15-2): with nothing dirty the lanes enter self-refresh and the ports retrain to one lane; the lanes of a
device that wakes leave it, and the ports retrain to their modes. -/
def featherFinish (s : State) : State :=
  if s.lnk.feather = .entering ∧ !s.lnk.selfRefresh ∧ dirtyPages s = 0 then
    retrainPorts { s with lnk := { s.lnk with selfRefresh := true }, bld := { s.bld with owed := [] } } (fun p => [2 * p])
  else if s.lnk.feather = .waking ∧ s.lnk.selfRefresh then
    retrainPorts { s with lnk := { s.lnk with selfRefresh := false }, bld := { s.bld with owed := [] } } (fun p =>
      if bitOf (rdF s R.PORTG_CFG_BREAKOUT) p && rdPort s R.PORT_CFG_ENABLE (2 * p + 1) = 1 then [2 * p, 2 * p + 1] else [2 * p])
  else s

/-- Whether the ports run, or train to, one lane. -/
def oneLane (s : State) : Bool := s.lnk.selfRefresh

/-- An interface's link comes up, in the mode for which its port trains (15 Table 15-1). -/
def linkTrained (s : State) (i : Nat) : State :=
  let p := i / 2
  let brk := !oneLane s && bitOf (rdF s R.PORTG_CFG_BREAKOUT) p
  if linkUp s i || !s.boot.sl0 || rdPort s R.PORT_CFG_ENABLE i != 1 || (i % 2 = 1 && !brk) then s
  else
    let speed := if oneLane s then 1 else if brk then 2 else 3
    let s := { s with lnk := { s.lnk with breakout := if brk then s.lnk.breakout ||| 2 ^ p else s.lnk.breakout &&& (3 - 2 ^ p) } }
    let s := wrPort (wrPort s R.PORT_STATUS_LINK i 1) R.PORT_STATUS_SPEED i speed
    let s := updIface s i (fun x => { x with v := 0 })
    let s := raiseBit s .port p 2 (.tied EV_PORT_LINK [i + 2 ^ 8 + speed * 2 ^ 9])
    if s.lnk.retrain.contains i then
      let s := { s with lnk := { s.lnk with retrain := s.lnk.retrain.filter (· != i) } }
      if s.lnk.retrain.isEmpty then featherReached s else s
    else s

/-- PORT_LINK_CHANGE. -/
def execPortLinkChange (iface : Nat) (up : Bool) (s : State) : Host.Outcome State Fault Refusal :=
  if 4 ≤ iface then .fault .noSuchUnit
  else .next (if s.pwr.water.isSome then s else if up then linkTrained s iface else linkDown s iface)

/-! ### Sending (16 R359) -/

/-- The frames that `SACK` shows received (15 Table 15-3). -/
def sackOf (a : Assoc) : Nat := maskOf ((List.range 32).filter (fun n => mapHas a.held ((a.rx + 1 + n) % 2 ^ 32)))

/-- A frame that starts: a BWP frame gets its transmission counter and the acknowledgement of this moment (15 R338, R340), and its bytes. -/
def spellFrame (s : State) : EgFrame → State × List Byte
  | .bwp id f =>
    match assocOf s id with
    | none => (s, [])
    | some a =>
      let g := if f.ty = 0x08 then { f with seq := a.tx } else f
      (updAssoc s id (fun a => { a with txc := a.txc + 1, ackDue := false }), sealFrame a.key g a.rx a.txc a.id (sackOf a))
  | .helloRsp d _ _ f =>
    let n := (mapGet s.lnk.domTxc d).getD 0
    let id := u32 f.payload 4
    let rx := match assocOf s id with | some a => a.rx | none => 0
    ({ s with lnk := { s.lnk with domTxc := mapSet s.lnk.domTxc d (n + 1) } }, sealFrame (domKey s d) f rx n id 0)
  | _ => (s, [])

/-- While the Hold-water sequence runs, only event frames still leave (18 Table 18-3): queued completions, streams and receipts are dropped, and
the RoCEv2 engine stops. -/
def waterPump (s : State) : State :=
  let keep (fr : EgFrame) : Bool := match fr with | .bwp _ f => f.ty == 0x03 | _ => false
  let s := purgeFrames s (fun fr => !keep fr)
  pumpEvents ((mapVals s.lnk.assocs).foldl (fun s a =>
    updAssoc s a.id (fun a => { a with unsent := a.unsent.filter (fun f => f.ty == 0x03), stream := [], ackDue := false })) s)

/-- EGRESS_SELECT: an interface is free at a device time. -/
def egressSelect (s : State) (i time : Nat) : State :=
  let water := s.pwr.water.isSome
  let s := if water then waterPump (timeAt s time) else linkPump (timeAt s time)
  if !linkUp s i then s
  else
    let (s, fr) := selectFrame (if water then s else pumpRoce s i) i time
    match fr with
    | none => updIface s i (fun x => { x with wire := none })
    | some fr =>
      let (s, bytes) := spellFrame s fr
      updIface s i (fun x => { x with wire := some (fr, bytes) })

def execEgressSelect (iface time : Nat) (s : State) : Host.Outcome State Fault Refusal :=
  if 4 ≤ iface then .fault .noSuchUnit else .next (egressSelect s iface time)

end Sys2Proof.Machine
end

