-- ==== Sys2Proof/Machine/Hold.lean ====
section
/-! DEFINITION. The end of the Hold-water sequence, what survives it, and what a reset clears (18_power_and_hold_water.md R397 to R400;
22_bring_up.md R464 to R466; 04 R83, 11 R233, 13 R304, 20 R428). -/

namespace Sys2Proof.Machine

/-! ### The flush (18 R397, Table 18-3) -/

/-- The dirty pages, oldest last write first. -/
def flushOrder (s : State) : List Nat :=
  (sortBy (fun a b => lexLe [a.2.lastWrite, a.1] [b.2.lastWrite, b.1]) (s.tier.ptes.filter (fun e => e.2.dirty))).map (·.1)

/-- A page is sealed as it stands. -/
def sealPage (s : State) (p : Nat) : State := match pteOf s p with | some e => putSealed s p (sealOf s p e) | none => s

/-! ### Pages after a reset -/

/-- A page without its Tier H copy. Placement and a pin to Tier H go with it (notes/assumptions/84.md). -/
def coldPte (e : Pte) : Pte := { e with h := false, hFrame := 0, copying := false, placed := false, pinH := false, lanes := 0, lastWrite := 0 }

/-- Whether a page of a session, a list or an index has content that a copy still holds, or is known to be lost. -/
def pteStays (e : Pte) : Bool := e.cls != 2 && e.cls != 4 && ((e.committed && (e.n || (e.f && e.fVer == e.ver))) || e.lost)

/-- A shared page of a session becomes its own (04 R83): the session that is met first takes the page, and each further one a copy of it with
a seal of its own. Answers the page and the pages taken so far. -/
def ownPage (s : State) (tenant p : Nat) (taken : List Nat) : Nat × State :=
  match pteOf s p with
  | none => (p, s)
  | some e =>
    let q := if taken.contains p then sasRun s 1 else p
    let ctr := s.tier.sealCtr + 1
    let y : Pte := { e with cls := 1, tenant := tenant, oldF := if q = p then e.oldF else [] }
    match (if e.f then mapGet s.tier.sealedAt e.fFrame else none) with
    | none => (q, setPte s q y)
    | some x =>
      let f := if q = p then e.fFrame else mapFree s.tier.sealedAt
      let s := { s with tier := { s.tier with
        sealCtr := ctr, sealedAt := mapSet s.tier.sealedAt f { x with page := q, tenant := tenant, cls := 1, ctr := ctr } } }
      (q, setPte s q { y with fFrame := f })

/-- A session comes back (18 R398): no command, window or operation of it survives, its shared pages are its own, and entries of pages without
committed content are gone. -/
def restoreSes (acc : State × List Nat) (sid : Nat) (x : Ses) : State × List Nat :=
  let (pl, s, taken) := x.pl.foldl (fun (a : Map PlEnt × State × List Nat) (e : Nat × PlEnt) =>
    let (pl, s, taken) := a
    if (pteOf s e.2.page).isNone then a
    else if !e.2.shared then (mapSet pl e.1 e.2, s, e.2.page :: taken)
    else
      let (q, s) := ownPage s x.d.tenant e.2.page taken
      (mapSet pl e.1 { page := q, shared := false }, s, q :: taken)) ([], acc.1, acc.2)
  let parked := x.d.st == .parked
  let d := { x.d with
    st := if x.d.st == .opened then .opened else .parked
    moving := false, reviving := false, trailing := false, importing := false, pinH := false
    sealedEpoch := if parked || x.d.st == .opened then x.d.sealedEpoch else x.d.epoch
    prefixNode := 0, idle := 0 }
  let y := recount { x with
    d := d, pl := pl, order := [], head := none, win := none, parkOp := none, parkCmd := none, heldOut := false, sharedSpans := 0, sel := []
    wasShort := false, durWaits := [], pinLanes := 0, exports := [], trailSet := [], required := [], homeLane := none, jmark := 0 }
  let s := setSes s sid y
  (if x.win.isSome then sesEvent s EV_SES_IMPORT_ABORT d else s, taken)

/-! ### Images (22 R471) -/

/-- Whether every page of an image has its sealed copy. -/
def imageSealed (s : State) (ps : List Nat) : Bool := ps.all (fun p => (pteOf s p).any (fun e => e.f))

/-- The plans, sets, vocabularies and grammars whose sealed copy is complete; of grammars also an older version to which a surviving state
is bound. -/
def keptPlans (s : State) (m : Map Prog) : List Plan :=
  ((mapVals m).map (·.cur)).filterMap (fun p =>
    if p.pages.all (sealedNow s) then some { p with blocked := false, retry := false } else none)

def keptVocabs (s : State) : List Vocab := ((mapVals s.txt.vocabs).map (·.cur)).filter (fun v => v.pages.all (sealedNow s))

def keptGrms (s : State) : List Grm :=
  ((mapVals s.txt.grms).map (fun g =>
    g.cur :: g.old.toList.filter (fun o => s.txt.recs.any (fun e => e.2.table = o.table && e.2.version = o.version)))).flatten.filter
      (fun g => g.pages.all (sealedNow s))

def keptTabs (s : State) : Map GsxProg :=
  s.gsx.tabs.filterMap (fun e =>
    if imageSealed s e.2.cur.pages then some (e.1, { cur := { e.2.cur with changed := [] } }) else none)

/-! ### The system region (05 R87) -/

/-- Where the system frames of fenced half-banks stand at bring-up: in the first half-banks in use behind the first 49,152. -/
def sysPlaces (s : State) : Map Nat :=
  if s.flt.fences.all (fun e => !e.active) then []
  else
    let out := (List.range 49152).filter (hbFenced s)
    let free := ((List.range 32768).map (· + 49152)).filter (fun g => !hbFenced s g)
    out.zip free

/-! ### Reset (22 R464 to R466) -/

/-- The state after a reset, before anything of it is brought up: what Tier F, the journal, configuration flash and the Umpire keep. -/
def keptState (s : State) : State :=
  { pending := s.pending, freeCtr := s.freeCtr
    ses := { s.ses with opens := [] }
    tier := { ptes := s.tier.ptes, sealedAt := s.tier.sealedAt, sealCtr := s.tier.sealCtr + 2 ^ 32, sysMoved := sysPlaces s }
    crw := { crews := mapAll s.crw.crews (fun _ k => {
      tenant := k.tenant, model := k.model, weight := k.weight, fast := k.fast, isAuto := k.isAuto, split := k.split }) }
    flt := { log := s.flt.log, fences := s.flt.fences }
    lnk := { domTxc := s.lnk.domTxc, rkeys := (List.range 16).map (fun d => (Config.freeWord (s.freeCtr + d)).toNat % 2 ^ 32) }
    txt := { ctxs := s.txt.ctxs.filter (fun e => e.2.session.isSome), recs := s.txt.recs, grmBase := s.txt.grmBase }
    mem := { idxs := mapAll s.mem.idxs (fun _ x => { x with
      vers := x.vers.take 1, recs := [], dels := [], batch := none, sweep := none, ended := [], dropping := none, lastCommit := none }) }
    ump := { s.ump with
      link := false, recs := [], waits := [], requests := [], tens := mapAll s.ump.tens (fun _ t => { t with nowCmds := [], nowDue := [] }) }
    ckp := { lazy := s.ckp.lazy }
    sec := {
      rigs := s.sec.rigs, fws := s.sec.fws, rigSlot := s.sec.rigSlot, fwSlot := s.sec.fwSlot, rigCtr := s.sec.rigCtr, fwCtr := s.sec.fwCtr
      owner := s.sec.owner, exportCtr := s.sec.exportCtr + 2 ^ 32 }
    boot := { plans := keptPlans s s.prg.progs, sets := keptPlans s s.prg.sets, vocabs := keptVocabs s, grms := keptGrms s, tabs := keptTabs s }
    mod := { s.mod with sbOut := s.mod.sbOut, ppsOut := none } }

/-- The pages of the images that bring-up reinstalls. -/
def bootPages (b : BootState) : List Nat :=
  ((b.plans ++ b.sets).map (·.pages) ++ b.vocabs.map (·.pages) ++ b.grms.map (·.pages) ++ (mapVals b.tabs).map (fun g => g.cur.pages)).flatten

/-- Everything that a reset clears is cleared, and what survives takes its form (18 R398, R399): dirty pages that were not sealed are lost. -/
def enterReset (s : State) (cause : Nat) (hwRan : Bool) : State :=
  let lost := (s.tier.ptes.filter (fun e => e.2.dirty)).map (·.1)
  let live := s.ses.tab.filter (fun e => e.2.d.st != .released)
  let k := keptState s
  let k := lost.foldl losePage { k with freeCtr := s.freeCtr + 16, ses := { k.ses with tab := live } }
  let shared := (live.map (fun e => (e.2.pl.filter (fun p => p.2.shared)).map (fun p => p.2.page))).flatten
  let images := bootPages k.boot
  let ptes := (k.tier.ptes.filter (fun e =>
    pteStays e.2 || images.contains e.1 || (shared.contains e.1 && (e.2.lost || e.2.n || (e.2.f && e.2.fVer == e.2.ver))))).map
      (fun (e : Nat × Pte) => (e.1, if images.contains e.1 then { coldPte e.2 with ver := e.2.fVer } else coldPte e.2))
  let frames := (ptes.map (fun (e : Nat × Pte) => (if e.2.f then [e.2.fFrame] else []) ++ e.2.oldF)).flatten
  let k := { k with tier := { k.tier with ptes := ptes, sealedAt := k.tier.sealedAt.filter (fun e => frames.contains e.1) } }
  let (k, _) := k.ses.tab.foldl (fun (a : State × List Nat) (e : Nat × Ses) => restoreSes a e.1 e.2) (k, [])
  wrF (wrF k R.BOOT_CAUSE_CAUSE cause) R.BOOT_CAUSE_HW_RAN (b2n hwRan)

/-- The `HW_LAST` words go over into the registers after a reset. -/
def keepHwLast (old s : State) : State :=
  [0x138, 0x140, 0x148, 0x150].foldl (fun s off => wrWord s .pwr 0 0 off (rdWord old .pwr 0 0 off)) s

/-- With the module off, the housekeeping converter alone feeds the Umpire (23 R482); until then the bank does (18 R397). -/
def umpDark (s : State) : State := if s.mod.hk then s else umpOff s

/-- HOLD_WATER_END (18 R397): the journal tail and as many dirty pages as the bank allowed are sealed; the end record is written if none is
left (notes/assumptions/85.md). After a trigger of Table 18-1 the power stages turn off, and the result is reported at SL1; the steps before a
reset leave them on and report nothing. -/
def holdWaterEnd (s : State) (flushUs bankMv sealedPages : Nat) : State :=
  match s.pwr.water with
  | none => s
  | some cause =>
    let ps := flushOrder s
    let n := min sealedPages ps.length
    let s1 := (ps.take n).foldl sealPage s
    let x : HwRec := {
      cause := cause, complete := decide (n = ps.length), stroke := s.pwr.lastFinish, flushed := n + ceilDiv (s.pwr.tailIn - s.pwr.tailOut) 65536
      lost := ps.length - n, us := flushUs, mv := bankMv }
    let s1 := if cause = 0 then s1 else umpDark (umpPowerLoss s1)
    let k := keepHwLast s (enterReset s1 (if cause = 0 then s.pwr.resetCause.getD 3 else s.pwr.resetCause.getD 1) (cause != 0))
    { k with boot := { k.boot with hw := if cause = 0 then s.boot.hw else some x }, mod := { k.mod with pwrGood := k.mod.pwrGood && cause = 0 } }

def execHoldWaterEnd (flushUs bankMv sealedPages : Nat) (s : State) : Host.Outcome State Fault Refusal :=
  .next (holdWaterEnd s flushUs bankMv sealedPages)

/-- POWER_STAGE_FAULT (23 R485): `PWR_GOOD` falls without a sequence; what was dirty is lost (notes/assumptions/86.md). -/
def execPowerStageFault (s : State) : Host.Outcome State Fault Refusal :=
  .next (if !s.mod.pwrGood then s
    else
      let k := keepHwLast s (enterReset (umpDark (umpPowerLoss s)) 1 false)
      { k with mod := { k.mod with pwrGood := false } })

end Sys2Proof.Machine
end

