-- ==== Sys2Proof/Machine/Boot.lean ====
section
/-! DEFINITION. Reset sources, clocks and bring-up (22_bring_up.md; 20_security.md R424, R425, R429, R430; 05_tiers_and_the_mover.md R113). -/

namespace Sys2Proof.Machine

/-! ### Reset sources (22 R464, Table 22-1) -/

/-- POWER_ON_RESET: `PWR_GOOD` rises; the input must be in the operating range and `PWR_EN` asserted (23 R485). What the device
holds was cleared when its power stages turned off. -/
def powerOnReset (s : State) : State :=
  if s.mod.pwrGood || !s.mod.pwrEn || s.pwr.water.isSome || decide (s.mod.inputMv < 54000) || decide (63000 < s.mod.inputMv) then s
  else { s with mod := { s.mod with pwrGood := true } }

def execPowerOnReset (s : State) : Host.Outcome State Fault Refusal := .next (powerOnReset s)

/-- RST_N_RESET: `RST_N` is low for 10 µs. -/
def execRstNReset (s : State) : Host.Outcome State Fault Refusal := .next (askReset { s with mod := { s.mod with rstN := false } } 2)

/-- RST_N_RELEASE: `RST_N` is high again, and the internal reset ends. -/
def execRstNRelease (s : State) : Host.Outcome State Fault Refusal := .next { s with mod := { s.mod with rstN := true } }

/-- WATCHDOG_EXPIRY: the firmware has not checked in for `WDOG_MS`. -/
def execWatchdogExpiry (s : State) : Host.Outcome State Fault Refusal := .next (askReset s 4)

/-! ### Clocks (22 R467, R468) -/

/-- The lock bits of `CLK_STATUS`. -/
def clkLock (s : State) (pll : Nat) (on : Bool) : State :=
  wrWord s .clk 0 0 0x100 (putBits (rdWord s .clk 0 0 0x100) pll 1 (b2n on))

def allLocked (s : State) : Bool := rdWord s .clk 0 0 0x100 % 16 == 15

/-- PLL_LOCK_LOSS: every grant stops, as in row 2 of 08 Table 08-3. -/
def lockLoss (s : State) (pll : Nat) : State :=
  if !s.boot.sl0 then s else stopLegs { clkLock s pll false with gov := { (clkLock s pll false).gov with pllOk := false } } (fun _ => true)

def execPllLockLoss (pll : Nat) (s : State) : Host.Outcome State Fault Refusal :=
  if 4 ≤ pll then .fault .noSuchUnit else .next (lockLoss s pll)

/-- PLL_RELOCK: lock within 1 ms; grants resume at the next catch once every PLL holds its lock. -/
def relock (s : State) (pll : Nat) : State :=
  if !s.boot.sl0 || bitOf (rdWord s .clk 0 0 0x100) pll then s
  else
    let s := raiseBit (cnt (clkLock s pll true) R.CLK_RELOCK_COUNT 1) .clk 0 2 .plain
    { s with gov := { s.gov with pllOk := allLocked s } }

def execPllRelock (pll : Nat) (s : State) : Host.Outcome State Fault Refusal :=
  if 4 ≤ pll then .fault .noSuchUnit else .next (relock s pll)

/-- CLOCK_FAULT_RESET: a PLL has not regained lock within 1 ms. -/
def execClockFaultReset (pll : Nat) (s : State) : Host.Outcome State Fault Refusal :=
  if 4 ≤ pll then .fault .noSuchUnit
  else .next (if s.boot.sl0 && !bitOf (rdWord s .clk 0 0 0x100) pll then askReset s 5 else s)

/-! ### SL0 (22 R469; 20 R424, R427, R429, R430) -/

/-- The slot to boot: of those that are valid and not below the counter, the one of higher version, slot 0 of two equal ones. -/
def pickSlot (vs : List (Nat × Bool)) (least : Nat) : Option Nat :=
  ((List.range vs.length).zip vs).foldl (fun (best : Option Nat) (e : Nat × Nat × Bool) =>
    if !e.2.2 || decide (e.2.1 < least) then best
    else match best with
      | some b => if (vs.getD b (0, false)).1 < e.2.1 then some e.1 else some b
      | none => some e.1) none

/-- A domain's rights and tenant set. -/
def loadDom (s : State) (d : Nat) (x : RigDom) : State :=
  (List.range 64).foldl (fun s w => wrFx s R.SEC_DOM_TEN 0 d w (x.tenants.getD w 0)) (wrB s R.SEC_DOM_RIGHTS d x.rights)

/-- A tenant's allotment. -/
def loadAllot (s : State) (t : Nat) (a : Allot) : State :=
  (List.range 10).foldl (fun s k => wrFx s R.SEC_ALLOT_PC 0 t k (a.pcs.getD k 0)) (wrB (wrB s R.SEC_ALLOT_FCH t a.fch) R.SEC_ALLOT_CMBG t a.cmbg)

/-- Every value that comes from the Rigging image (20 R429, R442). -/
def loadRigging (s : State) (r : Rigging) : State :=
  let s := wrF (wrF s R.DEV_SERIAL r.serial) R.BOOT_CFG_QUICK (b2n r.quick)
  let s := (List.range 4).foldl (fun s i => wrPort s R.PORT_MAC i (r.macs.getD i 0)) s
  let s := (List.range 16).foldl (fun s d => match r.doms[d]? with | some x => loadDom s d x | none => s) s
  let s := r.allots.foldl (fun s (e : Nat × Allot) => loadAllot s e.1 e.2) { s with sec := { s.sec with allots := r.allots } }
  if r.conf then (List.range 4).foldl (fun s i => wrPort (wrPort s R.PORT_CFG_MACSEC_EN i 1) R.PORT_CFG_MACSEC_REQ i 1) s else s

/-- A time in ms from the start of bring-up, which no row of the model measures. -/
def stampTime (s : State) (i : Nat) : State :=
  let (n, s) := nextFree s
  { s with boot := { s.boot with times := setNth s.boot.times i ((Config.freeWord n).toNat % 2 ^ 32) } }

def bootFail (s : State) (n : Nat) : State := { s with boot := { s.boot with fail := n } }

/-- What the device takes from the images that boot; the replay-protected counters rise to their versions. Fewer than 49,152 half-banks in
use stop bring-up at SL0 (05 R88). Of the firmware versions the spec states the lines alone (3 and 1, 02 Table 02-4): the minor version, patch
level and build of both read 0 (DESIGN CHOICE, notes/assumptions/94.md). -/
def bootImages (s : State) (fi ri : Nat) (f : FwImage) (r : Rigging) : State :=
  let s := { s with sec := { s.sec with
    fwSlot := fi, rigSlot := ri, fwCtr := max s.sec.fwCtr f.version, rigCtr := max s.sec.rigCtr r.version
    owner := match r.newOwner with | some o => some o | none => s.sec.owner } }
  let s := extendMeas (extendMeas (extendMeas s 0 f.digest) 1 r.digest) 2 s.ump.fwHash
  let s := wrF (wrF (wrF s R.FW_VER_MAJOR 3) R.UMP_FW_VER (2 ^ 24)) R.PWR_IN_VOLT_MV (min s.mod.inputMv 65535)
  let s := loadRigging (wrWord s .clk 0 0 0x100 15) r
  let s := stampTime { s with boot := { s.boot with sl0 := true } } 0
  if 81920 - hbsFenced s < 49152 then bootFail s 4 else s

/-- SL0_REACHED: the boot ROM and the firmware verify the slots; what fails keeps the device in reset. -/
def sl0Reached (s : State) : State :=
  if s.boot.sl0 || !s.mod.pwrGood || !s.mod.rstN || s.pwr.water.isSome || s.stk.phase != .idle then s
  else
    match pickSlot (s.sec.fws.map (fun f => (f.version, f.valid))) s.sec.fwCtr with
    | none => bootFail s 1
    | some fi =>
      match pickSlot (s.sec.rigs.map (fun r => (r.version, r.valid))) s.sec.rigCtr with
      | none => bootFail s 3
      | some ri =>
        match s.sec.fws[fi]?, s.sec.rigs[ri]? with
        | some f, some r => if r.unwraps then bootImages (bootFail s 0) fi ri f r else bootFail s 2
        | _, _ => s

def execSl0Reached (s : State) : Host.Outcome State Fault Refusal := .next (sl0Reached s)

/-! ### Lane training (22 R470) -/

def laneTrained (s : State) (k : Nat) : Bool := bitOf (rdF s R.BOOT_LANES_TRAINED) k

/-- A fence during bring-up: the geometry changes with it (02 R29, 21 R460), and `FENCE` of the pages concerned. -/
def bootFence (s : State) (u cls : Nat) : State :=
  let t := fence s u cls
  if t.flt.fences = s.flt.fences then t else fenceFigures s.flt.fences (wrF t R.GEO_GEN_GEN ((rdF t R.GEO_GEN_GEN + 1) % 2 ^ 32))

/-- LANE_TRAINING_DONE: a lane is trained, or its third failure fences it with class 12 without a test. -/
def trainingDone (s : State) (k : Nat) (ok : Bool) : State :=
  if !s.boot.sl0 || s.boot.fail != 0 || s.stk.phase != .idle || laneTrained s k then s
  else if ok then wrF s R.BOOT_LANES_TRAINED (rdF s R.BOOT_LANES_TRAINED ||| 2 ^ k)
  else
    let n := (mapGet s.boot.train k).getD 0 + 1
    let s := { s with boot := { s.boot with train := mapSet s.boot.train k n } }
    if n = 3 then bootFence s (unitId 6 k) 12 else s

def execLaneTrainingDone (lane : Nat) (ok : Bool) (s : State) : Host.Outcome State Fault Refusal :=
  if 10 ≤ lane then .fault .noSuchUnit else .next (trainingDone s lane ok)

/-! ### Reinstalling images (22 R471) -/

/-- A page takes its Tier H copy in a frame again, from its sealed copy. -/
def placePage (s : State) (p f : Nat) : State :=
  match pteOf s p with
  | none => s
  | some e =>
    let cells := match mapGet s.tier.sealedAt e.fFrame with | some x => x.cells | none => []
    let s := setPte s p { e with h := true, hFrame := f, committed := true, ver := e.fVer }
    fillFrame { s with tier := { s.tier with hUsed := setAdd s.tier.hUsed f } } f cells

/-- Weight pages go to the frames their plan names, where those may still hold a page. Answers whether all could. -/
def placePlan (s : State) (p : Plan) : Bool × State :=
  (p.pages.zip p.frames).foldl (fun (a : Bool × State) (e : Nat × Nat) =>
    if frameUsable a.2 e.2 && !a.2.tier.hUsed.contains e.2 then (a.1, placePage a.2 e.1 e.2) else (false, a.2)) (true, s)

/-- Pages of a table go to free frames; those of a table for which too few are left stay in Tier F, and the table is not installed. -/
def placeTable (s : State) (ps : List Nat) : Option State :=
  (allocFrames s 0xFFF 0 ps.length).map (fun fs => (ps.zip fs).foldl (fun s (e : Nat × Nat) => placePage s e.1 e.2) s)

/-- One plan (`KIND` 0) is installed again and checked against the fences and 06 R129. -/
def reinstallPlan (s : State) (p : Plan) : State :=
  let (whole, s) := placePlan s p
  let p := withFits s { p with isSealed := true }
  let bad := planFails s p (fitCaseNow s) 0
  let s := { s with prg := { s.prg with progs := mapSet s.prg.progs p.hdr.model { cur := p, lcCfg := lcReset } } }
  match bad with
  | some (leg, r, k) =>
    let s := blockPlan s p.hdr.model p.hdr.version leg r k 0
    if whole && decide (r ≤ 2) then updPlanVer s p.hdr.model p.hdr.version (fun q => { q with retry := true }) else s
  | none => if whole then s else blockPlan s p.hdr.model p.hdr.version 0 6 0 0

/-- A tenant's expert set is installed again. -/
def reinstallSet (s : State) (p : Plan) : State :=
  let (whole, s) := placePlan s p
  { s with prg := { s.prg with sets := mapSet s.prg.sets (setKey p.hdr.model p.hdr.tenant) { cur := { p with isSealed := true, blocked := !whole }, lcCfg := 0 } } }

def reinstallVocab (s : State) (v : Vocab) : State :=
  match placeTable s v.pages with
  | none => freePages s v.pages
  | some s => { s with txt := { s.txt with vocabs := mapSet s.txt.vocabs v.model { cur := { v with isSealed := true } } } }

/-- A grammar version; the current one of a table comes before an older one. -/
def reinstallGrm (s : State) (g : Grm) : State :=
  match placeTable s g.pages with
  | none => freePages s g.pages
  | some s =>
    let g := { g with isSealed := true }
    let x : GrmProg := match mapGet s.txt.grms g.table with | some x => { x with old := some g } | none => { cur := g }
    { s with txt := { s.txt with grms := mapSet s.txt.grms g.table x } }

def reinstallTab (s : State) (t : Nat) (g : GsxProg) : State :=
  match placeTable s g.cur.pages with
  | none => freePages s g.cur.pages
  | some s => { s with gsx := { s.gsx with tabs := mapSet s.gsx.tabs t g } }

/-- Whether a grammar state's version is installed. -/
def grmHeld (s : State) (r : GrmRec) : Bool :=
  (mapGet s.txt.grms r.table).any (fun x => x.cur.version == r.version || x.old.any (fun o => o.version == r.version))

/-- IMAGE_REINSTALL: once the lanes are trained, or fenced, the sealed images stand in Tier H again. A grammar state whose table is gone is
rejected. -/
def reinstall (s : State) : State :=
  if !s.boot.sl0 || s.boot.fail != 0 || s.boot.installed || s.stk.phase != .idle ||
      (List.range 10).any (fun k => !laneTrained s k && !laneFenced s k) then s
  else
    let b := s.boot
    let s1 := { s with boot := { b with plans := [], sets := [], vocabs := [], grms := [], tabs := [], installed := true } }
    let s1 := b.plans.foldl reinstallPlan s1
    let s1 := b.sets.foldl reinstallSet s1
    let s1 := b.vocabs.foldl reinstallVocab s1
    let s1 := b.grms.foldl reinstallGrm s1
    let s1 := b.tabs.foldl (fun s (e : Nat × GsxProg) => reinstallTab s e.1 e.2) s1
    let lost := s1.txt.recs.any (fun e => !grmHeld s1 e.2)
    let s1 := { s1 with txt := { s1.txt with recs := mapAll s1.txt.recs (fun _ r => if grmHeld s1 r then r else { r with rejected := true }) } }
    measureInstalls s (if lost then raiseBit s1 .grm 0 4 .plain else s1)

def execImageReinstall (s : State) : Host.Outcome State Fault Refusal := .next (reinstall s)

/-- Changes of `STK_CFG` and `LANE_GOV` take effect at a catch: plans that bring-up blocked for want of time or energy are checked again. -/
def retryCheck (s : State) : State :=
  { s with prg := { s.prg with progs := mapAll s.prg.progs (fun _ g =>
    if g.cur.blocked && g.cur.retry && (planFails s g.cur (fitCaseNow s) 0).isNone then { g with cur := { g.cur with passed := true } } else g) } }

/-- Those that passed are unblocked at the finish. -/
def retryFinish (s : State) : State :=
  { s with prg := { s.prg with progs := mapAll s.prg.progs (fun _ g =>
    if g.cur.passed then { g with cur := { g.cur with blocked := false, retry := false, passed := false } } else g) } }

/-! ### Service levels (22 R473, R476) -/

/-- The level rises, and every domain is told. -/
def setLevel (s : State) (n : Nat) : State :=
  let s := stampTime (wrF s R.SVC_LEVEL_LEVEL n) n
  raiseBit s .boot 0 2 (.named EV_SVC_LEVEL [rdWord s .dev 0 0 0x120 ||| (b2n (geoReduced s) * 2 ^ 8)] allDoms)

/-- The first lane from k on that is trained and not fenced; 15 where there is none. -/
def nextCover (s : State) (k : Nat) : Nat := ((List.range 10).find? (fun j => decide (k ≤ j) && !laneFenced s j)).getD 15

/-- The result of a Hold-water sequence is shown and sent at SL1 (18 R400). -/
def hwReport (s : State) : State :=
  match s.boot.hw with
  | none => s
  | some x =>
    let s := wrF (wrF (wrF s R.HW_LAST0_CAUSE x.cause) R.HW_LAST0_COMPLETE (b2n x.complete)) R.HW_LAST_STROKE x.stroke
    let s := wrF (wrF s R.HW_LAST_PAGES_FLUSHED x.flushed) R.HW_LAST_PAGES_LOST x.lost
    let s := wrF (wrF s R.HW_LAST1_FLUSH_US (min x.us (2 ^ 32 - 1))) R.HW_LAST1_BANK_END_MV (min x.mv 65535)
    let s := { s with boot := { s.boot with hw := none } }
    raiseBit s .pwr 0 5 (.named EV_HOLD_WATER_RESULT [rdWord s .pwr 0 0 0x138, rdWord s .pwr 0 0 0x140, rdWord s .pwr 0 0 0x148] allDoms)

/-- SL1_REACHED: images reinstalled and the hold-up test complete; strokes begin with stroke 0, and coverage with the first lane. -/
def sl1Reached (s : State) : State :=
  if !s.boot.sl0 || s.boot.fail != 0 || !s.boot.installed || s.pwr.hold = 0 || s.pwr.testing || s.pwr.water.isSome || s.stk.phase != .idle then s
  else
    let s := hwReport (setLevel s 1)
    let s := { s with stk := { s.stk with phase := .boundary, number := 0, begun := false, sl1At := 0 } }
    wrF s R.BOOT_LANES_COVERING (nextCover s 0)

def execSl1Reached (s : State) : Host.Outcome State Fault Refusal := .next (sl1Reached s)

/-- LANE_ONLINE: the coverage of the lane under test is over, or with `QUICK` its lane and PC tests are. It comes online at the finish. -/
def laneOver (s : State) (k : Nat) : State :=
  if s.stk.phase = .idle ∨ rdF s R.BOOT_LANES_COVERING ≠ k ∨ s.boot.ready.contains k ∨ laneFenced s k then s
  else { s with boot := { s.boot with
    ready := s.boot.ready ++ [k]
    covered := if rdF s R.BOOT_CFG_QUICK = 0 then setAdd s.boot.covered k else s.boot.covered } }

def execLaneOnline (lane : Nat) (s : State) : Host.Outcome State Fault Refusal :=
  if 10 ≤ lane then .fault .noSuchUnit else .next (laneOver s lane)

/-- A lane comes online: its cold start begins, `EV_LANE_ONLINE` is sent, and the next lane is covered. -/
def bringOnline (s : State) (k : Nat) : State :=
  if laneFenced s k then s
  else
    let s := coldStart (wrF s R.BOOT_LANES_ONLINE (rdF s R.BOOT_LANES_ONLINE ||| 2 ^ k)) k
    let s := wrF (wrF s R.BOOT_LANES_COVERING (nextCover s (k + 1))) R.BOOT_LANES_HB_DONE 0
    raiseBit s .boot 0 3 (.named EV_LANE_ONLINE [k] allDoms)

/-- Coverage and service levels at a finish: a lane fenced under coverage is skipped; the level rises with the first lane online, and when
every lane that is not fenced is. -/
def coverFinish (s : State) : State :=
  let s := s.boot.ready.foldl bringOnline { s with boot := { s.boot with ready := [] } }
  let c := rdF s R.BOOT_LANES_COVERING
  let s := if c < 10 && laneFenced s c then wrF (wrF s R.BOOT_LANES_COVERING (nextCover s (c + 1))) R.BOOT_LANES_HB_DONE 0 else s
  let on := (List.range 10).any (fun k => laneOnline s k)
  let all := (List.range 10).all (fun k => laneOnline s k || laneFenced s k)
  let s := if rdF s R.SVC_LEVEL_LEVEL = 1 && on then setLevel s 2 else s
  if rdF s R.SVC_LEVEL_LEVEL = 2 && all then setLevel s 3 else s

/-- ADVICE_COLD_END: the first 1,024 strokes are over. Advice is held back by their number itself (`advise`), so nothing else changes. -/
def execAdviceColdEnd (s : State) : Host.Outcome State Fault Refusal := .next s

/-! ### Placement advice at a finish (05 R113, Table 05-6) -/

/-- The PCs that hold Tier H copies of a crew's pages. -/
def crewPcs (s : State) (crew : Nat) : List Nat :=
  ((crewSes s crew).map (fun e => e.2.privPages.filterMap (fun p => (pteOf s p).bind (fun e => if e.h then some (frameHb e.hFrame / 128) else none)))).flatten.foldl setAdd []

/-- Reason 3: a crew's pages lie on fewer than half the PCs that its leg plan uses. -/
def adviseCrew (s : State) (k : Nat) (c : Crew) : State :=
  match planOf s c.model with
  | none => s
  | some p =>
    let has := crewPcs s k
    if has.isEmpty || decide ((planPcs p).length ≤ 2 * has.length) then s
    else
      (crewSes s k).foldl (fun s (e : Nat × Ses) =>
        advise s 3 0 (lanesOf s e.2.privPages) (maskOf ((planPcs p).map (· / 64))) e.2.privPages.length (sesObject e.1 e.2.d.gen) e.2.d.tenant) s

/-- Reasons 1 to 4. A lane is held at its power cap in a stroke in which its credit was too small for a leg; its capacity is lost to a fence
that is active now and was not `before` the finish. -/
def adviseFinish (before s : State) : State :=
  let capped := (List.range 10).map (fun k => if s.gov.short.contains k then s.gov.capped.getD k 0 + 1 else 0)
  let s := { s with gov := { s.gov with short := [], capped := capped } }
  let fences := (s.flt.fences.filter (fun e => e.active && !fencedSelf before (unitTy e.unit) (unitIdx e.unit))).map (·.unit)
  let lostOn := fun k => fences.any (fun u => match unitTy u with
    | 1 => frameLane (unitIdx u) == k | 3 => unitIdx u / 8192 == k | 4 => unitIdx u / 64 == k | 5 => unitIdx u / 64 == k | 6 => unitIdx u == k
    | _ => false)
  let s := (List.range 10).foldl (fun s k =>
    let s := if 64 ≤ capped.getD k 0 then adviseLane s 1 k else s
    let s := if laneHot s k then adviseLane s 2 k else s
    if lostOn k then adviseLane s 4 k else s) s
  s.crw.crews.foldl (fun s (e : Nat × Crew) => adviseCrew s e.1 e.2) s

end Sys2Proof.Machine
end

