-- ==== Sys2Proof/Machine/Module.lean ====
section
/-! DEFINITION. The module's pins, sideband and indicators (23_module_physical.md R482 to R493). -/

namespace Sys2Proof.Machine

/-! ### Power and its pins (23 R482, R485, R493) -/

/-- HOUSEKEEPING_POWER_ON: the input rises above 40 V; the sideband, the indicators and the Umpire have power. -/
def execHousekeepingPowerOn (s : State) : Host.Outcome State Fault Refusal :=
  .next (if s.mod.hk then s else umpPowerOn { s with mod := { s.mod with hk := true } })

/-- HOUSEKEEPING_POWER_OFF: the input falls below 40 V. While the bank feeds the module it feeds the Umpire too (18 R397). -/
def execHousekeepingPowerOff (s : State) : Host.Outcome State Fault Refusal :=
  .next (
    let s := { s with mod := { s.mod with hk := false, sbOff := 0, sbOut := [] } }
    if s.mod.pwrGood then s else umpOff s)

/-- PWR_EN_ASSERT. -/
def execPwrEnAssert (s : State) : Host.Outcome State Fault Refusal := .next { s with mod := { s.mod with pwrEn := true } }

/-! ### Coolant (23 R491) -/

/-- COOLANT_OUTLET_HIGH: above 65 °C for 1 s. -/
def coolantHigh (s : State) (temp : Nat) : State :=
  if temp ≤ 65 then s else { s with mod := { s.mod with outletC := temp, coolantHigh := true } }

/-- COOLANT_OUTLET_NORMAL: at 65 °C or below. -/
def coolantNormal (s : State) (temp : Nat) : State :=
  if 65 < temp then s else { s with mod := { s.mod with outletC := temp, coolantHigh := false } }

def execCoolantOutletHigh (temp : Nat) (s : State) : Host.Outcome State Fault Refusal := .next (coolantHigh s temp)
def execCoolantOutletNormal (temp : Nat) (s : State) : Host.Outcome State Fault Refusal := .next (coolantNormal s temp)

/-- Whether `THERM_ALERT_N` is low. -/
def thermAlert (s : State) : Bool := s.gov.alarm || s.mod.coolantHigh

/-! ### The sideband (23 R488, R489, Table 23-3) -/

/-- The mean input power of the last 100 ms in W, over the strokes in it. -/
def meanPower (s : State) : Nat :=
  let xs := (s.pwr.means.filter (fun (e : Nat × Nat) => decide (s.time.now ≤ e.2 + 100000000))).map (fun (e : Nat × Nat) => e.1)
  if xs.isEmpty then 0 else sumOf xs / xs.length

/-- A sideband register. Fields that the firmware supplies are 0 until SL0. `free` stands for what no row of the model measures: input
current, bank voltage, the temperatures of Table 23-3 and the uptime. -/
def sbReg (s : State) (off free : Nat) : Nat :=
  let on := b2n s.boot.sl0
  match off with
  | 0x00 => 0x4D54 + 0xC64A * 2 ^ 16
  | 0x04 => 0xB0 + s.boot.fail % 16 * 2 ^ 8 + rdF s R.SVC_LEVEL_LEVEL % 4 * 2 ^ 12 + rdF s R.HOLDUP_STATUS_STATE % 8 * 2 ^ 16 +
      on * 2 ^ 20 + b2n s.mod.pwrGood * 2 ^ 21 + b2n (thermAlert s) * 2 ^ 22 + b2n s.mod.coolantHigh * 2 ^ 23 +
      b2n s.ump.tamper * 2 ^ 24 + b2n (sealPin s) * 2 ^ 25
  | 0x08 => bitsOf (rdF s R.DEV_SERIAL) 0 32
  | 0x0C => bitsOf (rdF s R.DEV_SERIAL) 32 32
  | 0x10 => min s.mod.inputMv 65535 + min (meanPower s) 65535 * 2 ^ 16
  | 0x14 => bitsOf free 0 32
  | 0x18 => maxOf ((List.range 10).map (rdI s R.LANE_TEMP_CORE_MAX)) % 256 * on + bitsOf free 8 16 * 2 ^ 8 + s.mod.outletC % 256 * 2 ^ 24
  | 0x1C => bitsOf free 0 32
  | _ => 0

/-- The bytes of a read: offsets rise and wrap from 0x1F to 0x00; each register is captured when its first byte is read, or when the read
begins within it. Offsets that the table does not list read as 0. -/
def sbBytes (s : State) (off n : Nat) : List Byte :=
  (List.range n).map (fun i =>
    let a := if 0x20 ≤ off then off + i else (off + i) % 0x20
    let turn := if 0x20 ≤ off then 0 else (off + i) / 0x20
    BitVec.ofNat 8 (sbReg s (a / 4 * 4) (Config.freeWord (s.freeCtr + 8 * turn + a / 4)).toNat >>> (a % 4 * 8)))

/-- I2C_TRANSACTION: an offset byte is written and bytes are read; it is answered while the input is above 40 V. -/
def i2c (s : State) (off n : Nat) : State :=
  if !s.mod.hk then s
  else
    let off := off % 256
    { s with
      freeCtr := s.freeCtr + 8 * (n / 32 + 2)
      mod := { s.mod with sbOff := if 0x20 ≤ off then (off + n) % 256 else (off + n) % 0x20, sbOut := sbBytes s off n } }

def execI2cTransaction (off n : Nat) (s : State) : Host.Outcome State Fault Refusal := .next (i2c s off n)

/-! ### Outputs and indicators (23 R483, R486, R487, R491, R492) -/

/-- What the module shows to the sled: low is `false` for `THERM_ALERT_N`. -/
structure Pins where
  pwrGood : Bool
  thermAlertN : Bool
  sealOk : Bool
deriving DecidableEq, Repr

def pins (s : State) : Pins := { pwrGood := s.mod.pwrGood, thermAlertN := !thermAlert s, sealOk := sealPin s }

/-- Colours of the indicators (23 Table 23-5). -/
inductive Light where
  | off | green | amber | red | greenFlash
deriving DecidableEq, Repr

/-- The indicator of a port. -/
def portLight (s : State) (p : Nat) : Light :=
  if !s.mod.hk || !(linkUp s (2 * p) || linkUp s (2 * p + 1)) then .off
  else if s.lnk.feather == .feather then .amber else .green

/-- The indicator of the module; red before the others, since a failure or a trip is shown whatever the level. -/
def moduleLight (s : State) : Light :=
  if !s.mod.hk then .off
  else if s.boot.fail != 0 || !s.gov.trips.isEmpty then .red
  else if rdF s R.SVC_LEVEL_LEVEL < 3 then .amber
  else if geoReduced s then .greenFlash else .green

/-- The indicator of the hold-up bank, which the bank itself powers, at a voltage of the bank in mV. -/
def bankLight (mv : Nat) : Light := if 20000 < mv then .amber else .off

end Sys2Proof.Machine
end

