-- ==== Sys2Proof/Machine/CmbStep.lean ====
section
/-! DEFINITION. The end of a Combine step (22_bring_up.md R475): what a step's legs would have left, with its new rows, queries and logits as
free values. -/

namespace Sys2Proof.Machine

/-- The rows of the new positions in every layer. -/
def cmbRows (s : State) (p : Pass) (q : Plan) : State :=
  (passLegs q p.isAppend).foldl (fun s l => writeRows s [] p q l) s

/-- The new selections of every layer scored (10 R223), from query vectors that are free. -/
def cmbSelect (s : State) (p : Pass) (q : Plan) : State :=
  (passHeads s p).foldl (fun s (_, x, _, _, n) =>
    if x.d.attPolicy = 0 then s
    else
      (List.range x.layers).foldl (fun s layer =>
        let (k, s) := nextFree s
        updSes s x.d.session (fun y => { y with
          sel := mapSet y.sel layer (newSelection s y q.hdr layer (List.range n) (fun t i => f32Val (Config.logit k (t * 65536 + i)).toNat)) })) s) s

/-- The logits of every rated position become records (09 R208). -/
def cmbLogits (s : State) (p : Pass) (q : Plan) : State :=
  let pm := max 1 q.hdr.posMax
  (passHeads s p).foldl (fun s (j, _, _, _, n) =>
    (List.range n).foldl (fun s i =>
      let (k, s) := nextFree s
      putLogits s p (if p.isAppend then i else j * pm + i) ((List.range q.hdr.vocab).map (fun t => (Config.logit k t).toNat))) s) s

/-- The step commits at the finish of its last stroke. -/
def cmbDone (s : State) (i : Nat) (p : Pass) : State :=
  match planVer s p.model p.version with
  | none => restartPass s i
  | some q =>
    let s := cmbLogits (cmbSelect (cmbRows s p q) p q) p q
    passDone s i { p with cmbLeft := none, lastFinish := s.stk.number } q

/-- Combine steps at a finish: a stroke in which no PLL lost its lock counts. -/
def cmbFinish (s : State) : State :=
  s.stk.passes.foldl (fun s (i, p) =>
    match p.cmbLeft with
    | none => s
    | some n =>
      if p.sessions.isEmpty then setPass s i { p with cmbLeft := none }
      else if !s.gov.pllOk then s
      else if n ≤ 1 then cmbDone s i p
      else setPass s i { p with cmbLeft := some (n - 1) }) s

end Sys2Proof.Machine
end

