-- ==== Sys2Proof/Machine/Stroke.lean ====
section
/-! DEFINITION. The stroke (06_the_stroke.md R123 to R128): its catch and its finish, with what every chapter makes happen there. -/

namespace Sys2Proof.Machine

/-! ### Registers that take effect at a boundary (06 R124, R126; 08 R187) -/

/-- A waiting word reaches its register. -/
def applyDelayed (s : State) (d : Delayed) : State :=
  match blkOfPage (d.key / 4096 % 4096) with
  | some (.lane, k) => applyGov s k d.word.toNat
  | some (.stk, _) =>
    let s := wrWord s .stk 0 0 0x100 d.word.toNat
    let period := rdF s R.STK_CFG_PERIOD_US
    { s with stk := { s.stk with realign := s.stk.realign || period != s.stk.period, period := period, catchUs := rdF s R.STK_CFG_CATCH_US } }
  | _ => s

/-- The waiting words whose second boundary this is; plans that bring-up blocked are then checked again (22 R471). -/
def delayedCatch (s : State) : State :=
  let ds := s.stk.delayed.map (fun (d : Delayed) => { d with left := d.left - 1 })
  let due := ds.filter (fun d => d.left = 0)
  let s := due.foldl applyDelayed { s with stk := { s.stk with delayed := ds.filter (fun d => d.left != 0) } }
  if due.isEmpty then s else retryCheck s

/-! ### The boundary (06 R123, R125) -/

/-- Boundary n: the stroke number rises by one, from 0 for the first stroke after a reset; device time stands at the boundary, with a step
that waited for it. The first boundary is the first of the alignment. -/
def boundary (s : State) : State :=
  let t := 1000 * s.stk.period
  let origin := rdF s R.STK_ORIGIN
  let start := if s.stk.begun then (((s.stk.start + s.stk.length : Nat) : Int) + s.time.stepBy.getD 0).toNat
    else s.time.now + (((origin : Int) - (s.time.now : Int)) % (t : Int)).toNat
  { s with
    stk := { s.stk with
      phase := .drive, number := if s.stk.begun then s.stk.number + 1 else 0, begun := true, start := start
      origin := if s.stk.begun then s.stk.origin else origin }
    time := { s.time with now := start, stepBy := none } }

/-- The length of the stroke that begins: the period, or longer where a new period realigns it. -/
def setLength (s : State) : State :=
  let t := 1000 * s.stk.period
  { s with stk := { s.stk with
    realign := false
    origin := if s.stk.realign then rdF s R.STK_ORIGIN else s.stk.origin
    length := if s.stk.realign then alignedLength s.stk.start t t (rdF s R.STK_ORIGIN) 0 else t } }

/-! ### The catch (06 R126) -/

/-- What the chapters do at a catch before commands bind: power, governors, gates, tests, attestations. -/
def catchUnits (s : State) (inputW : Nat) : State :=
  let s := if s.pwr.retestDue then startTest s else s
  let s := secCatch (gatesCatch (governCatch (powerCatch s inputW)))
  { s with
    eg := { s.eg with dropBefore := s.eg.dropNow, dropNow := false } }

/-- Commands bind and work is granted: sessions, checkpoints, the Mover's slices, gather and scatter, Erg minimums, course legs, legs. -/
def catchWork (s : State) : State :=
  let s := linkBind (serveFenced (catchFinals s))
  let s := lazyReads (catchMover (courseFills (pinHolds (ckpCatch (catchSessions s)))))
  let s := ergCatch (grantPrep (gsxCatch (burstsCatch s)))
  grantLegs (courseCatch s)

/-- STROKE_CATCH. It comes between a finish and the next drive; a running Hold-water sequence grants nothing (18 R397). -/
def strokeCatch (s : State) (inputW : Nat) : State :=
  if s.pwr.water.isSome || s.stk.phase != .boundary then s
  else catchWork (catchUnits (setLength (delayedCatch (boundary s))) inputW)

def execStrokeCatch (inputW : Nat) (s : State) : Host.Outcome State Fault Refusal := .next (strokeCatch s inputW)

/-! ### Commits (06 R127) -/

/-- A staged commit becomes true. Completions and versions of written pages are kept to the end. -/
def applyCommit (s : State) (k : Commit) : State :=
  match k with
  | .done d => stage s (.done d)
  | .openSes sid x c => commitOpen s sid x c
  | .importBegin sid ns w c => commitImportBegin s sid ns w c
  | .importCommit sid c => commitImport s sid c
  | .importAbort sid c => commitAbort s sid c
  | .compute sid b c => commitCompute s sid b c
  | .reviveMoving sid c => commitReviveMoving s sid c
  | .fork sid child root cap c => commitFork s sid child root cap c
  | .pin sid c => commitPin s sid c
  | .release sid c => commitRelease s sid c
  | .join sid crew c => commitJoin s sid crew c
  | .idle sid => commitIdle s sid
  | .parkCancelled sid c => commitParkCancelled s sid c
  | .streamSession sid c data => commitStream s sid c data
  | .crewModify crew c => commitCrewModify s crew c
  | .landed op p _ ver cells =>
    let ckp := (opOf s op).any (fun o => o.kind = 0xA || o.kind = 0xB)
    let s := applyLanded s op p ver cells
    if ckp then ckpPage s op p cells else s
  | .damaged sid gen => stage s (.damaged sid gen)
  | .touched p => stage s (.touched p)
  | .planUnload c => planUnloaded s c
  | .tableUnload c => tableUnloaded s c

/-- Every commit of the stroke, at once; metered ones wait while the Umpire cannot count them (19 R406). Idleness comes after the content
changes of its finish, so that `EV_SES_IDLE` carries the epoch there (03 R64), and so do unloads, which a session of the finish may stop. -/
def commitAll (s : State) : State :=
  let (ks, s) := deferMetered { s with stk := { s.stk with commits := [] } } s.stk.commits
  let last := fun (k : Commit) => match k with | .idle _ | .planUnload _ | .tableUnload _ => true | _ => false
  (ks.filter (fun k => !last k) ++ ks.filter last).foldl applyCommit s

/-- Sessions damaged in the stroke are reported with their epoch at the finish (03 R62, R64). -/
def damagedFinish (s : State) : State :=
  let ds := (s.stk.commits.filterMap (fun k => match k with | .damaged sid gen => some (sid, gen) | _ => none)).eraseDups
  let rest := s.stk.commits.filter (fun k => match k with | .damaged _ _ => false | _ => true)
  ds.foldl (fun s e => match liveSes s e.1 e.2 with | some x => damageEvent s x.d | none => s) { s with stk := { s.stk with commits := rest } }

/-- The pages written in the stroke so far take their version, those in `seen` excepted, which have it (05 R93). -/
def takeTouched (seen : List Nat) (s : State) : List Nat × State :=
  let ps := (s.stk.commits.filterMap (fun k => match k with | .touched p => some p | _ => none)).eraseDups.filter (fun p => !seen.contains p)
  let rest := s.stk.commits.filter (fun k => match k with | .touched _ => false | _ => true)
  (seen ++ ps, applyTouched { s with stk := { s.stk with commits := rest } } ps)

/-- The completions of the recovery (06 Table 06-2; 15 R344, R351). -/
def sendDones (s : State) : State :=
  let ds := s.stk.commits.filterMap (fun k => match k with | .done d => some d | _ => none)
  let rest := s.stk.commits.filter (fun k => match k with | .done _ => false | _ => true)
  ds.foldl (fun s d => notify (sendCpl s d) d (cplBytes (cplOf s d))) { s with stk := { s.stk with commits := rest } }

/-! ### The finish -/

/-- Errors, fences and legs at the finish (21 R448 to R456; 06 R132; 14 R318; 13 R297). -/
def finishLegs (s : State) : State :=
  let fences := s.flt.fences
  let s := fenceFigures fences (faultFinish (ergCount (overrunNotes s)))
  if s.pwr.water.isSome then s
  else idleTick (gsxFinish (switchFinish (cmbFinish (dropDamaged (legsFinish s)))))

/-- The charges that wait for room, as tenant, Tier H pages and Tier F pages (04 R79, 05 R98): of commands at the head of their session's
order, of `OPEN`, courses, restored sessions and search indexes. -/
def waitingCharges (s : State) : List (Nat × Nat × Nat) :=
  s.ses.tab.filterMap (fun e => e.2.head.bind (fun r => if r.ph == .quota then some (e.2.d.tenant, r.charge, r.aux) else none)) ++
  s.ses.opens.filterMap (fun w => (planOf s (w.cmd.f5 0 32)).map (fun p => (w.cmd.f4 0 12, listPages (capOf p.hdr) p.hdr.layers, 0))) ++
  s.courseWaits.filterMap (fun e => (crewOf s (e.1.f2 0 16)).map (fun k => (k.tenant, 20 * e.1.f3 32 9, 0))) ++
  s.mem.creates.map (fun e => (e.1.f2 0 12, tombCount (e.1.f3 0 32), 0)) ++
  s.mem.idxs.map (fun e => ((e.2.tenant, batchNeed e.1 s e.2) : Nat × Nat × Nat)) ++
  (s.ckp.restores.map (fun e => if e.2.stage == .pages then
    (e.2.sess.filter (fun x => !x.charged && x.result.isNone)).filterMap (fun x => (planOf s x.model).map (fun p =>
      (e.2.cmd.f2 0 12, listPages (capOf p.hdr) p.hdr.layers + (if e.2.cmd.f2 12 2 = 0 then x.src.length else 0),
        if e.2.cmd.f2 12 2 = 1 then x.src.length else 0))) else [])).flatten

/-- `N7.TIER` as the copies of a node's pages stand (04 Table 04-1, R80). -/
def nodeTier (s : State) (x : Node) : Nat :=
  match allInH s x.pages, x.pages.all (sealedNow s) with
  | true, true => 3
  | true, false => 1
  | false, true => 2
  | false, false => x.tier

def nodeTiers (s : State) : State :=
  { s with pfx := { s.pfx with nodes := mapAll s.pfx.nodes (fun _ x =>
    if x.tier = 0 || x.demoting then x else { x with tier := nodeTier s x }) } }

/-- Eviction at a finish (04 R79): the waiting charges of each tenant are taken together. -/
def evictFinish (s : State) : State :=
  let s := nodeTiers s
  let ws := (waitingCharges s).filter (fun w => w.2 != (0, 0))
  let ts := (ws.map (fun w => w.1)).eraseDups
  let total := fun (t : Nat) (f : Nat × Nat × Nat → Nat) => sumOf ((ws.filter (fun w => w.1 = t)).map f)
  evict s (ts.map (fun t => (t, total t (fun w => w.2.1)))) (ts.map (fun t => (t, total t (fun w => w.2.2))))

/-- What follows from the commits: copy rounds, installs, indexes, courses, revivals, epochs reached, cleaning, power, text (the chapters'
rules of their finishes). -/
def finishTables (s : State) : State :=
  let s := memFinish (tablesFinish (plansFinish (moverFinish s)))
  let s := reviveFinish (courseFinish s)
  let s := durFinish (sealedFinish (remoteFinish s))
  let s := foldLeaves (powerFinish (cleanFinish (retryFinish s)))
  evictFinish (restFinish (ckpFinish (streamFinish s)))

/-- Rights, keys, measurements and quotes (20 R425, R431, R432, R437, R441), prefix keys (04 R82), policers (16 R362). -/
def finishRights (before s : State) : State :=
  let s := closeDisabled (secFinish (measureInstalls before s))
  policersFinish (pfxKeyChanges (quotesFinish s))

/-- Service levels, the figures of every page, and the windows that show them (22 R473, 02 R495). -/
def finishFigures (before s : State) (energyFj : List Nat) : State :=
  let s := cmbFigures (governFinish (coverFinish s) energyFj)
  let s := tierFigures (adviseFinish before s)
  let s := { s with tier := { s.tier with dirtyRes := startedDirty s } }
  let s := memFigures (sesFigures (indexFigures (crewFigures (textFinish s))))
  windowsFinish (umpFigures s)

/-- The recovery: the tally frame, completions, index entries, checkpoints that REMOTE asks for, the Feather state, and what leaves for the ports. -/
def recovery (s : State) : State :=
  let s := { s with
    stk := { s.stk with phase := .boundary }
    time := { s.time with now := s.stk.start + s.stk.length }
    pwr := { s.pwr with lastFinish := s.stk.number } }
  linkPump (featherFinish (remoteStart (indexRecovery (sendDones (tallySend s)))))

/-- STROKE_FINISH, with the energy that each lane was measured to use. -/
def strokeFinish (s : State) (energyFj : List Nat) : State :=
  if s.pwr.water.isSome || s.stk.phase != .drive then s
  else
    let s1 := finishLegs (governCounts s)
    if s1.pwr.water.isSome then s1
    else
      let (seen, s1) := takeTouched [] (commitAll s1)
      let (_, s1) := takeTouched seen (damagedFinish (finishTables s1))
      recovery (finishFigures s (finishRights s s1) energyFj)

def execStrokeFinish (energyFj : List Nat) (s : State) : Host.Outcome State Fault Refusal := .next (strokeFinish s energyFj)

end Sys2Proof.Machine
end

