-- ==== Sys2Proof/Machine/Dispatch.lean ====
section
/-! DEFINITION. One arm per constructor of Instr, in the opcode table's order: each calls the meaning of its row. -/

namespace Sys2Proof.Machine

def exec (i : Instr) (s : State) : Host.Outcome State Fault Refusal :=
  match i with
  | .strokeCatch inputW => Sys2Proof.Machine.execStrokeCatch inputW s
  | .strokeFinish energyFj => Sys2Proof.Machine.execStrokeFinish energyFj s
  | .openSes c => Sys2Proof.Machine.execOpenSes c s
  | .importBegin c data => Sys2Proof.Machine.execImportBegin c data s
  | .importCommit c => Sys2Proof.Machine.execImportCommit c s
  | .importAbort c => Sys2Proof.Machine.execImportAbort c s
  | .append c data => Sys2Proof.Machine.execAppend c data s
  | .step c => Sys2Proof.Machine.execStep c s
  | .park c => Sys2Proof.Machine.execPark c s
  | .revive c => Sys2Proof.Machine.execRevive c s
  | .fork c => Sys2Proof.Machine.execFork c s
  | .exportSes c => Sys2Proof.Machine.execExportSes c s
  | .pin c => Sys2Proof.Machine.execPin c s
  | .release c => Sys2Proof.Machine.execRelease c s
  | .join c => Sys2Proof.Machine.execJoin c s
  | .move c => Sys2Proof.Machine.execMove c s
  | .sessionIdle sid => Sys2Proof.Machine.execSessionIdle sid s
  | .importWindowTimeout sid => Sys2Proof.Machine.execImportWindowTimeout sid s
  | .quotaWaitExpiry who => Sys2Proof.Machine.execQuotaWaitExpiry who s
  | .umpDownWaitExpiry sid => Sys2Proof.Machine.execUmpDownWaitExpiry sid s
  | .planLoad c data => Sys2Proof.Machine.execPlanLoad c data s
  | .planUnload c => Sys2Proof.Machine.execPlanUnload c s
  | .importRdmaWrite qp rkey addr data => Sys2Proof.Machine.execImportRdmaWrite qp rkey addr data s
  | .courseOpen c => Sys2Proof.Machine.execCourseOpen c s
  | .courseClose c => Sys2Proof.Machine.execCourseClose c s
  | .courseStepStart crew => Sys2Proof.Machine.execCourseStepStart crew s
  | .fetchWaitExpiry sid => Sys2Proof.Machine.execFetchWaitExpiry sid s
  | .indexBuild sid span layer => Sys2Proof.Machine.execIndexBuild sid span layer s
  | .bladePull blade flips parity => Sys2Proof.Machine.execBladePull blade flips parity s
  | .legEnd blade => Sys2Proof.Machine.execLegEnd blade s
  | .laneBusTransfer pc parity => Sys2Proof.Machine.execLaneBusTransfer pc parity s
  | .combineInstruction leg group fault => Sys2Proof.Machine.execCombineInstruction leg group fault s
  | .refreshDue lane bank => Sys2Proof.Machine.execRefreshDue lane bank s
  | .controlDieSlot blade row wr flips => Sys2Proof.Machine.execControlDieSlot blade row wr flips s
  | .moverPageCopied op page res => Sys2Proof.Machine.execMoverPageCopied op page res s
  | .leafUnfold leaf => Sys2Proof.Machine.execLeafUnfold leaf s
  | .slowThermalLoop lane predict => Sys2Proof.Machine.execSlowThermalLoop lane predict s
  | .laneHotSet lane die temp => Sys2Proof.Machine.execLaneHotSet lane die temp s
  | .laneHotClear lane temp => Sys2Proof.Machine.execLaneHotClear lane temp s
  | .laneTempTrip lane die temp => Sys2Proof.Machine.execLaneTempTrip lane die temp s
  | .sprintHoldEnd lane => Sys2Proof.Machine.execSprintHoldEnd lane s
  | .coldStartEnd lane => Sys2Proof.Machine.execColdStartEnd lane s
  | .vocabLoad c data => Sys2Proof.Machine.execVocabLoad c data s
  | .grmLoad c data => Sys2Proof.Machine.execGrmLoad c data s
  | .tableUnload c => Sys2Proof.Machine.execTableUnload c s
  | .streamSession c data => Sys2Proof.Machine.execStreamSession c data s
  | .streamAllocate c => Sys2Proof.Machine.execStreamAllocate c s
  | .streamFree c => Sys2Proof.Machine.execStreamFree c s
  | .streamConfigure c data => Sys2Proof.Machine.execStreamConfigure c data s
  | .tokenize c data => Sys2Proof.Machine.execTokenize c data s
  | .detokenize c data => Sys2Proof.Machine.execDetokenize c data s
  | .streamEngineTake engine => Sys2Proof.Machine.execStreamEngineTake engine s
  | .maskBuild sid idx => Sys2Proof.Machine.execMaskBuild sid idx s
  | .memCreate c => Sys2Proof.Machine.execMemCreate c s
  | .memDrop c => Sys2Proof.Machine.execMemDrop c s
  | .memQuery c data => Sys2Proof.Machine.execMemQuery c data s
  | .memInsert c data => Sys2Proof.Machine.execMemInsert c data s
  | .memDelete c data => Sys2Proof.Machine.execMemDelete c data s
  | .memRepair c => Sys2Proof.Machine.execMemRepair c s
  | .walkAdmit walk => Sys2Proof.Machine.execWalkAdmit walk s
  | .nodeReadDone walk slot ok => Sys2Proof.Machine.execNodeReadDone walk slot ok s
  | .gsxLoad c data => Sys2Proof.Machine.execGsxLoad c data s
  | .gather c data => Sys2Proof.Machine.execGather c data s
  | .scatter c data => Sys2Proof.Machine.execScatter c data s
  | .gsxSeal c => Sys2Proof.Machine.execGsxSeal c s
  | .crewCreate c => Sys2Proof.Machine.execCrewCreate c s
  | .crewModify c => Sys2Proof.Machine.execCrewModify c s
  | .crewDelete c => Sys2Proof.Machine.execCrewDelete c s
  | .crewSeated crew => Sys2Proof.Machine.execCrewSeated crew s
  | .switchDone lane => Sys2Proof.Machine.execSwitchDone lane s
  | .preempt pass => Sys2Proof.Machine.execPreempt pass s
  | .splitWindowEnd crew => Sys2Proof.Machine.execSplitWindowEnd crew s
  | .qpCreate c => Sys2Proof.Machine.execQpCreate c s
  | .qpDestroy c => Sys2Proof.Machine.execQpDestroy c s
  | .feather c => Sys2Proof.Machine.execFeather c s
  | .wake c => Sys2Proof.Machine.execWake c s
  | .nop c => Sys2Proof.Machine.execNop c s
  | .checkpoint c data => Sys2Proof.Machine.execCheckpoint c data s
  | .restore c data => Sys2Proof.Machine.execRestore c data s
  | .ckpWaitExpiry tenant => Sys2Proof.Machine.execCkpWaitExpiry tenant s
  | .receiptNow c => Sys2Proof.Machine.execReceiptNow c s
  | .logRead c => Sys2Proof.Machine.execLogRead c s
  | .umpAck c => Sys2Proof.Machine.execUmpAck c s
  | .eventRead c => Sys2Proof.Machine.execEventRead c s
  | .setPeriod c => Sys2Proof.Machine.execSetPeriod c s
  | .fwUpdate c data => Sys2Proof.Machine.execFwUpdate c data s
  | .certRead c => Sys2Proof.Machine.execCertRead c s
  | .attest c => Sys2Proof.Machine.execAttest c s
  | .rigUpdateRigging c data => Sys2Proof.Machine.execRigUpdateRigging c data s
  | .rigUpdateFirmware c data => Sys2Proof.Machine.execRigUpdateFirmware c data s
  | .erg c => Sys2Proof.Machine.execErg c s
  | .ergTestEnd unit pass row => Sys2Proof.Machine.execErgTestEnd unit pass row s
  | .patrolScrub flips => Sys2Proof.Machine.execPatrolScrub flips s
  | .flashReadFail frame retryOk parityOk => Sys2Proof.Machine.execFlashReadFail frame retryOk parityOk s
  | .bwpFrameRx iface f => Sys2Proof.Machine.execBwpFrameRx iface f s
  | .hello iface f => Sys2Proof.Machine.execHello iface f s
  | .close iface f => Sys2Proof.Machine.execClose iface f s
  | .bwpAckFrame iface f => Sys2Proof.Machine.execBwpAckFrame iface f s
  | .bwpRetransmitTimer assoc seq => Sys2Proof.Machine.execBwpRetransmitTimer assoc seq s
  | .bwpAckDelay assoc => Sys2Proof.Machine.execBwpAckDelay assoc s
  | .bwpIdleTimeout assoc => Sys2Proof.Machine.execBwpIdleTimeout assoc s
  | .bwpLingerExpiry assoc => Sys2Proof.Machine.execBwpLingerExpiry assoc s
  | .ethFrameRx iface f => Sys2Proof.Machine.execEthFrameRx iface f s
  | .mkaFrame iface m => Sys2Proof.Machine.execMkaFrame iface m s
  | .ptpMessage iface m => Sys2Proof.Machine.execPtpMessage iface m s
  | .ppsInEdge offset => Sys2Proof.Machine.execPpsInEdge offset s
  | .timeHoldover => Sys2Proof.Machine.execTimeHoldover s
  | .ppsOutPulse => Sys2Proof.Machine.execPpsOutPulse s
  | .portLinkChange iface up => Sys2Proof.Machine.execPortLinkChange iface up s
  | .rdmaReadResponse id data => Sys2Proof.Machine.execRdmaReadResponse id data s
  | .rdmaWriteAck id => Sys2Proof.Machine.execRdmaWriteAck id s
  | .roceInvalidRequest qp => Sys2Proof.Machine.execRoceInvalidRequest qp s
  | .qpError qp syn => Sys2Proof.Machine.execQpError qp syn s
  | .cnpRx qp => Sys2Proof.Machine.execCnpRx qp s
  | .ecnMarkedRx qp time => Sys2Proof.Machine.execEcnMarkedRx qp time s
  | .roceRateRaise qp => Sys2Proof.Machine.execRoceRateRaise qp s
  | .egressSelect iface time => Sys2Proof.Machine.execEgressSelect iface time s
  | .gclEntryAdvance iface => Sys2Proof.Machine.execGclEntryAdvance iface s
  | .inputRangeLow mv => Sys2Proof.Machine.execInputRangeLow mv s
  | .inputRangeHigh mv => Sys2Proof.Machine.execInputRangeHigh mv s
  | .powerLoss mv => Sys2Proof.Machine.execPowerLoss mv s
  | .overVoltage mv => Sys2Proof.Machine.execOverVoltage mv s
  | .pwrEnDeassert => Sys2Proof.Machine.execPwrEnDeassert s
  | .holdWaterEnd flushUs bankMv sealedPages => Sys2Proof.Machine.execHoldWaterEnd flushUs bankMv sealedPages s
  | .holdupTest => Sys2Proof.Machine.execHoldupTest s
  | .holdupTestResult capUf esrUohm => Sys2Proof.Machine.execHoldupTestResult capUf esrUohm s
  | .holdupRetestTimer => Sys2Proof.Machine.execHoldupRetestTimer s
  | .tallyFrame f crcOk => Sys2Proof.Machine.execTallyFrame f crcOk s
  | .receiptPeriodEnd umpNs => Sys2Proof.Machine.execReceiptPeriodEnd umpNs s
  | .receiptSigned tenant => Sys2Proof.Machine.execReceiptSigned tenant s
  | .tamperOpen => Sys2Proof.Machine.execTamperOpen s
  | .sealRecord number authorised => Sys2Proof.Machine.execSealRecord number authorised s
  | .powerOnReset => Sys2Proof.Machine.execPowerOnReset s
  | .rstNReset => Sys2Proof.Machine.execRstNReset s
  | .watchdogExpiry => Sys2Proof.Machine.execWatchdogExpiry s
  | .pllLockLoss pll => Sys2Proof.Machine.execPllLockLoss pll s
  | .pllRelock pll => Sys2Proof.Machine.execPllRelock pll s
  | .clockFaultReset pll => Sys2Proof.Machine.execClockFaultReset pll s
  | .sl0Reached => Sys2Proof.Machine.execSl0Reached s
  | .laneTrainingDone lane ok => Sys2Proof.Machine.execLaneTrainingDone lane ok s
  | .imageReinstall => Sys2Proof.Machine.execImageReinstall s
  | .sl1Reached => Sys2Proof.Machine.execSl1Reached s
  | .laneOnline lane => Sys2Proof.Machine.execLaneOnline lane s
  | .adviceColdEnd => Sys2Proof.Machine.execAdviceColdEnd s
  | .coolantOutletHigh temp => Sys2Proof.Machine.execCoolantOutletHigh temp s
  | .i2cTransaction off n => Sys2Proof.Machine.execI2cTransaction off n s
  | .inputInRange mv => Sys2Proof.Machine.execInputInRange mv s
  | .pwrEnAssert => Sys2Proof.Machine.execPwrEnAssert s
  | .powerStageFault => Sys2Proof.Machine.execPowerStageFault s
  | .rstNRelease => Sys2Proof.Machine.execRstNRelease s
  | .housekeepingPowerOn => Sys2Proof.Machine.execHousekeepingPowerOn s
  | .housekeepingPowerOff => Sys2Proof.Machine.execHousekeepingPowerOff s
  | .umpSelfTestEnd ok => Sys2Proof.Machine.execUmpSelfTestEnd ok s
  | .tallyLinkUp => Sys2Proof.Machine.execTallyLinkUp s
  | .coolantOutletNormal temp => Sys2Proof.Machine.execCoolantOutletNormal temp s
  | .journalTailWritten bytes => Sys2Proof.Machine.execJournalTailWritten bytes s
  | .localAckTimeout qp rnr => Sys2Proof.Machine.execLocalAckTimeout qp rnr s
  | .pauseTimeExpiry iface prio => Sys2Proof.Machine.execPauseTimeExpiry iface prio s

end Sys2Proof.Machine
end

