-- ==== Sys2Proof/Safety.lean ====
section
/-! DEFINITION. The terms that claims use: which commands are taken and bound, the invariant of the machine's tables, and what the events of a
page look like from outside. -/

namespace Sys2Proof.Machine

/-- A command that hand-on accepts (15 R342, 22 R473, 15 R335) and that its fence does not hold back. -/
def Taken (s : State) (c : Cmd) : Prop := handOnCode s c = none ∧ fenceOk (joinQueue s c) c = true

/-- The place that a session command takes in its session's order when it comes. -/
def waitOf (s : State) (c : Cmd) (data : List Byte) : Wait :=
  { cmd := c, data := data, time := s.time.now, stroke := s.stk.number, ready := true
    qpErr := match sesQp c with | some q => qpCheck s c.dom q | none => none }

/-- A session command that comes while its session stands free (no head, nothing waiting), outside the drive: it is the head of its session's
order at once (03 R40, R59). -/
structure AtHead (s : State) (c : Cmd) (data : List Byte) (x : Ses) : Prop where
  taken : Taken s c
  bindable : mayBind s = true
  live : sesOf s (cmdSid c) = some x
  gen : x.d.gen = cmdGen c
  free : x.head = none
  first : x.order = []
  here : x.heldOut = false
  final : finalDue s (cmdSid c) = false
  passes : x.d.importing = false ∨ passesImport c = true

/-- The state in which a command is admitted: one that computes, revives or releases has stopped the park of a MOVING session (03 R54). -/
def bindState (s : State) (c : Cmd) (x : Ses) : State :=
  if cancelsPark x c then cancelPark (joinQueue s c) (cmdSid c) x else joinQueue s c

/-- The session as such a command finds it: no longer MOVING where the park has stopped. -/
def bindSes (c : Cmd) (x : Ses) : Ses :=
  if cancelsPark x c then { x with d := { x.d with moving := false }, parkOp := none, parkCmd := none } else x

/-- Such a command that passes the checks of 03 R496 and whose worst-case charge fits (05 R98, R100): it binds at once (03 R40). -/
structure Binds (s : State) (c : Cmd) (data : List Byte) (x : Ses) : Prop extends AtHead s c data x where
  checks : headCode (joinQueue s c) x c data (waitOf s c data).qpErr = none
  fits : chargeFits (bindState s c x) x.d.tenant (chargeOf (bindState s c x) (bindSes c x) c data) = none
  dirty : commitHeld (bindState s c x) (bindSes c x) c = false

/-- The session commands (03 Table 03-3) with the host data that comes with them. -/
def sesCmd : Instr → Option (Cmd × List Byte)
  | .importBegin c data => some (c, data)
  | .importCommit c => some (c, [])
  | .importAbort c => some (c, [])
  | .append c data => some (c, data)
  | .step c => some (c, [])
  | .park c => some (c, [])
  | .revive c => some (c, [])
  | .fork c => some (c, [])
  | .exportSes c => some (c, [])
  | .pin c => some (c, [])
  | .release c => some (c, [])
  | .join c => some (c, [])
  | .streamSession c data => some (c, data)
  | _ => none

/-- No domain has more than 4,096 event records waiting (15 R345). -/
def evqOk (m : Map (List EvRec)) : Bool := m.all (fun e => decide (e.2.length ≤ 4096))

/-- The tables that every register access, every access to Tier H and every event goes through keep their form: register words by strictly
rising key, Tier H bytes by strictly rising address with no entry equal to what an unlisted address reads as, and event queues by domain with at
most 4,096 records (15 R345). -/
def Canon (s : State) : Prop := mapWf s.reg.ctl = true ∧ cellWf s.tier.hbm = true ∧ mapWf s.out.evq = true ∧ evqOk s.out.evq = true

/-- The command descriptor that a row hands on, with the host data that comes with it; none for the rows that are no host command. -/
def hostCmd : Instr → Option (Cmd × List Byte)
  | .openSes c => some (c, [])
  | .importBegin c data => some (c, data)
  | .importCommit c => some (c, [])
  | .importAbort c => some (c, [])
  | .append c data => some (c, data)
  | .step c => some (c, [])
  | .park c => some (c, [])
  | .revive c => some (c, [])
  | .fork c => some (c, [])
  | .exportSes c => some (c, [])
  | .pin c => some (c, [])
  | .release c => some (c, [])
  | .join c => some (c, [])
  | .move c => some (c, [])
  | .planLoad c data => some (c, data)
  | .planUnload c => some (c, [])
  | .courseOpen c => some (c, [])
  | .courseClose c => some (c, [])
  | .vocabLoad c data => some (c, data)
  | .grmLoad c data => some (c, data)
  | .tableUnload c => some (c, [])
  | .streamSession c data => some (c, data)
  | .streamAllocate c => some (c, [])
  | .streamFree c => some (c, [])
  | .streamConfigure c data => some (c, data)
  | .tokenize c data => some (c, data)
  | .detokenize c data => some (c, data)
  | .memCreate c => some (c, [])
  | .memDrop c => some (c, [])
  | .memQuery c data => some (c, data)
  | .memInsert c data => some (c, data)
  | .memDelete c data => some (c, data)
  | .memRepair c => some (c, [])
  | .gsxLoad c data => some (c, data)
  | .gather c data => some (c, data)
  | .scatter c data => some (c, data)
  | .gsxSeal c => some (c, [])
  | .crewCreate c => some (c, [])
  | .crewModify c => some (c, [])
  | .crewDelete c => some (c, [])
  | .qpCreate c => some (c, [])
  | .qpDestroy c => some (c, [])
  | .feather c => some (c, [])
  | .wake c => some (c, [])
  | .nop c => some (c, [])
  | .checkpoint c data => some (c, data)
  | .restore c data => some (c, data)
  | .receiptNow c => some (c, [])
  | .logRead c => some (c, [])
  | .umpAck c => some (c, [])
  | .eventRead c => some (c, [])
  | .setPeriod c => some (c, [])
  | .fwUpdate c data => some (c, data)
  | .certRead c => some (c, [])
  | .attest c => some (c, [])
  | .rigUpdateRigging c data => some (c, data)
  | .rigUpdateFirmware c data => some (c, data)
  | .erg c => some (c, [])
  | .strokeCatch _ => none
  | .strokeFinish _ => none
  | .sessionIdle _ => none
  | .importWindowTimeout _ => none
  | .quotaWaitExpiry _ => none
  | .umpDownWaitExpiry _ => none
  | .importRdmaWrite _ _ _ _ => none
  | .courseStepStart _ => none
  | .fetchWaitExpiry _ => none
  | .indexBuild _ _ _ => none
  | .bladePull _ _ _ => none
  | .legEnd _ => none
  | .laneBusTransfer _ _ => none
  | .combineInstruction _ _ _ => none
  | .refreshDue _ _ => none
  | .controlDieSlot _ _ _ _ => none
  | .moverPageCopied _ _ _ => none
  | .leafUnfold _ => none
  | .slowThermalLoop _ _ => none
  | .laneHotSet _ _ _ => none
  | .laneHotClear _ _ => none
  | .laneTempTrip _ _ _ => none
  | .sprintHoldEnd _ => none
  | .coldStartEnd _ => none
  | .streamEngineTake _ => none
  | .maskBuild _ _ => none
  | .walkAdmit _ => none
  | .nodeReadDone _ _ _ => none
  | .crewSeated _ => none
  | .switchDone _ => none
  | .preempt _ => none
  | .splitWindowEnd _ => none
  | .ckpWaitExpiry _ => none
  | .ergTestEnd _ _ _ => none
  | .patrolScrub _ => none
  | .flashReadFail _ _ _ => none
  | .bwpFrameRx _ _ => none
  | .hello _ _ => none
  | .close _ _ => none
  | .bwpAckFrame _ _ => none
  | .bwpRetransmitTimer _ _ => none
  | .bwpAckDelay _ => none
  | .bwpIdleTimeout _ => none
  | .bwpLingerExpiry _ => none
  | .ethFrameRx _ _ => none
  | .mkaFrame _ _ => none
  | .ptpMessage _ _ => none
  | .ppsInEdge _ => none
  | .timeHoldover => none
  | .ppsOutPulse => none
  | .portLinkChange _ _ => none
  | .rdmaReadResponse _ _ => none
  | .rdmaWriteAck _ => none
  | .roceInvalidRequest _ => none
  | .qpError _ _ => none
  | .cnpRx _ => none
  | .ecnMarkedRx _ _ => none
  | .roceRateRaise _ => none
  | .egressSelect _ _ => none
  | .gclEntryAdvance _ => none
  | .inputRangeLow _ => none
  | .inputRangeHigh _ => none
  | .powerLoss _ => none
  | .overVoltage _ => none
  | .pwrEnDeassert => none
  | .holdWaterEnd _ _ _ => none
  | .holdupTest => none
  | .holdupTestResult _ _ => none
  | .holdupRetestTimer => none
  | .tallyFrame _ _ => none
  | .receiptPeriodEnd _ => none
  | .receiptSigned _ => none
  | .tamperOpen => none
  | .sealRecord _ _ => none
  | .powerOnReset => none
  | .rstNReset => none
  | .watchdogExpiry => none
  | .pllLockLoss _ => none
  | .pllRelock _ => none
  | .clockFaultReset _ => none
  | .sl0Reached => none
  | .laneTrainingDone _ _ => none
  | .imageReinstall => none
  | .sl1Reached => none
  | .laneOnline _ => none
  | .adviceColdEnd => none
  | .coolantOutletHigh _ => none
  | .i2cTransaction _ _ => none
  | .inputInRange _ => none
  | .pwrEnAssert => none
  | .powerStageFault => none
  | .rstNRelease => none
  | .housekeepingPowerOn => none
  | .housekeepingPowerOff => none
  | .umpSelfTestEnd _ => none
  | .tallyLinkUp => none
  | .coolantOutletNormal _ => none
  | .journalTailWritten _ => none
  | .localAckTimeout _ _ => none
  | .pauseTimeExpiry _ _ => none

/-- Whether the units that a row names exist in the device (01 R15, 21 Table 21-1). -/
def unitsExist : Instr → Bool
  | .strokeCatch _ => true
  | .strokeFinish _ => true
  | .openSes _ => true
  | .importBegin _ _ => true
  | .importCommit _ => true
  | .importAbort _ => true
  | .append _ _ => true
  | .step _ => true
  | .park _ => true
  | .revive _ => true
  | .fork _ => true
  | .exportSes _ => true
  | .pin _ => true
  | .release _ => true
  | .join _ => true
  | .move _ => true
  | .sessionIdle _ => true
  | .importWindowTimeout _ => true
  | .quotaWaitExpiry _ => true
  | .umpDownWaitExpiry _ => true
  | .planLoad _ _ => true
  | .planUnload _ => true
  | .importRdmaWrite _ _ _ _ => true
  | .courseOpen _ => true
  | .courseClose _ => true
  | .courseStepStart _ => true
  | .fetchWaitExpiry _ => true
  | .indexBuild _ _ _ => true
  | .bladePull blade _ _ => decide (blade < 81920)
  | .legEnd blade => decide (blade < 81920)
  | .laneBusTransfer pc _ => decide (pc < 640)
  | .combineInstruction _ group _ => decide (group < 16)
  | .refreshDue lane bank => decide (lane < 10) && decide (bank < 4096)
  | .controlDieSlot blade row _ _ => decide (blade < 81920) && decide (row < 8192)
  | .moverPageCopied _ _ _ => true
  | .leafUnfold _ => true
  | .slowThermalLoop lane _ => decide (lane < 10)
  | .laneHotSet lane _ _ => decide (lane < 10)
  | .laneHotClear lane _ => decide (lane < 10)
  | .laneTempTrip lane _ _ => decide (lane < 10)
  | .sprintHoldEnd lane => decide (lane < 10)
  | .coldStartEnd lane => decide (lane < 10)
  | .vocabLoad _ _ => true
  | .grmLoad _ _ => true
  | .tableUnload _ => true
  | .streamSession _ _ => true
  | .streamAllocate _ => true
  | .streamFree _ => true
  | .streamConfigure _ _ => true
  | .tokenize _ _ => true
  | .detokenize _ _ => true
  | .streamEngineTake engine => decide (engine < 64)
  | .maskBuild _ _ => true
  | .memCreate _ => true
  | .memDrop _ => true
  | .memQuery _ _ => true
  | .memInsert _ _ => true
  | .memDelete _ _ => true
  | .memRepair _ => true
  | .walkAdmit _ => true
  | .nodeReadDone _ _ _ => true
  | .gsxLoad _ _ => true
  | .gather _ _ => true
  | .scatter _ _ => true
  | .gsxSeal _ => true
  | .crewCreate _ => true
  | .crewModify _ => true
  | .crewDelete _ => true
  | .crewSeated _ => true
  | .switchDone lane => decide (lane < 10)
  | .preempt _ => true
  | .splitWindowEnd _ => true
  | .qpCreate _ => true
  | .qpDestroy _ => true
  | .feather _ => true
  | .wake _ => true
  | .nop _ => true
  | .checkpoint _ _ => true
  | .restore _ _ => true
  | .ckpWaitExpiry _ => true
  | .receiptNow _ => true
  | .logRead _ => true
  | .umpAck _ => true
  | .eventRead _ => true
  | .setPeriod _ => true
  | .fwUpdate _ _ => true
  | .certRead _ => true
  | .attest _ => true
  | .rigUpdateRigging _ _ => true
  | .rigUpdateFirmware _ _ => true
  | .erg _ => true
  | .ergTestEnd unit _ _ => unitOk unit
  | .patrolScrub _ => true
  | .flashReadFail frame _ _ => decide (frame < 805306368)
  | .bwpFrameRx iface _ => decide (iface < 4)
  | .hello iface _ => decide (iface < 4)
  | .close iface _ => decide (iface < 4)
  | .bwpAckFrame iface _ => decide (iface < 4)
  | .bwpRetransmitTimer _ _ => true
  | .bwpAckDelay _ => true
  | .bwpIdleTimeout _ => true
  | .bwpLingerExpiry _ => true
  | .ethFrameRx iface _ => decide (iface < 4)
  | .mkaFrame iface _ => decide (iface < 4)
  | .ptpMessage iface _ => decide (iface < 4)
  | .ppsInEdge _ => true
  | .timeHoldover => true
  | .ppsOutPulse => true
  | .portLinkChange iface _ => decide (iface < 4)
  | .rdmaReadResponse _ _ => true
  | .rdmaWriteAck _ => true
  | .roceInvalidRequest _ => true
  | .qpError _ _ => true
  | .cnpRx _ => true
  | .ecnMarkedRx _ _ => true
  | .roceRateRaise _ => true
  | .egressSelect iface _ => decide (iface < 4)
  | .gclEntryAdvance iface => decide (iface < 4)
  | .inputRangeLow _ => true
  | .inputRangeHigh _ => true
  | .powerLoss _ => true
  | .overVoltage _ => true
  | .pwrEnDeassert => true
  | .holdWaterEnd _ _ _ => true
  | .holdupTest => true
  | .holdupTestResult _ _ => true
  | .holdupRetestTimer => true
  | .tallyFrame _ _ => true
  | .receiptPeriodEnd _ => true
  | .receiptSigned _ => true
  | .tamperOpen => true
  | .sealRecord _ _ => true
  | .powerOnReset => true
  | .rstNReset => true
  | .watchdogExpiry => true
  | .pllLockLoss pll => decide (pll < 4)
  | .pllRelock pll => decide (pll < 4)
  | .clockFaultReset pll => decide (pll < 4)
  | .sl0Reached => true
  | .laneTrainingDone lane _ => decide (lane < 10)
  | .imageReinstall => true
  | .sl1Reached => true
  | .laneOnline lane => decide (lane < 10)
  | .adviceColdEnd => true
  | .coolantOutletHigh _ => true
  | .i2cTransaction _ _ => true
  | .inputInRange _ => true
  | .pwrEnAssert => true
  | .powerStageFault => true
  | .rstNRelease => true
  | .housekeepingPowerOn => true
  | .housekeepingPowerOff => true
  | .umpSelfTestEnd _ => true
  | .tallyLinkUp => true
  | .coolantOutletNormal _ => true
  | .journalTailWritten _ => true
  | .localAckTimeout _ _ => true
  | .pauseTimeExpiry iface prio => decide (iface < 4) && decide (prio < 8)

end Sys2Proof.Machine
end

