-- ==== Sys2Proof/Certificates/Slice0/Obligations.lean ====
section
/-! DEFINITION. The statements for the provers. Each says what the machine does; the rules of spec/ they rest on stand in OBLIGATIONS.json. -/

open Sys2Proof Sys2Proof.Machine Host

/-! ### The whole machine -/

/-- Whatever a row does, the register words, the bytes of Tier H and the event queues keep their form (`Canon`): from every state that has it. -/
def Obligations.StepKeepsCanon : Prop := ∀ s t : State, Canon s → step s = .next t → Canon t

/-- The state after reset has the form. -/
def Obligations.ResetCanon : Prop := Canon State.reset

/-- A step takes exactly the command at the front of the queue, and never takes a free value a second time. -/
def Obligations.StepTakesOne : Prop :=
  ∀ (s t : State) (i : Instr) (rest : List Instr), Canon s → s.pending = i :: rest → step s = .next t →
    t.pending = rest ∧ s.freeCtr ≤ t.freeCtr

/-- No row is refused by the model, and a row faults only where it names a unit that the device does not have: every other one answers a next
state, from every state. -/
def Obligations.EveryRowRuns : Prop :=
  ∀ (i : Instr) (s : State), (unitsExist i = true → ∃ t, exec i s = .next t) ∧ (unitsExist i = false → exec i s = .fault .noSuchUnit)

/-- A command that hand-on refuses (15 R342, R335; 22 R473) completes with its code, which is recorded in the page of the code; nothing else of it
happens. A command of a session's order carries the session's words in its completion there too (03 R47). A command with `W0.FENCE` set starts only after
every earlier command of its queue has completed (15 Table 15-7): until then it waits. -/
def Obligations.HandOn : Prop :=
  (∀ (i : Instr) (c : Cmd) (data : List Byte) (s : State) (e : Nat), hostCmd i = some (c, data) → handOnCode s c = some e →
    (inOrder c = false → exec i s = .next (finishCmd (recordErr (joinQueue s c) (codeBlk e) 0 0 e) c e)) ∧
    (inOrder c = true → exec i s = .next (refuseSes (joinQueue s c) c e))) ∧
  (∀ (i : Instr) (c : Cmd) (data : List Byte) (s : State), hostCmd i = some (c, data) → handOnCode s c = none → c.fence = true →
    (∃ d ds, mapGet s.out.outst (queueKey c) = some (d :: ds) ∧ d ≠ c) →
    ∃ j, exec i s = .next { j with out := { j.out with fenced := s.out.fenced ++ [(c, some data)] } } ∧ j = joinQueue s c)

/-- What a reset leaves, where the spec gives the value: nothing is loaded and no session lives, strokes have not begun (22 R469), device time is 0
(06 R119), no node and no key stand in the prefix store (04 R83), and registers hold their reset words: period 250 µs and catch 20 µs (06), cause 1
(22), service level 0 (22), retransmission after 7 tries (15). -/
def Obligations.ResetState : Prop :=
  let s := State.reset
  s.ses.tab = [] ∧ s.prg.progs = [] ∧ s.prg.sets = [] ∧ s.crw.crews = [] ∧ s.courses = [] ∧ s.mem.idxs = [] ∧ s.gsx.tabs = [] ∧ s.txt.ctxs = [] ∧
  s.stk.phase = .idle ∧ s.time.now = 0 ∧ s.pfx.nodes = [] ∧ s.pfx.keys = [] ∧
  rdF s R.STK_CFG_PERIOD_US = 250 ∧ rdF s R.STK_CFG_CATCH_US = 20 ∧ rdF s R.BOOT_CAUSE_CAUSE = 1 ∧ rdF s R.SVC_LEVEL_LEVEL = 0 ∧
  rdF s R.BWP_CFG_UDP_PORT = 47040 ∧ s.out.cpls = [] ∧ s.out.evq = []

/-! ### Registers and events -/

/-- A register request that breaks 02 R19 is refused with the code of the rule, and changes nothing: a misaligned offset, a page that Table 02-1 does
not list, a write from a domain without the register-write right. -/
def Obligations.RegisterAccessRefused : Prop :=
  ∀ (s : State) (dom : Nat) (enc : Bool) (head : Nat) (data : List Nat),
    let r := regRequest s dom enc head data
    let code := (r.1.getD 1 0) % 2 ^ 16
    let off := bitsOf head 12 12
    let page := bitsOf head 0 12
    (off % 8 ≠ 0 → code = E_REG_ALIGN ∧ r.2 = s) ∧
    (off % 8 = 0 → blkOfPage page = none → code = E_REG_UNMAPPED ∧ r.2 = s) ∧
    (off % 8 = 0 → (blkOfPage page).isSome → off + 8 * (bitsOf head 24 5 + 1) ≤ 0x1000 → bitOf head 32 = true → data ≠ [] →
      domRegWrite s dom = false → code = E_REG_DENIED ∧ r.2 = s)

/-- A word written to a register is read back from it, and every other register word stands as before. -/
def Obligations.RegisterReadBack : Prop :=
  ∀ (s : State) (b : Blk) (inst bank off v : Nat), mapWf s.reg.ctl = true →
    rdWord (wrWord s b inst bank off v) b inst bank off = v % 2 ^ 64 ∧
    ∀ (b' : Blk) (inst' bank' off' : Nat), regKey b' inst' bank' off' ≠ regKey b inst bank off →
      rdWord (wrWord s b inst bank off v) b' inst' bank' off' = rdWord s b' inst' bank' off'

/-- An error of a block (02 R27): its `EVT_STATUS.ERR` stands, `ERR_COUNT` counts it up to its largest value, and `ERR_FIRST` is captured only where
the bit was 0. -/
def Obligations.ErrorRecorded : Prop :=
  ∀ (s : State) (b : Blk) (inst unit code : Nat), mapWf s.reg.ctl = true →
    let t := recordErr s b inst unit code
    let err := fun (s : State) => bitOf (rdI s { R.EVT_STATUS_ALL with blk := b } inst) 0
    let count := fun (s : State) => rdI s { R.ERR_COUNT_COUNT with blk := b } inst
    err t = true ∧ count t = min (2 ^ 32 - 1) (count s + 1) ∧
    (err s = true → rdWord t b inst 0 0x40 = rdWord s b inst 0 0x40) ∧
    (err s = false → rdWord t b inst 0 0x40 = code % 2 ^ 16 + (unit % 2 ^ 16) * 2 ^ 16 + (s.stk.number % 2 ^ 32) * 2 ^ 32)

/-- An event record joins its domain's queue; at 4,096 records the oldest is dropped and counted (15 R345). The other domains' queues stand. -/
def Obligations.EventQueued : Prop :=
  ∀ (s : State) (d : Nat) (r : EvRec), mapWf s.out.evq = true →
    let q := (mapGet s.out.evq d).getD []
    let t := pushEvent s d r
    (q.length < 4096 → mapGet t.out.evq d = some (q ++ [{ r with stroke := s.stk.number }]) ∧ t.out.evLost = s.out.evLost) ∧
    (4096 ≤ q.length → mapGet t.out.evq d = some (q.drop 1 ++ [{ r with stroke := s.stk.number }]) ∧
      mapGet t.out.evLost d = some ((mapGet s.out.evLost d).getD 0 + 1)) ∧
    (∀ e, e ≠ d → mapGet t.out.evq e = mapGet s.out.evq e)

/-! ### Which session a command names, and its checks (03) -/

/-- A command that names no live session, and one from a domain outside the session's `DOMAINS` mask (03 R44). -/
def Obligations.SessionNamed : Prop :=
  ∀ (i : Instr) (c : Cmd) (data : List Byte) (s : State), sesCmd i = some (c, data) → Taken s c →
    (liveSes s (cmdSid c) (cmdGen c) = none → exec i s = .next (refuseSes (joinQueue s c) c E_SES_GONE)) ∧
    (∀ x, AtHead s c data x → bitOf x.d.domains c.dom = false → c.opcode ≠ 0x58 →
      exec i s = .next (refuseSes (joinQueue s c) c E_SES_DENIED))

/-- A session command at the head of its session's order that fails a check (03 R496) is refused with the check's code, and the session stands as it
was; an epoch that is named and is not the session's is such a check (03 R41). What the queue pair of its data answered stands among the checks (15 R351). -/
def Obligations.SessionChecked : Prop :=
  ∀ (i : Instr) (c : Cmd) (data : List Byte) (s : State) (x : Ses), sesCmd i = some (c, data) → AtHead s c data x →
    (∀ e, headCode (joinQueue s c) x c data (waitOf s c data).qpErr = some e → exec i s = .next (refuseSes (joinQueue s c) c e)) ∧
    (bitOf x.d.domains c.dom = true → x.d.damaged = false → stateOk x c = true → c.opcode ≠ 0x16 → c.opcode ≠ 0x20 → c.opcode ≠ 0x58 →
      c.w3.toNat ≠ 2 ^ 64 - 1 → c.w3.toNat ≠ x.d.epoch →
      exec i s = .next (refuseSes (joinQueue s c) c (if c.w3.toNat < x.d.epoch then E_EPOCH_STALE else E_EPOCH_AHEAD)))

/-! ### The queue of commands -/

/-- A step runs the command at the front of the queue on the state with the queue's rest. -/
def Obligations.StepRunsFront : Prop :=
  ∀ (s : State) (i : Instr) (rest : List Instr), s.pending = i :: rest → step s = exec i { s with pending := rest }

/-- With nothing waiting the block idles (the model's choice, notes/assumptions/1.md). -/
def Obligations.StepIdles : Prop := ∀ s : State, s.pending = [] → step s = .next s

/-! ### Session commands (03) -/

/-- Session commands whose whole effect stands in one finish take the head at the session's epoch and stage their commit (03 R40, R42, R50, R57; 11 R258;
14 R310): IMPORT_COMMIT, which also reserves the pages it may make dirty (05 R100), IMPORT_ABORT, PIN, RELEASE, JOIN and STREAM of a session. A RELEASE of
a MOVING session first stops its park copy (`bindState`, 03 R54).
Completes: IMPORT_COMMIT, IMPORT_ABORT, PIN, RELEASE, JOIN, STREAM_SESSION. -/
def Obligations.SessionCommitsStaged : Prop :=
  ∀ (s : State) (c : Cmd) (data : List Byte) (x : Ses), Binds s c data x →
    let j := bindState s c x
    let staged := fun (s' : State) (k : Commit) => Outcome.next (φ := Fault) (ρ := Refusal) (stage (holdHead s' (cmdSid c) {
      cmd := c, data := data, ph := .commit, epoch := x.d.epoch, headStroke := catchStroke s' }) k)
    (c.opcode = 0x11 → c.f4 0 2 = 1 → data = [] →
      exec (.importCommit c) s = staged (dirtyReserve j (x.win.elim 0 (fun v => mayDirty j (commitDirty j x v)))) (.importCommit (cmdSid c) c)) ∧
    (c.opcode = 0x11 → c.f4 0 2 = 2 → data = [] → exec (.importAbort c) s = staged j (.importAbort (cmdSid c) (some c))) ∧
    (c.opcode = 0x18 → data = [] → exec (.pin c) s = staged j (.pin (cmdSid c) c)) ∧
    (c.opcode = 0x19 → data = [] → exec (.release c) s = staged j (.release (cmdSid c) c)) ∧
    (c.opcode = 0x49 → data = [] → exec (.join c) s = staged j (.join (cmdSid c) (c.f4 0 16) c)) ∧
    (c.opcode = 0x33 → c.f4 0 2 = 0 → exec (.streamSession c data) s = staged j (.streamSession (cmdSid c) c data))

/-- A STEP or APPEND that binds takes the head of its session's order with its tokens, ready for its passes, at the session's epoch, and the session
keeps its epoch and positions until a finish (03 R40, R52). One that comes to a MOVING session has stopped its park (`bindState`, 03 R54).
Completes: STEP, APPEND. -/
def Obligations.ComputeBinds : Prop :=
  ∀ (s : State) (c : Cmd) (data : List Byte) (x : Ses), Binds s c data x →
    (goCompute (bindState s c x) (cmdSid c) (bindSes c x) (waitOf s c data)).isSome →
    let bound := fun (o : Outcome State Fault Refusal) (toks : List Nat) => ∃ t y r, o = .next t ∧ sesOf t (cmdSid c) = some y ∧
      y.head = some r ∧ r.cmd = c ∧ r.ph = .ready ∧ r.epoch = x.d.epoch ∧ r.toks = toks ∧ y.order = [] ∧
      y.d.epoch = x.d.epoch ∧ y.d.positions = x.d.positions ∧ y.d.idle = 0
    (c.opcode = 0x13 → data = [] → bound (exec (.step c) s) (c.f4 0 32 :: stepDrafts c)) ∧
    (c.opcode = 0x12 → bound (exec (.append c data) s) (appendToks (bindState s c x) (bindSes c x) c data))

/-- A PARK that binds sets `MOVING` and starts the park copy of the private pages without a current sealed copy; the command waits for it without holding
the head (03 R53). A REVIVE of a PARKED session that binds sets `REVIVING` and holds the head until the required pages have come (03 R55). A REVIVE of a
MOVING session stops the park and stages its own commit (03 R54).
Completes: PARK, REVIVE. -/
def Obligations.ParkReviveBind : Prop :=
  (∀ (s : State) (c : Cmd) (x : Ses), Binds s c [] x → c.opcode = 0x14 →
    ∃ t, exec (.park c) s = .next t ∧
      sesOf t (cmdSid c) = some { x with
        d := { x.d with moving := true }, parkOp := some (opIndex s), parkCmd := some c } ∧
      ∃ o, opOf t (opIndex s) = some o ∧ o.kind = 1 ∧ o.object = sesObject (cmdSid c) x.d.gen ∧
        o.todo = x.privPages.filter (fun p => !sealedNow s p && !lazyPage s p)) ∧
  (∀ (s : State) (c : Cmd) (x : Ses), Binds s c [] x → c.opcode = 0x15 → x.d.moving = false →
    ∃ t y r, exec (.revive c) s = .next t ∧ sesOf t (cmdSid c) = some y ∧ y.d = { x.d with reviving := true } ∧
      y.required = (reviveSets (joinQueue s c) x c).1 ∧ y.trailSet = (reviveSets (joinQueue s c) x c).2 ∧
      y.head = some r ∧ r.cmd = c ∧ r.ph = .reviving ∧ r.epoch = x.d.epoch) ∧
  (∀ (s : State) (c : Cmd) (x : Ses), AtHead s c [] x → headCode (joinQueue s c) x c [] none = none → c.opcode = 0x15 → x.d.moving = true →
    let u := cancelPark (joinQueue s c) (cmdSid c) x
    exec (.revive c) s = .next (stage (holdHead u (cmdSid c) { cmd := c, data := [], ph := .commit, epoch := x.d.epoch, headStroke := catchStroke u })
      (.reviveMoving (cmdSid c) c)))

/-- A FORK that binds stages a child with a Session ID that no session holds, its parent as it stands now, and charges its pages to the parent's tenant (03
R40, R56; 04 R77). An EXPORT that binds captures its session in a job of its own, with a Mover entry, and leaves the head free (03 R57, 17 R381).
Completes: FORK, EXPORT. -/
def Obligations.ForkExportBind : Prop :=
  (∀ (s : State) (c : Cmd) (x : Ses) (child : Nat), Binds s c [] x → c.opcode = 0x16 → freeSid s = some child →
    let n := (chargeOf (joinQueue s c) x c []).1
    dirtyFits (joinQueue s c) n = true →
    sesOf s child = none ∧ ∃ t root, exec (.fork c) s = .next t ∧
      t.stk.commits = s.stk.commits ++ [.fork (cmdSid c) child root x c] ∧ t.ses = s.ses ∧
      t.tier.charges = s.tier.charges ++ (if n = 0 then [] else [{ owner := child, tenant := x.d.tenant, tier := 0, pages := n }])) ∧
  (∀ (s : State) (c : Cmd) (x : Ses), Binds s c [] x → c.opcode = 0x17 →
    ∃ t, exec (.exportSes c) s = .next t ∧ t.ses = s.ses ∧
      t.ckp.nextJob = s.ckp.nextJob + 1 ∧
      ∃ k, mapGet t.ckp.jobs s.ckp.nextJob = some k ∧ k.isExport = true ∧ k.cmd = some c ∧ k.op = some (opIndex s) ∧
        k.tenant = x.d.tenant ∧ (k.toHost = true ↔ c.f4 0 2 = 0) ∧ k.recs.length = 1)

/-- A MOVE of a session that binds takes a Mover entry for the session's pages outside the named lanes; a MOVE of an SAS range takes one for the pages of the
range that stand outside them (05 R114).
Completes: MOVE. -/
def Obligations.MoveTaken : Prop :=
  (∀ (s : State) (c : Cmd) (x : Ses), Binds s c [] x → c.opcode = 0x20 → c.f2 0 4 = 0 →
    ∃ t o, exec (.move c) s = .next t ∧ t.ses = s.ses ∧ opOf t (opIndex s) = some o ∧ o.kind = 8 ∧ o.cmd = some c ∧
      o.lanes = c.f2 16 10 ∧
      o.todo = x.pages.eraseDups.filter (fun p => (pteOf s p).any (fun e => e.h && !bitOf (c.f2 16 10) (frameLane e.hFrame)))) ∧
  (∀ (s : State) (c : Cmd), Taken s c → c.f2 0 4 ≠ 0 →
    let j := joinQueue s c
    let ps := s.tier.ptes.filter (fun e => c.w3.toNat / 65536 ≤ e.1 && decide (e.1 < c.w3.toNat / 65536 + c.f2 32 32))
    let tenant := match ps.head? with | some e => e.2.tenant | none => 0xFFF
    sasOk c.w3.toNat = true → c.f2 16 10 ≠ 0 → (∀ e ∈ ps, e.2.cls ≠ 4 ∧ e.2.cls ≠ 6 ∧ domTenant j c.dom e.2.tenant = true ∧ e.2.pinH = false) →
    opRoom j 2 tenant = true →
    ∃ t o, exec (.move c) s = .next t ∧ t.ses = s.ses ∧ opOf t (opIndex s) = some o ∧ o.kind = 8 ∧ o.cmd = some c ∧
      o.lanes = c.f2 16 10 ∧ o.range = c.f2 32 32 ∧ o.todo = (ps.filter (fun e => e.2.h && !bitOf (c.f2 16 10) (frameLane e.2.hFrame))).map (·.1))

/-- An IMPORT BEGIN that binds holds the head with its commit and opens its window at the finish (03 R49).
An OPEN that binds stages a session at epoch 0 with a Session ID that no session holds (03 R48).
Completes: IMPORT_BEGIN, OPEN. -/
def Obligations.OpenImportBind : Prop :=
  (∀ (s : State) (c : Cmd) (data : List Byte) (x : Ses), Binds s c data x → c.opcode = 0x11 → c.f4 0 2 = 0 →
    (goImportBegin (joinQueue s c) (cmdSid c) x (waitOf s c data)).isSome →
    ∃ t ns win ks, exec (.importBegin c data) s = .next t ∧ t.stk.commits = s.stk.commits ++ ks ++ [.importBegin (cmdSid c) ns win c] ∧
      (∀ k ∈ ks, ∃ p, k = .touched p) ∧
      win.dom = c.dom ∧ win.first = x.d.positions + ns.length * x.span ∧ win.last = x.d.positions + c.f4 32 32 - 1 ∧
      win.toks = fieldsAt 4 data 0 (c.f4 32 32)) ∧
  (∀ (s : State) (c : Cmd), Taken s c → mayBind s = true → c.opcode = 0x10 → openCode (joinQueue s c) c = none →
    (admitOpen (joinQueue s c) c).1 = true →
    ∃ t sid x, exec (.openSes c) s = .next t ∧ freeSid s = some sid ∧ sesOf s sid = none ∧
      t.stk.commits = s.stk.commits ++ [.openSes sid x c] ∧ x.d.epoch = 0 ∧ x.d.session = sid ∧ x.d.gen = nextGen s sid ∧
      x.d.tenant = c.f4 0 12 ∧ x.d.owner = c.dom ∧ x.d.model = c.f5 0 32 ∧ x.d.positions = 0 ∧ t.ses = s.ses)

/-- While ACTIVE, a session whose idle count reaches `SES_CFG.IDLE_STROKES` enters WAITING at the next finish, with `EV_SES_IDLE` to its domains; the
value 0 disables that (03 R37).
Completes: SESSION_IDLE. -/
def Obligations.IdleSessionWaits : Prop :=
  ∀ (s : State) (sid : Nat) (x : Ses), sesOf s sid = some x → x.d.st = .active →
    let n := rdF s R.SES_CFG_IDLE_STROKES
    (n ≠ 0 → n ≤ x.d.idle → exec (.sessionIdle sid) s = .next (stage s (.idle sid)) ∧
      applyCommit s (.idle sid) =
        sesEvent (markJournal (updSes s sid (fun x => { x with d := { x.d with st := .waiting } })) sid) EV_SES_IDLE x.d) ∧
    (n = 0 → exec (.sessionIdle sid) s = .next s)

/-- The waits of sessions that have a limit end in the effect the spec gives: an import window of 2^22 strokes stages its abort, which clears `IMPORTING` and
sends `EV_SES_IMPORT_ABORT` (03 R50); a policy 2 step that has waited `FETCH_WAIT` strokes runs with what is resident (10 R225); a head that has waited
`QUOTA_WAIT` strokes for quota is refused with the code of what does not fit, and its session's order goes on, where commands may bind; an OPEN and a course are refused
so too (05 R98); the sessions of a restore that still do not fit are reported with result 5 (17 R386). A metered commit that has waited 64 strokes for the
Umpire is given up (19 R406): no commit of the session that the Umpire would count is left staged, and it waits no longer; while the Umpire counts, nothing
happens.
Completes: IMPORT_WINDOW_TIMEOUT, FETCH_WAIT_EXPIRY, QUOTA_WAIT_EXPIRY, UMP_DOWN_WAIT_EXPIRY. -/
def Obligations.WaitsExpire : Prop :=
  (∀ (s : State) (sid : Nat) (x : Ses) (w : ImpWin), sesOf s sid = some x → x.head = none → x.win = some w → 2 ^ 22 ≤ w.strokes →
    exec (.importWindowTimeout sid) s = .next (stage s (.importAbort sid none)) ∧
    ∃ y, sesOf (applyCommit s (.importAbort sid none)) sid = some y ∧ y.win = none ∧ y.d.importing = false ∧ y.d.epoch = x.d.epoch ∧
      applyCommit s (.importAbort sid none) = sesEvent (dropWindow s sid) EV_SES_IMPORT_ABORT y.d) ∧
  (∀ (s : State) (sid : Nat) (x : Ses) (r : Run), sesOf s sid = some x → x.head = some r → x.d.attPolicy = 2 → r.ph = .ready →
    r.headStroke + lcFetchWait (lcWord s x.d.model) ≤ s.stk.number →
    exec (.fetchWaitExpiry sid) s = .next (setSes s sid { x with head := some { r with fetchWaited := 1 } })) ∧
  (∀ (s : State) (sid : Nat) (x : Ses) (r : Run) (e : Nat), sesOf s sid = some x → x.head = some r → r.ph = .quota →
    rdF s R.TIER_CFG_QUOTA_WAIT ≤ r.waited → chargeFits s x.d.tenant (r.charge, r.aux) = some e →
    let refused := refuseSes (setSes s sid { x with head := none }) r.cmd e
    exec (.quotaWaitExpiry (.session sid)) s = .next (if s.stk.phase = .drive then refused else serve refused sid)) ∧
  (∀ (s : State) (i : Nat) (w : Wait) (p : Plan) (e : Nat), s.ses.opens[i]? = some w → planOf s (w.cmd.f5 0 32) = some p →
    chargeFitsH s (w.cmd.f4 0 12) (listPages (capOf p.hdr) p.hdr.layers) = some e → rdF s R.TIER_CFG_QUOTA_WAIT ≤ w.waited →
    exec (.quotaWaitExpiry (.opening i)) s = .next (refuseSes { s with ses := { s.ses with opens := s.ses.opens.eraseIdx i } } w.cmd e)) ∧
  (∀ (s : State) (crew : Nat) (c : Cmd) (n : Nat) (k : Crew), s.courseWaits.find? (fun e => e.1.f2 0 16 = crew) = some (c, n) →
    rdF s R.TIER_CFG_QUOTA_WAIT ≤ n → crewOf s crew = some k →
    exec (.quotaWaitExpiry (.course crew)) s = .next (refuseCourse { s with courseWaits := s.courseWaits.filter (fun e => e.1 != c) } c
      ((chargeFitsH s k.tenant (20 * c.f3 32 9)).getD E_TIER_FULL) 0)) ∧
  (∀ (s : State) (id : Nat) (r : RestoreJob), restOf (restCharges s id) id = some r → r.stage = .pages →
    rdF (restCharges s id) R.TIER_CFG_QUOTA_WAIT ≤ r.waited →
    exec (.quotaWaitExpiry (.restore id)) s = .next (setRest (restCharges s id) id { r with
      sess := r.sess.map (fun x => if !x.charged && x.result.isNone then { x with result := some 5 } else x) })) ∧
  (∀ (s : State) (sid : Nat),
    (umpUp s = true → exec (.umpDownWaitExpiry sid) s = .next s) ∧
    (umpUp s = false → mapWf s.ump.waits = true → 64 ≤ (mapGet s.ump.waits sid).getD 0 →
      ∃ t, exec (.umpDownWaitExpiry sid) s = .next t ∧ mapGet t.ump.waits sid = none ∧ ∀ k ∈ t.stk.commits, meteredSid k ≠ some sid))

/-! ### Programs and tables (09, 11, 13) -/

/-- A model program whose checks pass is loaded by a Mover entry of kind 0xD, and its command waits for it (09 R195): the load in flight names the plan.
A tenant's private expert set (`KIND` 1) is loaded so too, at the lowest slot base that is free in every half-bank of the model's private pages (09 R207).
Completes: PLAN_LOAD. -/
def Obligations.PlanLoadBegins : Prop :=
  (∀ (s : State) (c : Cmd) (data : List Byte) (h : PlanHdr) (ss : List Sect) (p : Plan) (fs : List (Nat × Nat)), Taken s c →
    let j := joinQueue s c
    domPlanLoad j c.dom = true → qpCheck j c.dom (c.f3 32 16) = none → planFrame data c.w4.toNat = .ok (h, ss) → versionsOf j h < 2 → h.kind ≠ 1 →
    planBody data h ss = .ok p → weightPages data ss = some fs →
    let q := withFits j { p with owner := if isolated j then c.f5 0 12 else 0xFFF, frames := fs.map (·.1) }
    (mapGet s.prg.progs p.hdr.model).any (fun g => !compatible g.cur.hdr p.hdr) = false → framesBad j q.frames = false →
    ownerBad j (if isolated j then c.f5 0 12 else 0xFFF) q.frames (planGroups q) = false →
    planFails j q (fitCaseNow j) q.frames.length = none → opRoom j 2 0xFFF = true →
    ∃ t l o, exec (.planLoad c data) s = .next t ∧ t.prg.loads = s.prg.loads ++ [l] ∧ l.cmd = c ∧ l.plan.hdr = q.hdr ∧
      l.plan.frames = fs.map (·.1) ∧ l.offs = fs.map (·.2) ∧ opOf t l.op = some o ∧ o.kind = 0xD ∧ o.todo = l.plan.pages ∧
      t.prg.progs = s.prg.progs ∧ t.ses = s.ses) ∧
  (∀ (s : State) (c : Cmd) (data : List Byte) (h : PlanHdr) (ss : List Sect) (m : Plan) (fs : List (Nat × Nat)) (b : Nat), Taken s c →
    let j := joinQueue s c
    let frames := ((privPagesOf m).zip fs).map (fun e => frameOf e.1.1 (e.1.2 + b))
    domPlanLoad j c.dom = true → qpCheck j c.dom (c.f3 32 16) = none → planFrame data c.w4.toNat = .ok (h, ss) → versionsOf j h < 2 → h.kind = 1 →
    hdrOk data h = true → weightPages data ss = some fs → planOf j h.model = some m → (∀ x ∈ ss, x.ty = 1 ∨ x.ty = 2) →
    fs.map (fun e => frameHb e.1) = (privPagesOf m).map (·.1) → setBase j (privPagesOf m) = some b → ownerBad j h.tenant frames [] = false →
    opRoom j 2 0xFFF = true →
    ∃ t l o, exec (.planLoad c data) s = .next t ∧ t.prg.loads = s.prg.loads ++ [l] ∧ l.cmd = c ∧ l.plan.hdr = h ∧ l.plan.rowBase = 64 * b ∧
      l.plan.frames = frames ∧ l.plan.owner = h.tenant ∧ opOf t l.op = some o ∧ o.kind = 0xD ∧ o.todo = l.plan.pages ∧
      t.prg.sets = s.prg.sets ∧ t.ses = s.ses)

/-- A vocabulary or grammar table whose checks pass is loaded by a Mover entry of kind 0xD (11 R255, R256), and a gather table too (13 R294); the
tables in force stand until then, an earlier version of the same table among them.
Completes: VOCAB_LOAD, GRM_LOAD, GSX_LOAD. -/
def Obligations.TableLoadBegins : Prop :=
  ∀ (s t : State) (c : Cmd) (data : List Byte), Taken s c →
    let j := joinQueue s c
    domPlanLoad j c.dom = true → qpCheck j c.dom (c.f3 32 16) = none →
    (∀ v, parseVocab data c.w4.toNat (match planOf j (hw data 1 0 32) with | some p => p.hdr.vocab | none => 0) = .ok v →
      (planOf j (hw data 1 0 32)).isSome →
      loadsOf j 0 (hw data 1 0 32) + (match mapGet s.txt.vocabs (hw data 1 0 32) with | some p => 1 + b2n p.old.isSome | none => 0) < 2 →
      loadTable j { cmd := c, kind := 0, key := hw data 1 0 32, version := v.version, pages := [], image := data, vocab := some v, op := 0 } = .inr t →
      exec (.vocabLoad c data) s = .next t ∧ t.txt.vocabs = s.txt.vocabs ∧
        ∃ l o, t.txt.loads = s.txt.loads ++ [l] ∧ l.cmd = c ∧ l.vocab = some v ∧ opOf t l.op = some o ∧ o.kind = 0xD ∧ o.todo = l.pages) ∧
    (∀ g, parseGrm data c.w4.toNat (vocabOf j) (grmOf j) = .ok g →
      loadsOf j 1 (hw data 1 0 16) + (match mapGet s.txt.grms (hw data 1 0 16) with | some p => 1 + b2n p.old.isSome | none => 0) < 2 →
      (mapHas s.txt.grms (hw data 1 0 16) = true ∨ 0 < loadsOf j 1 (hw data 1 0 16) ∨
        ((s.txt.loads.filter (fun l => l.kind = 1)).map (·.key) ++ mapKeys s.txt.grms).eraseDups.length < 1024) →
      loadTable j { cmd := c, kind := 1, key := hw data 1 0 16, version := g.version, pages := [], image := data, grm := some g, op := 0 } = .inr t →
      exec (.grmLoad c data) s = .next t ∧ t.txt.grms = s.txt.grms ∧
        ∃ l o, t.txt.loads = s.txt.loads ++ [l] ∧ l.cmd = c ∧ l.grm = some g ∧ opOf t l.op = some o ∧ o.kind = 0xD ∧ o.todo = l.pages) ∧
    (∀ g bytes n base k, parseGsx data c.w4.toNat = .ok (g, bytes) → n = ceilDiv (g.rows * 2 ^ g.log2Stride) 65536 →
      loadsOf j 2 g.table + (match mapGet s.gsx.tabs g.table with | some p => 1 + b2n p.old.isSome | none => 0) < 2 →
      (∀ ts, ts = ((s.txt.loads.filter (fun l => l.kind = 2)).map (·.key) ++ mapKeys s.gsx.tabs).eraseDups → g.table ∈ ts ∨ ts.length < 256) →
      n ≤ freeH j → opRoom j 2 0xFFF = true → allocPages j n 0xFFF 4 0 false = some (base, k) →
      ∃ u l o, exec (.gsxLoad c data) s = .next u ∧ u.gsx = k.gsx ∧ u.txt.loads = k.txt.loads ++ [l] ∧ l.cmd = c ∧ l.gsx = some g ∧ l.image = bytes ∧
        l.pages = (List.range n).map (base + ·) ∧ opOf u l.op = some o ∧ o.kind = 0xD ∧ o.todo = l.pages)

/-- A program, a private expert set or a table that nothing names is unloaded: at the finish (06 R127), where its commit removes it and completes the command (09 R197, 11 Table 11-10), or
at once before strokes begin (22 R474). A private set whose sessions still step waits for them.
Completes: PLAN_UNLOAD, TABLE_UNLOAD. -/
def Obligations.UnloadRemoves : Prop :=
  ∀ (s : State) (c : Cmd), Taken s c →
    let j := joinQueue s c
    let key := c.f2 0 32
    domPlanLoad j c.dom = true →
    (c.f2 32 1 = 0 → mapHas s.prg.progs key = true → modelNamed j key = false →
      (s.stk.phase = .idle → exec (.planUnload c) s = .next (finishCmd (removeModel j key) c E_OK)) ∧
      (s.stk.phase ≠ .idle → exec (.planUnload c) s = .next (stage j (.planUnload c))) ∧
      ∀ u, modelNamed u key = false → applyCommit u (.planUnload c) = finishCmd (removeModel u key) c E_OK) ∧
    (c.f2 32 1 = 1 → mapHas s.prg.sets (setKey key (c.f2 52 12)) = true → stepping j key (some (c.f2 52 12)) = false →
      (s.stk.phase = .idle → exec (.planUnload c) s = .next (finishCmd (removeSet j (setKey key (c.f2 52 12))) c E_OK)) ∧
      (s.stk.phase ≠ .idle → exec (.planUnload c) s = .next (stage j (.planUnload c))) ∧
      ∀ u, stepping u key (some (c.f2 52 12)) = false →
        applyCommit u (.planUnload c) = finishCmd (removeSet u (setKey key (c.f2 52 12))) c E_OK) ∧
    (c.f2 32 1 = 1 → mapHas s.prg.sets (setKey key (c.f2 52 12)) = true → stepping j key (some (c.f2 52 12)) = true →
      exec (.planUnload c) s = .next { j with prg := { j.prg with dropSets := s.prg.dropSets ++ [c] } }) ∧
    (∀ p, c.f2 32 1 = 0 → mapGet s.txt.vocabs key = some p → tableInUse j c = false →
      let u := freePages (freePages j p.cur.pages) (match p.old with | some o => o.pages | none => [])
      let gone := finishCmd { u with txt := { u.txt with vocabs := mapErase u.txt.vocabs key } } c E_OK
      (s.stk.phase = .idle → exec (.tableUnload c) s = .next gone) ∧
      (s.stk.phase ≠ .idle → exec (.tableUnload c) s = .next (stage j (.tableUnload c)) ∧ applyCommit j (.tableUnload c) = gone)) ∧
    (∀ p, c.f2 32 1 = 1 → mapGet s.txt.grms key = some p → tableInUse j c = false →
      let u := freePages (freePages j p.cur.pages) (match p.old with | some o => o.pages | none => [])
      let gone := finishCmd { u with txt := { u.txt with grms := mapErase u.txt.grms key } } c E_OK
      (s.stk.phase = .idle → exec (.tableUnload c) s = .next gone) ∧
      (s.stk.phase ≠ .idle → exec (.tableUnload c) s = .next (stage j (.tableUnload c)) ∧ applyCommit j (.tableUnload c) = gone))

/-! ### Courses and import writes (10, 15) -/

/-- A course opens on its frames, zeroed and charged, with every session of its crew homed on a lane, at ring position 0 with no step, and waits for
its frames where they cannot be had (10 R227, R228); a CLOSE is kept and takes effect after the course's step (10 R231). A course's step starts in the
drive (10 R229) once every course session has a STEP at its head, or once `WAIT` strokes have passed since the first of them: it names its sessions, begins
the ring anew and takes a Mover entry of kind 0xE.
Completes: COURSE_OPEN, COURSE_CLOSE, COURSE_STEP_START. -/
def Obligations.CourseRuns : Prop :=
  (∀ (s : State) (c : Cmd) (k : Crew), Taken s c → crewOf s (c.f2 0 16) = some k → domTenant (joinQueue s c) c.dom k.tenant = true →
    let j := joinQueue s c
    (courseReason j c (c.f2 0 16) k = none → ∀ fs, chargeFitsH j k.tenant (20 * c.f3 32 9) = none → courseFrames j k.tenant (c.f3 32 9) = some fs →
      ∃ t x, exec (.courseOpen c) s = .next t ∧ mapGet t.courses (c.f2 0 16) = some x ∧ x.node = c.f3 0 32 ∧ x.win = c.f3 32 9 ∧ x.frames = fs ∧
        x.nb = ceilDiv ((nodeOf s (c.f3 0 32)).elim 0 (·.depth)) (c.f3 32 9) ∧ x.start = none ∧ x.ring = 0 ∧ x.closing = none ∧
        t.courseWaits = s.courseWaits ∧ t.ses = s.ses) ∧
    (courseReason j c (c.f2 0 16) k = none → openCourse j c = none →
      exec (.courseOpen c) s = .next { j with courseWaits := s.courseWaits ++ [(c, 0)] }) ∧
    (∀ x, mapGet s.courses (c.f2 0 16) = some x → x.closing = none →
      exec (.courseClose c) s = .next { j with courses := mapSet s.courses (c.f2 0 16) { x with closing := some c } })) ∧
  (∀ (s : State) (crew : Nat) (k : Course) (w : Crew) (p : Plan), mapGet s.courses crew = some k → crewOf s crew = some w → planOf s w.model = some p →
    k.start = none → stepHeads s k ≠ [] →
    ((stepHeads s k).length = k.homes.length ∨ ∃ n, k.firstStep = some n ∧ n + rdF s R.CMB_COURSE_CFG_WAIT ≤ s.stk.number) →
    s.stk.phase = .drive → p.blocked = false → cmbMode s p = false → opRoom s 1 w.tenant = true →
    ∃ t x, exec (.courseStepStart crew) s = .next t ∧ mapGet t.courses crew = some x ∧ x.start = some s.stk.number ∧ x.inStep = stepHeads s k ∧
      x.ring = 0 ∧ x.firstStep = none ∧ x.homes = k.homes ∧ x.op = some (opIndex s) ∧ t.stk.number = s.stk.number)

/-- A write by RDMA into an import window of a domain's region lands in the window's pages, is counted in `MOV_BYTES_NET`, is marked block by block, and is acknowledged; any other one
is answered with a NAK and counted (09 R210, 15 R352).
Completes: IMPORT_RDMA_WRITE. -/
def Obligations.ImportWriteLands : Prop :=
  ∀ (s : State) (qp rkey addr : Nat) (data : List Byte) (x : Qp), qpOf s qp = some x → x.err = false →
    (∀ sid w bs, rkey = s.lnk.rkeys.getD x.dom 0 → importWin s x.dom addr data.length = some (sid, w, bs) →
      exec (.importRdmaWrite qp rkey addr data) s = .next (sendQp (updSes (cnt (writeSas s (data.length / 65536 + 2) addr data) R.MOV_BYTES_NET data.length) sid
        (fun x => { x with win := x.win.map (fun w => { w with written := bs.foldl setAdd w.written }) })) qp (.ackPkt qp) 4)) ∧
    (rkey ≠ s.lnk.rkeys.getD x.dom 0 ∨ importWin s x.dom addr data.length = none →
      exec (.importRdmaWrite qp rkey addr data) s = .next (sendQp (cnt s R.CMB_IMPORT_NAK 1) qp (.nak qp 3) 4))

/-! ### The Text unit (11) -/

/-- Requests of the Text unit whose checks pass join the waiting ones in order of arrival (11 R498), and nothing else changes.
Completes: STREAM_ALLOCATE, STREAM_FREE, STREAM_CONFIGURE, TOKENIZE, DETOKENIZE. -/
def Obligations.TextRequestWaits : Prop :=
  ∀ (s : State) (c : Cmd) (data : List Byte), Taken s c →
    let j := joinQueue s c
    let waits := fun (d : List Byte) => Outcome.next (φ := Fault) (ρ := Refusal) { j with
      txt := { j.txt with waiting := s.txt.waiting ++ [{ cmd := c, data := d }] } }
    exec (.streamAllocate c) s = waits [] ∧
    exec (.streamFree c) s = waits [] ∧
    (c.f4 32 1 = 0 ∨ c.f7 0 5 = 0 ∨ qpCheck j c.dom (c.f6 32 16) = none → exec (.streamConfigure c data) s = waits data) ∧
    (qpCheck j c.dom (c.f4 32 16) = none → exec (.tokenize c data) s = waits data) ∧
    (c.f5 0 32 ≤ 2097152 → qpCheck j c.dom (c.f4 32 16) = none → exec (.detokenize c data) s = waits data)

/-- A free stream engine takes the oldest waiting TOKENIZE or DETOKENIZE whose context has no earlier request (11 R498), and answers it: with output,
by an RDMA write that it waits for; without, by a completion. A busy engine, or one for which nothing waits, stands.
The mask of a session's rated position (11 R252, R253): index 0 of a STEP follows its token, index n its draft n; an APPEND's position is rated
from the start state.
Completes: STREAM_ENGINE_TAKE, MASK_BUILD. -/
def Obligations.TextEngines : Prop :=
  (∀ (s : State) (e : Nat), e < 64 →
    (∀ r x v, mapHas s.txt.engines e = false → takeable s [] s.txt.waiting = some r →
      engineCtx { s with txt := { s.txt with waiting := dropReq s.txt.waiting r } } r.cmd = some x →
      vocabOf { s with txt := { s.txt with waiting := dropReq s.txt.waiting r } } x.model = some v →
      ∃ t, exec (.streamEngineTake e) s = .next t ∧ t.txt.waiting = dropReq s.txt.waiting r ∧
        ((∃ d, mapGet t.lnk.writes s.lnk.nextIo = some d ∧ t.lnk.nextIo = s.lnk.nextIo + 1 ∧ d.qp = r.cmd.f4 32 16 ∧ d.rkey = r.cmd.f7 0 32 ∧
            mapGet t.txt.engines e = some r) ∨
          (∃ k, t.out.cpls = s.out.cpls ++ [k] ∧ k.tag = r.cmd.tag ∧ k.status = E_OK ∧ t.txt.engines = s.txt.engines))) ∧
    (mapHas s.txt.engines e = true ∨ takeable s [] s.txt.waiting = none → exec (.streamEngineTake e) s = .next s)) ∧
  (∀ (s : State) (sid idx : Nat) (r : Run) (g : Grm) (v : Vocab) (k : GrmCfg), maskSource s sid = some (r, g, v, k) →
    (∀ q, r.cmd.opcode ≠ 0x12 → (cfgRun g v k r.toks)[idx + 1]? = some q →
      ∃ t ms, exec (.maskBuild sid idx) s = .next t ∧ mapGet t.txt.masks sid = some ms ∧
        ms.find? (fun m => m.idx == idx) = some { idx := idx, mask := maskOfCfg g v q }) ∧
    (r.cmd.opcode = 0x12 → idx = 0 →
      ∃ t ms, exec (.maskBuild sid idx) s = .next t ∧ mapGet t.txt.masks sid = some ms ∧
        ms.find? (fun m => m.idx == 0) = some { idx := 0, mask := maskOfCfg g v k }))

/-! ### Memory search (12) -/

/-- MEM_CREATE waits for its pages, MEM_DROP and MEM_DELETE for the next commit, and MEM_REPAIR joins a sweep or starts one (12 R265, R283, R286).
Completes: MEM_CREATE, MEM_DROP, MEM_DELETE, MEM_REPAIR. -/
def Obligations.MemChangesWait : Prop :=
  ∀ (s : State) (c : Cmd) (data : List Byte), Taken s c →
    let j := joinQueue s c
    (domTenant j c.dom (c.f2 0 12) = true → gsxFmt (c.f2 12 4) = true → c.f2 16 2 ≤ 1 → c.f2 20 12 ≠ 0 → 8 ≤ c.f2 32 7 → c.f2 32 7 ≤ 64 →
      16 ≤ c.f2 40 9 → c.f2 40 9 ≤ 256 → vecBytes (c.f2 12 4) (c.f2 20 12) ≤ 1536 → s.mem.idxs.length + s.mem.creates.length < 1024 →
      exec (.memCreate c) s = .next { j with mem := { j.mem with creates := s.mem.creates ++ [(c, 0)] } }) ∧
    (∀ x, idxFor j c = some x →
      exec (.memDrop c) s = .next (updIdx j (c.f2 0 16) (fun x => { x with dropping := some c })) ∧
      (memCmdCode j c 65536 = none → exec (.memDelete c data) s = .next (updIdx j (c.f2 0 16) (fun x => { x with dels := x.dels ++ [(c, data)] }))) ∧
      (∀ w, x.sweep = some w → exec (.memRepair c) s =
        .next (updIdx j (c.f2 0 16) (fun x => { x with sweep := x.sweep.map (fun w => { w with cmds := w.cmds ++ [c] }) }))) ∧
      (x.sweep = none → exec (.memRepair c) s = .next (startSweep j (c.f2 0 16) x [c])))

/-- Each query of a MEM_QUERY and each record of a MEM_INSERT becomes a walk of its own that waits for a context, in order (12 R269, R279).
Completes: MEM_QUERY, MEM_INSERT. -/
def Obligations.WalksAdded : Prop :=
  ∀ (s : State) (c : Cmd) (data : List Byte) (x : MemIdx), Taken s c → idxFor (joinQueue s c) c = some x → memCmdCode (joinQueue s c) c 4096 = none →
    walksWaiting (joinQueue s c) + c.f2 16 17 ≤ 65536 + freeContexts (joinQueue s c) x →
    (c.f7 0 9 ≠ 0 → c.f7 0 9 ≤ 256 → ∃ t, exec (.memQuery c data) s = .next t ∧ t.mem.nextWalk = s.mem.nextWalk + c.f2 16 17 ∧
      ∀ i, i < c.f2 16 17 → mapGet t.mem.walks (s.mem.nextWalk + i) = some (queryWalk x c data i)) ∧
    (∃ t, exec (.memInsert c data) s = .next t ∧ t.mem.nextWalk = s.mem.nextWalk + c.f2 16 17 ∧
      ∀ i, i < c.f2 16 17 → mapGet t.mem.walks (s.mem.nextWalk + i) = some (insertWalk x (c.f2 0 16) (insertRec x c data i)))

/-- The oldest waiting walk takes a context and binds to a version (12 R269, R271); one that is not the first stands. A node read that ends is counted on
its channel, and every walk that rides on it takes the slot, or its loss (12 R272 to R274, R278); without such a read nothing happens.
Completes: WALK_ADMIT, NODE_READ_DONE. -/
def Obligations.WalkSteps : Prop :=
  ∀ (s : State) (w : Nat) (x : Walk) (i : MemIdx), walkOf s w = some x → idxOf s x.index = some i →
    (walkFirst s w (walkUnits s i) = false → exec (.walkAdmit w) s = .next s) ∧
    (∀ k m, x.ended = false → x.ver = none → x.use ≠ .sweep → s.stk.phase ≠ .idle → walkFirst s w (walkUnits s i) = true →
      bestUnit s (walkUnits s i) = some k → i.vers.find? (fun m => m.version = (queryVer s x.use).getD i.cur.version) = some m →
      ∃ q, exec (.walkAdmit w) s = .next (walkCheck (setWalk (cntI s R.FCH_DEAD_EDGES k (m.entries.length - (m.entries.filter (fun e => !deadAt i m e.node e.gen)).length))
        w { x with unit := some k, ver := some m.version, queue := q, dead := m.entries.length - (m.entries.filter (fun e => !deadAt i m e.node e.gen)).length }) w m)) ∧
    (∀ node ok, x.flying.find? (fun f => f.1 = node && (f.2.2.2 || !slotFlying s f.2.1 f.2.2.1)) = none → exec (.nodeReadDone w node ok) s = .next s) ∧
    (∀ node ok f, x.flying.find? (fun f => f.1 = node && (f.2.2.2 || !slotFlying s f.2.1 f.2.2.1)) = some f →
      let u := cntI s R.FCH_READS_NODE (channelOf s f.2.1) 1
      let r := if ok then slotAt u f.2.1 f.2.2.1 else none
      let v := if ok = false then slotLost u f.2.1 E_FLASH_READ 9 else if r.isNone then slotLost u f.2.1 E_SEAL_AUTH 11 else u
      exec (.nodeReadDone w node ok) s = .next
        ((v.mem.walks.filterMap (fun (k, x) => (x.flying.find? (fun g => g.2.1 = f.2.1 && g.2.2.1 = f.2.2.1)).map (fun g => (k, g.1, x.use == .sweep)))).foldl
          (fun t (k, n, sw) => if sw then sweepTake t k n r else walkTake t k n f.2.1 r) v))

/-! ### Gather and scatter (13) -/

/-- Who may use a table, and which SCATTER it takes (13 R295). -/
def Obligations.TableDenied : Prop :=
  ∀ (s : State) (c : Cmd) (data : List Byte), Taken s c →
    let j := joinQueue s c
    (gsxOf j (c.f2 0 16) = none →
      exec (.gather c data) s = .next (refuseGsx j c E_GSX_UNKNOWN 0) ∧ exec (.scatter c data) s = .next (refuseGsx j c E_GSX_UNKNOWN 0)) ∧
    (∀ t, gsxOf j (c.f2 0 16) = some t →
      (t.tenant ≠ 0xFFF → domTenant j c.dom t.tenant = false →
        exec (.gather c data) s = .next (refuseGsx j c E_GSX_DENIED 0) ∧ exec (.scatter c data) s = .next (refuseGsx j c E_GSX_DENIED 0)) ∧
      (t.tenant = 0xFFF → domPlanLoad j c.dom = false → exec (.scatter c data) s = .next (refuseGsx j c E_GSX_DENIED 0)) ∧
      (t.tenant ≠ 0xFFF → domTenant j c.dom t.tenant = true → t.updatable = false → exec (.scatter c data) s = .next (refuseGsx j c E_GSX_RULE 0)) ∧
      (t.tenant = 0xFFF → domPlanLoad j c.dom = true → t.updatable = false → exec (.scatter c data) s = .next (refuseGsx j c E_GSX_RULE 0)))

/-- GATHER, SCATTER and GSX_SEAL whose checks pass join their table's order behind the commands before them (13 R297 to R299, R302).
Completes: GATHER, SCATTER, GSX_SEAL. -/
def Obligations.TableOrder : Prop :=
  ∀ (s : State) (c : Cmd) (data : List Byte) (t : GsxTab), Taken s c → gsxOf (joinQueue s c) (c.f2 0 16) = some t →
    let j := joinQueue s c
    let joined := fun (d : List Byte) => Outcome.next (φ := Fault) (ρ := Refusal) { j with
      gsx := { j.gsx with orders := mapSet s.gsx.orders (c.f2 0 16) (gsxOrder s (c.f2 0 16) ++ [{ cmd := c, data := d }]) } }
    (t.tenant = 0xFFF ∨ domTenant j c.dom t.tenant = true) →
    (qpCheck j c.dom (c.f4 32 16) = none → gatherCode c data = none → exec (.gather c data) s = joined data) ∧
    ((t.tenant = 0xFFF → domPlanLoad j c.dom = true) → t.updatable = true → c.f2 16 4 < 6 → auxNeed t (c.f2 16 4) ≤ t.auxBytes →
      qpCheck j c.dom (c.f4 32 16) = none → c.f2 32 21 ≤ 1048576 → c.f2 32 21 ≠ 0 → exec (.scatter c data) s = joined data) ∧
    exec (.gsxSeal c) s = joined []

/-! ### Crews (14) -/

/-- CREW: a crew that is not fast is made, staged to change at the finish, or deleted, and the command completes; a fast one waits for its seats (14
R308, R309).
Completes: CREW_CREATE, CREW_MODIFY, CREW_DELETE. -/
def Obligations.CrewCommands : Prop :=
  ∀ (s : State) (c : Cmd), Taken s c →
    let j := joinQueue s c
    let id := if c.f2 16 16 = 0xFFFF then mapFree s.crw.crews else c.f2 16 16
    (crewCreateCode j c id = none →
      ∃ t x, exec (.crewCreate c) s = .next t ∧ crewOf t id = some x ∧ x.tenant = c.f3 0 12 ∧ x.model = c.f3 32 32 ∧ x.weight = c.f2 32 16 ∧
        x.seated = false ∧ (c.f2 4 1 = 1 → x.seatCmd = some c ∧ t.out = j.out) ∧
        (c.f2 4 1 = 0 → x.seatCmd = none ∧ t = stageDone { j with crw := t.crw } { cmd := c, status := E_OK, c0 := id })) ∧
    (∀ x, crewOf s (c.f2 16 16) = some x → domTenant j c.dom x.tenant = true →
      (c.f2 32 16 ≠ 0 → c.f2 4 1 = 0 → exec (.crewModify c) s = .next (stage j (.crewModify (c.f2 16 16) c))) ∧
      (crewNamed j (c.f2 16 16) = false → mapHas s.courses (c.f2 16 16) = false →
        exec (.crewDelete c) s = .next (stageDone { j with crw := { j.crw with crews := mapErase s.crw.crews (c.f2 16 16) } }
          { cmd := c, status := E_OK, c0 := c.f2 16 16 })))

/-- Contexts of pseudo-channels (14 R316 to R321): a fast crew is seated: every PC of its plan holds its program, in its working seat or its standby seat,
and the crew stands as seated; a switch whose strokes have passed and that failed on no PC is over: each of its PCs holds the incoming context; a held pass gives up its
PCs to the context store; a window's report is made and a new one begins.
Completes: CREW_SEATED, SWITCH_DONE, PREEMPT, SPLIT_WINDOW_END. -/
def Obligations.CrewEvents : Prop :=
  ∀ s : State,
    (∀ k x p, crewOf s k = some x → planOf s x.model = some p → x.fast = true → x.seated = false → x.seatCmd = none →
      ∃ t, exec (.crewSeated k) s = .next t ∧ crewOf t k = some { x with seated := true, seatCmd := none } ∧ t.out = s.out ∧ t.ses = s.ses ∧
        ∀ n ∈ planPcs p, ((pcCtx t n).work.any (sameProg { model := x.model, version := p.hdr.version }) ||
          (pcCtx t n).seat.any (sameProg { model := x.model, version := p.hdr.version })) = true) ∧
    (∀ lane w, lane < 10 → mapGet s.crw.switches lane = some w → w.strokes = 0 → w.failed = [] → mapWf s.crw.switches = true →
      ∃ t, exec (.switchDone lane) s = .next t ∧ mapGet t.crw.switches lane = none ∧ t.crw.crews = s.crw.crews ∧ t.ses = s.ses ∧
        t.tier = s.tier ∧ t.stk = s.stk ∧ ∀ n ∈ w.pcs, (pcCtx t n).work = some (switchCtx s w n)) ∧
    (∀ i p u, passOf s i = some p → p.held = true → p.image = none → (crewOf s p.crew).any (·.fast) = false → rdF s R.CREW_CFG_HOLD_MAX ≠ 0 →
      p.holdStroke + rdF s R.CREW_CFG_HOLD_MAX ≤ s.stk.number → (∀ k ∈ lanesOfPcs p.pcs, mapHas s.crw.switches k = false) →
      takeImages s i (lanesOfPcs p.pcs) = some u →
      ∃ t q, exec (.preempt i) s = .next t ∧ passOf t i = some q ∧ q.held = false ∧ q.image = some i ∧ t.ses = s.ses) ∧
    (∀ k x, crewOf s k = some x → x.split = true → (x.winStart / splitLen s + 1) * splitLen s ≤ catchStroke s →
      ∃ t y, exec (.splitWindowEnd k) s = .next t ∧ crewOf t k = some y ∧ y.winStart = catchStroke s / splitLen s * splitLen s ∧ y.winPasses = 0 ∧
        y.winLegs = 0 ∧ y.report = splitWords k x (decide (x.winStart < s.stk.sl1At + 256) || decide (x.winStart < x.created + 256)) ∧ t.ses = s.ses)

/-! ### The host link's commands (15) -/

/-- QP_CREATE makes a queue pair at the lowest free index with the fields of its words, and completes with the index; one whose egress queue does not
serve its interface is refused (15 R350, 16 R356). QP_DESTROY marks a queue pair of its domain as closing and ends it once nothing of it is outstanding.
Completes: QP_CREATE, QP_DESTROY. -/
def Obligations.QueuePairs : Prop :=
  ∀ (s : State) (c : Cmd), Taken s c →
    let j := joinQueue s c
    (s.lnk.qps.length < 4096 → c.f2 26 2 ≠ 3 → c.f2 40 5 ≠ 0 → c.f2 40 5 ≤ 20 → queueIface j (c.f2 24 2 / 2) (c.f2 32 6) = c.f2 24 2 →
      ∃ t x d, exec (.qpCreate c) s = .next t ∧ mapGet t.lnk.qps (mapFree s.lnk.qps) = some x ∧ x.dom = c.dom ∧ x.remoteQpn = c.f2 0 24 ∧
        x.iface = c.f2 24 2 ∧ x.pmtu = c.f2 26 2 ∧ x.egq = c.f2 32 6 ∧ x.ackTimeout = c.f2 40 5 ∧ x.sqPsn = c.f5 0 24 ∧ x.rqPsn = c.f5 32 24 ∧
        x.err = false ∧ x.closing = none ∧ t = stageDone { j with lnk := t.lnk, freeCtr := s.freeCtr + 1 } d ∧ d.cmd = c ∧ d.status = E_OK ∧
        d.c0 = x.qpn + mapFree s.lnk.qps * 2 ^ 32) ∧
    (s.lnk.qps.length < 4096 → queueIface j (c.f2 24 2 / 2) (c.f2 32 6) ≠ c.f2 24 2 → exec (.qpCreate c) s = .next (refuseLink j c E_QP_INVALID)) ∧
    (∀ x, qpOf s (c.f2 0 16) = some x → x.dom = c.dom → x.closing = none →
      exec (.qpDestroy c) s = .next (qpClose (updQp j (c.f2 0 16) (fun x => { x with closing := some c })) (c.f2 0 16)))

/-- FEATHER, WAKE and NOP bind at the next catch; before strokes begin, WAKE and NOP complete at once (15 R334, R344; 22 R474).
Completes: FEATHER, WAKE, NOP. -/
def Obligations.LinkCommandsBind : Prop :=
  ∀ (s : State) (c : Cmd), Taken s c →
    let j := joinQueue s c
    let bound := Outcome.next (φ := Fault) (ρ := Refusal) { j with lnk := { j.lnk with toBind := s.lnk.toBind ++ [c] } }
    (domRegWrite j c.dom = true → exec (.feather c) s = bound) ∧
    (domRegWrite j c.dom = false → exec (.feather c) s = .next (finishCmd (recordErr j .sec 0 0 E_SEC_RIGHT) c E_SEC_RIGHT)) ∧
    (s.stk.phase ≠ .idle → exec (.wake c) s = bound ∧ exec (.nop c) s = bound) ∧
    (s.stk.phase = .idle → exec (.wake c) s = .next (finishCmd j c E_OK) ∧ exec (.nop c) s = .next (finishCmd j c E_OK))

/-! ### Checkpoints (17) -/

/-- A CHECKPOINT whose checks pass becomes a job behind the jobs of its tenant (17 R372); a RESTORE takes a Mover entry of kind 0xC and reads the target's
anchor, its first 64 KiB (17 R383); a checkpoint that has waited `CKP_CFG.WAIT` strokes for room fails with `E_CKP_FULL` (17 R382).
A checkpoint whose log has had no room for `CKP_CFG.WAIT` strokes fails (17 R382); one that has not waited so long stands.
Completes: CHECKPOINT, RESTORE, CKP_WAIT_EXPIRY. -/
def Obligations.CheckpointCommands : Prop :=
  (∀ (s : State) (c : Cmd) (data : List Byte), Taken s c →
    let j := joinQueue s c
    let t := c.f2 0 12
    ckpEnabled j t = true → domTenant j c.dom t = true →
    (c.f2 12 2 ≠ 3 → (c.f2 12 2 = 1 → c.f5 0 32 ≠ 0 ∧ c.f5 0 32 ≤ 262144 ∧ qpCheck j c.dom (c.f4 32 16) = none) → exec (.checkpoint c data) s =
      .next (jobNext (addJob j { tenant := t, cmd := some c, full := c.f2 16 1 = 1, toBind := ckpSessions j c data }) t)) ∧
    (c.f2 12 2 ≠ 3 → (c.w3.toNat = 0 ∨ (c.f5 0 11 ≠ 0 ∧ c.f5 0 11 ≤ 2040)) → qpCheck j c.dom (c.f4 32 16) = none → opRoom j 2 t = true →
      ∃ u r o k, exec (.restore c data) s = .next u ∧ mapGet u.ckp.restores (mapFree s.ckp.restores) = some r ∧ r.cmd = c ∧ r.op = some (opIndex s) ∧
        opOf u (opIndex s) = some o ∧ o.kind = 0xC ∧ o.tenant = t ∧
        mapGet u.lnk.reads s.lnk.nextIo = some k ∧ k.use = .restore (mapFree s.ckp.restores) 0 ∧ k.len = 65536)) ∧
  (∀ (s : State) (t i : Nat) (j : CkpJob),
    s.ckp.jobs.find? (fun (e : Nat × CkpJob) => e.2.tenant == t && e.2.started && !e.2.toHost) = some (i, j) → j.blocked = true →
    (rdF s R.CKP_CFG_WAIT ≤ j.waited → exec (.ckpWaitExpiry t) s = .next (jobNext (jobFail s i E_CKP_FULL) t)) ∧
    (j.waited < rdF s R.CKP_CFG_WAIT → exec (.ckpWaitExpiry t) s = .next s))

/-! ### The Umpire's requests (19) and security (20) -/

/-- The Umpire's requests, taken while it runs (19 Table 19-5): RECEIPT_NOW waits for the next counted finish, ACK marks receipts as acknowledged, the
logs and the certificate chain are written to host memory, SET_PERIOD and an image of FW_UPDATE that verifies take effect at the period's end, and an image
that does not verify is refused.
A request that comes while the Umpire does not run waits until it does (the model's choice, notes/assumptions/42.md).
Completes: RECEIPT_NOW, LOG_READ, UMP_ACK, EVENT_READ, SET_PERIOD, FW_UPDATE, CERT_READ. -/
def Obligations.UmpireServes : Prop :=
  (∀ (s : State) (c : Cmd) (data : List Byte), Taken s c → s.ump.run = .running → umpCode (joinQueue s c) c = none →
    let j := joinQueue s c
    let t := c.f2 4 12
    let writes := fun (o : Outcome State Fault Refusal) (n : Nat) (bytes : List Byte) => o = .next (umpWrite j c bytes n)
    (c.f2 0 4 = 0 → exec (.receiptNow c) s = .next (setTen j t { umpTen j t with nowCmds := (umpTen j t).nowCmds ++ [c] })) ∧
    (c.f2 0 4 = 1 → ∀ rs, rs = ((s.ump.receipts.filter (fun r => r.tenant = t && decide (c.w5.toNat ≤ r.rseq))).filterMap (·.bytes)).take (c.f6 0 16) →
      writes (exec (.logRead c) s) rs.length rs.flatten) ∧
    (c.f2 0 4 = 2 → ∃ u, exec (.umpAck c) s = .next (finishCmd u c E_OK) ∧ u.out = j.out ∧
      u.ump.receipts = s.ump.receipts.map (fun r => if r.tenant = t && decide (r.rseq ≤ c.w5.toNat) && r.bytes.isSome then { r with acked := true } else r)) ∧
    (c.f2 0 4 = 3 → ∀ es, es = (s.ump.events.drop c.w5.toNat).take (c.f6 0 16) →
      writes (exec (.eventRead c) s) es.length (es.map UmpEvent.bytes).flatten) ∧
    (c.f2 0 4 = 4 → ∃ u, exec (.setPeriod c) s = .next (finishCmd u c E_OK) ∧ u.ump.nextPeriod = some (c.f5 0 32) ∧ u.ump.period = s.ump.period) ∧
    (c.f2 0 4 = 5 → exec (.fwUpdate c data) s = .next (if Config.umpImageOk data then
      finishCmd { j with ump := { j.ump with newFw := some (sha256 data) } } c E_OK else refuseUmp j c E_UMP_INVALID)) ∧
    (c.f2 0 4 = 6 → writes (exec (.certRead c) s) 0 Config.umpCert)) ∧
  (∀ (s : State) (c : Cmd) (data : List Byte), Taken s c → s.ump.run ≠ .running → umpCode (joinQueue s c) c = none →
    let waits := fun (d : List Byte) => Outcome.next (φ := Fault) (ρ := Refusal) { joinQueue s c with
      ump := { s.ump with requests := s.ump.requests ++ [(c, d)] } }
    (∀ i ∈ [Instr.receiptNow c, .logRead c, .umpAck c, .eventRead c, .setPeriod c, .certRead c], exec i s = waits []) ∧
    exec (.fwUpdate c data) s = waits data)

/-- ATTEST is accepted from any enabled domain (20 R437): it waits for its binding catch, or is quoted at once before strokes begin.
RIG_UPDATE writes an image that is signed and newer into the slot that did not boot, and takes effect at the next reset; another one is refused with
`E_SEC_RIGGING` and changes no slot (20 R429).
Completes: ATTEST, RIG_UPDATE_RIGGING, RIG_UPDATE_FIRMWARE. -/
def Obligations.SecurityCommands : Prop :=
  (∀ (s : State) (c : Cmd), Taken s c →
    let j := joinQueue s c
    domEnabled j c.dom = true → qpCheck j c.dom (c.f3 32 16) = none →
    (s.stk.phase ≠ .idle → exec (.attest c) s = .next { j with sec := { j.sec with quotes := s.sec.quotes ++ [{ cmd := c, bound := false }] } }) ∧
    (s.stk.phase = .idle → ∃ t w, exec (.attest c) s = .next t ∧ mapGet t.lnk.writes s.lnk.nextIo = some w ∧ w.qp = c.f3 32 16 ∧ w.rkey = c.f3 0 32 ∧
      w.addr = c.w2.toNat ∧ t.freeCtr = s.freeCtr + 1)) ∧
  (∀ (s : State) (c : Cmd) (data : List Byte), Taken s c →
    let j := joinQueue s c
    domAdmin j c.dom = true → qpCheck j c.dom (c.f3 32 16) = none →
    (c.f5 0 1 = 0 → ∀ r, r = rigParse data →
      let newer := rigSigned s.sec.owner data && decide (s.sec.rigCtr ≤ r.version) && decide ((rigNow j).elim 0 (·.version) < r.version)
      exec (.rigUpdateRigging c data) s = .next (if newer then finishCmd { j with
        sec := { j.sec with rigs := putSlot s.sec.rigs s.sec.rigSlot { r with valid := true, digest := sha256 data } } } c E_OK
      else refuseSec j c E_SEC_RIGGING)) ∧
    (c.f5 0 1 = 1 →
      let newer := fwSigned data && decide (s.sec.fwCtr ≤ fwParse data) && decide ((s.sec.fws[s.sec.fwSlot]?).elim 0 (·.version) < fwParse data)
      exec (.rigUpdateFirmware c data) s = .next (if newer then finishCmd { j with
        sec := { j.sec with fws := putSlot s.sec.fws s.sec.fwSlot { version := fwParse data, valid := true, digest := sha256 data } } } c E_OK
      else refuseSec j c E_SEC_RIGGING)))

/-! ### Faults and tests (21) -/

/-- ERG queues a test of its unit, or joins the one that runs; its result stands where it ends, in the stroke that gives it the rest of its time (21
R448, R459).
The result of the tests of a unit that this stroke gives the rest of their time (21 R452), and of a unit that bring-up's coverage tests (22 R476).
Completes: ERG, ERG_TEST_END. -/
def Obligations.ErgTests : Prop :=
  (∀ (s : State) (c : Cmd), Taken s c →
    let j := joinQueue s c
    domRegWrite j c.dom = true → unitOk (c.f2 0 32) = true →
    (c.f2 32 1 = 1 → fencedSelf j (unitTy (c.f2 0 32)) (unitIdx (c.f2 0 32)) = true ∧ (fenceEnt j (c.f2 0 32)).any (fun e => decide (2 ≤ e.count)) = false) →
    (s.flt.tests.any (fun t => t.unit = c.f2 0 32 && t.ended.isNone) = false →
      ∃ t x, exec (.erg c) s = .next t ∧ t.flt.tests = s.flt.tests ++ [x] ∧ x.unit = c.f2 0 32 ∧ x.cmds = [c] ∧ x.ended = none ∧ x.queued = true ∧
        t.flt.fences = s.flt.fences ∧ t.out.cpls = s.out.cpls) ∧
    (∀ x, s.flt.tests.find? (fun t => t.unit = c.f2 0 32 && t.ended.isNone) = some x →
      exec (.erg c) s = .next { j with flt := { j.flt with tests := s.flt.tests.map (fun t =>
        if t.unit = c.f2 0 32 && t.cls = x.cls && t.ended.isNone then { t with cmds := t.cmds ++ [c] } else t) } })) ∧
  (∀ (s : State) (u : Nat) (pass : Bool) (row : Option Nat), unitOk u = true →
    (s.flt.tests.any (fun t => t.unit = u && t.ended.isNone) = true →
      exec (.ergTestEnd u pass row) s = .next { s with flt := { s.flt with tests := (s.flt.tests.zip (ergGives s)).map (fun e =>
        if e.1.unit = u && e.1.ended.isNone && !e.1.queued && decide (e.1.left ≤ e.2) then { e.1 with ended := some (pass, row) } else e.1) } }) ∧
    (s.flt.tests.any (fun t => t.unit = u && t.ended.isNone) = false → ∀ lane, lane < 10 → covering s lane = true →
      (unitTy u = 3 ∧ unitIdx u / 8192 = lane ∨ unitTy u = 4 ∧ unitIdx u / 64 = lane ∨ unitTy u = 6 ∧ unitIdx u = lane) →
      ∃ t, exec (.ergTestEnd u pass row) s = .next t ∧ t.flt.tests = s.flt.tests ++ [{ unit := u, cls := 0, ended := some (pass, row) }] ∧ t.ses = s.ses))

/-- The patrol scrub reads one row of every half-bank and goes on to the next, in ascending order; a pass is counted after the last (21 R450). With
`SCRUB_STROKES` 0 it does not run.
A Tier F read that fails is noted as an error of class 9; a second read that serves changes nothing more (21 R451), and a frame that holds nothing
changes nothing. A page rebuilt from parity is sealed to a new frame; a page with a Tier H copy loses its Tier F copy, and one without is lost.
Completes: PATROL_SCRUB, FLASH_READ_FAIL. -/
def Obligations.MediaErrors : Prop :=
  (∀ (s : State) (flips : List (Nat × Nat × Byte)),
    (rdF s R.FLT_CFG_SCRUB_STROKES = 0 → exec (.patrolScrub flips) s = .next s) ∧
    (rdF s R.FLT_CFG_SCRUB_STROKES ≠ 0 → ∃ t, exec (.patrolScrub flips) s = .next t ∧ t.flt.scrubRow = (s.flt.scrubRow + 1) % 8192 ∧
      t.tier.hbm = s.tier.hbm ∧ t.ses = s.ses) ∧
    (rdF s R.FLT_CFG_SCRUB_STROKES ≠ 0 → s.flt.scrubRow < 8191 → flips = [] →
      exec (.patrolScrub flips) s = .next { s with flt := { s.flt with scrubRow := s.flt.scrubRow + 1 } })) ∧
  (∀ (s : State) (f : Nat) (retryOk parityOk : Bool), f < 805306368 →
    (mapGet s.tier.sealedAt f = none → exec (.flashReadFail f retryOk parityOk) s = .next s) ∧
    (∀ x e, mapGet s.tier.sealedAt f = some x → pteOf s x.page = some e →
      let die := (Config.dieOfFrame f).toNat
      let n := noteErr (recordErr s .fch (die / 8) (die % 8) E_FLASH_READ)
        { cls := 9, unit := unitId 9 die, code := E_FLASH_READ, page := some x.page }
      exec (.flashReadFail f true parityOk) s = .next n ∧
      (e.f = true → e.fFrame = f →
        exec (.flashReadFail f false true) s = .next (putSealed n x.page { x with ctr := n.tier.sealCtr + 1 }) ∧
        (e.h = true → exec (.flashReadFail f false false) s = .next (freeF1 n x.page)) ∧
        (e.h = false → e.cls ≠ 5 → exec (.flashReadFail f false false) s = .next (loseFlt n x.page)))))

/-! ### Frames and ports (15, 16) -/

/-- A BWP frame on an interface (15 R336 to R341): one that breaks a limit, or comes while the link is down, is not served; a HELLO whose tag is its
domain's is taken; a frame of an open association from its endpoint, under its key, acknowledges and is taken in sequence; an ACK is answered only where
it asks for it. What waits to leave then becomes frames.
Completes: BWP_FRAME_RX, HELLO, CLOSE, BWP_ACK_FRAME. -/
def Obligations.BwpFrames : Prop :=
  ∀ (s : State) (iface : Nat) (f : BwpFrame), iface < 4 →
    let rows := [(Instr.bwpFrameRx iface f, f), (.hello iface f, { f with ty := 0x09 }), (.close iface f, { f with ty := 0x0B }),
      (.bwpAckFrame iface f, { f with ty := 0x08 })]
    ∀ r ∈ rows, ∀ g, g = r.2 →
      (linkUp s iface = false ∨ s.pwr.water.isSome ∨ frameOk s g = false → exec r.1 s = .next (linkPump s)) ∧
      (linkUp s iface = true → s.pwr.water = none → frameOk s g = true →
        (∀ d p, g.ty = 0x09 → helloDom s g = some (d, p) → (encNeeded s d = true → g.enc = true) →
          exec r.1 s = .next (linkPump (helloTake s iface g d p))) ∧
        (∀ a p, g.ty ≠ 0x09 → openAssoc s g.assoc = some a → a.ip = g.srcIp → a.port = g.srcPort → a.iface = iface → openFrame a.key g = some p →
          (encNeeded s a.dom = true → g.enc = true) →
          let t := takeAck s a.id g.ack g.sack
          (g.ty = 0x08 → g.acknow = true → exec r.1 s = .next (linkPump (sendAck t a.id))) ∧
          (g.ty = 0x08 → g.acknow = false → exec r.1 s = .next (linkPump t)) ∧
          (∀ b, g.ty ≠ 0x08 → openAssoc t a.id = some b → exec r.1 s = .next (linkPump (seqFrame t b { g with payload := p })))))

/-- The timers of an association (15 R340, R341): a frame that is not acknowledged is sent again and its tries are counted, or the association lingers
after `BWP_CFG.RETRIES`; an acknowledgement that is owed is sent; silence makes it linger; a lingering one goes.
Completes: BWP_RETRANSMIT_TIMER, BWP_ACK_DELAY, BWP_IDLE_TIMEOUT, BWP_LINGER_EXPIRY. -/
def Obligations.AssociationTimers : Prop :=
  ∀ (s : State) (id : Nat) (a : Assoc),
    (openAssoc s id = some a → ∀ seq f, a.unacked.find? (fun f => f.seq == seq) = some f → frameQueued s id f = false →
      (rdF s R.BWP_CFG_RETRIES ≤ f.retries → exec (.bwpRetransmitTimer id seq) s = .next (lingerAssoc s id 1)) ∧
      (f.retries < rdF s R.BWP_CFG_RETRIES → exec (.bwpRetransmitTimer id seq) s = .next (resend (updAssoc s id (fun a => { a with
        unacked := a.unacked.map (fun g => if g.seq = seq then { g with retries := g.retries + 1 } else g) })) a f))) ∧
    (openAssoc s id = some a →
      (a.ackDue = true → exec (.bwpAckDelay id) s = .next (updAssoc (sendAck s id) id (fun a => { a with ackDue := false }))) ∧
      exec (.bwpIdleTimeout id) s = .next (sendEvent (updAssoc (purgeAssoc s id) id (fun a => { a with st := .lingering, held := [], ackDue := false }))
        (pageOf .bwp 0) EV_BWP_CLOSED [id + 2 * 2 ^ 32] [a.dom])) ∧
    (assocOf s id = some a → a.st = .lingering → exec (.bwpLingerExpiry id) s = .next { cnt (purgeAssoc s id) R.BWP_STAT_LOST (heldWork a) with
      lnk := { (cnt (purgeAssoc s id) R.BWP_STAT_LOST (heldWork a)).lnk with
        assocs := (cnt (purgeAssoc s id) R.BWP_STAT_LOST (heldWork a)).lnk.assocs.filter (fun e => e.2.id != id) } })

/-- Frames for the interface itself and its link (15 R328 to R332). An accepted frame is served by what it carries: an ARP request or a Neighbour Solicitation for the interface's own address is
answered, PAUSE stops every priority and PFC those it names, counted in `PORT_PAUSE_RX`; a malformed frame is dropped and counted. An MKA message under the CAK installs the key server's key, or one of
the device's own where its priority is the better one and no key stands, and is answered. A link that comes up, in the mode for which its port trains, or goes down shows in `PORT_STATUS` and as
`EV_PORT_LINK`.
Completes: ETH_FRAME_RX, MKA_FRAME, PORT_LINK_CHANGE. -/
def Obligations.PortFrames : Prop :=
  ∀ (s : State) (i : Nat), i < 4 →
    (∀ f, linkUp s i = true → s.pwr.water = none → 64 ≤ f.len → f.len ≤ 9216 → f.fcsOk = true → f.fragment = false → f.extHeader = false →
      vlanOk s i f = true → (f.secured = false → rdPort s R.PORT_CFG_MACSEC_REQ i ≠ 1) →
      (f.secured = true → rdPort s R.PORT_CFG_MACSEC_EN i = 1 ∧ mapHas s.lnk.mkaKeys i = true) →
      let counted := cntPort s R.PORT_PAUSE_RX i 1
      (∀ t mac ip, f.body = .arp t mac ip → rdPort s R.PORT_IPV4 i ≠ 0 → t = rdPort s R.PORT_IPV4 i →
        exec (.ethFrameRx i f) s = .next (sendControl s i (.arpReply mac ip))) ∧
      (∀ t mac ip, f.body = .neighbour t mac ip → portIpv6 s i ≠ 0 → t = portIpv6 s i →
        exec (.ethFrameRx i f) s = .next (sendControl s i (.neighbourReply mac ip))) ∧
      (∀ q, f.body = .pause q → rdPort counted R.PORT_CFG_PFC_EN i ≠ 1 → exec (.ethFrameRx i f) s =
        .next (updIface counted i (fun x => { x with paused := if q = 0 then [] else List.range 8 }))) ∧
      (∀ en qs, f.body = .pfc en qs → rdPort counted R.PORT_CFG_PFC_EN i = 1 → exec (.ethFrameRx i f) s =
        .next ((onesOf 8 en).foldl (fun s p => updIface s i (fun x => { x with
          paused := if qs.getD p 0 = 0 then setDel x.paused p else setAdd x.paused p })) counted))) ∧
    (∀ f, linkUp s i = true → s.pwr.water = none → (f.len < 64 ∨ 9216 < f.len ∨ f.fcsOk = false ∨ f.fragment = true ∨ f.extHeader = true ∨ vlanOk s i f = false) →
      exec (.ethFrameRx i f) s = .next (cntPort s R.PORT_DROP_FRAME i 1)) ∧
    (∀ m, linkUp s i = true → rdPort s R.PORT_CFG_MACSEC_EN i = 1 → m.authentic = true →
      let installed := fun (s : State) (k : Nat) => wrPort { s with lnk := { s.lnk with mkaKeys := mapSet s.lnk.mkaKeys i k } } R.PORT_STATUS_SECURE i 1
      (∀ k, m.keyServerPrio ≤ rdPort s R.PORT_MKA_KS_PRIO i → m.sak = some k → exec (.mkaFrame i m) s = .next (sendControl (installed s k) i .mka)) ∧
      (m.keyServerPrio ≤ rdPort s R.PORT_MKA_KS_PRIO i → m.sak = none → exec (.mkaFrame i m) s = .next (sendControl s i .mka)) ∧
      (rdPort s R.PORT_MKA_KS_PRIO i < m.keyServerPrio → mapHas s.lnk.mkaKeys i = true → exec (.mkaFrame i m) s = .next (sendControl s i .mka)) ∧
      (rdPort s R.PORT_MKA_KS_PRIO i < m.keyServerPrio → mapHas s.lnk.mkaKeys i = false → exec (.mkaFrame i m) s =
        .next (sendControl (installed { s with freeCtr := s.freeCtr + 1 } (Config.freeWord s.freeCtr).toNat) i .mka))) ∧
    (s.pwr.water = none →
      (linkUp s i = true → exec (.portLinkChange i false) s = .next (raiseBit (updIface (wrPort (wrPort s R.PORT_STATUS_LINK i 0) R.PORT_STATUS_SPEED i 0) i
        (fun x => { x with paused := [], wire := none })) .port (i / 2) 2 (.tied EV_PORT_LINK [i % 4]))) ∧
      (linkUp s i = true → exec (.portLinkChange i true) s = .next s) ∧
      (linkUp s i = false → exec (.portLinkChange i false) s = .next s) ∧
      let split := !oneLane s && bitOf (rdF s R.PORTG_CFG_BREAKOUT) (i / 2)
      let speed := if oneLane s then 1 else if split then 2 else 3
      (linkUp s i = false → s.boot.sl0 = true → rdPort s R.PORT_CFG_ENABLE i = 1 → (i % 2 = 1 → split = true) → s.lnk.retrain = [] →
        exec (.portLinkChange i true) s = .next (raiseBit (updIface (wrPort (wrPort { s with lnk := { s.lnk with
            breakout := if split then s.lnk.breakout ||| 2 ^ (i / 2) else s.lnk.breakout &&& (3 - 2 ^ (i / 2)) } }
          R.PORT_STATUS_LINK i 1) R.PORT_STATUS_SPEED i speed) i (fun x => { x with v := 0 })) .port (i / 2) 2 (.tied EV_PORT_LINK [i + 2 ^ 8 + speed * 2 ^ 9]))))

/-- Device time (06 R121, R122, R134; 15 R333): an offset from the selected source feeds the servo, PPS on `PPS_IN` where it is the source; an Announce of
a better master replaces the interface's; a lost source means holdover; a pulse goes out at a stroke's start or a whole second.
Completes: PTP_MESSAGE, PPS_IN_EDGE, TIME_HOLDOVER, PPS_OUT_PULSE. -/
def Obligations.TimeSources : Prop :=
  ∀ s : State,
    (∀ i m, i < 4 → rdPort s R.PORT_CFG_PTP_EN i = 1 → m.transport = rdPort s R.PORT_CFG_PTP_TRANSPORT i → b2n m.p2p = rdPort s R.PORT_CFG_PTP_P2P i →
      m.domain = rdPort s R.PORT_CFG_PTP_DOMAIN i → linkUp s i = true →
      (∀ ns, m.kind = .offset ns → timeIface s = some i → exec (.ptpMessage i m) s = .next (servo s ns)) ∧
      (∀ ns, m.kind = .offset ns → timeIface s ≠ some i → exec (.ptpMessage i m) s = .next s) ∧
      (∀ d, m.kind = .announce d →
        ((∀ e, mapGet s.time.masters i = some e → e.identity = d.identity ∨ betterMaster d e = true) →
          exec (.ptpMessage i m) s = .next (choosePort { s with time := { s.time with masters := mapSet s.time.masters i d } })) ∧
        (∀ e, mapGet s.time.masters i = some e → e.identity ≠ d.identity → betterMaster d e = false → exec (.ptpMessage i m) s = .next s)) ∧
      (m.kind = .announceLost →
        exec (.ptpMessage i m) s = .next (choosePort { s with time := { s.time with masters := mapErase s.time.masters i } }))) ∧
    (∀ ns, rdF s R.STK_TIME_CFG_SRC = 4 →
      (s.time.ppsSet = false → exec (.ppsInEdge ns) s = .next (servo s ns)) ∧
      (s.time.ppsSet = true → exec (.ppsInEdge ns) s = .next (servo { s with time := { s.time with ppsSet := false } }
        (((((s.time.now + 500000000) / 1000000000 : Nat) : Int) - (rdWord s .stk 0 0 0x128 : Nat)) * 1000000000 + ns)))) ∧
    (rdF s R.STK_TIME_CFG_SRC ≠ 0 → rdF s R.STK_TIME_STATUS_LOCK ≠ 0 → exec .timeHoldover s = .next (setLock { s with time := { s.time with good := 0 } } 3)) ∧
    (rdF s R.STK_TIME_CFG_PPS_MODE = 1 → s.stk.phase = .drive → s.stk.number % max 1 (rdF s R.STK_TIME_CFG_PPS_DIV) = 0 →
      exec .ppsOutPulse s = .next { s with mod := { s.mod with ppsOut := some s.stk.start } }) ∧
    (rdF s R.STK_TIME_CFG_PPS_MODE ≠ 1 → exec .ppsOutPulse s =
      .next { s with mod := { s.mod with ppsOut := some ((s.time.now + 999999999) / 1000000000 * 1000000000) } })

/-- RoCE (15 R350 to R353): a response delivers its bytes to what asked for them (a command, a restore's anchor, a restore, a page that comes up), an acknowledgement ends a write that has gone
out whole, for a completion, an engine, or a checkpoint's shard, manifest or anchor; an invalid request is answered with a NAK; an error takes the queue pair to the error state with `EV_QP_ERROR`; a
timed-out request is sent again at most seven times; rates halve on a congestion notification and rise by steps; a marked packet is answered with a CNP.
Completes: RDMA_READ_RESPONSE, RDMA_WRITE_ACK, ROCE_INVALID_REQUEST, QP_ERROR, LOCAL_ACK_TIMEOUT, CNP_RX, ECN_MARKED_RX, ROCE_RATE_RAISE. -/
def Obligations.RocePairs : Prop :=
  ∀ (s : State) (q : Nat) (x : Qp), qpOf s q = some x →
    (∀ id r data, mapGet s.lnk.reads id = some r → r.qp = q → r.asked = true → data.length = r.len → x.err = false →
      let u := updQp { s with lnk := { s.lnk with reads := mapErase s.lnk.reads id } } q (fun x => { x with retries := 0, rnrRetries := 0 })
      (∀ c, r.use = .command c → exec (.rdmaReadResponse id data) s = .next (qpClose (commandData u c data) q)) ∧
      (∀ t, r.use = .anchor t → exec (.rdmaReadResponse id data) s = .next (qpClose (anchorRead u t data) q)) ∧
      (∀ j off, r.use = .restore j off → exec (.rdmaReadResponse id data) s = .next (qpClose (restArrived u j off data) q)) ∧
      (∀ p, r.use = .copyUp p → exec (.rdmaReadResponse id data) s = .next (qpClose (lazyArrived u p data) q))) ∧
    (∀ id w, mapGet s.lnk.writes id = some w → w.qp = q → x.err = false → writePkts x w ≤ w.pkts →
      (∀ e ∈ s.eg.queues, ∀ f ∈ e.2.frames, ∀ n, f.fr ≠ .write id n) →
      let u := updQp { s with lnk := { s.lnk with writes := mapErase s.lnk.writes id } } q (fun x => { x with retries := 0, rnrRetries := 0 })
      (∀ d, w.use = .now d → exec (.rdmaWriteAck id) s = .next (qpClose (sendCpl u d) q)) ∧
      (∀ e d, w.use = .engine e d → exec (.rdmaWriteAck id) s = .next (qpClose (sendCpl (engineFree u e) d) q)) ∧
      (∀ j n, w.use = .shard j n → exec (.rdmaWriteAck id) s = .next (qpClose (shardAck u j n) q)) ∧
      (∀ j n, w.use = .manifest j n → exec (.rdmaWriteAck id) s = .next (qpClose (manifestAck u j n) q)) ∧
      (∀ j, w.use = .anchor j → exec (.rdmaWriteAck id) s = .next (qpClose (anchorAck u j) q))) ∧
    (x.err = false → exec (.roceInvalidRequest q) s = .next (sendQp s q (.nak q 4) 4)) ∧
    (∀ syn, 1 ≤ syn → syn ≤ 5 → x.err = false → exec (.qpError q syn) s = .next (qpClose (restQpError (ckpQpError (qpSweep
      (sendEvent (updQp s q (fun x => { x with err := true })) (pageOf .bwp 0) EV_QP_ERROR [q + syn * 2 ^ 16] [x.dom])) q) q) q)) ∧
    (∀ rnr, s.lnk.reads = [] → s.lnk.writes = [] → exec (.localAckTimeout q rnr) s = .next s) ∧
    (∀ id r, s.lnk.reads = [(id, r)] → r.qp = q → r.asked = true → s.lnk.writes = [] → x.err = false →
      (7 ≤ x.retries → exec (.localAckTimeout q false) s = .next (qpFail s q 1)) ∧
      (x.retries < 7 → ∃ t, exec (.localAckTimeout q false) s = .next t ∧ mapGet t.lnk.reads id = some { r with asked := false } ∧
        qpOf t q = some { x with retries := x.retries + 1 })) ∧
    exec (.cnpRx q) s = .next (cnt (updQp s q (fun x => { x with rate := x.rate / 2 })) R.BWP_QP_CNP_RX 1) ∧
    (∀ time, x.err = false → (∀ u, x.lastCnp = some u → u + 50000 ≤ time) → exec (.ecnMarkedRx q time) s =
      .next (sendQp (updQp s q (fun x => { x with lastCnp := some time })) q (.cnp q) 16)) ∧
    exec (.roceRateRaise q) s = .next (updQp s q (fun x => { x with rate := min 10000 (x.rate + 100) }))

/-- Egress (16 R357, R359, R363; 15 R331): an interface that is free starts the frame that the scheduler selects, link-control frames first; the gate list moves to
its next entry, and its last entry stands until the boundary; a pause ends.
Completes: EGRESS_SELECT, GCL_ENTRY_ADVANCE, PAUSE_TIME_EXPIRY. -/
def Obligations.EgressServes : Prop :=
  ∀ (s : State) (i : Nat), i < 4 →
    (∀ time, s.pwr.water = none → linkUp (linkPump (timeAt s time)) i = true →
      ∀ u fr, selectFrame (pumpRoce (linkPump (timeAt s time)) i) i time = (u, some fr) →
        exec (.egressSelect i time) s = .next (updIface (spellFrame u fr).1 i (fun x => { x with wire := some (fr, (spellFrame u fr).2) }))) ∧
    (∀ time f fs, (ifaceOf s i).ctl = f :: fs → selectFrame s i time = (setIface s i { ifaceOf s i with ctl := fs }, some f)) ∧
    (s.stk.phase ≠ .idle → (ifaceOf s i).entry + 1 < (gateSpans s.stk.length 0 (ifaceOf s i).gates).length →
      exec (.gclEntryAdvance i) s = .next (setIface s i { ifaceOf s i with entry := (ifaceOf s i).entry + 1 })) ∧
    (s.stk.phase ≠ .idle → (gateSpans s.stk.length 0 (ifaceOf s i).gates).length ≤ (ifaceOf s i).entry + 1 → exec (.gclEntryAdvance i) s = .next s) ∧
    (∀ prio, prio < 8 → exec (.pauseTimeExpiry i prio) s = .next (updIface s i (fun x => { x with paused := setDel x.paused prio })))

/-! ### Power (18) and the module (23) -/

/-- The input voltage (18 Table 18-1, R401): each band is seen in `PWR_IN`; a band outside 54 to 63 V is told once by `EV_PWR_RANGE`; below 50 V, above 64.5 V
and with `PWR_EN` deasserted the Hold-water sequence begins. A voltage outside its row's band changes nothing.
Completes: INPUT_RANGE_LOW, INPUT_RANGE_HIGH, INPUT_IN_RANGE, POWER_LOSS, OVER_VOLTAGE, PWR_EN_DEASSERT. -/
def Obligations.InputVoltage : Prop :=
  ∀ (s : State) (mv : Nat),
    (50000 ≤ mv → mv < 54000 → s.pwr.rangeLow = false →
      exec (.inputRangeLow mv) s = .next (rangeEvent { seeVolt s mv with pwr := { s.pwr with rangeLow := true, rangeHigh := false } })) ∧
    (63000 < mv → mv ≤ 64500 → s.pwr.rangeHigh = false →
      exec (.inputRangeHigh mv) s = .next (rangeEvent { seeVolt s mv with pwr := { s.pwr with rangeHigh := true, rangeLow := false } })) ∧
    (54000 ≤ mv → mv ≤ 63000 → exec (.inputInRange mv) s = .next (seeVolt { s with pwr := { s.pwr with rangeLow := false, rangeHigh := false } } mv)) ∧
    (mv < 54000 ∨ 63000 < mv → exec (.inputInRange mv) s = .next s) ∧
    (50000 ≤ mv → exec (.powerLoss mv) s = .next s) ∧
    (mv ≤ 64500 → exec (.overVoltage mv) s = .next s) ∧
    (s.mod.pwrGood = true → s.pwr.water = none →
      (mv < 50000 → ∃ t, exec (.powerLoss mv) s = .next t ∧ t.pwr.water = some 1 ∧ t.stk.commits = [] ∧ t.out.cpls = []) ∧
      (64500 < mv → ∃ t, exec (.overVoltage mv) s = .next t ∧ t.pwr.water = some 2 ∧ t.stk.commits = [] ∧ t.out.cpls = []) ∧
      (∃ t, exec .pwrEnDeassert s = .next t ∧ t.pwr.water = some 3 ∧ t.mod.pwrEn = false ∧ t.stk.commits = [] ∧ t.out.cpls = []))

/-- Hold-up (18 R392 to R400): a test starts where one is due and uses three quarters of the budget until its result, which before strokes begin is installed at
once; a retest timer makes one due; journal bytes are written up to those appended; the sequence's end resets the device, with the record of what was sealed
and lost after a trigger of Table 18-1; a fault of the power stages resets it without a sequence (the model's choice, notes/assumptions/86.md).
Completes: HOLDUP_TEST, HOLDUP_TEST_RESULT, HOLDUP_RETEST_TIMER, JOURNAL_TAIL_WRITTEN, HOLD_WATER_END, POWER_STAGE_FAULT. -/
def Obligations.HoldUp : Prop :=
  ∀ s : State,
    (s.pwr.testing = false → s.pwr.hold = 0 →
      ∃ t, exec .holdupTest s = .next t ∧ t.pwr.testing = true ∧ t.pwr.testBudget = some (budgetPages s) ∧ t.pwr.retestDue = false) ∧
    (s.pwr.testing = true → ∀ c r, exec (.holdupTestResult c r) s = .next (if s.stk.phase = .idle then installResult { s with pwr := { s.pwr with result := some (c, r) } }
      else { s with pwr := { s.pwr with result := some (c, r) } })) ∧
    (rdF s R.PWR_CFG_RETEST_H ≠ 0 → s.pwr.testing = false → exec .holdupRetestTimer s = .next { s with pwr := { s.pwr with retestDue := true } }) ∧
    (∀ n, exec (.journalTailWritten n) s = .next { s with pwr := { s.pwr with tailOut := min s.pwr.tailIn (s.pwr.tailOut + n) } }) ∧
    (∀ us mv n, s.pwr.water = none → exec (.holdWaterEnd us mv n) s = .next s) ∧
    (∀ us mv n cause, s.pwr.water = some cause → cause ≠ 0 → ∃ t x, exec (.holdWaterEnd us mv n) s = .next t ∧ t.mod.pwrGood = false ∧ t.boot.hw = some x ∧
      x.cause = cause ∧ x.us = us ∧ x.mv = mv ∧ x.stroke = s.pwr.lastFinish ∧ x.lost = (flushOrder s).length - min n (flushOrder s).length ∧
      (x.complete = true ↔ (flushOrder s).length ≤ n)) ∧
    (s.mod.pwrGood = true → ∃ t, exec .powerStageFault s = .next t ∧ t.mod.pwrGood = false)

/-- The module's pins, converters and sideband (23 R482 to R491, 22 R464): `PWR_GOOD` rises in the operating range with `PWR_EN`; a reset source arms its cause and starts the
steps before a reset; the Umpire is powered with the housekeeping converter; the coolant's outlet above 65 °C is an alert; the sideband answers only while it is fed.
Completes: POWER_ON_RESET, RST_N_RESET, WATCHDOG_EXPIRY, RST_N_RELEASE, PWR_EN_ASSERT, HOUSEKEEPING_POWER_ON, HOUSEKEEPING_POWER_OFF, COOLANT_OUTLET_HIGH, COOLANT_OUTLET_NORMAL, I2C_TRANSACTION. -/
def Obligations.ModulePins : Prop :=
  ∀ s : State,
    (s.mod.pwrGood = false → s.mod.pwrEn = true → s.pwr.water = none → 54000 ≤ s.mod.inputMv → s.mod.inputMv ≤ 63000 →
      exec .powerOnReset s = .next { s with mod := { s.mod with pwrGood := true } }) ∧
    (s.mod.pwrGood = true → s.pwr.water = none → s.pwr.resetCause = none →
      (∃ t, exec .rstNReset s = .next t ∧ t.pwr.resetCause = some 2 ∧ t.pwr.water = some 0 ∧ t.mod.rstN = false) ∧
      (∃ t, exec .watchdogExpiry s = .next t ∧ t.pwr.resetCause = some 4 ∧ t.pwr.water = some 0)) ∧
    (s.mod.pwrGood = true → ∀ k, s.pwr.resetCause = some k → s.pwr.water.isSome → exec .watchdogExpiry s = .next s) ∧
    exec .rstNRelease s = .next { s with mod := { s.mod with rstN := true } } ∧
    exec .pwrEnAssert s = .next { s with mod := { s.mod with pwrEn := true } } ∧
    (s.mod.hk = false → exec .housekeepingPowerOn s = .next (umpPowerOn { s with mod := { s.mod with hk := true } })) ∧
    (s.mod.pwrGood = false → exec .housekeepingPowerOff s = .next (umpOff { s with mod := { s.mod with hk := false, sbOff := 0, sbOut := [] } })) ∧
    (∀ c, 65 < c → exec (.coolantOutletHigh c) s = .next { s with mod := { s.mod with outletC := c, coolantHigh := true } }) ∧
    (∀ c, c ≤ 65 → exec (.coolantOutletNormal c) s = .next { s with mod := { s.mod with outletC := c, coolantHigh := false } }) ∧
    (s.mod.hk = false → ∀ off n, exec (.i2cTransaction off n) s = .next s) ∧
    (s.mod.hk = true → ∀ off n, ∃ t, exec (.i2cTransaction off n) s = .next t ∧ t.mod.sbOut = sbBytes s (off % 256) n ∧ t.reg = s.reg ∧ t.out = s.out)

/-- `SEAL_OK` is high exactly while the Umpire runs and its tamper latch is clear (23 R487). -/
def Obligations.SealOkPin : Prop :=
  ∀ s : State, ((pins s).sealOk = true ↔ s.ump.run = .running ∧ s.ump.tamper = false)

/-! ### The Umpire's own events (19) -/

/-- What reaches the Umpire (19 R406 to R417): a frame while it counts; the period's end, at its stroke, which closes the receipt of every tenant whose earlier ones are signed and brings a new period and new
firmware into force; the signature of a tenant's oldest
receipt, sent to the tenant's domains; an opened cover, latched and told; an authorised seal clears the latch; the self-test's result, after which the requests that
waited for the Umpire are served; the link.
Completes: TALLY_FRAME, RECEIPT_PERIOD_END, RECEIPT_SIGNED, TAMPER_OPEN, SEAL_RECORD, UMP_SELF_TEST_END, TALLY_LINK_UP. -/
def Obligations.UmpireEvents : Prop :=
  ∀ s : State,
    (∀ f, umpUp s = true → exec (.tallyFrame f true) s = .next (countFrame { s with ump := { s.ump with wire := s.ump.wire.drop 1 } } f)) ∧
    (∀ f ok, umpUp s = false → exec (.tallyFrame f ok) s = .next s) ∧
    (∀ ns, s.ump.run = .running → s.ump.lastStroke % max 1 s.ump.period = 0 →
      ∃ u v, exec (.receiptPeriodEnd ns) s = .next { v with ump := { v.ump with period := s.ump.nextPeriod.getD s.ump.period, nextPeriod := none } } ∧
        v = (umpTenants u).foldl (fun s t => if allSigned s t then closeReceipt s t else s) u ∧
        u.ump.clockBad = clockOff ns (s.ump.lastDev - s.ump.periodDev) ∧ u.ump.periodDev = s.ump.lastDev ∧ u.ump.newFw = none ∧
        u.ump.updated = s.ump.newFw.isSome ∧ u.ump.fwHash = s.ump.newFw.getD s.ump.fwHash ∧ u.ump.receipts = s.ump.receipts ∧ u.ump.meters = s.ump.meters ∧
        u.ses = s.ses ∧ u.out = s.out) ∧
    (∀ t r, s.ump.run = .running → s.ump.receipts.find? (fun r => r.tenant == t && r.bytes.isNone) = some r →
      ∃ u w, exec (.receiptSigned t) s = .next u ∧ u.ump.receipts = s.ump.receipts.map (fun q => if q = r then { q with bytes := some w } else q) ∧
        u.out.rcpts = s.out.rcpts ++ (tenantDoms s t).map (fun d => (d, w)) ∧ (umpTen u t).prevHash = sha256 w) ∧
    (s.ump.run = .running → ∃ t, exec .tamperOpen s = .next t ∧ t.ump.tamper = true ∧ t.ump.tamperDue = false) ∧
    (s.ump.run ≠ .running → s.ump.run ≠ .selfTest → exec .tamperOpen s = .next { s with ump := { s.ump with tamper := true, tamperDue := true } }) ∧
    (∀ n, s.ump.run = .running → ∃ t, exec (.sealRecord n true) s = .next t ∧ t.ump.tamper = false ∧ t.ump.sealNo = n % 2 ^ 32) ∧
    (∀ n, exec (.sealRecord n false) s = .next s) ∧
    (s.ump.run = .selfTest → ∃ u : State, u.ump.run = .running ∧ u.ump.receipts = s.ump.receipts ∧ u.ump.requests = s.ump.requests ∧ u.ses = s.ses ∧
      exec (.umpSelfTestEnd true) s = .next (s.ump.requests.foldl (fun s e => umpServe s e.1 e.2) { u with ump := { u.ump with requests := [] } })) ∧
    (s.ump.run = .selfTest → ∃ t, exec (.umpSelfTestEnd false) s = .next t ∧ t.ump.run = .fault ∧ t.ump.requests = s.ump.requests ∧ t.ses = s.ses) ∧
    (s.ump.run ≠ .off → exec .tallyLinkUp s = .next { s with ump := { s.ump with link := true, gapStrokes := [], expSeq := s.ump.seq, expStroke := none } })

/-! ### Bring-up and clocks (22) -/

/-- Bring-up (22 R467 to R476): slots that verify take the device to SL0, and none that verifies leaves it in reset with its code; lanes train, a third failure fences; images
stand again once every lane is trained or fenced; at SL1 strokes begin at number 0; coverage brings a lane online; the end of the advice's cold start changes nothing by itself (22 Table 22-2: advice is held back by the stroke's number); a lost lock stops
grants, a relock is counted, and a lock that stays away resets the device.
Completes: SL0_REACHED, LANE_TRAINING_DONE, IMAGE_REINSTALL, SL1_REACHED, LANE_ONLINE, ADVICE_COLD_END, PLL_LOCK_LOSS, PLL_RELOCK, CLOCK_FAULT_RESET. -/
def Obligations.BringUp : Prop :=
  ∀ s : State,
    (s.boot.sl0 = false → s.mod.pwrGood = true → s.mod.rstN = true → s.pwr.water = none → s.stk.phase = .idle →
      (pickSlot (s.sec.fws.map (fun f => (f.version, f.valid))) s.sec.fwCtr = none → exec .sl0Reached s = .next { s with boot := { s.boot with fail := 1 } }) ∧
      (∀ i k f r, pickSlot (s.sec.fws.map (fun f => (f.version, f.valid))) s.sec.fwCtr = some i → pickSlot (s.sec.rigs.map (fun r => (r.version, r.valid))) s.sec.rigCtr = some k →
        s.sec.fws[i]? = some f → s.sec.rigs[k]? = some r → r.unwraps = true →
        exec .sl0Reached s = .next (bootImages { s with boot := { s.boot with fail := 0 } } i k f r))) ∧
    (∀ lane, lane < 10 → s.boot.sl0 = true → s.boot.fail = 0 → s.stk.phase = .idle → laneTrained s lane = false →
      exec (.laneTrainingDone lane true) s = .next (wrF s R.BOOT_LANES_TRAINED (rdF s R.BOOT_LANES_TRAINED ||| 2 ^ lane)) ∧
      ((mapGet s.boot.train lane).getD 0 = 2 → exec (.laneTrainingDone lane false) s =
        .next (bootFence { s with boot := { s.boot with train := mapSet s.boot.train lane 3 } } (unitId 6 lane) 12))) ∧
    (s.boot.sl0 = true → s.boot.fail = 0 → s.boot.installed = false → s.stk.phase = .idle → (∀ k, k < 10 → laneTrained s k = true ∨ laneFenced s k = true) →
      ∃ t, exec .imageReinstall s = .next t ∧ t.boot.installed = true ∧ t.boot.plans = [] ∧ t.boot.sets = [] ∧ t.boot.vocabs = [] ∧ t.boot.grms = [] ∧
        t.boot.tabs = [] ∧ t.ses = s.ses ∧ t.stk.phase = .idle ∧
        (∀ e ∈ t.txt.recs, grmHeld t e.2 = false → e.2.rejected = true)) ∧
    (s.boot.sl0 = true → s.boot.fail = 0 → s.boot.installed = true → s.pwr.hold ≠ 0 → s.pwr.testing = false → s.pwr.water = none → s.stk.phase = .idle →
      ∃ t, exec .sl1Reached s = .next t ∧ t.stk.phase = .boundary ∧ t.stk.number = 0 ∧ t.stk.begun = false ∧ t.boot.hw = none) ∧
    (∀ lane, lane < 10 → s.stk.phase ≠ .idle → rdF s R.BOOT_LANES_COVERING = lane → lane ∉ s.boot.ready → laneFenced s lane = false →
      exec (.laneOnline lane) s = .next { s with boot := { s.boot with
        ready := s.boot.ready ++ [lane], covered := if rdF s R.BOOT_CFG_QUICK = 0 then setAdd s.boot.covered lane else s.boot.covered } }) ∧
    exec .adviceColdEnd s = .next s ∧
    (∀ pll, pll < 4 → s.boot.sl0 = true →
      exec (.pllLockLoss pll) s = .next (stopLegs { clkLock s pll false with gov := { (clkLock s pll false).gov with pllOk := false } } (fun _ => true)) ∧
      (bitOf (rdWord s .clk 0 0 0x100) pll = false → ∃ t, exec (.pllRelock pll) s = .next t ∧
        t = { raiseBit (cnt (clkLock s pll true) R.CLK_RELOCK_COUNT 1) .clk 0 2 .plain with gov := t.gov } ∧ t.gov.pllOk = allLocked t) ∧
      (bitOf (rdWord s .clk 0 0 0x100) pll = false → exec (.clockFaultReset pll) s = .next (askReset s 5)) ∧
      (bitOf (rdWord s .clk 0 0 0x100) pll = true → exec (.clockFaultReset pll) s = .next s))

/-! ### Lanes and blades (07, 08, 10), the Mover (05), the stroke (06) -/

/-- The governor's events of a lane (08 R183 to R188): the slow loop moves `adapt` by 1 W, down to 16 W where the prediction is above the target and up to `CAP_W` where it is more than
3 °C below, in `FLOATING` only and 64 strokes after its last turn; `hot` is set at the limit and clears below `CLEAR_C`, with a trip; a trip is told once; the sprint's hold returns the lane to
`FLOATING`; the cold start ends. A reading short of its threshold changes nothing.
Completes: SLOW_THERMAL_LOOP, LANE_HOT_SET, LANE_HOT_CLEAR, LANE_TEMP_TRIP, SPRINT_HOLD_END, COLD_START_END. -/
def Obligations.GovernorEvents : Prop :=
  ∀ (s : State) (k : Nat), k < 10 →
    (∀ t, (rdI s R.LANE_GOV_MODE k ≠ 0 ∨ s.stk.number < (mapGet s.gov.slowAt k).getD 0 + 64) → exec (.slowThermalLoop k t) s = .next s) ∧
    (∀ t, rdI s R.LANE_GOV_MODE k = 0 → (mapGet s.gov.slowAt k).getD 0 + 64 ≤ s.stk.number →
      let target := max 70 (min 90 (rdI s R.LANE_GOV_TARGET_C k))
      let moved := fun (a : Nat) => Outcome.next (φ := Fault) (ρ := Refusal)
        (wrI (wrI { s with gov := { s.gov with slowAt := mapSet s.gov.slowAt k s.stk.number } } R.LANE_TEMP_PREDICT k (min t 255)) R.LANE_ADAPT_CAP k a)
      (target < t → exec (.slowThermalLoop k t) s = moved (max 160 (adaptOf s k - 10))) ∧
      (t + 3 < target → exec (.slowThermalLoop k t) s = moved (min (capProg s k) (adaptOf s k + 10))) ∧
      (t ≤ target → target ≤ t + 3 → exec (.slowThermalLoop k t) s = moved (adaptOf s k))) ∧
    (∀ die t, t < rdI s R.LANE_THERM_LIMIT_C k → exec (.laneHotSet k die t) s = .next s) ∧
    (∀ die t, rdI s R.LANE_THERM_LIMIT_C k ≤ t → exec (.laneHotSet k die t) s = .next (setHot (seeTemp s k die t) k)) ∧
    (∀ t, t < rdI s R.LANE_THERM_CLEAR_C k → ∃ u, exec (.laneHotClear k t) s = .next u ∧ k ∉ u.gov.trips ∧ u.ses = s.ses ∧ u.stk = s.stk) ∧
    (∀ die t, rdI s R.LANE_THERM_TRIP_C k ≤ t → laneTripped (setHot (seeTemp s k die t) k) k = false →
      ∃ u, exec (.laneTempTrip k die t) s = .next u ∧ k ∈ u.gov.trips ∧ u.gov.alarm = true ∧ u.ses = s.ses) ∧
    (rdI s R.LANE_GOV_MODE k = 1 → rdI s R.LANE_GOV_STATUS_HOLD_LEFT k = 0 →
      let u := { s with gov := { s.gov with slowAt := mapSet s.gov.slowAt k s.stk.number } }
      exec (.sprintHoldEnd k) s = .next (raiseBit
        (wrI (wrI (wrI u R.LANE_GOV_MODE k 0) R.LANE_GOV_STATUS_HOLD_LEFT k 0) R.LANE_ADAPT_CAP k (capProg s k)) .lane k 5 (.tied EV_GOV_HOLD_END [k]))) ∧
    (k ∈ s.gov.cold → rdI s R.LANE_COLD_LEFT k = 0 → exec (.coldStartEnd k) s =
      .next (raiseBit { s with gov := { s.gov with cold := setDel s.gov.cold k } } .lane k 6 (.tied EV_LANE_COLD_END [k])))

/-- What runs in a drive (07 R143 to R147, 08 R169 to R177; 10 R215, R221). A blade that is granted no leg pulls nothing; one whose next entry is a pull that can
start executes it and goes on to the next pull, and one whose pull cannot start is stalled; a blade at the end of its list is idle, and its leg no longer counts it; one that has entries
left goes on. The lane bus
carries schedules before ships, and ships before switches. A group's next instruction ends and its time is counted, and a fault of its engine poisons
the leg. A refresh falls due: the blade clock comes to the due point, and the slot is taken
at once where the bank is idle, noted otherwise. A Control-die slot waits for a frame that a leg owns, is deferred and counted where a busy blade's window has no room, and otherwise
writes its row and is charged to the window. An index entry is built where its pages fit.
Completes: BLADE_PULL, LEG_END, LANE_BUS_TRANSFER, COMBINE_INSTRUCTION, REFRESH_DUE, CONTROL_DIE_SLOT, INDEX_BUILD. -/
def Obligations.DriveWork : Prop :=
  ∀ s : State,
    (∀ g flips parity, g < 81920 → legFor s g = none → exec (.bladePull g flips parity) s = .next s ∧ exec (.legEnd g) s = .next s) ∧
    (∀ g flips parity k l p, g < 81920 → legFor s g = some k → legOf (takeLeg s k g) k = some l → legPlan (takeLeg s k g) l = some p →
      let n := (legEntries (takeLeg s k g) k g).length
      let u := runToPull k g p l n n (takeLeg s k g)
      let i := (runOf u g).at_
      let e := storedEnt u p l.leg g i
      (i < n → pullReady u k g p l n i e = true →
        let c := maxOf ((passSlots e).map (fun q => entStreams e (slotFmt u g q)))
        exec (.bladePull g flips parity) s = .next (runToPull k g p l n n
          (runPull (refreshSlot (updRun u g (fun r => { r with stalled := false })) l g c) k g n i p l e flips parity))) ∧
      (i < n → pullReady u k g p l n i e = false →
        exec (.bladePull g flips parity) s = .next (idleSlot (updRun u g (fun r => { r with stalled := true })) (bankOf g))) ∧
      (n ≤ i → exec (.bladePull g flips parity) s = .next (updRun u g (fun r => { r with stalled := false }))) ∧
      (i < n → exec (.legEnd g) s = .next s) ∧
      (n ≤ i → ∃ v, v = updLeg (updRun u g (fun r => { r with leg := none, at_ := 0, words := [], pairs := [], stalled := false, kbase := 0, sblk := 0 })) k
          (fun l => { l with openBlades := setDel l.openBlades g }) ∧
        exec (.legEnd g) s = .next (reduceFigures (closeTags (idleSlot v (bankOf g)) k (bladeLane g)) (bladeLane g)))) ∧
    (∀ pc parity k x, pc < 640 → nextSched s pc = some (k, x) → exec (.laneBusTransfer pc parity) s = .next (doSched s pc k x parity)) ∧
    (∀ pc parity g x xs, pc < 640 → nextSched s pc = none → nextShip s pc = some (g, x, xs) → exec (.laneBusTransfer pc parity) s = .next (doShip s pc g x xs parity)) ∧
    (∀ pc parity w, pc < 640 → nextSched s pc = none → nextShip s pc = none → mapGet s.crw.switches (pc / 64) = some w → pc ∈ w.whole → pc ∉ w.failed → movedOf w pc < 128 →
      exec (.laneBusTransfer pc parity) s = .next (doSwitchBus s pc w parity)) ∧
    (∀ leg g l i fault, g < 16 → legOf s leg = some l → (cmbProg s l g)[(mapGet l.cmbPc g).getD 0]? = some i → l.stopped = false → g ∈ l.openGroups →
      (∀ d, Config.namedDtag i.op i.src i.dst = some d → resultsHere s leg l g d = true) →
      let at_ := (mapGet l.cmbPc g).getD 0
      let ran := cmbRun s leg l g at_ i
      let ended := { updLeg ran leg (fun m => { m with
          cmbPc := mapSet m.cmbPc g (at_ + 1)
          openGroups := if at_ + 1 < (cmbProg s l g).length then m.openGroups else setDel m.openGroups g }) with
        bld := { ran.bld with cmbNs := mapSet ran.bld.cmbNs g ((mapGet ran.bld.cmbNs g).getD 0 + ceilDiv (10638 * cmbClocks i (groupEngines s g)) 10000) } }
      exec (.combineInstruction leg g fault) s = .next (match fault with
        | none => ended
        | some e => noteErr (recordErr (cntI (poisonLeg ended leg none) R.CMBG_POISON_LEGS g 1) .cmbg g (e % 8) E_CMB_CHECK)
            { cls := 8, unit := unitId 7 (g * 8 + e % 8), code := E_CMB_CHECK })) ∧
    (∀ lane bank, lane < 10 → bank < 4096 →
      let b := lane * 4096 + bank
      let due := nextDue bank (mapGet s.bld.lastDue b)
      let u := { s with bld := { s.bld with clock := max s.bld.clock due, lastDue := mapSet s.bld.lastDue b due } }
      (s.lnk.selfRefresh = true → exec (.refreshDue lane bank) s = .next u) ∧
      (s.lnk.selfRefresh = false →
        let v := setOwed u b (min 8 (owedOf s b + 1))
        exec (.refreshDue lane bank) s = .next (if bankIdle v b then idleSlot v b else forceSlot (forceSlot v (lane * 8192 + 2 * bank)) (lane * 8192 + 2 * bank + 1)))) ∧
    (∀ g row wr flips, g < 81920 → row < 8192 →
      (frameOwned s (frameOf g (row / 64)) = true → exec (.controlDieSlot g row wr flips) s = .next s) ∧
      (frameOwned s (frameOf g (row / 64)) = false → bladeIdle s g = false → 1099 < slotCharge s g + 141 + 280 →
        exec (.controlDieSlot g row wr flips) s = .next (cntI s R.PCH_CSLOT_DEFERRED (bladePc g) 1)) ∧
      (∀ bs, frameOwned s (frameOf g (row / 64)) = false → wr = some bs → (bladeIdle s g = true ∨ slotCharge s g + 141 + 280 ≤ 1099) →
        let u := chargeSlot (if bladeIdle s g then s else cntI s R.PCH_CSLOT_GRANTED (bladePc g) 1) 141 g
        exec (.controlDieSlot g row wr flips) s = .next (touchFrame (writeFrame u (frameOf g (row / 64)) (row % 64 * 1024) (bs.take 1024)) (frameOf g (row / 64))))) ∧
    (∀ sid x p e sp layer d u, sesOf s sid = some x → sesPlan s x = some p → mapGet x.pl (x.plKey sp layer) = some e → unsummarised x sp layer = true →
      (∀ q, pteOf s e.page = some q → q.h = true → frameOwned s q.hFrame = false) →
      readPage s e.page 0 65536 = some d → placeIndex s x.d.tenant (freshIndex s x p.hdr (sp + 1)) = some u → dirtyFits u 2 = true →
      exec (.indexBuild sid sp layer) s = .next (cnt (putEntry (setSes u sid { x with index := mapSet x.index (x.plKey sp layer) (summaryOf p.hdr d) })
        x p.hdr (x.plKey sp layer) (summaryOf p.hdr d)) R.CMB_LC_IDX_BUILT 1))

/-- A page that a Mover entry has copied is staged for the finish, where it stands at its destination, and the entry counts it (05 R92, R97, R105); a page that the entry does not copy
changes nothing, and one in a frame that a leg owns waits (07 R147). The first access to a page of a folded leaf unfolds it: it is no longer listed as folded (05 R90).
Completes: MOVER_PAGE_COPIED, LEAF_UNFOLD. -/
def Obligations.MoverCopies : Prop :=
  (∀ (s : State) (id p : Nat) (o : OpEnt), opOf s id = some o →
    (p ∉ o.flying → ∀ r, exec (.moverPageCopied id p r) s = .next s) ∧
    (pageOwned s p = true → ∀ r, exec (.moverPageCopied id p r) s = .next s) ∧
    (∀ ver cells, p ∈ o.flying → lazyPage s p = false → pageOwned s p = false → copyCells s o p = some (ver, cells) → o.kind ≠ 0xE →
      exec (.moverPageCopied id p .done) s = .next (stage (setOp s id { o with
        flying := o.flying.filter (· != p), done := if mapHas o.got p then o.done else o.done + 1, copied := o.copied + 1,
        got := mapSet o.got p ver, vers := mapSet o.vers p ver }) (.landed id p 0 ver cells)))) ∧
  (∀ (s : State) (leaf : Nat), exec (.leafUnfold leaf) s = .next { s with tier := { s.tier with folded := s.tier.folded.filter (· != leaf) } })

/-- A catch (06 R123, R126): the stroke number rises by one, from 0 for the first; the drive begins, at the boundary that the last stroke's length and a step of device time that
waited give, and device time stands there; then the units and the commands take their turn. Nothing happens in a drive, before strokes begin, or while a Hold-water sequence runs (18
R397).
Completes: STROKE_CATCH. -/
def Obligations.StrokeCatches : Prop :=
  ∀ (s : State) (w : Nat),
    (s.pwr.water.isSome ∨ s.stk.phase ≠ .boundary → exec (.strokeCatch w) s = .next s) ∧
    (s.pwr.water = none → s.stk.phase = .boundary →
      ∃ t, exec (.strokeCatch w) s = .next t ∧ t.stk.phase = .drive ∧ t.stk.begun = true ∧
        t.stk.number = (if s.stk.begun then s.stk.number + 1 else 0) ∧
        (s.stk.begun = true → t.stk.start = (((s.stk.start + s.stk.length : Nat) : Int) + s.time.stepBy.getD 0).toNat)) ∧
    (s.pwr.water = none → s.stk.phase = .boundary → s.stk.begun = true → ∃ b, b.stk.number = s.stk.number + 1 ∧ b.stk.phase = .drive ∧
      b.stk.start = (((s.stk.start + s.stk.length : Nat) : Int) + s.time.stepBy.getD 0).toNat ∧ b.time.now = b.stk.start ∧ b.stk.commits = s.stk.commits ∧
      b.ses = s.ses ∧ b.tier = s.tier ∧ b.out = s.out ∧ exec (.strokeCatch w) s = .next (catchWork (catchUnits (setLength (delayedCatch b)) w))) ∧
    (s.pwr.water = none → s.stk.phase = .boundary → s.stk.begun = false → ∃ b, b.stk.number = 0 ∧ b.stk.phase = .drive ∧ b.ses = s.ses ∧
      exec (.strokeCatch w) s = .next (catchWork (catchUnits (setLength (delayedCatch b)) w)))

/-- A finish (06 R126, R127; 03 R42): after the legs and the faults of the stroke, every commit takes effect at once, in the order in which it was staged, idleness and unloads last; then the
tables, the rights and the figures follow, and the recovery sends the completions: the phase is the boundary, and device time stands at the stroke's end. While the Umpire cannot count, the commits
that it would count wait for a later finish (19 R406). Nothing happens outside a drive or while a Hold-water sequence runs (18 R397).
Completes: STROKE_FINISH. -/
def Obligations.StrokeFinishes : Prop :=
  ∀ (s : State) (fj : List Nat),
    (s.pwr.water.isSome ∨ s.stk.phase ≠ .drive → exec (.strokeFinish fj) s = .next s) ∧
    (s.pwr.water = none → s.stk.phase = .drive → (finishLegs (governCounts s)).pwr.water = none →
      let legs := finishLegs (governCounts s)
      let counted := legs.stk.commits.filter (fun k => (meteredSid k).isSome)
      let last := fun (k : Commit) => match k with | .idle _ | .planUnload _ | .tableUnload _ => true | _ => false
      let commits := fun (ks : List Commit) (u : State) => (ks.filter (fun k => !last k) ++ ks.filter last).foldl applyCommit u
      let after := fun (done : State) =>
        let first := takeTouched [] done
        Outcome.next (φ := Fault) (ρ := Refusal) (recovery (finishFigures s
          (finishRights s (takeTouched first.1 (damagedFinish (finishTables first.2))).2) fj))
      (∃ t, exec (.strokeFinish fj) s = .next t ∧ t.stk.phase = .boundary ∧ t.stk.number = s.stk.number) ∧
      (umpUp legs = true → exec (.strokeFinish fj) s =
        after (commits legs.stk.commits { legs with stk := { legs.stk with commits := [] }, ump := { legs.ump with waits := [] } })) ∧
      let waits := (counted.filterMap meteredSid).foldl (fun m sid => mapSet m sid ((mapGet m sid).getD 0 + 1)) legs.ump.waits
      (umpUp legs = false → exec (.strokeFinish fj) s =
        after (commits (legs.stk.commits.filter (fun k => (meteredSid k).isNone))
          { legs with stk := { legs.stk with commits := counted }, ump := { legs.ump with waits := waits } })))
end

