-- ==== Sys2Proof/Laws/Maps.lean ====
section
/-! SUPPORT. The laws of the canonical tables: every operation keeps keys strictly rising (and byte arrays free of entries equal to what an
unlisted index reads as), a read after a write to the same key gives the value written, and a write leaves every other key alone. -/

namespace Sys2Proof.Machine

/-- The canonical form as a statement about pairs of entries. -/
theorem mapWf_iff {α : Type} (m : Map α) : mapWf m = true ↔ m.Pairwise (fun a b => a.1 < b.1) := by
  induction m with
  | nil => simp [mapWf]
  | cons e m ih =>
    cases m with
    | nil => simp [mapWf]
    | cons e' m =>
      simp only [mapWf, Bool.and_eq_true, decide_eq_true_eq, ih, List.pairwise_cons]
      constructor
      · rintro ⟨h, h1, h2⟩
        refine ⟨fun a ha => ?_, h1, h2⟩
        rcases List.mem_cons.mp ha with rfl | ha
        · exact h
        · exact Nat.lt_trans h (h1 a ha)
      · rintro ⟨h, h1, h2⟩
        exact ⟨h e' (List.mem_cons_self ..), h1, h2⟩

theorem mapWf_nil {α : Type} : mapWf ([] : Map α) = true := rfl

/-- Keeping some entries keeps the form. -/
theorem mapWf_filter {α : Type} (m : Map α) (p : Nat × α → Bool) (h : mapWf m = true) : mapWf (m.filter p) = true := by
  rw [mapWf_iff] at *
  exact h.filter p

theorem mapWf_mapKeep {α : Type} (m : Map α) (p : Nat → α → Bool) (h : mapWf m = true) : mapWf (mapKeep m p) = true :=
  mapWf_filter m _ h

theorem mapWf_tail {α : Type} (e : Nat × α) (m : Map α) (h : mapWf (e :: m) = true) : mapWf m = true := by
  rw [mapWf_iff] at *
  exact (List.pairwise_cons.mp h).2

/-- Changing values keeps the form. -/
theorem mapWf_mapAll {α : Type} (m : Map α) (f : Nat → α → α) (h : mapWf m = true) : mapWf (mapAll m f) = true := by
  rw [mapWf_iff] at *
  simpa [mapAll, List.pairwise_map] using h

/-- The keys after a write: those before, and the one written. -/
theorem mem_mapSet {α : Type} (m : Map α) (i : Nat) (x : α) (e : Nat × α) (he : e ∈ mapSet m i x) : e = (i, x) ∨ e ∈ m := by
  induction m with
  | nil => simpa [mapSet] using he
  | cons y m ih =>
    simp only [mapSet] at he
    split at he
    · rcases List.mem_cons.mp he with rfl | he
      · rename_i hk; exact .inl (by rw [hk])
      · exact .inr (List.mem_cons_of_mem _ he)
    · split at he
      · rcases List.mem_cons.mp he with rfl | he
        · exact .inl rfl
        · exact .inr he
      · rcases List.mem_cons.mp he with rfl | he
        · exact .inr (List.mem_cons_self ..)
        · exact (ih he).imp id (List.mem_cons_of_mem _)

theorem mem_mapErase {α : Type} (m : Map α) (i : Nat) (e : Nat × α) (he : e ∈ mapErase m i) : e ∈ m := by
  induction m with
  | nil => simp [mapErase] at he
  | cons y m ih =>
    simp only [mapErase] at he
    split at he
    · exact List.mem_cons_of_mem _ he
    · split at he
      · exact he
      · rcases List.mem_cons.mp he with rfl | he
        · exact List.mem_cons_self ..
        · exact List.mem_cons_of_mem _ (ih he)

theorem mapWf_mapSet {α : Type} (m : Map α) (i : Nat) (x : α) (h : mapWf m = true) : mapWf (mapSet m i x) = true := by
  rw [mapWf_iff] at *
  induction m with
  | nil => simp [mapSet]
  | cons y m ih =>
    obtain ⟨h1, h2⟩ := List.pairwise_cons.mp h
    simp only [mapSet]
    split
    · rename_i hk
      exact List.pairwise_cons.mpr ⟨fun a ha => h1 a ha, h2⟩
    · split
      · rename_i hk hl
        refine List.pairwise_cons.mpr ⟨fun a ha => ?_, h⟩
        rcases List.mem_cons.mp ha with rfl | ha
        · exact hl
        · exact Nat.lt_trans hl (h1 a ha)
      · rename_i hk hl
        refine List.pairwise_cons.mpr ⟨fun a ha => ?_, ih h2⟩
        rcases mem_mapSet m i x a ha with rfl | ha
        · simp only; omega
        · exact h1 a ha

theorem mapWf_mapErase {α : Type} (m : Map α) (i : Nat) (h : mapWf m = true) : mapWf (mapErase m i) = true := by
  rw [mapWf_iff] at *
  induction m with
  | nil => simp [mapErase]
  | cons y m ih =>
    obtain ⟨h1, h2⟩ := List.pairwise_cons.mp h
    simp only [mapErase]
    split
    · exact h2
    · split
      · exact h
      · exact List.pairwise_cons.mpr ⟨fun a ha => h1 a (mem_mapErase m i a ha), ih h2⟩

theorem mapWf_mapUpd {α : Type} (m : Map α) (i : Nat) (f : α → α) (h : mapWf m = true) : mapWf (mapUpd m i f) = true := by
  unfold mapUpd
  split
  · exact mapWf_mapSet _ _ _ h
  · exact h

/-- A read after a write to the same key. -/
@[simp] theorem mapGet_mapSet_same {α : Type} (m : Map α) (i : Nat) (x : α) : mapGet (mapSet m i x) i = some x := by
  induction m with
  | nil => simp [mapSet, mapGet]
  | cons y m ih =>
    simp only [mapSet]
    split
    · simp [mapGet, *]
    · split
      · simp [mapGet]
      · simp [mapGet, *]

/-- A write leaves every other key alone. -/
theorem mapGet_mapSet_ne {α : Type} (m : Map α) (i j : Nat) (x : α) (hij : j ≠ i) : mapGet (mapSet m i x) j = mapGet m j := by
  induction m with
  | nil => simp [mapSet, mapGet, hij]
  | cons y m ih =>
    obtain ⟨k, v⟩ := y
    simp only [mapSet]
    split
    · rename_i h; subst h; simp [mapGet, hij]
    · split
      · rename_i h1 h2
        simp only [mapGet, hij, if_false]
        by_cases hj : j < i
        · have : j ≠ k := by omega
          have : j < k := by omega
          simp [*]
        · simp [hj]
      · simp [mapGet, ih]

/-- What a table answers is one of its entries. -/
theorem mapGet_mem {α : Type} (m : Map α) (i : Nat) (x : α) (h : mapGet m i = some x) : (i, x) ∈ m := by
  induction m with
  | nil => simp [mapGet] at h
  | cons y m ih =>
    simp only [mapGet] at h
    split at h
    · rename_i hk
      obtain ⟨k, v⟩ := y
      simp only at hk h
      simp_all
    · split at h
      · simp at h
      · exact List.mem_cons_of_mem _ (ih h)

theorem mapGet_eq_none_of_lt {α : Type} (m : Map α) (i : Nat) (h : ∀ e ∈ m, i < e.1) : mapGet m i = none := by
  cases m with
  | nil => rfl
  | cons y m =>
    obtain ⟨k, v⟩ := y
    have := h (k, v) (List.mem_cons_self ..)
    have h2 : i ≠ k := by simp only at this; omega
    simp only at this
    simp [mapGet, h2, this]

@[simp] theorem mapGet_mapErase_same {α : Type} (m : Map α) (i : Nat) (h : mapWf m = true) : mapGet (mapErase m i) i = none := by
  rw [mapWf_iff] at h
  induction m with
  | nil => rfl
  | cons y m ih =>
    obtain ⟨k, v⟩ := y
    obtain ⟨h1, h2⟩ := List.pairwise_cons.mp h
    simp only [mapErase]
    split
    · rename_i hk; subst hk; exact mapGet_eq_none_of_lt m _ h1
    · split
      · rename_i hk hl; simp [mapGet, hk, hl]
      · rename_i hk hl; simp [mapGet, hk, hl, ih h2]

theorem mapGet_mapErase_ne {α : Type} (m : Map α) (i j : Nat) (h : mapWf m = true) (hij : j ≠ i) :
    mapGet (mapErase m i) j = mapGet m j := by
  rw [mapWf_iff] at h
  induction m with
  | nil => rfl
  | cons y m ih =>
    obtain ⟨k, v⟩ := y
    obtain ⟨h1, h2⟩ := List.pairwise_cons.mp h
    simp only [mapErase]
    split
    · rename_i hk
      simp only [mapGet, ← hk, hij, if_false]
      split
      · exact mapGet_eq_none_of_lt m _ (fun e he => Nat.lt_trans (by omega) (h1 e he))
      · rfl
    · split
      · rfl
      · simp [mapGet, ih h2]

/-! ### Sparse arrays -/

theorem cellWf_iff {n : Nat} (m : Map (BitVec n)) : cellWf m = true ↔ mapWf m = true ∧ ∀ e ∈ m, e.2 ≠ 0 := by
  simp [cellWf, List.all_eq_true]

theorem cellWf_cellSet {n : Nat} (m : Map (BitVec n)) (i : Nat) (v : BitVec n) (h : cellWf m = true) : cellWf (cellSet m i v) = true := by
  rw [cellWf_iff] at *
  unfold cellSet
  split
  · exact ⟨mapWf_mapErase _ _ h.1, fun e he => h.2 e (mem_mapErase _ _ _ he)⟩
  · refine ⟨mapWf_mapSet _ _ _ h.1, fun e he => ?_⟩
    rcases mem_mapSet _ _ _ _ he with rfl | he
    · assumption
    · exact h.2 e he

theorem cellWf_cellsSet {w : Nat} (m : Map (BitVec w)) (i : Nat) (vs : List (BitVec w)) (h : cellWf m = true) :
    cellWf (cellsSet m i vs) = true := by
  induction vs generalizing m i with
  | nil => exact h
  | cons v vs ih => exact ih _ _ (cellWf_cellSet m i v h)

theorem cellWf_cellsClear {w : Nat} (m : Map (BitVec w)) (lo hi : Nat) (h : cellWf m = true) : cellWf (cellsClear m lo hi) = true := by
  rw [cellWf_iff] at *
  exact ⟨mapWf_filter _ _ h.1, fun e he => h.2 e (List.mem_filter.mp he).1⟩

/-- A read after a write of an array's entry. -/
theorem cellGet_cellSet_same {n : Nat} (m : Map (BitVec n)) (i : Nat) (v : BitVec n) (h : mapWf m = true) :
    cellGet (cellSet m i v) i = v := by
  unfold cellGet cellSet
  by_cases hv : v = 0
  · rw [if_pos hv, mapGet_mapErase_same m i h, hv]
  · rw [if_neg hv, mapGet_mapSet_same]

theorem cellGet_cellSet_ne {n : Nat} (m : Map (BitVec n)) (i j : Nat) (v : BitVec n) (h : mapWf m = true) (hij : j ≠ i) :
    cellGet (cellSet m i v) j = cellGet m j := by
  unfold cellGet cellSet
  by_cases hv : v = 0
  · rw [if_pos hv, mapGet_mapErase_ne _ _ _ h hij]
  · rw [if_neg hv, mapGet_mapSet_ne _ _ _ _ hij]

theorem mapWf_of_cellWf {n : Nat} (m : Map (BitVec n)) (h : cellWf m = true) : mapWf m = true := ((cellWf_iff m).mp h).1

/-- A run of bytes is written where it belongs and nowhere else. -/
theorem cellGet_cellsSet_out {w : Nat} (m : Map (BitVec w)) (i j : Nat) (vs : List (BitVec w)) (h : cellWf m = true)
    (hj : j < i ∨ i + vs.length ≤ j) : cellGet (cellsSet m i vs) j = cellGet m j := by
  induction vs generalizing m i with
  | nil => rfl
  | cons v vs ih =>
    simp only [List.length_cons] at hj
    simp only [cellsSet]
    rw [ih _ _ (cellWf_cellSet m i v h) (by omega)]
    exact cellGet_cellSet_ne m i j v (mapWf_of_cellWf m h) (by omega)

theorem cellsGet_cellsSet {w : Nat} (m : Map (BitVec w)) (i : Nat) (vs : List (BitVec w)) (h : cellWf m = true) :
    cellsGet (cellsSet m i vs) i vs.length = vs := by
  induction vs generalizing m i with
  | nil => rfl
  | cons v vs ih =>
    simp only [cellsSet, List.length_cons, cellsGet]
    rw [ih _ _ (cellWf_cellSet m i v h), cellGet_cellsSet_out _ _ _ _ (cellWf_cellSet m i v h) (by omega),
      cellGet_cellSet_same m i v (mapWf_of_cellWf m h)]

end Sys2Proof.Machine
end

