-- ==== Sys2Proof/Laws/Ops.lean ====
section
/-! SUPPORT. What the shared operations of Machine/Ops.lean change at most: registers, what waits to leave, and the commits staged. -/

namespace Sys2Proof.Machine

/-- `t` is `s` but for the registers and what waits to leave the device. -/
def RegOnly (s t : State) : Prop := t = { s with reg := t.reg, out := t.out }

/-- `t` is `s` but for the registers, what waits to leave the device, and the commits staged for the finish. -/
def Quiet (s t : State) : Prop := t = { s with reg := t.reg, out := t.out, stk := { s.stk with commits := t.stk.commits } }

theorem RegOnly.refl (s : State) : RegOnly s s := rfl
theorem RegOnly.trans {s t u : State} (h : RegOnly s t) (k : RegOnly t u) : RegOnly s u := by
  unfold RegOnly at *; rw [k, h]
theorem RegOnly.quiet {s t : State} (h : RegOnly s t) : Quiet s t := by
  unfold RegOnly Quiet at *; rw [h]
theorem Quiet.refl (s : State) : Quiet s s := rfl
theorem Quiet.trans {s t u : State} (h : Quiet s t) (k : Quiet t u) : Quiet s u := by
  unfold Quiet at *; rw [k, h]

theorem RegOnly.foldl {α : Type} (f : State → α → State) (l : List α) (s : State) (hf : ∀ s x, RegOnly s (f s x)) : RegOnly s (l.foldl f s) := by
  induction l generalizing s with
  | nil => exact RegOnly.refl s
  | cons x l ih => exact (hf s x).trans (ih _)

theorem Quiet.ses {s t : State} (h : Quiet s t) : t.ses = s.ses := by rw [h]
theorem Quiet.tier {s t : State} (h : Quiet s t) : t.tier = s.tier := by rw [h]
theorem Quiet.lnk {s t : State} (h : Quiet s t) : t.lnk = s.lnk := by rw [h]
theorem Quiet.number {s t : State} (h : Quiet s t) : t.stk.number = s.stk.number := by rw [h]
theorem Quiet.phase {s t : State} (h : Quiet s t) : t.stk.phase = s.stk.phase := by rw [h]
theorem RegOnly.commits {s t : State} (h : RegOnly s t) : t.stk.commits = s.stk.commits := by rw [h]

theorem wrWord_only (s : State) (b : Blk) (inst bank off v : Nat) : RegOnly s (wrWord s b inst bank off v) := rfl
theorem wrFx_only (s : State) (f : Fld) (inst bank i v : Nat) : RegOnly s (wrFx s f inst bank i v) := rfl
theorem wrF_only (s : State) (f : Fld) (v : Nat) : RegOnly s (wrF s f v) := rfl
theorem wrI_only (s : State) (f : Fld) (inst v : Nat) : RegOnly s (wrI s f inst v) := rfl
theorem cnt_only (s : State) (f : Fld) (n : Nat) : RegOnly s (cnt s f n) := rfl
theorem cntI_only (s : State) (f : Fld) (inst n : Nat) : RegOnly s (cntI s f inst n) := rfl

theorem pushEvent_only (s : State) (d : Nat) (r : EvRec) : RegOnly s (pushEvent s d r) := by
  unfold pushEvent
  dsimp only
  split <;> rfl

theorem pushEvents_only (s : State) (ds : List Nat) (r : EvRec) : RegOnly s (pushEvents s ds r) :=
  RegOnly.foldl _ _ _ (fun s d => pushEvent_only s d r)

theorem sendEvent_only (s : State) (page code : Nat) (words ds : List Nat) : RegOnly s (sendEvent s page code words ds) := pushEvents_only _ _ _

theorem raiseBit_only (s : State) (b : Blk) (inst bit : Nat) (whom : EvTo) : RegOnly s (raiseBit s b inst bit whom) := by
  unfold raiseBit
  dsimp only
  repeat' first
    | with_reducible exact RegOnly.refl _
    | with_reducible refine RegOnly.trans ?_ (pushEvents_only _ _ _)
    | with_reducible exact wrI_only _ _ _ _
    | split

theorem recordErr_only (s : State) (b : Blk) (inst unit code : Nat) : RegOnly s (recordErr s b inst unit code) := by
  unfold recordErr
  dsimp only
  refine RegOnly.trans (RegOnly.trans ?_ (raiseBit_only _ _ _ _ _)) (cntI_only _ _ _ _)
  split
  · exact RegOnly.refl s
  · exact wrWord_only _ _ _ _ _ _

theorem stageDone_quiet (s : State) (d : Done) : Quiet s (stageDone s d) := by
  unfold stageDone
  split <;> rfl

theorem finishCmd_quiet (s : State) (c : Cmd) (status : Nat) : Quiet s (finishCmd s c status) := stageDone_quiet _ _

theorem refusalMarks_only (s : State) (code : Nat) : RegOnly s (refusalMarks s code) := by
  unfold refusalMarks
  have h := recordErr_only s (codeBlk code) 0 0 code
  dsimp only
  repeat' split
  · exact h.trans (cnt_only _ _ _)
  · exact h.trans (raiseBit_only _ _ _ _ _)
  · exact h.trans (raiseBit_only _ _ _ _ _)
  · exact h.trans (raiseBit_only _ _ _ _ _)
  · exact h.trans (cnt_only _ _ _)
  · exact (h.trans (cnt_only _ _ _)).trans (raiseBit_only _ _ _ _ _)
  · exact h

/-- A refused session command changes no session. -/
theorem refuseSes_quiet (s : State) (c : Cmd) (code : Nat) : Quiet s (refuseSes s c code) := by
  unfold refuseSes
  have h := (refusalMarks_only s code).quiet
  dsimp only
  split
  · exact h.trans (finishCmd_quiet _ _ _)
  · exact h.trans (stageDone_quiet _ _)

theorem sendCpl_only (s : State) (d : Done) : RegOnly s (sendCpl s d) := rfl
theorem joinQueue_only (s : State) (c : Cmd) : RegOnly s (joinQueue s c) := rfl

theorem peak_only (u : State) (n : Nat) : RegOnly u (if rdF u R.MOV_STAT_PEAK < n then wrF u R.MOV_STAT_PEAK n else u) := by
  split
  · exact wrF_only _ _ _
  · exact RegOnly.refl _

/-- What taking a Mover entry changes: the entry that is next, and a register. -/
theorem takeOp_only (s : State) (o : OpEnt) : RegOnly (setOp s (opIndex s) { o with start := catchStroke s }) (takeOp s o).2 := by
  exact peak_only _ _

theorem opOf_setOp_same (s : State) (id : Nat) (o : OpEnt) : opOf (setOp s id o) id = some o := mapGet_mapSet_same ..

theorem takeOp_fst (s : State) (o : OpEnt) : (takeOp s o).1 = opIndex s := rfl

theorem opOf_takeOp (s : State) (o : OpEnt) : opOf (takeOp s o).2 (opIndex s) = some { o with start := catchStroke s } := by
  unfold opOf
  rw [show (takeOp s o).2.tier = _ from congrArg State.tier (takeOp_only s o)]
  exact opOf_setOp_same ..

theorem joinTable_eq (s : State) (c : Cmd) (d : List Byte) : joinTable s c d = { s with gsx := { s.gsx with
    orders := mapSet s.gsx.orders (c.f2 0 16) (gsxOrder s (c.f2 0 16) ++ [{ cmd := c, data := d }]) } } := by
  unfold joinTable setOrder
  rw [if_neg (by simp)]

end Sys2Proof.Machine
end

