-- ==== Sys2Proof/Laws/Session.lean ====
section
/-! SUPPORT. Handing a command on, and a session command that binds at once. -/

namespace Sys2Proof.Machine

theorem mapSet_of_mapGet {α : Type} (m : Map α) (i : Nat) (x : α) (h : mapGet m i = some x) : mapSet m i x = m := by
  induction m with
  | nil => simp [mapGet] at h
  | cons y m ih =>
    obtain ⟨k, v⟩ := y
    simp only [mapGet] at h
    simp only [mapSet]
    split at h
    · rename_i hk; subst hk; simp_all
    · split at h
      · simp at h
      · rename_i h1 h2; simp [h1, h2, ih h]

theorem mapSet_mapSet {α : Type} (m : Map α) (i : Nat) (x y : α) : mapSet (mapSet m i x) i y = mapSet m i y := by
  induction m with
  | nil => simp [mapSet]
  | cons e m ih =>
    simp only [mapSet]
    split
    · simp [mapSet, *]
    · split
      · simp [mapSet]
      · simp [mapSet, *]

/-- A taken command starts on the state in which its queue counts it. -/
theorem submit_taken (s : State) (c : Cmd) (data : List Byte) (start : Cmd → List Byte → State → State) (h : Taken s c) :
    submit s c data start = start c data (joinQueue s c) := by
  simp [submit, h.1, h.2]

/-- A command that hand-on refuses completes with the code and does nothing else. -/
theorem submit_refused (s : State) (c : Cmd) (data : List Byte) (start : Cmd → List Byte → State → State) (e : Nat)
    (h : handOnCode s c = some e) :
    submit s c data start = refuseHand (joinQueue s c) c e := by
  simp [submit, h]

/-- A session whose head is taken, or that has gone, is not served further. -/
theorem serveGo_of_head (sid n : Nat) (s : State) (h : ∀ x, sesOf s sid = some x → x.head.isSome = true) : serveGo sid n s = s := by
  cases n with
  | zero => rfl
  | succ n =>
    simp only [serveGo]
    split
    · rfl
    · rename_i x hx; simp [h x hx]

/-- A session with nothing waiting is not served further. -/
theorem serveGo_of_empty (sid n : Nat) (s : State) (h : ∀ x, sesOf s sid = some x → x.order = []) : serveGo sid n s = s := by
  cases n with
  | zero => rfl
  | succ n =>
    simp only [serveGo]
    split
    · rfl
    · rename_i x hx
      split
      · rfl
      · simp [h x hx, nextWait]

theorem liveSes_joinQueue (s : State) (c d : Cmd) : liveSes (joinQueue s d) (cmdSid c) (cmdGen c) = liveSes s (cmdSid c) (cmdGen c) := rfl

theorem qpCheck_joinQueue (s : State) (d : Cmd) (dom q : Nat) : qpCheck (joinQueue s d) dom q = qpCheck s dom q := rfl

theorem sesOf_updSes_same (s : State) (sid : Nat) (f : Ses → Ses) (x : Ses) (h : sesOf s sid = some x) :
    sesOf (updSes s sid f) sid = some (f x) := by
  simp only [sesOf, updSes] at *
  simp [mapUpd, h]

theorem sesOf_setSes_same (s : State) (sid : Nat) (x : Ses) : sesOf (setSes s sid x) sid = some x := by
  simp [sesOf, setSes]

/-- Setting a session after changing it, back to what it was, is no change. -/
theorem setSes_updSes (s : State) (sid : Nat) (f : Ses → Ses) (x : Ses) (h : sesOf s sid = some x) :
    setSes (updSes s sid f) sid x = s := by
  have h' : mapGet s.ses.tab sid = some x := h
  have : mapSet (mapUpd s.ses.tab sid f) sid x = s.ses.tab := by
    rw [mapUpd, h', mapSet_mapSet, mapSet_of_mapGet _ _ _ h']
  simp only [setSes, updSes, this]

/-- A command that binds may join its session's order. -/
theorem joinCode_atHead (s : State) (c : Cmd) (data : List Byte) (x : Ses) (h : AtHead s c data x) : joinCode (joinQueue s c) c = none := by
  have hlive : liveSes s (cmdSid c) (cmdGen c) = some x := by simp [liveSes, h.live, h.gen]
  unfold joinCode
  rw [liveSes_joinQueue, hlive]
  simp [h.first]

theorem nextWait_atHead (s : State) (c : Cmd) (data : List Byte) (x : Ses) (h : AtHead s c data x) :
    nextWait { x with order := [waitOf s c data] } [waitOf s c data] = some (waitOf s c data, []) := by
  rcases h.passes with hp | hp
  · simp [nextWait, hp]
  · simp [nextWait, waitOf, hp]

/-- One turn of a session's order. -/
theorem serveGo_turn (s : State) (sid n : Nat) (y : Ses) (w : Wait) (rest : List Wait) (h : sesOf s sid = some y) (hh : y.heldOut = false)
    (hf : y.head = none) (hn : nextWait y y.order = some (w, rest)) (hr : w.ready = true) :
    serveGo sid (n + 1) s =
      serveGo sid n (bindHead (setSes s sid { y with order := rest }) sid { y with order := rest } w) := by
  unfold serveGo
  simp only [h, hh, hf, Option.isSome_none, Bool.or_self, Bool.false_eq_true, if_false, hn, hr, Bool.not_true]
  split <;> simp_all [serveGo]

/-- A session command at the head of its session's order is checked, and then the order goes on. -/
theorem joinOrder_atHead (s : State) (c : Cmd) (data : List Byte) (x : Ses) (h : AtHead s c data x) :
    joinOrder (joinQueue s c) c data = serveGo (cmdSid c) 31 (bindHead (joinQueue s c) (cmdSid c) x (waitOf s c data)) := by
  have hl : sesOf (joinQueue s c) (cmdSid c) = some x := h.live
  have hb : mayBind (joinWait (joinQueue s c) c data true) = true := h.bindable
  have hf : finalDue (joinWait (joinQueue s c) c data true) (cmdSid c) = false := h.final
  have hget : sesOf (joinWait (joinQueue s c) c data true) (cmdSid c) = some { x with order := [waitOf s c data] } := by
    have := sesOf_updSes_same (joinQueue s c) (cmdSid c)
      (fun x => { x with order := insertBy (fun a b => lexLe (waitKey a) (waitKey b)) (waitOf s c data) x.order }) x hl
    simp only [h.first, insertBy] at this
    exact this
  have hset : setSes (joinWait (joinQueue s c) c data true) (cmdSid c) x = joinQueue s c :=
    setSes_updSes (joinQueue s c) (cmdSid c)
      (fun x => { x with order := insertBy (fun a b => lexLe (waitKey a) (waitKey b)) (waitOf s c data) x.order }) x hl
  have hx : { x with order := [] } = x := by rw [← h.first]
  have hn := nextWait_atHead s c data x h
  unfold joinOrder
  rw [joinCode_atHead s c data x h]
  show (if mayBind (joinWait (joinQueue s c) c data true) && !finalDue (joinWait (joinQueue s c) c data true) (cmdSid c)
    then serve (joinWait (joinQueue s c) c data true) (cmdSid c) else joinWait (joinQueue s c) c data true) = _
  rw [hb, hf]
  show serveGo (cmdSid c) (31 + 1) _ = _
  rw [serveGo_turn _ _ _ _ _ _ hget h.here h.free hn rfl]
  show serveGo _ 31 (bindHead (setSes _ _ { x with order := [] }) _ { x with order := [] } _) = _
  rw [hx, hset]

@[simp] theorem waitOf_cmd (s : State) (c : Cmd) (data : List Byte) : (waitOf s c data).cmd = c := rfl
@[simp] theorem waitOf_data (s : State) (c : Cmd) (data : List Byte) : (waitOf s c data).data = data := rfl

@[simp] theorem bindSes_tenant (c : Cmd) (x : Ses) : (bindSes c x).d.tenant = x.d.tenant := by unfold bindSes; split <;> rfl
@[simp] theorem bindSes_epoch (c : Cmd) (x : Ses) : (bindSes c x).d.epoch = x.d.epoch := by unfold bindSes; split <;> rfl
@[simp] theorem bindSes_positions (c : Cmd) (x : Ses) : (bindSes c x).d.positions = x.d.positions := by unfold bindSes; split <;> rfl
@[simp] theorem bindSes_win (c : Cmd) (x : Ses) : (bindSes c x).win = x.win := by unfold bindSes; split <;> rfl
@[simp] theorem bindSes_order (c : Cmd) (x : Ses) : (bindSes c x).order = x.order := by unfold bindSes; split <;> rfl

/-- A command that cancels no park is admitted where it stands. -/
theorem bindSes_of_stays {c : Cmd} {x : Ses} (h : cancelsPark x c = false) : bindSes c x = x := by simp [bindSes, h]
theorem bindState_of_stays {s : State} {c : Cmd} {x : Ses} (h : cancelsPark x c = false) : bindState s c x = joinQueue s c := by simp [bindState, h]

/-- The REVIVE that cancels a park, whose effect is none of `admitTurn` (03 R54). -/
def revivesMoving (c : Cmd) (x : Ses) : Bool := x.d.moving && c.opcode == 0x15

/-- A command that binds is admitted in `bindState`, on `bindSes`. -/
theorem bindTurn_binds (s : State) (c : Cmd) (data : List Byte) (x : Ses) (n k : Nat) (hr : revivesMoving c x = false) :
    bindTurn (joinQueue s c) (cmdSid c) x (waitOf s c data) n k =
      admitTurn (bindState s c x) (cmdSid c) (bindSes c x) (waitOf s c data) n k := by
  unfold bindTurn bindState bindSes
  rw [waitOf_cmd]
  by_cases h : cancelsPark x c = true
  · have : c.opcode ≠ 0x15 := by
      intro ho
      simp only [cancelsPark, Bool.and_eq_true] at h
      simp [revivesMoving, h.1, ho] at hr
    rw [if_pos h, if_pos h, if_neg (by simp [h])]
    simp only [if_neg this]
  · rw [if_neg h, if_neg h, if_pos (by simp [h])]

/-- What a row of a session command that binds does: it is admitted, and then the session's order goes on. -/
theorem submit_binds {s : State} {c : Cmd} {data : List Byte} {x : Ses} (h : Binds s c data x) (hr : revivesMoving c x = false) :
    submit s c data startSes =
      serveGo (cmdSid c) 31 (admitTurn (bindState s c x) (cmdSid c) (bindSes c x) (waitOf s c data) 0 (catchStroke (joinQueue s c))) := by
  rw [submit_taken s c data startSes h.taken]
  show joinOrder (joinQueue s c) c data = _
  rw [joinOrder_atHead s c data x h.toAtHead]
  have hc : headCode (joinQueue s c) x (waitOf s c data).cmd (waitOf s c data).data (waitOf s c data).qpErr = none := h.checks
  unfold bindHead
  rw [hc]
  simp only []
  rw [bindTurn_binds s c data x _ _ hr]

theorem sesOf_updSes (s : State) (sid : Nat) (f : Ses → Ses) : sesOf (updSes s sid f) sid = (sesOf s sid).map f := by
  simp only [sesOf, updSes, mapUpd]
  cases h : mapGet s.ses.tab sid <;> simp [h]

/-- An admitted commit keeps the head until its finish, and the order does not go on. -/
theorem serveGo_holdCommit (s : State) (sid e n : Nat) (w : Wait) (k : Commit) : serveGo sid n (holdCommit s sid e w k) = holdCommit s sid e w k := by
  apply serveGo_of_head
  intro y hy
  have : sesOf (holdCommit s sid e w k) sid = (sesOf s sid).map _ := sesOf_updSes s sid _
  rw [this] at hy
  simp only [Option.map_eq_some_iff] at hy
  obtain ⟨z, -, rfl⟩ := hy
  rfl

end Sys2Proof.Machine
end

