-- ==== Sys2Proof/Laws/State.lean ====
section
/-! SUPPORT. The small lemmas of `State`: what each update of one record leaves as it was, one lemma per field, so that a proof about a
row rewrites by them and unfolds no record update. -/

namespace Sys2Proof.Machine

-- joinQueue
@[simp] theorem joinQueue_pending (s : State) (c : Cmd) : (joinQueue s c).pending = s.pending := rfl
@[simp] theorem joinQueue_freeCtr (s : State) (c : Cmd) : (joinQueue s c).freeCtr = s.freeCtr := rfl
@[simp] theorem joinQueue_reg (s : State) (c : Cmd) : (joinQueue s c).reg = s.reg := rfl
@[simp] theorem joinQueue_ses (s : State) (c : Cmd) : (joinQueue s c).ses = s.ses := rfl
@[simp] theorem joinQueue_pfx (s : State) (c : Cmd) : (joinQueue s c).pfx = s.pfx := rfl
@[simp] theorem joinQueue_tier (s : State) (c : Cmd) : (joinQueue s c).tier = s.tier := rfl
@[simp] theorem joinQueue_time (s : State) (c : Cmd) : (joinQueue s c).time = s.time := rfl
@[simp] theorem joinQueue_stk (s : State) (c : Cmd) : (joinQueue s c).stk = s.stk := rfl
@[simp] theorem joinQueue_prg (s : State) (c : Cmd) : (joinQueue s c).prg = s.prg := rfl
@[simp] theorem joinQueue_crw (s : State) (c : Cmd) : (joinQueue s c).crw = s.crw := rfl
@[simp] theorem joinQueue_courses (s : State) (c : Cmd) : (joinQueue s c).courses = s.courses := rfl
@[simp] theorem joinQueue_courseWaits (s : State) (c : Cmd) : (joinQueue s c).courseWaits = s.courseWaits := rfl
@[simp] theorem joinQueue_bld (s : State) (c : Cmd) : (joinQueue s c).bld = s.bld := rfl
@[simp] theorem joinQueue_gov (s : State) (c : Cmd) : (joinQueue s c).gov = s.gov := rfl
@[simp] theorem joinQueue_flt (s : State) (c : Cmd) : (joinQueue s c).flt = s.flt := rfl
@[simp] theorem joinQueue_lnk (s : State) (c : Cmd) : (joinQueue s c).lnk = s.lnk := rfl
@[simp] theorem joinQueue_eg (s : State) (c : Cmd) : (joinQueue s c).eg = s.eg := rfl
@[simp] theorem joinQueue_txt (s : State) (c : Cmd) : (joinQueue s c).txt = s.txt := rfl
@[simp] theorem joinQueue_gsx (s : State) (c : Cmd) : (joinQueue s c).gsx = s.gsx := rfl
@[simp] theorem joinQueue_mem (s : State) (c : Cmd) : (joinQueue s c).mem = s.mem := rfl
@[simp] theorem joinQueue_ump (s : State) (c : Cmd) : (joinQueue s c).ump = s.ump := rfl
@[simp] theorem joinQueue_ckp (s : State) (c : Cmd) : (joinQueue s c).ckp = s.ckp := rfl
@[simp] theorem joinQueue_pwr (s : State) (c : Cmd) : (joinQueue s c).pwr = s.pwr := rfl
@[simp] theorem joinQueue_sec (s : State) (c : Cmd) : (joinQueue s c).sec = s.sec := rfl
@[simp] theorem joinQueue_boot (s : State) (c : Cmd) : (joinQueue s c).boot = s.boot := rfl
@[simp] theorem joinQueue_mod (s : State) (c : Cmd) : (joinQueue s c).mod = s.mod := rfl

-- stage
@[simp] theorem stage_pending (s : State) (k : Commit) : (stage s k).pending = s.pending := rfl
@[simp] theorem stage_freeCtr (s : State) (k : Commit) : (stage s k).freeCtr = s.freeCtr := rfl
@[simp] theorem stage_reg (s : State) (k : Commit) : (stage s k).reg = s.reg := rfl
@[simp] theorem stage_out (s : State) (k : Commit) : (stage s k).out = s.out := rfl
@[simp] theorem stage_ses (s : State) (k : Commit) : (stage s k).ses = s.ses := rfl
@[simp] theorem stage_pfx (s : State) (k : Commit) : (stage s k).pfx = s.pfx := rfl
@[simp] theorem stage_tier (s : State) (k : Commit) : (stage s k).tier = s.tier := rfl
@[simp] theorem stage_time (s : State) (k : Commit) : (stage s k).time = s.time := rfl
@[simp] theorem stage_prg (s : State) (k : Commit) : (stage s k).prg = s.prg := rfl
@[simp] theorem stage_crw (s : State) (k : Commit) : (stage s k).crw = s.crw := rfl
@[simp] theorem stage_courses (s : State) (k : Commit) : (stage s k).courses = s.courses := rfl
@[simp] theorem stage_courseWaits (s : State) (k : Commit) : (stage s k).courseWaits = s.courseWaits := rfl
@[simp] theorem stage_bld (s : State) (k : Commit) : (stage s k).bld = s.bld := rfl
@[simp] theorem stage_gov (s : State) (k : Commit) : (stage s k).gov = s.gov := rfl
@[simp] theorem stage_flt (s : State) (k : Commit) : (stage s k).flt = s.flt := rfl
@[simp] theorem stage_lnk (s : State) (k : Commit) : (stage s k).lnk = s.lnk := rfl
@[simp] theorem stage_eg (s : State) (k : Commit) : (stage s k).eg = s.eg := rfl
@[simp] theorem stage_txt (s : State) (k : Commit) : (stage s k).txt = s.txt := rfl
@[simp] theorem stage_gsx (s : State) (k : Commit) : (stage s k).gsx = s.gsx := rfl
@[simp] theorem stage_mem (s : State) (k : Commit) : (stage s k).mem = s.mem := rfl
@[simp] theorem stage_ump (s : State) (k : Commit) : (stage s k).ump = s.ump := rfl
@[simp] theorem stage_ckp (s : State) (k : Commit) : (stage s k).ckp = s.ckp := rfl
@[simp] theorem stage_pwr (s : State) (k : Commit) : (stage s k).pwr = s.pwr := rfl
@[simp] theorem stage_sec (s : State) (k : Commit) : (stage s k).sec = s.sec := rfl
@[simp] theorem stage_boot (s : State) (k : Commit) : (stage s k).boot = s.boot := rfl
@[simp] theorem stage_mod (s : State) (k : Commit) : (stage s k).mod = s.mod := rfl

-- stageDone
@[simp] theorem stageDone_pending (s : State) (d : Done) : (stageDone s d).pending = s.pending := by unfold stageDone; (repeat' split) <;> rfl
@[simp] theorem stageDone_freeCtr (s : State) (d : Done) : (stageDone s d).freeCtr = s.freeCtr := by unfold stageDone; (repeat' split) <;> rfl
@[simp] theorem stageDone_reg (s : State) (d : Done) : (stageDone s d).reg = s.reg := by unfold stageDone; (repeat' split) <;> rfl
@[simp] theorem stageDone_ses (s : State) (d : Done) : (stageDone s d).ses = s.ses := by unfold stageDone; (repeat' split) <;> rfl
@[simp] theorem stageDone_pfx (s : State) (d : Done) : (stageDone s d).pfx = s.pfx := by unfold stageDone; (repeat' split) <;> rfl
@[simp] theorem stageDone_tier (s : State) (d : Done) : (stageDone s d).tier = s.tier := by unfold stageDone; (repeat' split) <;> rfl
@[simp] theorem stageDone_time (s : State) (d : Done) : (stageDone s d).time = s.time := by unfold stageDone; (repeat' split) <;> rfl
@[simp] theorem stageDone_prg (s : State) (d : Done) : (stageDone s d).prg = s.prg := by unfold stageDone; (repeat' split) <;> rfl
@[simp] theorem stageDone_crw (s : State) (d : Done) : (stageDone s d).crw = s.crw := by unfold stageDone; (repeat' split) <;> rfl
@[simp] theorem stageDone_courses (s : State) (d : Done) : (stageDone s d).courses = s.courses := by unfold stageDone; (repeat' split) <;> rfl
@[simp] theorem stageDone_courseWaits (s : State) (d : Done) : (stageDone s d).courseWaits = s.courseWaits := by unfold stageDone; (repeat' split) <;> rfl
@[simp] theorem stageDone_bld (s : State) (d : Done) : (stageDone s d).bld = s.bld := by unfold stageDone; (repeat' split) <;> rfl
@[simp] theorem stageDone_gov (s : State) (d : Done) : (stageDone s d).gov = s.gov := by unfold stageDone; (repeat' split) <;> rfl
@[simp] theorem stageDone_flt (s : State) (d : Done) : (stageDone s d).flt = s.flt := by unfold stageDone; (repeat' split) <;> rfl
@[simp] theorem stageDone_lnk (s : State) (d : Done) : (stageDone s d).lnk = s.lnk := by unfold stageDone; (repeat' split) <;> rfl
@[simp] theorem stageDone_eg (s : State) (d : Done) : (stageDone s d).eg = s.eg := by unfold stageDone; (repeat' split) <;> rfl
@[simp] theorem stageDone_txt (s : State) (d : Done) : (stageDone s d).txt = s.txt := by unfold stageDone; (repeat' split) <;> rfl
@[simp] theorem stageDone_gsx (s : State) (d : Done) : (stageDone s d).gsx = s.gsx := by unfold stageDone; (repeat' split) <;> rfl
@[simp] theorem stageDone_mem (s : State) (d : Done) : (stageDone s d).mem = s.mem := by unfold stageDone; (repeat' split) <;> rfl
@[simp] theorem stageDone_ump (s : State) (d : Done) : (stageDone s d).ump = s.ump := by unfold stageDone; (repeat' split) <;> rfl
@[simp] theorem stageDone_ckp (s : State) (d : Done) : (stageDone s d).ckp = s.ckp := by unfold stageDone; (repeat' split) <;> rfl
@[simp] theorem stageDone_pwr (s : State) (d : Done) : (stageDone s d).pwr = s.pwr := by unfold stageDone; (repeat' split) <;> rfl
@[simp] theorem stageDone_sec (s : State) (d : Done) : (stageDone s d).sec = s.sec := by unfold stageDone; (repeat' split) <;> rfl
@[simp] theorem stageDone_boot (s : State) (d : Done) : (stageDone s d).boot = s.boot := by unfold stageDone; (repeat' split) <;> rfl
@[simp] theorem stageDone_mod (s : State) (d : Done) : (stageDone s d).mod = s.mod := by unfold stageDone; (repeat' split) <;> rfl

-- holdHead
@[simp] theorem holdHead_pending (s : State) (sid : Nat) (r : Run) : (holdHead s sid r).pending = s.pending := rfl
@[simp] theorem holdHead_freeCtr (s : State) (sid : Nat) (r : Run) : (holdHead s sid r).freeCtr = s.freeCtr := rfl
@[simp] theorem holdHead_reg (s : State) (sid : Nat) (r : Run) : (holdHead s sid r).reg = s.reg := rfl
@[simp] theorem holdHead_out (s : State) (sid : Nat) (r : Run) : (holdHead s sid r).out = s.out := rfl
@[simp] theorem holdHead_pfx (s : State) (sid : Nat) (r : Run) : (holdHead s sid r).pfx = s.pfx := rfl
@[simp] theorem holdHead_tier (s : State) (sid : Nat) (r : Run) : (holdHead s sid r).tier = s.tier := rfl
@[simp] theorem holdHead_time (s : State) (sid : Nat) (r : Run) : (holdHead s sid r).time = s.time := rfl
@[simp] theorem holdHead_stk (s : State) (sid : Nat) (r : Run) : (holdHead s sid r).stk = s.stk := rfl
@[simp] theorem holdHead_prg (s : State) (sid : Nat) (r : Run) : (holdHead s sid r).prg = s.prg := rfl
@[simp] theorem holdHead_crw (s : State) (sid : Nat) (r : Run) : (holdHead s sid r).crw = s.crw := rfl
@[simp] theorem holdHead_courses (s : State) (sid : Nat) (r : Run) : (holdHead s sid r).courses = s.courses := rfl
@[simp] theorem holdHead_courseWaits (s : State) (sid : Nat) (r : Run) : (holdHead s sid r).courseWaits = s.courseWaits := rfl
@[simp] theorem holdHead_bld (s : State) (sid : Nat) (r : Run) : (holdHead s sid r).bld = s.bld := rfl
@[simp] theorem holdHead_gov (s : State) (sid : Nat) (r : Run) : (holdHead s sid r).gov = s.gov := rfl
@[simp] theorem holdHead_flt (s : State) (sid : Nat) (r : Run) : (holdHead s sid r).flt = s.flt := rfl
@[simp] theorem holdHead_lnk (s : State) (sid : Nat) (r : Run) : (holdHead s sid r).lnk = s.lnk := rfl
@[simp] theorem holdHead_eg (s : State) (sid : Nat) (r : Run) : (holdHead s sid r).eg = s.eg := rfl
@[simp] theorem holdHead_txt (s : State) (sid : Nat) (r : Run) : (holdHead s sid r).txt = s.txt := rfl
@[simp] theorem holdHead_gsx (s : State) (sid : Nat) (r : Run) : (holdHead s sid r).gsx = s.gsx := rfl
@[simp] theorem holdHead_mem (s : State) (sid : Nat) (r : Run) : (holdHead s sid r).mem = s.mem := rfl
@[simp] theorem holdHead_ump (s : State) (sid : Nat) (r : Run) : (holdHead s sid r).ump = s.ump := rfl
@[simp] theorem holdHead_ckp (s : State) (sid : Nat) (r : Run) : (holdHead s sid r).ckp = s.ckp := rfl
@[simp] theorem holdHead_pwr (s : State) (sid : Nat) (r : Run) : (holdHead s sid r).pwr = s.pwr := rfl
@[simp] theorem holdHead_sec (s : State) (sid : Nat) (r : Run) : (holdHead s sid r).sec = s.sec := rfl
@[simp] theorem holdHead_boot (s : State) (sid : Nat) (r : Run) : (holdHead s sid r).boot = s.boot := rfl
@[simp] theorem holdHead_mod (s : State) (sid : Nat) (r : Run) : (holdHead s sid r).mod = s.mod := rfl

-- setSes
@[simp] theorem setSes_pending (s : State) (sid : Nat) (x : Ses) : (setSes s sid x).pending = s.pending := rfl
@[simp] theorem setSes_freeCtr (s : State) (sid : Nat) (x : Ses) : (setSes s sid x).freeCtr = s.freeCtr := rfl
@[simp] theorem setSes_reg (s : State) (sid : Nat) (x : Ses) : (setSes s sid x).reg = s.reg := rfl
@[simp] theorem setSes_out (s : State) (sid : Nat) (x : Ses) : (setSes s sid x).out = s.out := rfl
@[simp] theorem setSes_pfx (s : State) (sid : Nat) (x : Ses) : (setSes s sid x).pfx = s.pfx := rfl
@[simp] theorem setSes_tier (s : State) (sid : Nat) (x : Ses) : (setSes s sid x).tier = s.tier := rfl
@[simp] theorem setSes_time (s : State) (sid : Nat) (x : Ses) : (setSes s sid x).time = s.time := rfl
@[simp] theorem setSes_stk (s : State) (sid : Nat) (x : Ses) : (setSes s sid x).stk = s.stk := rfl
@[simp] theorem setSes_prg (s : State) (sid : Nat) (x : Ses) : (setSes s sid x).prg = s.prg := rfl
@[simp] theorem setSes_crw (s : State) (sid : Nat) (x : Ses) : (setSes s sid x).crw = s.crw := rfl
@[simp] theorem setSes_courses (s : State) (sid : Nat) (x : Ses) : (setSes s sid x).courses = s.courses := rfl
@[simp] theorem setSes_courseWaits (s : State) (sid : Nat) (x : Ses) : (setSes s sid x).courseWaits = s.courseWaits := rfl
@[simp] theorem setSes_bld (s : State) (sid : Nat) (x : Ses) : (setSes s sid x).bld = s.bld := rfl
@[simp] theorem setSes_gov (s : State) (sid : Nat) (x : Ses) : (setSes s sid x).gov = s.gov := rfl
@[simp] theorem setSes_flt (s : State) (sid : Nat) (x : Ses) : (setSes s sid x).flt = s.flt := rfl
@[simp] theorem setSes_lnk (s : State) (sid : Nat) (x : Ses) : (setSes s sid x).lnk = s.lnk := rfl
@[simp] theorem setSes_eg (s : State) (sid : Nat) (x : Ses) : (setSes s sid x).eg = s.eg := rfl
@[simp] theorem setSes_txt (s : State) (sid : Nat) (x : Ses) : (setSes s sid x).txt = s.txt := rfl
@[simp] theorem setSes_gsx (s : State) (sid : Nat) (x : Ses) : (setSes s sid x).gsx = s.gsx := rfl
@[simp] theorem setSes_mem (s : State) (sid : Nat) (x : Ses) : (setSes s sid x).mem = s.mem := rfl
@[simp] theorem setSes_ump (s : State) (sid : Nat) (x : Ses) : (setSes s sid x).ump = s.ump := rfl
@[simp] theorem setSes_ckp (s : State) (sid : Nat) (x : Ses) : (setSes s sid x).ckp = s.ckp := rfl
@[simp] theorem setSes_pwr (s : State) (sid : Nat) (x : Ses) : (setSes s sid x).pwr = s.pwr := rfl
@[simp] theorem setSes_sec (s : State) (sid : Nat) (x : Ses) : (setSes s sid x).sec = s.sec := rfl
@[simp] theorem setSes_boot (s : State) (sid : Nat) (x : Ses) : (setSes s sid x).boot = s.boot := rfl
@[simp] theorem setSes_mod (s : State) (sid : Nat) (x : Ses) : (setSes s sid x).mod = s.mod := rfl

-- updSes
@[simp] theorem updSes_pending (s : State) (sid : Nat) (f : Ses → Ses) : (updSes s sid f).pending = s.pending := rfl
@[simp] theorem updSes_freeCtr (s : State) (sid : Nat) (f : Ses → Ses) : (updSes s sid f).freeCtr = s.freeCtr := rfl
@[simp] theorem updSes_reg (s : State) (sid : Nat) (f : Ses → Ses) : (updSes s sid f).reg = s.reg := rfl
@[simp] theorem updSes_out (s : State) (sid : Nat) (f : Ses → Ses) : (updSes s sid f).out = s.out := rfl
@[simp] theorem updSes_pfx (s : State) (sid : Nat) (f : Ses → Ses) : (updSes s sid f).pfx = s.pfx := rfl
@[simp] theorem updSes_tier (s : State) (sid : Nat) (f : Ses → Ses) : (updSes s sid f).tier = s.tier := rfl
@[simp] theorem updSes_time (s : State) (sid : Nat) (f : Ses → Ses) : (updSes s sid f).time = s.time := rfl
@[simp] theorem updSes_stk (s : State) (sid : Nat) (f : Ses → Ses) : (updSes s sid f).stk = s.stk := rfl
@[simp] theorem updSes_prg (s : State) (sid : Nat) (f : Ses → Ses) : (updSes s sid f).prg = s.prg := rfl
@[simp] theorem updSes_crw (s : State) (sid : Nat) (f : Ses → Ses) : (updSes s sid f).crw = s.crw := rfl
@[simp] theorem updSes_courses (s : State) (sid : Nat) (f : Ses → Ses) : (updSes s sid f).courses = s.courses := rfl
@[simp] theorem updSes_courseWaits (s : State) (sid : Nat) (f : Ses → Ses) : (updSes s sid f).courseWaits = s.courseWaits := rfl
@[simp] theorem updSes_bld (s : State) (sid : Nat) (f : Ses → Ses) : (updSes s sid f).bld = s.bld := rfl
@[simp] theorem updSes_gov (s : State) (sid : Nat) (f : Ses → Ses) : (updSes s sid f).gov = s.gov := rfl
@[simp] theorem updSes_flt (s : State) (sid : Nat) (f : Ses → Ses) : (updSes s sid f).flt = s.flt := rfl
@[simp] theorem updSes_lnk (s : State) (sid : Nat) (f : Ses → Ses) : (updSes s sid f).lnk = s.lnk := rfl
@[simp] theorem updSes_eg (s : State) (sid : Nat) (f : Ses → Ses) : (updSes s sid f).eg = s.eg := rfl
@[simp] theorem updSes_txt (s : State) (sid : Nat) (f : Ses → Ses) : (updSes s sid f).txt = s.txt := rfl
@[simp] theorem updSes_gsx (s : State) (sid : Nat) (f : Ses → Ses) : (updSes s sid f).gsx = s.gsx := rfl
@[simp] theorem updSes_mem (s : State) (sid : Nat) (f : Ses → Ses) : (updSes s sid f).mem = s.mem := rfl
@[simp] theorem updSes_ump (s : State) (sid : Nat) (f : Ses → Ses) : (updSes s sid f).ump = s.ump := rfl
@[simp] theorem updSes_ckp (s : State) (sid : Nat) (f : Ses → Ses) : (updSes s sid f).ckp = s.ckp := rfl
@[simp] theorem updSes_pwr (s : State) (sid : Nat) (f : Ses → Ses) : (updSes s sid f).pwr = s.pwr := rfl
@[simp] theorem updSes_sec (s : State) (sid : Nat) (f : Ses → Ses) : (updSes s sid f).sec = s.sec := rfl
@[simp] theorem updSes_boot (s : State) (sid : Nat) (f : Ses → Ses) : (updSes s sid f).boot = s.boot := rfl
@[simp] theorem updSes_mod (s : State) (sid : Nat) (f : Ses → Ses) : (updSes s sid f).mod = s.mod := rfl

-- setPte
@[simp] theorem setPte_pending (s : State) (p : Nat) (e : Pte) : (setPte s p e).pending = s.pending := rfl
@[simp] theorem setPte_freeCtr (s : State) (p : Nat) (e : Pte) : (setPte s p e).freeCtr = s.freeCtr := rfl
@[simp] theorem setPte_reg (s : State) (p : Nat) (e : Pte) : (setPte s p e).reg = s.reg := rfl
@[simp] theorem setPte_out (s : State) (p : Nat) (e : Pte) : (setPte s p e).out = s.out := rfl
@[simp] theorem setPte_ses (s : State) (p : Nat) (e : Pte) : (setPte s p e).ses = s.ses := rfl
@[simp] theorem setPte_pfx (s : State) (p : Nat) (e : Pte) : (setPte s p e).pfx = s.pfx := rfl
@[simp] theorem setPte_time (s : State) (p : Nat) (e : Pte) : (setPte s p e).time = s.time := rfl
@[simp] theorem setPte_stk (s : State) (p : Nat) (e : Pte) : (setPte s p e).stk = s.stk := rfl
@[simp] theorem setPte_prg (s : State) (p : Nat) (e : Pte) : (setPte s p e).prg = s.prg := rfl
@[simp] theorem setPte_crw (s : State) (p : Nat) (e : Pte) : (setPte s p e).crw = s.crw := rfl
@[simp] theorem setPte_courses (s : State) (p : Nat) (e : Pte) : (setPte s p e).courses = s.courses := rfl
@[simp] theorem setPte_courseWaits (s : State) (p : Nat) (e : Pte) : (setPte s p e).courseWaits = s.courseWaits := rfl
@[simp] theorem setPte_bld (s : State) (p : Nat) (e : Pte) : (setPte s p e).bld = s.bld := rfl
@[simp] theorem setPte_gov (s : State) (p : Nat) (e : Pte) : (setPte s p e).gov = s.gov := rfl
@[simp] theorem setPte_flt (s : State) (p : Nat) (e : Pte) : (setPte s p e).flt = s.flt := rfl
@[simp] theorem setPte_lnk (s : State) (p : Nat) (e : Pte) : (setPte s p e).lnk = s.lnk := rfl
@[simp] theorem setPte_eg (s : State) (p : Nat) (e : Pte) : (setPte s p e).eg = s.eg := rfl
@[simp] theorem setPte_txt (s : State) (p : Nat) (e : Pte) : (setPte s p e).txt = s.txt := rfl
@[simp] theorem setPte_gsx (s : State) (p : Nat) (e : Pte) : (setPte s p e).gsx = s.gsx := rfl
@[simp] theorem setPte_mem (s : State) (p : Nat) (e : Pte) : (setPte s p e).mem = s.mem := rfl
@[simp] theorem setPte_ump (s : State) (p : Nat) (e : Pte) : (setPte s p e).ump = s.ump := rfl
@[simp] theorem setPte_ckp (s : State) (p : Nat) (e : Pte) : (setPte s p e).ckp = s.ckp := rfl
@[simp] theorem setPte_pwr (s : State) (p : Nat) (e : Pte) : (setPte s p e).pwr = s.pwr := rfl
@[simp] theorem setPte_sec (s : State) (p : Nat) (e : Pte) : (setPte s p e).sec = s.sec := rfl
@[simp] theorem setPte_boot (s : State) (p : Nat) (e : Pte) : (setPte s p e).boot = s.boot := rfl
@[simp] theorem setPte_mod (s : State) (p : Nat) (e : Pte) : (setPte s p e).mod = s.mod := rfl

-- setOp
@[simp] theorem setOp_pending (s : State) (id : Nat) (o : OpEnt) : (setOp s id o).pending = s.pending := rfl
@[simp] theorem setOp_freeCtr (s : State) (id : Nat) (o : OpEnt) : (setOp s id o).freeCtr = s.freeCtr := rfl
@[simp] theorem setOp_reg (s : State) (id : Nat) (o : OpEnt) : (setOp s id o).reg = s.reg := rfl
@[simp] theorem setOp_out (s : State) (id : Nat) (o : OpEnt) : (setOp s id o).out = s.out := rfl
@[simp] theorem setOp_ses (s : State) (id : Nat) (o : OpEnt) : (setOp s id o).ses = s.ses := rfl
@[simp] theorem setOp_pfx (s : State) (id : Nat) (o : OpEnt) : (setOp s id o).pfx = s.pfx := rfl
@[simp] theorem setOp_time (s : State) (id : Nat) (o : OpEnt) : (setOp s id o).time = s.time := rfl
@[simp] theorem setOp_stk (s : State) (id : Nat) (o : OpEnt) : (setOp s id o).stk = s.stk := rfl
@[simp] theorem setOp_prg (s : State) (id : Nat) (o : OpEnt) : (setOp s id o).prg = s.prg := rfl
@[simp] theorem setOp_crw (s : State) (id : Nat) (o : OpEnt) : (setOp s id o).crw = s.crw := rfl
@[simp] theorem setOp_courses (s : State) (id : Nat) (o : OpEnt) : (setOp s id o).courses = s.courses := rfl
@[simp] theorem setOp_courseWaits (s : State) (id : Nat) (o : OpEnt) : (setOp s id o).courseWaits = s.courseWaits := rfl
@[simp] theorem setOp_bld (s : State) (id : Nat) (o : OpEnt) : (setOp s id o).bld = s.bld := rfl
@[simp] theorem setOp_gov (s : State) (id : Nat) (o : OpEnt) : (setOp s id o).gov = s.gov := rfl
@[simp] theorem setOp_flt (s : State) (id : Nat) (o : OpEnt) : (setOp s id o).flt = s.flt := rfl
@[simp] theorem setOp_lnk (s : State) (id : Nat) (o : OpEnt) : (setOp s id o).lnk = s.lnk := rfl
@[simp] theorem setOp_eg (s : State) (id : Nat) (o : OpEnt) : (setOp s id o).eg = s.eg := rfl
@[simp] theorem setOp_txt (s : State) (id : Nat) (o : OpEnt) : (setOp s id o).txt = s.txt := rfl
@[simp] theorem setOp_gsx (s : State) (id : Nat) (o : OpEnt) : (setOp s id o).gsx = s.gsx := rfl
@[simp] theorem setOp_mem (s : State) (id : Nat) (o : OpEnt) : (setOp s id o).mem = s.mem := rfl
@[simp] theorem setOp_ump (s : State) (id : Nat) (o : OpEnt) : (setOp s id o).ump = s.ump := rfl
@[simp] theorem setOp_ckp (s : State) (id : Nat) (o : OpEnt) : (setOp s id o).ckp = s.ckp := rfl
@[simp] theorem setOp_pwr (s : State) (id : Nat) (o : OpEnt) : (setOp s id o).pwr = s.pwr := rfl
@[simp] theorem setOp_sec (s : State) (id : Nat) (o : OpEnt) : (setOp s id o).sec = s.sec := rfl
@[simp] theorem setOp_boot (s : State) (id : Nat) (o : OpEnt) : (setOp s id o).boot = s.boot := rfl
@[simp] theorem setOp_mod (s : State) (id : Nat) (o : OpEnt) : (setOp s id o).mod = s.mod := rfl

-- addCharge
@[simp] theorem addCharge_pending (s : State) (c : Charge) : (addCharge s c).pending = s.pending := by unfold addCharge; (repeat' split) <;> rfl
@[simp] theorem addCharge_freeCtr (s : State) (c : Charge) : (addCharge s c).freeCtr = s.freeCtr := by unfold addCharge; (repeat' split) <;> rfl
@[simp] theorem addCharge_reg (s : State) (c : Charge) : (addCharge s c).reg = s.reg := by unfold addCharge; (repeat' split) <;> rfl
@[simp] theorem addCharge_out (s : State) (c : Charge) : (addCharge s c).out = s.out := by unfold addCharge; (repeat' split) <;> rfl
@[simp] theorem addCharge_ses (s : State) (c : Charge) : (addCharge s c).ses = s.ses := by unfold addCharge; (repeat' split) <;> rfl
@[simp] theorem addCharge_pfx (s : State) (c : Charge) : (addCharge s c).pfx = s.pfx := by unfold addCharge; (repeat' split) <;> rfl
@[simp] theorem addCharge_time (s : State) (c : Charge) : (addCharge s c).time = s.time := by unfold addCharge; (repeat' split) <;> rfl
@[simp] theorem addCharge_stk (s : State) (c : Charge) : (addCharge s c).stk = s.stk := by unfold addCharge; (repeat' split) <;> rfl
@[simp] theorem addCharge_prg (s : State) (c : Charge) : (addCharge s c).prg = s.prg := by unfold addCharge; (repeat' split) <;> rfl
@[simp] theorem addCharge_crw (s : State) (c : Charge) : (addCharge s c).crw = s.crw := by unfold addCharge; (repeat' split) <;> rfl
@[simp] theorem addCharge_courses (s : State) (c : Charge) : (addCharge s c).courses = s.courses := by unfold addCharge; (repeat' split) <;> rfl
@[simp] theorem addCharge_courseWaits (s : State) (c : Charge) : (addCharge s c).courseWaits = s.courseWaits := by unfold addCharge; (repeat' split) <;> rfl
@[simp] theorem addCharge_bld (s : State) (c : Charge) : (addCharge s c).bld = s.bld := by unfold addCharge; (repeat' split) <;> rfl
@[simp] theorem addCharge_gov (s : State) (c : Charge) : (addCharge s c).gov = s.gov := by unfold addCharge; (repeat' split) <;> rfl
@[simp] theorem addCharge_flt (s : State) (c : Charge) : (addCharge s c).flt = s.flt := by unfold addCharge; (repeat' split) <;> rfl
@[simp] theorem addCharge_lnk (s : State) (c : Charge) : (addCharge s c).lnk = s.lnk := by unfold addCharge; (repeat' split) <;> rfl
@[simp] theorem addCharge_eg (s : State) (c : Charge) : (addCharge s c).eg = s.eg := by unfold addCharge; (repeat' split) <;> rfl
@[simp] theorem addCharge_txt (s : State) (c : Charge) : (addCharge s c).txt = s.txt := by unfold addCharge; (repeat' split) <;> rfl
@[simp] theorem addCharge_gsx (s : State) (c : Charge) : (addCharge s c).gsx = s.gsx := by unfold addCharge; (repeat' split) <;> rfl
@[simp] theorem addCharge_mem (s : State) (c : Charge) : (addCharge s c).mem = s.mem := by unfold addCharge; (repeat' split) <;> rfl
@[simp] theorem addCharge_ump (s : State) (c : Charge) : (addCharge s c).ump = s.ump := by unfold addCharge; (repeat' split) <;> rfl
@[simp] theorem addCharge_ckp (s : State) (c : Charge) : (addCharge s c).ckp = s.ckp := by unfold addCharge; (repeat' split) <;> rfl
@[simp] theorem addCharge_pwr (s : State) (c : Charge) : (addCharge s c).pwr = s.pwr := by unfold addCharge; (repeat' split) <;> rfl
@[simp] theorem addCharge_sec (s : State) (c : Charge) : (addCharge s c).sec = s.sec := by unfold addCharge; (repeat' split) <;> rfl
@[simp] theorem addCharge_boot (s : State) (c : Charge) : (addCharge s c).boot = s.boot := by unfold addCharge; (repeat' split) <;> rfl
@[simp] theorem addCharge_mod (s : State) (c : Charge) : (addCharge s c).mod = s.mod := by unfold addCharge; (repeat' split) <;> rfl

-- dirtyReserve
@[simp] theorem dirtyReserve_pending (s : State) (n : Nat) : (dirtyReserve s n).pending = s.pending := rfl
@[simp] theorem dirtyReserve_freeCtr (s : State) (n : Nat) : (dirtyReserve s n).freeCtr = s.freeCtr := rfl
@[simp] theorem dirtyReserve_reg (s : State) (n : Nat) : (dirtyReserve s n).reg = s.reg := rfl
@[simp] theorem dirtyReserve_out (s : State) (n : Nat) : (dirtyReserve s n).out = s.out := rfl
@[simp] theorem dirtyReserve_ses (s : State) (n : Nat) : (dirtyReserve s n).ses = s.ses := rfl
@[simp] theorem dirtyReserve_pfx (s : State) (n : Nat) : (dirtyReserve s n).pfx = s.pfx := rfl
@[simp] theorem dirtyReserve_time (s : State) (n : Nat) : (dirtyReserve s n).time = s.time := rfl
@[simp] theorem dirtyReserve_stk (s : State) (n : Nat) : (dirtyReserve s n).stk = s.stk := rfl
@[simp] theorem dirtyReserve_prg (s : State) (n : Nat) : (dirtyReserve s n).prg = s.prg := rfl
@[simp] theorem dirtyReserve_crw (s : State) (n : Nat) : (dirtyReserve s n).crw = s.crw := rfl
@[simp] theorem dirtyReserve_courses (s : State) (n : Nat) : (dirtyReserve s n).courses = s.courses := rfl
@[simp] theorem dirtyReserve_courseWaits (s : State) (n : Nat) : (dirtyReserve s n).courseWaits = s.courseWaits := rfl
@[simp] theorem dirtyReserve_bld (s : State) (n : Nat) : (dirtyReserve s n).bld = s.bld := rfl
@[simp] theorem dirtyReserve_gov (s : State) (n : Nat) : (dirtyReserve s n).gov = s.gov := rfl
@[simp] theorem dirtyReserve_flt (s : State) (n : Nat) : (dirtyReserve s n).flt = s.flt := rfl
@[simp] theorem dirtyReserve_lnk (s : State) (n : Nat) : (dirtyReserve s n).lnk = s.lnk := rfl
@[simp] theorem dirtyReserve_eg (s : State) (n : Nat) : (dirtyReserve s n).eg = s.eg := rfl
@[simp] theorem dirtyReserve_txt (s : State) (n : Nat) : (dirtyReserve s n).txt = s.txt := rfl
@[simp] theorem dirtyReserve_gsx (s : State) (n : Nat) : (dirtyReserve s n).gsx = s.gsx := rfl
@[simp] theorem dirtyReserve_mem (s : State) (n : Nat) : (dirtyReserve s n).mem = s.mem := rfl
@[simp] theorem dirtyReserve_ump (s : State) (n : Nat) : (dirtyReserve s n).ump = s.ump := rfl
@[simp] theorem dirtyReserve_ckp (s : State) (n : Nat) : (dirtyReserve s n).ckp = s.ckp := rfl
@[simp] theorem dirtyReserve_pwr (s : State) (n : Nat) : (dirtyReserve s n).pwr = s.pwr := rfl
@[simp] theorem dirtyReserve_sec (s : State) (n : Nat) : (dirtyReserve s n).sec = s.sec := rfl
@[simp] theorem dirtyReserve_boot (s : State) (n : Nat) : (dirtyReserve s n).boot = s.boot := rfl
@[simp] theorem dirtyReserve_mod (s : State) (n : Nat) : (dirtyReserve s n).mod = s.mod := rfl

-- wrWord
@[simp] theorem wrWord_pending (s : State) (b : Blk) (inst bank off v : Nat) : (wrWord s b inst bank off v).pending = s.pending := rfl
@[simp] theorem wrWord_freeCtr (s : State) (b : Blk) (inst bank off v : Nat) : (wrWord s b inst bank off v).freeCtr = s.freeCtr := rfl
@[simp] theorem wrWord_out (s : State) (b : Blk) (inst bank off v : Nat) : (wrWord s b inst bank off v).out = s.out := rfl
@[simp] theorem wrWord_ses (s : State) (b : Blk) (inst bank off v : Nat) : (wrWord s b inst bank off v).ses = s.ses := rfl
@[simp] theorem wrWord_pfx (s : State) (b : Blk) (inst bank off v : Nat) : (wrWord s b inst bank off v).pfx = s.pfx := rfl
@[simp] theorem wrWord_tier (s : State) (b : Blk) (inst bank off v : Nat) : (wrWord s b inst bank off v).tier = s.tier := rfl
@[simp] theorem wrWord_time (s : State) (b : Blk) (inst bank off v : Nat) : (wrWord s b inst bank off v).time = s.time := rfl
@[simp] theorem wrWord_stk (s : State) (b : Blk) (inst bank off v : Nat) : (wrWord s b inst bank off v).stk = s.stk := rfl
@[simp] theorem wrWord_prg (s : State) (b : Blk) (inst bank off v : Nat) : (wrWord s b inst bank off v).prg = s.prg := rfl
@[simp] theorem wrWord_crw (s : State) (b : Blk) (inst bank off v : Nat) : (wrWord s b inst bank off v).crw = s.crw := rfl
@[simp] theorem wrWord_courses (s : State) (b : Blk) (inst bank off v : Nat) : (wrWord s b inst bank off v).courses = s.courses := rfl
@[simp] theorem wrWord_courseWaits (s : State) (b : Blk) (inst bank off v : Nat) : (wrWord s b inst bank off v).courseWaits = s.courseWaits := rfl
@[simp] theorem wrWord_bld (s : State) (b : Blk) (inst bank off v : Nat) : (wrWord s b inst bank off v).bld = s.bld := rfl
@[simp] theorem wrWord_gov (s : State) (b : Blk) (inst bank off v : Nat) : (wrWord s b inst bank off v).gov = s.gov := rfl
@[simp] theorem wrWord_flt (s : State) (b : Blk) (inst bank off v : Nat) : (wrWord s b inst bank off v).flt = s.flt := rfl
@[simp] theorem wrWord_lnk (s : State) (b : Blk) (inst bank off v : Nat) : (wrWord s b inst bank off v).lnk = s.lnk := rfl
@[simp] theorem wrWord_eg (s : State) (b : Blk) (inst bank off v : Nat) : (wrWord s b inst bank off v).eg = s.eg := rfl
@[simp] theorem wrWord_txt (s : State) (b : Blk) (inst bank off v : Nat) : (wrWord s b inst bank off v).txt = s.txt := rfl
@[simp] theorem wrWord_gsx (s : State) (b : Blk) (inst bank off v : Nat) : (wrWord s b inst bank off v).gsx = s.gsx := rfl
@[simp] theorem wrWord_mem (s : State) (b : Blk) (inst bank off v : Nat) : (wrWord s b inst bank off v).mem = s.mem := rfl
@[simp] theorem wrWord_ump (s : State) (b : Blk) (inst bank off v : Nat) : (wrWord s b inst bank off v).ump = s.ump := rfl
@[simp] theorem wrWord_ckp (s : State) (b : Blk) (inst bank off v : Nat) : (wrWord s b inst bank off v).ckp = s.ckp := rfl
@[simp] theorem wrWord_pwr (s : State) (b : Blk) (inst bank off v : Nat) : (wrWord s b inst bank off v).pwr = s.pwr := rfl
@[simp] theorem wrWord_sec (s : State) (b : Blk) (inst bank off v : Nat) : (wrWord s b inst bank off v).sec = s.sec := rfl
@[simp] theorem wrWord_boot (s : State) (b : Blk) (inst bank off v : Nat) : (wrWord s b inst bank off v).boot = s.boot := rfl
@[simp] theorem wrWord_mod (s : State) (b : Blk) (inst bank off v : Nat) : (wrWord s b inst bank off v).mod = s.mod := rfl

-- wrF
@[simp] theorem wrF_pending (s : State) (f : Fld) (v : Nat) : (wrF s f v).pending = s.pending := rfl
@[simp] theorem wrF_freeCtr (s : State) (f : Fld) (v : Nat) : (wrF s f v).freeCtr = s.freeCtr := rfl
@[simp] theorem wrF_out (s : State) (f : Fld) (v : Nat) : (wrF s f v).out = s.out := rfl
@[simp] theorem wrF_ses (s : State) (f : Fld) (v : Nat) : (wrF s f v).ses = s.ses := rfl
@[simp] theorem wrF_pfx (s : State) (f : Fld) (v : Nat) : (wrF s f v).pfx = s.pfx := rfl
@[simp] theorem wrF_tier (s : State) (f : Fld) (v : Nat) : (wrF s f v).tier = s.tier := rfl
@[simp] theorem wrF_time (s : State) (f : Fld) (v : Nat) : (wrF s f v).time = s.time := rfl
@[simp] theorem wrF_stk (s : State) (f : Fld) (v : Nat) : (wrF s f v).stk = s.stk := rfl
@[simp] theorem wrF_prg (s : State) (f : Fld) (v : Nat) : (wrF s f v).prg = s.prg := rfl
@[simp] theorem wrF_crw (s : State) (f : Fld) (v : Nat) : (wrF s f v).crw = s.crw := rfl
@[simp] theorem wrF_courses (s : State) (f : Fld) (v : Nat) : (wrF s f v).courses = s.courses := rfl
@[simp] theorem wrF_courseWaits (s : State) (f : Fld) (v : Nat) : (wrF s f v).courseWaits = s.courseWaits := rfl
@[simp] theorem wrF_bld (s : State) (f : Fld) (v : Nat) : (wrF s f v).bld = s.bld := rfl
@[simp] theorem wrF_gov (s : State) (f : Fld) (v : Nat) : (wrF s f v).gov = s.gov := rfl
@[simp] theorem wrF_flt (s : State) (f : Fld) (v : Nat) : (wrF s f v).flt = s.flt := rfl
@[simp] theorem wrF_lnk (s : State) (f : Fld) (v : Nat) : (wrF s f v).lnk = s.lnk := rfl
@[simp] theorem wrF_eg (s : State) (f : Fld) (v : Nat) : (wrF s f v).eg = s.eg := rfl
@[simp] theorem wrF_txt (s : State) (f : Fld) (v : Nat) : (wrF s f v).txt = s.txt := rfl
@[simp] theorem wrF_gsx (s : State) (f : Fld) (v : Nat) : (wrF s f v).gsx = s.gsx := rfl
@[simp] theorem wrF_mem (s : State) (f : Fld) (v : Nat) : (wrF s f v).mem = s.mem := rfl
@[simp] theorem wrF_ump (s : State) (f : Fld) (v : Nat) : (wrF s f v).ump = s.ump := rfl
@[simp] theorem wrF_ckp (s : State) (f : Fld) (v : Nat) : (wrF s f v).ckp = s.ckp := rfl
@[simp] theorem wrF_pwr (s : State) (f : Fld) (v : Nat) : (wrF s f v).pwr = s.pwr := rfl
@[simp] theorem wrF_sec (s : State) (f : Fld) (v : Nat) : (wrF s f v).sec = s.sec := rfl
@[simp] theorem wrF_boot (s : State) (f : Fld) (v : Nat) : (wrF s f v).boot = s.boot := rfl
@[simp] theorem wrF_mod (s : State) (f : Fld) (v : Nat) : (wrF s f v).mod = s.mod := rfl

-- wrI
@[simp] theorem wrI_pending (s : State) (f : Fld) (inst v : Nat) : (wrI s f inst v).pending = s.pending := rfl
@[simp] theorem wrI_freeCtr (s : State) (f : Fld) (inst v : Nat) : (wrI s f inst v).freeCtr = s.freeCtr := rfl
@[simp] theorem wrI_out (s : State) (f : Fld) (inst v : Nat) : (wrI s f inst v).out = s.out := rfl
@[simp] theorem wrI_ses (s : State) (f : Fld) (inst v : Nat) : (wrI s f inst v).ses = s.ses := rfl
@[simp] theorem wrI_pfx (s : State) (f : Fld) (inst v : Nat) : (wrI s f inst v).pfx = s.pfx := rfl
@[simp] theorem wrI_tier (s : State) (f : Fld) (inst v : Nat) : (wrI s f inst v).tier = s.tier := rfl
@[simp] theorem wrI_time (s : State) (f : Fld) (inst v : Nat) : (wrI s f inst v).time = s.time := rfl
@[simp] theorem wrI_stk (s : State) (f : Fld) (inst v : Nat) : (wrI s f inst v).stk = s.stk := rfl
@[simp] theorem wrI_prg (s : State) (f : Fld) (inst v : Nat) : (wrI s f inst v).prg = s.prg := rfl
@[simp] theorem wrI_crw (s : State) (f : Fld) (inst v : Nat) : (wrI s f inst v).crw = s.crw := rfl
@[simp] theorem wrI_courses (s : State) (f : Fld) (inst v : Nat) : (wrI s f inst v).courses = s.courses := rfl
@[simp] theorem wrI_courseWaits (s : State) (f : Fld) (inst v : Nat) : (wrI s f inst v).courseWaits = s.courseWaits := rfl
@[simp] theorem wrI_bld (s : State) (f : Fld) (inst v : Nat) : (wrI s f inst v).bld = s.bld := rfl
@[simp] theorem wrI_gov (s : State) (f : Fld) (inst v : Nat) : (wrI s f inst v).gov = s.gov := rfl
@[simp] theorem wrI_flt (s : State) (f : Fld) (inst v : Nat) : (wrI s f inst v).flt = s.flt := rfl
@[simp] theorem wrI_lnk (s : State) (f : Fld) (inst v : Nat) : (wrI s f inst v).lnk = s.lnk := rfl
@[simp] theorem wrI_eg (s : State) (f : Fld) (inst v : Nat) : (wrI s f inst v).eg = s.eg := rfl
@[simp] theorem wrI_txt (s : State) (f : Fld) (inst v : Nat) : (wrI s f inst v).txt = s.txt := rfl
@[simp] theorem wrI_gsx (s : State) (f : Fld) (inst v : Nat) : (wrI s f inst v).gsx = s.gsx := rfl
@[simp] theorem wrI_mem (s : State) (f : Fld) (inst v : Nat) : (wrI s f inst v).mem = s.mem := rfl
@[simp] theorem wrI_ump (s : State) (f : Fld) (inst v : Nat) : (wrI s f inst v).ump = s.ump := rfl
@[simp] theorem wrI_ckp (s : State) (f : Fld) (inst v : Nat) : (wrI s f inst v).ckp = s.ckp := rfl
@[simp] theorem wrI_pwr (s : State) (f : Fld) (inst v : Nat) : (wrI s f inst v).pwr = s.pwr := rfl
@[simp] theorem wrI_sec (s : State) (f : Fld) (inst v : Nat) : (wrI s f inst v).sec = s.sec := rfl
@[simp] theorem wrI_boot (s : State) (f : Fld) (inst v : Nat) : (wrI s f inst v).boot = s.boot := rfl
@[simp] theorem wrI_mod (s : State) (f : Fld) (inst v : Nat) : (wrI s f inst v).mod = s.mod := rfl

-- setCrewRec
@[simp] theorem setCrewRec_pending (s : State) (k : Nat) (x : Crew) : (setCrewRec s k x).pending = s.pending := rfl
@[simp] theorem setCrewRec_freeCtr (s : State) (k : Nat) (x : Crew) : (setCrewRec s k x).freeCtr = s.freeCtr := rfl
@[simp] theorem setCrewRec_reg (s : State) (k : Nat) (x : Crew) : (setCrewRec s k x).reg = s.reg := rfl
@[simp] theorem setCrewRec_out (s : State) (k : Nat) (x : Crew) : (setCrewRec s k x).out = s.out := rfl
@[simp] theorem setCrewRec_ses (s : State) (k : Nat) (x : Crew) : (setCrewRec s k x).ses = s.ses := rfl
@[simp] theorem setCrewRec_pfx (s : State) (k : Nat) (x : Crew) : (setCrewRec s k x).pfx = s.pfx := rfl
@[simp] theorem setCrewRec_tier (s : State) (k : Nat) (x : Crew) : (setCrewRec s k x).tier = s.tier := rfl
@[simp] theorem setCrewRec_time (s : State) (k : Nat) (x : Crew) : (setCrewRec s k x).time = s.time := rfl
@[simp] theorem setCrewRec_stk (s : State) (k : Nat) (x : Crew) : (setCrewRec s k x).stk = s.stk := rfl
@[simp] theorem setCrewRec_prg (s : State) (k : Nat) (x : Crew) : (setCrewRec s k x).prg = s.prg := rfl
@[simp] theorem setCrewRec_courses (s : State) (k : Nat) (x : Crew) : (setCrewRec s k x).courses = s.courses := rfl
@[simp] theorem setCrewRec_courseWaits (s : State) (k : Nat) (x : Crew) : (setCrewRec s k x).courseWaits = s.courseWaits := rfl
@[simp] theorem setCrewRec_bld (s : State) (k : Nat) (x : Crew) : (setCrewRec s k x).bld = s.bld := rfl
@[simp] theorem setCrewRec_gov (s : State) (k : Nat) (x : Crew) : (setCrewRec s k x).gov = s.gov := rfl
@[simp] theorem setCrewRec_flt (s : State) (k : Nat) (x : Crew) : (setCrewRec s k x).flt = s.flt := rfl
@[simp] theorem setCrewRec_lnk (s : State) (k : Nat) (x : Crew) : (setCrewRec s k x).lnk = s.lnk := rfl
@[simp] theorem setCrewRec_eg (s : State) (k : Nat) (x : Crew) : (setCrewRec s k x).eg = s.eg := rfl
@[simp] theorem setCrewRec_txt (s : State) (k : Nat) (x : Crew) : (setCrewRec s k x).txt = s.txt := rfl
@[simp] theorem setCrewRec_gsx (s : State) (k : Nat) (x : Crew) : (setCrewRec s k x).gsx = s.gsx := rfl
@[simp] theorem setCrewRec_mem (s : State) (k : Nat) (x : Crew) : (setCrewRec s k x).mem = s.mem := rfl
@[simp] theorem setCrewRec_ump (s : State) (k : Nat) (x : Crew) : (setCrewRec s k x).ump = s.ump := rfl
@[simp] theorem setCrewRec_ckp (s : State) (k : Nat) (x : Crew) : (setCrewRec s k x).ckp = s.ckp := rfl
@[simp] theorem setCrewRec_pwr (s : State) (k : Nat) (x : Crew) : (setCrewRec s k x).pwr = s.pwr := rfl
@[simp] theorem setCrewRec_sec (s : State) (k : Nat) (x : Crew) : (setCrewRec s k x).sec = s.sec := rfl
@[simp] theorem setCrewRec_boot (s : State) (k : Nat) (x : Crew) : (setCrewRec s k x).boot = s.boot := rfl
@[simp] theorem setCrewRec_mod (s : State) (k : Nat) (x : Crew) : (setCrewRec s k x).mod = s.mod := rfl

-- updCrew
@[simp] theorem updCrew_pending (s : State) (k : Nat) (f : Crew → Crew) : (updCrew s k f).pending = s.pending := rfl
@[simp] theorem updCrew_freeCtr (s : State) (k : Nat) (f : Crew → Crew) : (updCrew s k f).freeCtr = s.freeCtr := rfl
@[simp] theorem updCrew_reg (s : State) (k : Nat) (f : Crew → Crew) : (updCrew s k f).reg = s.reg := rfl
@[simp] theorem updCrew_out (s : State) (k : Nat) (f : Crew → Crew) : (updCrew s k f).out = s.out := rfl
@[simp] theorem updCrew_ses (s : State) (k : Nat) (f : Crew → Crew) : (updCrew s k f).ses = s.ses := rfl
@[simp] theorem updCrew_pfx (s : State) (k : Nat) (f : Crew → Crew) : (updCrew s k f).pfx = s.pfx := rfl
@[simp] theorem updCrew_tier (s : State) (k : Nat) (f : Crew → Crew) : (updCrew s k f).tier = s.tier := rfl
@[simp] theorem updCrew_time (s : State) (k : Nat) (f : Crew → Crew) : (updCrew s k f).time = s.time := rfl
@[simp] theorem updCrew_stk (s : State) (k : Nat) (f : Crew → Crew) : (updCrew s k f).stk = s.stk := rfl
@[simp] theorem updCrew_prg (s : State) (k : Nat) (f : Crew → Crew) : (updCrew s k f).prg = s.prg := rfl
@[simp] theorem updCrew_courses (s : State) (k : Nat) (f : Crew → Crew) : (updCrew s k f).courses = s.courses := rfl
@[simp] theorem updCrew_courseWaits (s : State) (k : Nat) (f : Crew → Crew) : (updCrew s k f).courseWaits = s.courseWaits := rfl
@[simp] theorem updCrew_bld (s : State) (k : Nat) (f : Crew → Crew) : (updCrew s k f).bld = s.bld := rfl
@[simp] theorem updCrew_gov (s : State) (k : Nat) (f : Crew → Crew) : (updCrew s k f).gov = s.gov := rfl
@[simp] theorem updCrew_flt (s : State) (k : Nat) (f : Crew → Crew) : (updCrew s k f).flt = s.flt := rfl
@[simp] theorem updCrew_lnk (s : State) (k : Nat) (f : Crew → Crew) : (updCrew s k f).lnk = s.lnk := rfl
@[simp] theorem updCrew_eg (s : State) (k : Nat) (f : Crew → Crew) : (updCrew s k f).eg = s.eg := rfl
@[simp] theorem updCrew_txt (s : State) (k : Nat) (f : Crew → Crew) : (updCrew s k f).txt = s.txt := rfl
@[simp] theorem updCrew_gsx (s : State) (k : Nat) (f : Crew → Crew) : (updCrew s k f).gsx = s.gsx := rfl
@[simp] theorem updCrew_mem (s : State) (k : Nat) (f : Crew → Crew) : (updCrew s k f).mem = s.mem := rfl
@[simp] theorem updCrew_ump (s : State) (k : Nat) (f : Crew → Crew) : (updCrew s k f).ump = s.ump := rfl
@[simp] theorem updCrew_ckp (s : State) (k : Nat) (f : Crew → Crew) : (updCrew s k f).ckp = s.ckp := rfl
@[simp] theorem updCrew_pwr (s : State) (k : Nat) (f : Crew → Crew) : (updCrew s k f).pwr = s.pwr := rfl
@[simp] theorem updCrew_sec (s : State) (k : Nat) (f : Crew → Crew) : (updCrew s k f).sec = s.sec := rfl
@[simp] theorem updCrew_boot (s : State) (k : Nat) (f : Crew → Crew) : (updCrew s k f).boot = s.boot := rfl
@[simp] theorem updCrew_mod (s : State) (k : Nat) (f : Crew → Crew) : (updCrew s k f).mod = s.mod := rfl

-- setPass
@[simp] theorem setPass_pending (s : State) (i : Nat) (p : Pass) : (setPass s i p).pending = s.pending := rfl
@[simp] theorem setPass_freeCtr (s : State) (i : Nat) (p : Pass) : (setPass s i p).freeCtr = s.freeCtr := rfl
@[simp] theorem setPass_reg (s : State) (i : Nat) (p : Pass) : (setPass s i p).reg = s.reg := rfl
@[simp] theorem setPass_out (s : State) (i : Nat) (p : Pass) : (setPass s i p).out = s.out := rfl
@[simp] theorem setPass_ses (s : State) (i : Nat) (p : Pass) : (setPass s i p).ses = s.ses := rfl
@[simp] theorem setPass_pfx (s : State) (i : Nat) (p : Pass) : (setPass s i p).pfx = s.pfx := rfl
@[simp] theorem setPass_tier (s : State) (i : Nat) (p : Pass) : (setPass s i p).tier = s.tier := rfl
@[simp] theorem setPass_time (s : State) (i : Nat) (p : Pass) : (setPass s i p).time = s.time := rfl
@[simp] theorem setPass_prg (s : State) (i : Nat) (p : Pass) : (setPass s i p).prg = s.prg := rfl
@[simp] theorem setPass_crw (s : State) (i : Nat) (p : Pass) : (setPass s i p).crw = s.crw := rfl
@[simp] theorem setPass_courses (s : State) (i : Nat) (p : Pass) : (setPass s i p).courses = s.courses := rfl
@[simp] theorem setPass_courseWaits (s : State) (i : Nat) (p : Pass) : (setPass s i p).courseWaits = s.courseWaits := rfl
@[simp] theorem setPass_bld (s : State) (i : Nat) (p : Pass) : (setPass s i p).bld = s.bld := rfl
@[simp] theorem setPass_gov (s : State) (i : Nat) (p : Pass) : (setPass s i p).gov = s.gov := rfl
@[simp] theorem setPass_flt (s : State) (i : Nat) (p : Pass) : (setPass s i p).flt = s.flt := rfl
@[simp] theorem setPass_lnk (s : State) (i : Nat) (p : Pass) : (setPass s i p).lnk = s.lnk := rfl
@[simp] theorem setPass_eg (s : State) (i : Nat) (p : Pass) : (setPass s i p).eg = s.eg := rfl
@[simp] theorem setPass_txt (s : State) (i : Nat) (p : Pass) : (setPass s i p).txt = s.txt := rfl
@[simp] theorem setPass_gsx (s : State) (i : Nat) (p : Pass) : (setPass s i p).gsx = s.gsx := rfl
@[simp] theorem setPass_mem (s : State) (i : Nat) (p : Pass) : (setPass s i p).mem = s.mem := rfl
@[simp] theorem setPass_ump (s : State) (i : Nat) (p : Pass) : (setPass s i p).ump = s.ump := rfl
@[simp] theorem setPass_ckp (s : State) (i : Nat) (p : Pass) : (setPass s i p).ckp = s.ckp := rfl
@[simp] theorem setPass_pwr (s : State) (i : Nat) (p : Pass) : (setPass s i p).pwr = s.pwr := rfl
@[simp] theorem setPass_sec (s : State) (i : Nat) (p : Pass) : (setPass s i p).sec = s.sec := rfl
@[simp] theorem setPass_boot (s : State) (i : Nat) (p : Pass) : (setPass s i p).boot = s.boot := rfl
@[simp] theorem setPass_mod (s : State) (i : Nat) (p : Pass) : (setPass s i p).mod = s.mod := rfl

-- updPass
@[simp] theorem updPass_pending (s : State) (i : Nat) (f : Pass → Pass) : (updPass s i f).pending = s.pending := rfl
@[simp] theorem updPass_freeCtr (s : State) (i : Nat) (f : Pass → Pass) : (updPass s i f).freeCtr = s.freeCtr := rfl
@[simp] theorem updPass_reg (s : State) (i : Nat) (f : Pass → Pass) : (updPass s i f).reg = s.reg := rfl
@[simp] theorem updPass_out (s : State) (i : Nat) (f : Pass → Pass) : (updPass s i f).out = s.out := rfl
@[simp] theorem updPass_ses (s : State) (i : Nat) (f : Pass → Pass) : (updPass s i f).ses = s.ses := rfl
@[simp] theorem updPass_pfx (s : State) (i : Nat) (f : Pass → Pass) : (updPass s i f).pfx = s.pfx := rfl
@[simp] theorem updPass_tier (s : State) (i : Nat) (f : Pass → Pass) : (updPass s i f).tier = s.tier := rfl
@[simp] theorem updPass_time (s : State) (i : Nat) (f : Pass → Pass) : (updPass s i f).time = s.time := rfl
@[simp] theorem updPass_prg (s : State) (i : Nat) (f : Pass → Pass) : (updPass s i f).prg = s.prg := rfl
@[simp] theorem updPass_crw (s : State) (i : Nat) (f : Pass → Pass) : (updPass s i f).crw = s.crw := rfl
@[simp] theorem updPass_courses (s : State) (i : Nat) (f : Pass → Pass) : (updPass s i f).courses = s.courses := rfl
@[simp] theorem updPass_courseWaits (s : State) (i : Nat) (f : Pass → Pass) : (updPass s i f).courseWaits = s.courseWaits := rfl
@[simp] theorem updPass_bld (s : State) (i : Nat) (f : Pass → Pass) : (updPass s i f).bld = s.bld := rfl
@[simp] theorem updPass_gov (s : State) (i : Nat) (f : Pass → Pass) : (updPass s i f).gov = s.gov := rfl
@[simp] theorem updPass_flt (s : State) (i : Nat) (f : Pass → Pass) : (updPass s i f).flt = s.flt := rfl
@[simp] theorem updPass_lnk (s : State) (i : Nat) (f : Pass → Pass) : (updPass s i f).lnk = s.lnk := rfl
@[simp] theorem updPass_eg (s : State) (i : Nat) (f : Pass → Pass) : (updPass s i f).eg = s.eg := rfl
@[simp] theorem updPass_txt (s : State) (i : Nat) (f : Pass → Pass) : (updPass s i f).txt = s.txt := rfl
@[simp] theorem updPass_gsx (s : State) (i : Nat) (f : Pass → Pass) : (updPass s i f).gsx = s.gsx := rfl
@[simp] theorem updPass_mem (s : State) (i : Nat) (f : Pass → Pass) : (updPass s i f).mem = s.mem := rfl
@[simp] theorem updPass_ump (s : State) (i : Nat) (f : Pass → Pass) : (updPass s i f).ump = s.ump := rfl
@[simp] theorem updPass_ckp (s : State) (i : Nat) (f : Pass → Pass) : (updPass s i f).ckp = s.ckp := rfl
@[simp] theorem updPass_pwr (s : State) (i : Nat) (f : Pass → Pass) : (updPass s i f).pwr = s.pwr := rfl
@[simp] theorem updPass_sec (s : State) (i : Nat) (f : Pass → Pass) : (updPass s i f).sec = s.sec := rfl
@[simp] theorem updPass_boot (s : State) (i : Nat) (f : Pass → Pass) : (updPass s i f).boot = s.boot := rfl
@[simp] theorem updPass_mod (s : State) (i : Nat) (f : Pass → Pass) : (updPass s i f).mod = s.mod := rfl

-- setWalk
@[simp] theorem setWalk_pending (s : State) (w : Nat) (x : Walk) : (setWalk s w x).pending = s.pending := rfl
@[simp] theorem setWalk_freeCtr (s : State) (w : Nat) (x : Walk) : (setWalk s w x).freeCtr = s.freeCtr := rfl
@[simp] theorem setWalk_reg (s : State) (w : Nat) (x : Walk) : (setWalk s w x).reg = s.reg := rfl
@[simp] theorem setWalk_out (s : State) (w : Nat) (x : Walk) : (setWalk s w x).out = s.out := rfl
@[simp] theorem setWalk_ses (s : State) (w : Nat) (x : Walk) : (setWalk s w x).ses = s.ses := rfl
@[simp] theorem setWalk_pfx (s : State) (w : Nat) (x : Walk) : (setWalk s w x).pfx = s.pfx := rfl
@[simp] theorem setWalk_tier (s : State) (w : Nat) (x : Walk) : (setWalk s w x).tier = s.tier := rfl
@[simp] theorem setWalk_time (s : State) (w : Nat) (x : Walk) : (setWalk s w x).time = s.time := rfl
@[simp] theorem setWalk_stk (s : State) (w : Nat) (x : Walk) : (setWalk s w x).stk = s.stk := rfl
@[simp] theorem setWalk_prg (s : State) (w : Nat) (x : Walk) : (setWalk s w x).prg = s.prg := rfl
@[simp] theorem setWalk_crw (s : State) (w : Nat) (x : Walk) : (setWalk s w x).crw = s.crw := rfl
@[simp] theorem setWalk_courses (s : State) (w : Nat) (x : Walk) : (setWalk s w x).courses = s.courses := rfl
@[simp] theorem setWalk_courseWaits (s : State) (w : Nat) (x : Walk) : (setWalk s w x).courseWaits = s.courseWaits := rfl
@[simp] theorem setWalk_bld (s : State) (w : Nat) (x : Walk) : (setWalk s w x).bld = s.bld := rfl
@[simp] theorem setWalk_gov (s : State) (w : Nat) (x : Walk) : (setWalk s w x).gov = s.gov := rfl
@[simp] theorem setWalk_flt (s : State) (w : Nat) (x : Walk) : (setWalk s w x).flt = s.flt := rfl
@[simp] theorem setWalk_lnk (s : State) (w : Nat) (x : Walk) : (setWalk s w x).lnk = s.lnk := rfl
@[simp] theorem setWalk_eg (s : State) (w : Nat) (x : Walk) : (setWalk s w x).eg = s.eg := rfl
@[simp] theorem setWalk_txt (s : State) (w : Nat) (x : Walk) : (setWalk s w x).txt = s.txt := rfl
@[simp] theorem setWalk_gsx (s : State) (w : Nat) (x : Walk) : (setWalk s w x).gsx = s.gsx := rfl
@[simp] theorem setWalk_ump (s : State) (w : Nat) (x : Walk) : (setWalk s w x).ump = s.ump := rfl
@[simp] theorem setWalk_ckp (s : State) (w : Nat) (x : Walk) : (setWalk s w x).ckp = s.ckp := rfl
@[simp] theorem setWalk_pwr (s : State) (w : Nat) (x : Walk) : (setWalk s w x).pwr = s.pwr := rfl
@[simp] theorem setWalk_sec (s : State) (w : Nat) (x : Walk) : (setWalk s w x).sec = s.sec := rfl
@[simp] theorem setWalk_boot (s : State) (w : Nat) (x : Walk) : (setWalk s w x).boot = s.boot := rfl
@[simp] theorem setWalk_mod (s : State) (w : Nat) (x : Walk) : (setWalk s w x).mod = s.mod := rfl

-- updIdx
@[simp] theorem updIdx_pending (s : State) (i : Nat) (f : MemIdx → MemIdx) : (updIdx s i f).pending = s.pending := rfl
@[simp] theorem updIdx_freeCtr (s : State) (i : Nat) (f : MemIdx → MemIdx) : (updIdx s i f).freeCtr = s.freeCtr := rfl
@[simp] theorem updIdx_reg (s : State) (i : Nat) (f : MemIdx → MemIdx) : (updIdx s i f).reg = s.reg := rfl
@[simp] theorem updIdx_out (s : State) (i : Nat) (f : MemIdx → MemIdx) : (updIdx s i f).out = s.out := rfl
@[simp] theorem updIdx_ses (s : State) (i : Nat) (f : MemIdx → MemIdx) : (updIdx s i f).ses = s.ses := rfl
@[simp] theorem updIdx_pfx (s : State) (i : Nat) (f : MemIdx → MemIdx) : (updIdx s i f).pfx = s.pfx := rfl
@[simp] theorem updIdx_tier (s : State) (i : Nat) (f : MemIdx → MemIdx) : (updIdx s i f).tier = s.tier := rfl
@[simp] theorem updIdx_time (s : State) (i : Nat) (f : MemIdx → MemIdx) : (updIdx s i f).time = s.time := rfl
@[simp] theorem updIdx_stk (s : State) (i : Nat) (f : MemIdx → MemIdx) : (updIdx s i f).stk = s.stk := rfl
@[simp] theorem updIdx_prg (s : State) (i : Nat) (f : MemIdx → MemIdx) : (updIdx s i f).prg = s.prg := rfl
@[simp] theorem updIdx_crw (s : State) (i : Nat) (f : MemIdx → MemIdx) : (updIdx s i f).crw = s.crw := rfl
@[simp] theorem updIdx_courses (s : State) (i : Nat) (f : MemIdx → MemIdx) : (updIdx s i f).courses = s.courses := rfl
@[simp] theorem updIdx_courseWaits (s : State) (i : Nat) (f : MemIdx → MemIdx) : (updIdx s i f).courseWaits = s.courseWaits := rfl
@[simp] theorem updIdx_bld (s : State) (i : Nat) (f : MemIdx → MemIdx) : (updIdx s i f).bld = s.bld := rfl
@[simp] theorem updIdx_gov (s : State) (i : Nat) (f : MemIdx → MemIdx) : (updIdx s i f).gov = s.gov := rfl
@[simp] theorem updIdx_flt (s : State) (i : Nat) (f : MemIdx → MemIdx) : (updIdx s i f).flt = s.flt := rfl
@[simp] theorem updIdx_lnk (s : State) (i : Nat) (f : MemIdx → MemIdx) : (updIdx s i f).lnk = s.lnk := rfl
@[simp] theorem updIdx_eg (s : State) (i : Nat) (f : MemIdx → MemIdx) : (updIdx s i f).eg = s.eg := rfl
@[simp] theorem updIdx_txt (s : State) (i : Nat) (f : MemIdx → MemIdx) : (updIdx s i f).txt = s.txt := rfl
@[simp] theorem updIdx_gsx (s : State) (i : Nat) (f : MemIdx → MemIdx) : (updIdx s i f).gsx = s.gsx := rfl
@[simp] theorem updIdx_ump (s : State) (i : Nat) (f : MemIdx → MemIdx) : (updIdx s i f).ump = s.ump := rfl
@[simp] theorem updIdx_ckp (s : State) (i : Nat) (f : MemIdx → MemIdx) : (updIdx s i f).ckp = s.ckp := rfl
@[simp] theorem updIdx_pwr (s : State) (i : Nat) (f : MemIdx → MemIdx) : (updIdx s i f).pwr = s.pwr := rfl
@[simp] theorem updIdx_sec (s : State) (i : Nat) (f : MemIdx → MemIdx) : (updIdx s i f).sec = s.sec := rfl
@[simp] theorem updIdx_boot (s : State) (i : Nat) (f : MemIdx → MemIdx) : (updIdx s i f).boot = s.boot := rfl
@[simp] theorem updIdx_mod (s : State) (i : Nat) (f : MemIdx → MemIdx) : (updIdx s i f).mod = s.mod := rfl

-- updQp
@[simp] theorem updQp_pending (s : State) (q : Nat) (f : Qp → Qp) : (updQp s q f).pending = s.pending := rfl
@[simp] theorem updQp_freeCtr (s : State) (q : Nat) (f : Qp → Qp) : (updQp s q f).freeCtr = s.freeCtr := rfl
@[simp] theorem updQp_reg (s : State) (q : Nat) (f : Qp → Qp) : (updQp s q f).reg = s.reg := rfl
@[simp] theorem updQp_out (s : State) (q : Nat) (f : Qp → Qp) : (updQp s q f).out = s.out := rfl
@[simp] theorem updQp_ses (s : State) (q : Nat) (f : Qp → Qp) : (updQp s q f).ses = s.ses := rfl
@[simp] theorem updQp_pfx (s : State) (q : Nat) (f : Qp → Qp) : (updQp s q f).pfx = s.pfx := rfl
@[simp] theorem updQp_tier (s : State) (q : Nat) (f : Qp → Qp) : (updQp s q f).tier = s.tier := rfl
@[simp] theorem updQp_time (s : State) (q : Nat) (f : Qp → Qp) : (updQp s q f).time = s.time := rfl
@[simp] theorem updQp_stk (s : State) (q : Nat) (f : Qp → Qp) : (updQp s q f).stk = s.stk := rfl
@[simp] theorem updQp_prg (s : State) (q : Nat) (f : Qp → Qp) : (updQp s q f).prg = s.prg := rfl
@[simp] theorem updQp_crw (s : State) (q : Nat) (f : Qp → Qp) : (updQp s q f).crw = s.crw := rfl
@[simp] theorem updQp_courses (s : State) (q : Nat) (f : Qp → Qp) : (updQp s q f).courses = s.courses := rfl
@[simp] theorem updQp_courseWaits (s : State) (q : Nat) (f : Qp → Qp) : (updQp s q f).courseWaits = s.courseWaits := rfl
@[simp] theorem updQp_bld (s : State) (q : Nat) (f : Qp → Qp) : (updQp s q f).bld = s.bld := rfl
@[simp] theorem updQp_gov (s : State) (q : Nat) (f : Qp → Qp) : (updQp s q f).gov = s.gov := rfl
@[simp] theorem updQp_flt (s : State) (q : Nat) (f : Qp → Qp) : (updQp s q f).flt = s.flt := rfl
@[simp] theorem updQp_eg (s : State) (q : Nat) (f : Qp → Qp) : (updQp s q f).eg = s.eg := rfl
@[simp] theorem updQp_txt (s : State) (q : Nat) (f : Qp → Qp) : (updQp s q f).txt = s.txt := rfl
@[simp] theorem updQp_gsx (s : State) (q : Nat) (f : Qp → Qp) : (updQp s q f).gsx = s.gsx := rfl
@[simp] theorem updQp_mem (s : State) (q : Nat) (f : Qp → Qp) : (updQp s q f).mem = s.mem := rfl
@[simp] theorem updQp_ump (s : State) (q : Nat) (f : Qp → Qp) : (updQp s q f).ump = s.ump := rfl
@[simp] theorem updQp_ckp (s : State) (q : Nat) (f : Qp → Qp) : (updQp s q f).ckp = s.ckp := rfl
@[simp] theorem updQp_pwr (s : State) (q : Nat) (f : Qp → Qp) : (updQp s q f).pwr = s.pwr := rfl
@[simp] theorem updQp_sec (s : State) (q : Nat) (f : Qp → Qp) : (updQp s q f).sec = s.sec := rfl
@[simp] theorem updQp_boot (s : State) (q : Nat) (f : Qp → Qp) : (updQp s q f).boot = s.boot := rfl
@[simp] theorem updQp_mod (s : State) (q : Nat) (f : Qp → Qp) : (updQp s q f).mod = s.mod := rfl

-- noteErr
@[simp] theorem noteErr_pending (s : State) (n : ErrNote) : (noteErr s n).pending = s.pending := rfl
@[simp] theorem noteErr_freeCtr (s : State) (n : ErrNote) : (noteErr s n).freeCtr = s.freeCtr := rfl
@[simp] theorem noteErr_reg (s : State) (n : ErrNote) : (noteErr s n).reg = s.reg := rfl
@[simp] theorem noteErr_out (s : State) (n : ErrNote) : (noteErr s n).out = s.out := rfl
@[simp] theorem noteErr_ses (s : State) (n : ErrNote) : (noteErr s n).ses = s.ses := rfl
@[simp] theorem noteErr_pfx (s : State) (n : ErrNote) : (noteErr s n).pfx = s.pfx := rfl
@[simp] theorem noteErr_tier (s : State) (n : ErrNote) : (noteErr s n).tier = s.tier := rfl
@[simp] theorem noteErr_time (s : State) (n : ErrNote) : (noteErr s n).time = s.time := rfl
@[simp] theorem noteErr_stk (s : State) (n : ErrNote) : (noteErr s n).stk = s.stk := rfl
@[simp] theorem noteErr_prg (s : State) (n : ErrNote) : (noteErr s n).prg = s.prg := rfl
@[simp] theorem noteErr_crw (s : State) (n : ErrNote) : (noteErr s n).crw = s.crw := rfl
@[simp] theorem noteErr_courses (s : State) (n : ErrNote) : (noteErr s n).courses = s.courses := rfl
@[simp] theorem noteErr_courseWaits (s : State) (n : ErrNote) : (noteErr s n).courseWaits = s.courseWaits := rfl
@[simp] theorem noteErr_bld (s : State) (n : ErrNote) : (noteErr s n).bld = s.bld := rfl
@[simp] theorem noteErr_gov (s : State) (n : ErrNote) : (noteErr s n).gov = s.gov := rfl
@[simp] theorem noteErr_lnk (s : State) (n : ErrNote) : (noteErr s n).lnk = s.lnk := rfl
@[simp] theorem noteErr_eg (s : State) (n : ErrNote) : (noteErr s n).eg = s.eg := rfl
@[simp] theorem noteErr_txt (s : State) (n : ErrNote) : (noteErr s n).txt = s.txt := rfl
@[simp] theorem noteErr_gsx (s : State) (n : ErrNote) : (noteErr s n).gsx = s.gsx := rfl
@[simp] theorem noteErr_mem (s : State) (n : ErrNote) : (noteErr s n).mem = s.mem := rfl
@[simp] theorem noteErr_ump (s : State) (n : ErrNote) : (noteErr s n).ump = s.ump := rfl
@[simp] theorem noteErr_ckp (s : State) (n : ErrNote) : (noteErr s n).ckp = s.ckp := rfl
@[simp] theorem noteErr_pwr (s : State) (n : ErrNote) : (noteErr s n).pwr = s.pwr := rfl
@[simp] theorem noteErr_sec (s : State) (n : ErrNote) : (noteErr s n).sec = s.sec := rfl
@[simp] theorem noteErr_boot (s : State) (n : ErrNote) : (noteErr s n).boot = s.boot := rfl
@[simp] theorem noteErr_mod (s : State) (n : ErrNote) : (noteErr s n).mod = s.mod := rfl

-- setRun
@[simp] theorem setRun_pending (s : State) (g : Nat) (r : BladeRun) : (setRun s g r).pending = s.pending := rfl
@[simp] theorem setRun_freeCtr (s : State) (g : Nat) (r : BladeRun) : (setRun s g r).freeCtr = s.freeCtr := rfl
@[simp] theorem setRun_reg (s : State) (g : Nat) (r : BladeRun) : (setRun s g r).reg = s.reg := rfl
@[simp] theorem setRun_out (s : State) (g : Nat) (r : BladeRun) : (setRun s g r).out = s.out := rfl
@[simp] theorem setRun_ses (s : State) (g : Nat) (r : BladeRun) : (setRun s g r).ses = s.ses := rfl
@[simp] theorem setRun_pfx (s : State) (g : Nat) (r : BladeRun) : (setRun s g r).pfx = s.pfx := rfl
@[simp] theorem setRun_tier (s : State) (g : Nat) (r : BladeRun) : (setRun s g r).tier = s.tier := rfl
@[simp] theorem setRun_time (s : State) (g : Nat) (r : BladeRun) : (setRun s g r).time = s.time := rfl
@[simp] theorem setRun_stk (s : State) (g : Nat) (r : BladeRun) : (setRun s g r).stk = s.stk := rfl
@[simp] theorem setRun_prg (s : State) (g : Nat) (r : BladeRun) : (setRun s g r).prg = s.prg := rfl
@[simp] theorem setRun_crw (s : State) (g : Nat) (r : BladeRun) : (setRun s g r).crw = s.crw := rfl
@[simp] theorem setRun_courses (s : State) (g : Nat) (r : BladeRun) : (setRun s g r).courses = s.courses := rfl
@[simp] theorem setRun_courseWaits (s : State) (g : Nat) (r : BladeRun) : (setRun s g r).courseWaits = s.courseWaits := rfl
@[simp] theorem setRun_gov (s : State) (g : Nat) (r : BladeRun) : (setRun s g r).gov = s.gov := rfl
@[simp] theorem setRun_flt (s : State) (g : Nat) (r : BladeRun) : (setRun s g r).flt = s.flt := rfl
@[simp] theorem setRun_lnk (s : State) (g : Nat) (r : BladeRun) : (setRun s g r).lnk = s.lnk := rfl
@[simp] theorem setRun_eg (s : State) (g : Nat) (r : BladeRun) : (setRun s g r).eg = s.eg := rfl
@[simp] theorem setRun_txt (s : State) (g : Nat) (r : BladeRun) : (setRun s g r).txt = s.txt := rfl
@[simp] theorem setRun_gsx (s : State) (g : Nat) (r : BladeRun) : (setRun s g r).gsx = s.gsx := rfl
@[simp] theorem setRun_mem (s : State) (g : Nat) (r : BladeRun) : (setRun s g r).mem = s.mem := rfl
@[simp] theorem setRun_ump (s : State) (g : Nat) (r : BladeRun) : (setRun s g r).ump = s.ump := rfl
@[simp] theorem setRun_ckp (s : State) (g : Nat) (r : BladeRun) : (setRun s g r).ckp = s.ckp := rfl
@[simp] theorem setRun_pwr (s : State) (g : Nat) (r : BladeRun) : (setRun s g r).pwr = s.pwr := rfl
@[simp] theorem setRun_sec (s : State) (g : Nat) (r : BladeRun) : (setRun s g r).sec = s.sec := rfl
@[simp] theorem setRun_boot (s : State) (g : Nat) (r : BladeRun) : (setRun s g r).boot = s.boot := rfl
@[simp] theorem setRun_mod (s : State) (g : Nat) (r : BladeRun) : (setRun s g r).mod = s.mod := rfl

-- setBus
@[simp] theorem setBus_pending (s : State) (pc : Nat) (b : BusSt) : (setBus s pc b).pending = s.pending := rfl
@[simp] theorem setBus_freeCtr (s : State) (pc : Nat) (b : BusSt) : (setBus s pc b).freeCtr = s.freeCtr := rfl
@[simp] theorem setBus_reg (s : State) (pc : Nat) (b : BusSt) : (setBus s pc b).reg = s.reg := rfl
@[simp] theorem setBus_out (s : State) (pc : Nat) (b : BusSt) : (setBus s pc b).out = s.out := rfl
@[simp] theorem setBus_ses (s : State) (pc : Nat) (b : BusSt) : (setBus s pc b).ses = s.ses := rfl
@[simp] theorem setBus_pfx (s : State) (pc : Nat) (b : BusSt) : (setBus s pc b).pfx = s.pfx := rfl
@[simp] theorem setBus_tier (s : State) (pc : Nat) (b : BusSt) : (setBus s pc b).tier = s.tier := rfl
@[simp] theorem setBus_time (s : State) (pc : Nat) (b : BusSt) : (setBus s pc b).time = s.time := rfl
@[simp] theorem setBus_stk (s : State) (pc : Nat) (b : BusSt) : (setBus s pc b).stk = s.stk := rfl
@[simp] theorem setBus_prg (s : State) (pc : Nat) (b : BusSt) : (setBus s pc b).prg = s.prg := rfl
@[simp] theorem setBus_crw (s : State) (pc : Nat) (b : BusSt) : (setBus s pc b).crw = s.crw := rfl
@[simp] theorem setBus_courses (s : State) (pc : Nat) (b : BusSt) : (setBus s pc b).courses = s.courses := rfl
@[simp] theorem setBus_courseWaits (s : State) (pc : Nat) (b : BusSt) : (setBus s pc b).courseWaits = s.courseWaits := rfl
@[simp] theorem setBus_gov (s : State) (pc : Nat) (b : BusSt) : (setBus s pc b).gov = s.gov := rfl
@[simp] theorem setBus_flt (s : State) (pc : Nat) (b : BusSt) : (setBus s pc b).flt = s.flt := rfl
@[simp] theorem setBus_lnk (s : State) (pc : Nat) (b : BusSt) : (setBus s pc b).lnk = s.lnk := rfl
@[simp] theorem setBus_eg (s : State) (pc : Nat) (b : BusSt) : (setBus s pc b).eg = s.eg := rfl
@[simp] theorem setBus_txt (s : State) (pc : Nat) (b : BusSt) : (setBus s pc b).txt = s.txt := rfl
@[simp] theorem setBus_gsx (s : State) (pc : Nat) (b : BusSt) : (setBus s pc b).gsx = s.gsx := rfl
@[simp] theorem setBus_mem (s : State) (pc : Nat) (b : BusSt) : (setBus s pc b).mem = s.mem := rfl
@[simp] theorem setBus_ump (s : State) (pc : Nat) (b : BusSt) : (setBus s pc b).ump = s.ump := rfl
@[simp] theorem setBus_ckp (s : State) (pc : Nat) (b : BusSt) : (setBus s pc b).ckp = s.ckp := rfl
@[simp] theorem setBus_pwr (s : State) (pc : Nat) (b : BusSt) : (setBus s pc b).pwr = s.pwr := rfl
@[simp] theorem setBus_sec (s : State) (pc : Nat) (b : BusSt) : (setBus s pc b).sec = s.sec := rfl
@[simp] theorem setBus_boot (s : State) (pc : Nat) (b : BusSt) : (setBus s pc b).boot = s.boot := rfl
@[simp] theorem setBus_mod (s : State) (pc : Nat) (b : BusSt) : (setBus s pc b).mod = s.mod := rfl

-- setOwed
@[simp] theorem setOwed_pending (s : State) (b n : Nat) : (setOwed s b n).pending = s.pending := rfl
@[simp] theorem setOwed_freeCtr (s : State) (b n : Nat) : (setOwed s b n).freeCtr = s.freeCtr := rfl
@[simp] theorem setOwed_reg (s : State) (b n : Nat) : (setOwed s b n).reg = s.reg := rfl
@[simp] theorem setOwed_out (s : State) (b n : Nat) : (setOwed s b n).out = s.out := rfl
@[simp] theorem setOwed_ses (s : State) (b n : Nat) : (setOwed s b n).ses = s.ses := rfl
@[simp] theorem setOwed_pfx (s : State) (b n : Nat) : (setOwed s b n).pfx = s.pfx := rfl
@[simp] theorem setOwed_tier (s : State) (b n : Nat) : (setOwed s b n).tier = s.tier := rfl
@[simp] theorem setOwed_time (s : State) (b n : Nat) : (setOwed s b n).time = s.time := rfl
@[simp] theorem setOwed_stk (s : State) (b n : Nat) : (setOwed s b n).stk = s.stk := rfl
@[simp] theorem setOwed_prg (s : State) (b n : Nat) : (setOwed s b n).prg = s.prg := rfl
@[simp] theorem setOwed_crw (s : State) (b n : Nat) : (setOwed s b n).crw = s.crw := rfl
@[simp] theorem setOwed_courses (s : State) (b n : Nat) : (setOwed s b n).courses = s.courses := rfl
@[simp] theorem setOwed_courseWaits (s : State) (b n : Nat) : (setOwed s b n).courseWaits = s.courseWaits := rfl
@[simp] theorem setOwed_gov (s : State) (b n : Nat) : (setOwed s b n).gov = s.gov := rfl
@[simp] theorem setOwed_flt (s : State) (b n : Nat) : (setOwed s b n).flt = s.flt := rfl
@[simp] theorem setOwed_lnk (s : State) (b n : Nat) : (setOwed s b n).lnk = s.lnk := rfl
@[simp] theorem setOwed_eg (s : State) (b n : Nat) : (setOwed s b n).eg = s.eg := rfl
@[simp] theorem setOwed_txt (s : State) (b n : Nat) : (setOwed s b n).txt = s.txt := rfl
@[simp] theorem setOwed_gsx (s : State) (b n : Nat) : (setOwed s b n).gsx = s.gsx := rfl
@[simp] theorem setOwed_mem (s : State) (b n : Nat) : (setOwed s b n).mem = s.mem := rfl
@[simp] theorem setOwed_ump (s : State) (b n : Nat) : (setOwed s b n).ump = s.ump := rfl
@[simp] theorem setOwed_ckp (s : State) (b n : Nat) : (setOwed s b n).ckp = s.ckp := rfl
@[simp] theorem setOwed_pwr (s : State) (b n : Nat) : (setOwed s b n).pwr = s.pwr := rfl
@[simp] theorem setOwed_sec (s : State) (b n : Nat) : (setOwed s b n).sec = s.sec := rfl
@[simp] theorem setOwed_boot (s : State) (b n : Nat) : (setOwed s b n).boot = s.boot := rfl
@[simp] theorem setOwed_mod (s : State) (b n : Nat) : (setOwed s b n).mod = s.mod := rfl

-- sramPut
@[simp] theorem sramPut_pending (s : State) (g off : Nat) (bs : List Byte) : (sramPut s g off bs).pending = s.pending := rfl
@[simp] theorem sramPut_freeCtr (s : State) (g off : Nat) (bs : List Byte) : (sramPut s g off bs).freeCtr = s.freeCtr := rfl
@[simp] theorem sramPut_reg (s : State) (g off : Nat) (bs : List Byte) : (sramPut s g off bs).reg = s.reg := rfl
@[simp] theorem sramPut_out (s : State) (g off : Nat) (bs : List Byte) : (sramPut s g off bs).out = s.out := rfl
@[simp] theorem sramPut_ses (s : State) (g off : Nat) (bs : List Byte) : (sramPut s g off bs).ses = s.ses := rfl
@[simp] theorem sramPut_pfx (s : State) (g off : Nat) (bs : List Byte) : (sramPut s g off bs).pfx = s.pfx := rfl
@[simp] theorem sramPut_tier (s : State) (g off : Nat) (bs : List Byte) : (sramPut s g off bs).tier = s.tier := rfl
@[simp] theorem sramPut_time (s : State) (g off : Nat) (bs : List Byte) : (sramPut s g off bs).time = s.time := rfl
@[simp] theorem sramPut_stk (s : State) (g off : Nat) (bs : List Byte) : (sramPut s g off bs).stk = s.stk := rfl
@[simp] theorem sramPut_prg (s : State) (g off : Nat) (bs : List Byte) : (sramPut s g off bs).prg = s.prg := rfl
@[simp] theorem sramPut_crw (s : State) (g off : Nat) (bs : List Byte) : (sramPut s g off bs).crw = s.crw := rfl
@[simp] theorem sramPut_courses (s : State) (g off : Nat) (bs : List Byte) : (sramPut s g off bs).courses = s.courses := rfl
@[simp] theorem sramPut_courseWaits (s : State) (g off : Nat) (bs : List Byte) : (sramPut s g off bs).courseWaits = s.courseWaits := rfl
@[simp] theorem sramPut_gov (s : State) (g off : Nat) (bs : List Byte) : (sramPut s g off bs).gov = s.gov := rfl
@[simp] theorem sramPut_flt (s : State) (g off : Nat) (bs : List Byte) : (sramPut s g off bs).flt = s.flt := rfl
@[simp] theorem sramPut_lnk (s : State) (g off : Nat) (bs : List Byte) : (sramPut s g off bs).lnk = s.lnk := rfl
@[simp] theorem sramPut_eg (s : State) (g off : Nat) (bs : List Byte) : (sramPut s g off bs).eg = s.eg := rfl
@[simp] theorem sramPut_txt (s : State) (g off : Nat) (bs : List Byte) : (sramPut s g off bs).txt = s.txt := rfl
@[simp] theorem sramPut_gsx (s : State) (g off : Nat) (bs : List Byte) : (sramPut s g off bs).gsx = s.gsx := rfl
@[simp] theorem sramPut_mem (s : State) (g off : Nat) (bs : List Byte) : (sramPut s g off bs).mem = s.mem := rfl
@[simp] theorem sramPut_ump (s : State) (g off : Nat) (bs : List Byte) : (sramPut s g off bs).ump = s.ump := rfl
@[simp] theorem sramPut_ckp (s : State) (g off : Nat) (bs : List Byte) : (sramPut s g off bs).ckp = s.ckp := rfl
@[simp] theorem sramPut_pwr (s : State) (g off : Nat) (bs : List Byte) : (sramPut s g off bs).pwr = s.pwr := rfl
@[simp] theorem sramPut_sec (s : State) (g off : Nat) (bs : List Byte) : (sramPut s g off bs).sec = s.sec := rfl
@[simp] theorem sramPut_boot (s : State) (g off : Nat) (bs : List Byte) : (sramPut s g off bs).boot = s.boot := rfl
@[simp] theorem sramPut_mod (s : State) (g off : Nat) (bs : List Byte) : (sramPut s g off bs).mod = s.mod := rfl

-- storePut
@[simp] theorem storePut_pending (s : State) (g off : Nat) (bs : List Byte) : (storePut s g off bs).pending = s.pending := rfl
@[simp] theorem storePut_freeCtr (s : State) (g off : Nat) (bs : List Byte) : (storePut s g off bs).freeCtr = s.freeCtr := rfl
@[simp] theorem storePut_reg (s : State) (g off : Nat) (bs : List Byte) : (storePut s g off bs).reg = s.reg := rfl
@[simp] theorem storePut_out (s : State) (g off : Nat) (bs : List Byte) : (storePut s g off bs).out = s.out := rfl
@[simp] theorem storePut_ses (s : State) (g off : Nat) (bs : List Byte) : (storePut s g off bs).ses = s.ses := rfl
@[simp] theorem storePut_pfx (s : State) (g off : Nat) (bs : List Byte) : (storePut s g off bs).pfx = s.pfx := rfl
@[simp] theorem storePut_tier (s : State) (g off : Nat) (bs : List Byte) : (storePut s g off bs).tier = s.tier := rfl
@[simp] theorem storePut_time (s : State) (g off : Nat) (bs : List Byte) : (storePut s g off bs).time = s.time := rfl
@[simp] theorem storePut_stk (s : State) (g off : Nat) (bs : List Byte) : (storePut s g off bs).stk = s.stk := rfl
@[simp] theorem storePut_prg (s : State) (g off : Nat) (bs : List Byte) : (storePut s g off bs).prg = s.prg := rfl
@[simp] theorem storePut_crw (s : State) (g off : Nat) (bs : List Byte) : (storePut s g off bs).crw = s.crw := rfl
@[simp] theorem storePut_courses (s : State) (g off : Nat) (bs : List Byte) : (storePut s g off bs).courses = s.courses := rfl
@[simp] theorem storePut_courseWaits (s : State) (g off : Nat) (bs : List Byte) : (storePut s g off bs).courseWaits = s.courseWaits := rfl
@[simp] theorem storePut_gov (s : State) (g off : Nat) (bs : List Byte) : (storePut s g off bs).gov = s.gov := rfl
@[simp] theorem storePut_flt (s : State) (g off : Nat) (bs : List Byte) : (storePut s g off bs).flt = s.flt := rfl
@[simp] theorem storePut_lnk (s : State) (g off : Nat) (bs : List Byte) : (storePut s g off bs).lnk = s.lnk := rfl
@[simp] theorem storePut_eg (s : State) (g off : Nat) (bs : List Byte) : (storePut s g off bs).eg = s.eg := rfl
@[simp] theorem storePut_txt (s : State) (g off : Nat) (bs : List Byte) : (storePut s g off bs).txt = s.txt := rfl
@[simp] theorem storePut_gsx (s : State) (g off : Nat) (bs : List Byte) : (storePut s g off bs).gsx = s.gsx := rfl
@[simp] theorem storePut_mem (s : State) (g off : Nat) (bs : List Byte) : (storePut s g off bs).mem = s.mem := rfl
@[simp] theorem storePut_ump (s : State) (g off : Nat) (bs : List Byte) : (storePut s g off bs).ump = s.ump := rfl
@[simp] theorem storePut_ckp (s : State) (g off : Nat) (bs : List Byte) : (storePut s g off bs).ckp = s.ckp := rfl
@[simp] theorem storePut_pwr (s : State) (g off : Nat) (bs : List Byte) : (storePut s g off bs).pwr = s.pwr := rfl
@[simp] theorem storePut_sec (s : State) (g off : Nat) (bs : List Byte) : (storePut s g off bs).sec = s.sec := rfl
@[simp] theorem storePut_boot (s : State) (g off : Nat) (bs : List Byte) : (storePut s g off bs).boot = s.boot := rfl
@[simp] theorem storePut_mod (s : State) (g off : Nat) (bs : List Byte) : (storePut s g off bs).mod = s.mod := rfl

-- setTen
@[simp] theorem setTen_pending (s : State) (t : Nat) (x : UmpTen) : (setTen s t x).pending = s.pending := rfl
@[simp] theorem setTen_freeCtr (s : State) (t : Nat) (x : UmpTen) : (setTen s t x).freeCtr = s.freeCtr := rfl
@[simp] theorem setTen_reg (s : State) (t : Nat) (x : UmpTen) : (setTen s t x).reg = s.reg := rfl
@[simp] theorem setTen_out (s : State) (t : Nat) (x : UmpTen) : (setTen s t x).out = s.out := rfl
@[simp] theorem setTen_ses (s : State) (t : Nat) (x : UmpTen) : (setTen s t x).ses = s.ses := rfl
@[simp] theorem setTen_pfx (s : State) (t : Nat) (x : UmpTen) : (setTen s t x).pfx = s.pfx := rfl
@[simp] theorem setTen_tier (s : State) (t : Nat) (x : UmpTen) : (setTen s t x).tier = s.tier := rfl
@[simp] theorem setTen_time (s : State) (t : Nat) (x : UmpTen) : (setTen s t x).time = s.time := rfl
@[simp] theorem setTen_stk (s : State) (t : Nat) (x : UmpTen) : (setTen s t x).stk = s.stk := rfl
@[simp] theorem setTen_prg (s : State) (t : Nat) (x : UmpTen) : (setTen s t x).prg = s.prg := rfl
@[simp] theorem setTen_crw (s : State) (t : Nat) (x : UmpTen) : (setTen s t x).crw = s.crw := rfl
@[simp] theorem setTen_courses (s : State) (t : Nat) (x : UmpTen) : (setTen s t x).courses = s.courses := rfl
@[simp] theorem setTen_courseWaits (s : State) (t : Nat) (x : UmpTen) : (setTen s t x).courseWaits = s.courseWaits := rfl
@[simp] theorem setTen_bld (s : State) (t : Nat) (x : UmpTen) : (setTen s t x).bld = s.bld := rfl
@[simp] theorem setTen_gov (s : State) (t : Nat) (x : UmpTen) : (setTen s t x).gov = s.gov := rfl
@[simp] theorem setTen_flt (s : State) (t : Nat) (x : UmpTen) : (setTen s t x).flt = s.flt := rfl
@[simp] theorem setTen_lnk (s : State) (t : Nat) (x : UmpTen) : (setTen s t x).lnk = s.lnk := rfl
@[simp] theorem setTen_eg (s : State) (t : Nat) (x : UmpTen) : (setTen s t x).eg = s.eg := rfl
@[simp] theorem setTen_txt (s : State) (t : Nat) (x : UmpTen) : (setTen s t x).txt = s.txt := rfl
@[simp] theorem setTen_gsx (s : State) (t : Nat) (x : UmpTen) : (setTen s t x).gsx = s.gsx := rfl
@[simp] theorem setTen_mem (s : State) (t : Nat) (x : UmpTen) : (setTen s t x).mem = s.mem := rfl
@[simp] theorem setTen_ckp (s : State) (t : Nat) (x : UmpTen) : (setTen s t x).ckp = s.ckp := rfl
@[simp] theorem setTen_pwr (s : State) (t : Nat) (x : UmpTen) : (setTen s t x).pwr = s.pwr := rfl
@[simp] theorem setTen_sec (s : State) (t : Nat) (x : UmpTen) : (setTen s t x).sec = s.sec := rfl
@[simp] theorem setTen_boot (s : State) (t : Nat) (x : UmpTen) : (setTen s t x).boot = s.boot := rfl
@[simp] theorem setTen_mod (s : State) (t : Nat) (x : UmpTen) : (setTen s t x).mod = s.mod := rfl

-- setIface
@[simp] theorem setIface_pending (s : State) (i : Nat) (x : EgIface) : (setIface s i x).pending = s.pending := rfl
@[simp] theorem setIface_freeCtr (s : State) (i : Nat) (x : EgIface) : (setIface s i x).freeCtr = s.freeCtr := rfl
@[simp] theorem setIface_reg (s : State) (i : Nat) (x : EgIface) : (setIface s i x).reg = s.reg := rfl
@[simp] theorem setIface_out (s : State) (i : Nat) (x : EgIface) : (setIface s i x).out = s.out := rfl
@[simp] theorem setIface_ses (s : State) (i : Nat) (x : EgIface) : (setIface s i x).ses = s.ses := rfl
@[simp] theorem setIface_pfx (s : State) (i : Nat) (x : EgIface) : (setIface s i x).pfx = s.pfx := rfl
@[simp] theorem setIface_tier (s : State) (i : Nat) (x : EgIface) : (setIface s i x).tier = s.tier := rfl
@[simp] theorem setIface_time (s : State) (i : Nat) (x : EgIface) : (setIface s i x).time = s.time := rfl
@[simp] theorem setIface_stk (s : State) (i : Nat) (x : EgIface) : (setIface s i x).stk = s.stk := rfl
@[simp] theorem setIface_prg (s : State) (i : Nat) (x : EgIface) : (setIface s i x).prg = s.prg := rfl
@[simp] theorem setIface_crw (s : State) (i : Nat) (x : EgIface) : (setIface s i x).crw = s.crw := rfl
@[simp] theorem setIface_courses (s : State) (i : Nat) (x : EgIface) : (setIface s i x).courses = s.courses := rfl
@[simp] theorem setIface_courseWaits (s : State) (i : Nat) (x : EgIface) : (setIface s i x).courseWaits = s.courseWaits := rfl
@[simp] theorem setIface_bld (s : State) (i : Nat) (x : EgIface) : (setIface s i x).bld = s.bld := rfl
@[simp] theorem setIface_gov (s : State) (i : Nat) (x : EgIface) : (setIface s i x).gov = s.gov := rfl
@[simp] theorem setIface_flt (s : State) (i : Nat) (x : EgIface) : (setIface s i x).flt = s.flt := rfl
@[simp] theorem setIface_lnk (s : State) (i : Nat) (x : EgIface) : (setIface s i x).lnk = s.lnk := rfl
@[simp] theorem setIface_txt (s : State) (i : Nat) (x : EgIface) : (setIface s i x).txt = s.txt := rfl
@[simp] theorem setIface_gsx (s : State) (i : Nat) (x : EgIface) : (setIface s i x).gsx = s.gsx := rfl
@[simp] theorem setIface_mem (s : State) (i : Nat) (x : EgIface) : (setIface s i x).mem = s.mem := rfl
@[simp] theorem setIface_ump (s : State) (i : Nat) (x : EgIface) : (setIface s i x).ump = s.ump := rfl
@[simp] theorem setIface_ckp (s : State) (i : Nat) (x : EgIface) : (setIface s i x).ckp = s.ckp := rfl
@[simp] theorem setIface_pwr (s : State) (i : Nat) (x : EgIface) : (setIface s i x).pwr = s.pwr := rfl
@[simp] theorem setIface_sec (s : State) (i : Nat) (x : EgIface) : (setIface s i x).sec = s.sec := rfl
@[simp] theorem setIface_boot (s : State) (i : Nat) (x : EgIface) : (setIface s i x).boot = s.boot := rfl
@[simp] theorem setIface_mod (s : State) (i : Nat) (x : EgIface) : (setIface s i x).mod = s.mod := rfl

-- updLeg
@[simp] theorem updLeg_pending (s : State) (k : Nat) (f : GLeg → GLeg) : (updLeg s k f).pending = s.pending := rfl
@[simp] theorem updLeg_freeCtr (s : State) (k : Nat) (f : GLeg → GLeg) : (updLeg s k f).freeCtr = s.freeCtr := rfl
@[simp] theorem updLeg_reg (s : State) (k : Nat) (f : GLeg → GLeg) : (updLeg s k f).reg = s.reg := rfl
@[simp] theorem updLeg_out (s : State) (k : Nat) (f : GLeg → GLeg) : (updLeg s k f).out = s.out := rfl
@[simp] theorem updLeg_ses (s : State) (k : Nat) (f : GLeg → GLeg) : (updLeg s k f).ses = s.ses := rfl
@[simp] theorem updLeg_pfx (s : State) (k : Nat) (f : GLeg → GLeg) : (updLeg s k f).pfx = s.pfx := rfl
@[simp] theorem updLeg_tier (s : State) (k : Nat) (f : GLeg → GLeg) : (updLeg s k f).tier = s.tier := rfl
@[simp] theorem updLeg_time (s : State) (k : Nat) (f : GLeg → GLeg) : (updLeg s k f).time = s.time := rfl
@[simp] theorem updLeg_prg (s : State) (k : Nat) (f : GLeg → GLeg) : (updLeg s k f).prg = s.prg := rfl
@[simp] theorem updLeg_crw (s : State) (k : Nat) (f : GLeg → GLeg) : (updLeg s k f).crw = s.crw := rfl
@[simp] theorem updLeg_courses (s : State) (k : Nat) (f : GLeg → GLeg) : (updLeg s k f).courses = s.courses := rfl
@[simp] theorem updLeg_courseWaits (s : State) (k : Nat) (f : GLeg → GLeg) : (updLeg s k f).courseWaits = s.courseWaits := rfl
@[simp] theorem updLeg_bld (s : State) (k : Nat) (f : GLeg → GLeg) : (updLeg s k f).bld = s.bld := rfl
@[simp] theorem updLeg_gov (s : State) (k : Nat) (f : GLeg → GLeg) : (updLeg s k f).gov = s.gov := rfl
@[simp] theorem updLeg_flt (s : State) (k : Nat) (f : GLeg → GLeg) : (updLeg s k f).flt = s.flt := rfl
@[simp] theorem updLeg_lnk (s : State) (k : Nat) (f : GLeg → GLeg) : (updLeg s k f).lnk = s.lnk := rfl
@[simp] theorem updLeg_eg (s : State) (k : Nat) (f : GLeg → GLeg) : (updLeg s k f).eg = s.eg := rfl
@[simp] theorem updLeg_txt (s : State) (k : Nat) (f : GLeg → GLeg) : (updLeg s k f).txt = s.txt := rfl
@[simp] theorem updLeg_gsx (s : State) (k : Nat) (f : GLeg → GLeg) : (updLeg s k f).gsx = s.gsx := rfl
@[simp] theorem updLeg_mem (s : State) (k : Nat) (f : GLeg → GLeg) : (updLeg s k f).mem = s.mem := rfl
@[simp] theorem updLeg_ump (s : State) (k : Nat) (f : GLeg → GLeg) : (updLeg s k f).ump = s.ump := rfl
@[simp] theorem updLeg_ckp (s : State) (k : Nat) (f : GLeg → GLeg) : (updLeg s k f).ckp = s.ckp := rfl
@[simp] theorem updLeg_pwr (s : State) (k : Nat) (f : GLeg → GLeg) : (updLeg s k f).pwr = s.pwr := rfl
@[simp] theorem updLeg_sec (s : State) (k : Nat) (f : GLeg → GLeg) : (updLeg s k f).sec = s.sec := rfl
@[simp] theorem updLeg_boot (s : State) (k : Nat) (f : GLeg → GLeg) : (updLeg s k f).boot = s.boot := rfl
@[simp] theorem updLeg_mod (s : State) (k : Nat) (f : GLeg → GLeg) : (updLeg s k f).mod = s.mod := rfl

-- touchFrame
@[simp] theorem touchFrame_pending (s : State) (f : Nat) : (touchFrame s f).pending = s.pending := by unfold touchFrame; (repeat' split) <;> rfl
@[simp] theorem touchFrame_freeCtr (s : State) (f : Nat) : (touchFrame s f).freeCtr = s.freeCtr := by unfold touchFrame; (repeat' split) <;> rfl
@[simp] theorem touchFrame_reg (s : State) (f : Nat) : (touchFrame s f).reg = s.reg := by unfold touchFrame; (repeat' split) <;> rfl
@[simp] theorem touchFrame_out (s : State) (f : Nat) : (touchFrame s f).out = s.out := by unfold touchFrame; (repeat' split) <;> rfl
@[simp] theorem touchFrame_ses (s : State) (f : Nat) : (touchFrame s f).ses = s.ses := by unfold touchFrame; (repeat' split) <;> rfl
@[simp] theorem touchFrame_pfx (s : State) (f : Nat) : (touchFrame s f).pfx = s.pfx := by unfold touchFrame; (repeat' split) <;> rfl
@[simp] theorem touchFrame_tier (s : State) (f : Nat) : (touchFrame s f).tier = s.tier := by unfold touchFrame; (repeat' split) <;> rfl
@[simp] theorem touchFrame_time (s : State) (f : Nat) : (touchFrame s f).time = s.time := by unfold touchFrame; (repeat' split) <;> rfl
@[simp] theorem touchFrame_prg (s : State) (f : Nat) : (touchFrame s f).prg = s.prg := by unfold touchFrame; (repeat' split) <;> rfl
@[simp] theorem touchFrame_crw (s : State) (f : Nat) : (touchFrame s f).crw = s.crw := by unfold touchFrame; (repeat' split) <;> rfl
@[simp] theorem touchFrame_courses (s : State) (f : Nat) : (touchFrame s f).courses = s.courses := by unfold touchFrame; (repeat' split) <;> rfl
@[simp] theorem touchFrame_courseWaits (s : State) (f : Nat) : (touchFrame s f).courseWaits = s.courseWaits := by unfold touchFrame; (repeat' split) <;> rfl
@[simp] theorem touchFrame_bld (s : State) (f : Nat) : (touchFrame s f).bld = s.bld := by unfold touchFrame; (repeat' split) <;> rfl
@[simp] theorem touchFrame_gov (s : State) (f : Nat) : (touchFrame s f).gov = s.gov := by unfold touchFrame; (repeat' split) <;> rfl
@[simp] theorem touchFrame_flt (s : State) (f : Nat) : (touchFrame s f).flt = s.flt := by unfold touchFrame; (repeat' split) <;> rfl
@[simp] theorem touchFrame_lnk (s : State) (f : Nat) : (touchFrame s f).lnk = s.lnk := by unfold touchFrame; (repeat' split) <;> rfl
@[simp] theorem touchFrame_eg (s : State) (f : Nat) : (touchFrame s f).eg = s.eg := by unfold touchFrame; (repeat' split) <;> rfl
@[simp] theorem touchFrame_txt (s : State) (f : Nat) : (touchFrame s f).txt = s.txt := by unfold touchFrame; (repeat' split) <;> rfl
@[simp] theorem touchFrame_gsx (s : State) (f : Nat) : (touchFrame s f).gsx = s.gsx := by unfold touchFrame; (repeat' split) <;> rfl
@[simp] theorem touchFrame_mem (s : State) (f : Nat) : (touchFrame s f).mem = s.mem := by unfold touchFrame; (repeat' split) <;> rfl
@[simp] theorem touchFrame_ump (s : State) (f : Nat) : (touchFrame s f).ump = s.ump := by unfold touchFrame; (repeat' split) <;> rfl
@[simp] theorem touchFrame_ckp (s : State) (f : Nat) : (touchFrame s f).ckp = s.ckp := by unfold touchFrame; (repeat' split) <;> rfl
@[simp] theorem touchFrame_pwr (s : State) (f : Nat) : (touchFrame s f).pwr = s.pwr := by unfold touchFrame; (repeat' split) <;> rfl
@[simp] theorem touchFrame_sec (s : State) (f : Nat) : (touchFrame s f).sec = s.sec := by unfold touchFrame; (repeat' split) <;> rfl
@[simp] theorem touchFrame_boot (s : State) (f : Nat) : (touchFrame s f).boot = s.boot := by unfold touchFrame; (repeat' split) <;> rfl
@[simp] theorem touchFrame_mod (s : State) (f : Nat) : (touchFrame s f).mod = s.mod := by unfold touchFrame; (repeat' split) <;> rfl

-- writeFrame
@[simp] theorem writeFrame_pending (s : State) (f off : Nat) (bs : List Byte) : (writeFrame s f off bs).pending = s.pending := rfl
@[simp] theorem writeFrame_freeCtr (s : State) (f off : Nat) (bs : List Byte) : (writeFrame s f off bs).freeCtr = s.freeCtr := rfl
@[simp] theorem writeFrame_reg (s : State) (f off : Nat) (bs : List Byte) : (writeFrame s f off bs).reg = s.reg := rfl
@[simp] theorem writeFrame_out (s : State) (f off : Nat) (bs : List Byte) : (writeFrame s f off bs).out = s.out := rfl
@[simp] theorem writeFrame_ses (s : State) (f off : Nat) (bs : List Byte) : (writeFrame s f off bs).ses = s.ses := rfl
@[simp] theorem writeFrame_pfx (s : State) (f off : Nat) (bs : List Byte) : (writeFrame s f off bs).pfx = s.pfx := rfl
@[simp] theorem writeFrame_time (s : State) (f off : Nat) (bs : List Byte) : (writeFrame s f off bs).time = s.time := rfl
@[simp] theorem writeFrame_stk (s : State) (f off : Nat) (bs : List Byte) : (writeFrame s f off bs).stk = s.stk := rfl
@[simp] theorem writeFrame_prg (s : State) (f off : Nat) (bs : List Byte) : (writeFrame s f off bs).prg = s.prg := rfl
@[simp] theorem writeFrame_crw (s : State) (f off : Nat) (bs : List Byte) : (writeFrame s f off bs).crw = s.crw := rfl
@[simp] theorem writeFrame_courses (s : State) (f off : Nat) (bs : List Byte) : (writeFrame s f off bs).courses = s.courses := rfl
@[simp] theorem writeFrame_courseWaits (s : State) (f off : Nat) (bs : List Byte) : (writeFrame s f off bs).courseWaits = s.courseWaits := rfl
@[simp] theorem writeFrame_bld (s : State) (f off : Nat) (bs : List Byte) : (writeFrame s f off bs).bld = s.bld := rfl
@[simp] theorem writeFrame_gov (s : State) (f off : Nat) (bs : List Byte) : (writeFrame s f off bs).gov = s.gov := rfl
@[simp] theorem writeFrame_flt (s : State) (f off : Nat) (bs : List Byte) : (writeFrame s f off bs).flt = s.flt := rfl
@[simp] theorem writeFrame_lnk (s : State) (f off : Nat) (bs : List Byte) : (writeFrame s f off bs).lnk = s.lnk := rfl
@[simp] theorem writeFrame_eg (s : State) (f off : Nat) (bs : List Byte) : (writeFrame s f off bs).eg = s.eg := rfl
@[simp] theorem writeFrame_txt (s : State) (f off : Nat) (bs : List Byte) : (writeFrame s f off bs).txt = s.txt := rfl
@[simp] theorem writeFrame_gsx (s : State) (f off : Nat) (bs : List Byte) : (writeFrame s f off bs).gsx = s.gsx := rfl
@[simp] theorem writeFrame_mem (s : State) (f off : Nat) (bs : List Byte) : (writeFrame s f off bs).mem = s.mem := rfl
@[simp] theorem writeFrame_ump (s : State) (f off : Nat) (bs : List Byte) : (writeFrame s f off bs).ump = s.ump := rfl
@[simp] theorem writeFrame_ckp (s : State) (f off : Nat) (bs : List Byte) : (writeFrame s f off bs).ckp = s.ckp := rfl
@[simp] theorem writeFrame_pwr (s : State) (f off : Nat) (bs : List Byte) : (writeFrame s f off bs).pwr = s.pwr := rfl
@[simp] theorem writeFrame_sec (s : State) (f off : Nat) (bs : List Byte) : (writeFrame s f off bs).sec = s.sec := rfl
@[simp] theorem writeFrame_boot (s : State) (f off : Nat) (bs : List Byte) : (writeFrame s f off bs).boot = s.boot := rfl
@[simp] theorem writeFrame_mod (s : State) (f off : Nat) (bs : List Byte) : (writeFrame s f off bs).mod = s.mod := rfl

-- zeroFrame
@[simp] theorem zeroFrame_pending (s : State) (f : Nat) : (zeroFrame s f).pending = s.pending := rfl
@[simp] theorem zeroFrame_freeCtr (s : State) (f : Nat) : (zeroFrame s f).freeCtr = s.freeCtr := rfl
@[simp] theorem zeroFrame_reg (s : State) (f : Nat) : (zeroFrame s f).reg = s.reg := rfl
@[simp] theorem zeroFrame_out (s : State) (f : Nat) : (zeroFrame s f).out = s.out := rfl
@[simp] theorem zeroFrame_ses (s : State) (f : Nat) : (zeroFrame s f).ses = s.ses := rfl
@[simp] theorem zeroFrame_pfx (s : State) (f : Nat) : (zeroFrame s f).pfx = s.pfx := rfl
@[simp] theorem zeroFrame_time (s : State) (f : Nat) : (zeroFrame s f).time = s.time := rfl
@[simp] theorem zeroFrame_stk (s : State) (f : Nat) : (zeroFrame s f).stk = s.stk := rfl
@[simp] theorem zeroFrame_prg (s : State) (f : Nat) : (zeroFrame s f).prg = s.prg := rfl
@[simp] theorem zeroFrame_crw (s : State) (f : Nat) : (zeroFrame s f).crw = s.crw := rfl
@[simp] theorem zeroFrame_courses (s : State) (f : Nat) : (zeroFrame s f).courses = s.courses := rfl
@[simp] theorem zeroFrame_courseWaits (s : State) (f : Nat) : (zeroFrame s f).courseWaits = s.courseWaits := rfl
@[simp] theorem zeroFrame_bld (s : State) (f : Nat) : (zeroFrame s f).bld = s.bld := rfl
@[simp] theorem zeroFrame_gov (s : State) (f : Nat) : (zeroFrame s f).gov = s.gov := rfl
@[simp] theorem zeroFrame_flt (s : State) (f : Nat) : (zeroFrame s f).flt = s.flt := rfl
@[simp] theorem zeroFrame_lnk (s : State) (f : Nat) : (zeroFrame s f).lnk = s.lnk := rfl
@[simp] theorem zeroFrame_eg (s : State) (f : Nat) : (zeroFrame s f).eg = s.eg := rfl
@[simp] theorem zeroFrame_txt (s : State) (f : Nat) : (zeroFrame s f).txt = s.txt := rfl
@[simp] theorem zeroFrame_gsx (s : State) (f : Nat) : (zeroFrame s f).gsx = s.gsx := rfl
@[simp] theorem zeroFrame_mem (s : State) (f : Nat) : (zeroFrame s f).mem = s.mem := rfl
@[simp] theorem zeroFrame_ump (s : State) (f : Nat) : (zeroFrame s f).ump = s.ump := rfl
@[simp] theorem zeroFrame_ckp (s : State) (f : Nat) : (zeroFrame s f).ckp = s.ckp := rfl
@[simp] theorem zeroFrame_pwr (s : State) (f : Nat) : (zeroFrame s f).pwr = s.pwr := rfl
@[simp] theorem zeroFrame_sec (s : State) (f : Nat) : (zeroFrame s f).sec = s.sec := rfl
@[simp] theorem zeroFrame_boot (s : State) (f : Nat) : (zeroFrame s f).boot = s.boot := rfl
@[simp] theorem zeroFrame_mod (s : State) (f : Nat) : (zeroFrame s f).mod = s.mod := rfl

-- updAssoc
@[simp] theorem updAssoc_pending (s : State) (id : Nat) (f : Assoc → Assoc) : (updAssoc s id f).pending = s.pending := rfl
@[simp] theorem updAssoc_freeCtr (s : State) (id : Nat) (f : Assoc → Assoc) : (updAssoc s id f).freeCtr = s.freeCtr := rfl
@[simp] theorem updAssoc_reg (s : State) (id : Nat) (f : Assoc → Assoc) : (updAssoc s id f).reg = s.reg := rfl
@[simp] theorem updAssoc_out (s : State) (id : Nat) (f : Assoc → Assoc) : (updAssoc s id f).out = s.out := rfl
@[simp] theorem updAssoc_ses (s : State) (id : Nat) (f : Assoc → Assoc) : (updAssoc s id f).ses = s.ses := rfl
@[simp] theorem updAssoc_pfx (s : State) (id : Nat) (f : Assoc → Assoc) : (updAssoc s id f).pfx = s.pfx := rfl
@[simp] theorem updAssoc_tier (s : State) (id : Nat) (f : Assoc → Assoc) : (updAssoc s id f).tier = s.tier := rfl
@[simp] theorem updAssoc_time (s : State) (id : Nat) (f : Assoc → Assoc) : (updAssoc s id f).time = s.time := rfl
@[simp] theorem updAssoc_stk (s : State) (id : Nat) (f : Assoc → Assoc) : (updAssoc s id f).stk = s.stk := rfl
@[simp] theorem updAssoc_prg (s : State) (id : Nat) (f : Assoc → Assoc) : (updAssoc s id f).prg = s.prg := rfl
@[simp] theorem updAssoc_crw (s : State) (id : Nat) (f : Assoc → Assoc) : (updAssoc s id f).crw = s.crw := rfl
@[simp] theorem updAssoc_courses (s : State) (id : Nat) (f : Assoc → Assoc) : (updAssoc s id f).courses = s.courses := rfl
@[simp] theorem updAssoc_courseWaits (s : State) (id : Nat) (f : Assoc → Assoc) : (updAssoc s id f).courseWaits = s.courseWaits := rfl
@[simp] theorem updAssoc_bld (s : State) (id : Nat) (f : Assoc → Assoc) : (updAssoc s id f).bld = s.bld := rfl
@[simp] theorem updAssoc_gov (s : State) (id : Nat) (f : Assoc → Assoc) : (updAssoc s id f).gov = s.gov := rfl
@[simp] theorem updAssoc_flt (s : State) (id : Nat) (f : Assoc → Assoc) : (updAssoc s id f).flt = s.flt := rfl
@[simp] theorem updAssoc_eg (s : State) (id : Nat) (f : Assoc → Assoc) : (updAssoc s id f).eg = s.eg := rfl
@[simp] theorem updAssoc_txt (s : State) (id : Nat) (f : Assoc → Assoc) : (updAssoc s id f).txt = s.txt := rfl
@[simp] theorem updAssoc_gsx (s : State) (id : Nat) (f : Assoc → Assoc) : (updAssoc s id f).gsx = s.gsx := rfl
@[simp] theorem updAssoc_mem (s : State) (id : Nat) (f : Assoc → Assoc) : (updAssoc s id f).mem = s.mem := rfl
@[simp] theorem updAssoc_ump (s : State) (id : Nat) (f : Assoc → Assoc) : (updAssoc s id f).ump = s.ump := rfl
@[simp] theorem updAssoc_ckp (s : State) (id : Nat) (f : Assoc → Assoc) : (updAssoc s id f).ckp = s.ckp := rfl
@[simp] theorem updAssoc_pwr (s : State) (id : Nat) (f : Assoc → Assoc) : (updAssoc s id f).pwr = s.pwr := rfl
@[simp] theorem updAssoc_sec (s : State) (id : Nat) (f : Assoc → Assoc) : (updAssoc s id f).sec = s.sec := rfl
@[simp] theorem updAssoc_boot (s : State) (id : Nat) (f : Assoc → Assoc) : (updAssoc s id f).boot = s.boot := rfl
@[simp] theorem updAssoc_mod (s : State) (id : Nat) (f : Assoc → Assoc) : (updAssoc s id f).mod = s.mod := rfl

end Sys2Proof.Machine
end

