-- ==== Sys2Proof/Tests/Slice0.lean ====
section
/-! SUPPORT. Tests: ill-formed commands that the checks refuse, a witness of the hypotheses of each statement, and small tests of one step. -/

open Sys2Proof Sys2Proof.Machine Host
namespace Sys2Proof.Tests

set_option Elab.async false

def tCmd (op w2 w3 w4 w5 w6 w7 : Nat) : Cmd := {
  dom := 0, assoc := 0, w0 := BitVec.ofNat 64 op, w1 := 0, w2 := BitVec.ofNat 64 w2, w3 := BitVec.ofNat 64 w3, w4 := BitVec.ofNat 64 w4
  w5 := BitVec.ofNat 64 w5, w6 := BitVec.ofNat 64 w6, w7 := BitVec.ofNat 64 w7 }

/-- The latest epoch, for `EXPECT_EPOCH` (03 R41). -/
def tAny : Nat := 2 ^ 64 - 1

def tHdr : PlanHdr := {
  model := 7, version := 1, kind := 0, tenant := 0xFFF, layers := 2, dModel := 64, kvHeads := 1, log2g := 0, log2d := 6, kvFmt := 0, actFmt := 0
  log2p := 4, ctxLimit := 64, vocab := 256, stepLegs := 1, appendLegs := 1, batch := 1, posMax := 8, kvPerBlade := 1, legs := 1, experts := 0
  privSlots := 0, sectOff := 0, sectCount := 0, bytes := 0, routeK := 0, ropePair := 0, rotPairs := 0 }

def tQp : Qp := { dom := 0, qpn := 3, remoteQpn := 9, iface := 0, pmtu := 0, notify := false, egq := 0, ackTimeout := 14, gidLo := 0, gidHi := 0, sqPsn := 0, rqPsn := 0, nextHop := 0, pkey := 0 }

def tPlan : Plan := { hdr := tHdr }

def tCrew : Crew := { tenant := 0, model := 7, weight := 1, fast := false, isAuto := true, split := false }

def tUp : State :=
  let s := State.reset
  let s := wrB s R.SEC_DOM_RIGHTS 0 15
  let s := wrFx s R.SEC_DOM_TEN 0 0 0 (2 ^ 64 - 1)
  let s := wrF s R.SVC_LEVEL_LEVEL 3
  let s := wrB s R.TIER_TEN_QH_QUOTA 0 1048576
  let s := wrB s R.TIER_TEN_QF_QUOTA 0 1048576
  { s with
    boot := { s.boot with sl0 := true, installed := true }
    pwr := { s.pwr with hold := 4 }
    stk := { s.stk with phase := .boundary, begun := true, number := 5 }
    lnk := { s.lnk with qps := [(3, tQp)] }
    prg := { s.prg with progs := [(7, { cur := tPlan, lcCfg := 0 })] }
    crw := { s.crw with crews := [(4, tCrew)] } }


def tDesc (st : SesSt) : Desc := { session := 1, gen := 2, st := st, tenant := 0, owner := 0, model := 7, crew := 4, domains := 1, epoch := 9, positions := 0 }

/-- A session of model 7 with no pages, in a state. -/
def tSes (st : SesSt) : Ses := { d := tDesc st, layers := 2, log2p := 4, capSpans := 4 }

def tS (x : Ses) : State := { tUp with ses := { tUp.ses with tab := [(1, x)] } }

/-- W2 of a command for session 1 of generation 2. -/
def tW2 : Nat := 1 + 2 * 2 ^ 24

def takenB (s : State) (c : Cmd) : Bool := decide (handOnCode s c = none) && fenceOk (joinQueue s c) c

theorem taken_of (s : State) (c : Cmd) (h : takenB s c = true) : Taken s c := by
  simpa [takenB, Taken] using h

def atHeadB (s : State) (c : Cmd) (x : Ses) : Bool :=
  takenB s c && mayBind s && decide (sesOf s (cmdSid c) = some x) && decide (x.d.gen = cmdGen c) && x.head.isNone && x.order.isEmpty && !x.heldOut &&
    !finalDue s (cmdSid c) && (!x.d.importing || passesImport c)

theorem atHead_of (s : State) (c : Cmd) (d : List Byte) (x : Ses) (h : atHeadB s c x = true) : AtHead s c d x := by
  simp only [atHeadB, Bool.and_eq_true, decide_eq_true_eq] at h
  obtain ⟨⟨⟨⟨⟨⟨⟨⟨h1, h2⟩, h3⟩, h4⟩, h5⟩, h6⟩, h7⟩, h8⟩, h9⟩ := h
  refine ⟨taken_of s c h1, h2, h3, h4, by simpa using h5, by simpa using h6, by simpa using h7, by simpa using h8, ?_⟩
  cases hi : x.d.importing <;> simp_all

def bindsB (s : State) (c : Cmd) (d : List Byte) (x : Ses) : Bool :=
  atHeadB s c x && decide (headCode (joinQueue s c) x c d (waitOf s c d).qpErr = none) &&
    decide (chargeFits (bindState s c x) x.d.tenant (chargeOf (bindState s c x) (bindSes c x) c d) = none) && !commitHeld (bindState s c x) (bindSes c x) c

theorem binds_of (s : State) (c : Cmd) (d : List Byte) (x : Ses) (h : bindsB s c d x = true) : Binds s c d x := by
  simp only [bindsB, Bool.and_eq_true, decide_eq_true_eq] at h
  exact { toAtHead := atHead_of s c d x h.1.1.1, checks := h.1.1.2, fits := h.1.2, dirty := by simpa using h.2 }

/-! ### Witnesses: each statement's hypotheses hold together -/

/-- `NOP` in front of the queue (15 R344). -/
def tNop : State := { State.reset with pending := [.nop (tCmd 0x54 0 0 0 0 0 0)] }

theorem wit_StepKeepsCanon : Canon tNop ∧ ∃ t, step tNop = .next t := ⟨⟨by decide +kernel, by decide +kernel, by decide +kernel, by decide +kernel⟩, _, rfl⟩

theorem wit_StepTakesOne : Canon tNop ∧ tNop.pending = [.nop (tCmd 0x54 0 0 0 0 0 0)] ∧ ∃ t, step tNop = .next t :=
  ⟨wit_StepKeepsCanon.1, rfl, _, rfl⟩

/-- The last blade exists and the one after it does not (01 Table 01-2). -/
theorem wit_EveryRowRuns : unitsExist (.legEnd 81919) = true ∧ unitsExist (.legEnd 81920) = false := by decide

/-- A fenced `NOP` behind a `WAKE` of its queue. -/
def tFenced : Cmd := { tCmd 0x54 0 0 0 0 0 0 with w0 := BitVec.ofNat 64 (0x54 + 2 ^ 40) }
def tBusy : State := { tUp with out := { tUp.out with outst := [(0, [tCmd 0x53 0 0 0 0 0 0])] } }

theorem wit_HandOn :
    (hostCmd (.nop (tCmd 0x54 1 0 0 0 0 0)) = some (tCmd 0x54 1 0 0 0 0 0, []) ∧ handOnCode State.reset (tCmd 0x54 1 0 0 0 0 0) = some E_BWP_FORMAT) ∧
    (handOnCode State.reset (tCmd 0x10 tW2 tAny 0 7 0 0) = some E_SVC_LEVEL) ∧
    (hostCmd (.nop tFenced) = some (tFenced, []) ∧ handOnCode tBusy tFenced = none ∧ tFenced.fence = true ∧
      mapGet tBusy.out.outst (queueKey tFenced) = some [tCmd 0x53 0 0 0 0 0 0] ∧ tCmd 0x53 0 0 0 0 0 0 ≠ tFenced) := by decide +kernel

/-- Offset 4 is misaligned; page 0xFFF is not listed; offset 0xFF8 with one word ends at 0x1000 and is in range. -/
theorem wit_RegisterAccessRefused :
    (bitsOf (4 * 2 ^ 12) 12 12 % 8 ≠ 0) ∧
    (bitsOf 0xFFF 12 12 % 8 = 0 ∧ blkOfPage (bitsOf 0xFFF 0 12) = none) ∧
    (let head := 0xFF8 * 2 ^ 12 + 2 ^ 32
     bitsOf head 12 12 % 8 = 0 ∧ (blkOfPage (bitsOf head 0 12)).isSome = true ∧ bitsOf head 12 12 + 8 * (bitsOf head 24 5 + 1) ≤ 0x1000 ∧
       bitOf head 32 = true ∧ [1] ≠ ([] : List Nat) ∧ domRegWrite State.reset 1 = false) := by decide +kernel

theorem wit_RegisterReadBack : mapWf tUp.reg.ctl = true ∧ regKey .tier 0 1 0x148 ≠ regKey .tier 0 0 0x148 := by decide +kernel

theorem wit_ErrorRecorded :
    mapWf tUp.reg.ctl = true ∧ bitOf (rdI tUp { R.EVT_STATUS_ALL with blk := .ses } 0) 0 = false ∧
    mapWf (recordErr tUp .ses 0 0 1).reg.ctl = true ∧ bitOf (rdI (recordErr tUp .ses 0 0 1) { R.EVT_STATUS_ALL with blk := .ses } 0) 0 = true := by
  decide +kernel

def tEv : EvRec := { code := 1, page := 0, bit := 0, words := [] }
def tEvents (n : Nat) : State := { State.reset with out := { State.reset.out with evq := [(0, List.replicate n tEv)] } }

theorem wit_EventQueued : (mapWf (tEvents 4095).out.evq = true ∧ ((mapGet (tEvents 4095).out.evq 0).getD []).length < 4096) ∧
    (mapWf (tEvents 4096).out.evq = true ∧ 4096 ≤ ((mapGet (tEvents 4096).out.evq 0).getD []).length) := by decide +kernel

/-- Session 1 of generation 2 lives; a command for generation 3, and one where the mask holds domain 1 only. -/
theorem wit_SessionNamed :
    (Taken (tS (tSes .waiting)) (tCmd 0x14 (1 + 3 * 2 ^ 24) tAny 0 0 0 0) ∧ liveSes (tS (tSes .waiting)) 1 3 = none) ∧
    (AtHead (tS { tSes .waiting with d := { tDesc .waiting with domains := 2 } }) (tCmd 0x14 tW2 tAny 0 0 0 0) []
      { tSes .waiting with d := { tDesc .waiting with domains := 2 } } ∧ bitOf 2 0 = false) :=
  ⟨⟨taken_of _ _ (by decide +kernel), by decide +kernel⟩, atHead_of _ _ _ _ (by decide +kernel), by decide⟩

/-- A PARK of an ACTIVE session is refused by its state; one that names epoch 8 or 10 of a session at epoch 9, by its epoch. -/
theorem wit_SessionChecked :
    (AtHead (tS (tSes .active)) (tCmd 0x14 tW2 tAny 0 0 0 0) [] (tSes .active) ∧
      headCode (joinQueue (tS (tSes .active)) (tCmd 0x14 tW2 tAny 0 0 0 0)) (tSes .active) (tCmd 0x14 tW2 tAny 0 0 0 0) [] = some E_SES_STATE) ∧
    (∀ e ∈ [8, 10], AtHead (tS (tSes .waiting)) (tCmd 0x14 tW2 e 0 0 0 0) [] (tSes .waiting) ∧ stateOk (tSes .waiting) (tCmd 0x14 tW2 e 0 0 0 0) = true ∧
      (tCmd 0x14 tW2 e 0 0 0 0).w3.toNat ≠ 2 ^ 64 - 1 ∧ (tCmd 0x14 tW2 e 0 0 0 0).w3.toNat ≠ (tSes .waiting).d.epoch) := by
  refine ⟨⟨atHead_of _ _ _ _ (by decide +kernel), by decide +kernel⟩, ?_⟩
  intro e he
  simp only [List.mem_cons, List.not_mem_nil, or_false] at he
  obtain rfl | rfl := he <;> exact ⟨atHead_of _ _ _ _ (by decide +kernel), by decide +kernel, by decide +kernel, by decide +kernel⟩

theorem wit_StepRunsFront : tNop.pending = .nop (tCmd 0x54 0 0 0 0 0 0) :: [] := rfl

theorem wit_StepIdles : State.reset.pending = [] := rfl

/-- Session 1 with an import window open for its one span, whose blocks have all been written. -/
def tWin : ImpWin := { dom := 0, first := 0, last := 3, count := 4, sharedPos := 0, toks := [1, 2, 3, 4], base := 5, s0 := 0, s1 := 0, layers := 2
                       written := List.range 512 }
def tImp : Ses := { tSes .waiting with d := { tDesc .waiting with importing := true }, win := some tWin }

theorem wit_SessionCommitsStaged :
    Binds (tS tImp) (tCmd 0x11 tW2 tAny (1 + 4 * 2 ^ 32) 0 0 0) [] tImp ∧
    Binds (tS tImp) (tCmd 0x11 tW2 tAny 2 0 0 0) [] tImp ∧
    Binds (tS (tSes .active)) (tCmd 0x18 tW2 tAny 1 0 0 0) [] (tSes .active) ∧
    Binds (tS { tSes .waiting with d := { tDesc .waiting with moving := true } }) (tCmd 0x19 tW2 tAny 0 0 0 0) []
      { tSes .waiting with d := { tDesc .waiting with moving := true } } ∧
    Binds (tS (tSes .active)) (tCmd 0x49 tW2 tAny 4 0 0 0) [] (tSes .active) ∧
    Binds (tS { tSes .waiting with d := { tDesc .waiting with textCtx := 0 } }) (tCmd 0x33 tW2 tAny 0 0 0 0) []
      { tSes .waiting with d := { tDesc .waiting with textCtx := 0 } } :=
  ⟨binds_of _ _ _ _ (by decide +kernel), binds_of _ _ _ _ (by decide +kernel), binds_of _ _ _ _ (by decide +kernel), binds_of _ _ _ _ (by decide +kernel),
    binds_of _ _ _ _ (by decide +kernel), binds_of _ _ _ _ (by decide +kernel)⟩

/-- A session that parks. -/
def tMoving : Ses := { tSes .waiting with d := { tDesc .waiting with moving := true } }

/-- A STEP with token 5, of a waiting session and of one that parks, and an APPEND of two tokens. -/
theorem wit_ComputeBinds :
    (∀ x ∈ [tSes .waiting, tMoving], let c := tCmd 0x13 tW2 tAny 5 0 0 0
      Binds (tS x) c [] x ∧ (goCompute (bindState (tS x) c x) 1 (bindSes c x) (waitOf (tS x) c [])).isSome = true) ∧
    (let c := tCmd 0x12 tW2 tAny 2 0 (3 * 2 ^ 32) 0
     let d := [1, 0, 0, 0, 2, 0, 0, 0]
     Binds (tS (tSes .opened)) c d (tSes .opened) ∧
      (goCompute (bindState (tS (tSes .opened)) c (tSes .opened)) 1 (bindSes c (tSes .opened)) (waitOf (tS (tSes .opened)) c d)).isSome = true) := by
  refine ⟨?_, binds_of _ _ _ _ (by decide +kernel), by decide +kernel⟩
  intro x hx
  simp only [List.mem_cons, List.not_mem_nil, or_false] at hx
  rcases hx with rfl | rfl
  · exact ⟨binds_of _ _ _ _ (by decide +kernel), by decide +kernel⟩
  · exact ⟨binds_of _ _ _ _ (by decide +kernel), by decide +kernel⟩

theorem wit_ParkReviveBind : Binds (tS (tSes .waiting)) (tCmd 0x14 tW2 tAny 0 0 0 0) [] (tSes .waiting) ∧
    (Binds (tS (tSes .parked)) (tCmd 0x15 tW2 tAny (0xFFFF * 2 ^ 16) 0 0 0) [] (tSes .parked) ∧ (tSes .parked).d.moving = false) ∧
    (let c := tCmd 0x15 tW2 tAny (0xFFFF * 2 ^ 16) 0 0 0
     AtHead (tS tMoving) c [] tMoving ∧ headCode (joinQueue (tS tMoving) c) tMoving c [] none = none ∧ tMoving.d.moving = true) :=
  ⟨binds_of _ _ _ _ (by decide +kernel), ⟨binds_of _ _ _ _ (by decide +kernel), rfl⟩, atHead_of _ _ _ _ (by decide +kernel), by decide +kernel, rfl⟩

/-- A state in which tenant 0 holds a checkpoint key. -/
def tKeyed (x : Ses) : State := { tS x with sec := { tUp.sec with ckeys := [(0, { cur := some 1 })] } }

theorem wit_ForkExportBind :
    (Binds (tS (tSes .waiting)) (tCmd 0x16 tW2 tAny (0xFFFF * 2 ^ 16) 0 0 0) [] (tSes .waiting) ∧ freeSid (tS (tSes .waiting)) = some 2 ∧
      dirtyFits (joinQueue (tS (tSes .waiting)) (tCmd 0x16 tW2 tAny (0xFFFF * 2 ^ 16) 0 0 0))
        (chargeOf (joinQueue (tS (tSes .waiting)) (tCmd 0x16 tW2 tAny (0xFFFF * 2 ^ 16) 0 0 0)) (tSes .waiting)
          (tCmd 0x16 tW2 tAny (0xFFFF * 2 ^ 16) 0 0 0) []).1 = true) ∧
    Binds (tKeyed (tSes .waiting)) (tCmd 0x17 tW2 tAny 0 0 (3 * 2 ^ 32) 8) [] (tSes .waiting) :=
  ⟨⟨binds_of _ _ _ _ (by decide +kernel), by decide +kernel, by decide +kernel⟩, binds_of _ _ _ _ (by decide +kernel)⟩

/-- Two pages of tenant 0 at SAS pages 8 and 9. -/
def tPaged : State := { tUp with tier := { tUp.tier with
  ptes := [(8, { tenant := 0, cls := 1, hFrame := 40 }), (9, { tenant := 0, cls := 1, hFrame := 41 })], hUsed := [40, 41] } }

theorem wit_MoveTaken :
    (Binds (tS (tSes .waiting)) (tCmd 0x20 (2 ^ 16) tW2 0 0 0 0) [] (tSes .waiting) ∧ (tCmd 0x20 (2 ^ 16) tW2 0 0 0 0).f2 0 4 = 0) ∧
    (let c := tCmd 0x20 (1 + 3 * 2 ^ 16 + 2 * 2 ^ 32) (8 * 65536) 0 0 0 0
     let ps := tPaged.tier.ptes.filter (fun e => c.w3.toNat / 65536 ≤ e.1 && decide (e.1 < c.w3.toNat / 65536 + c.f2 32 32))
     Taken tPaged c ∧ c.f2 0 4 ≠ 0 ∧ ps.length = 2 ∧ sasOk c.w3.toNat = true ∧ c.f2 16 10 ≠ 0 ∧
     (∀ e ∈ ps, e.2.cls ≠ 4 ∧ e.2.cls ≠ 6 ∧ domTenant (joinQueue tPaged c) c.dom e.2.tenant = true ∧ e.2.pinH = false) ∧
     opRoom (joinQueue tPaged c) 2 0 = true) :=
  ⟨⟨binds_of _ _ _ _ (by decide +kernel), by decide +kernel⟩, taken_of _ _ (by decide +kernel), by decide +kernel⟩

theorem wit_OpenImportBind :
    (let c := tCmd 0x11 tW2 tAny (4 * 2 ^ 32) 0 (3 * 2 ^ 32) 0
     let d := [1, 0, 0, 0, 2, 0, 0, 0, 3, 0, 0, 0, 4, 0, 0, 0]
     Binds (tS (tSes .opened)) c d (tSes .opened) ∧ c.f4 0 2 = 0 ∧
       (goImportBegin (joinQueue (tS (tSes .opened)) c) 1 (tSes .opened) (waitOf (tS (tSes .opened)) c d)).isSome = true) ∧
    (let c := tCmd 0x10 0 0 (0xFFFF * 2 ^ 16 + 2 ^ 32) 7 (0xFFFF * 2 ^ 16) 0
     Taken tUp c ∧ mayBind tUp = true ∧ openCode (joinQueue tUp c) c = none ∧ (admitOpen (joinQueue tUp c) c).1 = true) :=
  ⟨⟨binds_of _ _ _ _ (by decide +kernel), by decide +kernel, by decide +kernel⟩, taken_of _ _ (by decide +kernel), by decide +kernel, by decide +kernel,
    by decide +kernel⟩

/-- At the limit of 4,000 strokes, and with the limit at 0. -/
theorem wit_IdleSessionWaits :
    (let x := { tSes .active with d := { tDesc .active with idle := 4000 } }
     sesOf (tS x) 1 = some x ∧ x.d.st = .active ∧ rdF (tS x) R.SES_CFG_IDLE_STROKES = x.d.idle) ∧
    rdF (wrF (tS (tSes .active)) R.SES_CFG_IDLE_STROKES 0) R.SES_CFG_IDLE_STROKES = 0 := by decide +kernel

/-- A STEP that has held the head since stroke 1. -/
def tRun (ph : RunPh) : Run := { cmd := tCmd 0x13 tW2 tAny 5 0 0 0, data := [], ph := ph, epoch := 9, toks := [5], headStroke := 1, charge := 1, waited := 8 }

/-- No tenant may hold a page. -/
def tNoQuota (s : State) : State := wrB s R.TIER_TEN_QH_QUOTA 0 0

theorem wit_WaitsExpire :
    (let x := { tImp with win := some { tWin with strokes := 2 ^ 22 } }
     sesOf (tS x) 1 = some x ∧ x.head = none ∧ x.win = some { tWin with strokes := 2 ^ 22 }) ∧
    (let x := { tSes .active with d := { tDesc .active with attPolicy := 2 }, head := some (tRun .ready) }
     sesOf (tS x) 1 = some x ∧ x.d.attPolicy = 2 ∧ (tRun .ready).headStroke + lcFetchWait (lcWord (tS x) 7) ≤ (tS x).stk.number) ∧
    (let x := { tSes .active with head := some (tRun .quota) }
     let s := { tNoQuota (tS x) with stk := { tUp.stk with phase := .drive } }
     sesOf s 1 = some x ∧ (tRun .quota).ph = .quota ∧ rdF s R.TIER_CFG_QUOTA_WAIT ≤ (tRun .quota).waited ∧ chargeFits s 0 (1, 0) = some E_QUOTA_H ∧
       sesOf (tNoQuota (tS x)) 1 = some x ∧ (tNoQuota (tS x)).stk.phase ≠ .drive ∧ chargeFits (tNoQuota (tS x)) 0 (1, 0) = some E_QUOTA_H) ∧
    (let w : Wait := { cmd := tCmd 0x10 0 0 (0xFFFF * 2 ^ 16) 7 (0xFFFF * 2 ^ 16) 0, data := [], time := 0, stroke := 0, waited := 8 }
     let s := tNoQuota { tUp with ses := { tUp.ses with opens := [w] } }
     s.ses.opens[0]? = some w ∧ planOf s (w.cmd.f5 0 32) = some tPlan ∧ chargeFitsH s 0 (listPages (capOf tHdr) 2) = some E_QUOTA_H ∧
       rdF s R.TIER_CFG_QUOTA_WAIT ≤ w.waited) ∧
    (let c := tCmd 0x2A 4 (16 * 2 ^ 32) 0 0 0 0
     let s := { tUp with courseWaits := [(c, 8)] }
     s.courseWaits.find? (fun e => e.1.f2 0 16 = 4) = some (c, 8) ∧ rdF s R.TIER_CFG_QUOTA_WAIT ≤ 8 ∧ crewOf s 4 = some tCrew) ∧
    (let r : RestoreJob := { cmd := tCmd 0x59 0 0 0 0 0 0, list := [], stage := .pages, waited := 8 }
     let s := { tUp with ckp := { tUp.ckp with restores := [(0, r)] } }
     restOf (restCharges s 0) 0 = some r ∧ rdF (restCharges s 0) R.TIER_CFG_QUOTA_WAIT ≤ r.waited) ∧
    (umpUp { tUp with ump := { tUp.ump with run := .running, link := true } } = true) ∧
    (let s := { tUp with ump := { tUp.ump with waits := [(1, 64)] } }
     umpUp s = false ∧ mapWf s.ump.waits = true ∧ 64 ≤ (mapGet s.ump.waits 1).getD 0) := by decide +kernel

/-- An image (09 R193): header words W0 to W7, what follows them, and the digest at its end. -/
def tImage (head : List Nat) (body : List Byte) : List Byte :=
  let b := packFields 8 head ++ body
  b ++ sha256 b

/-- A plan of model 8: one layer in a step leg and in an append leg, no weights, and the two attention templates. -/
def tPlanImg : List Byte := tImage
  [0x57504C47 + 2 ^ 32, 8 + 2 ^ 32 + 0xFFF * 2 ^ 52, 1 + 512 * 2 ^ 16 + 2 ^ 32 + 3 * 2 ^ 39 + 2 * 2 ^ 44 + 2 * 2 ^ 48 + 6 * 2 ^ 56, 64 + 256 * 2 ^ 32,
   1 + 2 ^ 8 + 2 ^ 16 + 2 ^ 20 + 2 ^ 24 + 2 * 2 ^ 32, 64 + 2 ^ 32, 192, 0]
  (packFields 8 [8 + 15 * 2 ^ 8 + 32 * 2 ^ 24, 128] ++ List.replicate 48 0 ++ packFields 8 [0, 69, 2 ^ 16, 552])

def tPlanCmd : Cmd := tCmd 0x28 0 (3 * 2 ^ 32) 192 0 0 0

/-- The hypotheses of `PlanLoadBegins`, checked. -/
def tPlanB (s : State) (c : Cmd) (img : List Byte) : Bool :=
  let j := joinQueue s c
  takenB s c && domPlanLoad j c.dom && decide (qpCheck j c.dom (c.f3 32 16) = none) &&
    match planFrame img c.w4.toNat with
    | .error _ => false
    | .ok (h, ss) => decide (versionsOf j h < 2) && decide (h.kind ≠ 1) &&
      match planBody img h ss, weightPages img ss with
      | .ok p, some fs =>
        let q := withFits j { p with owner := if isolated j then c.f5 0 12 else 0xFFF, frames := fs.map (·.1) }
        !(mapGet s.prg.progs p.hdr.model).any (fun g => !compatible g.cur.hdr p.hdr) && !framesBad j q.frames &&
          !ownerBad j (if isolated j then c.f5 0 12 else 0xFFF) q.frames (planGroups q) &&
          decide (planFails j q (fitCaseNow j) q.frames.length = none) && opRoom j 2 0xFFF
      | _, _ => false

theorem tPlanB_spec (s : State) (c : Cmd) (img : List Byte) (w : tPlanB s c img = true) : ∃ h ss p fs, Taken s c ∧
    (let j := joinQueue s c
     domPlanLoad j c.dom = true ∧ qpCheck j c.dom (c.f3 32 16) = none ∧ planFrame img c.w4.toNat = .ok (h, ss) ∧ versionsOf j h < 2 ∧ h.kind ≠ 1 ∧
     planBody img h ss = .ok p ∧ weightPages img ss = some fs ∧
     (let q := withFits j { p with owner := if isolated j then c.f5 0 12 else 0xFFF, frames := fs.map (·.1) }
      (mapGet s.prg.progs p.hdr.model).any (fun g => !compatible g.cur.hdr p.hdr) = false ∧ framesBad j q.frames = false ∧
      ownerBad j (if isolated j then c.f5 0 12 else 0xFFF) q.frames (planGroups q) = false ∧
      planFails j q (fitCaseNow j) q.frames.length = none ∧ opRoom j 2 0xFFF = true)) := by
  simp only [tPlanB, Bool.and_eq_true, decide_eq_true_eq] at w
  obtain ⟨⟨⟨w1, w2⟩, w3⟩, w4⟩ := w
  split at w4
  · cases w4
  · rename_i h ss hf
    simp only [Bool.and_eq_true, decide_eq_true_eq] at w4
    obtain ⟨⟨w5, w6⟩, w7⟩ := w4
    split at w7
    · rename_i p fs hp hw
      simp only [Bool.and_eq_true, decide_eq_true_eq, Bool.not_eq_true'] at w7
      exact ⟨h, ss, p, fs, taken_of _ _ w1, w2, w3, hf, w5, w6, hp, hw, w7.1.1.1.1, w7.1.1.1.2, w7.1.1.2, w7.1.2, w7.2⟩
    · cases w7

theorem wit_PlanLoadBegins : tPlanB tUp tPlanCmd tPlanImg = true := by decide +kernel

/-- A private expert set (`KIND` 1) of tenant 2 for model 7, which has no private pages: its two sections are empty. -/
def tSetImg : List Byte := tImage
  [0x57504C47 + 2 ^ 32, 7 + 2 ^ 32 + 2 ^ 48 + 2 * 2 ^ 52, 1 + 512 * 2 ^ 16 + 2 ^ 32 + 3 * 2 ^ 39 + 2 * 2 ^ 44 + 2 * 2 ^ 48 + 6 * 2 ^ 56, 64 + 256 * 2 ^ 32,
   1 + 2 ^ 8 + 2 ^ 16 + 2 ^ 20 + 2 ^ 24 + 2 * 2 ^ 32, 64 + 2 * 2 ^ 32, 160, 0]
  (packFields 8 [1 + 15 * 2 ^ 8, 128, 2 + 15 * 2 ^ 8, 128] ++ List.replicate 32 0)

/-- The hypotheses of `PlanLoadBegins` for a private set, checked; `m` is its model's plan. -/
def tSetB (s : State) (c : Cmd) (img : List Byte) (m : Plan) : Bool :=
  let j := joinQueue s c
  takenB s c && domPlanLoad j c.dom && decide (qpCheck j c.dom (c.f3 32 16) = none) && opRoom j 2 0xFFF &&
    match planFrame img c.w4.toNat with
    | .error _ => false
    | .ok (h, ss) => decide (versionsOf j h < 2) && decide (h.kind = 1) && hdrOk img h && decide (planOf j h.model = some m) &&
      ss.all (fun x => x.ty == 1 || x.ty == 2) &&
      match weightPages img ss, setBase j (privPagesOf m) with
      | some fs, some b => decide (fs.map (fun e => frameHb e.1) = (privPagesOf m).map (·.1)) &&
        !ownerBad j h.tenant (((privPagesOf m).zip fs).map (fun e => frameOf e.1.1 (e.1.2 + b))) []
      | _, _ => false

theorem wit_PlanLoadBegins_set : tSetB tUp (tCmd 0x28 0 (3 * 2 ^ 32) 160 0 0 0) tSetImg tPlan = true := by decide +kernel

/-- A vocabulary of two tokens for model 8, a grammar table for it and a gather table, as installed. -/
def tVocab : Vocab := { model := 7, version := 1, maxPiece := 16, whole := false, toks := [⟨[97], false, false, true⟩, ⟨[98], false, false, true⟩], merges := []
                        byteMap := List.range 256, classL1 := [], classL2 := [], split := [], specials := [] }
def tGrm : Grm := { table := 0, version := 1, model := 7, start := 0, depth := 1, states := [⟨0, 0, true, 0xFFFFFF, 0, 0⟩], trans := [], masks := [], deferred := [] }
def tTexts : State := { tUp with txt := { tUp.txt with vocabs := [(7, { cur := tVocab })], grms := [(0, { cur := tGrm })] } }

/-- A vocabulary image of 256 tokens, each of one byte. -/
def tVocImg : List Byte := tImage
  [0x57564F43 + 2 ^ 32, 7 + 2 ^ 32, 256 + 16 * 2 ^ 32, 0, 0, 64 + 8 * 2 ^ 32, 12576, 0]
  (packFields 8 [0x21 + 2048 * 2 ^ 24, 192, 0x22 + 256 * 2 ^ 24, 2240, 0x23, 2496, 0x24 + 1024 * 2 ^ 24, 2496, 0x25 + 8704 * 2 ^ 24, 3520,
      0x26 + 256 * 2 ^ 24, 12224, 0x27 + 64 * 2 ^ 24, 12480, 0x28, 12544] ++
    packFields 8 ((List.range 256).map (fun i => i + 2 ^ 32)) ++ (List.range 256).map (BitVec.ofNat 8) ++ packFields 4 (List.range 256) ++
    List.replicate 8704 0 ++ List.replicate 256 0 ++ List.replicate 64 0)

def tGrmImg : List Byte := tImage [0x5747524D + 2 ^ 32, 1 + 2 ^ 16 + 7 * 2 ^ 32, 1 + 2 ^ 48, 0, 0, 64 + 4 * 2 ^ 32, 184, 0]
  (packFields 8 [0x31 + 24 * 2 ^ 24, 128, 0x32, 128, 0x33, 128, 0x34, 128] ++ packFields 8 [2 ^ 48, 0xFFFFFF, 0])

def tGsxImg : List Byte := tImage [0x57475458 + 2 ^ 32, 5 + 2 ^ 16, 63 + 6 * 2 ^ 40 + 64 * 2 ^ 48, 0, 0, 64, 96, 0] []

def tVocB (s : State) (c : Cmd) (img : List Byte) : Bool :=
  let j := joinQueue s c
  takenB s c && domPlanLoad j c.dom && decide (qpCheck j c.dom (c.f3 32 16) = none) &&
    (match parseVocab img c.w4.toNat (match planOf j (hw img 1 0 32) with | some p => p.hdr.vocab | none => 0) with
     | .error _ => false
     | .ok v => (planOf j (hw img 1 0 32)).isSome && decide (loadsOf j 0 (hw img 1 0 32) +
         (match mapGet s.txt.vocabs (hw img 1 0 32) with | some p => 1 + b2n p.old.isSome | none => 0) < 2) &&
       (loadTable j { cmd := c, kind := 0, key := hw img 1 0 32, version := v.version, pages := [], image := img, vocab := some v, op := 0 }).isRight)

def tGrmB (s : State) (c : Cmd) (img : List Byte) : Bool :=
  let j := joinQueue s c
  takenB s c && domPlanLoad j c.dom && decide (qpCheck j c.dom (c.f3 32 16) = none) &&
    (match parseGrm img c.w4.toNat (vocabOf j) (grmOf j) with
     | .error _ => false
     | .ok g => decide (loadsOf j 1 (hw img 1 0 16) + (match mapGet s.txt.grms (hw img 1 0 16) with | some p => 1 + b2n p.old.isSome | none => 0) < 2) &&
       decide (((s.txt.loads.filter (fun l => l.kind = 1)).map (·.key) ++ mapKeys s.txt.grms).eraseDups.length < 1024) &&
       (loadTable j { cmd := c, kind := 1, key := hw img 1 0 16, version := g.version, pages := [], image := img, grm := some g, op := 0 }).isRight)

def tGsxB (s : State) (c : Cmd) (img : List Byte) : Bool :=
  let j := joinQueue s c
  takenB s c && domPlanLoad j c.dom && decide (qpCheck j c.dom (c.f3 32 16) = none) &&
    (match parseGsx img c.w4.toNat with
     | .error _ => false
     | .ok (g, _) =>
       let n := ceilDiv (g.rows * 2 ^ g.log2Stride) 65536
       decide (loadsOf j 2 g.table + (match mapGet s.gsx.tabs g.table with | some p => 1 + b2n p.old.isSome | none => 0) < 2) &&
         decide (((s.txt.loads.filter (fun l => l.kind = 2)).map (·.key) ++ mapKeys s.gsx.tabs).eraseDups.length < 256) &&
         decide (n ≤ freeH j) && opRoom j 2 0xFFF && (allocPages j n 0xFFF 4 0 false).isSome)

def tOldTab : GsxTab := { table := 5, version := 0, tenant := 0xFFF, updatable := false, rows := 64, fmt := 0, log2Stride := 6, rowBytes := 64, auxBytes := 0 }

/-- A first version of each kind of table and a second one of a gather table, with every hypothesis of its clause. -/
theorem wit_TableLoadBegins : tGrmB tTexts (tCmd 0x31 0 (3 * 2 ^ 32) 184 0 0 0) tGrmImg = true ∧
    tGsxB { tUp with gsx := { tUp.gsx with tabs := [(5, { cur := tOldTab })] } } (tCmd 0x40 0 (3 * 2 ^ 32) 96 0 0 0) tGsxImg = true ∧
    tGsxB tUp (tCmd 0x40 0 (3 * 2 ^ 32) 96 0 0 0) tGsxImg = true := by decide +kernel

theorem sha256_length (b : List Byte) : (sha256 b).length = 32 := by
  simp [sha256, leBytes, ShaRun.words]

/-- The digest of a made image agrees, whatever its bytes. -/
theorem tImage_whole (head : List Nat) (body : List Byte) (h : 64 ≤ (packFields 8 head ++ body).length) :
    imageWhole (tImage head body) (tImage head body).length = true := by
  unfold tImage
  generalize packFields 8 head ++ body = b at h ⊢
  have e : (b ++ sha256 b).length - 32 = b.length := by rw [List.length_append, sha256_length]; omega
  simp only [imageWhole, e, List.take_left', List.drop_left', Bool.and_eq_true, decide_eq_true_eq, beq_self_eq_true, and_true]
  rw [List.length_append, sha256_length]
  omega

theorem parseVocab_of (img : List Byte) (length entries : Nat)
    (h : (decide (hw img 0 0 32 = 0x57564F43) && decide (hw img 0 32 16 = 1) && decide (length = img.length)) = true)
    (w : imageWhole img (u64 img 48) = true) : parseVocab img length entries = vocabBody img entries := by
  simp only [Bool.and_eq_true, decide_eq_true_eq] at h
  delta parseVocab
  refine if_neg ?_
  rw [w]
  rintro (e | e | e | e)
  · exact e h.1.1
  · exact e h.1.2
  · exact e h.2
  · cases e

theorem tVocImg_whole : imageWhole tVocImg (u64 tVocImg 48) = true := by
  have e : u64 tVocImg 48 = tVocImg.length := by decide +kernel
  rw [e]
  exact tImage_whole _ _ (by decide +kernel)

theorem tVocB_of (s : State) (c : Cmd) (img : List Byte) (w : imageWhole img (u64 img 48) = true)
    (h : (decide (hw img 0 0 32 = 0x57564F43) && decide (hw img 0 32 16 = 1) && decide (c.w4.toNat = img.length)) = true)
    (x : (let j := joinQueue s c
      takenB s c && domPlanLoad j c.dom && decide (qpCheck j c.dom (c.f3 32 16) = none) &&
      (match vocabBody img (match planOf j (hw img 1 0 32) with | some p => p.hdr.vocab | none => 0) with
       | .error _ => false
       | .ok v => (planOf j (hw img 1 0 32)).isSome && decide (loadsOf j 0 (hw img 1 0 32) +
         (match mapGet s.txt.vocabs (hw img 1 0 32) with | some p => 1 + b2n p.old.isSome | none => 0) < 2) &&
         (loadTable j { cmd := c, kind := 0, key := hw img 1 0 32, version := v.version, pages := [], image := img, vocab := some v, op := 0 }).isRight)) = true) :
    tVocB s c img = true := by
  delta tVocB
  have e : ∀ n, parseVocab img c.w4.toNat n = vocabBody img n := fun n => parseVocab_of img _ n h w
  simp only [e]
  exact x

theorem wit_TableLoadBegins_vocabulary : tVocB tUp (tCmd 0x30 0 (3 * 2 ^ 32) 12576 0 0 0) tVocImg = true :=
  tVocB_of _ _ _ tVocImg_whole (by decide +kernel) (by decide +kernel)

theorem wit_UnloadRemoves :
    (let s := { tUp with crw := { tUp.crw with crews := [] } }
     let c := tCmd 0x29 7 0 0 0 0 0
     takenB s c = true ∧ domPlanLoad (joinQueue s c) 0 = true ∧ c.f2 32 1 = 0 ∧ mapHas s.prg.progs (c.f2 0 32) = true ∧ modelNamed (joinQueue s c) 7 = false) ∧
    (let c := tCmd 0x29 (7 + 2 ^ 32 + 2 * 2 ^ 52) 0 0 0 0 0
     let s := { tUp with prg := { tUp.prg with sets := [(setKey 7 2, { cur := tPlan, lcCfg := 0 })] } }
     let u := { s with stk := { s.stk with passes := [(0, { crew := 4, tenant := 2, model := 7, version := 1, isAppend := false, sessions := [1], firstCand := 0 })] }
                       ses := { s.ses with tab := [(1, { tSes .active with d := { tDesc .active with tenant := 2 }, head := some (tRun .ready) })] } }
     takenB s c = true ∧ takenB u c = true ∧ c.f2 32 1 = 1 ∧ mapHas s.prg.sets (setKey 7 (c.f2 52 12)) = true ∧ stepping (joinQueue s c) 7 (some 2) = false ∧
       mapHas u.prg.sets (setKey 7 (c.f2 52 12)) = true ∧ stepping (joinQueue u c) 7 (some 2) = true) ∧
    (takenB tTexts (tCmd 0x32 7 0 0 0 0 0) = true ∧ domPlanLoad (joinQueue tTexts (tCmd 0x32 7 0 0 0 0 0)) 0 = true ∧
      mapGet tTexts.txt.vocabs 7 = some { cur := tVocab } ∧ tableInUse (joinQueue tTexts (tCmd 0x32 7 0 0 0 0 0)) (tCmd 0x32 7 0 0 0 0 0) = false ∧
      tTexts.stk.phase ≠ .idle ∧ ({ tTexts with stk := { tTexts.stk with phase := .idle } } : State).stk.phase = .idle) ∧
    (takenB tTexts (tCmd 0x32 (2 ^ 32) 0 0 0 0 0) = true ∧ (tCmd 0x32 (2 ^ 32) 0 0 0 0 0).f2 32 1 = 1 ∧ mapGet tTexts.txt.grms 0 = some { cur := tGrm } ∧
      tableInUse (joinQueue tTexts (tCmd 0x32 (2 ^ 32) 0 0 0 0 0)) (tCmd 0x32 (2 ^ 32) 0 0 0 0 0) = false) := by
  decide +kernel

/-- Crew 4's model runs one layer per leg, its lead table has rows of the right width, and node 1 of four spans is ready. -/
def tLead : GsxTab := { table := 6, version := 1, tenant := 0xFFF, updatable := false, rows := 64, fmt := 2, log2Stride := 12, rowBytes := 2560, auxBytes := 0 }
def tCourseS : State := { tUp with
  prg := { tUp.prg with progs := [(7, { cur := { hdr := { tHdr with layers := 1, dModel := 512, log2d := 3, kvFmt := 2, actFmt := 2, log2p := 6 } }, lcCfg := 0 })] }
  gsx := { tUp.gsx with tabs := [(6, { cur := tLead })] }
  pfx := { tUp.pfx with nodes := [(1, { hash := 0, parent := 0, depth := 4, model := 7, tenant := 0, st := .ready, keyGen := 0, log2p := 6 })] } }

def tCourse : Course := { node := 1, win := 16, lead := 6, nb := 1, layers := 1, homes := [(1, 0)], nextHome := 1 }

theorem wit_CourseRuns :
    (let c := tCmd 0x2A 4 (1 + 16 * 2 ^ 32) 6 0 0 0
     takenB tCourseS c = true ∧ crewOf tCourseS (c.f2 0 16) = some tCrew ∧ domTenant (joinQueue tCourseS c) 0 0 = true ∧
       courseReason (joinQueue tCourseS c) c 4 tCrew = none ∧ chargeFitsH (joinQueue tCourseS c) 0 (20 * c.f3 32 9) = none ∧
       (courseFrames (joinQueue tCourseS c) 0 (c.f3 32 9)).isSome = true) ∧
    (let c := tCmd 0x2A 4 (1 + 16 * 2 ^ 32) 6 0 0 0
     let s := tNoQuota tCourseS
     takenB s c = true ∧ crewOf s 4 = some tCrew ∧ courseReason (joinQueue s c) c 4 tCrew = none ∧ openCourse (joinQueue s c) c = none) ∧
    (let c := tCmd 0x2A (4 + 2 ^ 16) 0 0 0 0 0
     let s := { tCourseS with courses := [(4, tCourse)] }
     takenB s c = true ∧ crewOf s 4 = some tCrew ∧ mapGet s.courses 4 = some tCourse ∧ tCourse.closing = none) ∧
    (let s := { tCourseS with courses := [(4, tCourse)], stk := { tUp.stk with phase := .drive }
                              ses := { tUp.ses with tab := [(1, { tSes .active with log2p := 6, layers := 1, head := some (tRun .ready) })] } }
     mapGet s.courses 4 = some tCourse ∧ crewOf s 4 = some tCrew ∧ (planOf s 7).any (fun p => !p.blocked && !cmbMode s p) = true ∧ tCourse.start = none ∧
       stepHeads s tCourse = [1] ∧ tCourse.homes.length = 1 ∧ s.stk.phase = .drive ∧ opRoom s 1 0 = true) := by decide +kernel

/-- The first 128 bytes of the window's first record, and a write with another key. -/
theorem wit_ImportWriteLands :
    (let s := { tS tImp with lnk := { tUp.lnk with rkeys := [77] } }
     qpOf s 3 = some tQp ∧ tQp.err = false ∧ 77 = s.lnk.rkeys.getD tQp.dom 0 ∧
       importWin s 0 (5 * 65536) 128 = some (1, 5, [0, 1]) ∧ 78 ≠ s.lnk.rkeys.getD tQp.dom 0 ∧ importWin s 0 (7 * 65536) 128 = none) := by decide +kernel

theorem wit_TextRequestWaits :
    (∀ c ∈ [tCmd 0x33 0 0 1 0 0 0, tCmd 0x33 0 0 2 0 0 0, tCmd 0x33 0 0 (3 + 2 ^ 32) 0 (3 * 2 ^ 32) 1, tCmd 0x34 0 0 (3 * 2 ^ 32) 0 0 0,
        tCmd 0x35 0 0 (3 * 2 ^ 32) 2097152 0 0], takenB tUp c = true) ∧
    qpCheck (joinQueue tUp (tCmd 0x33 0 0 (3 + 2 ^ 32) 0 (3 * 2 ^ 32) 1)) 0 ((tCmd 0x33 0 0 (3 + 2 ^ 32) 0 (3 * 2 ^ 32) 1).f6 32 16) = none ∧
    qpCheck (joinQueue tUp (tCmd 0x34 0 0 (3 * 2 ^ 32) 0 0 0)) 0 ((tCmd 0x34 0 0 (3 * 2 ^ 32) 0 0 0).f4 32 16) = none ∧
    (tCmd 0x35 0 0 (3 * 2 ^ 32) 2097152 0 0).f5 0 32 = 2097152 := by decide +kernel

/-- A TOKENIZE of model 7 on a fresh context. -/
def tTok : TxtReq := { cmd := tCmd 0x34 (0xFFFF + 7 * 2 ^ 32) 0 (3 * 2 ^ 32) 0 0 1, data := [97] }

/-- A session with grammar table 0 at the head with a masked STEP, and with an APPEND. -/
def tMaskS (r : Run) : State := { tTexts with
  txt := { tTexts.txt with recs := [(0, { session := 1, table := 0, version := 1, st := 0 })] }
  ses := { tUp.ses with tab := [(1, { tSes .active with d := { tDesc .active with grmTable := 0 }, head := some r })] } }
def tMaskRun : Run := { tRun .ready with cmd := tCmd 0x13 tW2 tAny (2 ^ 41) 0 0 0, toks := [0] }
def tMaskApp : Run := { tRun .ready with cmd := tCmd 0x12 tW2 tAny 1 0 0 0, toks := [0] }

theorem wit_TextEngines :
    (let s := { tTexts with txt := { tTexts.txt with waiting := [tTok] } }
     mapHas s.txt.engines 63 = false ∧ takeable s [] s.txt.waiting = some tTok ∧
     (engineCtx { s with txt := { s.txt with waiting := dropReq s.txt.waiting tTok } } tTok.cmd).any (fun x => x.model == 7) = true ∧
     vocabOf { s with txt := { s.txt with waiting := dropReq s.txt.waiting tTok } } 7 = some tVocab) ∧
    (takeable tTexts [] tTexts.txt.waiting = none) ∧
    (maskSource (tMaskS tMaskRun) 1 = some (tMaskRun, tGrm, tVocab, { st := 0, stack := [], rejected := false }) ∧ tMaskRun.cmd.opcode ≠ 0x12 ∧
      (cfgRun tGrm tVocab { st := 0, stack := [], rejected := false } tMaskRun.toks)[0 + 1]?.isSome = true) ∧
    (maskSource (tMaskS tMaskApp) 1 = some (tMaskApp, tGrm, tVocab, { st := 0, stack := [], rejected := false }) ∧ tMaskApp.cmd.opcode = 0x12) := by
  decide +kernel

/-! Memory search -/

def tIdx : MemIdx := { tenant := 0, fmt := 1, metric := 0, dims := 64, rMax := 8, buildL := 16, capM1 := 99, word := 0
                       vers := [{ version := 0, map := [(0, { page := 9, slot := 0, gen := 1 })], entries := [{ node := 0, gen := 1, sketch := 0 }] }] }
def tMem (x : MemIdx) : State := { tUp with mem := { tUp.mem with idxs := [(2, x)] } }

/-- MEM_CREATE at both ends of `R_MAX` and `BUILD_L`; MEM_DROP, MEM_DELETE and MEM_REPAIR of index 2, with and without a sweep. -/
theorem wit_MemChangesWait :
    (∀ c ∈ [tCmd 0x38 (2 ^ 12 + 64 * 2 ^ 20 + 8 * 2 ^ 32 + 16 * 2 ^ 40) 0 0 0 0 0, tCmd 0x38 (2 ^ 12 + 64 * 2 ^ 20 + 64 * 2 ^ 32 + 256 * 2 ^ 40) 0 0 0 0 0],
      takenB tUp c = true ∧ domTenant (joinQueue tUp c) 0 (c.f2 0 12) = true ∧ gsxFmt (c.f2 12 4) = true ∧ c.f2 16 2 ≤ 1 ∧ c.f2 20 12 ≠ 0 ∧ 8 ≤ c.f2 32 7 ∧
        c.f2 32 7 ≤ 64 ∧ 16 ≤ c.f2 40 9 ∧ c.f2 40 9 ≤ 256 ∧ vecBytes (c.f2 12 4) (c.f2 20 12) ≤ 1536 ∧ tUp.mem.idxs.length + tUp.mem.creates.length < 1024) ∧
    (takenB (tMem tIdx) (tCmd 0x39 2 0 0 0 0 0) = true ∧ idxFor (joinQueue (tMem tIdx) (tCmd 0x39 2 0 0 0 0 0)) (tCmd 0x39 2 0 0 0 0 0) = some tIdx) ∧
    (let c := tCmd 0x3C (2 + 2 ^ 16) 0 (3 * 2 ^ 32) 0 0 0
     takenB (tMem tIdx) c = true ∧ idxFor (joinQueue (tMem tIdx) c) c = some tIdx ∧ memCmdCode (joinQueue (tMem tIdx) c) c 65536 = none) ∧
    (let c := tCmd 0x3D 2 0 0 0 0 0
     let x := { tIdx with sweep := some { from_ := { version := 0 }, walk := 0 } }
     takenB (tMem tIdx) c = true ∧ tIdx.sweep = none ∧ takenB (tMem x) c = true ∧ idxFor (joinQueue (tMem x) c) c = some x ∧ x.sweep.isSome = true) := by
  decide +kernel

/-- A MEM_QUERY with `L` 256, and a MEM_INSERT, of one record each. -/
theorem wit_WalksAdded : ∀ c ∈ [tCmd 0x3A (2 + 2 ^ 16) 0 (3 * 2 ^ 32) 0 0 256, tCmd 0x3B (2 + 2 ^ 16) 0 (3 * 2 ^ 32) 0 0 0],
    takenB (tMem tIdx) c = true ∧ idxFor (joinQueue (tMem tIdx) c) c = some tIdx ∧ memCmdCode (joinQueue (tMem tIdx) c) c 4096 = none ∧
      walksWaiting (joinQueue (tMem tIdx) c) + c.f2 16 17 ≤ 65536 + freeContexts (joinQueue (tMem tIdx) c) tIdx := by decide +kernel

def tWalk : Walk := { use := .query (tCmd 0x3A (2 + 2 ^ 16) 0 (3 * 2 ^ 32) 0 0 256) 0, index := 2 }
def tWalks (xs : Map Walk) : State := { tMem tIdx with mem := { (tMem tIdx).mem with walks := xs, nextWalk := 2 } }

/-- A walk that reads node 0 from slot 0 of page 9, whose sealed copy stands in Tier F. -/
def tReading : State :=
  let s := tWalks [(0, { tWalk with unit := some 0, ver := some 0, flying := [(0, 9, 0, true)] })]
  { s with tier := { s.tier with ptes := [(9, { tenant := 0, cls := 5, h := false, f := true, fFrame := 6 })]
                                 sealedAt := [(6, { page := 9, ver := 0, tenant := 0, cls := 5, ctr := 0, cells := [] })] } }

theorem wit_WalkSteps :
    (let s := tWalks [(0, tWalk), (1, tWalk)]
     walkOf s 1 = some tWalk ∧ idxOf s tWalk.index = some tIdx ∧ walkFirst s 1 (walkUnits s tIdx) = false ∧
     walkOf s 0 = some tWalk ∧ tWalk.ended = false ∧ tWalk.ver = none ∧ tWalk.use ≠ .sweep ∧ s.stk.phase ≠ .idle ∧ walkFirst s 0 (walkUnits s tIdx) = true ∧
     bestUnit s (walkUnits s tIdx) = some 0 ∧ (tIdx.vers.find? (fun m => m.version = (queryVer s tWalk.use).getD tIdx.cur.version)).isSome = true ∧
     tWalk.flying.find? (fun f => f.1 = 0 && (f.2.2.2 || !slotFlying s f.2.1 f.2.2.1)) = none) ∧
    ((walkOf tReading 0).any (fun x => x.flying.find? (fun f => f.1 = 0 && (f.2.2.2 || !slotFlying tReading f.2.1 f.2.2.1)) = some (0, 9, 0, true)) = true ∧
      (slotAt (cntI tReading R.FCH_READS_NODE (channelOf tReading 9) 1) 9 0).isSome = true) := by decide +kernel

/-! Gather tables -/

def tTab (tenant : Nat) (upd : Bool) : GsxTab := { tLead with tenant := tenant, updatable := upd, auxBytes := 8 }
def tGsx (t : GsxTab) : State := { tUp with gsx := { tUp.gsx with tabs := [(6, { cur := t })] } }

theorem wit_TableDenied : ∀ c ∈ [tCmd 0x41 6 0 (3 * 2 ^ 32) 0 0 0, tCmd 0x42 6 0 (3 * 2 ^ 32) 0 0 0],
    (takenB tUp c = true ∧ gsxOf (joinQueue tUp c) (c.f2 0 16) = none) ∧
    (let s := tGsx (tTab 70 true)
     takenB s c = true ∧ gsxOf (joinQueue s c) (c.f2 0 16) = some (tTab 70 true) ∧ domTenant (joinQueue s c) c.dom 70 = false) ∧
    (let s := wrB (tGsx (tTab 0xFFF true)) R.SEC_DOM_RIGHTS 0 1
     takenB s c = true ∧ gsxOf (joinQueue s c) (c.f2 0 16) = some (tTab 0xFFF true) ∧ domPlanLoad (joinQueue s c) c.dom = false) ∧
    (let s := tGsx (tTab 0 false)
     takenB s c = true ∧ gsxOf (joinQueue s c) (c.f2 0 16) = some (tTab 0 false) ∧ domTenant (joinQueue s c) c.dom 0 = true) ∧
    (let s := tGsx (tTab 0xFFF false)
     takenB s c = true ∧ gsxOf (joinQueue s c) (c.f2 0 16) = some (tTab 0xFFF false) ∧ domPlanLoad (joinQueue s c) c.dom = true) := by decide +kernel

/-- A GATHER of one index, SCATTERs at both ends of the count, and a GSX_SEAL. -/
theorem wit_TableOrder :
    (let c := tCmd 0x41 (6 + 2 ^ 32) 0 (3 * 2 ^ 32) 0 0 0
     takenB (tGsx (tTab 0 true)) c = true ∧ gsxOf (joinQueue (tGsx (tTab 0 true)) c) (c.f2 0 16) = some (tTab 0 true) ∧
       domTenant (joinQueue (tGsx (tTab 0 true)) c) 0 0 = true ∧ qpCheck (joinQueue (tGsx (tTab 0 true)) c) 0 (c.f4 32 16) = none ∧ gatherCode c [0, 0, 0, 0] = none) ∧
    (∀ c ∈ [tCmd 0x42 (6 + 2 ^ 32) 0 (3 * 2 ^ 32) 0 0 0, tCmd 0x42 (6 + 3 * 2 ^ 16 + 1048576 * 2 ^ 32) 0 (3 * 2 ^ 32) 0 0 0],
      takenB (tGsx (tTab 0xFFF true)) c = true ∧ gsxOf (joinQueue (tGsx (tTab 0xFFF true)) c) (c.f2 0 16) = some (tTab 0xFFF true) ∧
        domPlanLoad (joinQueue (tGsx (tTab 0xFFF true)) c) 0 = true ∧ c.f2 16 4 < 6 ∧ auxNeed (tTab 0xFFF true) (c.f2 16 4) ≤ 8 ∧
        qpCheck (joinQueue (tGsx (tTab 0xFFF true)) c) 0 (c.f4 32 16) = none ∧ c.f2 32 21 ≤ 1048576 ∧ c.f2 32 21 ≠ 0) ∧
    (takenB (tGsx (tTab 0 true)) (tCmd 0x43 6 0 0 0 0 0) = true) := by decide +kernel

/-! Crews -/

theorem wit_CrewCommands :
    (∀ f ∈ [0, 1], let c := tCmd 0x48 (f * 2 ^ 4 + 0xFFFF * 2 ^ 16 + 2 ^ 32) (7 * 2 ^ 32) 0 0 0 0
      takenB tUp c = true ∧ crewCreateCode (joinQueue tUp c) c (mapFree tUp.crw.crews) = none ∧ c.f2 4 1 = f) ∧
    (let c := tCmd 0x48 (1 + 4 * 2 ^ 16 + 2 * 2 ^ 32) 0 0 0 0 0
     takenB tUp c = true ∧ crewOf tUp (c.f2 16 16) = some tCrew ∧ domTenant (joinQueue tUp c) 0 0 = true ∧ c.f2 32 16 ≠ 0 ∧ c.f2 4 1 = 0) ∧
    (let c := tCmd 0x48 (2 + 4 * 2 ^ 16) 0 0 0 0 0
     takenB tUp c = true ∧ crewOf tUp (c.f2 16 16) = some tCrew ∧ crewNamed (joinQueue tUp c) 4 = false ∧ mapHas tUp.courses 4 = false) := by decide +kernel

/-- Pass 0 of crew 4 has held two PCs of lane 9 since stroke 0, in stroke 8. -/
def tPass : Pass := { crew := 4, tenant := 0, model := 7, version := 1, isAppend := false, sessions := [], firstCand := 0, held := true, pcs := [576, 577] }
def tHeldPass : State := { tUp with stk := { tUp.stk with number := 8, passes := [(0, tPass)] } }

theorem wit_CrewEvents :
    (let k := { tCrew with fast := true }
     let s := { tUp with crw := { tUp.crw with crews := [(4, k)] } }
     crewOf s 4 = some k ∧ planOf s 7 = some tPlan ∧ k.seated = false ∧ k.seatCmd = none) ∧
    (let w : Switch := { lane := 9, incoming := { model := 7, version := 1 }, crew := 4, pcs := [], strokes := 0 }
     let s := { tUp with crw := { tUp.crw with switches := [(9, w)] } }
     mapGet s.crw.switches 9 = some w ∧ w.strokes = 0 ∧ w.failed = [] ∧ mapWf s.crw.switches = true) ∧
    (passOf tHeldPass 0 = some tPass ∧ tPass.held = true ∧ tPass.image = none ∧ (crewOf tHeldPass 4).any (·.fast) = false ∧
      rdF tHeldPass R.CREW_CFG_HOLD_MAX = 8 ∧ tPass.holdStroke + 8 ≤ tHeldPass.stk.number ∧ (∀ k ∈ lanesOfPcs tPass.pcs, mapHas tHeldPass.crw.switches k = false) ∧
      (takeImages tHeldPass 0 (lanesOfPcs tPass.pcs)).isSome = true) ∧
    (let k := { tCrew with split := true }
     let s := { tUp with crw := { tUp.crw with crews := [(4, k)] }, stk := { tUp.stk with number := splitLen tUp - 1 } }
     crewOf s 4 = some k ∧ k.split = true ∧ (k.winStart / splitLen s + 1) * splitLen s = catchStroke s) := by decide +kernel

/-! The host link, checkpoints, the Umpire and security -/

/-- `ACK_TIMEOUT` 1 and 20 are the ends of its range. -/
theorem wit_QueuePairs :
    (∀ a ∈ [1, 20], let c := tCmd 0x50 (7 + a * 2 ^ 40) 0 0 0 0 0
      takenB tUp c = true ∧ tUp.lnk.qps.length < 4096 ∧ c.f2 26 2 ≠ 3 ∧ c.f2 40 5 = a ∧ queueIface (joinQueue tUp c) (c.f2 24 2 / 2) (c.f2 32 6) = c.f2 24 2) ∧
    (let c := tCmd 0x50 (7 + 2 ^ 24 + 2 ^ 40) 0 0 0 0 0
     takenB tUp c = true ∧ queueIface (joinQueue tUp c) (c.f2 24 2 / 2) (c.f2 32 6) ≠ c.f2 24 2) ∧
    (takenB tUp (tCmd 0x51 3 0 0 0 0 0) = true ∧ qpOf tUp 3 = some tQp ∧ tQp.dom = 0 ∧ tQp.closing = none) := by decide +kernel

theorem wit_LinkCommandsBind :
    (takenB tUp (tCmd 0x52 0 0 0 0 0 0) = true ∧ domRegWrite (joinQueue tUp (tCmd 0x52 0 0 0 0 0 0)) 0 = true) ∧
    (let s := wrB tUp R.SEC_DOM_RIGHTS 0 1
     takenB s (tCmd 0x52 0 0 0 0 0 0) = true ∧ domRegWrite (joinQueue s (tCmd 0x52 0 0 0 0 0 0)) 0 = false) ∧
    (takenB tUp (tCmd 0x53 0 0 0 0 0 0) = true ∧ takenB tUp (tCmd 0x54 0 0 0 0 0 0) = true ∧ tUp.stk.phase ≠ .idle) ∧
    (takenB State.reset (tCmd 0x54 0 0 0 0 0 0) = true ∧ State.reset.stk.phase = .idle) := by decide +kernel

def tCkp : State := wrB tUp R.CKP_TGT0_ENABLE 0 1

theorem wit_CheckpointCommands :
    (takenB tCkp (tCmd 0x58 0 0 0 0 0 0) = true ∧ ckpEnabled (joinQueue tCkp (tCmd 0x58 0 0 0 0 0 0)) 0 = true ∧
      domTenant (joinQueue tCkp (tCmd 0x58 0 0 0 0 0 0)) 0 0 = true) ∧
    (let c := tCmd 0x59 0 0 (3 * 2 ^ 32) 0 0 0
     takenB tCkp c = true ∧ ckpEnabled (joinQueue tCkp c) 0 = true ∧ c.f2 12 2 ≠ 3 ∧ c.w3.toNat = 0 ∧ qpCheck (joinQueue tCkp c) 0 (c.f4 32 16) = none ∧
       opRoom (joinQueue tCkp c) 2 0 = true) ∧
    (∀ w ∈ [63, 64], let j : CkpJob := { tenant := 0, cmd := none, started := true, blocked := true, waited := w }
      let s := { tUp with ckp := { tUp.ckp with jobs := [(0, j)] } }
      s.ckp.jobs.find? (fun (e : Nat × CkpJob) => e.2.tenant == 0 && e.2.started && !e.2.toHost) = some (0, j) ∧ rdF s R.CKP_CFG_WAIT = 64) := by
  decide +kernel

/-- Each request of Table 19-5, while the Umpire runs and while it does not. -/
theorem wit_UmpireServes : ∀ c ∈ [tCmd 0x60 0 0 (3 * 2 ^ 32) 0 0 0, tCmd 0x60 1 0 (3 * 2 ^ 32) 0 0 0, tCmd 0x60 2 0 (3 * 2 ^ 32) 0 0 0, tCmd 0x60 3 0 (3 * 2 ^ 32) 0 0 0,
      tCmd 0x60 4 0 (3 * 2 ^ 32) 256 0 0, tCmd 0x60 4 0 (3 * 2 ^ 32) 4000000 0 0, tCmd 0x60 5 0 (3 * 2 ^ 32) 0 0 0, tCmd 0x60 6 0 (3 * 2 ^ 32) 0 0 0],
    (let s := { tUp with ump := { tUp.ump with run := .running } }
     takenB s c = true ∧ s.ump.run = .running ∧ umpCode (joinQueue s c) c = none) ∧
    (takenB tUp c = true ∧ tUp.ump.run ≠ .running ∧ umpCode (joinQueue tUp c) c = none) := by decide +kernel

/-- An ATTEST while strokes run and before they begin, and both kinds of RIG_UPDATE. -/
theorem wit_SecurityCommands :
    (∀ p ∈ [Phase.boundary, Phase.idle], let s := { tUp with stk := { tUp.stk with phase := p } }
      let c := tCmd 0x61 0 (3 * 2 ^ 32) 0 0 0 0
      takenB s c = true ∧ domEnabled (joinQueue s c) c.dom = true ∧ qpCheck (joinQueue s c) c.dom (c.f3 32 16) = none ∧ s.stk.phase = p) ∧
    (∀ k ∈ [0, 1], let c := tCmd 0x62 0 (3 * 2 ^ 32) 0 k 0 0
      takenB tUp c = true ∧ domAdmin (joinQueue tUp c) c.dom = true ∧ qpCheck (joinQueue tUp c) c.dom (c.f3 32 16) = none ∧ c.f5 0 1 = k) := by decide +kernel

/-! ### Faults, frames and ports -/

/-- Half-bank 81,919 and Combine group 0's engine as units of ERG. -/
theorem wit_ErgTests :
    (let c := tCmd 0x68 (2 * 2 ^ 28 + 81919) 0 0 0 0 0
     let x : ErgTest := { unit := 2 * 2 ^ 28 + 81919, cls := 0 }
     let s := { tUp with flt := { tUp.flt with tests := [x] } }
     takenB tUp c = true ∧ domRegWrite (joinQueue tUp c) c.dom = true ∧ unitOk (c.f2 0 32) = true ∧ c.f2 32 1 ≠ 1 ∧
       tUp.flt.tests.any (fun t => t.unit = c.f2 0 32 && t.ended.isNone) = false ∧
       takenB s c = true ∧ domRegWrite (joinQueue s c) c.dom = true ∧ s.flt.tests.find? (fun t => t.unit = c.f2 0 32 && t.ended.isNone) = some x) ∧
    (let c := tCmd 0x68 (3 * 2 ^ 28 + 81919 + 2 ^ 32) 0 0 0 0 0
     let s := { tUp with flt := { tUp.flt with fences := [{ unit := 3 * 2 ^ 28 + 81919, cls := 2, count := 1, active := true, time := 0 }] } }
     takenB s c = true ∧ domRegWrite (joinQueue s c) c.dom = true ∧ c.f2 32 1 = 1 ∧ fencedSelf (joinQueue s c) (unitTy (c.f2 0 32)) (unitIdx (c.f2 0 32)) = true ∧
       (fenceEnt (joinQueue s c) (c.f2 0 32)).any (fun e => decide (2 ≤ e.count)) = false) ∧
    (let x : ErgTest := { unit := 7 * 2 ^ 28, cls := 0, left := 1, queued := false }
     let s := { tUp with flt := { tUp.flt with tests := [x] } }
     unitOk x.unit = true ∧ s.flt.tests.any (fun t => t.unit = x.unit && t.ended.isNone) = true ∧ ergGives s = [1] ∧ x.left ≤ 1) ∧
    (let s := wrF tUp R.BOOT_LANES_COVERING 9
     unitOk (6 * 2 ^ 28 + 9) = true ∧ covering s 9 = true ∧ unitTy (6 * 2 ^ 28 + 9) = 6 ∧ unitIdx (6 * 2 ^ 28 + 9) = 9 ∧
       s.flt.tests.any (fun t => t.unit = 6 * 2 ^ 28 + 9 && t.ended.isNone) = false) := by decide +kernel

/-- The last frame of Tier F, empty, and with the only copy of page 9 or the second of its copies. -/
def tFlash (h : Bool) : State := { tUp with tier := { tUp.tier with
  ptes := [(9, { tenant := 0, cls := 1, h := h, f := true, fFrame := 805306367 })]
  sealedAt := [(805306367, { page := 9, ver := 0, tenant := 0, cls := 1, ctr := 0, cells := [] })] } }

theorem wit_MediaErrors :
    rdF (wrF tUp R.FLT_CFG_SCRUB_STROKES 0) R.FLT_CFG_SCRUB_STROKES = 0 ∧ rdF tUp R.FLT_CFG_SCRUB_STROKES ≠ 0 ∧ tUp.flt.scrubRow < 8191 ∧
    mapGet tUp.tier.sealedAt 805306367 = none ∧
    (∀ h ∈ [true, false], (mapGet (tFlash h).tier.sealedAt 805306367).any (fun x => x.page == 9) = true ∧
      (pteOf (tFlash h) 9).any (fun e => e.f && e.fFrame == 805306367 && e.h == h) = true) := by decide +kernel

/-- Interface 3 with its link up, and an association of domain 0 on it. -/
def tLink : State := { wrPort tUp R.PORT_STATUS_LINK 3 1 with lnk := { tUp.lnk with assocs := [(0, tAssoc)] } }
where tAssoc : Assoc := { id := 1, dom := 0, iface := 3, ip := 5, port := 6, events := false, queues := 1, key := List.replicate 32 1, enc := false, age := 0, rx := 0, tx := 0
                          unacked := [{ ty := 2, seq := 0, payload := [], enc := false, retries := 8 }, { ty := 2, seq := 1, payload := [], enc := false }], ackDue := true }

/-- A frame with the tag of a key. -/
def tFrame (key : List Byte) (ty assoc txc : Nat) (acknow : Bool) (payload : List Byte) : BwpFrame := {
  srcIp := 5, srcPort := 6, dstPort := 47040, version := 1, ty := ty, enc := false, acknow := acknow, len := payload.length, seq := 0, ack := 0, txc := txc
  assoc := assoc, sack := 0, payload := payload
  tag := gcmTag key (frameNonce assoc txc) (headerBytes 1 ty false acknow payload.length 0 0 txc assoc 0) payload }

def tHello : BwpFrame := tFrame (List.replicate 32 0) 0x09 0 1 false (List.replicate 32 0)

theorem wit_BwpFrames :
    linkUp tUp 3 = false ∧ linkUp tLink 3 = true ∧ tLink.pwr.water = none ∧ frameOk tLink tHello = true ∧
    helloDom tLink tHello = some (0, List.replicate 32 0) ∧ encNeeded tLink 0 = false ∧
    openAssoc tLink 1 = some tLink.tAssoc ∧
    (∀ a ∈ [true, false], let f := tFrame (List.replicate 32 1) 0x08 1 1 a []
      frameOk tLink f = true ∧ openFrame (List.replicate 32 1) f = some [] ∧ f.acknow = a) ∧
    (let f := tFrame (List.replicate 32 1) 0x01 1 1 false [0]
     frameOk tLink f = true ∧ openFrame (List.replicate 32 1) f = some [0] ∧ (openAssoc (takeAck tLink 1 f.ack f.sack) 1).isSome = true) := by decide +kernel

/-- Frame 0 has used its retries, frame 1 has not; and a lingering association. -/
theorem wit_AssociationTimers :
    (openAssoc tLink 1 = some tLink.tAssoc ∧ (∀ q ∈ [0, 1], (tLink.tAssoc.unacked.find? (fun f => f.seq == q)).any (fun f => !frameQueued tLink 1 f) = true) ∧
      rdF tLink R.BWP_CFG_RETRIES ≤ 8 ∧ 0 < rdF tLink R.BWP_CFG_RETRIES ∧ tLink.tAssoc.ackDue = true) ∧
    (let a := { tLink.tAssoc with st := .lingering }
     assocOf { tLink with lnk := { tLink.lnk with assocs := [(0, a)] } } 1 = some a ∧ a.st = .lingering) := by decide +kernel

def tEth (body : EthBody) (len : Nat) : EthFrame := { len := len, fcsOk := true, vlans := [], fragment := false, extHeader := false, secured := false, prio := 0, body := body }

/-- Interface 2 with an address, and with MACsec; frames of the least and the greatest length; links in both states. -/
theorem wit_PortFrames :
    (let s := wrPort (wrPort tUp R.PORT_STATUS_LINK 2 1) R.PORT_IPV4 2 9
     linkUp s 2 = true ∧ s.pwr.water = none ∧ (∀ f ∈ [tEth (.arp 9 1 2) 64, tEth (.arp 9 1 2) 9216], vlanOk s 2 f = true) ∧
       rdPort s R.PORT_CFG_MACSEC_REQ 2 ≠ 1 ∧ rdPort s R.PORT_IPV4 2 = 9) ∧
    (let s := wrPort (wrPort tUp R.PORT_STATUS_LINK 2 1) R.PORT_IPV6 2 9
     linkUp s 2 = true ∧ portIpv6 s 2 = 9 ∧ vlanOk s 2 (tEth (.neighbour 9 1 2) 64) = true) ∧
    (let s := wrPort (wrPort tUp R.PORT_STATUS_LINK 2 1) R.PORT_CFG_PFC_EN 2 0
     linkUp s 2 = true ∧ rdPort (cntPort s R.PORT_PAUSE_RX 2 1) R.PORT_CFG_PFC_EN 2 ≠ 1 ∧ vlanOk s 2 (tEth (.pause 1) 64) = true) ∧
    (let s := wrPort (wrPort tUp R.PORT_STATUS_LINK 2 1) R.PORT_CFG_PFC_EN 2 1
     rdPort (cntPort s R.PORT_PAUSE_RX 2 1) R.PORT_CFG_PFC_EN 2 = 1 ∧ vlanOk s 2 (tEth (.pfc 1 [1]) 64) = true) ∧
    ((tEth .other 63).len < 64 ∧ 9216 < (tEth .other 9217).len) ∧
    (let s := wrPort tLink R.PORT_CFG_MACSEC_EN 3 1
     let k := { s with lnk := { s.lnk with mkaKeys := [(3, 5)] } }
     let m : MkaMsg := { authentic := true, keyServerPrio := 255, sak := some 1 }
     let u := wrPort s R.PORT_MKA_KS_PRIO 3 254
     linkUp s 3 = true ∧ rdPort s R.PORT_CFG_MACSEC_EN 3 = 1 ∧ m.keyServerPrio ≤ rdPort s R.PORT_MKA_KS_PRIO 3 ∧
       rdPort u R.PORT_MKA_KS_PRIO 3 < m.keyServerPrio ∧ mapHas u.lnk.mkaKeys 3 = false ∧ mapHas k.lnk.mkaKeys 3 = true) ∧
    (let s := { tUp with lnk := { tUp.lnk with selfRefresh := true } }
     linkUp s 2 = false ∧ s.boot.sl0 = true ∧ rdPort s R.PORT_CFG_ENABLE 2 = 1 ∧ oneLane s = true ∧ s.lnk.retrain = []) ∧
    (let s := wrPort (wrF tUp R.PORTG_CFG_BREAKOUT 1) R.PORT_CFG_ENABLE 1 1
     linkUp s 1 = false ∧ oneLane s = false ∧ bitOf (rdF s R.PORTG_CFG_BREAKOUT) 0 = true ∧ rdPort s R.PORT_CFG_ENABLE 1 = 1) := by decide +kernel

theorem wit_TimeSources :
    (let s := wrF (wrPort tUp R.PORT_STATUS_LINK 2 1) R.STK_TIME_CFG_SRC 2
     let d : PtpDataset := { prio1 := 1, clkClass := 6, accuracy := 0, variance := 0, prio2 := 0, identity := 1, steps := 0 }
     let u := { s with time := { s.time with masters := [(2, d)] } }
     rdPort s R.PORT_CFG_PTP_EN 2 = 1 ∧ rdPort s R.PORT_CFG_PTP_TRANSPORT 2 = 0 ∧ b2n false = rdPort s R.PORT_CFG_PTP_P2P 2 ∧ rdPort s R.PORT_CFG_PTP_DOMAIN 2 = 0 ∧
       linkUp s 2 = true ∧ mapGet s.time.masters 2 = none ∧ timeIface s ≠ some 2 ∧ linkUp u 2 = true ∧ timeIface u = some 2 ∧ mapGet u.time.masters 2 = some d ∧
       betterMaster { d with prio1 := 0, identity := 2 } d = true ∧ betterMaster { d with prio1 := 2, identity := 2 } d = false) ∧
    (∀ b ∈ [true, false], let s := { wrF tUp R.STK_TIME_CFG_SRC 4 with time := { tUp.time with ppsSet := b } }
      rdF s R.STK_TIME_CFG_SRC = 4 ∧ s.time.ppsSet = b) ∧
    (let s := wrF (wrF tUp R.STK_TIME_CFG_SRC 1) R.STK_TIME_STATUS_LOCK 1
     rdF s R.STK_TIME_CFG_SRC ≠ 0 ∧ rdF s R.STK_TIME_STATUS_LOCK ≠ 0) ∧
    (let s := { wrF tUp R.STK_TIME_CFG_PPS_MODE 1 with stk := { tUp.stk with phase := .drive, number := 4000 } }
     rdF s R.STK_TIME_CFG_PPS_MODE = 1 ∧ s.stk.phase = .drive ∧ s.stk.number % max 1 (rdF s R.STK_TIME_CFG_PPS_DIV) = 0) ∧
    rdF tUp R.STK_TIME_CFG_PPS_MODE ≠ 1 := by decide +kernel

/-- Queue pair 3 with a READ asked for, with a WRITE gone out, and with both kinds of retry count. -/
theorem wit_RocePairs :
    (let r : RdmaRead := { qp := 3, rkey := 0, addr := 0, len := 8, use := .command (tCmd 0x34 0 0 0 0 0 0), asked := true }
     let s := { tUp with lnk := { tUp.lnk with reads := [(0, r)] } }
     qpOf s 3 = some tQp ∧ mapGet s.lnk.reads 0 = some r ∧ r.qp = 3 ∧ r.asked = true ∧ tQp.err = false ∧ s.lnk.reads = [(0, r)] ∧ s.lnk.writes = [] ∧ tQp.retries < 7 ∧
     (let u := { s with lnk := { s.lnk with qps := [(3, { tQp with retries := 7 })] } }
      qpOf u 3 = some { tQp with retries := 7 } ∧ u.lnk.reads = [(0, r)])) ∧
    (let w : RdmaWrite := { qp := 3, rkey := 0, addr := 0, data := [1], use := .now { cmd := tCmd 0x34 0 0 0 0 0 0, status := 0 }, pkts := 1 }
     let s := { tUp with lnk := { tUp.lnk with writes := [(0, w)] } }
     qpOf s 3 = some tQp ∧ mapGet s.lnk.writes 0 = some w ∧ writePkts tQp w ≤ w.pkts ∧ s.eg.queues = []) ∧
    (qpOf tUp 3 = some tQp ∧ tUp.lnk.reads = [] ∧ tUp.lnk.writes = [] ∧ tQp.lastCnp = none) ∧
    (∀ n ∈ [ReadFor.anchor 0, .restore 0 0, .copyUp 8], let r : RdmaRead := { qp := 3, rkey := 0, addr := 0, len := 8, use := n, asked := true }
      let s := { tUp with lnk := { tUp.lnk with reads := [(0, r)] } }
      mapGet s.lnk.reads 0 = some r ∧ r.asked = true) := by decide +kernel

theorem wit_EgressServes :
    (let s := { tLink with eg := { tLink.eg with ifaces := [(3, { ctl := [.mka] })] } }
     s.pwr.water = none ∧ linkUp (linkPump (timeAt s 0)) 3 = true ∧ (selectFrame (pumpRoce (linkPump (timeAt s 0)) 3) 3 0).2 = some .mka ∧
       (ifaceOf s 3).ctl = [.mka]) ∧
    (let s := { tUp with eg := { tUp.eg with ifaces := [(3, { gates := [(100000, 1), (150000, 2)] })] } }
     s.stk.phase ≠ .idle ∧ (ifaceOf s 3).entry + 1 < (gateSpans s.stk.length 0 (ifaceOf s 3).gates).length) ∧
    (tUp.stk.phase ≠ .idle ∧ (gateSpans tUp.stk.length 0 (ifaceOf tUp 3).gates).length ≤ (ifaceOf tUp 3).entry + 1) := by decide +kernel

/-! ### Power, the module, the Umpire and bring-up -/

theorem wit_InputVoltage : tUp.pwr.rangeLow = false ∧ tUp.pwr.rangeHigh = false ∧ tUp.mod.pwrGood = true ∧ tUp.pwr.water = none := by decide +kernel

theorem wit_HoldUp :
    (tUp.pwr.testing = false ∧ rdF tUp R.PWR_CFG_RETEST_H ≠ 0 ∧ tUp.pwr.water = none ∧ tUp.mod.pwrGood = true) ∧
    (State.reset.pwr.testing = false ∧ State.reset.pwr.hold = 0) ∧
    ({ tUp with pwr := { tUp.pwr with testing := true, water := some 1 } } : State).pwr.testing = true ∧
    (∀ c ∈ [1, 3], ({ tUp with pwr := { tUp.pwr with water := some c } } : State).pwr.water = some c ∧ c ≠ 0) := by decide +kernel

theorem wit_ModulePins :
    (let s := { tUp with mod := { tUp.mod with pwrGood := false, inputMv := 54000 } }
     s.mod.pwrGood = false ∧ s.mod.pwrEn = true ∧ s.pwr.water = none ∧ 54000 ≤ s.mod.inputMv ∧ s.mod.inputMv ≤ 63000) ∧
    (tUp.mod.pwrGood = true ∧ tUp.pwr.water = none ∧ tUp.pwr.resetCause = none ∧ tUp.mod.hk = true) ∧
    (let s := { tUp with pwr := { tUp.pwr with resetCause := some 2, water := some 0 } }
     s.mod.pwrGood = true ∧ s.pwr.resetCause = some 2 ∧ s.pwr.water.isSome = true) ∧
    ({ tUp with mod := { tUp.mod with hk := false } } : State).mod.hk = false := by decide +kernel

theorem wit_SealOkPin : (pins { tUp with ump := { tUp.ump with run := .running } }).sealOk = true ∧ (pins tUp).sealOk = false := by decide +kernel

theorem wit_UmpireEvents :
    (let s := { tUp with ump := { tUp.ump with run := .running, link := true } }
     umpUp s = true ∧ umpUp tUp = false ∧ s.ump.run = .running ∧ s.ump.lastStroke % max 1 s.ump.period = 0) ∧
    (let r : Receipt := { tenant := 0, rseq := 1, body := [] }
     let s := { tUp with ump := { tUp.ump with run := .running, receipts := [r] } }
     s.ump.receipts.find? (fun r => r.tenant == 0 && r.bytes.isNone) = some r) ∧
    (let s := { tUp with ump := { tUp.ump with run := .off } }
     s.ump.run ≠ .running ∧ s.ump.run ≠ .selfTest) ∧
    (State.reset.ump.run = .selfTest ∧ State.reset.ump.run ≠ .off) := by decide +kernel

/-- The state after reset, the state at SL0 with every lane trained, and one with strokes. -/
def tSl0 : State := { wrF State.reset R.BOOT_LANES_TRAINED 1023 with boot := { State.reset.boot with sl0 := true } }

theorem wit_BringUp :
    (let s := State.reset
     s.boot.sl0 = false ∧ s.mod.pwrGood = true ∧ s.mod.rstN = true ∧ s.pwr.water = none ∧ s.stk.phase = .idle ∧
       pickSlot (s.sec.fws.map (fun f => (f.version, f.valid))) s.sec.fwCtr = some 0 ∧ pickSlot (s.sec.rigs.map (fun r => (r.version, r.valid))) s.sec.rigCtr = some 0 ∧
       s.sec.fws[0]?.isSome = true ∧ s.sec.rigs[0]?.any (·.unwraps) = true ∧ pickSlot (([] : List FwImage).map (fun f => (f.version, f.valid))) 0 = none) ∧
    (let s := { State.reset with boot := { State.reset.boot with sl0 := true, train := [(9, 2)] } }
     s.boot.sl0 = true ∧ s.boot.fail = 0 ∧ s.stk.phase = .idle ∧ laneTrained s 9 = false ∧ (mapGet s.boot.train 9).getD 0 = 2) ∧
    (tSl0.boot.sl0 = true ∧ tSl0.boot.fail = 0 ∧ tSl0.boot.installed = false ∧ tSl0.stk.phase = .idle ∧
      (∀ k, k < 10 → laneTrained tSl0 k = true ∨ laneFenced tSl0 k = true)) ∧
    (let s := { tSl0 with boot := { tSl0.boot with installed := true }, pwr := { tSl0.pwr with hold := 2 } }
     s.boot.installed = true ∧ s.pwr.hold ≠ 0 ∧ s.pwr.testing = false ∧ s.pwr.water = none ∧ s.stk.phase = .idle) ∧
    (let s := wrF tUp R.BOOT_LANES_COVERING 9
     s.stk.phase ≠ .idle ∧ rdF s R.BOOT_LANES_COVERING = 9 ∧ 9 ∉ s.boot.ready ∧ laneFenced s 9 = false) ∧
    (bitOf (rdWord tUp .clk 0 0 0x100) 3 = false ∧ bitOf (rdWord (wrWord tUp .clk 0 0 0x100 15) .clk 0 0 0x100) 3 = true) := by decide +kernel

/-! ### Lanes, blades, the Mover, the stroke -/

/-- Lane 9 in each of the modes that its events need; a temperature below, at and above each threshold is any number. -/
theorem wit_GovernorEvents :
    rdI tUp R.LANE_GOV_MODE 9 = 0 ∧ ((mapGet { tUp with stk := { tUp.stk with number := 64 } }.gov.slowAt 9).getD 0 + 64 ≤ 64) ∧
    tUp.stk.number < (mapGet tUp.gov.slowAt 9).getD 0 + 64 ∧ max 70 (min 90 (rdI tUp R.LANE_GOV_TARGET_C 9)) < 91 ∧
    0 < rdI tUp R.LANE_THERM_LIMIT_C 9 ∧ 0 < rdI tUp R.LANE_THERM_CLEAR_C 9 ∧ laneTripped (setHot (seeTemp tUp 9 0 105) 9) 9 = false ∧
    (let s := wrI tUp R.LANE_GOV_MODE 9 1
     rdI s R.LANE_GOV_MODE 9 = 1 ∧ rdI s R.LANE_GOV_STATUS_HOLD_LEFT 9 = 0) ∧
    (let s := wrI { tUp with gov := { tUp.gov with cold := [9] } } R.LANE_COLD_LEFT 9 0
     9 ∈ s.gov.cold ∧ rdI s R.LANE_COLD_LEFT 9 = 0) := by decide +kernel

/-- A drive in which leg 0 of a plan is granted: half-bank 0 has one pull of kind 5 (`DOT` of no position), half-bank 1 nothing, and half-bank 2 writes
row 64 (frame 1); the plan sends one segment to PC 0, and group 0 has one instruction. -/
def tDrivePlan : Plan := { tPlan with
  pulls := [(0, [5]), (512, [BitVec.ofNat 64 (6 + 64 * 2 ^ 19)])]
  sched := [(0, [{ header := 2 + 3 * 2 ^ 5, pc := 0, fill := false, after := 0xFFFF, before := 0xFFFF, leg := 0, source := 0 }])]
  comb := [(0, [{ op := 2, sfmt := 0, dfmt := 0, n := 1, a := 0, src := 0, dst := 64 }])] }
def tLeg : GLeg := { pass := 0, model := 7, version := 1, leg := 0, start94 := 0, lanes := 1, openBlades := [0, 1, 2], openGroups := [0] }
def tDrive : State := { tUp with
  stk := { tUp.stk with phase := .drive, granted := [(0, tLeg)] }
  prg := { tUp.prg with progs := [(7, { cur := tDrivePlan, lcCfg := 0 })] }
  bld := { tUp.bld with runs := [(0, { leg := some 0 }), (1, { leg := some 0 })] } }

/-- The same drive once the segment has come: half-bank 0's list stands in its store, with its slot 0 full or not. -/
def tListed (full : Bool) : State := { tDrive with
  bld := { tDrive.bld with buses := [(0, { done := [(0, 1)] })], sram := if full then [(0x1800, 5), (0x3801, 1)] else [(0x1800, 5)] } }

/-- Half-bank 0 stands at its pull, half-bank 1 at its list's end, and half-bank 2 has not begun its list. -/
theorem wit_DriveWork_blades :
    (legFor tUp 81919 = none) ∧
    (∀ full ∈ [true, false], let s := tListed full
      legFor s 0 = some 0 ∧ (runOf s 0).leg = some 0 ∧ legOf (takeLeg s 0 0) 0 = some tLeg ∧ legPlan (takeLeg s 0 0) tLeg = some tDrivePlan ∧
        (let u := runToPull 0 0 tDrivePlan tLeg 1 1 (takeLeg s 0 0)
         (legEntries (takeLeg s 0 0) 0 0).length = 1 ∧ (runOf u 0).at_ = 0 ∧
         pullReady u 0 0 tDrivePlan tLeg 1 0 (storedEnt u tDrivePlan 0 0 0) = full)) ∧
    (let s := tListed true
     legFor s 1 = some 0 ∧ legOf (takeLeg s 0 1) 0 = some tLeg ∧ legPlan (takeLeg s 0 1) tLeg = some tDrivePlan ∧ legEntries (takeLeg s 0 1) 0 1 = []) ∧
    (legFor tDrive 2 = some 0 ∧ legOf (takeLeg tDrive 0 2) 0 = some tLeg ∧ (runOf tDrive 2).leg = none) := by decide +kernel

def tShip : Ship := { leg := 0, tag := 0, area := 0, count := 1, bytes := [0, 0, 0, 0], poison := false }

/-- A session of one full span with no summary, whose page stands in Tier H. -/
def tSpan : Ses := { tSes .waiting with d := { tDesc .waiting with positions := 16 }, pl := [(0, { page := 8, shared := false }), (1, { page := 9, shared := false })] }

theorem wit_DriveWork_lanes :
    ((nextSched tDrive 0).any (fun e => e.1 == 0) = true) ∧
    (let s := { tUp with bld := { tUp.bld with runs := [(81919, { ships := [tShip] })] } }
     nextSched s 639 = none ∧ nextShip s 639 = some (81919, tShip, [])) ∧
    (legOf tDrive 0 = some tLeg ∧ (cmbProg tDrive tLeg 0)[(mapGet tLeg.cmbPc 0).getD 0]?.isSome = true ∧ tLeg.stopped = false ∧ 0 ∈ tLeg.openGroups) ∧
    (let w : Switch := { lane := 9, incoming := { model := 7, version := 1 }, crew := 4, pcs := [639], strokes := 1, whole := [639], moved := [(639, 127)] }
     let s := { tUp with crw := { tUp.crw with switches := [(9, w)] } }
     nextSched s 639 = none ∧ nextShip s 639 = none ∧ mapGet s.crw.switches (639 / 64) = some w ∧ 639 ∈ w.whole ∧ 639 ∉ w.failed ∧ movedOf w 639 < 128) ∧
    (({ tUp with lnk := { tUp.lnk with selfRefresh := true } } : State).lnk.selfRefresh = true ∧ tDrive.lnk.selfRefresh = false) ∧
    (let s := { tDrive with stk := { tDrive.stk with granted := [(0, { tLeg with owns := [frameOf 2 1] })] }
                            bld := { tDrive.bld with account := [(1, (0, 679))] } }
     frameOwned s (frameOf 2 (64 / 64)) = true ∧ frameOwned s (frameOf 81919 (8191 / 64)) = false ∧ bladeIdle s 81919 = true ∧
       frameOwned s (frameOf 1 (8191 / 64)) = false ∧ bladeIdle s 1 = false ∧ 1099 < slotCharge s 1 + 141 + 280 ∧
       bladeIdle s 0 = false ∧ slotCharge s 0 + 141 + 280 ≤ 1099) ∧
    (let s := { tPaged with ses := { tPaged.ses with tab := [(1, tSpan)] } }
     sesOf s 1 = some tSpan ∧ sesPlan s tSpan = some tPlan ∧ mapGet tSpan.pl (tSpan.plKey 0 0) = some { page := 8, shared := false } ∧
       unsummarised tSpan 0 0 = true ∧ (readPage s 8 0 65536).isSome = true ∧
       (placeIndex s tSpan.d.tenant (freshIndex s tSpan tHdr 1)).any (fun u => dirtyFits u 2) = true) := by decide +kernel

/-- Whatever tag an instruction names, a lane with no tags has nothing to wait for. -/
theorem wit_DriveWork_results (d : Nat) : resultsHere tDrive 0 tLeg 0 d = true := by
  simp [resultsHere, tLeg, mapGet]

/-- A Mover entry with the copy of page 8 granted, and page 9 not. -/
def tMover : State :=
  let o : OpEnt := { kind := 8, cls := 2, src := 0, dst := 0, tenant := 0, object := 0, isSes := false, start := 0, flying := [8] }
  { tPaged with tier := { tPaged.tier with ops := [(0, o)] } }

theorem wit_MoverCopies : (opOf tMover 0).any (fun o => !o.flying.contains 9 && o.flying.contains 8 && (copyCells tMover o 8).isSome && o.kind != 0xE) = true ∧
    lazyPage tMover 8 = false ∧ pageOwned tMover 8 = false ∧
    pageOwned { tMover with stk := { tMover.stk with granted := [(0, { tLeg with owns := [40] })] } } 8 = true := by decide +kernel

theorem wit_StrokeCatches :
    (tUp.pwr.water = none ∧ tUp.stk.phase = .boundary ∧ tUp.stk.begun = true) ∧
    (tDrive.stk.phase ≠ .boundary) ∧
    (let s := { tUp with stk := { tUp.stk with begun := false } }
     s.pwr.water = none ∧ s.stk.phase = .boundary ∧ s.stk.begun = false) := by decide +kernel

/-- A drive with nothing granted, with and without an Umpire that counts. -/
theorem wit_StrokeFinishes :
    (let s := { tUp with stk := { tUp.stk with phase := .drive } }
     s.pwr.water = none ∧ s.stk.phase = .drive ∧ (finishLegs (governCounts s)).pwr.water = none ∧ umpUp (finishLegs (governCounts s)) = false ∧
     (let u := { s with ump := { s.ump with run := .running, link := true } }
      (finishLegs (governCounts u)).pwr.water = none ∧ umpUp (finishLegs (governCounts u)) = true)) ∧
    (tUp.stk.phase ≠ .drive) := by decide +kernel

/-! ### Well-formed commands: one ill-formed term for each check -/

/-- A command with a bit of W0 set. -/
def tCmd0 (op bit : Nat) : Cmd := { tCmd op 0 0 0 0 0 0 with w0 := BitVec.ofNat 64 (op + 2 ^ bit) }

/-- The opcode is not the row's, or no chapter's; the selector is another row's; the domain is none of the sixteen. -/
theorem test_wf_row : (Instr.nop (tCmd 0x53 0 0 0 0 0 0)).wf = false ∧ (Instr.nop (tCmd 0x55 0 0 0 0 0 0)).wf = false ∧
    (Instr.importCommit (tCmd 0x11 tW2 0 0 0 0 0)).wf = false ∧ (Instr.courseClose (tCmd 0x2A 4 0 0 0 0 0)).wf = false ∧
    (Instr.streamFree (tCmd 0x33 0 0 1 0 0 0)).wf = false ∧ (Instr.crewDelete (tCmd 0x48 0 0 0 0 0 0)).wf = false ∧
    (Instr.umpAck (tCmd 0x60 1 0 0 0 0 0)).wf = false ∧ (Instr.rigUpdateFirmware (tCmd 0x62 0 0 0 0 0 0) []).wf = false ∧
    (Instr.nop { tCmd 0x54 0 0 0 0 0 0 with dom := 16 }).wf = false ∧ (Instr.nop { tCmd 0x54 0 0 0 0 0 0 with dom := 15 }).wf = true := by decide +kernel

/-- Reserved bits of the header (14, 15, 32 to 39, 41 on), and of each of W2 to W7; `FENCE` and the queue are defined. -/
theorem test_wf_reserved : (∀ b ∈ [14, 15, 32, 39, 41, 63], (Instr.nop (tCmd0 0x54 b)).wf = false) ∧ (∀ b ∈ [8, 13, 40], (Instr.nop (tCmd0 0x54 b)).wf = true) ∧
    (Instr.nop (tCmd 0x54 1 0 0 0 0 0)).wf = false ∧ (Instr.nop (tCmd 0x54 0 1 0 0 0 0)).wf = false ∧ (Instr.nop (tCmd 0x54 0 0 1 0 0 0)).wf = false ∧
    (Instr.nop (tCmd 0x54 0 0 0 1 0 0)).wf = false ∧ (Instr.nop (tCmd 0x54 0 0 0 0 1 0)).wf = false ∧ (Instr.nop (tCmd 0x54 0 0 0 0 0 1)).wf = false := by
  decide +kernel

/-- Field values that a chapter reserves, beside the largest one it defines. -/
theorem test_wf_values :
    ((Instr.park (tCmd 0x14 (3 * 2 ^ 32) 0 0 0 0 0)).wf = false ∧ (Instr.park (tCmd 0x14 (2 * 2 ^ 32) 0 0 0 0 0)).wf = true) ∧
    ((Instr.openSes (tCmd 0x10 0 0 (3 * 2 ^ 48) 0 0 0)).wf = false ∧ (Instr.openSes (tCmd 0x10 0 0 (2 * 2 ^ 48) 0 0 0)).wf = true) ∧
    ((Instr.openSes (tCmd 0x10 0 0 (3 * 2 ^ 52) 0 0 0)).wf = false ∧ (Instr.openSes (tCmd 0x10 0 0 (2 * 2 ^ 52) 0 0 0)).wf = true) ∧
    ((Instr.importBegin (tCmd 0x11 0 0 3 0 0 0) []).wf = false ∧ (tCmd 0x11 0 0 3 0 0 0).formatOk = false) ∧
    ((Instr.append (tCmd 0x12 0 0 0 0 0 0) []).wf = false ∧ (Instr.append (tCmd 0x12 0 0 1 0 0 0) []).wf = true ∧ (Instr.append (tCmd 0x12 0 0 (2 ^ 16) 0 0 0) []).wf = true) ∧
    ((Instr.revive (tCmd 0x15 0 0 4 0 0 0)).wf = false ∧ (Instr.revive (tCmd 0x15 0 0 3 0 0 0)).wf = true) ∧
    ((Instr.exportSes (tCmd 0x17 0 0 2 0 0 0)).wf = false ∧ (Instr.exportSes (tCmd 0x17 0 0 1 0 0 0)).wf = true) ∧
    ((Instr.pin (tCmd 0x18 0 0 3 0 0 0)).wf = false ∧ (Instr.pin (tCmd 0x18 0 0 2 0 0 0)).wf = true) ∧
    ((Instr.move (tCmd 0x20 2 0 0 0 0 0)).wf = false ∧ (Instr.move (tCmd 0x20 1 0 0 0 0 0)).wf = true) ∧
    (tCmd 0x48 3 0 0 0 0 0).formatOk = false := by decide +kernel

/-- Units that the device does not have, beside the last one it has (01 Table 01-2). -/
theorem test_wf_units :
    ((Instr.bladePull 81920 [] false).wf = false ∧ (Instr.bladePull 81919 [] false).wf = true) ∧ ((Instr.legEnd 81920).wf = false) ∧
    ((Instr.laneBusTransfer 640 false).wf = false ∧ (Instr.laneBusTransfer 639 false).wf = true) ∧
    ((Instr.combineInstruction 0 16 none).wf = false ∧ (Instr.combineInstruction 0 15 none).wf = true) ∧
    ((Instr.refreshDue 10 0).wf = false ∧ (Instr.refreshDue 9 4096).wf = false ∧ (Instr.refreshDue 9 4095).wf = true) ∧
    ((Instr.controlDieSlot 81920 0 none []).wf = false) ∧
    ([Instr.slowThermalLoop 10 0, .laneHotSet 10 0 0, .laneHotClear 10 0, .laneTempTrip 10 0 0, .sprintHoldEnd 10, .coldStartEnd 10, .switchDone 10,
      .laneTrainingDone 10 true, .laneOnline 10, .streamEngineTake 64, .bwpFrameRx 4 tHello, .hello 4 tHello, .close 4 tHello, .bwpAckFrame 4 tHello,
      .ethFrameRx 4 (tEth .other 64), .mkaFrame 4 ⟨true, 0, none⟩, .ptpMessage 4 ⟨0, false, 0, .announceLost⟩, .portLinkChange 4 true, .egressSelect 4 0,
      .gclEntryAdvance 4, .pauseTimeExpiry 4 0, .pauseTimeExpiry 0 8].all (fun i => !i.wf)) = true := by decide +kernel

/-! ### Small tests, one step each; the expected values are read from the rules named -/

/-- The state after a step. -/
def tAfter (i : Instr) (s : State) (p : State → Bool) : Bool := match exec i s with | .next t => p t | _ => false

/-- 15 R344: NOP before strokes begin completes with `E_OK` and echoes its tag. -/
theorem test_nop : tAfter (.nop { tCmd 0x54 0 0 0 0 0 0 with w0 := BitVec.ofNat 64 (0x54 + 7 * 2 ^ 16) }) State.reset (fun t =>
    t.out.cpls.map (fun k => (k.tag, k.status)) == [(7, 0)]) = true := by decide +kernel

/-- 22 R473: at SL0 an OPEN is refused with `E_SVC_LEVEL`. -/
theorem test_open_sl0 : tAfter (.openSes (tCmd 0x10 0 0 0 7 0 0)) State.reset (fun t => t.out.cpls.map (·.status) == [E_SVC_LEVEL]) = true := by decide +kernel

/-- 03 R57: a PIN stages its commit and does not move the epoch. -/
theorem test_pin : tAfter (.pin (tCmd 0x18 tW2 tAny 1 0 0 0)) (tS (tSes .waiting)) (fun t =>
    t.stk.commits.length == 1 && (sesOf t 1).any (fun x => x.d.epoch == 9 && x.head.isSome)) = true := by decide +kernel

/-- 03 R41: an epoch behind the session's is refused with `E_EPOCH_STALE`. -/
theorem test_epoch_stale : tAfter (.release (tCmd 0x19 tW2 8 0 0 0 0)) (tS (tSes .waiting)) (fun t =>
    t.stk.commits.any (fun k => match k with | .done d => d.status == E_EPOCH_STALE && d.c1 == 9 | _ => false)) = true := by decide +kernel

/-- 06 R126: the catch starts stroke 6 after stroke 5, 250 µs after its start. -/
theorem test_catch : tAfter (.strokeCatch 0) tUp (fun t => t.stk.number == 6 && t.stk.phase == .drive && t.time.now == 250000) = true := by decide +kernel

/-- 03 R57: the commit of a PIN of Tier H sets `PIN_H` and leaves the epoch. -/
theorem test_pin_commit : (sesOf (applyCommit (tS (tSes .waiting)) (.pin 1 (tCmd 0x18 tW2 tAny 1 0 0 0))) 1).any (fun x => x.d.pinH && x.d.epoch == 9) = true := by
  decide +kernel

/-- 18 Table 18-1: below 50 V the Hold-water sequence begins, and at 50 V it does not. -/
theorem test_power_loss : tAfter (.powerLoss 49999) tUp (fun t => t.pwr.water == some 1) = true ∧
    tAfter (.powerLoss 50000) tUp (fun t => t.pwr.water == none) = true := by decide +kernel

/-- 23 R485: power-on raises `PWR_GOOD` only in the operating range. -/
theorem test_power_on : tAfter .powerOnReset { tUp with mod := { tUp.mod with pwrGood := false, inputMv := 53999 } } (fun t => !t.mod.pwrGood) = true ∧
    tAfter .powerOnReset { tUp with mod := { tUp.mod with pwrGood := false, inputMv := 63000 } } (fun t => t.mod.pwrGood) = true := by decide +kernel

/-- 08 R182: a core die at `TRIP_C` (105 °C) trips its lane and raises the alarm; 104 °C does not. -/
theorem test_trip : tAfter (.laneTempTrip 9 0 105) tUp (fun t => t.gov.trips == [9] && t.gov.alarm) = true ∧
    tAfter (.laneTempTrip 9 0 104) tUp (fun t => t.gov.trips == []) = true := by decide +kernel

/-- 08 R170: a refresh that falls due under a running blade is owed; the count stops at 8. -/
theorem test_refresh : tAfter (.refreshDue 0 0) tDrive (fun t => owedOf t 0 == 1) = true ∧
    tAfter (.refreshDue 0 0) { tDrive with bld := { tDrive.bld with owed := [(0, 8)] } } (fun t => owedOf t 0 == 8) = true := by decide +kernel

/-- 19 R417: an opened cover latches `TAMPER` and `SEAL_OK` falls; an authorised seal clears it. -/
theorem test_tamper : tAfter .tamperOpen { tUp with ump := { tUp.ump with run := .running } } (fun t => t.ump.tamper && !(pins t).sealOk) = true ∧
    tAfter (.sealRecord 5 true) { tUp with ump := { tUp.ump with run := .running, tamper := true } } (fun t => !t.ump.tamper && (pins t).sealOk) = true := by
  decide +kernel

/-- 22 R470: a failed training is counted. -/
theorem test_training : tAfter (.laneTrainingDone 9 false) { State.reset with boot := { State.reset.boot with sl0 := true, train := [(9, 1)] } } (fun t =>
    t.boot.train == [(9, 2)]) = true := by decide +kernel

/-- 15 R350: a queue pair that is not its domain's is refused with `E_QP_DENIED`. -/
theorem test_qp_denied : tAfter (.attest { tCmd 0x61 0 (4 * 2 ^ 32) 0 0 0 0 with dom := 0 }) tUp (fun t =>
    t.stk.commits.any (fun k => match k with | .done d => d.status == E_QP_DENIED | _ => false)) = true := by
  decide +kernel

/-- 23 R491: the coolant's outlet above 65 °C is an alert, at 65 °C it is none. -/
theorem test_coolant : tAfter (.coolantOutletHigh 66) tUp (fun t => t.mod.coolantHigh) = true ∧
    tAfter (.coolantOutletNormal 65) { tUp with mod := { tUp.mod with coolantHigh := true } } (fun t => !t.mod.coolantHigh) = true := by decide +kernel

/-- FIPS 180-4, as 09 R193 names it: the digest of no bytes begins E3 B0 C4 42. -/
theorem test_sha256 : (sha256 []).take 4 = [0xE3, 0xB0, 0xC4, 0x42] := by decide +kernel

end Sys2Proof.Tests
end

section
/-! PROOFS. When a row of the table runs: a row that names no unit always answers a next state, a row that names one answers a next state exactly for
the units of the device (01 R15). -/

open Host
namespace Sys2Proof.Machine

/-- An outcome is a next state where `ok` holds, and the fault of a unit that is not there where it does not; it is never a refusal. -/
def RunsIff (ok : Bool) (o : Outcome State Fault Refusal) : Prop :=
  (ok = true → ∃ t, o = .next t) ∧ (ok = false → o = .fault .noSuchUnit)

theorem runsIff_next (t : State) : RunsIff true (.next t) :=
  ⟨fun _ => ⟨t, rfl⟩, (nomatch ·)⟩

theorem runsIff_ite (ok : Bool) (t : State) : RunsIff ok (if ok then .next t else .fault .noSuchUnit) := by
  cases ok with
  | true => exact runsIff_next t
  | false => exact ⟨(nomatch ·), fun _ => rfl⟩

/-- A guard that faults where `ok` fails answers as `ok` says. -/
theorem runsIff_guard {ok : Bool} {bad : Prop} [Decidable bad] (hbad : bad ↔ ok = false) (t : State) :
    RunsIff ok (if bad then .fault .noSuchUnit else .next t) := by
  cases ok with
  | true => rw [if_neg (fun h => nomatch hbad.mp h)]; exact runsIff_next t
  | false => rw [if_pos (hbad.mpr rfl)]; exact runsIff_ite false t

/-- A row that names one unit, of `n` that exist. -/
theorem runsIff_unit (u n : Nat) (t : State) :
    RunsIff (decide (u < n)) (if n ≤ u then .fault .noSuchUnit else .next t) :=
  runsIff_guard (by simp only [decide_eq_false_iff_not, Nat.not_lt]) t

/-- A row that names a unit, of `n` that exist, and a part of it, of `m`. -/
theorem runsIff_unit_part (u n p m : Nat) (t : State) :
    RunsIff (decide (u < n) && decide (p < m)) (if n ≤ u ∨ m ≤ p then .fault .noSuchUnit else .next t) :=
  runsIff_guard (by simp only [Bool.and_eq_false_iff, decide_eq_false_iff_not, Nat.not_lt]) t

/-- Every row runs exactly where the units it names exist. -/
theorem exec_runsIff_unitsExist (i : Instr) (s : State) : RunsIff (unitsExist i) (exec i s) := by
  cases i with
  -- blades and their rows
  | bladePull blade flips parity => exact runsIff_unit blade 81920 _
  | legEnd blade => exact runsIff_unit blade 81920 _
  | controlDieSlot blade row wr flips => exact runsIff_unit_part blade 81920 row 8192 _
  -- pseudo-channels and Combine groups
  | laneBusTransfer pc parity => exact runsIff_unit pc 640 _
  | combineInstruction leg group fault => exact runsIff_unit group 16 _
  -- lanes and their banks
  | refreshDue lane bank => exact runsIff_unit_part lane 10 bank 4096 _
  | slowThermalLoop lane predict => exact runsIff_unit lane 10 _
  | laneHotSet lane die temp => exact runsIff_unit lane 10 _
  | laneHotClear lane temp => exact runsIff_unit lane 10 _
  | laneTempTrip lane die temp => exact runsIff_unit lane 10 _
  | sprintHoldEnd lane => exact runsIff_unit lane 10 _
  | coldStartEnd lane => exact runsIff_unit lane 10 _
  | switchDone lane => exact runsIff_unit lane 10 _
  | laneTrainingDone lane ok => exact runsIff_unit lane 10 _
  | laneOnline lane => exact runsIff_unit lane 10 _
  -- stream engines, units under test and flash frames
  | streamEngineTake engine => exact runsIff_unit engine 64 _
  | ergTestEnd unit pass row => exact runsIff_ite (unitOk unit) _
  | flashReadFail frame retryOk parityOk => exact runsIff_unit frame 805306368 _
  -- interfaces and their priorities
  | bwpFrameRx iface f => exact runsIff_unit iface 4 _
  | hello iface f => exact runsIff_unit iface 4 _
  | close iface f => exact runsIff_unit iface 4 _
  | bwpAckFrame iface f => exact runsIff_unit iface 4 _
  | ethFrameRx iface f => exact runsIff_unit iface 4 _
  | mkaFrame iface m => exact runsIff_unit iface 4 _
  | ptpMessage iface m => exact runsIff_unit iface 4 _
  | portLinkChange iface up => exact runsIff_unit iface 4 _
  | egressSelect iface time => exact runsIff_unit iface 4 _
  | gclEntryAdvance iface => exact runsIff_unit iface 4 _
  | pauseTimeExpiry iface prio => exact runsIff_unit_part iface 4 prio 8 _
  -- phase-locked loops
  | pllLockLoss pll => exact runsIff_unit pll 4 _
  | pllRelock pll => exact runsIff_unit pll 4 _
  | clockFaultReset pll => exact runsIff_unit pll 4 _
  -- every other row names no unit
  | _ => exact runsIff_next _

/-- Settles O4: each row runs exactly where the units it names exist. -/
theorem everyRowRuns : Obligations.EveryRowRuns := exec_runsIff_unitsExist

end Sys2Proof.Machine
end

section
/-! PROOFS. The register words after reset (22 R464, Table 22-1), and the rest of the state after reset where the spec gives its value. -/

open Host
namespace Sys2Proof.Machine

/-! ### Register words and the register map -/

/-- A word that the register map does not list stands at its reset word. -/
theorem rdWord_unlisted {s : State} {b : Blk} {inst bank off : Nat} (h : mapGet s.reg.ctl (regKey b inst bank off) = none) :
    rdWord s b inst bank off = regReset b off := by
  simp only [rdWord, h]

/-- A word that the register map lists is the one it lists. -/
theorem rdWord_listed {s : State} {b : Blk} {inst bank off : Nat} {w : Word} (h : mapGet s.reg.ctl (regKey b inst bank off) = some w) :
    rdWord s b inst bank off = w.toNat := by
  simp only [rdWord, h]

/-! ### Registers after reset -/

/-- After reset the register map lists `BOOT_CAUSE` alone: cause 1, the power-on (22 Table 22-1). -/
theorem reset_ctl : State.reset.reg.ctl = [(regKey .boot 0 0 0x100, 1)] := rfl

/-- After reset every register but `BOOT_CAUSE` holds its reset word. -/
theorem rdWord_reset {b : Blk} {inst bank off : Nat} (h : regKey b inst bank off ≠ regKey .boot 0 0 0x100) :
    rdWord State.reset b inst bank off = regReset b off :=
  rdWord_unlisted (by simp [reset_ctl, mapGet, h])

theorem rdWord_bootCause_reset : rdWord State.reset .boot 0 0 0x100 = 1 :=
  rdWord_listed (w := 1) (by simp [reset_ctl, mapGet])

/-- After reset a field of any register but `BOOT_CAUSE` is cut from the register's reset word. -/
theorem rdF_reset {f : Fld} {w : Nat} (h : regKey f.blk 0 0 f.off ≠ regKey .boot 0 0 0x100) (hw : regReset f.blk f.off = w) :
    rdF State.reset f = bitsOf w f.lo f.wd :=
  congrArg (bitsOf · f.lo f.wd) ((rdWord_reset h).trans hw)

/-- `STK_CFG`: a period of 250 µs and a catch of 20 µs (06 R123, R126). -/
theorem regReset_stkCfg : regReset .stk 0x100 = 250 + 20 * 2 ^ 16 := by decide

/-- `SVC_LEVEL`: SL0, nothing reduced (22 R473). -/
theorem regReset_svcLevel : regReset .dev 0x120 = 0 := by decide

/-- `BWP_CFG`, field by field from bit 0 (15 Table 15-17): port 47,040, a first timeout of 100 µs, 8 retries, jumbo frames, an acknowledgement
delay of 10 µs, a window of 256 frames. -/
theorem regReset_bwpCfg :
    regReset .bwp 0x100 = 47040 + 100 * 2 ^ 16 + 8 * 2 ^ 32 + 1 * 2 ^ 36 + 10 * 2 ^ 40 + 256 * 2 ^ 48 := by decide

theorem rdF_periodUs_reset : rdF State.reset R.STK_CFG_PERIOD_US = 250 :=
  rdF_reset (f := R.STK_CFG_PERIOD_US) (by decide) regReset_stkCfg

theorem rdF_catchUs_reset : rdF State.reset R.STK_CFG_CATCH_US = 20 :=
  rdF_reset (f := R.STK_CFG_CATCH_US) (by decide) regReset_stkCfg

theorem rdF_level_reset : rdF State.reset R.SVC_LEVEL_LEVEL = 0 :=
  rdF_reset (f := R.SVC_LEVEL_LEVEL) (by decide) regReset_svcLevel

theorem rdF_udpPort_reset : rdF State.reset R.BWP_CFG_UDP_PORT = 47040 :=
  rdF_reset (f := R.BWP_CFG_UDP_PORT) (by decide) regReset_bwpCfg

theorem rdF_cause_reset : rdF State.reset R.BOOT_CAUSE_CAUSE = 1 :=
  congrArg (bitsOf · R.BOOT_CAUSE_CAUSE.lo R.BOOT_CAUSE_CAUSE.wd) rdWord_bootCause_reset

/-! ### The state after reset -/

/-- Settles O6: the tables of what is loaded or lives, the phase, device time, the store's nodes and keys and what waits to leave stand in `State.reset` as
the spec gives them; the registers hold their reset words, and `BOOT_CAUSE` the power-on. -/
theorem resetState : Obligations.ResetState := by
  unfold Obligations.ResetState
  exact ⟨
    -- sessions, programs, expert sets, crews, courses, indexes, gather tables, text contexts
    rfl, rfl, rfl, rfl, rfl, rfl, rfl, rfl,
    -- the phase, device time, the store's nodes and keys
    rfl, rfl, rfl, rfl,
    rdF_periodUs_reset, rdF_catchUs_reset, rdF_cause_reset, rdF_level_reset, rdF_udpPort_reset,
    -- completions and events
    rfl, rfl⟩

end Sys2Proof.Machine
end

section
/-! PROOFS. The Mover (05): `MOVE` of a session and of a range takes an entry (05 R114), and what a page copied and a folded leaf accessed change (05 R90, R92,
R97, R105). -/

open Host
namespace Sys2Proof.Machine

/-! ### Taking an entry -/

/-- Taking a Mover entry changes no session. -/
@[simp] theorem takeOp_ses (s : State) (o : OpEnt) : (takeOp s o).2.ses = s.ses :=
  (takeOp_only s o).quiet.ses

/-! ### MOVE of a session -/

/-- A MOVE of a session is handed to its session's order, as the other session commands are. -/
theorem submit_moveSession {s : State} {c : Cmd} (data : List Byte) (h : Taken s c) (hk : c.f2 0 4 = 0) :
    submit s c data startMove = submit s c data startSes := by
  rw [submit_taken s c data startMove h, submit_taken s c data startSes h]
  exact if_pos hk

/-- A MOVE stops no park (03 R54). -/
theorem cancelsPark_of_move {c : Cmd} (x : Ses) (hop : c.opcode = 0x20) : cancelsPark x c = false := by
  simp [cancelsPark, hop]

/-- A MOVE whose charge and dirty pages fit takes its entry. -/
theorem admitTurn_move {s : State} {sid : Nat} {x : Ses} {w : Wait} (waited head : Nat) (hop : w.cmd.opcode = 0x20)
    (hfits : chargeFits s x.d.tenant (chargeOf s x w.cmd w.data) = none) (hdirty : commitHeld s x w.cmd = false) :
    admitTurn s sid x w waited head = goMove s sid x w := by
  simp [admitTurn, hop, hfits, hdirty]

/-- A MOVE of a session changes no session when it binds. -/
theorem goMove_ses (s : State) (sid : Nat) (x : Ses) (w : Wait) : (goMove s sid x w).ses = s.ses := takeOp_ses ..

/-- The row of a session MOVE that binds takes its entry, and nothing else waits in its session's order. -/
theorem submit_move_binds {s : State} {c : Cmd} {x : Ses} (h : Binds s c [] x) (hop : c.opcode = 0x20) (hk : c.f2 0 4 = 0) :
    submit s c [] startMove = goMove (joinQueue s c) (cmdSid c) x (waitOf s c []) := by
  have hstays := cancelsPark_of_move x hop
  have hfits := h.fits
  have hdirty := h.dirty
  rw [bindState_of_stays hstays, bindSes_of_stays hstays] at hfits hdirty
  have hempty : ∀ y, sesOf (goMove (joinQueue s c) (cmdSid c) x (waitOf s c [])) (cmdSid c) = some y → y.order = [] := by
    intro y hy
    rw [sesOf, goMove_ses, joinQueue_ses, ← sesOf, h.live] at hy
    cases hy
    exact h.first
  calc submit s c [] startMove
      = submit s c [] startSes := submit_moveSession [] h.taken hk
    _ = serveGo (cmdSid c) 31 (admitTurn (joinQueue s c) (cmdSid c) x (waitOf s c []) 0 (catchStroke (joinQueue s c))) := by
        rw [submit_binds h (by simp [revivesMoving, hop]), bindState_of_stays hstays, bindSes_of_stays hstays]
    _ = serveGo (cmdSid c) 31 (goMove (joinQueue s c) (cmdSid c) x (waitOf s c [])) := by
        rw [admitTurn_move (w := waitOf s c []) _ _ hop hfits hdirty]
    _ = goMove (joinQueue s c) (cmdSid c) x (waitOf s c []) := serveGo_of_empty _ _ _ hempty

/-! ### MOVE of a range -/

/-- The page table entries that a MOVE of a range names (05 R114). -/
def rangePtes (s : State) (c : Cmd) : Map Pte :=
  s.tier.ptes.filter (fun e => c.w3.toNat / 65536 ≤ e.1 && decide (e.1 < c.w3.toNat / 65536 + c.f2 32 32))

/-- The tenant that a MOVE of a range counts for: the one of the range's first page. -/
def rangeTenant (s : State) (c : Cmd) : Nat := match (rangePtes s c).head? with | some e => e.2.tenant | none => 0xFFF

/-- The Mover entry of a MOVE of a range (05 R114). -/
def rangeMove (s : State) (c : Cmd) : OpEnt :=
  { kind := 8, cls := 2, src := 0, dst := 0, tenant := rangeTenant s c, object := c.w3.toNat, isSes := false, start := 0
    lanes := c.f2 16 10, place := c.f2 4 1 = 1, cmd := some c, range := c.f2 32 32
    todo := ((rangePtes s c).filter (fun e => e.2.h && !bitOf (c.f2 16 10) (frameLane e.2.hFrame))).map (·.1) }

/-- A MOVE of a range that passes the checks of 05 R114 takes its entry. -/
theorem startMoveRange_takes {s : State} {c : Cmd} (hsas : sasOk c.w3.toNat = true) (hlanes : c.f2 16 10 ≠ 0)
    (hpages : ∀ e ∈ rangePtes s c, e.2.cls ≠ 4 ∧ e.2.cls ≠ 6 ∧ domTenant s c.dom e.2.tenant = true ∧ e.2.pinH = false)
    (hroom : opRoom s 2 (rangeTenant s c) = true) : startMoveRange c s = (takeOp s (rangeMove s c)).2 := by
  have hallowed : ¬ (c.f2 16 10 = 0 || (rangePtes s c).any (fun e => e.2.cls = 4 || e.2.cls = 6 || !domTenant s c.dom e.2.tenant)) = true := by
    simp only [Bool.or_eq_true, decide_eq_true_eq, List.any_eq_true, not_or, not_exists, not_and]
    refine ⟨hlanes, fun e he => ?_⟩
    obtain ⟨h4, h6, hten, -⟩ := hpages e he
    simp [h4, h6, hten]
  have hunpinned : ¬ (rangePtes s c).any (fun e => e.2.pinH && e.2.lanes != 0 && (c.f2 16 10 &&& (1023 - e.2.lanes)) != 0) = true := by
    simp only [List.any_eq_true, not_exists, not_and]
    intro e he
    obtain ⟨-, -, -, hpin⟩ := hpages e he
    simp [hpin]
  have hfree : ¬ (!opRoom s 2 (rangeTenant s c)) = true := by simp [hroom]
  -- the checks in the order of `startMoveRange`: address, denial, pins, room
  exact (if_neg (by simp [hsas])).trans ((if_neg hallowed).trans ((if_neg hunpinned).trans (if_neg hfree)))

/-- The row of a range MOVE that passes the checks takes its entry. -/
theorem submit_moveRange {s : State} {c : Cmd} (h : Taken s c) (hk : c.f2 0 4 ≠ 0) :
    submit s c [] startMove = startMoveRange c (joinQueue s c) := by
  rw [submit_taken s c [] startMove h]
  exact if_neg hk

/-- Settles O19: either MOVE takes the entry that is next, which lists the pages that stand outside the named lanes. -/
theorem moveTaken : Obligations.MoveTaken := by
  unfold Obligations.MoveTaken
  constructor
  · intro s c x h hop hk
    exact ⟨_, _, congrArg Outcome.next (submit_move_binds h hop hk), takeOp_ses .., opOf_takeOp .., rfl, rfl, rfl, rfl⟩
  · intro s c h hk j ps tenant hsas hlanes hpages hroom
    have htakes : submit s c [] startMove = (takeOp j (rangeMove j c)).2 :=
      (submit_moveRange h hk).trans (startMoveRange_takes hsas hlanes hpages hroom)
    exact ⟨_, _, congrArg Outcome.next htakes, takeOp_ses .., opOf_takeOp .., rfl, rfl, rfl, rfl, rfl⟩

/-! ### A page copied -/

/-- A page that an entry does not copy changes nothing, and one in a frame that a leg owns waits (07 R147). -/
theorem pageCopied_waits {s : State} {id p : Nat} {o : OpEnt} (r : CopyEnd) (ho : opOf s id = some o)
    (h : p ∉ o.flying ∨ pageOwned s p = true) : pageCopied s id p r = s := by
  have hwaits : (!o.flying.contains p || lazyPage s p || pageOwned s p) = true := by
    rcases h with h | h <;> simp [h]
  simp only [pageCopied, ho, hwaits, if_true]

/-- A page that an entry copies and could read is counted in the entry and staged to land at the finish (05 R92, R97). -/
theorem pageCopied_done {s : State} {id p ver : Nat} {cells : Map Byte} {o : OpEnt} (ho : opOf s id = some o) (hfly : p ∈ o.flying)
    (hlazy : lazyPage s p = false) (hown : pageOwned s p = false) (hcopy : copyCells s o p = some (ver, cells)) (hkind : o.kind ≠ 0xE) :
    pageCopied s id p .done = stage (setOp s id (opStep o p ver)) (.landed id p 0 ver cells) := by
  have hgoes : (!o.flying.contains p || lazyPage s p || pageOwned s p) = false := by simp [hfly, hlazy, hown]
  simp only [pageCopied, ho, hgoes]
  simp [hcopy, hkind]

/-! ### A folded leaf -/

/-- The first page of a leaf lies in that leaf, so an access to it takes the leaf off the list of the folded ones. -/
theorem unfolded_leafStart (folded : List Nat) (leaf : Nat) : unfolded folded (leaf * 256) = folded.filter (· != leaf) := by
  simp [unfolded]

/-- Settles O58: a copy either waits, or is counted and staged; an access to a folded leaf takes it off the list. -/
theorem moverCopies : Obligations.MoverCopies := by
  unfold Obligations.MoverCopies
  constructor
  · intro s id p o ho
    refine ⟨fun hfly r => ?_, fun hown r => ?_, fun ver cells hfly hlazy hown hcopy hkind => ?_⟩
    · exact congrArg Outcome.next (pageCopied_waits r ho (.inl hfly))
    · exact congrArg Outcome.next (pageCopied_waits r ho (.inr hown))
    · exact congrArg Outcome.next (pageCopied_done ho hfly hlazy hown hcopy hkind)
  · intro s leaf
    show execLeafUnfold leaf s = _
    rw [execLeafUnfold, unfolded_leafStart]

end Sys2Proof.Machine
end

section
/-! PROOFS. What runs in a drive: blades and their legs (07 R143 to R147), lane buses (08 R177), Combine groups (09 R215), refresh and Control-die slots (08 R169 to
R173), and the coarse page index (10 R221). -/

open Host
namespace Sys2Proof.Machine

/-! ### A blade without a leg -/

/-- A blade that no granted leg counts pulls nothing. -/
theorem bladePull_of_noLeg {s : State} {g : Nat} (flips : List (Nat × Byte)) (parity : Bool) (h : legFor s g = none) :
    bladePull s g flips parity = s := by
  simp only [bladePull, h]

/-- A blade that no granted leg counts has no leg to end. -/
theorem legEnd_of_noLeg {s : State} {g : Nat} (h : legFor s g = none) : legEnd s g = s := by
  simp only [legEnd, h]

/-! ### A blade that runs a leg -/

/-- What BLADE_PULL does on a blade that has gone on to its next pull, in a list of `n` entries (07 R146, R154, R159). -/
def pullAt (k g : Nat) (p : Plan) (l : GLeg) (n : Nat) (flips : List (Nat × Byte)) (parity : Bool) (u : State) : State :=
  let i := (runOf u g).at_
  let e := storedEnt u p l.leg g i
  if n ≤ i then updRun u g (fun r => { r with stalled := false })
  else if !pullReady u k g p l n i e then idleSlot (updRun u g (fun r => { r with stalled := true })) (bankOf g)
  else
    let c := maxOf ((passSlots e).map (fun q => entStreams e (slotFmt u g q)))
    runToPull k g p l n n (runPull (refreshSlot (updRun u g (fun r => { r with stalled := false })) l g c) k g n i p l e flips parity)

/-- The blade is idle, and its leg no longer counts it. -/
def leaveLeg (k g : Nat) (u : State) : State :=
  updLeg (updRun u g (fun r => { r with leg := none, at_ := 0, words := [], pairs := [], stalled := false, kbase := 0, sblk := 0 })) k
    (fun l => { l with openBlades := setDel l.openBlades g })

/-- What LEG_END does on a blade that has gone on to its next pull, in a list of `n` entries; `s` is the state before (07 R147). -/
def legEndAt (s : State) (k g n : Nat) (u : State) : State :=
  if n ≤ (runOf u g).at_ then reduceFigures (closeTags (idleSlot (leaveLeg k g u) (bankOf g)) k (bladeLane g)) (bladeLane g) else s

section
variable {s : State} {k g : Nat} {l : GLeg} {p : Plan} (hfor : legFor s g = some k) (hleg : legOf (takeLeg s k g) k = some l)
  (hplan : legPlan (takeLeg s k g) l = some p)
include hfor hleg hplan

/-- BLADE_PULL takes up the blade's leg, goes on to the next pull, and pulls there. -/
theorem bladePull_of_leg (flips : List (Nat × Byte)) (parity : Bool) :
    let n := (legEntries (takeLeg s k g) k g).length
    bladePull s g flips parity = pullAt k g p l n flips parity (runToPull k g p l n n (takeLeg s k g)) := by
  have htake : (if (runOf s g).leg = some k then s else beginLeg s g k) = takeLeg s k g := rfl
  simp only [bladePull, pullAt, hfor, htake, hleg, hplan]

/-- LEG_END takes up the blade's leg, goes on to the next pull, and ends there. -/
theorem legEnd_of_leg :
    let n := (legEntries (takeLeg s k g) k g).length
    legEnd s g = legEndAt s k g n (runToPull k g p l n n (takeLeg s k g)) := by
  simp only [legEnd, legEndAt, leaveLeg, hfor, hleg, hplan, ← Nat.not_lt, ite_not]

end

section
variable {k g n : Nat} {p : Plan} {l : GLeg} {u : State} (flips : List (Nat × Byte)) (parity : Bool)

theorem pullAt_end (h : n ≤ (runOf u g).at_) :
    pullAt k g p l n flips parity u = updRun u g (fun r => { r with stalled := false }) := if_pos h

theorem pullAt_stalls (hi : (runOf u g).at_ < n)
    (h : pullReady u k g p l n (runOf u g).at_ (storedEnt u p l.leg g (runOf u g).at_) = false) :
    pullAt k g p l n flips parity u = idleSlot (updRun u g (fun r => { r with stalled := true })) (bankOf g) :=
  (if_neg (Nat.not_le.mpr hi)).trans (if_pos (by simp [h]))

theorem pullAt_pulls (hi : (runOf u g).at_ < n)
    (h : pullReady u k g p l n (runOf u g).at_ (storedEnt u p l.leg g (runOf u g).at_) = true) :
    let i := (runOf u g).at_
    let e := storedEnt u p l.leg g i
    let c := maxOf ((passSlots e).map (fun q => entStreams e (slotFmt u g q)))
    pullAt k g p l n flips parity u = runToPull k g p l n n
      (runPull (refreshSlot (updRun u g (fun r => { r with stalled := false })) l g c) k g n i p l e flips parity) :=
  (if_neg (Nat.not_le.mpr hi)).trans (if_neg (by simp [h]))

end

/-! ### The lane bus, in the order of 08 R177 -/

theorem busTransfer_sched {s : State} {pc k : Nat} {x : SchedEnt} (parity : Bool) (h : nextSched s pc = some (k, x)) :
    busTransfer s pc parity = doSched s pc k x parity := by
  simp only [busTransfer, h]

theorem busTransfer_ship {s : State} {pc g : Nat} {x : Ship} {xs : List Ship} (parity : Bool) (hsched : nextSched s pc = none)
    (hship : nextShip s pc = some (g, x, xs)) : busTransfer s pc parity = doShip s pc g x xs parity := by
  simp only [busTransfer, hsched, hship]

theorem busTransfer_switch {s : State} {pc : Nat} {w : Switch} (parity : Bool) (hsched : nextSched s pc = none) (hship : nextShip s pc = none)
    (hw : mapGet s.crw.switches (pc / 64) = some w) (hwhole : pc ∈ w.whole) (hfailed : pc ∉ w.failed) (hmoved : movedOf w pc < 128) :
    busTransfer s pc parity = doSwitchBus s pc w parity := by
  have hgoes : (w.whole.contains pc && !w.failed.contains pc && decide (movedOf w pc < 128)) = true := by simp [hwhole, hfailed, hmoved]
  simp only [busTransfer, hsched, hship, hw, hgoes, if_true]

/-! ### Combine groups (09 R215) -/

/-- A group after the end of its next instruction `i`: the program goes on, or the group is done, and the instruction's time is counted. -/
def insEnded (s : State) (k g : Nat) (l : GLeg) (i : CmbIns) : State :=
  let at_ := (mapGet l.cmbPc g).getD 0
  let ran := cmbRun s k l g at_ i
  { updLeg ran k (fun m => { m with
      cmbPc := mapSet m.cmbPc g (at_ + 1)
      openGroups := if at_ + 1 < (cmbProg s l g).length then m.openGroups else setDel m.openGroups g }) with
    bld := { ran.bld with cmbNs := mapSet ran.bld.cmbNs g ((mapGet ran.bld.cmbNs g).getD 0 + ceilDiv (10638 * cmbClocks i (groupEngines s g)) 10000) } }

/-- The fault of a group's engine, if there is one, poisons the leg and is noted (21 Table 21-2 class 8). -/
def engineFault (k g : Nat) (t : State) : Option Nat → State
  | none => t
  | some e => noteErr (recordErr (cntI (poisonLeg t k none) R.CMBG_POISON_LEGS g 1) .cmbg g (e % 8) E_CMB_CHECK)
      { cls := 8, unit := unitId 7 (g * 8 + e % 8), code := E_CMB_CHECK }

/-- What COMBINE_INSTRUCTION does at a group's next instruction `i`: it waits for the results that the instruction names, or the instruction ends. -/
def combineAt (s : State) (k g : Nat) (l : GLeg) (fault : Option Nat) (i : CmbIns) : State :=
  if l.stopped || !l.openGroups.contains g || !(Config.namedDtag i.op i.src i.dst).all (resultsHere s k l g) then s
  else engineFault k g (insEnded s k g l i) fault

theorem combineStep_of_ins {s : State} {k g : Nat} {l : GLeg} {i : CmbIns} (fault : Option Nat) (hleg : legOf s k = some l)
    (hins : (cmbProg s l g)[(mapGet l.cmbPc g).getD 0]? = some i) : combineStep s k g fault = combineAt s k g l fault i := by
  simp only [combineStep, combineAt, hleg, hins]
  cases Config.namedDtag i.op i.src i.dst <;> cases fault <;> rfl

theorem combineStep_ends {s : State} {k g : Nat} {l : GLeg} {i : CmbIns} (fault : Option Nat) (hleg : legOf s k = some l)
    (hins : (cmbProg s l g)[(mapGet l.cmbPc g).getD 0]? = some i) (hruns : l.stopped = false) (hopen : g ∈ l.openGroups)
    (hhere : ∀ d, Config.namedDtag i.op i.src i.dst = some d → resultsHere s k l g d = true) :
    combineStep s k g fault = engineFault k g (insEnded s k g l i) fault := by
  have hnamed : (Config.namedDtag i.op i.src i.dst).all (resultsHere s k l g) = true := by
    cases hd : Config.namedDtag i.op i.src i.dst with
    | none => rfl
    | some d => exact hhere d hd
  rw [combineStep_of_ins fault hleg hins, combineAt, if_neg (by simp [hruns, hopen, hnamed])]

/-! ### Refresh (08 R170, R171) -/

/-- The blade clock comes to the bank's next due point (assumption 107). -/
def dueState (s : State) (lane bank : Nat) : State :=
  let b := lane * 4096 + bank
  let due := nextDue bank (mapGet s.bld.lastDue b)
  { s with bld := { s.bld with clock := max s.bld.clock due, lastDue := mapSet s.bld.lastDue b due } }

/-- In self-refresh nothing is owed. -/
theorem refreshDue_selfRefresh {s : State} (lane bank : Nat) (h : s.lnk.selfRefresh = true) :
    refreshDue s lane bank = dueState s lane bank := if_pos h

theorem refreshDue_owes {s : State} (lane bank : Nat) (h : s.lnk.selfRefresh = false) :
    let b := lane * 4096 + bank
    let v := setOwed (dueState s lane bank) b (min 8 (owedOf s b + 1))
    refreshDue s lane bank =
      if bankIdle v b then idleSlot v b else forceSlot (forceSlot v (lane * 8192 + 2 * bank)) (lane * 8192 + 2 * bank + 1) :=
  if_neg (by simp [h])

/-! ### Control-die slots (07 R147, 08 R169, R173) -/

section
variable {s : State} {g row : Nat} (wr : Option (List Byte)) (flips : List (Nat × Byte))

theorem controlSlot_owned (h : frameOwned s (frameOf g (row / 64)) = true) : controlSlot s g row wr flips = s := if_pos h

theorem controlSlot_deferred (hfree : frameOwned s (frameOf g (row / 64)) = false) (hbusy : bladeIdle s g = false)
    (hfull : 1099 < slotCharge s g + 141 + 280) :
    controlSlot s g row wr flips = cntI s R.PCH_CSLOT_DEFERRED (bladePc g) 1 :=
  (if_neg (by simp [hfree])).trans (if_pos (by simp [hbusy, hfull]))

theorem controlSlot_writes (bs : List Byte) (hfree : frameOwned s (frameOf g (row / 64)) = false)
    (hroom : bladeIdle s g = true ∨ slotCharge s g + 141 + 280 ≤ 1099) :
    let u := chargeSlot (if bladeIdle s g then s else cntI s R.PCH_CSLOT_GRANTED (bladePc g) 1) 141 g
    controlSlot s g row (some bs) flips =
      touchFrame (writeFrame u (frameOf g (row / 64)) (row % 64 * 1024) (bs.take 1024)) (frameOf g (row / 64)) := by
  have hgoes : (!bladeIdle s g && decide (1099 < slotCharge s g + 141 + 280)) = false := by
    rcases hroom with h | h <;> simp [h]
  exact (if_neg (by simp [hfree])).trans (if_neg (by simp [hgoes]))

end

/-! ### The coarse page index (10 R221) -/

/-- The entry of a full span is built where its page can be read, no leg owns the page's frame, and the index pages fit. -/
theorem indexBuild_builds {s u : State} {sid sp layer : Nat} {x : Ses} {p : Plan} {e : PlEnt} {d : List Byte} (hses : sesOf s sid = some x)
    (hplan : sesPlan s x = some p) (hpage : mapGet x.pl (x.plKey sp layer) = some e) (hnew : unsummarised x sp layer = true)
    (hfree : ∀ q, pteOf s e.page = some q → q.h = true → frameOwned s q.hFrame = false) (hread : readPage s e.page 0 65536 = some d)
    (hplace : placeIndex s x.d.tenant (freshIndex s x p.hdr (sp + 1)) = some u) (hfits : dirtyFits u 2 = true) :
    indexBuild s sid sp layer = cnt (putEntry (setSes u sid { x with index := mapSet x.index (x.plKey sp layer) (summaryOf p.hdr d) })
      x p.hdr (x.plKey sp layer) (summaryOf p.hdr d)) R.CMB_LC_IDX_BUILT 1 := by
  have hunowned : (pteOf s e.page).any (fun q => q.h && frameOwned s q.hFrame) = false := by
    cases hq : pteOf s e.page with
    | none => rfl
    | some q => simpa using hfree q hq
  simp only [indexBuild, hses, hplan, hpage, hnew, hunowned, hread, hplace, hfits]
  rfl

/-! ### The obligation -/

section
variable {s : State}

theorem exec_bladePull {g : Nat} (flips : List (Nat × Byte)) (parity : Bool) (h : g < 81920) :
    exec (.bladePull g flips parity) s = .next (bladePull s g flips parity) := if_neg (Nat.not_le.mpr h)

theorem exec_legEnd {g : Nat} (h : g < 81920) : exec (.legEnd g) s = .next (legEnd s g) := if_neg (Nat.not_le.mpr h)

theorem exec_laneBusTransfer {pc : Nat} (parity : Bool) (h : pc < 640) :
    exec (.laneBusTransfer pc parity) s = .next (busTransfer s pc parity) := if_neg (Nat.not_le.mpr h)

theorem exec_combineInstruction {g : Nat} (k : Nat) (fault : Option Nat) (h : g < 16) :
    exec (.combineInstruction k g fault) s = .next (combineStep s k g fault) := if_neg (Nat.not_le.mpr h)

theorem exec_refreshDue {lane bank : Nat} (hl : lane < 10) (hb : bank < 4096) :
    exec (.refreshDue lane bank) s = .next (refreshDue s lane bank) := if_neg (by omega)

theorem exec_controlDieSlot {g row : Nat} (wr : Option (List Byte)) (flips : List (Nat × Byte)) (hg : g < 81920) (hr : row < 8192) :
    exec (.controlDieSlot g row wr flips) s = .next (controlSlot s g row wr flips) := if_neg (by omega)

end

/-- Settles O57: one case for each of its clauses, closed by the lemma of that row above. That the blade clock comes to the due point, and how slots are charged to its
windows, is the model's reading (assumptions 54 and 107). -/
theorem driveWork : Obligations.DriveWork := by
  unfold Obligations.DriveWork
  intro s
  refine ⟨?noLeg, ?blade, ?sched, ?ship, ?switch, ?combine, ?refresh, ?control, ?index⟩
  case noLeg =>
    intro g flips parity hg hfor
    rw [exec_bladePull _ _ hg, exec_legEnd hg, bladePull_of_noLeg _ _ hfor, legEnd_of_noLeg hfor]
    exact ⟨rfl, rfl⟩
  case blade =>
    intro g flips parity k l p hg hfor hleg hplan n u i e
    rw [exec_bladePull _ _ hg, exec_legEnd hg, bladePull_of_leg hfor hleg hplan, legEnd_of_leg hfor hleg hplan]
    refine ⟨fun hi h => ?_, fun hi h => ?_, fun hi => ?_, fun hi => ?_, fun hi => ⟨_, rfl, ?_⟩⟩
    · exact congrArg Outcome.next (pullAt_pulls flips parity hi h)
    · exact congrArg Outcome.next (pullAt_stalls flips parity hi h)
    · exact congrArg Outcome.next (pullAt_end flips parity hi)
    · exact congrArg Outcome.next (if_neg (Nat.not_le.mpr hi))
    · exact congrArg Outcome.next (if_pos hi)
  case sched =>
    intro pc parity k x hpc h
    rw [exec_laneBusTransfer _ hpc, busTransfer_sched _ h]
  case ship =>
    intro pc parity g x xs hpc hsched h
    rw [exec_laneBusTransfer _ hpc, busTransfer_ship _ hsched h]
  case switch =>
    intro pc parity w hpc hsched hship hw hwhole hfailed hmoved
    rw [exec_laneBusTransfer _ hpc, busTransfer_switch _ hsched hship hw hwhole hfailed hmoved]
  case combine =>
    intro k g l i fault hg hleg hins hruns hopen hhere
    exact (exec_combineInstruction k fault hg).trans (congrArg Outcome.next (combineStep_ends fault hleg hins hruns hopen hhere))
  case refresh =>
    intro lane bank hl hb
    rw [exec_refreshDue hl hb]
    exact ⟨fun h => congrArg Outcome.next (refreshDue_selfRefresh lane bank h), fun h => congrArg Outcome.next (refreshDue_owes lane bank h)⟩
  case control =>
    intro g row wr flips hg hr
    rw [exec_controlDieSlot wr flips hg hr]
    refine ⟨fun h => ?_, fun hfree hbusy hfull => ?_, fun bs hfree hwr hroom => ?_⟩
    · exact congrArg Outcome.next (controlSlot_owned wr flips h)
    · exact congrArg Outcome.next (controlSlot_deferred wr flips hfree hbusy hfull)
    · subst hwr
      exact congrArg Outcome.next (controlSlot_writes flips bs hfree hroom)
  case index =>
    intro sid x p e sp layer d u hses hplan hpage hnew hfree hread hplace hfits
    exact congrArg Outcome.next (indexBuild_builds hses hplan hpage hnew hfree hread hplace hfits)

end Sys2Proof.Machine
end

section
/-! PROOFS. The governor's events of a lane (08 R183 to R188, Table 08-3). -/

open Host
namespace Sys2Proof.Machine

/-! ### Sets of numbers, and what a step that writes registers alone keeps -/

theorem mem_setAdd_self (m : List Nat) (i : Nat) : i ∈ setAdd m i := by
  induction m with
  | nil => exact List.mem_singleton.mpr rfl
  | cons k m ih =>
    rcases Nat.lt_trichotomy i k with h | h | h
    · rw [setAdd, if_neg (Nat.ne_of_lt h), if_pos h]
      exact List.mem_cons_self
    · rw [setAdd, if_pos h, h]
      exact List.mem_cons_self
    · rw [setAdd, if_neg (Nat.ne_of_gt h), if_neg (Nat.lt_asymm h)]
      exact List.mem_cons_of_mem _ ih

theorem notMem_setDel_self (m : List Nat) (i : Nat) : i ∉ setDel m i := by
  simp only [setDel, List.mem_filter, bne_self_eq_false, Bool.false_eq_true, and_false, not_false_eq_true]

theorem RegOnly.gov {s t : State} (h : RegOnly s t) : t.gov = s.gov := by rw [h]

/-! ### The slow loop (08 R183) -/

/-- A turn of the slow loop that reads `predict` and leaves `adapt` at `a`. -/
def slowTurn (s : State) (k predict a : Nat) : State :=
  wrI (wrI (slowRestart s k) R.LANE_TEMP_PREDICT k (min predict 255)) R.LANE_ADAPT_CAP k a

/-- Outside `FLOATING`, and before 64 strokes are over, the slow loop has no turn. -/
theorem slowLoop_waits {s : State} {k : Nat} (predict : Nat)
    (h : rdI s R.LANE_GOV_MODE k ≠ 0 ∨ s.stk.number < (mapGet s.gov.slowAt k).getD 0 + 64) : slowLoop s k predict = s := if_pos h

section
variable {s : State} {k predict : Nat} (hmode : rdI s R.LANE_GOV_MODE k = 0) (hdue : (mapGet s.gov.slowAt k).getD 0 + 64 ≤ s.stk.number)
include hmode hdue

/-- A turn moves `adapt` by where the prediction stands against the target. -/
theorem slowLoop_turn :
    let target := max 70 (min 90 (rdI s R.LANE_GOV_TARGET_C k))
    slowLoop s k predict = slowTurn s k predict
      (if target < predict then max 160 (adaptOf s k - 10)
        else if predict + 3 < target then min (capProg s k) (adaptOf s k + 10) else adaptOf s k) :=
  if_neg (by omega)

theorem slowLoop_falls (h : max 70 (min 90 (rdI s R.LANE_GOV_TARGET_C k)) < predict) :
    slowLoop s k predict = slowTurn s k predict (max 160 (adaptOf s k - 10)) :=
  (slowLoop_turn hmode hdue).trans (congrArg (slowTurn s k predict) (if_pos h))

theorem slowLoop_rises (h : predict + 3 < max 70 (min 90 (rdI s R.LANE_GOV_TARGET_C k))) :
    slowLoop s k predict = slowTurn s k predict (min (capProg s k) (adaptOf s k + 10)) :=
  (slowLoop_turn hmode hdue).trans (congrArg (slowTurn s k predict) ((if_neg (by omega)).trans (if_pos h)))

theorem slowLoop_holds (hle : predict ≤ max 70 (min 90 (rdI s R.LANE_GOV_TARGET_C k)))
    (hge : max 70 (min 90 (rdI s R.LANE_GOV_TARGET_C k)) ≤ predict + 3) : slowLoop s k predict = slowTurn s k predict (adaptOf s k) :=
  (slowLoop_turn hmode hdue).trans (congrArg (slowTurn s k predict) ((if_neg (by omega)).trans (if_neg (by omega))))

end

/-! ### `hot` (08 R182, R190) -/

theorem seeTemp_only (s : State) (k die temp : Nat) : RegOnly s (seeTemp s k die temp) :=
  (wrI_only _ _ _ _).trans (wrI_only _ _ _ _)

theorem setHot_only (s : State) (k : Nat) : RegOnly s (setHot s k) := by
  unfold setHot
  split
  · exact RegOnly.refl s
  · exact (wrI_only _ _ _ _).trans (raiseBit_only _ _ _ _ _)

theorem hotSet_short {s : State} {k temp : Nat} (die : Nat) (h : temp < rdI s R.LANE_THERM_LIMIT_C k) : hotSet s k die temp = s := if_pos h

theorem hotSet_reached {s : State} {k temp : Nat} (die : Nat) (h : rdI s R.LANE_THERM_LIMIT_C k ≤ temp) :
    hotSet s k die temp = setHot (seeTemp s k die temp) k := if_neg (Nat.not_lt.mpr h)

/-- A lane that is hot no more is out of its trip (08 Table 08-3). -/
def endTrip (s : State) (k : Nat) : State :=
  let t := { s with gov := { s.gov with trips := setDel s.gov.trips k } }
  { t with gov := { t.gov with alarm := t.gov.alarm && (List.range 10).any (laneHot t) } }

theorem endTrip_ses (s : State) (k : Nat) : (endTrip s k).ses = s.ses := rfl
theorem endTrip_stk (s : State) (k : Nat) : (endTrip s k).stk = s.stk := rfl
theorem endTrip_trips (s : State) (k : Nat) : (endTrip s k).gov.trips = setDel s.gov.trips k := rfl

theorem hotClear_below {s : State} {k temp : Nat} (h : temp < rdI s R.LANE_THERM_CLEAR_C k) :
    hotClear s k temp = endTrip (wrI (wrI s R.LANE_TEMP_CORE_MAX k temp) R.LANE_GOV_STATUS_HOT k 0) k := if_neg (Nat.not_le.mpr h)

/-! ### The trip (08 Table 08-3 row 1) -/

/-- The limits that bind a lane now are noted as those that did last. -/
def noteLimits (s : State) (k : Nat) : State :=
  { s with gov := { s.gov with limits :=
    if (limitsOf s k).isEmpty then mapErase s.gov.limits k else mapSet s.gov.limits k (limitsOf s k) } }

/-- Beside noting the limits of a lane, telling of them changes registers and sends events alone. -/
theorem overrides_only (s : State) (k : Nat) : RegOnly (noteLimits s k) (overrides s k) := by
  show RegOnly (noteLimits s k) (if rdI (noteLimits s k) R.LANE_GOV_MODE k ≠ 1 then noteLimits s k else List.foldl _ (noteLimits s k) _)
  split
  · exact RegOnly.refl _
  · exact RegOnly.foldl _ _ _ fun _ _ => (cntI_only _ _ _ _).trans (raiseBit_only _ _ _ _ _)

/-- A lane's trip: its legs stop at their next pull boundary, and those that stop name it. -/
def tripLane (s : State) (k : Nat) : State :=
  let t := stopLegs { s with gov := { s.gov with trips := setAdd s.gov.trips k, alarm := true } } (· == k)
  { t with stk := { t.stk with granted := mapAll t.stk.granted (fun _ l =>
    if l.stopped && bitOf l.lanes k && l.trip.isNone then { l with trip := some k } else l) } }

theorem tripLane_ses (s : State) (k : Nat) : (tripLane s k).ses = s.ses := rfl

theorem tripLane_gov (s : State) (k : Nat) : (tripLane s k).gov = { s.gov with trips := setAdd s.gov.trips k, alarm := true } := rfl

/-- A lane that reaches its trip temperature, and is not tripped yet, trips and says so. -/
theorem tempTrip_trips {s : State} {k die temp : Nat} (h : rdI s R.LANE_THERM_TRIP_C k ≤ temp)
    (hfirst : laneTripped (setHot (seeTemp s k die temp) k) k = false) :
    let t := tripLane (setHot (seeTemp s k die temp) k) k
    tempTrip s k die temp = overrides (raiseBit t .lane k 3 (.tied EV_LANE_TRIP [tempWord t k])) k :=
  (if_neg (Nat.not_lt.mpr h)).trans (if_neg (ne_true_of_eq_false hfirst))

/-- Telling of a trip leaves the trip and the alarm set, and no session is changed. -/
theorem tripTold_keeps (t : State) (k : Nat) (whom : EvTo) :
    let u := overrides (raiseBit t .lane k 3 whom) k
    u.gov.trips = t.gov.trips ∧ u.gov.alarm = t.gov.alarm ∧ u.ses = t.ses := by
  have htold := raiseBit_only t .lane k 3 whom
  have hnoted := overrides_only (raiseBit t .lane k 3 whom) k
  refine ⟨?_, ?_, hnoted.quiet.ses.trans htold.quiet.ses⟩
  · rw [hnoted.gov, noteLimits, htold.gov]
  · rw [hnoted.gov, noteLimits, htold.gov]

/-! ### The obligation -/

section
variable {s : State} {k : Nat} (hk : k < 10)
include hk

theorem exec_slowThermalLoop (predict : Nat) : exec (.slowThermalLoop k predict) s = .next (slowLoop s k predict) := if_neg (Nat.not_le.mpr hk)

theorem exec_laneHotSet (die temp : Nat) : exec (.laneHotSet k die temp) s = .next (hotSet s k die temp) := if_neg (Nat.not_le.mpr hk)

theorem exec_laneHotClear (temp : Nat) : exec (.laneHotClear k temp) s = .next (hotClear s k temp) := if_neg (Nat.not_le.mpr hk)

theorem exec_laneTempTrip (die temp : Nat) : exec (.laneTempTrip k die temp) s = .next (tempTrip s k die temp) := if_neg (Nat.not_le.mpr hk)

/-- A hold whose strokes have run out ends (08 R185). -/
theorem exec_sprintHoldEnd_runOut (hsprint : rdI s R.LANE_GOV_MODE k = 1) (hout : rdI s R.LANE_GOV_STATUS_HOLD_LEFT k = 0) :
    exec (.sprintHoldEnd k) s = .next (holdEnd s k) :=
  (if_neg (Nat.not_le.mpr hk)).trans (congrArg Outcome.next (if_pos ⟨hsprint, hout⟩))

/-- A cold start whose strokes have run out ends (08 R188). -/
theorem exec_coldStartEnd_runOut (hcold : k ∈ s.gov.cold) (hout : rdI s R.LANE_COLD_LEFT k = 0) :
    exec (.coldStartEnd k) s =
      .next (raiseBit { s with gov := { s.gov with cold := setDel s.gov.cold k } } .lane k 6 (.tied EV_LANE_COLD_END [k])) :=
  (if_neg (Nat.not_le.mpr hk)).trans (congrArg Outcome.next (if_pos ⟨List.contains_iff_mem.mpr hcold, hout⟩))

end

/-- Settles O56: one case for each of its clauses, closed by the lemma of that row above. That `hot` is set by the row's reading and cleared below `CLEAR_C` is the model's
reading (assumption 62). -/
theorem governorEvents : Obligations.GovernorEvents := by
  unfold Obligations.GovernorEvents
  intro s k hk
  refine ⟨?waits, ?turn, ?short, ?hot, ?clear, ?trip, ?hold, exec_coldStartEnd_runOut hk⟩
  case waits =>
    intro t h
    rw [exec_slowThermalLoop hk, slowLoop_waits t h]
  case turn =>
    intro t hmode hdue target moved
    rw [exec_slowThermalLoop hk]
    refine ⟨fun h => ?_, fun h => ?_, fun hle hge => ?_⟩
    · exact congrArg Outcome.next (slowLoop_falls hmode hdue h)
    · exact congrArg Outcome.next (slowLoop_rises hmode hdue h)
    · exact congrArg Outcome.next (slowLoop_holds hmode hdue hle hge)
  case short =>
    intro die t h
    rw [exec_laneHotSet hk, hotSet_short die h]
  case hot =>
    intro die t h
    rw [exec_laneHotSet hk, hotSet_reached die h]
  case clear =>
    intro t h
    refine ⟨_, (exec_laneHotClear hk t).trans (congrArg Outcome.next (hotClear_below h)), ?_, ?_, ?_⟩
    · rw [endTrip_trips]
      exact notMem_setDel_self _ _
    · rw [endTrip_ses, wrI_ses, wrI_ses]
    · rw [endTrip_stk, wrI_stk, wrI_stk]
  case trip =>
    intro die t h hfirst
    obtain ⟨htrips, halarm, hses⟩ := tripTold_keeps (tripLane (setHot (seeTemp s k die t) k) k) k _
    refine ⟨_, (exec_laneTempTrip hk die t).trans (congrArg Outcome.next (tempTrip_trips h hfirst)), ?_, ?_, ?_⟩
    · rw [htrips, tripLane_gov]
      exact mem_setAdd_self _ _
    · rw [halarm, tripLane_gov]
    · rw [hses, tripLane_ses, (setHot_only _ k).quiet.ses, (seeTemp_only s k die t).quiet.ses]
  case hold => exact exec_sprintHoldEnd_runOut hk

end Sys2Proof.Machine
end

section
/-! PROOFS. PLAN_LOAD: the Mover entry of a load that begins (09 R195), for a model program and for an expert set of a tenant (09 R207). -/

open Host
namespace Sys2Proof.Machine

/-! ### What making room for weight pages changes -/

/-- `t` is `s` but for the tiers, the registers and what waits to leave the device. -/
def TierOnly (s t : State) : Prop := t = { s with tier := t.tier, reg := t.reg, out := t.out }

theorem TierOnly.refl (s : State) : TierOnly s s := rfl
theorem TierOnly.trans {s t u : State} (h : TierOnly s t) (k : TierOnly t u) : TierOnly s u := by
  unfold TierOnly at *; rw [k, h]
theorem RegOnly.tierOnly {s t : State} (h : RegOnly s t) : TierOnly s t := by
  unfold RegOnly TierOnly at *; rw [h]
theorem TierOnly.foldl {α : Type} (f : State → α → State) (hf : ∀ s x, TierOnly s (f s x)) (l : List α) (s : State) : TierOnly s (l.foldl f s) := by
  induction l generalizing s with
  | nil => exact TierOnly.refl s
  | cons x l ih => exact (hf s x).trans (ih _)

theorem TierOnly.prg {s t : State} (h : TierOnly s t) : t.prg = s.prg := by rw [h]
theorem TierOnly.ses {s t : State} (h : TierOnly s t) : t.ses = s.ses := by rw [h]

theorem setPte_tierOnly (s : State) (p : Nat) (e : Pte) : TierOnly s (setPte s p e) := rfl
theorem newPage_tierOnly (s : State) (p f tenant cls : Nat) (committed : Bool) : TierOnly s (newPage s p f tenant cls committed) := rfl
theorem setOp_tierOnly (s : State) (id : Nat) (o : OpEnt) : TierOnly s (setOp s id o) := rfl

theorem takeOp_tierOnly (s : State) (o : OpEnt) : TierOnly s (takeOp s o).2 :=
  (setOp_tierOnly _ _ _).trans (takeOp_only s o).tierOnly

theorem takeFrame_tierOnly (s : State) (p f : Nat) : TierOnly s (takeFrame s p f) := by
  unfold takeFrame
  split
  · exact setPte_tierOnly _ _ _
  · exact newPage_tierOnly _ _ _ _ _ _

theorem clearFrames_tierOnly (s : State) (fs : List Nat) : TierOnly s (clearFrames s fs) := by
  unfold clearFrames
  dsimp only
  split
  · exact TierOnly.refl s
  · exact takeOp_tierOnly _ _

/-! ### A load that begins -/

/-- The SAS pages that the weight pages of a load get. -/
def loadPages (s : State) (fs : List (Nat × Nat)) : List Nat := (List.range fs.length).map (sasRun s fs.length + ·)

/-- The state in which a load takes its entry: floating pages leave its frames, and its weight pages have them. -/
def loadPlaced (s : State) (fs : List (Nat × Nat)) : State :=
  ((loadPages s fs).zip fs).foldl (fun s e => takeFrame s e.1 e.2.1) (clearFrames s (fs.map (·.1)))

theorem loadPlaced_tierOnly (s : State) (fs : List (Nat × Nat)) : TierOnly s (loadPlaced s fs) :=
  (clearFrames_tierOnly _ _).trans (TierOnly.foldl _ (fun s (e : Nat × Nat × Nat) => takeFrame_tierOnly s e.1 e.2.1) _ _)

/-- The Mover entry that writes a load's weight pages (09 R195). -/
def loadEntry (s : State) (fs : List (Nat × Nat)) : OpEnt :=
  { kind := 0xD, cls := 2, src := 2, dst := 0, tenant := 0xFFF, object := sasRun s fs.length * 65536, isSes := false, start := 0, todo := loadPages s fs }

/-- The load in flight that begins: its plan has the pages and frames, and the pages whose frame is in use wait for it. -/
def loadOf (s : State) (c : Cmd) (p : Plan) (fs : List (Nat × Nat)) : PlanLoad :=
  { cmd := c
    plan := { p with pages := loadPages s fs, frames := fs.map (·.1) }
    offs := fs.map (·.2)
    todo := (((loadPages s fs).zip fs).filter (fun e => s.tier.hUsed.contains e.2.1)).map (·.1)
    op := opIndex (loadPlaced s fs) }

section
variable (s : State) (c : Cmd) (p : Plan) (fs : List (Nat × Nat))

theorem takeLoadEntry_tierOnly : TierOnly s (takeOp (loadPlaced s fs) (loadEntry s fs)).2 :=
  (loadPlaced_tierOnly s fs).trans (takeOp_tierOnly _ _)

/-- A load that begins joins the loads in flight, and what is installed stands. -/
theorem beginLoad_prg : (beginLoad s c p fs).prg = { s.prg with loads := s.prg.loads ++ [loadOf s c p fs] } :=
  congrArg (fun g : PrgState => { g with loads := g.loads ++ [loadOf s c p fs] }) (takeLoadEntry_tierOnly s fs).prg

theorem beginLoad_ses : (beginLoad s c p fs).ses = s.ses := (takeLoadEntry_tierOnly s fs).ses

theorem opOf_beginLoad :
    opOf (beginLoad s c p fs) (loadOf s c p fs).op = some { loadEntry s fs with start := catchStroke (loadPlaced s fs) } :=
  opOf_takeOp (loadPlaced s fs) (loadEntry s fs)

end

/-! ### The checks of a model program (09 R195, R196) -/

/-- The plan as a model program's load carries it: with its owner, its frames, and the figures the device derives. -/
def modelPlan (s : State) (c : Cmd) (p : Plan) (fs : List (Nat × Nat)) : Plan :=
  withFits s { p with owner := if isolated s then c.f5 0 12 else 0xFFF, frames := fs.map (·.1) }

/-- A model program that agrees with the installed version, whose frames may take weight pages and belong to its owner, that fits, and that finds a
Mover entry free is loaded. -/
theorem loadModel_begins {s : State} {c : Cmd} {p : Plan} {fs : List (Nat × Nat)}
    (hagrees : (mapGet s.prg.progs p.hdr.model).any (fun g => !compatible g.cur.hdr p.hdr) = false)
    (hframes : framesBad s (modelPlan s c p fs).frames = false)
    (howner : ownerBad s (if isolated s then c.f5 0 12 else 0xFFF) (modelPlan s c p fs).frames (planGroups (modelPlan s c p fs)) = false)
    (hfits : planFails s (modelPlan s c p fs) (fitCaseNow s) (modelPlan s c p fs).frames.length = none) (hroom : opRoom s 2 0xFFF = true) :
    loadModel s c p fs = beginLoad s c (modelPlan s c p fs) fs := by
  unfold modelPlan at *
  simp only [loadModel, hagrees, hframes, howner, hfits, hroom, errIf, firstErr, Bool.false_eq_true, if_false, if_true]

section
variable {s : State} {c : Cmd} {data : List Byte} {h : PlanHdr} {ss : List Sect}
  (hright : domPlanLoad s c.dom = true) (hqp : qpCheck s c.dom (c.f3 32 16) = none) (himage : planFrame data c.w4.toNat = .ok (h, ss))
  (hversions : versionsOf s h < 2)
include hright hqp himage hversions

/-- A PLAN_LOAD of a model program comes to the checks that need the state. -/
theorem startPlanLoad_model {p : Plan} {fs : List (Nat × Nat)} (hkind : h.kind ≠ 1) (hbody : planBody data h ss = .ok p)
    (hweights : weightPages data ss = some fs) : startPlanLoad c data s = loadModel s c p fs := by
  simp only [startPlanLoad, hright, hqp, himage, Nat.not_le.mpr hversions, hkind, hbody, hweights, Bool.not_true, Bool.false_eq_true, if_false]

/-- A PLAN_LOAD of an expert set with a header in range comes to the checks of 09 R207. -/
theorem startPlanLoad_set (hkind : h.kind = 1) (hranges : hdrOk data h = true) : startPlanLoad c data s = loadSet s c data h ss := by
  simp only [startPlanLoad, hright, hqp, himage, Nat.not_le.mpr hversions, hkind, hranges, Bool.not_true, Bool.false_eq_true, if_false, if_true]

end

/-! ### The checks of an expert set (09 R207) -/

/-- Where the weight pages of a set go from slot base `b` on: frame and image offset. -/
def setFrames (m : Plan) (fs : List (Nat × Nat)) (b : Nat) : List (Nat × Nat) :=
  ((privPagesOf m).zip fs).map (fun (q, f) => (frameOf q.1 (q.2 + b), f.2))

/-- The plan as an expert set's load carries it. -/
def setPlan (data : List Byte) (h : PlanHdr) (b : Nat) : Plan :=
  { hdr := h, rowBase := 64 * b, digest := data.drop (data.length - 32), image := data, owner := h.tenant }

theorem setFrames_frames (m : Plan) (fs : List (Nat × Nat)) (b : Nat) :
    (setFrames m fs b).map (·.1) = ((privPagesOf m).zip fs).map (fun e => frameOf e.1.1 (e.1.2 + b)) := List.map_map

/-- An expert set of weights alone, for the half-banks that its model keeps for such sets, that finds a slot base, belongs to its tenant, and finds a Mover
entry free is loaded from that base on. -/
theorem loadSet_begins {s : State} {c : Cmd} {data : List Byte} {h : PlanHdr} {ss : List Sect} {m : Plan} {fs : List (Nat × Nat)} {b : Nat}
    (hweights : weightPages data ss = some fs) (hmodel : planOf s h.model = some m) (htypes : ∀ x ∈ ss, x.ty = 1 ∨ x.ty = 2)
    (hhalves : fs.map (fun e => frameHb e.1) = (privPagesOf m).map (·.1)) (hbase : setBase s (privPagesOf m) = some b)
    (howner : ownerBad s h.tenant ((setFrames m fs b).map (·.1)) [] = false) (hroom : opRoom s 2 0xFFF = true) :
    loadSet s c data h ss = beginLoad s c (setPlan data h b) (setFrames m fs b) := by
  have hsections : ss.any (fun x => x.ty != 1 && x.ty != 2) = false := by
    refine List.any_eq_false.mpr (fun x hx => ?_)
    rcases htypes x hx with hty | hty
    · simp only [hty, bne_self_eq_false, Bool.false_and, Bool.false_eq_true, not_false_eq_true]
    · simp only [hty, bne_self_eq_false, Bool.and_false, Bool.false_eq_true, not_false_eq_true]
  simp only [loadSet, hweights, hmodel, hsections, hhalves, hbase, bne_self_eq_false, Bool.or_self, Bool.false_eq_true, if_false]
  exact (if_neg (ne_true_of_eq_false howner)).trans (if_pos hroom)

/-! ### The obligation -/

/-- Settles O23: either PLAN_LOAD comes through its checks to `beginLoad`. That a set takes the lowest slot base is the model's reading (assumption 55). -/
theorem planLoadBegins : Obligations.PlanLoadBegins := by
  unfold Obligations.PlanLoadBegins
  constructor
  · intro s c data h ss p fs htaken j hright hqp himage hversions hkind hbody hweights q hagrees hframes howner hfits hroom
    have hruns : submit s c data startPlanLoad = beginLoad j c (modelPlan j c p fs) fs := by
      rw [submit_taken s c data startPlanLoad htaken, startPlanLoad_model hright hqp himage hversions hkind hbody hweights,
        loadModel_begins (s := j) hagrees hframes howner hfits hroom]
    exact ⟨_, loadOf j c (modelPlan j c p fs) fs, _, congrArg Outcome.next hruns, congrArg PrgState.loads (beginLoad_prg ..), rfl, rfl, rfl, rfl,
      opOf_beginLoad .., rfl, rfl, congrArg (·.progs) (beginLoad_prg j c (modelPlan j c p fs) fs),
      beginLoad_ses ..⟩
  · intro s c data h ss m fs b htaken j frames hright hqp himage hversions hkind hranges hweights hmodel htypes hhalves hbase howner hroom
    have hframes : (setFrames m fs b).map (·.1) = frames := setFrames_frames m fs b
    have hruns : submit s c data startPlanLoad = beginLoad j c (setPlan data h b) (setFrames m fs b) := by
      rw [submit_taken s c data startPlanLoad htaken, startPlanLoad_set hright hqp himage hversions hkind hranges,
        loadSet_begins hweights hmodel htypes hhalves hbase (hframes ▸ howner) hroom]
    exact ⟨_, loadOf j c (setPlan data h b) (setFrames m fs b), _, congrArg Outcome.next hruns, congrArg PrgState.loads (beginLoad_prg ..), rfl, rfl, rfl,
      hframes, rfl, opOf_beginLoad .., rfl, rfl, congrArg (·.sets) (beginLoad_prg j c (setPlan data h b) (setFrames m fs b)),
      beginLoad_ses ..⟩

end Sys2Proof.Machine
end

section
/-! PROOFS. PLAN_UNLOAD and TABLE_UNLOAD (09 R197, 11 Table 11-10). -/

open Host
namespace Sys2Proof.Machine

/-! ### Programs and expert sets -/

section
variable {s : State} {c : Cmd} (hkind : c.f2 32 1 = 0) (hfree : modelNamed s (c.f2 0 32) = false)
include hkind hfree

/-- An unload of a program that nothing names takes effect. -/
theorem planUnloaded_model : planUnloaded s c = finishCmd (removeModel s (c.f2 0 32)) c E_OK := by
  simp only [planUnloaded, hkind, hfree, Bool.false_eq_true, if_false, if_true]

/-- A PLAN_UNLOAD of such a program takes effect at once before strokes begin, and is staged for the finish otherwise. -/
theorem startPlanUnload_model (hright : domPlanLoad s c.dom = true) (hknown : mapHas s.prg.progs (c.f2 0 32) = true) :
    startPlanUnload c [] s =
      if s.stk.phase = .idle then finishCmd (removeModel s (c.f2 0 32)) c E_OK else stage s (.planUnload c) := by
  simp only [startPlanUnload, hright, hkind, hknown, hfree, planUnloaded_model hkind hfree, Bool.not_true, Bool.false_eq_true, if_false, if_true]

end

section
variable {s : State} {c : Cmd} (hkind : c.f2 32 1 = 1)
include hkind

/-- An unload of a tenant's set whose sessions do not step takes effect. -/
theorem planUnloaded_set (hstill : stepping s (c.f2 0 32) (some (c.f2 52 12)) = false) :
    planUnloaded s c = finishCmd (removeSet s (setKey (c.f2 0 32) (c.f2 52 12))) c E_OK := by
  simp only [planUnloaded, hkind, hstill, Nat.one_ne_zero, Bool.false_eq_true, if_false]

variable (hright : domPlanLoad s c.dom = true) (hknown : mapHas s.prg.sets (setKey (c.f2 0 32) (c.f2 52 12)) = true)
include hright hknown

/-- A PLAN_UNLOAD of such a set takes effect at once before strokes begin, and is staged for the finish otherwise. -/
theorem startPlanUnload_set (hstill : stepping s (c.f2 0 32) (some (c.f2 52 12)) = false) :
    startPlanUnload c [] s =
      if s.stk.phase = .idle then finishCmd (removeSet s (setKey (c.f2 0 32) (c.f2 52 12))) c E_OK else stage s (.planUnload c) := by
  simp only [startPlanUnload, hright, hkind, hknown, hstill, planUnloaded_set hkind hstill, Nat.one_ne_zero, Bool.not_true, Bool.false_eq_true, if_false]

/-- A PLAN_UNLOAD of a set whose sessions step waits for them. -/
theorem startPlanUnload_waits (hsteps : stepping s (c.f2 0 32) (some (c.f2 52 12)) = true) :
    startPlanUnload c [] s = { s with prg := { s.prg with dropSets := s.prg.dropSets ++ [c] } } := by
  simp only [startPlanUnload, hright, hkind, hknown, hsteps, Nat.one_ne_zero, Bool.not_true, Bool.false_eq_true, if_false, if_true]

end

/-! ### Tables -/

/-- A vocabulary table's versions are gone, the earlier one too where states still use it. -/
def removeVocab (s : State) (key : Nat) (p : VocabProg) : State :=
  let u := freePages (freePages s p.cur.pages) (match p.old with | some o => o.pages | none => [])
  { u with txt := { u.txt with vocabs := mapErase u.txt.vocabs key } }

/-- A grammar table's versions are gone. -/
def removeGrm (s : State) (key : Nat) (p : GrmProg) : State :=
  let u := freePages (freePages s p.cur.pages) (match p.old with | some o => o.pages | none => [])
  { u with txt := { u.txt with grms := mapErase u.txt.grms key } }

section
variable {s : State} {c : Cmd} (hfree : tableInUse s c = false)
include hfree

/-- An unload of a vocabulary table that nothing uses takes effect. -/
theorem tableUnloaded_vocab {p : VocabProg} (hkind : c.f2 32 1 = 0) (htable : mapGet s.txt.vocabs (c.f2 0 32) = some p) :
    tableUnloaded s c = finishCmd (removeVocab s (c.f2 0 32) p) c E_OK := by
  simp only [tableInUse, hkind, if_true] at hfree
  unfold tableUnloaded
  rw [if_pos hkind, htable]
  exact if_neg (ne_true_of_eq_false hfree)

/-- An unload of a grammar table that nothing uses takes effect. -/
theorem tableUnloaded_grm {p : GrmProg} (hkind : c.f2 32 1 = 1) (htable : mapGet s.txt.grms (c.f2 0 32) = some p) :
    tableUnloaded s c = finishCmd (removeGrm s (c.f2 0 32) p) c E_OK := by
  simp only [tableInUse, hkind, Nat.one_ne_zero, if_false] at hfree
  unfold tableUnloaded
  rw [if_neg (by omega), htable]
  exact if_neg (ne_true_of_eq_false hfree)

/-- A TABLE_UNLOAD of a table that is there and that nothing uses takes effect at once before strokes begin, and is staged for the finish otherwise. -/
theorem startTableUnload_known (hright : domPlanLoad s c.dom = true)
    (hknown : (if c.f2 32 1 = 0 then mapHas s.txt.vocabs (c.f2 0 32) else mapHas s.txt.grms (c.f2 0 32)) = true) :
    startTableUnload c [] s = if s.stk.phase = .idle then tableUnloaded s c else stage s (.tableUnload c) := by
  simp only [startTableUnload, hright, hknown, hfree, Bool.not_true, Bool.or_false, Bool.false_eq_true, decide_eq_true_eq, if_false]

end

/-! ### The obligation -/

theorem applyCommit_planUnload (s : State) (c : Cmd) : applyCommit s (.planUnload c) = planUnloaded s c := rfl
theorem applyCommit_tableUnload (s : State) (c : Cmd) : applyCommit s (.tableUnload c) = tableUnloaded s c := rfl

/-- A row that takes effect at once while the stroke stands, and stages its effect otherwise. -/
theorem atOnce_or_staged {s a b t : State} (h : t = if s.stk.phase = .idle then a else b) :
    (s.stk.phase = .idle → Outcome.next (φ := Fault) (ρ := Refusal) t = .next a) ∧
      (s.stk.phase ≠ .idle → Outcome.next (φ := Fault) (ρ := Refusal) t = .next b) :=
  ⟨fun hidle => congrArg Outcome.next (h.trans (if_pos hidle)), fun hruns => congrArg Outcome.next (h.trans (if_neg hruns))⟩

/-- Settles O25: one case for each of its clauses. That an unload takes effect at once before strokes begin is the model's reading (assumption 55). -/
theorem unloadRemoves : Obligations.UnloadRemoves := by
  unfold Obligations.UnloadRemoves
  intro s c htaken j key hright
  refine ⟨?model, ?set, ?waits, ?vocab, ?grm⟩
  case model =>
    intro hkind hknown hfree
    obtain ⟨hidle, hruns⟩ := atOnce_or_staged ((submit_taken s c [] _ htaken).trans (startPlanUnload_model hkind hfree hright hknown))
    exact ⟨hidle, hruns, fun u hu => (applyCommit_planUnload u c).trans (planUnloaded_model hkind hu)⟩
  case set =>
    intro hkind hknown hstill
    obtain ⟨hidle, hruns⟩ := atOnce_or_staged ((submit_taken s c [] _ htaken).trans (startPlanUnload_set hkind hright hknown hstill))
    exact ⟨hidle, hruns, fun u hu => (applyCommit_planUnload u c).trans (planUnloaded_set hkind hu)⟩
  case waits =>
    intro hkind hknown hsteps
    exact congrArg Outcome.next ((submit_taken s c [] _ htaken).trans (startPlanUnload_waits hkind hright hknown hsteps))
  case vocab =>
    intro p hkind htable hfree u gone
    have hgone : tableUnloaded j c = gone := tableUnloaded_vocab hfree hkind htable
    have hknown : (if c.f2 32 1 = 0 then mapHas j.txt.vocabs key else mapHas j.txt.grms key) = true := by
      rw [if_pos hkind, mapHas, joinQueue_txt, htable, Option.isSome_some]
    obtain ⟨hidle, hruns⟩ := atOnce_or_staged ((submit_taken s c [] _ htaken).trans (startTableUnload_known hfree hright hknown))
    exact ⟨hgone ▸ hidle, fun hphase => ⟨hruns hphase, (applyCommit_tableUnload j c).trans hgone⟩⟩
  case grm =>
    intro p hkind htable hfree u gone
    have hgone : tableUnloaded j c = gone := tableUnloaded_grm hfree hkind htable
    have hknown : (if c.f2 32 1 = 0 then mapHas j.txt.vocabs key else mapHas j.txt.grms key) = true := by
      rw [if_neg (by omega), mapHas, joinQueue_txt, htable, Option.isSome_some]
    obtain ⟨hidle, hruns⟩ := atOnce_or_staged ((submit_taken s c [] _ htaken).trans (startTableUnload_known hfree hright hknown))
    exact ⟨hgone ▸ hidle, fun hphase => ⟨hruns hphase, (applyCommit_tableUnload j c).trans hgone⟩⟩

end Sys2Proof.Machine
end

section
/-! PROOFS. Writes by RDMA into import windows (09 R210, 15 R352). -/

open Host
namespace Sys2Proof.Machine

section
variable {s : State} {qp rkey addr : Nat} {data : List Byte} {x : Qp} (hqp : qpOf s qp = some x) (hup : x.err = false)
include hqp hup

/-- A write with its domain's key into an import window lands there. -/
theorem importWrite_lands {sid w : Nat} {bs : List Nat} (hkey : rkey = s.lnk.rkeys.getD x.dom 0)
    (hwin : importWin s x.dom addr data.length = some (sid, w, bs)) :
    importWrite s qp rkey addr data =
      sendQp (updSes (cnt (writeSas s (data.length / 65536 + 2) addr data) R.MOV_BYTES_NET data.length) sid
        (fun x => { x with win := x.win.map (fun w => { w with written := bs.foldl setAdd w.written }) })) qp (.ackPkt qp) 4 := by
  simp only [importWrite, hqp, hup, if_pos hkey, hwin, Bool.false_eq_true, if_false]

/-- Any other write is answered with a NAK. -/
theorem importWrite_nak (hother : rkey ≠ s.lnk.rkeys.getD x.dom 0 ∨ importWin s x.dom addr data.length = none) :
    importWrite s qp rkey addr data = sendQp (cnt s R.CMB_IMPORT_NAK 1) qp (.nak qp 3) 4 := by
  have hnone : (if rkey = s.lnk.rkeys.getD x.dom 0 then importWin s x.dom addr data.length else none) = none := by
    rcases hother with hkey | hwin
    · exact if_neg hkey
    · rw [hwin, ite_self]
  simp only [importWrite, hqp, hup, hnone, Bool.false_eq_true, if_false]

end

/-- Settles O27: the write's window and key decide which of the two it is. That a block partly written counts as written, and what `MOV_BYTES_NET` counts, are the
model's readings (assumptions 61 and 14). -/
theorem importWriteLands : Obligations.ImportWriteLands := by
  unfold Obligations.ImportWriteLands
  intro s qp rkey addr data x hqp hup
  exact ⟨fun sid w bs hkey hwin => congrArg Outcome.next (importWrite_lands hqp hup hkey hwin),
    fun hother => congrArg Outcome.next (importWrite_nak hqp hup hother)⟩

end Sys2Proof.Machine
end

section
/-! PROOFS. Courses (10 R227 to R231): a course opens on its frames, keeps a CLOSE, and starts its step. -/

open Host
namespace Sys2Proof.Machine

/-! ### A course opens (10 R227, R228) -/

/-- The homes of a course that opens: the crew's sessions take the lanes in turn, lowest Session ID first (10 R230). -/
def courseHomes (s : State) (crew : Nat) : Map Nat := (crewSes s crew).zipIdx.foldl (fun m (e, i) => mapSet m e.1 (i % 10)) []

/-- The course that COURSE `c` opens on crew `k`, with its windows in the frames `fs`. -/
def courseOf (s : State) (c : Cmd) (k : Crew) (fs : List Nat) : Course :=
  { node := c.f3 0 32
    win := c.f3 32 9
    lead := c.f4 0 16
    nb := ceilDiv ((nodeOf s (c.f3 0 32)).elim 0 (·.depth)) (c.f3 32 9)
    layers := (planOf s k.model).elim 0 (fun p => p.hdr.layers)
    homes := courseHomes s (c.f2 0 16)
    nextHome := (courseHomes s (c.f2 0 16)).length
    frames := fs }

/-- The windows of a course that opens are zeroed, and charged to the crew's tenant in Tier H (10 R228). -/
def windowsTaken (s : State) (c : Cmd) (k : Crew) (fs : List Nat) : State :=
  addCharge (fs.foldl zeroFrame s) { owner := courseOwner (c.f2 0 16), tenant := k.tenant, tier := 0, pages := 20 * c.f3 32 9 }

/-- The state in which the course stands, and its COURSE completes with the blocks per layer and the strokes per course step (10 R227). -/
def courseOpened (s : State) (c : Cmd) (k : Crew) (fs : List Nat) : State :=
  let t := windowsTaken s c k fs
  let x := courseOf s c k fs
  stageDone { t with courses := mapSet t.courses (c.f2 0 16) x }
    { cmd := c, status := E_OK, c0 := x.nb % 2 ^ 32 + (x.layers * (x.nb + 1) + 10) % 2 ^ 32 * 2 ^ 32 }

theorem zeroFrame_tierOnly (s : State) (f : Nat) : TierOnly s (zeroFrame s f) := rfl

theorem addCharge_tierOnly (s : State) (x : Charge) : TierOnly s (addCharge s x) := by
  unfold addCharge
  split <;> rfl

theorem windowsTaken_tierOnly (s : State) (c : Cmd) (k : Crew) (fs : List Nat) : TierOnly s (windowsTaken s c k fs) :=
  (TierOnly.foldl _ zeroFrame_tierOnly _ _).trans (addCharge_tierOnly _ _)

theorem TierOnly.courseWaits {s t : State} (h : TierOnly s t) : t.courseWaits = s.courseWaits := by rw [h]

section
variable (s : State) (c : Cmd) (k : Crew) (fs : List Nat)

theorem mapGet_courseOpened : mapGet (courseOpened s c k fs).courses (c.f2 0 16) = some (courseOf s c k fs) := by
  rw [courseOpened, stageDone_courses, mapGet_mapSet_same]

theorem courseOpened_courseWaits : (courseOpened s c k fs).courseWaits = s.courseWaits := by
  rw [courseOpened, stageDone_courseWaits, (windowsTaken_tierOnly s c k fs).courseWaits]

theorem courseOpened_ses : (courseOpened s c k fs).ses = s.ses := by
  rw [courseOpened, stageDone_ses, (windowsTaken_tierOnly s c k fs).ses]

end

/-- A course whose frames are free, within its tenant's quota, opens on them. -/
theorem openCourse_opens {s : State} {c : Cmd} {k : Crew} {fs : List Nat} (hcrew : crewOf s (c.f2 0 16) = some k)
    (hquota : chargeFitsH s k.tenant (20 * c.f3 32 9) = none) (hframes : courseFrames s k.tenant (c.f3 32 9) = some fs) :
    openCourse s c = some (courseOpened s c k fs) := by
  simp only [openCourse, hcrew, hquota, hframes]
  rfl

/-! ### COURSE, with and without `CLOSE` -/

section
variable {s : State} {c : Cmd} {k : Crew} (hcrew : crewOf s (c.f2 0 16) = some k) (hright : domTenant s c.dom k.tenant = true)
include hcrew hright

/-- A COURSE that 10 R227 does not refuse opens its course, or waits for its frames. -/
theorem startCourseOpen_allowed (hallowed : courseReason s c (c.f2 0 16) k = none) :
    startCourseOpen c [] s = (openCourse s c).getD { s with courseWaits := s.courseWaits ++ [(c, 0)] } := by
  simp only [startCourseOpen, hcrew, hright, hallowed, Bool.not_true, Bool.false_eq_true, if_false]

/-- A CLOSE is kept in its course. -/
theorem startCourseClose_kept {x : Course} (hcourse : mapGet s.courses (c.f2 0 16) = some x) (hopen : x.closing = none) :
    startCourseClose c [] s = { s with courses := mapSet s.courses (c.f2 0 16) { x with closing := some c } } := by
  simp only [startCourseClose, hcrew, hright, hcourse, hopen, Option.isSome_none, Bool.not_true, Bool.false_eq_true, if_false]

end

/-! ### A course step starts (10 R229, R230) -/

/-- `t` is `s` but for the sessions, the passes, the tiers, the registers and what waits to leave the device. -/
def PassesOnly (s t : State) : Prop :=
  t = { s with ses := t.ses, tier := t.tier, reg := t.reg, out := t.out, stk := { s.stk with passes := t.stk.passes, nextPass := t.stk.nextPass } }

theorem PassesOnly.refl (s : State) : PassesOnly s s := rfl
theorem PassesOnly.trans {s t u : State} (h : PassesOnly s t) (k : PassesOnly t u) : PassesOnly s u := by
  unfold PassesOnly at *; rw [k, h]
theorem TierOnly.passesOnly {s t : State} (h : TierOnly s t) : PassesOnly s t := by
  unfold TierOnly PassesOnly at *; rw [h]
theorem PassesOnly.foldl {α : Type} (f : State → α → State) (hf : ∀ s x, PassesOnly s (f s x)) (l : List α) (s : State) :
    PassesOnly s (l.foldl f s) := by
  induction l generalizing s with
  | nil => exact PassesOnly.refl s
  | cons x l ih => exact (hf s x).trans (ih _)

theorem PassesOnly.courses {s t : State} (h : PassesOnly s t) : t.courses = s.courses := by rw [h]
theorem PassesOnly.number {s t : State} (h : PassesOnly s t) : t.stk.number = s.stk.number := by rw [h]

theorem dupNoted_only (s : State) (top : Nat × Nat) :
    RegOnly s (if rdF s R.GSX_DUP_MAX < top.1 then wrF (wrF s R.GSX_DUP_MAX top.1) R.GSX_DUP_ROW top.2 else s) := by
  split
  · exact (wrF_only _ _ _).trans (wrF_only _ _ _)
  · exact RegOnly.refl s

theorem gsxCount_only (s : State) (drop rows : Nat) (top : Nat × Nat) : RegOnly s (gsxCount s drop rows top) := by
  have hcounts := ((cnt_only s R.GSX_INDEX_INVALID drop).trans (cnt_only _ R.GSX_ROWS_READ rows)).trans (dupNoted_only _ top)
  unfold gsxCount
  by_cases hdrop : drop = 0
  · rw [if_pos hdrop]
    exact hcounts
  · rw [if_neg hdrop]
    exact hcounts.trans (raiseBit_only _ _ _ _ _)

theorem gatherLead_only (s : State) (k : Course) (sids : List Nat) : RegOnly s (gatherLead s k sids) := by
  unfold gatherLead
  split
  · exact RegOnly.refl s
  · exact gsxCount_only _ _ _ _

theorem updSes_passesOnly (s : State) (sid : Nat) (f : Ses → Ses) : PassesOnly s (updSes s sid f) := rfl

theorem bindVersion_passesOnly (s : State) (sids : List Nat) (ver : Nat) : PassesOnly s (bindVersion s sids ver) :=
  PassesOnly.foldl _ (fun s sid => updSes_passesOnly s sid _) _ _

theorem newPass_passesOnly (s : State) (p : Pass) : PassesOnly s (newPass s p) := rfl

/-- The Mover entry of a course step: its fills and shifts (10 R230). -/
def ringEntry (s : State) (k : Course) (w : Crew) : OpEnt :=
  { kind := 0xE, cls := 1, src := 1, dst := 0, tenant := w.tenant, object := ((nodeOf s k.node).elim 0 (fun n => n.pages.headD 0)) * 65536
    isSes := false, start := 0 }

/-- The sessions homed on a lane form its pass of the course step, if there are any. -/
def formLap (crew : Nat) (k : Course) (w : Crew) (p : Plan) (sids : List Nat) (s : State) (lane : Nat) : State :=
  let mine := sids.filter (fun sid => mapGet k.homes sid = some lane)
  if mine.isEmpty then s
  else newPass (bindVersion s mine p.hdr.version) {
    crew := crew, tenant := w.tenant, model := w.model, version := p.hdr.version, isAppend := false, sessions := mine
    firstCand := s.stk.number, lap := true }

theorem formLap_passesOnly (crew : Nat) (k : Course) (w : Crew) (p : Plan) (sids : List Nat) (s : State) (lane : Nat) :
    PassesOnly s (formLap crew k w p sids s lane) := by
  unfold formLap
  dsimp only
  split
  · exact PassesOnly.refl s
  · exact (bindVersion_passesOnly _ _ _).trans (newPass_passesOnly _ _)

/-- The course step has its entry, its lead rows are gathered, and each lane has its pass. -/
def lapsFormed (s : State) (crew : Nat) (k : Course) (w : Crew) (p : Plan) : State :=
  (List.range 10).foldl (formLap crew k w p (stepHeads s k)) (gatherLead (takeOp s (ringEntry s k w)).2 k (stepHeads s k))

theorem lapsFormed_passesOnly (s : State) (crew : Nat) (k : Course) (w : Crew) (p : Plan) : PassesOnly s (lapsFormed s crew k w p) :=
  ((takeOp_tierOnly _ _).trans (gatherLead_only _ _ _).tierOnly).passesOnly.trans
    (PassesOnly.foldl _ (formLap_passesOnly crew k w p (stepHeads s k)) _ _)

/-- The course whose step starts: it names its sessions, and its ring begins anew. -/
def courseStarted (s : State) (k : Course) : Course :=
  { k with start := some s.stk.number, inStep := stepHeads s k, ring := 0, firstStep := none, op := some (opIndex s), block := [], late := false }

/-- The state in which a course's step has started. -/
def stepStarted (s : State) (crew : Nat) (k : Course) (w : Crew) (p : Plan) : State :=
  { lapsFormed s crew k w p with courses := mapSet s.courses crew (courseStarted s k) }

theorem mapGet_stepStarted (s : State) (crew : Nat) (k : Course) (w : Crew) (p : Plan) :
    mapGet (stepStarted s crew k w p).courses crew = some (courseStarted s k) := mapGet_mapSet_same ..

theorem stepStarted_number (s : State) (crew : Nat) (k : Course) (w : Crew) (p : Plan) : (stepStarted s crew k w p).stk.number = s.stk.number :=
  (lapsFormed_passesOnly s crew k w p).number

/-- Whether a course step is due: every course session has a STEP at its head, or the first of them has waited `WAIT` strokes (10 R230). -/
def StepDue (s : State) (k : Course) : Prop :=
  (stepHeads s k).length = k.homes.length ∨ ∃ n, k.firstStep = some n ∧ n + rdF s R.CMB_COURSE_CFG_WAIT ≤ s.stk.number

theorem stepDue_iff (s : State) (k : Course) : StepDue s k ↔
    (decide ((stepHeads s k).length = k.homes.length) ||
      k.firstStep.any (fun n => decide (n + rdF s R.CMB_COURSE_CFG_WAIT ≤ s.stk.number))) = true := by
  simp only [StepDue, Bool.or_eq_true, decide_eq_true_eq, Option.any_eq_true]

/-- A course step that is due starts in the drive, where its program may step and a Mover entry is free. -/
theorem courseStep_starts {s : State} {crew : Nat} {k : Course} {w : Crew} {p : Plan} (hcourse : mapGet s.courses crew = some k)
    (hcrew : crewOf s crew = some w) (hplan : planOf s w.model = some p) (hrests : k.start = none) (hheads : stepHeads s k ≠ [])
    (hdue : StepDue s k) (hdrive : s.stk.phase = .drive) (hfree : p.blocked = false) (hlegs : cmbMode s p = false)
    (hroom : opRoom s 1 w.tenant = true) : courseStep s crew = stepStarted s crew k w p := by
  have hheads' : (stepHeads s k).isEmpty = false := List.isEmpty_eq_false_iff.mpr hheads
  have hcond := (stepDue_iff s k).mp hdue
  have hformed := lapsFormed_passesOnly s crew k w p
  rw [stepStarted, courseStarted, ← hformed.courses, ← hformed.number]
  simp only [courseStep, hcourse, hcrew, hplan, hrests, hheads', hcond, hdrive, hfree, hlegs, hroom, Option.isSome_none, Bool.or_self,
    bne_self_eq_false, Bool.not_true, Bool.false_eq_true, if_false]
  rfl

/-! ### The obligation -/

/-- Settles O26: a COURSE opens its course, waits or keeps its CLOSE, and a step that is due starts. That the step's Mover entry is taken at its start is the model's
reading (assumption 57). -/
theorem courseRuns : Obligations.CourseRuns := by
  unfold Obligations.CourseRuns
  constructor
  · intro s c k htaken hcrew hright j
    refine ⟨?opens, ?waits, ?closes⟩
    case opens =>
      intro hallowed fs hquota hframes
      have hruns : submit s c [] startCourseOpen = courseOpened j c k fs := by
        rw [submit_taken s c [] _ htaken, startCourseOpen_allowed (s := j) hcrew hright hallowed, openCourse_opens (s := j) hcrew hquota hframes,
          Option.getD_some]
      exact ⟨_, courseOf j c k fs, congrArg Outcome.next hruns, mapGet_courseOpened j c k fs, rfl, rfl, rfl, rfl, rfl, rfl, rfl,
        courseOpened_courseWaits j c k fs, courseOpened_ses j c k fs⟩
    case waits =>
      intro hallowed hnone
      have hruns := (submit_taken s c [] _ htaken).trans (startCourseOpen_allowed (s := j) hcrew hright hallowed)
      rw [hnone] at hruns
      exact congrArg Outcome.next hruns
    case closes =>
      intro x hcourse hopen
      exact congrArg Outcome.next ((submit_taken s c [] _ htaken).trans (startCourseClose_kept (s := j) hcrew hright hcourse hopen))
  · intro s crew k w p hcourse hcrew hplan hrests hheads hdue hdrive hfree hlegs hroom
    exact ⟨_, courseStarted s k, congrArg Outcome.next (courseStep_starts hcourse hcrew hplan hrests hheads hdue hdrive hfree hlegs hroom),
      mapGet_stepStarted s crew k w p, rfl, rfl, rfl, rfl, rfl, rfl, stepStarted_number s crew k w p⟩

end Sys2Proof.Machine
end

section
/-! PROOFS. Loading vocabularies, grammar tables and gather tables (11 R255, R256; 13 R294). -/

open Host
namespace Sys2Proof.Machine

/-! ### Pages for an image -/

theorem TierOnly.txt {s t : State} (h : TierOnly s t) : t.txt = s.txt := by rw [h]
theorem TierOnly.gsx {s t : State} (h : TierOnly s t) : t.gsx = s.gsx := by rw [h]

/-- Pages that are allotted change the tiers alone. -/
theorem allocPages_tierOnly {s k : State} {n tenant cls mask base : Nat} {committed : Bool}
    (h : allocPages s n tenant cls mask committed = some (base, k)) : TierOnly s k := by
  unfold allocPages allocPagesAway at h
  split at h
  · cases h
  · cases h
    exact TierOnly.foldl _ (fun _ _ => newPage_tierOnly _ _ _ _ _ _) _ _

/-! ### A table's load that begins -/

/-- The consecutive pages from `base` on that the image of a table goes to. -/
def tablePages (base n : Nat) : List Nat := (List.range n).map (base + ·)

/-- The Mover entry that brings a table's image (11 R256). -/
def tableEntry (base n : Nat) : OpEnt :=
  { kind := 0xD, cls := 2, src := 2, dst := 0, tenant := 0xFFF, object := base * 65536, isSes := false, start := 0, todo := tablePages base n }

/-- A load as it stands in flight once it has pages, in the state `k` in which they are allotted. -/
def tableLoad (k : State) (l : TabLoad) (base n : Nat) : TabLoad := { l with pages := tablePages base n, op := opIndex k }

/-- The state in which a load with pages has taken its entry and joined the loads in flight. -/
def tableLoading (k : State) (l : TabLoad) (base n : Nat) : State :=
  let u := (takeOp k (tableEntry base n)).2
  { u with txt := { u.txt with loads := u.txt.loads ++ [tableLoad k l base n] } }

section
variable (k : State) (l : TabLoad) (base n : Nat)

theorem tableLoading_txt : (tableLoading k l base n).txt = { k.txt with loads := k.txt.loads ++ [tableLoad k l base n] } :=
  congrArg (fun x : TxtState => { x with loads := x.loads ++ [tableLoad k l base n] }) (takeOp_tierOnly k (tableEntry base n)).txt

theorem tableLoading_gsx : (tableLoading k l base n).gsx = k.gsx := (takeOp_tierOnly k (tableEntry base n)).gsx

theorem opOf_tableLoading :
    opOf (tableLoading k l base n) (tableLoad k l base n).op = some { tableEntry base n with start := catchStroke k } :=
  opOf_takeOp k (tableEntry base n)

end

/-- A load of a vocabulary or a grammar table that is not refused has pages and takes an entry. -/
theorem loadTable_takes {s t : State} {l : TabLoad} (h : loadTable s l = .inr t) :
    ∃ k base n, TierOnly s k ∧ t = tableLoading k l base n := by
  unfold loadTable at h
  split at h
  · cases h
  · split at h
    · cases h
    · next base k hpages => exact ⟨k, base, _, allocPages_tierOnly hpages, (Sum.inr.inj h).symm⟩

/-- What such a load leaves: the installed tables stand, and the load is in flight with its entry, which brings its pages. -/
theorem loadTable_flies {s t : State} {l : TabLoad} (h : loadTable s l = .inr t) :
    t.txt.vocabs = s.txt.vocabs ∧ t.txt.grms = s.txt.grms ∧
      ∃ m o, t.txt.loads = s.txt.loads ++ [m] ∧ m = { l with pages := m.pages, op := m.op } ∧ opOf t m.op = some o ∧ o.kind = 0xD ∧
        o.todo = m.pages := by
  obtain ⟨k, base, n, honly, rfl⟩ := loadTable_takes h
  rw [tableLoading_txt, honly.txt]
  exact ⟨rfl, rfl, tableLoad k l base n, _, rfl, rfl, opOf_tableLoading k l base n, rfl, rfl⟩

/-- A gather table that finds room, an entry and pages is loaded (13 R294). -/
theorem loadGsx_takes {s k : State} {c : Cmd} {g : GsxTab} {bytes : List Byte} {n base : Nat} (hn : n = ceilDiv (g.rows * 2 ^ g.log2Stride) 65536)
    (hfree : n ≤ freeH s) (hroom : opRoom s 2 0xFFF = true) (hpages : allocPages s n 0xFFF 4 0 false = some (base, k)) :
    loadGsx s c g bytes =
      tableLoading k { cmd := c, kind := 2, key := g.table, version := g.version, pages := [], image := bytes, gsx := some g, op := 0 } base n := by
  subst hn
  simp only [loadGsx, Nat.not_lt.mpr hfree, hroom, hpages, Bool.not_true, Bool.false_eq_true, if_false]
  rfl

/-! ### The checks of the three commands -/

/-- How many versions of a vocabulary are installed (11 R255): the current one and, while something uses it, an earlier one. -/
def vocabVersions (s : State) (model : Nat) : Nat :=
  match mapGet s.txt.vocabs model with | some p => 1 + b2n p.old.isSome | none => 0

/-- The versions of a grammar table that are installed. -/
def grmVersions (s : State) (table : Nat) : Nat :=
  match mapGet s.txt.grms table with | some p => 1 + b2n p.old.isSome | none => 0

/-- The versions of a gather table that are installed (13 R296). -/
def gsxVersions (s : State) (table : Nat) : Nat :=
  match mapGet s.gsx.tabs table with | some p => 1 + b2n p.old.isSome | none => 0

/-- The grammar tables that are installed or being loaded, of which there is room for 1,024 (11 R256). -/
def grmTables (s : State) : List Nat := ((s.txt.loads.filter (fun l => l.kind = 1)).map (·.key) ++ mapKeys s.txt.grms).eraseDups

/-- The gather tables that are installed or being loaded, of which there is room for 256 (13 R294). -/
def gsxTables (s : State) : List Nat := ((s.txt.loads.filter (fun l => l.kind = 2)).map (·.key) ++ mapKeys s.gsx.tabs).eraseDups

section
variable {s : State} {c : Cmd} {data : List Byte} (hright : domPlanLoad s c.dom = true) (hqp : qpCheck s c.dom (c.f3 32 16) = none)
include hright hqp

/-- A VOCAB_LOAD whose image is good, for a model program that is there, is loaded. -/
theorem startVocabLoad_loads {t : State} {p : Plan} {v : Vocab} (hplan : planOf s (hw data 1 0 32) = some p)
    (himage : parseVocab data c.w4.toNat p.hdr.vocab = .ok v)
    (hversions : loadsOf s 0 (hw data 1 0 32) + vocabVersions s (hw data 1 0 32) < 2)
    (hload : loadTable s { cmd := c, kind := 0, key := hw data 1 0 32, version := v.version, pages := [], image := data, vocab := some v, op := 0 } =
      .inr t) : startVocabLoad c data s = t := by
  simp only [startVocabLoad, hright, hqp, hplan, himage, hload, Option.isNone_some, Bool.not_true, Bool.false_eq_true, if_false]
  exact if_neg (Nat.not_le.mpr hversions)

/-- A GRM_LOAD whose image is good, of a table that is known or finds one of the 1,024 places, is loaded. -/
theorem startGrmLoad_loads {t : State} {g : Grm} (himage : parseGrm data c.w4.toNat (vocabOf s) (grmOf s) = .ok g)
    (hversions : loadsOf s 1 (hw data 1 0 16) + grmVersions s (hw data 1 0 16) < 2)
    (hplace : mapHas s.txt.grms (hw data 1 0 16) = true ∨ 0 < loadsOf s 1 (hw data 1 0 16) ∨ (grmTables s).length < 1024)
    (hload : loadTable s { cmd := c, kind := 1, key := hw data 1 0 16, version := g.version, pages := [], image := data, grm := some g, op := 0 } =
      .inr t) : startGrmLoad c data s = t := by
  simp only [startGrmLoad, hright, hqp, himage, hload, Bool.not_true, Bool.false_eq_true, if_false]
  refine if_neg (not_or.mpr ⟨Nat.not_le.mpr hversions, ?_⟩)
  rintro ⟨hunknown, hfull⟩
  rcases hplace with hknown | hflying | hfew
  · simp [hknown] at hunknown
  · simp [hflying] at hunknown
  · exact Nat.not_le.mpr hfew hfull

/-- A GSX_LOAD whose image is good, of a table that is known or finds one of the 256 places, comes to its pages. -/
theorem startGsxLoad_loads {g : GsxTab} {bytes : List Byte} (himage : parseGsx data c.w4.toNat = .ok (g, bytes))
    (hversions : loadsOf s 2 g.table + gsxVersions s g.table < 2)
    (hplace : g.table ∈ gsxTables s ∨ (gsxTables s).length < 256) :
    startGsxLoad c data s = loadGsx s c g bytes := by
  simp only [startGsxLoad, hright, hqp, himage, Bool.not_true, Bool.false_eq_true, if_false]
  refine (if_neg (Nat.not_le.mpr hversions)).trans (if_neg ?_)
  rintro ⟨hunknown, hfull⟩
  rcases hplace with hknown | hfew
  · rw [Bool.not_eq_true', ← Bool.not_eq_true, List.contains_iff_mem] at hunknown
    exact hunknown hknown
  · exact Nat.not_le.mpr hfew hfull

end

/-! ### The obligation -/

/-- Settles O24: each of the three commands comes through its checks to a load in flight, which changes no installed table. -/
theorem tableLoadBegins : Obligations.TableLoadBegins := by
  unfold Obligations.TableLoadBegins
  intro s t c data htaken j hright hqp
  refine ⟨?vocabulary, ?grammar, ?gather⟩
  case vocabulary =>
    intro v himage hmodel hversions hload
    obtain ⟨p, hplan⟩ := Option.isSome_iff_exists.mp hmodel
    rw [hplan] at himage
    have hruns : submit s c data startVocabLoad = t :=
      (submit_taken s c data startVocabLoad htaken).trans (startVocabLoad_loads hright hqp hplan himage hversions hload)
    obtain ⟨hvocabs, -, l, o, hloads, hl, hop, hkind, htodo⟩ := loadTable_flies hload
    exact ⟨congrArg Outcome.next hruns, hvocabs, l, o, hloads, congrArg TabLoad.cmd hl, congrArg TabLoad.vocab hl, hop, hkind, htodo⟩
  case grammar =>
    intro g himage hversions hplace hload
    have hruns : submit s c data startGrmLoad = t :=
      (submit_taken s c data startGrmLoad htaken).trans (startGrmLoad_loads hright hqp himage hversions hplace hload)
    obtain ⟨-, hgrms, l, o, hloads, hl, hop, hkind, htodo⟩ := loadTable_flies hload
    exact ⟨congrArg Outcome.next hruns, hgrms, l, o, hloads, congrArg TabLoad.cmd hl, congrArg TabLoad.grm hl, hop, hkind, htodo⟩
  case gather =>
    intro g bytes n base k himage hn hversions hplace hfree hroom hpages
    have hruns := ((submit_taken s c data startGsxLoad htaken).trans
      (startGsxLoad_loads hright hqp himage hversions (hplace _ rfl))).trans (loadGsx_takes (s := j) hn hfree hroom hpages)
    exact ⟨_, _, _, congrArg Outcome.next hruns, tableLoading_gsx .., congrArg TxtState.loads (tableLoading_txt ..), rfl, rfl, rfl, rfl,
      opOf_tableLoading .., rfl, rfl⟩

end Sys2Proof.Machine
end

section
/-! PROOFS. Requests of the Text unit, its stream engines and the grammar engine's masks (11 R252, R253, R257, R258, R498). -/

open Host
namespace Sys2Proof.Machine

/-! ### Requests that wait (11 R498) -/

/-- A STREAM that configures a context waits; one that brings a stop set must name a queue pair that its domain may use. -/
theorem startStreamConfigure_waits {s : State} {c : Cmd} {data : List Byte}
    (h : c.f4 32 1 = 0 ∨ c.f7 0 5 = 0 ∨ qpCheck s c.dom (c.f6 32 16) = none) : startStreamConfigure c data s = waitTxt s c data := by
  unfold startStreamConfigure
  split
  · next hstops =>
    obtain ⟨hflag, hcount⟩ := hstops
    rcases h with hunset | hempty | hqp
    · omega
    · exact absurd hempty hcount
    · rw [hqp]
  · rfl

theorem startTokenize_waits {s : State} {c : Cmd} {data : List Byte} (hqp : qpCheck s c.dom (c.f4 32 16) = none) :
    startTokenize c data s = waitTxt s c data := by
  simp only [startTokenize, hqp]

theorem startDetokenize_waits {s : State} {c : Cmd} {data : List Byte} (hlong : c.f5 0 32 ≤ 2097152)
    (hqp : qpCheck s c.dom (c.f4 32 16) = none) : startDetokenize c data s = waitTxt s c data := by
  simp only [startDetokenize, Nat.not_lt.mpr hlong, hqp, if_false]

/-- Settles O28: a taken request that its checks let through is appended to the waiting ones. -/
theorem textRequestWaits : Obligations.TextRequestWaits := by
  unfold Obligations.TextRequestWaits
  intro s c data htaken j waits
  have hwaits : ∀ (d : List Byte) (start : Cmd → List Byte → State → State), start c d j = waitTxt j c d →
      Outcome.next (submit s c d start) = waits d :=
    fun d start hstart => congrArg Outcome.next ((submit_taken s c d start htaken).trans hstart)
  exact ⟨hwaits [] startStreamAllocate rfl, hwaits [] startStreamFree rfl,
    fun h => hwaits data startStreamConfigure (startStreamConfigure_waits h),
    fun hqp => hwaits data startTokenize (startTokenize_waits hqp),
    fun hlong hqp => hwaits data startDetokenize (startDetokenize_waits hlong hqp)⟩

/-! ### What an engine's work leaves as it was -/

/-- `t` has the requests, the engines, the host link and the completions of `s`. -/
structure KeepsRequests (s t : State) : Prop where
  waiting : t.txt.waiting = s.txt.waiting
  engines : t.txt.engines = s.txt.engines
  lnk : t.lnk = s.lnk
  cpls : t.out.cpls = s.out.cpls

theorem KeepsRequests.refl (s : State) : KeepsRequests s s := ⟨rfl, rfl, rfl, rfl⟩
theorem KeepsRequests.trans {s t u : State} (h : KeepsRequests s t) (k : KeepsRequests t u) : KeepsRequests s u :=
  ⟨k.waiting.trans h.waiting, k.engines.trans h.engines, k.lnk.trans h.lnk, k.cpls.trans h.cpls⟩

theorem KeepsRequests.cnt {s t : State} (h : KeepsRequests s t) (f : Fld) (n : Nat) : KeepsRequests s (cnt t f n) :=
  h.trans ⟨rfl, rfl, rfl, rfl⟩
theorem cacheUse_keepsRequests (s : State) : KeepsRequests s (cacheUse s) := ⟨rfl, rfl, rfl, rfl⟩

theorem putCtx_keepsRequests (s : State) (c : Cmd) (x : TxtCtx) : KeepsRequests s (putCtx s c x) := by
  unfold putCtx
  split
  · exact .refl s
  · exact ⟨rfl, rfl, rfl, rfl⟩

theorem pushEvent_keepsRequests (s : State) (d : Nat) (r : EvRec) : KeepsRequests s (pushEvent s d r) := by
  unfold pushEvent
  dsimp only
  split
  · exact ⟨rfl, rfl, rfl, rfl⟩
  · exact ⟨rfl, rfl, rfl, rfl⟩

theorem pushEvents_keepsRequests (s : State) (ds : List Nat) (r : EvRec) : KeepsRequests s (pushEvents s ds r) := by
  unfold pushEvents
  induction ds generalizing s with
  | nil => exact .refl s
  | cons d ds ih => exact (pushEvent_keepsRequests s d r).trans (ih _)

theorem raiseBit_plain_keepsRequests (s : State) (b : Blk) (inst bit : Nat) : KeepsRequests s (raiseBit s b inst bit .plain) := by
  have hbit : ∀ f v, KeepsRequests s (if !bitOf (rdI s f inst) bit then wrI s f inst v else s) := by
    intro f v
    split
    · exact ⟨rfl, rfl, rfl, rfl⟩
    · exact .refl s
  unfold raiseBit
  dsimp only
  split
  · exact (hbit _ _).trans (pushEvents_keepsRequests _ _ _)
  · exact hbit _ _

/-! ### An engine answers (11 R257, R498) -/

section
variable {s : State} {r : TxtReq} {x : TxtCtx} {v : Vocab} (hctx : engineCtx s r.cmd = some x) (hvocab : vocabOf s x.model = some v)
include hctx hvocab

/-- A TOKENIZE on a context with a vocabulary comes to its output with the requests as they were. -/
theorem runTokenize_answers (e : Nat) : ∃ u bytes w, KeepsRequests s u ∧ runTokenize s e r = engineOut u e r bytes w := by
  simp only [runTokenize, hctx, hvocab]
  refine ⟨_, _, _, ?_, rfl⟩
  refine KeepsRequests.trans ?_ (putCtx_keepsRequests _ _ _)
  have hcounted : ∀ a b p q, KeepsRequests s
      (cnt (cnt (cnt (cnt (cacheUse s) R.TXT_IN_BYTES a) R.TXT_REPL_IN b) R.TXT_TRUNC_BYTES p) R.TXT_TRUNC_TOKENS q) :=
    fun _ _ _ _ => ((((cacheUse_keepsRequests s).cnt _ _).cnt _ _).cnt _ _).cnt _ _
  split
  · exact (hcounted _ _ _ _).trans (raiseBit_plain_keepsRequests _ _ _ _)
  · exact hcounted _ _ _ _

/-- A DETOKENIZE does so too. -/
theorem runDetokenize_answers (e : Nat) : ∃ u bytes w, KeepsRequests s u ∧ runDetokenize s e r = engineOut u e r bytes w := by
  simp only [runDetokenize, hctx, hvocab]
  refine ⟨_, _, _, ?_, rfl⟩
  exact ((((cacheUse_keepsRequests s).cnt _ _).cnt _ _).cnt _ _).trans (putCtx_keepsRequests _ _ _)

end

/-- The state in which a request no longer waits. -/
def withoutReq (s : State) (r : TxtReq) : State := { s with txt := { s.txt with waiting := dropReq s.txt.waiting r } }

/-- The request that a free engine takes is answered from the state without it. -/
theorem engineTake_answers {s : State} {e : Nat} {r : TxtReq} {x : TxtCtx} {v : Vocab} (hfree : mapHas s.txt.engines e = false)
    (holdest : takeable s [] s.txt.waiting = some r)
    (hctx : engineCtx (withoutReq s r) r.cmd = some x) (hvocab : vocabOf (withoutReq s r) x.model = some v) :
    ∃ u bytes w, KeepsRequests (withoutReq s r) u ∧ engineTake s e = engineOut u e r bytes w := by
  simp only [engineTake, hfree, holdest, Bool.false_eq_true, if_false]
  split
  · exact runTokenize_answers hctx hvocab e
  · exact runDetokenize_answers hctx hvocab e

/-- A busy engine stands, and so does one for which nothing waits. -/
theorem engineTake_stands {s : State} {e : Nat} (h : mapHas s.txt.engines e = true ∨ takeable s [] s.txt.waiting = none) : engineTake s e = s := by
  unfold engineTake
  split
  · rfl
  · next hfree =>
    rcases h with hbusy | hnone
    · exact absurd hbusy hfree
    · rw [hnone]

/-- The RDMA write of an engine's output, with the completion that follows it. -/
def engineWrite (e : Nat) (r : TxtReq) (bytes : List Byte) (w : Nat × Nat × Nat) : RdmaWrite :=
  { qp := r.cmd.f4 32 16, rkey := r.cmd.f7 0 32, addr := r.cmd.w6.toNat, data := bytes
    use := .engine e { cmd := r.cmd, status := E_OK, c0 := w.1, c1 := w.2.1, c2 := w.2.2 } }

/-- Output is written by RDMA, and the engine waits for it. -/
theorem engineOut_writes {u : State} {e : Nat} {r : TxtReq} {bytes : List Byte} (w : Nat × Nat × Nat) (h : bytes.isEmpty = false) :
    engineOut u e r bytes w = issueWrite { u with txt := { u.txt with engines := mapSet u.txt.engines e r } } (engineWrite e r bytes w) :=
  if_neg (ne_true_of_eq_false h)

/-- A request without output is completed. -/
theorem engineOut_completes {u : State} {e : Nat} {r : TxtReq} {bytes : List Byte} (w : Nat × Nat × Nat) (h : bytes.isEmpty = true) :
    engineOut u e r bytes w = sendCpl u { cmd := r.cmd, status := E_OK, c0 := w.1, c1 := w.2.1, c2 := w.2.2 } :=
  if_pos h

/-! ### Masks (11 R252, R253) -/

/-- The mask of a session for an index, once it is built. -/
theorem maskPut_builds (s : State) (sid idx ns : Nat) (m : List Bool) : ∃ ms, mapGet (maskPut s sid idx ns m).txt.masks sid = some ms ∧
    ms.find? (fun x => x.idx == idx) = some { idx := idx, mask := m } := by
  refine ⟨_, mapGet_mapSet_same _ _ _, ?_⟩
  have hreplaced : (((mapGet s.txt.masks sid).getD []).filter (fun x => x.idx != idx)).find? (fun x => x.idx == idx) = none := by
    simp
  rw [List.find?_append, hreplaced]
  simp

section
variable {s : State} {sid : Nat} {r : Run} {g : Grm} {v : Vocab} {k : GrmCfg} (hsource : maskSource s sid = some (r, g, v, k))
include hsource

/-- The mask of a STEP's index is that of the configuration after the token it follows. -/
theorem maskBuild_step {idx : Nat} {q : GrmCfg} (hop : r.cmd.opcode ≠ 0x12) (hcfg : (cfgRun g v k r.toks)[idx + 1]? = some q) :
    maskBuild s sid idx = maskPut s sid idx (maskNs g v q.st) (maskOfCfg g v q) := by
  simp only [maskBuild, hsource, hop, hcfg, if_false]

/-- The mask of an APPEND's position is that of the start state. -/
theorem maskBuild_append (hop : r.cmd.opcode = 0x12) : maskBuild s sid 0 = maskPut s sid 0 (maskNs g v k.st) (maskOfCfg g v k) := by
  simp only [maskBuild, hsource, hop, if_true]

end

/-! ### The obligation -/

theorem exec_streamEngineTake {e : Nat} (s : State) (he : e < 64) : exec (.streamEngineTake e) s = .next (engineTake s e) :=
  if_neg (Nat.not_le.mpr he)

/-- Settles O29: an engine answers what it takes by a write or by a completion; a mask is built for the configuration before its position. -/
theorem textEngines : Obligations.TextEngines := by
  unfold Obligations.TextEngines
  constructor
  · intro s e he
    rw [exec_streamEngineTake s he]
    refine ⟨fun r x v hfree holdest hctx hvocab => ⟨_, rfl, ?_⟩, fun h => congrArg Outcome.next (engineTake_stands h)⟩
    obtain ⟨u, bytes, w, hkeeps, hanswer⟩ := engineTake_answers hfree holdest hctx hvocab
    rw [hanswer]
    cases hout : bytes.isEmpty
    case false =>
      rw [engineOut_writes w hout]
      refine ⟨hkeeps.waiting, .inl ⟨engineWrite e r bytes w, ?_, congrArg (·.nextIo + 1) hkeeps.lnk, rfl, rfl, mapGet_mapSet_same _ _ _⟩⟩
      exact (congrArg (mapGet _) (congrArg LnkState.nextIo hkeeps.lnk.symm)).trans (mapGet_mapSet_same _ _ _)
    case true =>
      rw [engineOut_completes w hout]
      exact ⟨hkeeps.waiting, .inr ⟨_, congrArg (· ++ [_]) hkeeps.cpls, rfl, rfl, hkeeps.engines⟩⟩
  · intro s sid idx r g v k hsource
    constructor
    · intro q hop hcfg
      exact ⟨_, (maskPut_builds ..).imp fun ms hms => ⟨congrArg Outcome.next (maskBuild_step hsource hop hcfg), hms⟩⟩
    · rintro hop rfl
      exact ⟨_, (maskPut_builds ..).imp fun ms hms => ⟨congrArg Outcome.next (maskBuild_append hsource hop), hms⟩⟩

end Sys2Proof.Machine
end

section
/-! PROOFS. Memory search (12): commands that change an index wait for their commit (12 R265, R283, R286), queries and records become walks (12 R269, R279),
a walk takes a context, and a node read ends (12 R271 to R274). -/

open Host
namespace Sys2Proof.Machine

/-- The row of a command that hand-on takes answers what the command's start does on the state in which its queue counts it. -/
theorem next_submit {s t : State} {c : Cmd} {data : List Byte} {start : Cmd → List Byte → State → State} (h : Taken s c)
    (hstart : start c data (joinQueue s c) = t) : Outcome.next (φ := Fault) (ρ := Refusal) (submit s c data start) = .next t :=
  congrArg Outcome.next ((submit_taken s c data start h).trans hstart)

/-! ### Commands that change an index -/

/-- A MEM_CREATE with a right to its tenant and fields in their ranges (12 R265) waits for its pages. -/
theorem startMemCreate_waits {s : State} {c : Cmd} (data : List Byte) (hright : domTenant s c.dom (c.f2 0 12) = true)
    (hranges : gsxFmt (c.f2 12 4) = true ∧ c.f2 16 2 ≤ 1 ∧ c.f2 20 12 ≠ 0 ∧ 8 ≤ c.f2 32 7 ∧ c.f2 32 7 ≤ 64 ∧ 16 ≤ c.f2 40 9 ∧ c.f2 40 9 ≤ 256)
    (hvector : vecBytes (c.f2 12 4) (c.f2 20 12) ≤ 1536) (hroom : s.mem.idxs.length + s.mem.creates.length < 1024) :
    startMemCreate c data s = { s with mem := { s.mem with creates := s.mem.creates ++ [(c, 0)] } } := by
  obtain ⟨hfmt, hmetric, hdims, hdegree, hdegree', hbuild, hbuild'⟩ := hranges
  have hok : ¬ ((!gsxFmt (c.f2 12 4)) = true ∨ 1 < c.f2 16 2 ∨ c.f2 20 12 = 0 ∨ c.f2 32 7 < 8 ∨ 64 < c.f2 32 7 ∨ c.f2 40 9 < 16 ∨ 256 < c.f2 40 9) := by
    simp only [hfmt, Bool.not_true, Bool.false_eq_true, false_or]
    omega
  -- the checks in the order of `startMemCreate`: right, ranges, vector, count of indexes
  exact (if_neg (by simp [hright])).trans ((if_neg hok).trans ((if_neg (by omega)).trans (if_neg (by omega))))

theorem startMemDrop_known {s : State} {c : Cmd} {x : MemIdx} (data : List Byte) (hx : idxFor s c = some x) :
    startMemDrop c data s = updIdx s (c.f2 0 16) (fun x => { x with dropping := some c }) := by
  simp only [startMemDrop, hx]

theorem startMemDelete_known {s : State} {c : Cmd} {x : MemIdx} (data : List Byte) (hx : idxFor s c = some x) (hcode : memCmdCode s c 65536 = none) :
    startMemDelete c data s = updIdx s (c.f2 0 16) (fun x => { x with dels := x.dels ++ [(c, data)] }) := by
  simp only [startMemDelete, hx, hcode]

/-- A MEM_REPAIR joins the sweep that runs. -/
theorem startMemRepair_joins {s : State} {c : Cmd} {x : MemIdx} {w : MemSweep} (data : List Byte) (hx : idxFor s c = some x) (hw : x.sweep = some w) :
    startMemRepair c data s = updIdx s (c.f2 0 16) (fun x => { x with sweep := x.sweep.map (fun w => { w with cmds := w.cmds ++ [c] }) }) := by
  simp only [startMemRepair, hx, hw]

theorem startMemRepair_starts {s : State} {c : Cmd} {x : MemIdx} (data : List Byte) (hx : idxFor s c = some x) (hw : x.sweep = none) :
    startMemRepair c data s = startSweep s (c.f2 0 16) x [c] := by
  simp only [startMemRepair, hx, hw]

/-- Settles O30: each of the four commands, once hand-on has taken it and its checks have passed, leaves its change to wait. -/
theorem memChangesWait : Obligations.MemChangesWait := by
  unfold Obligations.MemChangesWait
  intro s c data htaken j
  constructor
  · intro hright hfmt hmetric hdims hdegree hdegree' hbuild hbuild' hvector hroom
    exact next_submit htaken (startMemCreate_waits [] hright ⟨hfmt, hmetric, hdims, hdegree, hdegree', hbuild, hbuild'⟩ hvector hroom)
  · intro x hx
    exact ⟨next_submit htaken (startMemDrop_known [] hx), fun hcode => next_submit htaken (startMemDelete_known data hx hcode),
      fun w hw => next_submit htaken (startMemRepair_joins [] hx hw), fun hw => next_submit htaken (startMemRepair_starts [] hx hw)⟩

/-! ### Walks that join the waiting ones -/

@[simp] theorem addWalk_nextWalk (s : State) (w : Walk) : (addWalk s w).mem.nextWalk = s.mem.nextWalk + 1 := rfl
theorem mapGet_addWalk_same (s : State) (w : Walk) : mapGet (addWalk s w).mem.walks s.mem.nextWalk = some w := mapGet_mapSet_same ..
theorem mapGet_addWalk_before {s : State} (w : Walk) {k : Nat} (h : k < s.mem.nextWalk) :
    mapGet (addWalk s w).mem.walks k = mapGet s.mem.walks k := mapGet_mapSet_ne _ _ _ _ (Nat.ne_of_lt h)

/-- Walks take the numbers from the next one on. -/
theorem addWalks_nextWalk (ws : List Walk) (s : State) : (ws.foldl addWalk s).mem.nextWalk = s.mem.nextWalk + ws.length := by
  induction ws generalizing s with
  | nil => rfl
  | cons w ws ih => rw [List.foldl_cons, ih, addWalk_nextWalk, List.length_cons, Nat.add_assoc, Nat.add_comm 1]

/-- Walks that join leave those before them alone. -/
theorem mapGet_addWalks_before (ws : List Walk) (s : State) {k : Nat} (h : k < s.mem.nextWalk) :
    mapGet (ws.foldl addWalk s).mem.walks k = mapGet s.mem.walks k := by
  induction ws generalizing s with
  | nil => rfl
  | cons w ws ih => exact (ih (addWalk s w) (Nat.lt_succ_of_lt h)).trans (mapGet_addWalk_before w h)

/-- The walks that join stand in order. -/
theorem mapGet_addWalks (ws : List Walk) (s : State) {i : Nat} (h : i < ws.length) :
    mapGet (ws.foldl addWalk s).mem.walks (s.mem.nextWalk + i) = some ws[i] := by
  induction ws generalizing s i with
  | nil => exact absurd h (Nat.not_lt_zero i)
  | cons w ws ih =>
    cases i with
    | zero => exact (mapGet_addWalks_before ws (addWalk s w) (Nat.lt_succ_self _)).trans (mapGet_addWalk_same s w)
    | succ i =>
      have hshift : s.mem.nextWalk + (i + 1) = (addWalk s w).mem.nextWalk + i := by rw [addWalk_nextWalk]; omega
      rw [hshift]
      exact ih (addWalk s w) (Nat.lt_of_succ_lt_succ h)

/-- `n` walks that join stand under the `n` next numbers. -/
theorem addWalks_range (f : Nat → Walk) (n : Nat) (s : State) :
    (((List.range n).map f).foldl addWalk s).mem.nextWalk = s.mem.nextWalk + n ∧
    ∀ i, i < n → mapGet (((List.range n).map f).foldl addWalk s).mem.walks (s.mem.nextWalk + i) = some (f i) := by
  constructor
  · simp only [addWalks_nextWalk, List.length_map, List.length_range]
  · intro i hi
    rw [mapGet_addWalks _ _ (by simpa using hi)]
    simp

section
variable {s : State} {c : Cmd} {x : MemIdx} (data : List Byte) (hx : idxFor s c = some x) (hcode : memCmdCode s c 4096 = none)
  (hroom : walksWaiting s + c.f2 16 17 ≤ 65536 + freeContexts s x)
include hx hcode hroom

theorem startMemQuery_walks (hlow : c.f7 0 9 ≠ 0) (hhigh : c.f7 0 9 ≤ 256) :
    startMemQuery c data s = ((List.range (c.f2 16 17)).map (queryWalk x c data)).foldl addWalk s := by
  have hlist : ¬ (c.f7 0 9 = 0 ∨ 256 < c.f7 0 9) := by omega
  simp only [startMemQuery, hx, hcode, if_neg hlist, if_neg (Nat.not_lt.mpr hroom), List.foldl_map]

theorem startMemInsert_walks :
    startMemInsert c data s = ((List.range (c.f2 16 17)).map (fun i => insertWalk x (c.f2 0 16) (insertRec x c data i))).foldl addWalk
      (updIdx s (c.f2 0 16) (fun x' => { x' with recs := x'.recs ++ (List.range (c.f2 16 17)).map (insertRec x c data) })) := by
  simp only [startMemInsert, hx, hcode, if_neg (Nat.not_lt.mpr hroom), List.foldl_map]

end

/-- Settles O31: the walks of a MEM_QUERY and of a MEM_INSERT take the next numbers, one for each query or record. -/
theorem walksAdded : Obligations.WalksAdded := by
  unfold Obligations.WalksAdded
  intro s c data x htaken hx hcode hroom
  exact ⟨fun hlow hhigh => ⟨_, next_submit htaken (startMemQuery_walks data hx hcode hroom hlow hhigh), addWalks_range ..⟩,
    ⟨_, next_submit htaken (startMemInsert_walks data hx hcode hroom), addWalks_range ..⟩⟩

/-! ### A walk takes a context (12 R269, R271) -/

section
variable {s : State} {w : Nat} {x : Walk} {i : MemIdx} (hw : walkOf s w = some x) (hi : idxOf s x.index = some i)
include hw hi

/-- A walk that is not the first to wait for its contexts stands. -/
theorem walkAdmit_waits (hfirst : walkFirst s w (walkUnits s i) = false) : walkAdmit s w = s := by
  simp only [walkAdmit, hw, hi, hfirst, Bool.not_false, Bool.or_true, if_true]

/-- The edges of a version's entries that are dead for a walk that binds to it (12 R269). -/
def deadEntries (i : MemIdx) (m : MemVer) : Nat := m.entries.length - (m.entries.filter (fun e => !deadAt i m e.node e.gen)).length

/-- The first walk takes a context of the unit with the most free ones, binds to its version, and takes the entries that live as its candidates. -/
theorem walkAdmit_binds {k : Nat} {m : MemVer} (hruns : x.ended = false) (hfree : x.ver = none) (huse : x.use ≠ .sweep) (hphase : s.stk.phase ≠ .idle)
    (hfirst : walkFirst s w (walkUnits s i) = true) (hunit : bestUnit s (walkUnits s i) = some k)
    (hver : i.vers.find? (fun m => m.version = (queryVer s x.use).getD i.cur.version) = some m) :
    ∃ q, walkAdmit s w = walkCheck (setWalk (cntI s R.FCH_DEAD_EDGES k (deadEntries i m)) w
      { x with unit := some k, ver := some m.version, queue := q, dead := deadEntries i m }) w m := by
  have hgoes : (x.ended || x.ver.isSome || x.use == .sweep || s.stk.phase == .idle || !walkFirst s w (walkUnits s i)) = false := by
    simp [hruns, hfree, huse, hphase, hfirst]
  have hversion : m.version = (queryVer s x.use).getD i.cur.version := by simpa using List.find?_some hver
  simp only [walkAdmit, hw, hi, hgoes, hunit, hver, Bool.false_eq_true, if_false]
  exact ⟨_, by rw [← hversion]; rfl⟩

end

/-! ### A node read ends (12 R272 to R274, R278) -/

/-- The read of a node that a walk waits for: its own, or one of another walk that it rides on and that no walk has in flight any more. -/
def endingRead (s : State) (x : Walk) (node : Nat) : Option (Nat × Nat × Nat × Bool) :=
  x.flying.find? (fun f => f.1 = node && (f.2.2.2 || !slotFlying s f.2.1 f.2.2.1))

section
variable {s : State} {w node : Nat} {x : Walk} (ok : Bool) (hw : walkOf s w = some x)
include hw

theorem nodeRead_of_none (h : endingRead s x node = none) : nodeRead s w node ok = s := by
  simp only [endingRead] at h
  simp only [nodeRead, hw, Option.bind_some, h]

/-- A read that ends is counted on its channel, a loss is noted, and every walk that rides on it takes the slot. -/
theorem nodeRead_ends {f : Nat × Nat × Nat × Bool} (h : endingRead s x node = some f) :
    let u := cntI s R.FCH_READS_NODE (channelOf s f.2.1) 1
    let r := if ok then slotAt u f.2.1 f.2.2.1 else none
    let v := if ok = false then slotLost u f.2.1 E_FLASH_READ 9 else if r.isNone then slotLost u f.2.1 E_SEAL_AUTH 11 else u
    nodeRead s w node ok =
      (v.mem.walks.filterMap (fun (k, x) => (x.flying.find? (fun g => g.2.1 = f.2.1 && g.2.2.1 = f.2.2.1)).map (fun g => (k, g.1, x.use == .sweep)))).foldl
        (fun t (k, n, sw) => if sw then sweepTake t k n r else walkTake t k n f.2.1 r) v := by
  obtain ⟨n, page, slot, own⟩ := f
  simp only [endingRead] at h
  simp only [nodeRead, hw, Option.bind_some, h]
  cases ok <;> rfl

end

/-- Settles O32: admission of a walk, and the end of a read that it waits for. -/
theorem walkSteps : Obligations.WalkSteps := by
  unfold Obligations.WalkSteps
  intro s w x i hw hi
  refine ⟨fun hfirst => congrArg Outcome.next (walkAdmit_waits hw hi hfirst), ?_, fun node ok h => congrArg Outcome.next (nodeRead_of_none ok hw h),
    fun node ok f h => congrArg Outcome.next (nodeRead_ends ok hw h)⟩
  intro k m hruns hfree huse hphase hfirst hunit hver
  exact (walkAdmit_binds hw hi hruns hfree huse hphase hfirst hunit hver).imp fun q hq => congrArg Outcome.next hq

end Sys2Proof.Machine
end

section
/-! PROOFS. Gather tables (13): who may use one (13 R295), and the commands that join its order (13 R297 to R299, R302). -/

open Host
namespace Sys2Proof.Machine

/-! ### Refusals -/

theorem startGather_unknown {s : State} {c : Cmd} (data : List Byte) (hunknown : gsxOf s (c.f2 0 16) = none) :
    startGather c data s = refuseGsx s c E_GSX_UNKNOWN 0 := by
  simp only [startGather, hunknown]

theorem startScatter_unknown {s : State} {c : Cmd} (data : List Byte) (hunknown : gsxOf s (c.f2 0 16) = none) :
    startScatter c data s = refuseGsx s c E_GSX_UNKNOWN 0 := by
  simp only [startScatter, hunknown]

section
variable {s : State} {c : Cmd} {t : GsxTab} (data : List Byte) (htab : gsxOf s (c.f2 0 16) = some t)
include htab

theorem startGather_denied (hdenied : t.tenant ≠ 0xFFF ∧ domTenant s c.dom t.tenant = false) :
    startGather c data s = refuseGsx s c E_GSX_DENIED 0 := by
  have hno : t.tenant ≠ 0xFFF ∧ (!domTenant s c.dom t.tenant) = true := by simpa using hdenied
  simp only [startGather, htab, if_pos hno]

/-- A SCATTER needs the right to the table's tenant, and into a table of no tenant the plan-load right (13 R295). -/
theorem startScatter_denied (hdenied : (t.tenant ≠ 0xFFF ∧ domTenant s c.dom t.tenant = false) ∨ (t.tenant = 0xFFF ∧ domPlanLoad s c.dom = false)) :
    startScatter c data s = refuseGsx s c E_GSX_DENIED 0 := by
  have hno : (t.tenant ≠ 0xFFF ∧ (!domTenant s c.dom t.tenant) = true) ∨ (t.tenant = 0xFFF ∧ (!domPlanLoad s c.dom) = true) := by
    simpa using hdenied
  simp only [startScatter, htab, if_pos hno]

/-- A table that takes no updates takes no SCATTER. -/
theorem startScatter_rule (hright : (t.tenant ≠ 0xFFF → domTenant s c.dom t.tenant = true) ∧ (t.tenant = 0xFFF → domPlanLoad s c.dom = true))
    (hfixed : t.updatable = false) : startScatter c data s = refuseGsx s c E_GSX_RULE 0 := by
  obtain ⟨htenant, hload⟩ := hright
  have hyes : ¬ ((t.tenant ≠ 0xFFF ∧ (!domTenant s c.dom t.tenant) = true) ∨ (t.tenant = 0xFFF ∧ (!domPlanLoad s c.dom) = true)) := by
    rintro (⟨h, hno⟩ | ⟨h, hno⟩)
    · simp [htenant h] at hno
    · simp [hload h] at hno
  have hbad : (!t.updatable) = true ∨ 6 ≤ c.f2 16 4 ∨ t.auxBytes < auxNeed t (c.f2 16 4) := .inl (by rw [hfixed]; rfl)
  simp only [startScatter, htab, if_neg hyes, if_pos hbad]

end

/-- Settles O33: the refusals of GATHER and SCATTER, table by table. -/
theorem tableDenied : Obligations.TableDenied := by
  unfold Obligations.TableDenied
  intro s c data htaken j
  refine ⟨fun h => ⟨next_submit htaken (startGather_unknown data h), next_submit htaken (startScatter_unknown data h)⟩, fun t ht => ⟨?_, ?_, ?_, ?_⟩⟩
  · intro hten hno
    exact ⟨next_submit htaken (startGather_denied data ht ⟨hten, hno⟩), next_submit htaken (startScatter_denied data ht (.inl ⟨hten, hno⟩))⟩
  · intro hten hno
    exact next_submit htaken (startScatter_denied data ht (.inr ⟨hten, hno⟩))
  · intro hten hyes hfixed
    exact next_submit htaken (startScatter_rule data ht ⟨fun _ => hyes, fun h => absurd h hten⟩ hfixed)
  · intro hten hyes hfixed
    exact next_submit htaken (startScatter_rule data ht ⟨fun h => absurd hten h, fun _ => hyes⟩ hfixed)

/-! ### Commands that join the table's order -/

section
variable {s : State} {c : Cmd} {t : GsxTab} (data : List Byte) (htab : gsxOf s (c.f2 0 16) = some t)
  (hright : t.tenant = 0xFFF ∨ domTenant s c.dom t.tenant = true)
include htab hright

theorem startGather_joins (hqp : qpCheck s c.dom (c.f4 32 16) = none) (hcode : gatherCode c data = none) :
    startGather c data s = joinTable s c data := by
  have hyes : ¬ (t.tenant ≠ 0xFFF ∧ (!domTenant s c.dom t.tenant) = true) := by
    rintro ⟨hten, hno⟩
    simp [hright.resolve_left hten] at hno
  simp only [startGather, htab, if_neg hyes, hqp, hcode]

theorem startScatter_joins (hload : t.tenant = 0xFFF → domPlanLoad s c.dom = true)
    (hrule : t.updatable = true ∧ c.f2 16 4 < 6 ∧ auxNeed t (c.f2 16 4) ≤ t.auxBytes) (hqp : qpCheck s c.dom (c.f4 32 16) = none)
    (hlong : c.f2 32 21 ≤ 1048576) (hsome : c.f2 32 21 ≠ 0) : startScatter c data s = joinTable s c data := by
  have hyes : ¬ ((t.tenant ≠ 0xFFF ∧ (!domTenant s c.dom t.tenant) = true) ∨ (t.tenant = 0xFFF ∧ (!domPlanLoad s c.dom) = true)) := by
    rintro (⟨h, hno⟩ | ⟨h, hno⟩)
    · simp [hright.resolve_left h] at hno
    · simp [hload h] at hno
  have hok : ¬ ((!t.updatable) = true ∨ 6 ≤ c.f2 16 4 ∨ t.auxBytes < auxNeed t (c.f2 16 4)) := by
    obtain ⟨hupd, hop, haux⟩ := hrule
    simp only [hupd, Bool.not_true, Bool.false_eq_true, false_or]
    omega
  simp only [startScatter, htab, if_neg hyes, if_neg hok, hqp, if_neg (Nat.not_lt.mpr hlong), if_neg hsome]

theorem startGsxSeal_joins : startGsxSeal c data s = joinTable s c [] := by
  have hyes : ¬ (t.tenant ≠ 0xFFF ∧ (!domTenant s c.dom t.tenant) = true) := by
    rintro ⟨hten, hno⟩
    simp [hright.resolve_left hten] at hno
  simp only [startGsxSeal, htab, if_neg hyes]

end

/-- Settles O34: the three commands are appended to their table's order. -/
theorem tableOrder : Obligations.TableOrder := by
  unfold Obligations.TableOrder
  intro s c data t htaken ht j joined hright
  have hjoined : ∀ d, Outcome.next (joinTable j c d) = joined d := fun d => congrArg Outcome.next (joinTable_eq j c d)
  refine ⟨fun hqp hcode => ?_, fun hload hupd hop haux hqp hlong hsome => ?_, ?_⟩
  · exact (next_submit htaken (startGather_joins data ht hright hqp hcode)).trans (hjoined data)
  · exact (next_submit htaken (startScatter_joins data ht hright hload ⟨hupd, hop, haux⟩ hqp hlong hsome)).trans (hjoined data)
  · exact (next_submit htaken (startGsxSeal_joins [] ht hright)).trans (hjoined [])

end Sys2Proof.Machine
end

section
/-! PROOFS. Crews (14): CREW (14 R308, R309), fast seats (14 R319), switches and pre-emption (14 R318, R320, R321), and split reports (14 R323 to R325). -/

open Host
namespace Sys2Proof.Machine

/-! ### CREW -/

/-- The crew that a CREW create makes. -/
def newCrew (s : State) (c : Cmd) : Crew :=
  { tenant := c.f3 0 12, model := c.f3 32 32, weight := c.f2 32 16, fast := c.f2 4 1 = 1, isAuto := c.f2 5 1 = 1, split := c.f2 6 1 = 1
    created := s.stk.number, winStart := s.stk.number, seatCmd := if c.f2 4 1 = 1 then some c else none }

/-- The ID that a CREW create names, or the lowest free one. -/
def newCrewId (s : State) (c : Cmd) : Nat := if c.f2 16 16 = 0xFFFF then mapFree s.crw.crews else c.f2 16 16

theorem crewOf_setCrewRec_same (s : State) (k : Nat) (x : Crew) : crewOf (setCrewRec s k x) k = some x := mapGet_mapSet_same ..

section
variable {s : State} {c : Cmd} (data : List Byte)

theorem startCrewCreate_allowed (hallowed : crewCreateCode s c (newCrewId s c) = none) :
    startCrewCreate c data s = if c.f2 4 1 = 1 then setCrewRec s (newCrewId s c) (newCrew s c)
      else stageDone (setCrewRec s (newCrewId s c) (newCrew s c)) { cmd := c, status := E_OK, c0 := newCrewId s c } := by
  simp only [newCrewId] at hallowed
  simp only [startCrewCreate, hallowed, newCrewId, newCrew]

/-- A CREW modify that does not ask for fast seats is staged. -/
theorem startCrewModify_slow {x : Crew} (hcrew : crewOf s (c.f2 16 16) = some x) (hright : domTenant s c.dom x.tenant = true)
    (hweight : c.f2 32 16 ≠ 0) (hslow : c.f2 4 1 = 0) : startCrewModify c data s = stage s (.crewModify (c.f2 16 16) c) := by
  simp [startCrewModify, hcrew, hright, hweight, hslow, firstCode, codeIf]

theorem startCrewDelete_free {x : Crew} (hcrew : crewOf s (c.f2 16 16) = some x) (hright : domTenant s c.dom x.tenant = true)
    (hnamed : crewNamed s (c.f2 16 16) = false) (hcourse : mapHas s.courses (c.f2 16 16) = false) :
    startCrewDelete c data s = stageDone { s with crw := { s.crw with crews := mapErase s.crw.crews (c.f2 16 16) } }
      { cmd := c, status := E_OK, c0 := c.f2 16 16 } := by
  simp only [startCrewDelete, hcrew, hright, hnamed, hcourse, Bool.not_true, Bool.or_self, Bool.false_eq_true, if_false]

end

/-- Settles O35: a create, by the kind of crew; a modify; a delete. -/
theorem crewCommands : Obligations.CrewCommands := by
  unfold Obligations.CrewCommands
  intro s c htaken j id
  refine ⟨fun hallowed => ?_, fun x hcrew hright => ⟨?_, ?_⟩⟩
  · have hstart := next_submit htaken (startCrewCreate_allowed (s := j) [] hallowed)
    by_cases hfast : c.f2 4 1 = 1
    · rw [if_pos hfast] at hstart
      exact ⟨_, newCrew j c, hstart, crewOf_setCrewRec_same .., rfl, rfl, rfl, rfl, fun _ => ⟨if_pos hfast, rfl⟩, fun hslow => by omega⟩
    · rw [if_neg hfast] at hstart
      refine ⟨_, newCrew j c, hstart, ?_, rfl, rfl, rfl, rfl, fun h => absurd h hfast, fun _ => ⟨if_neg hfast, ?_⟩⟩
      · rw [crewOf, stageDone_crw]
        exact crewOf_setCrewRec_same ..
      · rw [stageDone_crw]
        rfl
  · intro hweight hslow
    exact next_submit htaken (startCrewModify_slow [] hcrew hright hweight hslow)
  · intro hnamed hcourse
    exact next_submit htaken (startCrewDelete_free [] hcrew hright hnamed hcourse)

/-! ### What moves bytes of contexts leaves alone -/

/-- A relation that holds along every step of a fold holds along the fold. -/
theorem foldl_rel {α : Type} {R : State → State → Prop} (hrefl : ∀ s, R s s) (htrans : ∀ {s t u}, R s t → R t u → R s u) {f : State → α → State}
    (hstep : ∀ s x, R s (f s x)) (l : List α) (s : State) : R s (l.foldl f s) := by
  induction l generalizing s with
  | nil => exact hrefl s
  | cons x l ih => exact htrans (hstep s x) (ih _)

/-- `t` is `s` but for the blades' records. -/
def BladeOnly (s t : State) : Prop := t = { s with bld := t.bld }

theorem BladeOnly.refl (s : State) : BladeOnly s s := rfl
theorem BladeOnly.trans {s t u : State} (h : BladeOnly s t) (k : BladeOnly t u) : BladeOnly s u := by
  unfold BladeOnly at *; rw [k, h]

theorem exchangePc_bladeOnly (s : State) (n : Nat) : BladeOnly s (exchangePc s n) := by
  refine foldl_rel BladeOnly.refl BladeOnly.trans (fun s g => ?_) _ _
  exact rfl

theorem putResident_bladeOnly (s : State) (p : Plan) (g at_ : Nat) : BladeOnly s (putResident s p g at_) := by
  refine foldl_rel BladeOnly.refl BladeOnly.trans (fun s e => ?_) _ _
  refine foldl_rel BladeOnly.refl BladeOnly.trans (fun s i => ?_) _ _
  dsimp only
  split
  · exact rfl
  · exact BladeOnly.refl s

theorem restoreBlade_bladeOnly (s : State) (c : Ctx) (g at_ : Nat) : BladeOnly s (restoreBlade s c g at_) := by
  unfold restoreBlade
  split
  · exact rfl
  · dsimp only
    split
    · exact BladeOnly.trans (t := { s with bld := _ }) rfl (putResident_bladeOnly _ _ _ _)
    · exact rfl

theorem restorePc_bladeOnly (s : State) (c : Ctx) (n at_ : Nat) : BladeOnly s (restorePc s c n at_) :=
  foldl_rel BladeOnly.refl BladeOnly.trans (fun s g => restoreBlade_bladeOnly s c g at_) _ _

theorem seatIn_bladeOnly (s : State) (n : Nat) (c : Ctx) : BladeOnly s (seatIn s n c) := by
  unfold seatIn
  refine BladeOnly.trans ?_ (exchangePc_bladeOnly _ _)
  split
  · exact BladeOnly.refl s
  · exact restorePc_bladeOnly _ _ _ _

/-- `t` is `s` but for the blades' records, the registers, the bytes of the context store and the transfers made by the switches that run. -/
structure BytesMoved (s t : State) : Prop where
  rest : t = { s with reg := t.reg, bld := t.bld, crw := { s.crw with store := t.crw.store, switches := t.crw.switches } }
  wf : mapWf s.crw.switches = true → mapWf t.crw.switches = true

theorem BytesMoved.refl (s : State) : BytesMoved s s := ⟨rfl, id⟩
theorem BytesMoved.trans {s t u : State} (h : BytesMoved s t) (k : BytesMoved t u) : BytesMoved s u :=
  ⟨by rw [k.rest, h.rest], fun hs => k.wf (h.wf hs)⟩
theorem BladeOnly.bytesMoved {s t : State} (h : BladeOnly s t) : BytesMoved s t := by
  unfold BladeOnly at h
  rw [h]
  exact ⟨rfl, id⟩

theorem updSwitch_bytesMoved (s : State) (lane : Nat) (f : Switch → Switch) :
    BytesMoved s { s with crw := { s.crw with switches := mapUpd s.crw.switches lane f } } := ⟨rfl, mapWf_mapUpd _ _ _⟩

theorem busBytes_bytesMoved (s : State) (n beats : Nat) : BytesMoved s (busBytes s n beats) := ⟨rfl, id⟩

theorem switchBlade_bytesMoved (s : State) (n : Nat) (w : Switch) : BytesMoved s (switchBlade s n w) := by
  have hmoves : ∀ u, BytesMoved u (match w.saveImage with
      | some pass => (match imageOf u pass (n / 64) with | some im => saveBlade u im (n * 128 + movedOf w n) | none => u)
      | none => restoreBlade u (switchCtx u w n) (n * 128 + movedOf w n) 0) := by
    intro u
    split
    · split
      · exact ⟨rfl, id⟩
      · exact BytesMoved.refl u
    · exact (restoreBlade_bladeOnly _ _ _ _).bytesMoved
  exact ((busBytes_bytesMoved s n 2048).trans (hmoves _)).trans (updSwitch_bytesMoved _ _ _)

theorem finishMoves_bytesMoved (s : State) (lane n : Nat) : BytesMoved s (finishMoves s lane n) := by
  refine foldl_rel BytesMoved.refl BytesMoved.trans (fun s _ => ?_) _ _
  split
  · split
    · exact switchBlade_bytesMoved _ _ _
    · exact BytesMoved.refl s
  · exact BytesMoved.refl s

theorem BytesMoved.pcCtx {s t : State} (h : BytesMoved s t) (n : Nat) : pcCtx t n = pcCtx s n := by
  rw [h.rest]; rfl

/-! ### Contexts of pseudo-channels -/

/-- `t` is `s` but for what moving bytes changes and the contexts of the pseudo-channels. -/
structure ContextsMoved (s t : State) : Prop where
  rest : t = { s with reg := t.reg, bld := t.bld, crw := { s.crw with store := t.crw.store, switches := t.crw.switches, pcs := t.crw.pcs } }
  wf : mapWf s.crw.switches = true → mapWf t.crw.switches = true

theorem ContextsMoved.refl (s : State) : ContextsMoved s s := ⟨rfl, id⟩
theorem ContextsMoved.trans {s t u : State} (h : ContextsMoved s t) (k : ContextsMoved t u) : ContextsMoved s u :=
  ⟨by rw [k.rest, h.rest], fun hs => k.wf (h.wf hs)⟩
theorem BytesMoved.contextsMoved {s t : State} (h : BytesMoved s t) : ContextsMoved s t := ⟨by rw [h.rest], h.wf⟩
theorem setPc_contextsMoved (s : State) (n : Nat) (x : PcCtx) : ContextsMoved s (setPc s n x) := ⟨rfl, id⟩

theorem ContextsMoved.crews {s t : State} (h : ContextsMoved s t) : t.crw.crews = s.crw.crews := by rw [h.rest]
theorem ContextsMoved.ses {s t : State} (h : ContextsMoved s t) : t.ses = s.ses := by rw [h.rest]
theorem ContextsMoved.stk {s t : State} (h : ContextsMoved s t) : t.stk = s.stk := by rw [h.rest]
theorem ContextsMoved.tier {s t : State} (h : ContextsMoved s t) : t.tier = s.tier := by rw [h.rest]
theorem ContextsMoved.out {s t : State} (h : ContextsMoved s t) : t.out = s.out := by rw [h.rest]

theorem pcCtx_setPc_same (s : State) (n : Nat) {x : PcCtx} (hx : x ≠ {}) : pcCtx (setPc s n x) n = x := by
  simp only [pcCtx, setPc, if_neg hx, mapGet_mapSet_same, Option.getD_some]

theorem pcCtx_setPc_ne (s : State) {n m : Nat} {x : PcCtx} (hx : x ≠ {}) (h : m ≠ n) : pcCtx (setPc s n x) m = pcCtx s m := by
  simp only [pcCtx, setPc, if_neg hx, mapGet_mapSet_ne _ _ _ _ h]

theorem pcCtx_ne_empty_of_work (c : Ctx) (seat : Option Ctx) : ({ work := some c, seat := seat } : PcCtx) ≠ {} :=
  fun h => nomatch congrArg PcCtx.work h

theorem pcCtx_ne_empty_of_seat (c : Ctx) (work : Option Ctx) : ({ work := work, seat := some c } : PcCtx) ≠ {} :=
  fun h => nomatch congrArg PcCtx.seat h

/-! ### A switch that is over (14 R318, R320) -/

/-- A switch moves bytes and puts its context in the working seat of the pseudo-channel. -/
theorem switchPc_sets (s : State) (lane : Nat) (w : Switch) (n : Nat) :
    ∃ u seat, BytesMoved s u ∧ switchPc s lane w n = setPc u n { work := some (switchCtx s w n), seat := seat } := by
  unfold switchPc
  dsimp only
  split
  · exact ⟨_, _, finishMoves_bytesMoved _ _ _, rfl⟩
  · exact ⟨_, _, (seatIn_bladeOnly _ _ _).bytesMoved, rfl⟩

theorem switchPc_contextsMoved (s : State) (lane : Nat) (w : Switch) (n : Nat) : ContextsMoved s (switchPc s lane w n) := by
  obtain ⟨u, seat, hu, hset⟩ := switchPc_sets s lane w n
  rw [hset]
  exact hu.contextsMoved.trans (setPc_contextsMoved _ _ _)

theorem switchPc_work_same (s : State) (lane : Nat) (w : Switch) (n : Nat) : (pcCtx (switchPc s lane w n) n).work = some (switchCtx s w n) := by
  obtain ⟨u, seat, -, hset⟩ := switchPc_sets s lane w n
  rw [hset, pcCtx_setPc_same _ _ (pcCtx_ne_empty_of_work _ _)]

theorem switchPc_work_ne (s : State) (lane : Nat) (w : Switch) {n m : Nat} (h : m ≠ n) : pcCtx (switchPc s lane w n) m = pcCtx s m := by
  obtain ⟨u, seat, hu, hset⟩ := switchPc_sets s lane w n
  rw [hset, pcCtx_setPc_ne _ (pcCtx_ne_empty_of_work _ _) h, hu.pcCtx]

/-- The context that a switch brings depends on the passes alone. -/
theorem switchCtx_of_stk {s t : State} (h : t.stk = s.stk) (w : Switch) (n : Nat) : switchCtx t w n = switchCtx s w n := by
  simp only [switchCtx, h]

theorem switchPcs_contextsMoved (s : State) (lane : Nat) (w : Switch) (pcs : List Nat) :
    ContextsMoved s (pcs.foldl (fun s n => switchPc s lane w n) s) :=
  foldl_rel ContextsMoved.refl ContextsMoved.trans (fun s n => switchPc_contextsMoved s lane w n) _ _

/-- After the switch has gone through its pseudo-channels, each holds its context, and those that held it before still do. -/
theorem switchPcs_work (lane : Nat) (w : Switch) (pcs : List Nat) (s : State) {n : Nat} (h : n ∈ pcs ∨ (pcCtx s n).work = some (switchCtx s w n)) :
    (pcCtx (pcs.foldl (fun s n => switchPc s lane w n) s) n).work = some (switchCtx s w n) := by
  induction pcs generalizing s with
  | nil => exact h.resolve_left List.not_mem_nil
  | cons m pcs ih =>
    have hsame := switchCtx_of_stk (switchPc_contextsMoved s lane w m).stk w n
    rw [List.foldl_cons, ← hsame]
    refine ih (switchPc s lane w m) ?_
    rw [hsame]
    by_cases hm : n = m
    · exact .inr (hm ▸ switchPc_work_same s lane w m)
    · rw [switchPc_work_ne s lane w hm]
      exact h.imp_left (fun hn => (List.mem_cons.mp hn).resolve_left hm)

theorem switchDone_ends {s : State} {lane : Nat} {w : Switch} (hw : mapGet s.crw.switches lane = some w) (hover : w.strokes = 0) (hfailed : w.failed = []) :
    let u := w.pcs.foldl (fun s n => switchPc s lane w n) s
    switchDone s lane = { u with crw := { u.crw with switches := mapErase u.crw.switches lane } } := by
  have hends : ¬ (w.strokes ≠ 0 ∨ (!w.failed.isEmpty) = true) := by simp [hover, hfailed]
  simp only [switchDone, hw, if_neg hends]

theorem exec_switchDone {lane : Nat} (s : State) (h : lane < 10) : exec (.switchDone lane) s = .next (switchDone s lane) :=
  if_neg (Nat.not_le.mpr h)

/-! ### A fast crew's seats (14 R319) -/

/-- Whether a pseudo-channel holds a program, in its working seat or its standby seat. -/
def holdsProg (x : PcCtx) (want : Ctx) : Bool := x.work.any (sameProg want) || x.seat.any (sameProg want)

theorem sameProg_self (c : Ctx) : sameProg c c = true := by simp [sameProg]

/-- A program comes to the standby seat of a pseudo-channel that does not hold it. -/
def seatPc (want : Ctx) (s : State) (n : Nat) : State :=
  if holdsProg (pcCtx s n) want then s else setPc (restorePc s want n 16384) n { pcCtx s n with seat := some want }

theorem seatPc_contextsMoved (want : Ctx) (s : State) (n : Nat) : ContextsMoved s (seatPc want s n) := by
  unfold seatPc
  split
  · exact ContextsMoved.refl s
  · exact (restorePc_bladeOnly _ _ _ _).bytesMoved.contextsMoved.trans (setPc_contextsMoved _ _ _)

theorem seatPc_holds_same (want : Ctx) (s : State) (n : Nat) : holdsProg (pcCtx (seatPc want s n) n) want = true := by
  unfold seatPc
  split
  · assumption
  · rw [pcCtx_setPc_same _ _ (pcCtx_ne_empty_of_seat _ _)]
    simp [holdsProg, sameProg_self]

theorem seatPc_ne (want : Ctx) (s : State) {n m : Nat} (h : m ≠ n) : pcCtx (seatPc want s n) m = pcCtx s m := by
  unfold seatPc
  split
  · rfl
  · rw [pcCtx_setPc_ne _ (pcCtx_ne_empty_of_seat _ _) h, (restorePc_bladeOnly _ _ _ _).bytesMoved.pcCtx]

theorem seatPcs_contextsMoved (want : Ctx) (pcs : List Nat) (s : State) : ContextsMoved s (pcs.foldl (seatPc want) s) :=
  foldl_rel ContextsMoved.refl ContextsMoved.trans (seatPc_contextsMoved want) _ _

/-- After the seating has gone through its pseudo-channels, each holds the program, and those that held it before still do. -/
theorem seatPcs_holds (want : Ctx) (pcs : List Nat) (s : State) {n : Nat} (h : n ∈ pcs ∨ holdsProg (pcCtx s n) want = true) :
    holdsProg (pcCtx (pcs.foldl (seatPc want) s) n) want = true := by
  induction pcs generalizing s with
  | nil => exact h.resolve_left List.not_mem_nil
  | cons m pcs ih =>
    refine ih (seatPc want s m) ?_
    by_cases hm : n = m
    · exact .inr (hm ▸ seatPc_holds_same want s m)
    · rw [seatPc_ne want s hm]
      exact h.imp_left (fun hn => (List.mem_cons.mp hn).resolve_left hm)

/-- A fast crew that no command waits for is seated. -/
theorem crewSeated_seats {s : State} {k : Nat} {x : Crew} {p : Plan} (hcrew : crewOf s k = some x) (hplan : planOf s x.model = some p)
    (hfast : x.fast = true) (hseated : x.seated = false) (hcmd : x.seatCmd = none) :
    crewSeated s k = setCrewRec ((planPcs p).foldl (seatPc { model := x.model, version := p.hdr.version }) s) k
      { x with seated := true, seatCmd := none } := by
  simp only [crewSeated, hcrew, hplan, hfast, hseated, hcmd, Bool.not_true, Bool.or_self, Bool.false_eq_true, if_false]
  rfl

/-! ### Pre-emption (14 R321) -/

/-- `t` is `s` but for the crews' records, the registers and what waits to leave the device. -/
def CrewOnly (s t : State) : Prop := t = { s with crw := t.crw, reg := t.reg, out := t.out }

theorem CrewOnly.refl (s : State) : CrewOnly s s := rfl
theorem CrewOnly.trans {s t u : State} (h : CrewOnly s t) (k : CrewOnly t u) : CrewOnly s u := by
  unfold CrewOnly at *; rw [k, h]
theorem RegOnly.crewOnly {s t : State} (h : RegOnly s t) : CrewOnly s t := by
  unfold RegOnly CrewOnly at *; rw [h]
theorem CrewOnly.ses {s t : State} (h : CrewOnly s t) : t.ses = s.ses := by rw [h]
theorem CrewOnly.passOf {s t : State} (h : CrewOnly s t) (i : Nat) : passOf t i = passOf s i := by rw [h]; rfl

theorem takeImages_crewOnly {i : Nat} (lanes : List Nat) {s u : State} (h : takeImages s i lanes = some u) : CrewOnly s u := by
  have hstep : ∀ (lanes : List Nat) (o : Option State), lanes.foldl (fun o k => o.bind (fun s => (freeImage s).map (fun im =>
      { s with crw := { s.crw with images := mapSet s.crw.images im (i * 16 + k) } }))) o = some u → ∃ v, o = some v ∧ CrewOnly v u := by
    intro lanes
    induction lanes with
    | nil => exact fun o ho => ⟨u, ho, CrewOnly.refl u⟩
    | cons k lanes ih =>
      intro o ho
      obtain ⟨v, hv, hvu⟩ := ih _ ho
      obtain ⟨r, rfl, hr⟩ := Option.bind_eq_some_iff.mp hv
      obtain ⟨im, -, rfl⟩ := Option.map_eq_some_iff.mp hr
      exact ⟨r, rfl, CrewOnly.trans (t := { r with crw := _ }) rfl hvu⟩
  obtain ⟨v, hv, hvu⟩ := hstep lanes (some s) h
  cases hv
  exact hvu

/-- A switch of a pre-emption begins. -/
theorem beginSwitch_pre_crewOnly (s : State) (lane : Nat) (inc : Ctx) (crew : Nat) (pcs whole : List Nat) (ns wholes : Nat) (image : Option Nat) :
    CrewOnly s (beginSwitch s lane inc crew pcs whole ns wholes image true) := rfl

theorem updCrew_crewOnly (s : State) (k : Nat) (f : Crew → Crew) : CrewOnly s (updCrew s k f) := rfl

/-- The switches of a pre-emption begin, one on each lane of the pass, and its crew is charged for them. -/
def preemptBegun (u : State) (i : Nat) (p : Pass) : State :=
  let lanes := lanesOfPcs p.pcs
  let inc : Ctx := { model := p.model, version := p.version }
  let v := lanes.foldl (fun s k =>
    beginSwitch s k inc p.crew (p.pcs.filter (fun n => n / 64 = k)) (p.pcs.filter (fun n => n / 64 = k)) 557000 1 (some i) true) u
  chargeCrew v p.crew (chargesOf v lanes [] 557000 0)

theorem preemptBegun_crewOnly (u : State) (i : Nat) (p : Pass) : CrewOnly u (preemptBegun u i p) :=
  (foldl_rel CrewOnly.refl CrewOnly.trans (fun s k => beginSwitch_pre_crewOnly s k _ _ _ _ _ _ _) _ _).trans (updCrew_crewOnly _ _ _)

section
variable {s u : State} {i : Nat} {p : Pass} (hp : passOf s i = some p) (hheld : p.held = true) (himage : p.image = none)
  (hfast : (crewOf s p.crew).any (·.fast) = false) (hmax : rdF s R.CREW_CFG_HOLD_MAX ≠ 0)
  (hlong : p.holdStroke + rdF s R.CREW_CFG_HOLD_MAX ≤ s.stk.number) (hfree : ∀ k ∈ lanesOfPcs p.pcs, mapHas s.crw.switches k = false)
  (hroom : takeImages s i (lanesOfPcs p.pcs) = some u)
include hp hheld himage hfast hmax hlong hfree hroom

/-- A pass held for as long as CREW_CFG allows goes to the context store. -/
theorem preempt_saves :
    preempt s i = raiseBit (cnt (updCrew (updPass (preemptBegun u i p) i (fun p => { p with held := false, image := some i })) p.crew
      (fun x => { x with winPreempted := x.winPreempted + 1 })) R.CREW_PREEMPT_COUNT 1) .crew 0 3 .plain := by
  have hlanes : (lanesOfPcs p.pcs).any (fun k => mapHas s.crw.switches k) = false := by
    simp only [List.any_eq_false, Bool.not_eq_true]
    exact hfree
  have hgoes : (!p.held || p.image.isSome || (crewOf s p.crew).any (·.fast) || decide (rdF s R.CREW_CFG_HOLD_MAX = 0) ||
      decide (s.stk.number < p.holdStroke + rdF s R.CREW_CFG_HOLD_MAX) || (lanesOfPcs p.pcs).any (fun k => mapHas s.crw.switches k)) = false := by
    simp [hheld, himage, hfast, hmax, hlong, hlanes]
  simp only [preempt, hp, hgoes, Bool.false_eq_true, if_false, hroom]
  rfl

theorem preempt_keeps : (preempt s i).ses = s.ses ∧ passOf (preempt s i) i = some { p with held := false, image := some i } := by
  have hbegun := (takeImages_crewOnly _ hroom).trans (preemptBegun_crewOnly u i p)
  have htold : ∀ v, CrewOnly v (raiseBit (cnt (updCrew v p.crew (fun x => { x with winPreempted := x.winPreempted + 1 }))
      R.CREW_PREEMPT_COUNT 1) .crew 0 3 .plain) :=
    fun v => (updCrew_crewOnly v _ _).trans ((cnt_only _ _ _).trans (raiseBit_only _ _ _ _ _)).crewOnly
  rw [preempt_saves hp hheld himage hfast hmax hlong hfree hroom]
  constructor
  · rw [(htold _).ses, updPass_ses, hbegun.ses]
  · rw [(htold _).passOf]
    have hpass : mapGet (preemptBegun u i p).stk.passes i = some p := (hbegun.passOf i).trans hp
    simp only [passOf, updPass, mapUpd, hpass, mapGet_mapSet_same]

end

/-! ### Split reports (14 R323 to R325) -/

theorem RegOnly.ite {s t u : State} {p : Prop} [Decidable p] (ht : RegOnly s t) (hu : RegOnly s u) : RegOnly s (if p then t else u) := by
  split <;> assumption

/-- The figures of a crew's next window, with the report of the one that ends. -/
def nextWindow (s : State) (k : Nat) (x : Crew) : Crew :=
  { x with
    report := splitWords k x (decide (x.winStart < s.stk.sl1At + 256) || decide (x.winStart < x.created + 256))
    winStart := catchStroke s / splitLen s * splitLen s, winPasses := 0, winElapsed := 0, winLegs := 0, winDeferred := 0
    winSwitch := 0, winPreempted := 0, causes := [] }

theorem splitEnd_reports {s : State} {k : Nat} {x : Crew} (hcrew : crewOf s k = some x) (hsplit : x.split = true)
    (hover : (x.winStart / splitLen s + 1) * splitLen s ≤ catchStroke s) :
    RegOnly (setCrewRec s k (nextWindow s k x)) (splitEnd s k) := by
  have hgoes : (!x.split || decide (catchStroke s < (x.winStart / splitLen s + 1) * splitLen s)) = false := by simp [hsplit, hover]
  simp only [splitEnd, hcrew, hgoes, Bool.false_eq_true, if_false]
  exact RegOnly.ite (RegOnly.refl _) (raiseBit_only _ _ _ _ _)

theorem RegOnly.crewOf {s t : State} (h : RegOnly s t) (k : Nat) : crewOf t k = crewOf s k := by rw [h]; rfl

/-! ### The obligation -/

/-- Settles O36: a crew is seated, a switch is over, a held pass goes to the context store, a window's report is made. -/
theorem crewEvents : Obligations.CrewEvents := by
  unfold Obligations.CrewEvents
  intro s
  refine ⟨?seated, ?switched, ?preempted, ?reported⟩
  case seated =>
    intro k x p hcrew hplan hfast hseated hcmd
    have hmoved := seatPcs_contextsMoved { model := x.model, version := p.hdr.version } (planPcs p) s
    refine ⟨_, congrArg Outcome.next (crewSeated_seats hcrew hplan hfast hseated hcmd), crewOf_setCrewRec_same .., hmoved.out, hmoved.ses, fun n hn => ?_⟩
    exact seatPcs_holds { model := x.model, version := p.hdr.version } (planPcs p) s (.inl hn)
  case switched =>
    intro lane w hlane hw hover hfailed hwf
    have hmoved := switchPcs_contextsMoved s lane w w.pcs
    rw [exec_switchDone s hlane, switchDone_ends hw hover hfailed]
    exact ⟨_, rfl, mapGet_mapErase_same _ _ (hmoved.wf hwf), hmoved.crews, hmoved.ses, hmoved.tier, hmoved.stk,
      fun n hn => switchPcs_work lane w w.pcs s (.inl hn)⟩
  case preempted =>
    intro i p u hp hheld himage hfast hmax hlong hfree hroom
    obtain ⟨hses, hpass⟩ := preempt_keeps hp hheld himage hfast hmax hlong hfree hroom
    exact ⟨_, _, rfl, hpass, rfl, rfl, hses⟩
  case reported =>
    intro k x hcrew hsplit hover
    have honly := splitEnd_reports hcrew hsplit hover
    exact ⟨_, nextWindow s k x, rfl, (honly.crewOf k).trans (crewOf_setCrewRec_same ..), rfl, rfl, rfl, rfl, honly.quiet.ses⟩

end Sys2Proof.Machine
end

section
/-! PROOFS. The queue of commands and hand-on (15 R342 to R345; 22 R473), and the host link's commands: queue pairs (15 R350, 16 R356), FEATHER, WAKE and NOP (15 R334,
R344; 22 R474). -/

open Host
namespace Sys2Proof.Machine

/-! ### The state after reset, the queue of commands, events -/

/-- Settles O2: after reset one register word is listed, and neither a byte of Tier H nor an event. -/
theorem resetCanon : Obligations.ResetCanon := by
  unfold Obligations.ResetCanon
  exact ⟨rfl, rfl, rfl, rfl⟩

theorem step_of_front {s : State} {i : Instr} {rest : List Instr} (h : s.pending = i :: rest) : step s = exec i { s with pending := rest } := by
  simp only [step, h]

theorem step_of_empty {s : State} (h : s.pending = []) : step s = .next s := by
  simp only [step, h]

/-- Settles O13. -/
theorem stepRunsFront : Obligations.StepRunsFront := fun _ _ _ => step_of_front

/-- Settles O14: an empty queue gives a step nothing to run (assumption 1). -/
theorem stepIdles : Obligations.StepIdles := fun _ => step_of_empty

section
variable {s : State} {d : Nat} (r : EvRec)

theorem pushEvent_room (h : ((mapGet s.out.evq d).getD []).length < 4096) :
    pushEvent s d r = { s with out := { s.out with
      evq := mapSet s.out.evq d ((mapGet s.out.evq d).getD [] ++ [{ r with stroke := s.stk.number }]) } } := if_pos h

/-- At 4,096 records the oldest is dropped, and its loss is counted for the domain and in its register. -/
theorem pushEvent_full (h : 4096 ≤ ((mapGet s.out.evq d).getD []).length) :
    pushEvent s d r = cntB { s with out := { s.out with
      evq := mapSet s.out.evq d (((mapGet s.out.evq d).getD []).drop 1 ++ [{ r with stroke := s.stk.number }])
      evLost := mapSet s.out.evLost d ((mapGet s.out.evLost d).getD 0 + 1) } } R.BWP_DOM_EVT_LOST d 1 := if_neg (Nat.not_lt.mpr h)

/-- A record joins no other domain's queue. -/
theorem mapGet_evq_pushEvent_ne {e : Nat} (h : e ≠ d) : mapGet (pushEvent s d r).out.evq e = mapGet s.out.evq e := by
  rcases Nat.lt_or_ge ((mapGet s.out.evq d).getD []).length 4096 with hroom | hfull
  · rw [pushEvent_room r hroom]
    exact mapGet_mapSet_ne _ _ _ _ h
  · rw [pushEvent_full r hfull]
    exact mapGet_mapSet_ne _ _ _ _ h

end

/-- Settles O10: the two sides of 4,096 records, and the queues of other domains. -/
theorem eventQueued : Obligations.EventQueued := by
  unfold Obligations.EventQueued
  intro s d r _ q t
  refine ⟨fun hroom => ?_, fun hfull => ?_, fun e he => mapGet_evq_pushEvent_ne r he⟩
  · rw [show t = _ from pushEvent_room r hroom]
    exact ⟨mapGet_mapSet_same .., rfl⟩
  · rw [show t = _ from pushEvent_full r hfull]
    exact ⟨mapGet_mapSet_same .., mapGet_mapSet_same ..⟩

/-! ### Hand-on -/

/-- Every row that hands a command on submits it, each with its own start. -/
theorem exec_of_hostCmd {i : Instr} {c : Cmd} {data : List Byte} (s : State) (h : hostCmd i = some (c, data)) :
    ∃ start, exec i s = .next (submit s c data start) := by
  cases i <;> cases h <;> exact ⟨_, rfl⟩

/-- A command that hand-on refuses completes with its code. -/
theorem exec_refused {i : Instr} {c : Cmd} {data : List Byte} {s : State} {e : Nat} (h : hostCmd i = some (c, data)) (he : handOnCode s c = some e) :
    exec i s = .next (refuseHand (joinQueue s c) c e) := by
  obtain ⟨start, hrow⟩ := exec_of_hostCmd s h
  rw [hrow, submit_refused s c data start e he]

/-- A command with a fence does not start behind an earlier command of its queue. -/
theorem fenceOk_of_earlier {s : State} {c d : Cmd} {ds : List Cmd} (hfence : c.fence = true) (hqueue : mapGet s.out.outst (queueKey c) = some (d :: ds))
    (hd : d ≠ c) : fenceOk (joinQueue s c) c = false := by
  have hjoined : mapGet (joinQueue s c).out.outst (queueKey c) = some (d :: ds ++ [c]) := by
    simp only [joinQueue, hqueue, mapGet_mapSet_same, Option.getD_some]
  simp [fenceOk, hfence, hjoined, hd]

theorem submit_fenced {s : State} {c : Cmd} (data : List Byte) (start : Cmd → List Byte → State → State) (h : handOnCode s c = none)
    (hfence : fenceOk (joinQueue s c) c = false) :
    submit s c data start = { joinQueue s c with out := { (joinQueue s c).out with fenced := s.out.fenced ++ [(c, some data)] } } := by
  simp only [submit, h, hfence, Bool.false_eq_true, if_false]
  rfl

/-- Settles O5: every row of a host command submits it, and what hand-on refuses or a fence holds back does not start. That the refusal stands in the page of the code is
assumption 51. -/
theorem handOn_refuses_or_waits : Obligations.HandOn := by
  unfold Obligations.HandOn
  constructor
  · intro i c data s e hi he
    rw [exec_refused hi he]
    constructor <;> intro horder <;> simp only [refuseHand, horder, if_true, Bool.false_eq_true, if_false]
  · intro i c data s hi hnone hfence hearlier
    obtain ⟨d, ds, hqueue, hd⟩ := hearlier
    obtain ⟨start, hrow⟩ := exec_of_hostCmd s hi
    exact ⟨_, hrow.trans (congrArg Outcome.next (submit_fenced data start hnone (fenceOk_of_earlier hfence hqueue hd))), rfl⟩

/-! ### Queue pairs -/

/-- The queue pair that QP_CREATE makes; its number on the wire is the next free value (assumption 6). -/
def newQp (s : State) (c : Cmd) : Qp :=
  { dom := c.dom, qpn := (Config.freeWord s.freeCtr).toNat % 2 ^ 24, remoteQpn := c.f2 0 24, iface := c.f2 24 2, pmtu := c.f2 26 2
    notify := bitOf c.w2.toNat 28, egq := c.f2 32 6, ackTimeout := c.f2 40 5, gidLo := c.w3.toNat, gidHi := c.w4.toNat, sqPsn := c.f5 0 24
    rqPsn := c.f5 32 24, nextHop := c.f6 0 48, pkey := if c.f7 0 16 = 0 then 0xFFFF else c.f7 0 16 }

/-- The state in which the new queue pair stands, at the lowest free index (assumption 8). -/
def qpMade (s : State) (c : Cmd) : State :=
  { s with freeCtr := s.freeCtr + 1, lnk := { s.lnk with qps := mapSet s.lnk.qps (mapFree s.lnk.qps) (newQp s c) } }

section
variable {s : State} {c : Cmd} (data : List Byte)

theorem startQpCreate_makes (hroom : s.lnk.qps.length < 4096) (hmtu : c.f2 26 2 ≠ 3) (htimeout : c.f2 40 5 ≠ 0) (htimeout' : c.f2 40 5 ≤ 20)
    (hqueue : queueIface s (c.f2 24 2 / 2) (c.f2 32 6) = c.f2 24 2) :
    startQpCreate c data s = stageDone (qpMade s c) { cmd := c, status := E_OK, c0 := (newQp s c).qpn + mapFree s.lnk.qps * 2 ^ 32 } := by
  have hok : ¬ (c.f2 26 2 = 3 ∨ c.f2 40 5 = 0 ∨ 20 < c.f2 40 5 ∨ queueIface s (c.f2 24 2 / 2) (c.f2 32 6) ≠ c.f2 24 2) := by omega
  simp only [startQpCreate, if_neg (Nat.not_le.mpr hroom), if_neg hok]
  rfl

theorem startQpCreate_invalid (hroom : s.lnk.qps.length < 4096) (hqueue : queueIface s (c.f2 24 2 / 2) (c.f2 32 6) ≠ c.f2 24 2) :
    startQpCreate c data s = refuseLink s c E_QP_INVALID := by
  have hbad : c.f2 26 2 = 3 ∨ c.f2 40 5 = 0 ∨ 20 < c.f2 40 5 ∨ queueIface s (c.f2 24 2 / 2) (c.f2 32 6) ≠ c.f2 24 2 := .inr (.inr (.inr hqueue))
  simp only [startQpCreate, if_neg (Nat.not_le.mpr hroom), if_pos hbad]

theorem startQpDestroy_closes {x : Qp} (hqp : qpOf s (c.f2 0 16) = some x) (hdom : x.dom = c.dom) (hopen : x.closing = none) :
    startQpDestroy c data s = qpClose (updQp s (c.f2 0 16) (fun x => { x with closing := some c })) (c.f2 0 16) := by
  have hok : ¬ (x.dom ≠ c.dom ∨ x.closing.isSome = true) := by simp [hdom, hopen]
  simp only [startQpDestroy, hqp, if_neg hok]

end

/-- Settles O37: QP_CREATE with an egress queue of its interface and with another one, and QP_DESTROY. -/
theorem queuePairs : Obligations.QueuePairs := by
  unfold Obligations.QueuePairs
  intro s c htaken j
  refine ⟨fun hroom hmtu htimeout htimeout' hqueue => ?_, fun hroom hqueue => next_submit htaken (startQpCreate_invalid [] hroom hqueue),
    fun x hqp hdom hopen => next_submit htaken (startQpDestroy_closes [] hqp hdom hopen)⟩
  refine ⟨_, newQp j c, { cmd := c, status := E_OK, c0 := (newQp j c).qpn + mapFree s.lnk.qps * 2 ^ 32 },
    next_submit htaken (startQpCreate_makes [] hroom hmtu htimeout htimeout' hqueue), ?_, rfl, rfl, rfl, rfl, rfl, rfl, rfl, rfl,
    rfl, rfl, ?_, rfl, rfl, rfl⟩
  · rw [stageDone_lnk]
    exact mapGet_mapSet_same ..
  · rw [stageDone_lnk]
    rfl

/-! ### FEATHER, WAKE and NOP -/

section
variable {s : State} {c : Cmd} (data : List Byte)

theorem startFeather_waits (hright : domRegWrite s c.dom = true) : startFeather c data s = waitBind s c := if_neg (by simp [hright])
theorem startFeather_denied (hright : domRegWrite s c.dom = false) :
    startFeather c data s = finishCmd (recordErr s .sec 0 0 E_SEC_RIGHT) c E_SEC_RIGHT := if_pos (by simp [hright])
theorem startWake_waits (hrun : s.stk.phase ≠ .idle) : startWake c data s = waitBind s c := if_neg hrun
theorem startWake_idle (hidle : s.stk.phase = .idle) : startWake c data s = finishCmd s c E_OK := if_pos hidle
theorem startNop_waits (hrun : s.stk.phase ≠ .idle) : startNop c data s = waitBind s c := if_neg hrun
theorem startNop_idle (hidle : s.stk.phase = .idle) : startNop c data s = finishCmd s c E_OK := if_pos hidle

end

/-- Settles O38: each of the three waits for its binding catch; without strokes WAKE and NOP complete at once (assumption 64). -/
theorem linkCommandsBind : Obligations.LinkCommandsBind := by
  unfold Obligations.LinkCommandsBind
  intro s c htaken j bound
  exact ⟨fun hright => next_submit htaken (startFeather_waits [] hright), fun hright => next_submit htaken (startFeather_denied [] hright),
    fun hrun => ⟨next_submit htaken (startWake_waits [] hrun), next_submit htaken (startNop_waits [] hrun)⟩,
    fun hidle => ⟨next_submit htaken (startWake_idle [] hidle), next_submit htaken (startNop_idle [] hidle)⟩⟩

end Sys2Proof.Machine
end

section
/-! PROOFS. BWP: frames of associations (15 R336 to R341) and the timers of an association (15 R340, R341). -/

open Host
namespace Sys2Proof.Machine

/-! ### Frames -/

/-- A frame that must be encrypted is: it is not dropped as a plain one (20 R436). -/
theorem notPlain {s : State} {d : Nat} {f : BwpFrame} (h : encNeeded s d = true → f.enc = true) : (encNeeded s d && !f.enc) = false := by
  cases hneeded : encNeeded s d with
  | false => rfl
  | true => rw [h hneeded]; rfl

theorem frameRx_unserved {s : State} {iface : Nat} {f : BwpFrame} (h : linkUp s iface = false ∨ s.pwr.water.isSome ∨ frameOk s f = false) :
    frameRx s iface f = s := by
  have hskip : (!linkUp s iface || s.pwr.water.isSome || !frameOk s f) = true := by
    rcases h with h | h | h <;> simp [h]
  exact if_pos hskip

section
variable {s : State} {iface : Nat} {f : BwpFrame} (hlink : linkUp s iface = true) (hwater : s.pwr.water = none) (hok : frameOk s f = true)
include hlink hwater hok

/-- A frame that keeps the limits is served by its type. -/
theorem frameRx_served : frameRx s iface f = if f.ty = 0x09 then helloFrame s iface f else
    match openAssoc s f.assoc with
    | none => s
    | some a => if a.ip = f.srcIp ∧ a.port = f.srcPort ∧ a.iface = iface then assocFrame s a f else s :=
  if_neg (by simp [hlink, hwater, hok])

theorem frameRx_hello {d : Nat} {p : List Byte} (hty : f.ty = 0x09) (hdom : helloDom s f = some (d, p)) (henc : encNeeded s d = true → f.enc = true) :
    frameRx s iface f = helloTake s iface f d p := by
  rw [frameRx_served hlink hwater hok, if_pos hty]
  simp only [helloFrame, hdom, notPlain henc, Bool.false_eq_true, if_false]

theorem frameRx_assoc {a : Assoc} (hty : f.ty ≠ 0x09) (hopen : openAssoc s f.assoc = some a) (hip : a.ip = f.srcIp) (hport : a.port = f.srcPort)
    (hiface : a.iface = iface) : frameRx s iface f = assocFrame s a f := by
  rw [frameRx_served hlink hwater hok, if_neg hty, hopen]
  exact if_pos ⟨hip, hport, hiface⟩

end

section
variable {s : State} {a : Assoc} {f : BwpFrame} {p : List Byte} (hkey : openFrame a.key f = some p) (henc : encNeeded s a.dom = true → f.enc = true)
include hkey henc

/-- An ACK is answered where it asks for it. -/
theorem assocFrame_ack (hty : f.ty = 0x08) :
    assocFrame s a f = if f.acknow then sendAck (takeAck s a.id f.ack f.sack) a.id else takeAck s a.id f.ack f.sack := by
  simp only [assocFrame, hkey, notPlain henc, hty, Bool.false_eq_true, if_false, if_true]

/-- Any other frame is taken in sequence. -/
theorem assocFrame_seq {b : Assoc} (hty : f.ty ≠ 0x08) (hopen : openAssoc (takeAck s a.id f.ack f.sack) a.id = some b) :
    assocFrame s a f = seqFrame (takeAck s a.id f.ack f.sack) b { f with payload := p } := by
  simp only [assocFrame, hkey, notPlain henc, hty, hopen, Bool.false_eq_true, if_false]

end

theorem bwpRow_runs {iface : Nat} (s : State) (f : BwpFrame) (h : iface < 4) : bwpRow s iface f = .next (linkPump (frameRx s iface f)) :=
  if_neg (Nat.not_le.mpr h)

/-- Settles O44: each of the four rows receives its frame, and what waits to leave then becomes frames. -/
theorem bwpFrames : Obligations.BwpFrames := by
  unfold Obligations.BwpFrames
  intro s iface f hiface rows r hr g hg
  have hrow : exec r.1 s = .next (linkPump (frameRx s iface g)) := by
    rw [hg]
    simp only [rows, List.mem_cons, List.not_mem_nil, or_false] at hr
    rcases hr with rfl | rfl | rfl | rfl <;> exact bwpRow_runs s _ hiface
  have hpumped : ∀ {t}, frameRx s iface g = t → exec r.1 s = .next (linkPump t) := fun ht => hrow.trans (ht ▸ rfl)
  refine ⟨fun hskip => hpumped (frameRx_unserved hskip), fun hlink hwater hok => ⟨?_, ?_⟩⟩
  · intro d p hty hdom henc
    exact hpumped (frameRx_hello hlink hwater hok hty hdom henc)
  · intro a p hty hopen hip hport hif hkey henc t
    have hassoc := frameRx_assoc hlink hwater hok hty hopen hip hport hif
    refine ⟨fun hack hnow => hpumped ?_, fun hack hnow => hpumped ?_, fun b hseq hb => hpumped ?_⟩
    · rw [hassoc, assocFrame_ack hkey henc hack, if_pos hnow]
    · rw [hassoc, assocFrame_ack hkey henc hack, if_neg (by simp [hnow])]
    · rw [hassoc, assocFrame_seq hkey henc hseq hb]

/-! ### Timers -/

section
variable {s : State} {id : Nat} {a : Assoc}

theorem lingerAssoc_open (cause : Nat) (hopen : openAssoc s id = some a) :
    lingerAssoc s id cause = sendEvent (updAssoc (purgeAssoc s id) id (fun a => { a with st := .lingering, held := [], ackDue := false }))
      (pageOf .bwp 0) EV_BWP_CLOSED [id + cause * 2 ^ 32] [a.dom] := by
  simp only [lingerAssoc, hopen]

/-- A frame that has left and is not acknowledged is sent again until its tries are used up. -/
theorem retransmit_frame {seq : Nat} {f : DevFrame} (hopen : openAssoc s id = some a) (hframe : a.unacked.find? (fun f => f.seq == seq) = some f)
    (hleft : frameQueued s id f = false) :
    retransmit s id seq = if rdF s R.BWP_CFG_RETRIES ≤ f.retries then lingerAssoc s id 1 else
      resend (updAssoc s id (fun a => { a with
        unacked := a.unacked.map (fun g => if g.seq = seq then { g with retries := g.retries + 1 } else g) })) a f := by
  simp only [retransmit, hopen, hframe, hleft, Bool.false_eq_true, if_false]

theorem exec_bwpAckDelay_due (hopen : openAssoc s id = some a) (hdue : a.ackDue = true) :
    exec (.bwpAckDelay id) s = .next (updAssoc (sendAck s id) id (fun a => { a with ackDue := false })) :=
  congrArg Outcome.next (if_pos (by simp [hopen, hdue]))

theorem exec_bwpLingerExpiry_lingering (hassoc : assocOf s id = some a) (hst : a.st = .lingering) :
    exec (.bwpLingerExpiry id) s = .next (dropAssoc s id) :=
  congrArg Outcome.next (if_pos (by simp [hassoc, hst]))

/-- An association that ends counts what it still held as lost. -/
theorem dropAssoc_known (hassoc : assocOf s id = some a) :
    let t := cnt (purgeAssoc s id) R.BWP_STAT_LOST (heldWork a)
    dropAssoc s id = { t with lnk := { t.lnk with assocs := t.lnk.assocs.filter (fun e => e.2.id != id) } } := by
  simp only [dropAssoc, hassoc]

end

/-- Settles O45: the four timers of an association. -/
theorem associationTimers : Obligations.AssociationTimers := by
  unfold Obligations.AssociationTimers
  intro s id a
  refine ⟨fun hopen seq f hframe hleft => ⟨fun hout => ?_, fun hagain => ?_⟩, fun hopen => ⟨exec_bwpAckDelay_due hopen, ?_⟩, fun hassoc hst => ?_⟩
  · exact congrArg Outcome.next ((retransmit_frame hopen hframe hleft).trans (if_pos hout))
  · exact congrArg Outcome.next ((retransmit_frame hopen hframe hleft).trans (if_neg (Nat.not_le.mpr hagain)))
  · exact congrArg Outcome.next (lingerAssoc_open 2 hopen)
  · rw [exec_bwpLingerExpiry_lingering hassoc hst, dropAssoc_known hassoc]

end Sys2Proof.Machine
end

section
/-! PROOFS. The Ethernet ports (15 R328 to R332): frames for the interface itself, MKA, the link; and what an interface sends (16 R357, R359, R363; 15 R331). -/

open Host
namespace Sys2Proof.Machine

/-! ### Frames for the interface itself (15 R330, R331) -/

/-- A frame that the port accepts (15 R330): of a legal length, whole, with the interface's VLAN tag. -/
def ethWhole (s : State) (i : Nat) (f : EthFrame) : Bool :=
  decide (64 ≤ f.len) && decide (f.len ≤ 9216) && f.fcsOk && !f.fragment && !f.extHeader && vlanOk s i f

section
variable {s : State} {i : Nat} {f : EthFrame} (hlink : linkUp s i = true) (hwater : s.pwr.water = none)
include hlink hwater

theorem ethRx_malformed (h : f.len < 64 ∨ 9216 < f.len ∨ f.fcsOk = false ∨ f.fragment = true ∨ f.extHeader = true ∨ vlanOk s i f = false) :
    ethRx s i f = cntPort s R.PORT_DROP_FRAME i 1 := by
  have hserves : ¬ (!linkUp s i || s.pwr.water.isSome) = true := by simp [hlink, hwater]
  have hbad : (decide (f.len < 64) || decide (9216 < f.len) || !f.fcsOk || f.fragment || f.extHeader || !vlanOk s i f) = true := by
    rcases h with h | h | h | h | h | h <;> simp [h]
  exact (if_neg hserves).trans (if_pos hbad)

/-- A whole frame that comes under MACsec where it must, and only where a key stands, is served. -/
theorem ethRx_accepted (hwhole : ethWhole s i f = true) (hplain : f.secured = false → rdPort s R.PORT_CFG_MACSEC_REQ i ≠ 1)
    (hsecured : f.secured = true → rdPort s R.PORT_CFG_MACSEC_EN i = 1 ∧ mapHas s.lnk.mkaKeys i = true) : ethRx s i f = ethServe s i f := by
  have hserves : ¬ (!linkUp s i || s.pwr.water.isSome) = true := by simp [hlink, hwater]
  have hgood : ¬ (decide (f.len < 64) || decide (9216 < f.len) || !f.fcsOk || f.fragment || f.extHeader || !vlanOk s i f) = true := by
    simp only [ethWhole, Bool.and_eq_true, decide_eq_true_eq, Bool.not_eq_true'] at hwhole
    obtain ⟨⟨⟨⟨⟨hlow, hhigh⟩, hfcs⟩, hfrag⟩, hext⟩, hvlan⟩ := hwhole
    simp [hlow, hhigh, hfcs, hfrag, hext, hvlan]
  have hasked : ¬ (!f.secured && decide (rdPort s R.PORT_CFG_MACSEC_REQ i = 1) && f.body != .eapol) = true := by
    cases hs : f.secured with
    | false => simp [hplain hs]
    | true => simp
  have hkeyed : ¬ (f.secured && !(decide (rdPort s R.PORT_CFG_MACSEC_EN i = 1) && mapHas s.lnk.mkaKeys i)) = true := by
    cases hs : f.secured with
    | false => simp
    | true => simp [hsecured hs]
  -- the checks in the order of `ethRx`: the link, the frame, plain where MACsec is asked for, MACsec without a key
  exact (if_neg hserves).trans ((if_neg hgood).trans ((if_neg hasked).trans (if_neg hkeyed)))

end

section
variable {s : State} {i : Nat} {f : EthFrame}

theorem ethServe_arp {t mac ip : Nat} (hbody : f.body = .arp t mac ip) (hset : rdPort s R.PORT_IPV4 i ≠ 0) (hown : t = rdPort s R.PORT_IPV4 i) :
    ethServe s i f = sendControl s i (.arpReply mac ip) := by
  simp only [ethServe, hbody]
  exact if_pos ⟨hset, hown⟩

theorem ethServe_neighbour {t mac ip : Nat} (hbody : f.body = .neighbour t mac ip) (hset : portIpv6 s i ≠ 0) (hown : t = portIpv6 s i) :
    ethServe s i f = sendControl s i (.neighbourReply mac ip) := by
  simp only [ethServe, hbody]
  exact if_pos ⟨hset, hown⟩

theorem ethServe_pause {q : Nat} (hbody : f.body = .pause q) (hpfc : rdPort (cntPort s R.PORT_PAUSE_RX i 1) R.PORT_CFG_PFC_EN i ≠ 1) :
    ethServe s i f = updIface (cntPort s R.PORT_PAUSE_RX i 1) i (fun x => { x with paused := if q = 0 then [] else List.range 8 }) := by
  simp only [ethServe, hbody]
  exact if_neg hpfc

theorem ethServe_pfc {en : Nat} {qs : List Nat} (hbody : f.body = .pfc en qs) (hpfc : rdPort (cntPort s R.PORT_PAUSE_RX i 1) R.PORT_CFG_PFC_EN i = 1) :
    ethServe s i f = (onesOf 8 en).foldl (fun s p => updIface s i (fun x => { x with
      paused := if qs.getD p 0 = 0 then setDel x.paused p else setAdd x.paused p })) (cntPort s R.PORT_PAUSE_RX i 1) := by
  simp only [ethServe, hbody]
  exact if_pos hpfc

end

/-! ### MKA (15 R332) -/

/-- A secure association key is installed on an interface. -/
def keyInstalled (s : State) (i k : Nat) : State :=
  wrPort { s with lnk := { s.lnk with mkaKeys := mapSet s.lnk.mkaKeys i k } } R.PORT_STATUS_SECURE i 1

/-- What an MKA message installs: the key server's key, or one of the device's own where its priority is the better one and no key stands. -/
def mkaInstalls (s : State) (i : Nat) (m : MkaMsg) : State :=
  if rdPort s R.PORT_MKA_KS_PRIO i < m.keyServerPrio then
    if mapHas s.lnk.mkaKeys i then s else keyInstalled { s with freeCtr := s.freeCtr + 1 } i (Config.freeWord s.freeCtr).toNat
  else match m.sak with
    | some k => keyInstalled s i k
    | none => s

theorem mkaRx_answers {s : State} {i : Nat} {m : MkaMsg} (hlink : linkUp s i = true) (hon : rdPort s R.PORT_CFG_MACSEC_EN i = 1)
    (hauth : m.authentic = true) : mkaRx s i m = sendControl (mkaInstalls s i m) i .mka := by
  have hserves : ¬ (!linkUp s i || rdPort s R.PORT_CFG_MACSEC_EN i != 1 || !m.authentic) = true := by simp [hlink, hon, hauth]
  exact if_neg hserves

/-! ### The link (15 R328) -/

theorem linkDown_up {s : State} {i : Nat} (h : linkUp s i = true) :
    linkDown s i = raiseBit (updIface (wrPort (wrPort s R.PORT_STATUS_LINK i 0) R.PORT_STATUS_SPEED i 0) i
      (fun x => { x with paused := [], wire := none })) .port (i / 2) 2 (.tied EV_PORT_LINK [i % 4]) := if_neg (by simp [h])

theorem linkDown_down {s : State} {i : Nat} (h : linkUp s i = false) : linkDown s i = s := if_pos (by simp [h])

theorem linkTrained_up {s : State} {i : Nat} (h : linkUp s i = true) : linkTrained s i = s := if_pos (by simp [h])

/-- Whether the port of an interface trains in breakout mode. -/
def trainsSplit (s : State) (i : Nat) : Bool := !oneLane s && bitOf (rdF s R.PORTG_CFG_BREAKOUT) (i / 2)

/-- The mode for which the port of an interface trains (15 Table 15-1). -/
def trainSpeed (s : State) (i : Nat) : Nat := if oneLane s then 1 else if trainsSplit s i then 2 else 3

/-- An interface whose link has come up, told to the domains. -/
def linkRaised (s : State) (i : Nat) : State :=
  raiseBit (updIface (wrPort (wrPort { s with lnk := { s.lnk with
      breakout := if trainsSplit s i then s.lnk.breakout ||| 2 ^ (i / 2) else s.lnk.breakout &&& (3 - 2 ^ (i / 2)) } }
    R.PORT_STATUS_LINK i 1) R.PORT_STATUS_SPEED i (trainSpeed s i)) i (fun x => { x with v := 0 })) .port (i / 2) 2
    (.tied EV_PORT_LINK [i + 2 ^ 8 + trainSpeed s i * 2 ^ 9])

/-- Telling a link keeps the interfaces that are awaited. -/
theorem linkRaised_retrain (s : State) (i : Nat) : (linkRaised s i).lnk.retrain = s.lnk.retrain := by
  rw [linkRaised, (raiseBit_only ..).quiet.lnk]
  rfl

theorem linkTrained_raises {s : State} {i : Nat} (hdown : linkUp s i = false) (hboot : s.boot.sl0 = true)
    (hon : rdPort s R.PORT_CFG_ENABLE i = 1) (hsplit : i % 2 = 1 → trainsSplit s i = true) (hawaited : s.lnk.retrain = []) :
    linkTrained s i = linkRaised s i := by
  have htrains : ¬ (linkUp s i || !s.boot.sl0 || rdPort s R.PORT_CFG_ENABLE i != 1 || (decide (i % 2 = 1) && !trainsSplit s i)) = true := by
    simp only [hdown, hboot, hon, Bool.not_true, Bool.or_false, bne_self_eq_false, Bool.false_or, Bool.and_eq_true, decide_eq_true_eq,
      Bool.not_eq_true', not_and, Bool.not_eq_false]
    exact hsplit
  have hnone : ¬ (linkRaised s i).lnk.retrain.contains i = true := by simp [linkRaised_retrain, hawaited]
  exact (if_neg htrains).trans (if_neg hnone)

/-! ### The obligation of the ports -/

section
variable {s : State} {i : Nat} (hi : i < 4)
include hi

theorem exec_ethFrameRx (f : EthFrame) : exec (.ethFrameRx i f) s = .next (ethRx s i f) := if_neg (Nat.not_le.mpr hi)
theorem exec_mkaFrame (m : MkaMsg) : exec (.mkaFrame i m) s = .next (mkaRx s i m) := if_neg (Nat.not_le.mpr hi)
theorem exec_portLinkChange (up : Bool) (hwater : s.pwr.water = none) :
    exec (.portLinkChange i up) s = .next (if up then linkTrained s i else linkDown s i) :=
  (if_neg (Nat.not_le.mpr hi)).trans (congrArg Outcome.next (if_neg (by simp [hwater])))

end

/-- Settles O46: accepted frames by their body, malformed ones, MKA messages by key server, and the link's two ways. -/
theorem portFrames : Obligations.PortFrames := by
  unfold Obligations.PortFrames
  intro s i hi
  refine ⟨?accepted, ?malformed, ?mka, ?link⟩
  case accepted =>
    intro f hlink hwater hlow hhigh hfcs hfrag hext hvlan hplain hsecured counted
    have hwhole : ethWhole s i f = true := by simp [ethWhole, hlow, hhigh, hfcs, hfrag, hext, hvlan]
    have hrow : exec (.ethFrameRx i f) s = .next (ethServe s i f) :=
      (exec_ethFrameRx hi f).trans (congrArg Outcome.next (ethRx_accepted hlink hwater hwhole hplain hsecured))
    rw [hrow]
    exact ⟨fun t mac ip hbody hset hown => congrArg Outcome.next (ethServe_arp hbody hset hown),
      fun t mac ip hbody hset hown => congrArg Outcome.next (ethServe_neighbour hbody hset hown),
      fun q hbody hpfc => congrArg Outcome.next (ethServe_pause hbody hpfc),
      fun en qs hbody hpfc => congrArg Outcome.next (ethServe_pfc hbody hpfc)⟩
  case malformed =>
    intro f hlink hwater hbad
    rw [exec_ethFrameRx hi, ethRx_malformed hlink hwater hbad]
  case mka =>
    intro m hlink hon hauth installed
    rw [exec_mkaFrame hi, mkaRx_answers hlink hon hauth, mkaInstalls]
    refine ⟨fun k hprio hsak => ?_, fun hprio hsak => ?_, fun hprio hhas => ?_, fun hprio hhas => ?_⟩
    · rw [if_neg (Nat.not_lt.mpr hprio), hsak]; rfl
    · rw [if_neg (Nat.not_lt.mpr hprio), hsak]
    · rw [if_pos hprio, if_pos hhas]
    · rw [if_pos hprio, if_neg (by simp [hhas])]; rfl
  case link =>
    intro hwater
    rw [exec_portLinkChange hi _ hwater, exec_portLinkChange hi _ hwater]
    exact ⟨fun h => congrArg Outcome.next (linkDown_up h), fun h => congrArg Outcome.next (linkTrained_up h),
      fun h => congrArg Outcome.next (linkDown_down h),
      fun hdown hboot hon hsplit hawaited => congrArg Outcome.next (linkTrained_raises hdown hboot hon hsplit hawaited)⟩

/-! ### Egress -/

section
variable {s : State} {i : Nat}

/-- An interface that is free starts the frame that the scheduler selects. -/
theorem egressSelect_starts {time : Nat} {u : State} {fr : EgFrame} (hwater : s.pwr.water = none) (hlink : linkUp (linkPump (timeAt s time)) i = true)
    (hsel : selectFrame (pumpRoce (linkPump (timeAt s time)) i) i time = (u, some fr)) :
    egressSelect s i time = updIface (spellFrame u fr).1 i (fun x => { x with wire := some (fr, (spellFrame u fr).2) }) := by
  simp only [egressSelect, hwater, Option.isSome_none, Bool.false_eq_true, if_false, hlink, Bool.not_true, hsel]

/-- Link-control frames go first. -/
theorem selectFrame_control {f : EgFrame} {fs : List EgFrame} (time : Nat) (hctl : (ifaceOf s i).ctl = f :: fs) :
    selectFrame s i time = (setIface s i { ifaceOf s i with ctl := fs }, some f) := by
  simp only [selectFrame, hctl]

theorem gateAdvance_next (hrun : s.stk.phase ≠ .idle) (hmore : (ifaceOf s i).entry + 1 < (gateSpans s.stk.length 0 (ifaceOf s i).gates).length) :
    gateAdvance s i = setIface s i { ifaceOf s i with entry := (ifaceOf s i).entry + 1 } := (if_neg hrun).trans (if_pos hmore)

theorem gateAdvance_last (hrun : s.stk.phase ≠ .idle) (hlast : (gateSpans s.stk.length 0 (ifaceOf s i).gates).length ≤ (ifaceOf s i).entry + 1) :
    gateAdvance s i = s := (if_neg hrun).trans (if_neg (Nat.not_lt.mpr hlast))

theorem exec_egressSelect (time : Nat) (hi : i < 4) : exec (.egressSelect i time) s = .next (egressSelect s i time) := if_neg (Nat.not_le.mpr hi)
theorem exec_gclEntryAdvance (hi : i < 4) : exec (.gclEntryAdvance i) s = .next (gateAdvance s i) := if_neg (Nat.not_le.mpr hi)
theorem exec_pauseTimeExpiry {prio : Nat} (hi : i < 4) (hprio : prio < 8) :
    exec (.pauseTimeExpiry i prio) s = .next (updIface s i (fun x => { x with paused := setDel x.paused prio })) := if_neg (by omega)

end

/-- Settles O49: a free interface, the gate list's two ways, and a pause that ends. -/
theorem egressServes : Obligations.EgressServes := by
  unfold Obligations.EgressServes
  intro s i hi
  refine ⟨fun time hwater hlink u fr hsel => ?_, fun time f fs hctl => selectFrame_control time hctl, fun hrun hmore => ?_, fun hrun hlast => ?_,
    fun prio hprio => exec_pauseTimeExpiry hi hprio⟩
  · rw [exec_egressSelect time hi, egressSelect_starts hwater hlink hsel]
  · rw [exec_gclEntryAdvance hi, gateAdvance_next hrun hmore]
  · rw [exec_gclEntryAdvance hi, gateAdvance_last hrun hlast]

end Sys2Proof.Machine
end

section
/-! PROOFS. RoCE (15 R350 to R353): responses and acknowledgements, invalid requests, errors, timeouts, rates. -/

open Host
namespace Sys2Proof.Machine

/-! ### Transfers that end (15 R351) -/

/-- The retries of a queue pair start afresh. -/
def retriesOver (s : State) (q : Nat) : State := updQp s q (fun x => { x with retries := 0, rnrRetries := 0 })

/-- A read has had its response. -/
def readOver (s : State) (id q : Nat) : State := retriesOver { s with lnk := { s.lnk with reads := mapErase s.lnk.reads id } } q

/-- A write has had its acknowledgement. -/
def writeOver (s : State) (id q : Nat) : State := retriesOver { s with lnk := { s.lnk with writes := mapErase s.lnk.writes id } } q

/-- What the bytes of a response are for. -/
def readServes (u : State) (data : List Byte) : ReadFor → State
  | .command c => commandData u c data
  | .anchor t => anchorRead u t data
  | .restore j off => restArrived u j off data
  | .copyUp p => lazyArrived u p data

/-- What the acknowledgement of a write is for. -/
def writeServes (u : State) : WriteFor → State
  | .now d => sendCpl u d
  | .engine e d => sendCpl (engineFree u e) d
  | .recovery d => if d.cmd.opcode = 0x41 then gatherAcked (stageDone u d) d.cmd else stageDone u d
  | .shard j n => shardAck u j n
  | .manifest j n => manifestAck u j n
  | .anchor j => anchorAck u j
  | .quiet => u

section
variable {s : State} {q id : Nat} {x : Qp} (hqp : qpOf s q = some x) (hgood : x.err = false)
include hqp hgood

theorem readResponse_serves {r : RdmaRead} {data : List Byte} (hread : mapGet s.lnk.reads id = some r) (hq : r.qp = q) (hasked : r.asked = true)
    (hlen : data.length = r.len) : readResponse s id data = qpClose (readServes (readOver s id q) data r.use) q := by
  subst hq
  have hdelivers : (!r.asked || data.length != r.len || (qpOf s r.qp).any (·.err)) = false := by simp [hasked, hlen, hqp, hgood]
  simp only [readResponse, hread, hdelivers, Bool.false_eq_true, if_false]
  cases r.use <;> rfl

/-- A write that has gone out whole, none of whose packets waits in an egress queue, ends. -/
theorem writeAck_serves {w : RdmaWrite} (hwrite : mapGet s.lnk.writes id = some w) (hq : w.qp = q) (hwhole : writePkts x w ≤ w.pkts)
    (hleft : ∀ e ∈ s.eg.queues, ∀ f ∈ e.2.frames, ∀ n, f.fr ≠ .write id n) : writeAck s id = qpClose (writeServes (writeOver s id q) w.use) q := by
  subst hq
  have hwaits : s.eg.queues.any (fun e => e.2.frames.any (fun f => match f.fr with | .write i _ => i == id | _ => false)) = false := by
    rw [List.any_eq_false]
    intro e he
    rw [Bool.not_eq_true, List.any_eq_false]
    intro f hf
    have hother := hleft e he f hf
    cases hfr : f.fr with
    | write i n =>
      have hne : i ≠ id := fun h => hother n (h ▸ hfr)
      simpa using hne
    | _ => exact Bool.false_ne_true
  have hends : ¬ (x.err || decide (w.pkts < writePkts x w) ||
      s.eg.queues.any (fun e => e.2.frames.any (fun f => match f.fr with | .write i _ => i == id | _ => false))) = true := by
    simp [hgood, Nat.not_lt.mpr hwhole, hwaits]
  simp only [writeAck, hwrite, hqp]
  refine (if_neg hends).trans ?_
  cases w.use <;> rfl

/-! ### Errors and retries (15 R351, R353) -/

theorem exec_roceInvalidRequest : exec (.roceInvalidRequest q) s = .next (sendQp s q (.nak q 4) 4) :=
  congrArg Outcome.next (if_pos (by simp [hqp, hgood]))

theorem qpFail_good (syn : Nat) :
    qpFail s q syn = qpClose (restQpError (ckpQpError (qpSweep
      (sendEvent (updQp s q (fun x => { x with err := true })) (pageOf .bwp 0) EV_QP_ERROR [q + syn * 2 ^ 16] [x.dom])) q) q) q := by
  simp only [qpFail, hqp, hgood, Bool.false_eq_true, if_false]

section
variable {r : RdmaRead} (hreads : s.lnk.reads = [(id, r)]) (hq : r.qp = q) (hasked : r.asked = true) (hwrites : s.lnk.writes = [])
include hreads hq hasked hwrites

theorem ackTimeout_gives_up (hout : 7 ≤ x.retries) : ackTimeout s q false = qpFail s q 1 := by
  simp [ackTimeout, hqp, hgood, hreads, hq, hasked, hwrites, hout]

/-- The one read that waits is asked for again. -/
theorem ackTimeout_asks_again (hmore : x.retries < 7) :
    let u := updQp s q (fun x => { x with retries := x.retries + 1 })
    ackTimeout s q false = { u with lnk := { u.lnk with reads := mapUpd u.lnk.reads id (fun r => { r with asked := false }) } } := by
  simp [ackTimeout, hqp, hgood, hreads, hq, hasked, hwrites, Nat.not_le.mpr hmore]

end
end

/-- Without a request there is nothing to send again. -/
theorem ackTimeout_stands {s : State} (q : Nat) (rnr : Bool) (hreads : s.lnk.reads = []) (hwrites : s.lnk.writes = []) : ackTimeout s q rnr = s := by
  unfold ackTimeout
  split
  · rfl
  · simp [hreads, hwrites]

theorem qpOf_updQp_same {s : State} {q : Nat} {x : Qp} (f : Qp → Qp) (h : qpOf s q = some x) : qpOf (updQp s q f) q = some (f x) := by
  have hget : mapGet s.lnk.qps q = some x := h
  simp only [qpOf, updQp, mapUpd, hget, mapGet_mapSet_same]

/-! ### Rates (15 R353) -/

theorem exec_cnpRx {s : State} {q : Nat} {x : Qp} (hqp : qpOf s q = some x) :
    exec (.cnpRx q) s = .next (cnt (updQp s q (fun x => { x with rate := x.rate / 2 })) R.BWP_QP_CNP_RX 1) :=
  congrArg Outcome.next (if_pos (by simp [hqp]))

theorem ecnMarked_answers {s : State} {q time : Nat} {x : Qp} (hqp : qpOf s q = some x) (hgood : x.err = false)
    (hlast : ∀ u, x.lastCnp = some u → u + 50000 ≤ time) :
    ecnMarked s q time = sendQp (updQp s q (fun x => { x with lastCnp := some time })) q (.cnp q) 16 := by
  have hdue : (x.err || x.lastCnp.any (fun t => decide (time < t + 50000))) = false := by
    cases hcnp : x.lastCnp with
    | none => simp [hgood]
    | some u => simp [hgood, hlast u hcnp]
  simp only [ecnMarked, hqp, hdue, Bool.false_eq_true, if_false]

/-- Settles O48: responses and acknowledgements by what they are for, then the errors, retries and rates of a queue pair. -/
theorem rocePairs : Obligations.RocePairs := by
  unfold Obligations.RocePairs
  intro s q x hqp
  refine ⟨?response, ?ack, exec_roceInvalidRequest hqp, ?error, ?idle, ?timeout, exec_cnpRx hqp, ?marked, rfl⟩
  case response =>
    intro id r data hread hq hasked hlen hgood u
    have hserves : exec (.rdmaReadResponse id data) s = .next (qpClose (readServes u data r.use) q) :=
      congrArg Outcome.next (readResponse_serves hqp hgood hread hq hasked hlen)
    refine ⟨?_, ?_, ?_, ?_⟩ <;> intros <;> rw [hserves, ‹r.use = _›] <;> rfl
  case ack =>
    intro id w hwrite hq hgood hwhole hleft u
    have hserves : exec (.rdmaWriteAck id) s = .next (qpClose (writeServes u w.use) q) :=
      congrArg Outcome.next (writeAck_serves hqp hgood hwrite hq hwhole hleft)
    refine ⟨?_, ?_, ?_, ?_, ?_⟩ <;> intros <;> rw [hserves, ‹w.use = _›] <;> rfl
  case error =>
    intro syn hlow hhigh hgood
    exact congrArg Outcome.next ((if_pos ⟨hlow, hhigh⟩).trans (qpFail_good hqp hgood syn))
  case idle =>
    intro rnr hreads hwrites
    exact congrArg Outcome.next (ackTimeout_stands q rnr hreads hwrites)
  case timeout =>
    intro id r hreads hq hasked hwrites hgood
    refine ⟨fun hout => congrArg Outcome.next (ackTimeout_gives_up hqp hgood hreads hq hasked hwrites hout), fun hmore => ?_⟩
    refine ⟨_, congrArg Outcome.next (ackTimeout_asks_again hqp hgood hreads hq hasked hwrites hmore), ?_,
      qpOf_updQp_same (fun x => { x with retries := x.retries + 1 }) hqp⟩
    have hread : mapGet (updQp s q (fun x => { x with retries := x.retries + 1 })).lnk.reads id = some r := by
      simp [updQp, hreads, mapGet]
    simp only [mapUpd, hread, mapGet_mapSet_same]
  case marked =>
    intro time hgood hlast
    exact congrArg Outcome.next (ecnMarked_answers hqp hgood hlast)

end Sys2Proof.Machine
end

section
/-! PROOFS. Checkpoints (17): a CHECKPOINT becomes a job (17 R372), a RESTORE reads the anchor (17 R383), and a log without room (17 R381, R382). -/

open Host
namespace Sys2Proof.Machine

/-! ### CHECKPOINT and RESTORE -/

/-- The Mover entry of a RESTORE (17 R383). -/
def restoreEntry (c : Cmd) : OpEnt :=
  { kind := 0xC, cls := 2, src := 2, dst := if c.f2 12 2 = 1 then 1 else 0, tenant := c.f2 0 12, object := 0, isSes := false, start := 0, cmd := some c }

/-- The restore that a RESTORE begins. -/
def restoreOf (s : State) (c : Cmd) (data : List Byte) : RestoreJob := { cmd := c, list := fieldsAt 8 data 0 (c.f5 0 11), op := some (opIndex s) }

/-- The state in which a RESTORE has taken its Mover entry and asks for the target's anchor, its first 64 KiB. -/
def restoreBegun (s : State) (c : Cmd) (data : List Byte) : State :=
  let t := (takeOp s (restoreEntry c)).2
  let id := mapFree t.ckp.restores
  restRead (setRest t id (restoreOf s c data)) id (restoreOf s c data) 0 65536

section
variable {s : State} {c : Cmd} (data : List Byte) (htarget : ckpEnabled s (c.f2 0 12) = true) (hright : domTenant s c.dom (c.f2 0 12) = true)
include htarget hright

/-- A CHECKPOINT of a tenant with an enabled target, and for a list of sessions with its list and its queue pair, becomes a job. -/
theorem startCheckpoint_joins (hscope : c.f2 12 2 ≠ 3)
    (hlist : c.f2 12 2 = 1 → c.f5 0 32 ≠ 0 ∧ c.f5 0 32 ≤ 262144 ∧ qpCheck s c.dom (c.f4 32 16) = none) :
    startCheckpoint c data s =
      jobNext (addJob s { tenant := c.f2 0 12, cmd := some c, full := c.f2 16 1 = 1, toBind := ckpSessions s c data }) (c.f2 0 12) := by
  have hvalid : (decide (c.f2 12 2 = 3) || (decide (c.f2 12 2 = 1) && (decide (c.f5 0 32 = 0) || decide (262144 < c.f5 0 32)))) = false := by
    by_cases hone : c.f2 12 2 = 1
    · obtain ⟨hsome, hlong, -⟩ := hlist hone
      simp [hone, hsome, hlong]
    · simp [hone, hscope]
  have hqp : (if c.f2 12 2 = 1 then qpCheck s c.dom (c.f4 32 16) else none) = none := by
    split
    · next hone => exact (hlist hone).2.2
    · rfl
  simp only [startCheckpoint, htarget, hright, hvalid, hqp, Bool.not_true, Bool.false_eq_true, if_false]

theorem startRestore_begins (hscope : c.f2 12 2 ≠ 3) (hlist : c.w3.toNat = 0 ∨ (c.f5 0 11 ≠ 0 ∧ c.f5 0 11 ≤ 2040))
    (hqp : qpCheck s c.dom (c.f4 32 16) = none) (hroom : opRoom s 2 (c.f2 0 12) = true) : startRestore c data s = restoreBegun s c data := by
  have hvalid : (decide (c.f2 12 2 = 3) || (c.w3.toNat != 0 && (decide (c.f5 0 11 = 0) || decide (2040 < c.f5 0 11)))) = false := by
    rcases hlist with hnone | ⟨hsome, hlong⟩
    · simp [hscope, hnone]
    · simp [hscope, hsome, hlong]
  simp only [startRestore, htarget, hright, hvalid, hqp, hroom, Bool.not_true, Bool.false_eq_true, if_false]
  rfl

end

section
variable (s : State) (c : Cmd) (data : List Byte)

theorem restoreBegun_restores : (restoreBegun s c data).ckp.restores = mapSet s.ckp.restores (mapFree s.ckp.restores) (restoreOf s c data) := by
  have htaken : (takeOp s (restoreEntry c)).2.ckp = s.ckp := by rw [takeOp_tierOnly s (restoreEntry c)]
  simp only [restoreBegun, restRead, issueRead, setRest, htaken]

/-- The anchor is asked for by the next RDMA request. -/
theorem restoreBegun_read : ∃ k, mapGet (restoreBegun s c data).lnk.reads s.lnk.nextIo = some k ∧
    k.use = .restore (mapFree s.ckp.restores) 0 ∧ k.len = 65536 := by
  have hckp : (takeOp s (restoreEntry c)).2.ckp = s.ckp := by rw [takeOp_tierOnly s (restoreEntry c)]
  have hlnk : (takeOp s (restoreEntry c)).2.lnk = s.lnk := by rw [takeOp_tierOnly s (restoreEntry c)]
  simp only [restoreBegun, restRead, issueRead, hckp]
  rw [show (setRest (takeOp s (restoreEntry c)).2 _ _).lnk = s.lnk from hlnk]
  exact ⟨_, mapGet_mapSet_same .., rfl, rfl⟩

theorem opOf_restoreBegun : opOf (restoreBegun s c data) (opIndex s) = some { restoreEntry c with start := catchStroke s } :=
  opOf_takeOp s (restoreEntry c)

end

/-! ### A log without room -/

section
variable {s : State} {t i : Nat} {j : CkpJob} (hjob : s.ckp.jobs.find? (fun (e : Nat × CkpJob) => e.2.tenant == t && e.2.started && !e.2.toHost) = some (i, j))
  (hblocked : j.blocked = true)
include hjob hblocked

theorem ckpExpiry_blocked : ckpExpiry s t = if rdF s R.CKP_CFG_WAIT ≤ j.waited then jobNext (jobFail s i E_CKP_FULL) t else s := by
  simp only [ckpExpiry, hjob, hblocked, Bool.true_and, decide_eq_true_eq]

end

/-- Settles O39: a CHECKPOINT becomes a job, a RESTORE asks for the anchor, and a job without room fails once it has waited long enough. -/
theorem checkpointCommands : Obligations.CheckpointCommands := by
  unfold Obligations.CheckpointCommands
  constructor
  · intro s c data htaken j t htarget hright
    refine ⟨fun hscope hlist => next_submit htaken (startCheckpoint_joins data htarget hright hscope hlist), fun hscope hlist hqp hroom => ?_⟩
    obtain ⟨k, hread, huse, hlen⟩ := restoreBegun_read j c data
    refine ⟨_, restoreOf j c data, { restoreEntry c with start := catchStroke j }, k,
      next_submit htaken (startRestore_begins data htarget hright hscope hlist hqp hroom), ?_, rfl, rfl, opOf_restoreBegun .., rfl, rfl, hread, huse, hlen⟩
    rw [restoreBegun_restores]
    exact mapGet_mapSet_same ..
  · intro s t i j hjob hblocked
    exact ⟨fun hlong => congrArg Outcome.next ((ckpExpiry_blocked hjob hblocked).trans (if_pos hlong)),
      fun hshort => congrArg Outcome.next ((ckpExpiry_blocked hjob hblocked).trans (if_neg (Nat.not_le.mpr hshort)))⟩

end Sys2Proof.Machine
end

section
/-! PROOFS. What an event changes beside the registers (15 R345), and the input voltage with the triggers of the Hold-water sequence (18 Table 18-1, R401). -/

open Host
namespace Sys2Proof.Machine

/-! ### Event records -/

/-- Nothing but registers and the domains' event queues changed. -/
def EventOnly (s t : State) : Prop := t = { s with reg := t.reg, out := { s.out with evq := t.out.evq, evLost := t.out.evLost } }

theorem EventOnly.refl (s : State) : EventOnly s s := rfl

theorem EventOnly.trans {s t u : State} (h₁ : EventOnly s t) (h₂ : EventOnly t u) : EventOnly s u := by
  unfold EventOnly at h₁ h₂ ⊢
  rw [h₁] at h₂
  exact h₂

theorem EventOnly.regOnly {s t : State} (h : EventOnly s t) : RegOnly s t := by
  unfold EventOnly at h
  rw [h]
  rfl

theorem EventOnly.cpls {s t : State} (h : EventOnly s t) : t.out.cpls = s.out.cpls := by rw [h]

theorem EventOnly.rcpts {s t : State} (h : EventOnly s t) : t.out.rcpts = s.out.rcpts := by rw [h]

theorem EventOnly.foldl {α : Type} (f : State → α → State) (l : List α) (s : State) (hf : ∀ s x, EventOnly s (f s x)) : EventOnly s (l.foldl f s) :=
  foldl_rel EventOnly.refl EventOnly.trans hf l s

theorem pushEvent_eventOnly (s : State) (d : Nat) (r : EvRec) : EventOnly s (pushEvent s d r) := by
  unfold pushEvent
  dsimp only
  split <;> rfl

theorem pushEvents_eventOnly (s : State) (ds : List Nat) (r : EvRec) : EventOnly s (pushEvents s ds r) :=
  EventOnly.foldl _ ds s fun s d => pushEvent_eventOnly s d r

theorem raiseBit_eventOnly (s : State) (b : Blk) (inst bit : Nat) (whom : EvTo) : EventOnly s (raiseBit s b inst bit whom) := by
  have hset : ∀ (p : Prop) [Decidable p] (f : Fld) (v : Nat), EventOnly s (if p then wrI s f inst v else s) := by
    intro p _ f v
    split <;> rfl
  cases whom with
  | plain =>
    simp only [raiseBit]
    split
    · exact (hset _ _ _).trans (pushEvents_eventOnly _ _ _)
    · exact hset _ _ _
  | tied code words =>
    simp only [raiseBit]
    split
    · exact (hset _ _ _).trans (pushEvents_eventOnly _ _ _)
    · exact hset _ _ _
  | named code words ds =>
    simp only [raiseBit]
    split
    · exact ((hset _ _ _).trans (pushEvents_eventOnly _ _ _)).trans (pushEvents_eventOnly _ _ _)
    · exact (hset _ _ _).trans (pushEvents_eventOnly _ _ _)

/-! ### The start of the Hold-water sequence -/

/-- Nothing but registers, event queues and the Governor's limits changed. -/
def LimitsOnly (s t : State) : Prop :=
  t = { s with reg := t.reg, gov := t.gov, out := { s.out with evq := t.out.evq, evLost := t.out.evLost } }

theorem LimitsOnly.refl (s : State) : LimitsOnly s s := rfl

theorem LimitsOnly.trans {s t u : State} (h₁ : LimitsOnly s t) (h₂ : LimitsOnly t u) : LimitsOnly s u := by
  unfold LimitsOnly at h₁ h₂ ⊢
  rw [h₁] at h₂
  exact h₂

theorem EventOnly.limitsOnly {s t : State} (h : EventOnly s t) : LimitsOnly s t := by
  unfold EventOnly at h
  rw [h]
  rfl

theorem overrides_limitsOnly (s : State) (k : Nat) : LimitsOnly s (overrides s k) := by
  have hnote : LimitsOnly s (noteLimits s k) := rfl
  have hraise : ∀ (t : State) (w : EvTo), EventOnly t (raiseBit (cntI t R.LANE_OVERRIDE_COUNT k 1) .lane k 4 w) := fun t w =>
    EventOnly.trans (t := cntI t R.LANE_OVERRIDE_COUNT k 1) rfl (raiseBit_eventOnly _ _ _ _ w)
  show LimitsOnly s (if rdI (noteLimits s k) R.LANE_GOV_MODE k ≠ 1 then noteLimits s k else List.foldl _ (noteLimits s k) _)
  split
  · exact hnote
  · exact hnote.trans (EventOnly.foldl _ _ _ fun t _ => hraise t _).limitsOnly

/-- The state in which the sequence stands with its cause. -/
def waterNoted (s : State) (cause : Nat) : State :=
  let t := abandonTest (stopLegs s (fun _ => true))
  { t with pwr := { t.pwr with water := some cause } }

/-- The state in which the sequence is told. -/
def waterTold (s : State) : State :=
  pushEvents s allDoms { code := EV_HOLD_WATER, page := pageOf .pwr 0, bit := 63, words := [s.pwr.lastFinish] }

/-- The state in which what was staged and what waited to be delivered is dropped. -/
def waterDropped (s : State) : State :=
  { s with stk := { s.stk with commits := [] }, out := { s.out with cpls := [], streams := [], rcpts := [] } }

/-- The state at the start of the sequence before the Governor's limits are taken again. -/
def waterBegun (s : State) (cause : Nat) : State := waterDropped (waterTold (waterNoted s cause))

/-- What the start of the sequence leaves: its cause, no staged commit and no completion, the module's pins and the cause of the reset as they stood. -/
def WaterStarted (s : State) (cause : Nat) (t : State) : Prop :=
  t.pwr.water = some cause ∧ t.stk.commits = [] ∧ t.out.cpls = [] ∧ t.mod = s.mod ∧ t.pwr.resetCause = s.pwr.resetCause

theorem LimitsOnly.waterStarted {s t u : State} {cause : Nat} (h : LimitsOnly t u) (ht : WaterStarted s cause t) : WaterStarted s cause u := by
  unfold LimitsOnly at h
  rw [h]
  exact ht

/-- The state in which a test is given up, before its registers are written again. -/
def testDropped (s : State) : State :=
  { s with pwr := { s.pwr with testing := false, testBudget := none, result := none, down := none } }

theorem abandonTest_only {s : State} (htesting : s.pwr.testing = true) : RegOnly (testDropped s) (abandonTest s) := by
  unfold abandonTest
  rw [if_neg (by simp [htesting])]
  exact (wrF_only (testDropped s) _ _).trans (wrF_only _ _ _)

theorem abandonTest_keeps (s : State) : (abandonTest s).mod = s.mod ∧ (abandonTest s).pwr.resetCause = s.pwr.resetCause := by
  cases htesting : s.pwr.testing with
  | true =>
    rw [abandonTest_only htesting]
    exact ⟨rfl, rfl⟩
  | false =>
    rw [show abandonTest s = s from if_pos (by simp [htesting])]
    exact ⟨rfl, rfl⟩

theorem waterNoted_keeps (s : State) (cause : Nat) : (waterNoted s cause).mod = s.mod ∧ (waterNoted s cause).pwr.resetCause = s.pwr.resetCause :=
  abandonTest_keeps (stopLegs s (fun _ => true))

theorem waterTold_only (s : State) : RegOnly s (waterTold s) := pushEvents_only _ _ _

theorem waterDropped_started {s t : State} {cause : Nat} (hwater : t.pwr.water = some cause) (hmod : t.mod = s.mod)
    (hcause : t.pwr.resetCause = s.pwr.resetCause) : WaterStarted s cause (waterDropped t) := ⟨hwater, rfl, rfl, hmod, hcause⟩

theorem waterBegun_started (s : State) (cause : Nat) : WaterStarted s cause (waterBegun s cause) := by
  have htold := waterTold_only (waterNoted s cause)
  have hpwr : (waterTold (waterNoted s cause)).pwr = (waterNoted s cause).pwr := by rw [htold]
  have hmod : (waterTold (waterNoted s cause)).mod = (waterNoted s cause).mod := by rw [htold]
  obtain ⟨hmod', hcause⟩ := waterNoted_keeps s cause
  exact waterDropped_started (congrArg PwrState.water hpwr) (hmod.trans hmod') ((congrArg PwrState.resetCause hpwr).trans hcause)

theorem startWater_started (s : State) (cause : Nat) (hgood : s.mod.pwrGood = true) (hwater : s.pwr.water = none) :
    WaterStarted s cause (startWater s cause) := by
  have hrun : startWater s cause = (List.range 10).foldl overrides (waterBegun s cause) := by
    simp only [startWater, waterBegun, waterDropped, waterTold, waterNoted, hgood, hwater, Option.isSome_none, Bool.not_true, Bool.or_false,
      Bool.false_eq_true, if_false]
  rw [hrun]
  exact LimitsOnly.waterStarted (foldl_rel LimitsOnly.refl LimitsOnly.trans overrides_limitsOnly _ _) (waterBegun_started s cause)

/-- A second trigger is no second sequence. -/
theorem startWater_of_running {s : State} (cause : Nat) (hwater : s.pwr.water.isSome = true) : startWater s cause = s := if_pos (by simp [hwater])

/-! ### The bands of the input voltage -/

/-- Settles O50, each row on both sides of its band, and the three triggers by `startWater_started`. -/
theorem inputVoltage : Obligations.InputVoltage := by
  intro s mv
  refine ⟨?_, ?_, ?_, ?_, ?_, ?_, ?_⟩
  · intro hlow hhigh hnew
    have hband : ¬ (mv < 50000 ∨ 54000 ≤ mv) := by omega
    exact congrArg Outcome.next ((if_neg (by simpa using hband)).trans (if_neg (by simp [seeVolt, hnew])))
  · intro hlow hhigh hnew
    have hband : ¬ (mv ≤ 63000 ∨ 64500 < mv) := by omega
    exact congrArg Outcome.next ((if_neg (by simpa using hband)).trans (if_neg (by simp [seeVolt, hnew])))
  · intro hlow hhigh
    exact congrArg Outcome.next (if_neg (by simp; omega))
  · intro hout
    exact congrArg Outcome.next (if_pos (by simpa using hout))
  · exact fun hin => congrArg Outcome.next (if_pos hin)
  · exact fun hin => congrArg Outcome.next (if_pos hin)
  · intro hgood hwater
    refine ⟨?_, ?_, ?_⟩
    · intro hlow
      obtain ⟨hcause, hcommits, hcpls, -, -⟩ := startWater_started (seeVolt s mv) 1 hgood hwater
      exact ⟨_, congrArg Outcome.next (if_neg (by omega)), hcause, hcommits, hcpls⟩
    · intro hhigh
      obtain ⟨hcause, hcommits, hcpls, -, -⟩ := startWater_started (seeVolt s mv) 2 hgood hwater
      exact ⟨_, congrArg Outcome.next (if_neg (by omega)), hcause, hcommits, hcpls⟩
    · obtain ⟨hcause, hcommits, hcpls, hmod, -⟩ := startWater_started { s with mod := { s.mod with pwrEn := false } } 3 hgood hwater
      exact ⟨_, rfl, hcause, by rw [hmod], hcommits, hcpls⟩

end Sys2Proof.Machine
end

section
/-! PROOFS. Hold-up tests and the end of the Hold-water sequence (18 R391 to R400), the module's pins (23 R482 to R491; 22 R464) and the `SEAL_OK` pin (23 R487). -/

open Host
namespace Sys2Proof.Machine

/-! ### Hold-up -/

/-- A test that starts before a result is installed keeps the budget. -/
theorem startTest_of_no_result {s : State} (hfree : s.pwr.testing = false) (hnone : s.pwr.hold = 0) :
    startTest s = wrF { s with pwr := { s.pwr with testing := true, retestDue := false, testBudget := some (budgetPages s) } } R.HOLDUP_STATUS_STATE 1 := by
  unfold startTest
  rw [if_neg (by simp [hfree])]
  exact if_pos (Or.inl (by simpa only [wrF_pwr] using hnone))

/-- The record of a sequence that sealed `min n` of the dirty pages. -/
def waterRecord (s : State) (cause us mv n : Nat) : HwRec :=
  { cause := cause, complete := decide (min n (flushOrder s).length = (flushOrder s).length), stroke := s.pwr.lastFinish
    flushed := min n (flushOrder s).length + ceilDiv (s.pwr.tailIn - s.pwr.tailOut) 65536, lost := (flushOrder s).length - min n (flushOrder s).length
    us := us, mv := mv }

theorem waterRecord_complete (s : State) (cause us mv n : Nat) : (waterRecord s cause us mv n).complete = true ↔ (flushOrder s).length ≤ n := by
  have hcomplete : (waterRecord s cause us mv n).complete = true ↔ min n (flushOrder s).length = (flushOrder s).length := decide_eq_true_iff
  exact hcomplete.trans (by omega)

/-- After a trigger of Table 18-1 the reset holds the record, and `PWR_GOOD` is low. -/
theorem holdWaterEnd_of_trigger {s : State} {cause : Nat} (us mv n : Nat) (hwater : s.pwr.water = some cause) (htrigger : cause ≠ 0) :
    (holdWaterEnd s us mv n).mod.pwrGood = false ∧ (holdWaterEnd s us mv n).boot.hw = some (waterRecord s cause us mv n) := by
  simp only [holdWaterEnd, hwater, if_neg htrigger]
  exact ⟨by simp [htrigger], rfl⟩

/-- Settles O51. -/
theorem holdUp : Obligations.HoldUp := by
  intro s
  refine ⟨?_, ?_, ?_, ?_, ?_, ?_, ?_⟩
  · intro hfree hnone
    refine ⟨_, (congrArg Outcome.next (if_pos (by simp [hnone]))).trans (congrArg Outcome.next (startTest_of_no_result hfree hnone)), ?_, ?_, ?_⟩ <;>
      rw [wrF_pwr]
  · intro htesting c r
    exact congrArg Outcome.next (if_neg (by simp [htesting]))
  · intro hon hfree
    exact congrArg Outcome.next (if_neg (by simp [hon, hfree]))
  · exact fun n => rfl
  · intro us mv n hnone
    show Outcome.next (holdWaterEnd s us mv n) = _
    simp only [holdWaterEnd, hnone]
  · intro us mv n cause hwater htrigger
    obtain ⟨hlow, hrecord⟩ := holdWaterEnd_of_trigger us mv n hwater htrigger
    exact ⟨_, waterRecord s cause us mv n, rfl, hlow, hrecord, rfl, rfl, rfl, rfl, rfl, waterRecord_complete s cause us mv n⟩
  · intro hgood
    exact ⟨_, congrArg Outcome.next (if_neg (by simp [hgood])), rfl⟩

/-! ### Reset sources and pins -/

/-- A reset source arms its cause and starts the steps before a reset. -/
theorem askReset_starts {s : State} (cause : Nat) (hgood : s.mod.pwrGood = true) (hwater : s.pwr.water = none) (hfirst : s.pwr.resetCause = none) :
    (askReset s cause).pwr.resetCause = some cause ∧ (askReset s cause).pwr.water = some 0 ∧ (askReset s cause).mod = s.mod := by
  have hrun : askReset s cause = startWater { s with pwr := { s.pwr with resetCause := some cause } } 0 := by
    simp only [askReset, hgood, hfirst, Option.isSome_none, Bool.not_true, Bool.false_eq_true, if_false]
  obtain ⟨hwater', -, -, hmod, hcause⟩ := startWater_started { s with pwr := { s.pwr with resetCause := some cause } } 0 hgood hwater
  rw [hrun]
  exact ⟨hcause, hwater', hmod⟩

/-- A second reset source keeps the first one's cause, and the sequence goes on. -/
theorem askReset_of_running {s : State} {k : Nat} (cause : Nat) (hgood : s.mod.pwrGood = true) (hfirst : s.pwr.resetCause = some k)
    (hwater : s.pwr.water.isSome = true) : askReset s cause = s := by
  simp only [askReset, hgood, hfirst, Option.isSome_some, Bool.not_true, Bool.false_eq_true, if_true, if_false]
  exact startWater_of_running 0 hwater

theorem i2c_answers {s : State} (off n : Nat) (hfed : s.mod.hk = true) :
    (i2c s off n).mod.sbOut = sbBytes s (off % 256) n ∧ (i2c s off n).reg = s.reg ∧ (i2c s off n).out = s.out := by
  unfold i2c
  rw [if_neg (by simp [hfed])]
  exact ⟨rfl, rfl, rfl⟩

/-- Settles O52. -/
theorem modulePins : Obligations.ModulePins := by
  intro s
  refine ⟨?_, ?_, ?_, rfl, rfl, ?_, ?_, ?_, ?_, ?_, ?_⟩
  · intro hlow hon hdry hmin hmax
    exact congrArg Outcome.next (if_neg (by simp [hlow, hon, hdry]; omega))
  · intro hgood hwater hfirst
    obtain ⟨hcause, hstarted, hmod⟩ := askReset_starts (s := { s with mod := { s.mod with rstN := false } }) 2 hgood hwater hfirst
    obtain ⟨hcause', hstarted', -⟩ := askReset_starts 4 hgood hwater hfirst
    exact ⟨⟨_, rfl, hcause, hstarted, congrArg ModState.rstN hmod⟩, ⟨_, rfl, hcause', hstarted'⟩⟩
  · intro hgood k hfirst hwater
    exact congrArg Outcome.next (askReset_of_running 4 hgood hfirst hwater)
  · intro hoff
    exact congrArg Outcome.next (if_neg (by simp [hoff]))
  · intro hlow
    exact congrArg Outcome.next (if_neg (by simp [hlow]))
  · intro c hhot
    exact congrArg Outcome.next (if_neg (by omega))
  · intro c hcool
    exact congrArg Outcome.next (if_neg (by omega))
  · intro hoff off n
    exact congrArg Outcome.next (if_pos (by simp [hoff]))
  · exact fun hfed off n => ⟨_, rfl, i2c_answers off n hfed⟩

/-- Settles O53: the pin is the model's own reading of the two conditions. -/
theorem sealOkPin : Obligations.SealOkPin := by
  intro s
  show (s.ump.run == .running && !s.ump.tamper) = true ↔ _
  rw [Bool.and_eq_true, beq_iff_eq, Bool.not_eq_true']

end Sys2Proof.Machine
end

section
/-! PROOFS. The Umpire: its requests (19 Table 19-5, R413), and what reaches it (19 R406 to R417). -/

open Host
namespace Sys2Proof.Machine

/-! ### The event log and the receipts -/

/-- Nothing but the Umpire's event log changed. -/
def LogOnly (s t : State) : Prop := t = { s with ump := { s.ump with events := t.ump.events } }

theorem umpEvent_only (s : State) (kind : Nat) (words : Nat × Nat) : LogOnly s (umpEvent s kind words) := by
  unfold umpEvent
  split <;> rfl

/-- Nothing but registers, events, receipts, meter records and the tenants' entries changed. -/
def ReceiptsOnly (s t : State) : Prop :=
  t = { s with reg := t.reg, out := t.out, ump := { s.ump with
    receipts := t.ump.receipts, logFull := t.ump.logFull, meters := t.ump.meters, tens := t.ump.tens } }

theorem ReceiptsOnly.refl (s : State) : ReceiptsOnly s s := rfl

theorem ReceiptsOnly.trans {s t u : State} (h₁ : ReceiptsOnly s t) (h₂ : ReceiptsOnly t u) : ReceiptsOnly s u := by
  unfold ReceiptsOnly at h₁ h₂ ⊢
  rw [h₁] at h₂
  exact h₂

theorem RegOnly.receiptsOnly {s t : State} (h : RegOnly s t) : ReceiptsOnly s t := by
  unfold RegOnly at h
  rw [h]
  rfl

theorem closeReceipt_only (s : State) (t : Nat) : ReceiptsOnly s (closeReceipt s t) := by
  unfold closeReceipt
  extract_lets lines x parts rs need unacked held
  split
  · exact ReceiptsOnly.refl s
  · split
    · exact ReceiptsOnly.trans (t := { s with ump := { s.ump with logFull := true } }) rfl (raiseBit_only _ _ _ _ _).receiptsOnly
    · rfl

/-! ### Requests -/

section
variable {s : State} {c : Cmd} (data : List Byte)

theorem startUmp_serves (hcode : umpCode s c = none) (hrun : s.ump.run = .running) : startUmp c data s = umpServe s c data := by
  simp only [startUmp, hcode, hrun, beq_self_eq_true, if_true]

theorem startUmp_waits (hcode : umpCode s c = none) (hrun : s.ump.run ≠ .running) :
    startUmp c data s = { s with ump := { s.ump with requests := s.ump.requests ++ [(c, data)] } } := by
  simp only [startUmp, hcode, beq_eq_false_iff_ne.mpr hrun, Bool.false_eq_true, if_false]

theorem umpServe_now (hkind : c.f2 0 4 = 0) : umpServe s c data =
    setTen s (c.f2 4 12) { umpTen s (c.f2 4 12) with nowCmds := (umpTen s (c.f2 4 12)).nowCmds ++ [c] } := by
  simp only [umpServe, hkind]

theorem umpServe_logRead (hkind : c.f2 0 4 = 1) : ∀ rs,
    rs = ((s.ump.receipts.filter (fun r => r.tenant = c.f2 4 12 && decide (c.w5.toNat ≤ r.rseq))).filterMap (·.bytes)).take (c.f6 0 16) →
      umpServe s c data = umpWrite s c rs.flatten rs.length := by
  rintro rs rfl
  simp only [umpServe, hkind]

/-- The state in which the receipts that an ACK names are acknowledged. -/
def receiptsAcked (s : State) (c : Cmd) : State :=
  { s with ump := { s.ump with receipts := s.ump.receipts.map (fun (r : Receipt) =>
    if r.tenant = c.f2 4 12 && decide (r.rseq ≤ c.w5.toNat) && r.bytes.isSome then { r with acked := true } else r) } }

theorem umpServe_ack (hkind : c.f2 0 4 = 2) : umpServe s c data =
    finishCmd { receiptsAcked s c with ump := { (receiptsAcked s c).ump with
      logFull := s.ump.logFull && decide (receiptArea ≤ sumOf (((receiptsAcked s c).ump.receipts.filter (fun r => !r.acked)).map receiptSize)) } } c E_OK := by
  simp only [umpServe, hkind]
  rfl

theorem umpServe_eventRead (hkind : c.f2 0 4 = 3) : ∀ es, es = (s.ump.events.drop c.w5.toNat).take (c.f6 0 16) →
    umpServe s c data = umpWrite s c (es.map UmpEvent.bytes).flatten es.length := by
  rintro es rfl
  simp only [umpServe, hkind]

theorem umpServe_setPeriod (hkind : c.f2 0 4 = 4) : umpServe s c data =
    finishCmd (umpEvent { s with ump := { s.ump with nextPeriod := some (c.f5 0 32) } } 4 (c.f5 0 32, 0)) c E_OK := by
  simp only [umpServe, hkind]

theorem umpServe_fwUpdate (hkind : c.f2 0 4 = 5) : umpServe s c data = if Config.umpImageOk data then
    finishCmd { s with ump := { s.ump with newFw := some (sha256 data) } } c E_OK else refuseUmp s c E_UMP_INVALID := by
  simp only [umpServe, hkind]

theorem umpServe_certRead (hkind : c.f2 0 4 = 6) : umpServe s c data = umpWrite s c Config.umpCert 0 := by
  simp only [umpServe, hkind]

end

/-- Settles O40: each kind of request is served while the Umpire runs, and waits while it does not. -/
theorem umpireServes : Obligations.UmpireServes := by
  refine ⟨?_, ?_⟩
  · intro s c data htaken hrun hcode
    have hserves (d : List Byte) {t : State} (h : umpServe (joinQueue s c) c d = t) :
        Outcome.next (φ := Fault) (ρ := Refusal) (submit s c d startUmp) = .next t :=
      next_submit htaken ((startUmp_serves d hcode hrun).trans h)
    refine ⟨?_, ?_, ?_, ?_, ?_, ?_, ?_⟩
    · exact fun hkind => hserves [] (umpServe_now [] hkind)
    · exact fun hkind rs hrs => hserves [] (umpServe_logRead [] hkind rs hrs)
    · exact fun hkind => ⟨_, hserves [] (umpServe_ack [] hkind), rfl, rfl⟩
    · exact fun hkind es hes => hserves [] (umpServe_eventRead [] hkind es hes)
    · intro hkind
      refine ⟨_, hserves [] (umpServe_setPeriod [] hkind), ?_, ?_⟩ <;> rw [umpEvent_only]
      rfl
    · exact fun hkind => hserves data (umpServe_fwUpdate data hkind)
    · exact fun hkind => hserves [] (umpServe_certRead [] hkind)
  · intro s c data htaken hrun hcode
    have hwaits (d : List Byte) := next_submit htaken (startUmp_waits d hcode hrun)
    refine ⟨fun i hi => ?_, hwaits data⟩
    simp only [List.mem_cons, List.not_mem_nil, or_false] at hi
    rcases hi with rfl | rfl | rfl | rfl | rfl | rfl <;> exact hwaits []

/-! ### Period ends -/

/-- The state in which the clock check of a period's end stands. -/
def clockChecked (s : State) (ns : Nat) : State :=
  let bad := clockOff ns (s.ump.lastDev - s.ump.periodDev)
  let t := { s with ump := { s.ump with clockBad := bad, periodDev := s.ump.lastDev } }
  if bad then umpEvent t 6 (ns, t.ump.lastDev) else t

/-- The state in which a period's end has brought new firmware into force. -/
def firmwareTaken (s : State) : State :=
  match s.ump.newFw with
  | none => { s with ump := { s.ump with updated := false } }
  | some h =>
    let t := umpEvent s 3 (leNat (s.ump.fwHash.take 8), leNat (h.take 8))
    { t with ump := { t.ump with fwHash := h, newFw := none, updated := true } }

theorem clockChecked_only (s : State) (ns : Nat) :
    LogOnly { s with ump := { s.ump with clockBad := clockOff ns (s.ump.lastDev - s.ump.periodDev), periodDev := s.ump.lastDev } } (clockChecked s ns) := by
  unfold clockChecked
  dsimp only
  split
  · exact umpEvent_only _ _ _
  · rfl

/-- What comes into force with a new image, beside the log. -/
def imageInForce (s : State) : State :=
  { s with ump := { s.ump with updated := s.ump.newFw.isSome, fwHash := s.ump.newFw.getD s.ump.fwHash, newFw := none } }

theorem firmwareTaken_only (s : State) : LogOnly (imageInForce s) (firmwareTaken s) := by
  unfold firmwareTaken LogOnly imageInForce
  cases hfw : s.ump.newFw with
  | none => simp only [hfw, Option.isSome_none, Option.getD_none]
  | some h =>
    dsimp only
    rw [umpEvent_only s]
    rfl

theorem LogOnly.imageInForce {s t u : State} (h₁ : LogOnly s t) (h₂ : LogOnly (imageInForce t) u) : LogOnly (imageInForce s) u := by
  unfold LogOnly at h₁ h₂ ⊢
  rw [h₁] at h₂
  exact h₂

/-- The state before the receipts of a period are closed. -/
def periodClosed (s : State) (ns : Nat) : State := firmwareTaken (clockChecked s ns)

theorem periodClosed_only (s : State) (ns : Nat) :
    LogOnly { s with ump := { s.ump with
      clockBad := clockOff ns (s.ump.lastDev - s.ump.periodDev), periodDev := s.ump.lastDev
      updated := s.ump.newFw.isSome, fwHash := s.ump.newFw.getD s.ump.fwHash, newFw := none } } (periodClosed s ns) :=
  (clockChecked_only s ns).imageInForce (firmwareTaken_only _)

/-- The state in which the receipts of a period are closed. -/
def receiptsClosed (s : State) : State := (umpTenants s).foldl (fun s t => if allSigned s t then closeReceipt s t else s) s

theorem receiptsClosed_only (s : State) : ReceiptsOnly s (receiptsClosed s) := by
  refine foldl_rel ReceiptsOnly.refl ReceiptsOnly.trans (fun u t => ?_) _ s
  split
  · exact closeReceipt_only u t
  · exact ReceiptsOnly.refl u

theorem periodEnd_runs {s : State} (ns : Nat) (hrun : s.ump.run = .running) (hend : s.ump.lastStroke % max 1 s.ump.period = 0) :
    periodEnd s ns = { receiptsClosed (periodClosed s ns) with ump := { (receiptsClosed (periodClosed s ns)).ump with
      period := s.ump.nextPeriod.getD s.ump.period, nextPeriod := none } } := by
  have hperiod : ∀ u, LogOnly { s with ump := u } (periodClosed s ns) →
      (receiptsClosed (periodClosed s ns)).ump.period = u.period ∧ (receiptsClosed (periodClosed s ns)).ump.nextPeriod = u.nextPeriod := by
    intro u hu
    rw [receiptsClosed_only, hu]
    exact ⟨rfl, rfl⟩
  obtain ⟨hold, hnext⟩ := hperiod _ (periodClosed_only s ns)
  have hguard : (s.ump.run != .running || s.ump.lastStroke % max 1 s.ump.period != 0) = false := by simp [hrun, hend]
  unfold periodEnd
  rw [if_neg (by simp [hguard])]
  change { receiptsClosed (periodClosed s ns) with ump := { (receiptsClosed (periodClosed s ns)).ump with
    period := (receiptsClosed (periodClosed s ns)).ump.nextPeriod.getD (receiptsClosed (periodClosed s ns)).ump.period, nextPeriod := none } } = _
  rw [hold, hnext]

/-! ### Signatures, the cover and the self-test -/

theorem umpTen_setTen_same (s : State) (t : Nat) (x : UmpTen) : umpTen (setTen s t x) t = x := by
  simp only [umpTen, setTen, mapGet_mapSet_same, Option.getD_some]

theorem signReceipt_signs {s : State} {t : Nat} {r : Receipt} (hrun : s.ump.run = .running)
    (hfirst : s.ump.receipts.find? (fun r => r.tenant == t && r.bytes.isNone) = some r) :
    ∃ w, (signReceipt s t).ump.receipts = s.ump.receipts.map (fun q => if q = r then { q with bytes := some w } else q) ∧
      (signReceipt s t).out.rcpts = s.out.rcpts ++ (tenantDoms s t).map (fun d => (d, w)) ∧ (umpTen (signReceipt s t) t).prevHash = sha256 w := by
  simp only [signReceipt, hrun, hfirst, bne_self_eq_false, Bool.false_eq_true, if_false]
  exact ⟨_, rfl, rfl, congrArg UmpTen.prevHash (umpTen_setTen_same _ t _)⟩

/-- Nothing but registers, events, the Umpire's log and what is due of an opened cover changed. -/
def CoverTold (s t : State) : Prop :=
  t = { s with reg := t.reg, out := t.out, ump := { s.ump with events := t.ump.events, tamperDue := t.ump.tamperDue } }

theorem tamperEvent_told (s : State) : CoverTold s (tamperEvent s) ∧ (tamperEvent s).ump.tamperDue = false := by
  have hraise : ∀ u, RegOnly u (raiseBit u .ump 0 6 (.named EV_UMP_TAMPER [] allDoms)) := fun u => raiseBit_only u _ _ _ _
  unfold tamperEvent CoverTold
  rw [hraise, umpEvent_only]
  exact ⟨rfl, rfl⟩

/-- An opening of the cover that is still due is told. -/
def coverFound (s : State) : State := if s.ump.tamperDue then tamperEvent s else s

theorem coverFound_told (s : State) : CoverTold s (coverFound s) := by
  unfold coverFound
  split
  · exact (tamperEvent_told s).1
  · rfl

/-- The state in which the self-test's result stands. -/
def selfTestDone (s : State) (ok : Bool) : State :=
  coverFound (umpEvent { s with ump := { s.ump with run := if ok then .running else .fault } } 8 (b2n ok, 0))

theorem LogOnly.coverTold {s t u : State} (h₁ : LogOnly s t) (h₂ : CoverTold t u) : CoverTold s u := by
  unfold LogOnly at h₁
  unfold CoverTold at h₂ ⊢
  rw [h₁] at h₂
  exact h₂

theorem selfTestDone_told (s : State) (ok : Bool) :
    CoverTold { s with ump := { s.ump with run := if ok then .running else .fault } } (selfTestDone s ok) :=
  (umpEvent_only _ 8 (b2n ok, 0)).coverTold (coverFound_told _)

theorem umpSelfTest_ok {s : State} (htest : s.ump.run = .selfTest) : umpSelfTest s true =
    (selfTestDone s true).ump.requests.foldl (fun s e => umpServe s e.1 e.2) { selfTestDone s true with ump := { (selfTestDone s true).ump with requests := [] } } := by
  unfold umpSelfTest
  rw [if_neg (by simp [htest])]
  rfl

theorem umpSelfTest_fault {s : State} (htest : s.ump.run = .selfTest) : umpSelfTest s false = selfTestDone s false := by
  unfold umpSelfTest
  rw [if_neg (by simp [htest])]
  rfl

/-- Settles O54. -/
theorem umpireEvents : Obligations.UmpireEvents := by
  intro s
  refine ⟨?_, ?_, ?_, ?_, ?_, ?_, ?_, fun n => rfl, ?_, ?_, ?_⟩
  · intro f hup
    exact congrArg Outcome.next ((if_neg (by simp [hup])).trans rfl)
  · intro f ok hdown
    exact congrArg Outcome.next (if_pos (by simp [hdown]))
  · intro ns hrun hend
    refine ⟨periodClosed s ns, receiptsClosed (periodClosed s ns), congrArg Outcome.next (periodEnd_runs ns hrun hend), rfl, ?_⟩
    rw [periodClosed_only]
    exact ⟨rfl, rfl, rfl, rfl, rfl, rfl, rfl, rfl, rfl⟩
  · intro t r hrun hfirst
    obtain ⟨w, hreceipts, hsent, hhash⟩ := signReceipt_signs hrun hfirst
    exact ⟨_, w, rfl, hreceipts, hsent, hhash⟩
  · intro hrun
    obtain ⟨htold, hdue⟩ := tamperEvent_told { s with ump := { s.ump with tamper := true, tamperDue := true } }
    refine ⟨_, congrArg Outcome.next (if_pos (by simp [hrun])), ?_, hdue⟩
    rw [htold]
  · intro hrun htest
    exact congrArg Outcome.next (if_neg (by simp [hrun, htest]))
  · intro n hrun
    refine ⟨_, congrArg Outcome.next (if_neg (by simp [hrun])), ?_, ?_⟩ <;> rw [umpEvent_only]
  · intro htest
    have hdone := selfTestDone_told s true
    have hrequests : (selfTestDone s true).ump.requests = s.ump.requests := by rw [hdone]
    refine ⟨selfTestDone s true, ?_, ?_, hrequests, ?_, congrArg Outcome.next ((umpSelfTest_ok htest).trans (by rw [hrequests]))⟩
    · rw [hdone]
      rfl
    all_goals rw [hdone]
  · intro htest
    have hdone := selfTestDone_told s false
    refine ⟨_, congrArg Outcome.next (umpSelfTest_fault htest), ?_, ?_, ?_⟩
    · rw [hdone]
      rfl
    all_goals rw [hdone]
  · intro hrun
    exact congrArg Outcome.next (if_neg (by simp [hrun]))

end Sys2Proof.Machine
end

section
/-! PROOFS. Security commands: ATTEST and RIG_UPDATE (20 R429, R437). The fault block: Erg tests (21 R448, R452, R459; 22 R476), the patrol scrub (21 R450)
and a Tier F read that fails (21 R451). -/

open Host
namespace Sys2Proof.Machine

/-! ### ATTEST and RIG_UPDATE -/

section
variable {s : State} {c : Cmd} (data : List Byte)

theorem startAttest_waits (hon : domEnabled s c.dom = true) (hqp : qpCheck s c.dom (c.f3 32 16) = none) (hrun : s.stk.phase ≠ .idle) :
    startAttest c data s = { s with sec := { s.sec with quotes := s.sec.quotes ++ [{ cmd := c, bound := false }] } } := by
  simp only [startAttest, hon, hqp, hrun, Bool.not_true, Bool.false_eq_true, if_false]

theorem startAttest_idle (hon : domEnabled s c.dom = true) (hqp : qpCheck s c.dom (c.f3 32 16) = none) (hidle : s.stk.phase = .idle) :
    startAttest c data s = quoteNow s c := by
  simp only [startAttest, hon, hqp, hidle, Bool.not_true, Bool.false_eq_true, if_false, if_true]

/-- A quote goes out in the next RDMA write, to the place that the command names, and takes one free value. -/
theorem quoteNow_writes (s : State) (c : Cmd) : ∃ w, mapGet (quoteNow s c).lnk.writes s.lnk.nextIo = some w ∧ w.qp = c.f3 32 16 ∧ w.rkey = c.f3 0 32 ∧
    w.addr = c.w2.toNat ∧ (quoteNow s c).freeCtr = s.freeCtr + 1 := ⟨_, mapGet_mapSet_same .., rfl, rfl, rfl, rfl⟩

theorem startRigUpdate_rigging (hadmin : domAdmin s c.dom = true) (hqp : qpCheck s c.dom (c.f3 32 16) = none) (hkind : c.f5 0 1 = 0) :
    startRigUpdate c data s =
      if rigSigned s.sec.owner data && decide (s.sec.rigCtr ≤ (rigParse data).version) && decide ((rigNow s).elim 0 (·.version) < (rigParse data).version) then
        finishCmd { s with sec := { s.sec with
          rigs := putSlot s.sec.rigs s.sec.rigSlot { rigParse data with valid := true, digest := sha256 data } } } c E_OK
      else refuseSec s c E_SEC_RIGGING := by
  simp only [startRigUpdate, hadmin, hqp, hkind, Bool.not_true, Bool.false_eq_true, if_false, if_true]

theorem startRigUpdate_firmware (hadmin : domAdmin s c.dom = true) (hqp : qpCheck s c.dom (c.f3 32 16) = none) (hkind : c.f5 0 1 = 1) :
    startRigUpdate c data s =
      if fwSigned data && decide (s.sec.fwCtr ≤ fwParse data) && decide ((s.sec.fws[s.sec.fwSlot]?).elim 0 (·.version) < fwParse data) then
        finishCmd { s with sec := { s.sec with
          fws := putSlot s.sec.fws s.sec.fwSlot { version := fwParse data, valid := true, digest := sha256 data } } } c E_OK
      else refuseSec s c E_SEC_RIGGING := by
  simp only [startRigUpdate, hadmin, hqp, hkind, Bool.not_true, Bool.false_eq_true, if_false, Nat.one_ne_zero]

end

/-- Settles O41: a quote waits for its catch or goes out at once, and an image is judged by its signature and its version. -/
theorem securityCommands : Obligations.SecurityCommands := by
  refine ⟨?_, ?_⟩
  · intro s c htaken j hon hqp
    refine ⟨fun hrun => next_submit htaken (startAttest_waits [] hon hqp hrun), fun hidle => ?_⟩
    obtain ⟨w, hwrite, hpair, hkey, haddr, hfree⟩ := quoteNow_writes j c
    exact ⟨_, w, next_submit htaken (startAttest_idle [] hon hqp hidle), hwrite, hpair, hkey, haddr, hfree⟩
  · intro s c data htaken j hadmin hqp
    refine ⟨?_, fun hkind => next_submit htaken (startRigUpdate_firmware data hadmin hqp hkind)⟩
    rintro hkind r rfl
    exact next_submit htaken (startRigUpdate_rigging data hadmin hqp hkind)

/-! ### Erg tests -/

/-- The fault block and what leaves the device stand. -/
def KeepsFaults (s t : State) : Prop := t.flt = s.flt ∧ t.out = s.out

theorem KeepsFaults.refl (s : State) : KeepsFaults s s := ⟨rfl, rfl⟩

theorem KeepsFaults.trans {s t u : State} (h₁ : KeepsFaults s t) (h₂ : KeepsFaults t u) : KeepsFaults s u := ⟨h₂.1.trans h₁.1, h₂.2.trans h₁.2⟩

theorem updSes_keepsFaults (s : State) (sid : Nat) (f : Ses → Ses) : KeepsFaults s (updSes s sid f) := ⟨rfl, rfl⟩

/-- A pass that starts again changes the pass, its sessions and its crew. -/
theorem restartPass_keepsFaults (s : State) (i : Nat) : KeepsFaults s (restartPass s i) := by
  unfold restartPass
  split
  · exact KeepsFaults.refl s
  · refine KeepsFaults.trans ?_ (foldl_rel KeepsFaults.refl KeepsFaults.trans (fun t sid => updSes_keepsFaults t sid _) _ _)
    exact ⟨rfl, rfl⟩

theorem dropContext_keepsFaults (s : State) (pc : Nat) : KeepsFaults s (dropContext s pc) := by
  unfold dropContext
  split
  · exact KeepsFaults.refl s
  · split
    · exact KeepsFaults.trans ⟨rfl, rfl⟩ (restartPass_keepsFaults _ _)
    · exact ⟨rfl, rfl⟩

/-- The test as it joins the queue: with the frames that it takes and the time that it needs. -/
def testQueued (s : State) (t : ErgTest) : ErgTest :=
  { t with
    frames := testFrames s t.unit
    left := match s.flt.tests.find? (fun x => x.unit = t.unit && x.ended.isNone) with
      | some x => x.left
      | none => ergTime s t.unit (testFrames s t.unit).length }

/-- A test joins the queue behind those before it. -/
theorem addTest_joins (s : State) (t : ErgTest) :
    (addTest s t).flt = { s.flt with tests := s.flt.tests ++ [testQueued s t] } ∧ (addTest s t).out = s.out := by
  have hjoin : KeepsFaults { s with flt := { s.flt with tests := s.flt.tests ++ [testQueued s t] } } (addTest s t) := by
    unfold addTest
    dsimp only
    split
    · exact dropContext_keepsFaults _ _
    · exact dropContext_keepsFaults _ _
    · exact ⟨rfl, rfl⟩
  exact hjoin

section
variable {s : State} {c : Cmd} (data : List Byte) (hright : domRegWrite s c.dom = true) (hunit : unitOk (c.f2 0 32) = true)
  (hlift : c.f2 32 1 = 1 → fencedSelf s (unitTy (c.f2 0 32)) (unitIdx (c.f2 0 32)) = true ∧ (fenceEnt s (c.f2 0 32)).any (fun e => decide (2 ≤ e.count)) = false)
include hright hunit hlift

/-- An ERG whose checks pass joins the test of its unit that runs, or queues one. -/
theorem startErg_tests : startErg c data s =
    if s.flt.tests.any (fun t => t.unit = c.f2 0 32 && t.ended.isNone) then
      { s with flt := { s.flt with tests := s.flt.tests.map (fun t =>
        if t.unit = c.f2 0 32 && t.cls = (s.flt.tests.find? (fun t => t.unit = c.f2 0 32 && t.ended.isNone)).elim 0 (·.cls) && t.ended.isNone then
          { t with cmds := t.cmds ++ [c] } else t) } }
    else addTest s { unit := c.f2 0 32, cls := 0, cmds := [c] } := by
  have hguard : (decide (c.f2 32 1 = 1) && (!fencedSelf s (unitTy (c.f2 0 32)) (unitIdx (c.f2 0 32)) ||
      (fenceEnt s (c.f2 0 32)).any (fun e => decide (2 ≤ e.count)))) = false := by
    by_cases hask : c.f2 32 1 = 1
    · obtain ⟨hfenced, hfirst⟩ := hlift hask
      simp [hfenced, hfirst]
    · simp [hask]
  exact (if_neg (by simp [hright])).trans ((if_neg (by simp [hunit])).trans (if_neg (by simp [hguard])))

end

/-- A result stands in the tests of its unit that the stroke gives the rest of their time. -/
theorem ergTestEnd_of_running {s : State} {u : Nat} (pass : Bool) (row : Option Nat)
    (hrun : s.flt.tests.any (fun t => t.unit = u && t.ended.isNone) = true) :
    ergTestEnd s u pass row = { s with flt := { s.flt with tests := (s.flt.tests.zip (ergGives s)).map (fun e =>
      if e.1.unit = u && e.1.ended.isNone && !e.1.queued && decide (e.1.left ≤ e.2) then { e.1 with ended := some (pass, row) } else e.1) } } :=
  if_pos hrun

/-- The lane that bring-up's coverage of a half-bank, a PC or a lane concerns. -/
def coverLane (u : Nat) : Nat := match unitTy u with | 3 => unitIdx u / 8192 | 4 => unitIdx u / 64 | 6 => unitIdx u | _ => 15

theorem coverLane_eq {u lane : Nat}
    (h : unitTy u = 3 ∧ unitIdx u / 8192 = lane ∨ unitTy u = 4 ∧ unitIdx u / 64 = lane ∨ unitTy u = 6 ∧ unitIdx u = lane) : coverLane u = lane := by
  rcases h with ⟨hty, hidx⟩ | ⟨hty, hidx⟩ | ⟨hty, hidx⟩ <;> simp only [coverLane, hty, hidx]

/-- The state in which a half-bank's test is counted, and its failure. -/
def halfBankCounted (s : State) (pass : Bool) : State :=
  if pass then cnt s R.BOOT_COVER_HB_TESTED 1 else cnt (cnt s R.BOOT_COVER_HB_TESTED 1) R.BOOT_COVER_HB_FAILED 1

theorem halfBankCounted_only (s : State) (pass : Bool) : RegOnly s (halfBankCounted s pass) := by
  unfold halfBankCounted
  split
  · exact cnt_only _ _ _
  · exact (cnt_only _ _ _).trans (cnt_only _ _ _)

/-- The state in which the counters of the coverage stand. -/
def coverCounted (s : State) (u : Nat) (pass : Bool) : State :=
  if unitTy u = 3 then
    if rdF (halfBankCounted s pass) R.BOOT_LANES_COVERING = coverLane u then
      wrF (halfBankCounted s pass) R.BOOT_LANES_HB_DONE (min 8192 (rdF (halfBankCounted s pass) R.BOOT_LANES_HB_DONE + 1))
    else halfBankCounted s pass
  else s

theorem coverCounted_only (s : State) (u : Nat) (pass : Bool) : RegOnly s (coverCounted s u pass) := by
  unfold coverCounted
  split
  · split
    · exact (halfBankCounted_only s pass).trans (wrF_only _ _ _)
    · exact halfBankCounted_only s pass
  · exact RegOnly.refl s

/-- A result of the coverage waits for the finish. -/
theorem ergTestEnd_of_covered {s : State} {u : Nat} (pass : Bool) (row : Option Nat) (hunit : unitOk u = true)
    (hnone : s.flt.tests.any (fun t => t.unit = u && t.ended.isNone) = false) (hlane : coverLane u < 10) (hcover : covering s (coverLane u) = true) :
    ergTestEnd s u pass row = { coverCounted s u pass with flt := { (coverCounted s u pass).flt with
      tests := (coverCounted s u pass).flt.tests ++ [{ unit := u, cls := 0, ended := some (pass, row) }] } } := by
  have hguard : (!unitOk u || decide (10 ≤ coverLane u) || !covering s (coverLane u)) = false := by
    simp [hunit, hcover, hlane]
  exact (if_neg (by simp [hnone])).trans (if_neg (by rw [← Bool.not_eq_true] at hguard; exact hguard))

/-- Settles O42. -/
theorem ergTests : Obligations.ErgTests := by
  refine ⟨?_, ?_⟩
  · intro s c htaken j hright hunit hlift
    have htests := startErg_tests [] hright hunit hlift
    refine ⟨fun hnone => ?_, fun x hfirst => ?_⟩
    · obtain ⟨hflt, hout⟩ := addTest_joins j { unit := c.f2 0 32, cls := 0, cmds := [c] }
      refine ⟨_, testQueued j { unit := c.f2 0 32, cls := 0, cmds := [c] }, next_submit htaken (htests.trans (if_neg (by rw [← Bool.not_eq_true] at hnone; exact hnone))),
        ?_, rfl, rfl, rfl, rfl, ?_, ?_⟩
      · rw [hflt]
        rfl
      · rw [hflt]
        rfl
      · rw [hout]
        rfl
    · have hof := List.find?_some hfirst
      have hsome : j.flt.tests.any (fun t => t.unit = c.f2 0 32 && t.ended.isNone) = true :=
        List.any_eq_true.mpr ⟨x, List.mem_of_find?_eq_some hfirst, hof⟩
      have hcls : (j.flt.tests.find? (fun t => t.unit = c.f2 0 32 && t.ended.isNone)).elim 0 (·.cls) = x.cls :=
        congrArg (fun o : Option ErgTest => o.elim 0 (·.cls)) hfirst
      rw [if_pos hsome, hcls] at htests
      exact next_submit htaken htests
  · intro s u pass row hunit
    have hrow : exec (.ergTestEnd u pass row) s = .next (ergTestEnd s u pass row) := if_pos hunit
    rw [hrow]
    refine ⟨fun hrun => congrArg Outcome.next (ergTestEnd_of_running pass row hrun), fun hnone lane hlane hcover hty => ?_⟩
    have heq := coverLane_eq hty
    have hcounted := coverCounted_only s u pass
    refine ⟨_, congrArg Outcome.next (ergTestEnd_of_covered pass row hunit hnone (by omega) (by rw [heq]; exact hcover)), ?_, by rw [hcounted]⟩
    rw [hcounted]

/-! ### The patrol scrub -/

/-- Nothing but registers, events and the errors of the stroke changed. -/
def NotesOnly (s t : State) : Prop := t = { s with reg := t.reg, out := t.out, flt := { s.flt with notes := t.flt.notes } }

theorem NotesOnly.refl (s : State) : NotesOnly s s := rfl

theorem NotesOnly.trans {s t u : State} (h₁ : NotesOnly s t) (h₂ : NotesOnly t u) : NotesOnly s u := by
  unfold NotesOnly at h₁ h₂ ⊢
  rw [h₁] at h₂
  exact h₂

theorem RegOnly.notesOnly {s t : State} (h : RegOnly s t) : NotesOnly s t := by
  unfold RegOnly at h
  rw [h]
  rfl

theorem pullNotes_only (s : State) (g row : Nat) (fixed bad : List Nat) : NotesOnly s (pullNotes s g row fixed bad) := by
  have hnote : ∀ (u : State) (n : ErrNote), NotesOnly u (noteErr u n) := fun _ _ => rfl
  have hfixed : ∀ (n : ErrNote) (i : Nat), NotesOnly s (if fixed.isEmpty then s else noteErr (cntI s R.PCH_CW_CORRECTED i fixed.length) n) := by
    intro n i
    split
    · exact NotesOnly.refl s
    · exact (cntI_only _ _ _ _).notesOnly.trans (hnote _ n)
  unfold pullNotes
  dsimp only
  split
  · exact hfixed _ _
  · exact ((hfixed _ _).trans ((cntI_only _ _ _ _).trans (recordErr_only _ _ _ _ _)).notesOnly).trans (hnote _ _)

/-- What one half-bank's row shows is noted. -/
def scrubBank (flips : List (Nat × Nat × Byte)) (row : Nat) (s : State) (g : Nat) : State :=
  if 81920 ≤ g || hbFenced s g then s
  else
    let (_, fixed, bad) := rowRead s g row ((flips.filter (fun (e : Nat × Nat × Byte) => e.1 = g)).map (fun (e : Nat × Nat × Byte) => e.2))
    pullNotes s g row fixed bad

theorem scrubBank_only (flips : List (Nat × Nat × Byte)) (row : Nat) (s : State) (g : Nat) : NotesOnly s (scrubBank flips row s g) := by
  unfold scrubBank
  split
  · exact NotesOnly.refl s
  · exact pullNotes_only _ _ _ _ _

/-- The state in which a row of every half-bank has been read. -/
def scrubRead (s : State) (flips : List (Nat × Nat × Byte)) : State :=
  ((flips.map (fun (e : Nat × Nat × Byte) => e.1)).foldl setAdd []).foldl (scrubBank flips s.flt.scrubRow) s

theorem scrubRead_only (s : State) (flips : List (Nat × Nat × Byte)) : NotesOnly s (scrubRead s flips) :=
  foldl_rel NotesOnly.refl NotesOnly.trans (scrubBank_only flips s.flt.scrubRow) _ s

/-- The scrub goes on to the next row. -/
def scrubNext (s : State) (row : Nat) : State := { s with flt := { s.flt with scrubRow := (row + 1) % 8192 } }

theorem patrolScrub_runs {s : State} (flips : List (Nat × Nat × Byte)) (hon : rdF s R.FLT_CFG_SCRUB_STROKES ≠ 0) :
    patrolScrub s flips = if s.flt.scrubRow + 1 = 8192 then cnt (scrubNext (scrubRead s flips) s.flt.scrubRow) R.FLT_SCRUB_PASSES 1
      else scrubNext (scrubRead s flips) s.flt.scrubRow := if_neg hon

theorem patrolScrub_only {s : State} (flips : List (Nat × Nat × Byte)) (hon : rdF s R.FLT_CFG_SCRUB_STROKES ≠ 0) :
    NotesOnly (scrubNext s s.flt.scrubRow) (patrolScrub s flips) := by
  have hnext : NotesOnly (scrubNext s s.flt.scrubRow) (scrubNext (scrubRead s flips) s.flt.scrubRow) := by
    have hread := scrubRead_only s flips
    unfold NotesOnly at hread ⊢
    unfold scrubNext
    rw [hread]
  rw [patrolScrub_runs flips hon]
  split
  · exact hnext.trans (cnt_only _ _ _).notesOnly
  · exact hnext

/-! ### A Tier F read that fails -/

section
variable {s : State} {f : Nat} {x : Sealed} {e : Pte}

/-- The state in which the failed read is noted as an error of class 9. -/
def readNoted (s : State) (f page : Nat) : State :=
  noteErr (recordErr s .fch ((Config.dieOfFrame f).toNat / 8) ((Config.dieOfFrame f).toNat % 8) E_FLASH_READ)
    { cls := 9, unit := unitId 9 (Config.dieOfFrame f).toNat, code := E_FLASH_READ, page := some page }

theorem pteOf_readNoted (hpage : pteOf s x.page = some e) : pteOf (readNoted s f x.page) x.page = some e := by
  have hnoted : (readNoted s f x.page).tier = s.tier := by
    show (recordErr s _ _ _ _).tier = _
    rw [recordErr_only]
  rw [← hpage, pteOf, hnoted]
  rfl

variable (hsealed : mapGet s.tier.sealedAt f = some x) (hpage : pteOf s x.page = some e)
include hsealed hpage

theorem flashFail_retried (parityOk : Bool) : flashFail s f true parityOk = readNoted s f x.page := by
  have hpte := pteOf_readNoted (f := f) hpage
  unfold readNoted at hpte ⊢
  simp only [flashFail, hsealed, hpte, Bool.true_or, if_true]

/-- A read that no second read serves, of the page's own copy. -/
theorem flashFail_of_copy (parityOk : Bool) (hcopy : e.f = true) (hframe : e.fFrame = f) : flashFail s f false parityOk =
    if parityOk then putSealed (readNoted s f x.page) x.page { x with ctr := (readNoted s f x.page).tier.sealCtr + 1 }
    else if e.h then freeF1 (readNoted s f x.page) x.page
    else if e.cls = 5 then readNoted s f x.page
    else loseFlt (readNoted s f x.page) x.page := by
  have hpte := pteOf_readNoted (f := f) hpage
  unfold readNoted at hpte ⊢
  simp [flashFail, hsealed, hpte, hcopy, hframe]

end

/-- Settles O43. -/
theorem mediaErrors : Obligations.MediaErrors := by
  refine ⟨?_, ?_⟩
  · intro s flips
    refine ⟨fun hoff => congrArg Outcome.next (if_pos hoff), fun hon => ?_, fun hon hrow hclean => ?_⟩
    · have honly := patrolScrub_only flips hon
      refine ⟨_, rfl, ?_, ?_, ?_⟩ <;> rw [honly] <;> rfl
    · subst hclean
      refine congrArg Outcome.next ((patrolScrub_runs [] hon).trans ((if_neg (by omega)).trans ?_))
      show scrubNext s s.flt.scrubRow = _
      rw [scrubNext, Nat.mod_eq_of_lt (by omega)]
  · intro s f retryOk parityOk hf
    have hrow : ∀ r p, exec (.flashReadFail f r p) s = .next (flashFail s f r p) := fun _ _ => if_neg (by omega)
    simp only [hrow]
    refine ⟨fun hnone => ?_, fun x e hsealed hpage => ⟨?_, fun hcopy hframe => ⟨?_, fun hhbm => ?_, fun hcold hcls => ?_⟩⟩⟩
    · simp only [flashFail, hnone]
    · exact congrArg Outcome.next (flashFail_retried hsealed hpage parityOk)
    · exact congrArg Outcome.next ((flashFail_of_copy hsealed hpage true hcopy hframe).trans (if_pos rfl))
    · exact congrArg Outcome.next ((flashFail_of_copy hsealed hpage false hcopy hframe).trans ((if_neg (by decide)).trans (if_pos hhbm)))
    · exact congrArg Outcome.next ((flashFail_of_copy hsealed hpage false hcopy hframe).trans
        ((if_neg (by decide)).trans ((if_neg (by simp [hcold])).trans (if_neg hcls))))

end Sys2Proof.Machine
end

section
/-! PROOFS. Bring-up (22 R471): an image that cannot be placed blocks its plan, and a blocked plan refuses what is bound to it. -/

open Host
namespace Sys2Proof.Machine

/-! ### A reinstall that is not without effect on sessions -/

/-- The head of a plan of model 1 without legs. -/
def strayHdr : PlanHdr where
  model := 1
  version := 1
  kind := 0
  tenant := 0
  layers := 0
  dModel := 0
  kvHeads := 0
  log2g := 0
  log2d := 0
  kvFmt := 0
  actFmt := 0
  log2p := 0
  ctxLimit := 0
  vocab := 0
  stepLegs := 0
  appendLegs := 0
  batch := 0
  posMax := 0
  kvPerBlade := 0
  legs := 0
  experts := 0
  privSlots := 0
  sectOff := 0
  sectCount := 0
  bytes := 0
  routeK := 0
  ropePair := 0
  rotPairs := 0

/-- A plan whose only page has its place in a lane that does not exist. -/
def strayPlan : Plan := { hdr := strayHdr, pages := [0], frames := [10 * 2 ^ 20] }

/-- A STEP that is ready. -/
def heldStep : Run :=
  { cmd := { dom := 0, assoc := 0, w0 := 0x12, w1 := 0, w2 := 0, w3 := 0, w4 := 0, w5 := 0, w6 := 0, w7 := 0 }, data := [], ph := .ready, epoch := 0 }

/-- A session of model 1 with the STEP at its head. -/
def boundSes : Ses := { d := { session := 0, gen := 0, tenant := 0, owner := 0, model := 1, crew := 0, domains := 0 }, head := some heldStep }

/-- Bring-up with every lane trained, the plan to install again, and the session bound to it. -/
def strayBoot : State :=
  { wrF State.reset R.BOOT_LANES_TRAINED 1023 with boot := { sl0 := true, plans := [strayPlan] }, ses := { tab := [(0, boundSes)] } }

theorem strayBoot_trained : ∀ k, k < 10 → laneTrained strayBoot k = true ∨ laneFenced strayBoot k = true := by decide

/-- The plan is blocked, and the STEP bound to it loses the head of its session. -/
theorem reinstall_strayBoot_heads : (reinstall strayBoot).ses.tab.map (fun e => e.2.head.isNone) = [true] := rfl

theorem strayBoot_heads : strayBoot.ses.tab.map (fun e => e.2.head.isNone) = [false] := rfl

/-- Refutes O55: IMAGE_REINSTALL does not leave the sessions alone. A plan with a page that finds no frame is blocked, and blocking it refuses
the STEP at the head of a session that is bound to it; the statement does not leave such states out. -/
theorem not_bringUp : ¬ Obligations.BringUp := by
  intro h
  obtain ⟨-, -, hreinstall, -⟩ := h strayBoot
  obtain ⟨t, hstep, -, -, -, -, -, -, hses, -⟩ := hreinstall rfl rfl rfl rfl strayBoot_trained
  have ht : reinstall strayBoot = t := Outcome.next.inj hstep
  have hheads := reinstall_strayBoot_heads
  rw [ht, hses, strayBoot_heads] at hheads
  exact absurd hheads (by decide)

end Sys2Proof.Machine
end

section
/-! PROOFS. A step takes exactly the command at the front of the queue and never takes a free value a second time: what every operation of the
model leaves of the queue and of the count of free values. -/

open Host
namespace Sys2Proof.Machine

/-- The queue stands as in `a`, and no free value that `a` has taken is given back. -/
def Ahead (a s : State) : Prop := s.pending = a.pending ∧ a.freeCtr ≤ s.freeCtr

/-- The state that an operation answers, if it answers one, is ahead. -/
def AheadOpt (a : State) (o : Option State) : Prop := ∀ t, o = some t → Ahead a t

/-- The state that an operation answers, if it answers no code, is ahead. -/
def AheadSum (a : State) (o : Nat ⊕ State) : Prop := ∀ t, o = .inr t → Ahead a t

/-- The next state of a row is ahead. -/
def AheadOut (a : State) (o : Outcome State Fault Refusal) : Prop := ∀ t, o = .next t → Ahead a t

section
variable {a s t u : State}

theorem Ahead.refl (s : State) : Ahead s s := ⟨rfl, Nat.le_refl _⟩

/-- A change of other fields. -/
theorem Ahead.put {reg} {out} {ses} {pfx} {tier} {time} {stk} {prg} {crw} {courses} {courseWaits} {bld} {gov} {flt} {lnk} {eg} {txt} {gsx} {mem} {ump}
    {ckp} {pwr} {sec} {boot} {mod} (h : Ahead a s) :
    Ahead a ⟨s.pending, s.freeCtr, reg, out, ses, pfx, tier, time, stk, prg, crw, courses, courseWaits, bld, gov, flt, lnk, eg, txt, gsx, mem, ump,
        ckp, pwr, sec, boot, mod⟩ := h

/-- A change of other fields that takes `n` free values. -/
theorem Ahead.spend {reg} {out} {ses} {pfx} {tier} {time} {stk} {prg} {crw} {courses} {courseWaits} {bld} {gov} {flt} {lnk} {eg} {txt} {gsx} {mem}
    {ump} {ckp} {pwr} {sec} {boot} {mod} {n : Nat} (h : Ahead a s) :
    Ahead a ⟨s.pending, s.freeCtr + n, reg, out, ses, pfx, tier, time, stk, prg, crw, courses, courseWaits, bld, gov, flt, lnk, eg, txt, gsx, mem,
        ump, ckp, pwr, sec, boot, mod⟩ := ⟨h.1, Nat.le_trans h.2 (Nat.le_add_right _ _)⟩

theorem Ahead.ite {c : Prop} [Decidable c] (h : Ahead a s) (k : Ahead a t) : Ahead a (if c then s else t) := by
  split
  · exact h
  · exact k

theorem Ahead.ite1 {β : Type} {c : Prop} [Decidable c] {p q : State × β} (h : Ahead a p.1) (k : Ahead a q.1) :
    Ahead a (if c then p else q).1 := by
  split
  · exact h
  · exact k

theorem Ahead.ite2 {β : Type} {c : Prop} [Decidable c] {p q : β × State} (h : Ahead a p.2) (k : Ahead a q.2) :
    Ahead a (if c then p else q).2 := by
  split
  · exact h
  · exact k

theorem Ahead.ite21 {β γ : Type} {c : Prop} [Decidable c] {p q : γ × State × β} (h : Ahead a p.2.1) (k : Ahead a q.2.1) :
    Ahead a (if c then p else q).2.1 := by
  split
  · exact h
  · exact k

theorem Ahead.ite22 {β γ : Type} {c : Prop} [Decidable c] {p q : γ × β × State} (h : Ahead a p.2.2) (k : Ahead a q.2.2) :
    Ahead a (if c then p else q).2.2 := by
  split
  · exact h
  · exact k

theorem Ahead.ite222 {β γ δ : Type} {c : Prop} [Decidable c] {p q : δ × γ × β × State} (h : Ahead a p.2.2.2) (k : Ahead a q.2.2.2) :
    Ahead a (if c then p else q).2.2.2 := by
  split
  · exact h
  · exact k

theorem Ahead.ite2222 {β γ δ ε : Type} {c : Prop} [Decidable c] {p q : ε × δ × γ × β × State} (h : Ahead a p.2.2.2.2) (k : Ahead a q.2.2.2.2) :
    Ahead a (if c then p else q).2.2.2.2 := by
  split
  · exact h
  · exact k

/-- A change under a condition. -/
theorem Ahead.iteThen {c : Prop} [Decidable c] (h : Ahead a s) (k : Ahead a s → Ahead a t) : Ahead a (if c then t else s) := (k h).ite h

theorem Ahead.iteElse {c : Prop} [Decidable c] (h : Ahead a s) (k : Ahead a s → Ahead a t) : Ahead a (if c then s else t) := h.ite (k h)

theorem Ahead.foldl {α : Type} {f : State → α → State} {l : List α} (h : Ahead a s) (hf : ∀ s x, Ahead a s → Ahead a (f s x)) :
    Ahead a (l.foldl f s) :=
  List.foldlRecOn l f h fun s h x _ => hf s x h

theorem foldl_ahead1 {α β : Type} {f : State × β → α → State × β} {l : List α} {p : State × β} (h : Ahead a p.1)
    (hf : ∀ p x, Ahead a p.1 → Ahead a (f p x).1) : Ahead a (l.foldl f p).1 :=
  List.foldlRecOn (motive := fun p => Ahead a p.1) l f h fun p h x _ => hf p x h

theorem foldl_ahead2 {α β : Type} {f : β × State → α → β × State} {l : List α} {p : β × State} (h : Ahead a p.2)
    (hf : ∀ p x, Ahead a p.2 → Ahead a (f p x).2) : Ahead a (l.foldl f p).2 :=
  List.foldlRecOn (motive := fun p => Ahead a p.2) l f h fun p h x _ => hf p x h

theorem foldl_ahead21 {α β γ : Type} {f : β × State × γ → α → β × State × γ} {l : List α} {p : β × State × γ} (h : Ahead a p.2.1)
    (hf : ∀ p x, Ahead a p.2.1 → Ahead a (f p x).2.1) : Ahead a (l.foldl f p).2.1 :=
  List.foldlRecOn (motive := fun p => Ahead a p.2.1) l f h fun p h x _ => hf p x h

theorem Ahead.of_eq2 {β : Type} {p : β × State} {y : β} (h : Ahead a p.2) (he : p = (y, t)) : Ahead a t := by
  rw [he] at h
  exact h

theorem AheadOpt.none : AheadOpt a none := fun _ h => nomatch h

theorem AheadOpt.some (h : Ahead a s) : AheadOpt a (some s) := fun _ k => Option.some.inj k ▸ h

theorem AheadOpt.ite {c : Prop} [Decidable c] {o q : Option State} (h : AheadOpt a o) (k : AheadOpt a q) : AheadOpt a (if c then o else q) := by
  split
  · exact h
  · exact k

theorem AheadOpt.map {α : Type} {o : Option α} {f : α → State} (h : ∀ x, Ahead a (f x)) : AheadOpt a (o.map f) := by
  cases o with
  | none => exact AheadOpt.none
  | some x => exact AheadOpt.some (h x)

theorem AheadOpt.bind {o : Option State} {f : State → Option State} (h : AheadOpt a o) (hf : ∀ s, Ahead a s → AheadOpt a (f s)) :
    AheadOpt a (o.bind f) := by
  cases o with
  | none => exact AheadOpt.none
  | some t => exact hf t (h t rfl)

theorem AheadOpt.bind2 {β : Type} {o : Option State} {f : State → Option (β × State)} (h : AheadOpt a o)
    (hf : ∀ s, Ahead a s → AheadOpt a ((f s).map (·.2))) : AheadOpt a ((o.bind f).map (·.2)) := by
  cases o with
  | none => exact AheadOpt.none
  | some t => exact hf t (h t rfl)

theorem AheadOpt.ite2 {β : Type} {c : Prop} [Decidable c] {o q : Option (β × State)} (h : AheadOpt a (o.map (·.2))) (k : AheadOpt a (q.map (·.2))) :
    AheadOpt a ((if c then o else q).map (·.2)) := by
  split
  · exact h
  · exact k

theorem AheadOpt.getD {o : Option State} (h : AheadOpt a o) (k : Ahead a s) : Ahead a (o.getD s) := by
  cases o with
  | none => exact k
  | some t => exact h t rfl

theorem AheadOpt.of_eq {o : Option State} (h : AheadOpt a o) (he : o = Option.some t) : Ahead a t := h t he

theorem AheadOpt.of_eq2 {β : Type} {o : Option (β × State)} {y : β} (h : AheadOpt a (o.map (·.2))) (he : o = Option.some (y, t)) : Ahead a t :=
  h t (by rw [he]; rfl)

theorem AheadSum.inl {e : Nat} : AheadSum a (.inl e) := fun _ h => nomatch h

theorem AheadSum.inr (h : Ahead a s) : AheadSum a (.inr s) := fun _ k => Sum.inr.inj k ▸ h

theorem AheadSum.ite {c : Prop} [Decidable c] {o q : Nat ⊕ State} (h : AheadSum a o) (k : AheadSum a q) : AheadSum a (if c then o else q) := by
  split
  · exact h
  · exact k

theorem AheadSum.of_eq {o : Nat ⊕ State} (h : AheadSum a o) (he : o = .inr t) : Ahead a t := h t he

theorem AheadOut.next (h : Ahead a s) : AheadOut a (.next s) := fun _ k => Outcome.next.inj k ▸ h

theorem AheadOut.fault {φ : Fault} : AheadOut a (.fault φ) := fun _ k => nomatch k

theorem AheadOut.refused {ρ : Refusal} : AheadOut a (.refused ρ) := fun _ k => nomatch k

theorem AheadOut.ite {c : Prop} [Decidable c] {o q : Outcome State Fault Refusal} (h : AheadOut a o) (k : AheadOut a q) :
    AheadOut a (if c then o else q) := by
  split
  · exact h
  · exact k

end

/-! ### What each operation leaves of the queue and of the free values

One lemma per operation of the model, in the order and under the chapters of the model. -/

section
variable {a s : State}

/-! ### Register fields, events and completions -/

theorem ahead_wrWord {b : Blk} {inst bank off v : Nat} (h : Ahead a s) : Ahead a (wrWord s b inst bank off v) := Ahead.put h

theorem ahead_wrFx {f : Fld} {inst bank i v : Nat} (h : Ahead a s) : Ahead a (wrFx s f inst bank i v) := ahead_wrWord h

theorem ahead_wrF {f : Fld} {v : Nat} (h : Ahead a s) : Ahead a (wrF s f v) := ahead_wrFx h

theorem ahead_wrB {f : Fld} {bank v : Nat} (h : Ahead a s) : Ahead a (wrB s f bank v) := ahead_wrFx h

theorem ahead_wrI {f : Fld} {inst v : Nat} (h : Ahead a s) : Ahead a (wrI s f inst v) := ahead_wrFx h

theorem ahead_cntI {f : Fld} {inst n : Nat} (h : Ahead a s) : Ahead a (cntI s f inst n) := ahead_wrI h

theorem ahead_cnt {f : Fld} {n : Nat} (h : Ahead a s) : Ahead a (cnt s f n) := ahead_cntI h

theorem ahead_cntB {f : Fld} {bank n : Nat} (h : Ahead a s) : Ahead a (cntB s f bank n) := ahead_wrB h

theorem ahead_pushEvent {d : Nat} {r : EvRec} (h : Ahead a s) : Ahead a (pushEvent s d r) := Ahead.ite (Ahead.put h) (ahead_cntB (Ahead.put h))

theorem ahead_pushEvents {ds : List Nat} {r : EvRec} (h : Ahead a s) : Ahead a (pushEvents s ds r) := Ahead.foldl h fun _ _ => ahead_pushEvent

theorem ahead_sendEvent {page code : Nat} {words ds : List Nat} (h : Ahead a s) : Ahead a (sendEvent s page code words ds) := ahead_pushEvents h

theorem ahead_raiseBit {b : Blk} {inst bit : Nat} {whom : EvTo} (h : Ahead a s) : Ahead a (raiseBit s b inst bit whom) := by
  unfold raiseBit
  dsimp only
  split
  · exact Ahead.iteThen (ahead_pushEvents (Ahead.ite (ahead_wrI h) h)) fun h => ahead_pushEvents h
  · exact Ahead.iteThen (Ahead.ite (ahead_wrI h) h) fun h => ahead_pushEvents h
  · exact Ahead.iteThen (Ahead.ite (ahead_wrI h) h) fun h => ahead_pushEvents h

theorem ahead_recordErr {b : Blk} {inst unit code : Nat} (h : Ahead a s) : Ahead a (recordErr s b inst unit code) :=
  ahead_cntI (ahead_raiseBit (Ahead.ite h (ahead_wrWord h)))

theorem ahead_stage {k : Commit} (h : Ahead a s) : Ahead a (stage s k) := Ahead.put h

theorem ahead_sendCpl {d : Done} (h : Ahead a s) : Ahead a (sendCpl s d) := Ahead.put h

theorem ahead_stageDone {d : Done} (h : Ahead a s) : Ahead a (stageDone s d) := Ahead.ite (ahead_sendCpl h) (Ahead.put h)

theorem ahead_finishCmd {c : Cmd} {status : Nat} (h : Ahead a s) : Ahead a (finishCmd s c status) := ahead_stageDone h

theorem ahead_nextFree (h : Ahead a s) : Ahead a (nextFree s).2 := Ahead.spend h

/-! ### SAS pages, frames and charges -/

theorem ahead_setPte {p : Nat} {e : Pte} (h : Ahead a s) : Ahead a (setPte s p e) := Ahead.put h

theorem ahead_updPte {p : Nat} {f : Pte → Pte} (h : Ahead a s) : Ahead a (updPte s p f) := Ahead.put h

theorem ahead_updPtes {ps : List Nat} {f : Pte → Pte} (h : Ahead a s) : Ahead a (updPtes s ps f) := Ahead.foldl h fun _ _ => ahead_updPte

theorem ahead_addCharge {c : Charge} (h : Ahead a s) : Ahead a (addCharge s c) := Ahead.ite h (Ahead.put h)

theorem ahead_dropCharges {owner : Nat} (h : Ahead a s) : Ahead a (dropCharges s owner) := Ahead.put h

theorem ahead_useCharge {owner tier n : Nat} (h : Ahead a s) : Ahead a (useCharge s owner tier n) := Ahead.put h

theorem ahead_zeroFrame {f : Nat} (h : Ahead a s) : Ahead a (zeroFrame s f) := Ahead.put h

theorem ahead_writeFrame {f off : Nat} {bs : List Byte} (h : Ahead a s) : Ahead a (writeFrame s f off bs) := Ahead.put h

theorem ahead_fillFrame {f : Nat} {cells : Map Byte} (h : Ahead a s) : Ahead a (fillFrame s f cells) := Ahead.put (ahead_zeroFrame h)

theorem ahead_writePage {p off : Nat} {bs : List Byte} (h : Ahead a s) : Ahead a (writePage s p off bs) := by
  unfold writePage
  split
  · exact Ahead.ite (ahead_writeFrame h) h
  · exact h

theorem ahead_touch {p : Nat} (h : Ahead a s) : Ahead a (touch s p) := ahead_stage h

theorem ahead_newPage {p f tenant cls : Nat} {committed : Bool} (h : Ahead a s) : Ahead a (newPage s p f tenant cls committed) :=
  Ahead.put (ahead_setPte h)

theorem ahead_allocPagesAway {n tenant cls mask : Nat} {committed : Bool} {avoid : List Nat} (h : Ahead a s) :
    AheadOpt a ((allocPagesAway s n tenant cls mask committed avoid).map (·.2)) := by
  unfold allocPagesAway
  split
  · exact AheadOpt.none
  · exact AheadOpt.some (Ahead.foldl h fun _ _ => ahead_newPage)

theorem ahead_allocPages {n tenant cls mask : Nat} {committed : Bool} (h : Ahead a s) :
    AheadOpt a ((allocPages s n tenant cls mask committed).map (·.2)) :=
  ahead_allocPagesAway h

theorem ahead_freeH1 {p : Nat} (h : Ahead a s) : Ahead a (freeH1 s p) := by
  unfold freeH1
  split
  · exact h
  · exact Ahead.ite (ahead_setPte (Ahead.put (ahead_zeroFrame h))) h

theorem ahead_freePage {p : Nat} (h : Ahead a s) : Ahead a (freePage s p) := by
  unfold freePage
  split
  · exact h
  · exact Ahead.put (ahead_freeH1 h)

theorem ahead_freePages {ps : List Nat} (h : Ahead a s) : Ahead a (freePages s ps) := Ahead.foldl h fun _ _ => ahead_freePage

theorem ahead_freeF1 {p : Nat} (h : Ahead a s) : Ahead a (freeF1 s p) := by
  unfold freeF1
  split
  · exact h
  · exact Ahead.ite (ahead_setPte (Ahead.put h)) h

theorem ahead_putSealed {p : Nat} {x : Sealed} (h : Ahead a s) : Ahead a (putSealed s p x) := by
  unfold putSealed
  split
  · exact h
  · exact ahead_setPte (Ahead.put h)

theorem ahead_unpinF {p : Nat} (h : Ahead a s) : Ahead a (unpinF s p) := by
  unfold unpinF
  split
  · exact h
  · exact ahead_setPte (Ahead.put h)

theorem ahead_noteErr {n : ErrNote} (h : Ahead a s) : Ahead a (noteErr s n) := Ahead.put h

/-! ### Blades -/

theorem ahead_updLeg {k : Nat} {f : GLeg → GLeg} (h : Ahead a s) : Ahead a (updLeg s k f) := Ahead.put h

theorem ahead_taintLeg {k g : Nat} (h : Ahead a s) : Ahead a (taintLeg s k g) := ahead_updLeg h

theorem ahead_poisonLeg {k : Nat} {g : Option Nat} (h : Ahead a s) : Ahead a (poisonLeg s k g) := by
  unfold poisonLeg
  split
  · exact h
  · refine Ahead.ite h ?_
    dsimp only
    split
    · exact ahead_cntI (ahead_taintLeg (ahead_updLeg h))
    · exact ahead_updLeg h

theorem ahead_sramPut {g off : Nat} {bs : List Byte} (h : Ahead a s) : Ahead a (sramPut s g off bs) := Ahead.put h

theorem ahead_accPut {g w : Nat} {v : Num} (h : Ahead a s) : Ahead a (accPut s g w v) := ahead_sramPut h

theorem ahead_pairPut {g n : Nat} {m : Int} {l : Num} (h : Ahead a s) : Ahead a (pairPut s g n m l) := ahead_sramPut h

theorem ahead_setRun {g : Nat} {r : BladeRun} (h : Ahead a s) : Ahead a (setRun s g r) := Ahead.put h

theorem ahead_updRun {g : Nat} {f : BladeRun → BladeRun} (h : Ahead a s) : Ahead a (updRun s g f) := ahead_setRun h

theorem ahead_putResident {p : Plan} {g at_ : Nat} (h : Ahead a s) : Ahead a (putResident s p g at_) :=
  Ahead.foldl h fun _ _ h => Ahead.foldl h fun _ _ h => Ahead.ite (ahead_sramPut h) h

theorem ahead_runDot {g : Nat} {e : Word} {d : List Byte} {bad : List Nat} {sblk : Nat} (h : Ahead a s) : Ahead a (runDot s g e d bad sblk).2 :=
  Ahead.foldl h fun _ _ => ahead_accPut

theorem ahead_runAxpy {g : Nat} {e : Word} {d : List Byte} {bad : List Nat} {sblk : Nat} (h : Ahead a s) : Ahead a (runAxpy s g e d bad sblk).2 :=
  Ahead.foldl h fun _ _ => ahead_accPut

theorem ahead_attOne {g fmt dsz acc scr n : Nat} {key val q : Nat → Num} {base : Nat} (h : Ahead a s) :
    Ahead a (attOne s g fmt dsz acc scr n key val q base) :=
  Ahead.foldl (ahead_pairPut (Ahead.ite (Ahead.foldl (ahead_pairPut h) fun _ _ => ahead_accPut) h)) fun _ _ => ahead_accPut

theorem ahead_runAtt {g : Nat} {e : Word} {d : List Byte} {bad : List Nat} {kbase : Nat} (h : Ahead a s) : Ahead a (runAtt s g e d bad kbase).2 :=
  Ahead.foldl h fun _ _ => ahead_attOne

theorem ahead_runPop {g : Nat} {e : Word} {d : List Byte} {bad : List Nat} (h : Ahead a s) : Ahead a (runPop s g e d bad).2 :=
  Ahead.foldl h fun _ _ => ahead_sramPut

theorem ahead_touchFrame {f : Nat} (h : Ahead a s) : Ahead a (touchFrame s f) := by
  unfold touchFrame
  split
  · exact Ahead.ite h (ahead_touch h)
  · exact h

theorem ahead_runWr {g : Nat} {e : Word} {row : Nat} {bad : List Nat} {r : BladeRun} (h : Ahead a s) : Ahead a (runWr s g e row bad r).2 :=
  Ahead.ite2 h (ahead_touchFrame (Ahead.iteElse (Ahead.foldl h fun _ _ h => Ahead.ite h (ahead_writeFrame h)) fun h => ahead_cntI h))

theorem ahead_runOther {k g : Nat} {e : Word} (h : Ahead a s) : Ahead a (runOther s k g e) := by
  unfold runOther
  dsimp only
  split
  · exact Ahead.ite (ahead_updRun (ahead_sramPut h)) (ahead_updRun (Ahead.foldl h fun _ _ => ahead_pairPut))
  · exact ahead_setRun h
  · exact ahead_updRun h
  · exact ahead_updRun h
  · exact h

theorem ahead_setOwed {b n : Nat} (h : Ahead a s) : Ahead a (setOwed s b n) := Ahead.put h

theorem ahead_chargeSlot {n g : Nat} (h : Ahead a s) : Ahead a (chargeSlot s n g) := Ahead.put h

theorem ahead_takeSlot {b n : Nat} (h : Ahead a s) : Ahead a (takeSlot s b n) := ahead_setOwed (ahead_chargeSlot (ahead_chargeSlot h))

theorem ahead_idleSlot {b : Nat} (h : Ahead a s) : Ahead a (idleSlot s b) := Ahead.ite (ahead_takeSlot h) h

theorem ahead_forceSlot {g : Nat} (h : Ahead a s) : Ahead a (forceSlot s g) := Ahead.ite (ahead_updRun h) h

theorem ahead_refreshDue {lane bank : Nat} (h : Ahead a s) : Ahead a (refreshDue s lane bank) :=
  Ahead.ite (Ahead.put h) (Ahead.ite (ahead_idleSlot (ahead_setOwed (Ahead.put h))) (ahead_forceSlot (ahead_forceSlot (ahead_setOwed (Ahead.put h)))))

theorem ahead_execRefreshDue {lane bank : Nat} (h : Ahead a s) : AheadOut a (execRefreshDue lane bank s) :=
  AheadOut.ite AheadOut.fault (AheadOut.next (ahead_refreshDue h))

theorem ahead_lockSlots {l : GLeg} {g : Nat} (h : Ahead a s) : Ahead a (lockSlots s l g) :=
  Ahead.ite h (Ahead.foldl h fun _ _ h => ahead_takeSlot (Ahead.ite h (ahead_cntI h)))

theorem ahead_refreshSlot {l : GLeg} {g c : Nat} (h : Ahead a s) : Ahead a (refreshSlot s l g c) :=
  Ahead.ite (ahead_lockSlots (ahead_takeSlot (ahead_cntI (ahead_cntI (ahead_updRun h))))) (Ahead.ite (ahead_lockSlots (ahead_takeSlot (ahead_cntI h)))
      h)

theorem ahead_beginLeg {g k : Nat} (h : Ahead a s) : Ahead a (beginLeg s g k) := ahead_setRun (Ahead.foldl h fun _ _ => ahead_sramPut)

theorem ahead_skipRange {k : Nat} {x : Expert} (h : Ahead a s) : Ahead a (skipRange s k x) := Ahead.ite h (ahead_cnt (ahead_updLeg h))

theorem ahead_runToPull {k g n fuel : Nat} {p : Plan} {l : GLeg} (h : Ahead a s) : Ahead a (runToPull k g p l n fuel s) := by
  induction fuel generalizing s with
  | zero => exact h
  | succ fuel ih =>
    rw [runToPull]
    refine Ahead.ite h ?_
    dsimp only
    split
    · exact ih (ahead_updRun (ahead_skipRange h))
    · exact Ahead.ite h (ih (ahead_updRun (ahead_runOther h)))

theorem ahead_pullNotes {g row : Nat} {fixed bad : List Nat} (h : Ahead a s) : Ahead a (pullNotes s g row fixed bad) :=
  Ahead.iteElse (Ahead.ite h (ahead_noteErr (ahead_cntI h))) fun h => ahead_noteErr (ahead_recordErr (ahead_cntI h))

theorem ahead_runPull {k g n i : Nat} {p : Plan} {l : GLeg} {e : Word} {flips : List (Nat × Byte)} {parity : Bool} (h : Ahead a s) :
    Ahead a (runPull s k g n i p l e flips parity) := by
  unfold runPull
  dsimp only
  refine ahead_updRun ?_
  refine Ahead.ite ?_ ?_
  · refine ahead_noteErr ?_
    refine ahead_recordErr ?_
    refine ahead_pullNotes ?_
    refine Ahead.ite ?_ ?_
    · refine ahead_poisonLeg ?_
      refine Ahead.ite ?_ ?_
      · refine ahead_taintLeg ?_
        refine Ahead.ite ?_ ?_
        · refine ahead_updRun ?_
          refine Ahead.ite2 h ?_
          split
          · exact ahead_runDot h
          · exact ahead_runAxpy h
          · exact ahead_runAtt h
          · exact ahead_runPop h
          · exact ahead_sramPut h
          · exact ahead_runWr h
          · exact h
        · refine Ahead.ite2 h ?_
          split
          · exact ahead_runDot h
          · exact ahead_runAxpy h
          · exact ahead_runAtt h
          · exact ahead_runPop h
          · exact ahead_sramPut h
          · exact ahead_runWr h
          · exact h
      · refine Ahead.ite ?_ ?_
        · refine ahead_updRun ?_
          refine Ahead.ite2 h ?_
          split
          · exact ahead_runDot h
          · exact ahead_runAxpy h
          · exact ahead_runAtt h
          · exact ahead_runPop h
          · exact ahead_sramPut h
          · exact ahead_runWr h
          · exact h
        · refine Ahead.ite2 h ?_
          split
          · exact ahead_runDot h
          · exact ahead_runAxpy h
          · exact ahead_runAtt h
          · exact ahead_runPop h
          · exact ahead_sramPut h
          · exact ahead_runWr h
          · exact h
    · refine Ahead.ite ?_ ?_
      · refine ahead_taintLeg ?_
        refine Ahead.ite ?_ ?_
        · refine ahead_updRun ?_
          refine Ahead.ite2 h ?_
          split
          · exact ahead_runDot h
          · exact ahead_runAxpy h
          · exact ahead_runAtt h
          · exact ahead_runPop h
          · exact ahead_sramPut h
          · exact ahead_runWr h
          · exact h
        · refine Ahead.ite2 h ?_
          split
          · exact ahead_runDot h
          · exact ahead_runAxpy h
          · exact ahead_runAtt h
          · exact ahead_runPop h
          · exact ahead_sramPut h
          · exact ahead_runWr h
          · exact h
      · refine Ahead.ite ?_ ?_
        · refine ahead_updRun ?_
          refine Ahead.ite2 h ?_
          split
          · exact ahead_runDot h
          · exact ahead_runAxpy h
          · exact ahead_runAtt h
          · exact ahead_runPop h
          · exact ahead_sramPut h
          · exact ahead_runWr h
          · exact h
        · refine Ahead.ite2 h ?_
          split
          · exact ahead_runDot h
          · exact ahead_runAxpy h
          · exact ahead_runAtt h
          · exact ahead_runPop h
          · exact ahead_sramPut h
          · exact ahead_runWr h
          · exact h
  · refine ahead_pullNotes ?_
    refine Ahead.ite ?_ ?_
    · refine ahead_poisonLeg ?_
      refine Ahead.ite ?_ ?_
      · refine ahead_taintLeg ?_
        refine Ahead.ite ?_ ?_
        · refine ahead_updRun ?_
          refine Ahead.ite2 h ?_
          split
          · exact ahead_runDot h
          · exact ahead_runAxpy h
          · exact ahead_runAtt h
          · exact ahead_runPop h
          · exact ahead_sramPut h
          · exact ahead_runWr h
          · exact h
        · refine Ahead.ite2 h ?_
          split
          · exact ahead_runDot h
          · exact ahead_runAxpy h
          · exact ahead_runAtt h
          · exact ahead_runPop h
          · exact ahead_sramPut h
          · exact ahead_runWr h
          · exact h
      · refine Ahead.ite ?_ ?_
        · refine ahead_updRun ?_
          refine Ahead.ite2 h ?_
          split
          · exact ahead_runDot h
          · exact ahead_runAxpy h
          · exact ahead_runAtt h
          · exact ahead_runPop h
          · exact ahead_sramPut h
          · exact ahead_runWr h
          · exact h
        · refine Ahead.ite2 h ?_
          split
          · exact ahead_runDot h
          · exact ahead_runAxpy h
          · exact ahead_runAtt h
          · exact ahead_runPop h
          · exact ahead_sramPut h
          · exact ahead_runWr h
          · exact h
    · refine Ahead.ite ?_ ?_
      · refine ahead_taintLeg ?_
        refine Ahead.ite ?_ ?_
        · refine ahead_updRun ?_
          refine Ahead.ite2 h ?_
          split
          · exact ahead_runDot h
          · exact ahead_runAxpy h
          · exact ahead_runAtt h
          · exact ahead_runPop h
          · exact ahead_sramPut h
          · exact ahead_runWr h
          · exact h
        · refine Ahead.ite2 h ?_
          split
          · exact ahead_runDot h
          · exact ahead_runAxpy h
          · exact ahead_runAtt h
          · exact ahead_runPop h
          · exact ahead_sramPut h
          · exact ahead_runWr h
          · exact h
      · refine Ahead.ite ?_ ?_
        · refine ahead_updRun ?_
          refine Ahead.ite2 h ?_
          split
          · exact ahead_runDot h
          · exact ahead_runAxpy h
          · exact ahead_runAtt h
          · exact ahead_runPop h
          · exact ahead_sramPut h
          · exact ahead_runWr h
          · exact h
        · refine Ahead.ite2 h ?_
          split
          · exact ahead_runDot h
          · exact ahead_runAxpy h
          · exact ahead_runAtt h
          · exact ahead_runPop h
          · exact ahead_sramPut h
          · exact ahead_runWr h
          · exact h

theorem ahead_bladePull {g : Nat} {flips : List (Nat × Byte)} {parity : Bool} (h : Ahead a s) : Ahead a (bladePull s g flips parity) := by
  unfold bladePull
  split
  · exact h
  · dsimp only
    split
    · exact Ahead.ite h (ahead_beginLeg h)
    · split
      · exact Ahead.ite h (ahead_beginLeg h)
      · exact Ahead.ite (ahead_updRun (ahead_runToPull (Ahead.ite h (ahead_beginLeg h)))) (Ahead.ite (ahead_idleSlot (ahead_updRun (ahead_runToPull
            (Ahead.ite h (ahead_beginLeg h))))) (ahead_runToPull (ahead_runPull (ahead_refreshSlot (ahead_updRun (ahead_runToPull
            (Ahead.ite h (ahead_beginLeg h))))))))

theorem ahead_execBladePull {blade : Nat} {flips : List (Nat × Byte)} {parity : Bool} (h : Ahead a s) : AheadOut a (execBladePull blade flips parity s) :=
  AheadOut.ite AheadOut.fault (AheadOut.next (ahead_bladePull h))

/-! ### Handing on and RDMA requests -/

theorem ahead_joinQueue {c : Cmd} (h : Ahead a s) : Ahead a (joinQueue s c) := Ahead.put h

theorem ahead_refusalMarks {code : Nat} (h : Ahead a s) : Ahead a (refusalMarks s code) :=
  Ahead.ite (ahead_cnt (ahead_recordErr h)) (Ahead.ite (ahead_raiseBit (ahead_recordErr h)) (Ahead.ite (ahead_raiseBit (ahead_recordErr h))
      (Ahead.ite (ahead_raiseBit (ahead_recordErr h)) (Ahead.ite (ahead_cnt (ahead_recordErr h)) (Ahead.iteThen (ahead_recordErr h) fun h =>
      ahead_raiseBit (ahead_cnt h))))))

theorem ahead_refuseSes {c : Cmd} {code : Nat} (h : Ahead a s) : Ahead a (refuseSes s c code) := by
  unfold refuseSes
  dsimp only
  split
  · exact ahead_finishCmd (ahead_refusalMarks h)
  · exact ahead_stageDone (ahead_refusalMarks h)

theorem ahead_refuseHand {c : Cmd} {code : Nat} (h : Ahead a s) : Ahead a (refuseHand s c code) :=
  Ahead.ite (ahead_refuseSes h) (ahead_finishCmd (ahead_recordErr h))

theorem ahead_submit {c : Cmd} {data : List Byte} {start : Cmd → List Byte → State → State} (h : Ahead a s) (hstart :
    ∀ x0 x1 t, Ahead a t → Ahead a (start x0 x1 t)) : Ahead a (submit s c data start) := by
  unfold submit
  dsimp only
  split
  · exact ahead_refuseHand (ahead_joinQueue h)
  · exact Ahead.ite (hstart _ _ _ (ahead_joinQueue h)) (Ahead.put (ahead_joinQueue h))

theorem ahead_refuseWith {c : Cmd} {status c0 : Nat} (h : Ahead a s) : Ahead a (refuseWith s c status c0) := ahead_stageDone h

theorem ahead_updQp {q : Nat} {f : Qp → Qp} (h : Ahead a s) : Ahead a (updQp s q f) := Ahead.put h

theorem ahead_issueRead {r : RdmaRead} (h : Ahead a s) : Ahead a (issueRead s r) := Ahead.put h

theorem ahead_issueWrite {w : RdmaWrite} (h : Ahead a s) : Ahead a (issueWrite s w) := Ahead.put h

/-! ### Egress -/

theorem ahead_setIface {i : Nat} {x : EgIface} (h : Ahead a s) : Ahead a (setIface s i x) := Ahead.put h

theorem ahead_updIface {i : Nat} {f : EgIface → EgIface} (h : Ahead a s) : Ahead a (updIface s i f) := ahead_setIface h

theorem ahead_setQueue {k : Nat} {q : EgQ} (h : Ahead a s) : Ahead a (setQueue s k q) := Ahead.put h

theorem ahead_wrPort {f : Fld} {i v : Nat} (h : Ahead a s) : Ahead a (wrPort s f i v) := ahead_wrWord h

theorem ahead_cntPort {f : Fld} {i n : Nat} (h : Ahead a s) : Ahead a (cntPort s f i n) := ahead_wrPort h

theorem ahead_gateCommit {i : Nat} (h : Ahead a s) : AheadOpt a (gateCommit s i) :=
  AheadOpt.ite (AheadOpt.some (ahead_wrB (ahead_updIface h))) AheadOpt.none

theorem ahead_gatesCatch (h : Ahead a s) : Ahead a (gatesCatch s) := by
  unfold gatesCatch
  refine Ahead.foldl h fun s e h => ?_
  split
  · exact Ahead.ite h (ahead_updIface h)
  · exact Ahead.ite (ahead_raiseBit (ahead_wrB (ahead_updIface h))) (ahead_updIface h)

theorem ahead_gateAdvance {i : Nat} (h : Ahead a s) : Ahead a (gateAdvance s i) := Ahead.ite h (Ahead.ite (ahead_setIface h) h)

theorem ahead_execGclEntryAdvance {iface : Nat} (h : Ahead a s) : AheadOut a (execGclEntryAdvance iface s) :=
  AheadOut.ite AheadOut.fault (AheadOut.next (ahead_gateAdvance h))

theorem ahead_enqueue {i q : Nat} {e : EgEnt} (h : Ahead a s) : Ahead a (enqueue s i q e) := ahead_setQueue h

theorem ahead_dropHead {i k : Nat} (h : Ahead a s) : Ahead a (dropHead s i k) := by
  unfold dropHead
  dsimp only
  split
  · exact ahead_setQueue h
  · exact ahead_setQueue h

theorem ahead_policersFinish (h : Ahead a s) : Ahead a (policersFinish s) := Ahead.put (Ahead.foldl h fun _ _ => ahead_setQueue)

theorem ahead_redHead {i k : Nat} (h : Ahead a s) : Ahead a (redHead s i k).1 :=
  Ahead.ite1 (ahead_dropHead (Ahead.put (Ahead.iteElse (Ahead.ite h (ahead_cntB (ahead_setQueue h))) fun h => ahead_raiseBit h)))
      (Ahead.ite h (ahead_cntB (ahead_setQueue h)))

theorem ahead_considerHead {i k time fuel : Nat} (h : Ahead a s) : Ahead a (considerHead i k time fuel s).1 := by
  induction fuel generalizing s with
  | zero => exact h
  | succ fuel ih =>
    rw [considerHead]
    dsimp only
    split
    · exact h
    · refine Ahead.ite1 h (Ahead.ite1 (Ahead.ite1 h (ahead_cntB (ahead_setQueue h))) (Ahead.ite1 h ?_))
      split
      · exact Ahead.ite1 (ih (ahead_redHead (ahead_setQueue h))) (ahead_redHead (ahead_setQueue h))
      · exact ahead_setQueue h

theorem ahead_qualifying {i time : Nat} {ks : List Nat} (h : Ahead a s) : Ahead a (qualifying i time ks s).1 := by
  induction ks generalizing s with
  | nil => exact h
  | cons k ks ih =>
    rw [qualifying]
    exact ih (ahead_considerHead h)

theorem ahead_startHead {i k : Nat} {c : Colour} {tag : Nat} (h : Ahead a s) : Ahead a (startHead s i k c tag).1 := by
  unfold startHead
  dsimp only
  split
  · exact h
  · exact ahead_dropHead (Ahead.iteElse (Ahead.iteThen (ahead_cntB (ahead_setQueue h)) fun h => ahead_cntB h) fun h => ahead_updIface h)

theorem ahead_selectFrame {i time : Nat} (h : Ahead a s) : Ahead a (selectFrame s i time).1 := by
  unfold selectFrame
  dsimp only
  split
  · exact ahead_setIface h
  · split
    · exact ahead_qualifying h
    · exact ahead_startHead (ahead_qualifying h)

theorem ahead_sendControl {i : Nat} {f : EgFrame} (h : Ahead a s) : Ahead a (sendControl s i f) := ahead_updIface h

theorem ahead_execPauseTimeExpiry {iface prio : Nat} (h : Ahead a s) : AheadOut a (execPauseTimeExpiry iface prio s) :=
  AheadOut.ite AheadOut.fault (AheadOut.next (ahead_updIface h))

/-! ### Operation Table entries -/

theorem ahead_setOp {id : Nat} {o : OpEnt} (h : Ahead a s) : Ahead a (setOp s id o) := Ahead.put h

theorem ahead_updOp {id : Nat} {f : OpEnt → OpEnt} (h : Ahead a s) : Ahead a (updOp s id f) := Ahead.put h

theorem ahead_takeOp {o : OpEnt} (h : Ahead a s) : Ahead a (takeOp s o).2 := Ahead.iteThen (ahead_setOp h) fun h => ahead_wrF h

theorem ahead_takeOp0 {o : OpEnt} (h : Ahead a s) : Ahead a (takeOp0 s o) := Ahead.ite (ahead_takeOp h) (Ahead.put h)

theorem ahead_startOp {o : OpEnt} (h : Ahead a s) : Ahead a (startOp s o) := Ahead.ite (ahead_takeOp0 h) (Ahead.ite (ahead_takeOp h) h)

theorem ahead_opFull (h : Ahead a s) : Ahead a (opFull s) := ahead_raiseBit (ahead_recordErr h)

theorem ahead_endOp {id code : Nat} (h : Ahead a s) : Ahead a (endOp s id code) := by
  unfold endOp
  dsimp only
  split
  · exact ahead_updOp h
  · exact Ahead.iteThen (ahead_updOp h) fun h => ahead_takeOp (Ahead.put h)

theorem ahead_freeOp {id : Nat} (h : Ahead a s) : Ahead a (freeOp s id) := ahead_endOp h

theorem ahead_purgeOps (h : Ahead a s) : Ahead a (purgeOps s) := Ahead.put h

/-! ### The tree of prefixes -/

theorem ahead_setNode {n : Nat} {x : Node} (h : Ahead a s) : Ahead a (setNode s n x) := Ahead.put h

theorem ahead_updNode {n : Nat} {f : Node → Node} (h : Ahead a s) : Ahead a (updNode s n f) := Ahead.put h

theorem ahead_pfxMatch {c : PfxCtx} {parent : Nat} {chain : List (Nat × List Nat)} (h : Ahead a s) : Ahead a (pfxMatch s c parent chain).2 := by
  induction chain generalizing s parent with
  | nil => exact h
  | cons e rest ih =>
    rw [pfxMatch]
    split
    · exact ahead_cnt h
    · exact Ahead.ite2 (ih h) (ahead_raiseBit (ahead_cnt (ahead_cnt h)))

theorem ahead_pfxTake {ns : List Nat} (h : Ahead a s) : Ahead a (pfxTake s ns) := ahead_cnt (Ahead.foldl h fun _ _ => ahead_updNode)

theorem ahead_newNode {x : Node} (h : Ahead a s) : Ahead a (newNode s x).2 := ahead_updNode (ahead_setNode h)

theorem ahead_pfxPublish {c : PfxCtx} {sid limit parent depth : Nat} {pages : Nat → List Nat} {j : Nat} {chain : List (Nat × List Nat)} (h : Ahead a s) :
    Ahead a (pfxPublish s c sid limit parent depth pages j chain) := by
  induction chain generalizing s parent depth j with
  | nil => exact h
  | cons e rest ih =>
    rw [pfxPublish]
    exact Ahead.ite h (Ahead.ite h (Ahead.ite (ahead_raiseBit (ahead_cnt h)) (ih (ahead_newNode h))))

theorem ahead_dropNode {n : Nat} (h : Ahead a s) : Ahead a (dropNode s n) := by
  unfold dropNode
  split
  · exact h
  · exact ahead_updNode (Ahead.put h)

theorem ahead_pfxRelease {node : Nat} (h : Ahead a s) : Ahead a (pfxRelease s node) := Ahead.foldl h fun _ _ => ahead_updNode

theorem ahead_pfxFill {ns : List (Nat × Node)} (h : Ahead a s) : Ahead a (pfxFill s ns) := Ahead.foldl h fun _ _ h => ahead_updPtes (ahead_setNode h)

theorem ahead_pfxUnfill {ns : List (Nat × Node)} (h : Ahead a s) : Ahead a (pfxUnfill s ns) := Ahead.foldl h fun _ _ => ahead_dropNode

theorem ahead_demoteNode {n : Nat} {x : Node} (h : Ahead a s) : Ahead a (demoteNode s n x) :=
  Ahead.ite (ahead_cnt (ahead_setNode (Ahead.foldl h fun _ _ => ahead_freeH1))) (Ahead.ite (ahead_cnt (ahead_setNode (ahead_takeOp h))) h)

theorem ahead_dropWhole {n : Nat} {x : Node} (h : Ahead a s) : Ahead a (dropWhole s n x) := ahead_dropNode (ahead_freePages h)

theorem ahead_evictH {tenant need : Nat} {xs : List (Nat × Node)} (h : Ahead a s) : Ahead a (evictH s tenant need xs) := by
  induction xs generalizing s need with
  | nil => exact h
  | cons e xs ih =>
    rw [evictH]
    exact Ahead.ite h (Ahead.ite (ih (ahead_demoteNode h)) (ih h))

theorem ahead_evictNodes {need : Nat} {xs : List (Nat × Node)} (h : Ahead a s) : Ahead a (evictNodes s need xs) := by
  induction xs generalizing s need with
  | nil => exact h
  | cons e xs ih =>
    rw [evictNodes]
    exact Ahead.ite h (Ahead.ite (ih (ahead_cnt (ahead_dropWhole h))) (ih (ahead_demoteNode h)))

theorem ahead_evictF {tenant need : Nat} {xs : List (Nat × Node)} (h : Ahead a s) : Ahead a (evictF s tenant need xs) := by
  induction xs generalizing s need with
  | nil => exact h
  | cons e xs ih =>
    rw [evictF]
    exact Ahead.ite h (Ahead.ite (ih (ahead_cnt (ahead_dropWhole h))) (ih h))

theorem ahead_evict {waitH waitF : List (Nat × Nat)} (h : Ahead a s) : Ahead a (evict s waitH waitF) :=
  Ahead.foldl (ahead_evictNodes (Ahead.foldl (Ahead.foldl h fun _ _ => ahead_evictH) fun _ _ => ahead_evictF)) fun _ _ => ahead_dropWhole

theorem ahead_pfxRekey {t : Nat} {k : PfxKey} (h : Ahead a s) : Ahead a (pfxRekey s t k) := ahead_wrB (Ahead.put h)

theorem ahead_pfxKeyChanges (h : Ahead a s) : Ahead a (pfxKeyChanges s) := Ahead.foldl h fun _ _ h => Ahead.ite (ahead_pfxRekey h) h

/-! ### The Text unit -/

theorem ahead_cacheUse (h : Ahead a s) : Ahead a (cacheUse s) := ahead_cnt (ahead_cnt (ahead_nextFree (ahead_nextFree h)))

theorem ahead_refuseTxt {b : Blk} {c : Cmd} {code c0 : Nat} (h : Ahead a s) : Ahead a (refuseTxt s b c code c0) := ahead_refuseWith (ahead_recordErr h)

theorem ahead_loadTable {l : TabLoad} (h : Ahead a s) : AheadSum a (loadTable s l) := by
  unfold loadTable
  refine AheadSum.ite AheadSum.inl ?_
  split
  · exact AheadSum.inl
  · rename_i heq
    have ht := (ahead_allocPages h).of_eq2 heq
    exact AheadSum.inr (Ahead.put (ahead_takeOp ht))

theorem ahead_startVocabLoad {c : Cmd} {data : List Byte} (h : Ahead a s) : Ahead a (startVocabLoad c data s) := by
  unfold startVocabLoad
  refine Ahead.ite (ahead_refuseTxt h) ?_
  split
  · exact ahead_finishCmd h
  · dsimp only
    split
    · exact ahead_refuseTxt h
    · refine Ahead.ite (ahead_refuseTxt h) ?_
      refine Ahead.ite (ahead_refuseTxt h) ?_
      split
      · exact ahead_refuseTxt h
      · split
        · exact ahead_refuseTxt h
        · rename_i heq
          have ht := (ahead_loadTable h).of_eq heq
          exact ht

theorem ahead_startGrmLoad {c : Cmd} {data : List Byte} (h : Ahead a s) : Ahead a (startGrmLoad c data s) := by
  unfold startGrmLoad
  refine Ahead.ite (ahead_refuseTxt h) ?_
  split
  · exact ahead_finishCmd h
  · split
    · exact ahead_refuseTxt h
    · dsimp only
      refine Ahead.ite (ahead_refuseTxt h) ?_
      split
      · exact ahead_refuseTxt h
      · split
        · exact ahead_refuseTxt h
        · rename_i heq
          have ht := (ahead_loadTable h).of_eq heq
          exact ht

theorem ahead_tableEvent {retired : Bool} {kind key version : Nat} (h : Ahead a s) : Ahead a (tableEvent s retired kind key version) := ahead_raiseBit h

theorem ahead_sealImage {pages : List Nat} (h : Ahead a s) : Ahead a (sealImage s pages) := ahead_startOp h

theorem ahead_retireVocab {model : Nat} (h : Ahead a s) : Ahead a (retireVocab s model) := by
  unfold retireVocab
  split
  · exact Ahead.ite h (ahead_tableEvent (Ahead.put (ahead_freePages h)))
  · exact h

theorem ahead_retireGrm {table : Nat} (h : Ahead a s) : Ahead a (retireGrm s table) := by
  unfold retireGrm
  split
  · exact Ahead.ite h (ahead_tableEvent (Ahead.put (ahead_freePages h)))
  · exact h

theorem ahead_retireTables (h : Ahead a s) : Ahead a (retireTables s) :=
  Ahead.foldl (Ahead.foldl h fun _ _ => ahead_retireVocab) fun _ _ => ahead_retireGrm

theorem ahead_installTable {l : TabLoad} (h : Ahead a s) : Ahead a (installTable s l) := by
  unfold installTable
  dsimp only
  refine ahead_stageDone ?_
  refine ahead_sealImage ?_
  refine ahead_tableEvent ?_
  split
  · exact Ahead.put (ahead_updPtes (Ahead.put h))
  · exact Ahead.put (ahead_updPtes (Ahead.put h))
  · exact ahead_updPtes (Ahead.put h)

theorem ahead_tableUnloaded {c : Cmd} (h : Ahead a s) : Ahead a (tableUnloaded s c) := by
  unfold tableUnloaded
  dsimp only
  refine Ahead.ite ?_ ?_
  · split
    · exact ahead_refuseTxt h
    · exact Ahead.ite (ahead_refuseTxt h) (ahead_finishCmd (Ahead.put (ahead_freePages (ahead_freePages h))))
  · split
    · exact ahead_refuseTxt h
    · exact Ahead.ite (ahead_refuseTxt h) (ahead_finishCmd (Ahead.put (ahead_freePages (ahead_freePages h))))

theorem ahead_startTableUnload {c : Cmd} {x1 : List Byte} (h : Ahead a s) : Ahead a (startTableUnload c x1 s) :=
  Ahead.ite (ahead_refuseTxt h) (Ahead.ite (ahead_tableUnloaded h) (ahead_stage h))

theorem ahead_setCtx {i : Nat} {x : TxtCtx} (h : Ahead a s) : Ahead a (setCtx s i x) := Ahead.put h

theorem ahead_waitTxt {c : Cmd} {data : List Byte} (h : Ahead a s) : Ahead a (waitTxt s c data) := Ahead.put h

theorem ahead_startTokenize {c : Cmd} {data : List Byte} (h : Ahead a s) : Ahead a (startTokenize c data s) := by
  unfold startTokenize
  split
  · exact ahead_finishCmd h
  · exact ahead_waitTxt h

theorem ahead_startDetokenize {c : Cmd} {data : List Byte} (h : Ahead a s) : Ahead a (startDetokenize c data s) := by
  unfold startDetokenize
  refine Ahead.ite (ahead_refuseTxt h) ?_
  split
  · exact ahead_finishCmd h
  · exact ahead_waitTxt h

theorem ahead_startStreamAllocate {c : Cmd} {x1 : List Byte} (h : Ahead a s) : Ahead a (startStreamAllocate c x1 s) := ahead_waitTxt h

theorem ahead_startStreamFree {c : Cmd} {x1 : List Byte} (h : Ahead a s) : Ahead a (startStreamFree c x1 s) := ahead_waitTxt h

theorem ahead_startStreamConfigure {c : Cmd} {data : List Byte} (h : Ahead a s) : Ahead a (startStreamConfigure c data s) := by
  unfold startStreamConfigure
  refine Ahead.ite ?_ (ahead_waitTxt h)
  split
  · exact ahead_finishCmd h
  · exact ahead_waitTxt h

theorem ahead_streamNow {c : Cmd} {data : List Byte} (h : Ahead a s) : Ahead a (streamNow s c data) := by
  unfold streamNow
  refine Ahead.ite (ahead_refuseTxt h) ?_
  refine Ahead.ite ?_ ?_
  · refine Ahead.ite (ahead_refuseTxt h) ?_
    refine Ahead.ite (ahead_refuseTxt h) ?_
    split
    · exact ahead_refuseTxt h
    · exact ahead_stageDone (ahead_setCtx h)
  · split
    · exact ahead_refuseTxt h
    · refine Ahead.ite (ahead_refuseTxt h) ?_
      refine Ahead.ite (ahead_finishCmd (Ahead.put h)) ?_
      split
      · exact ahead_refuseTxt h
      · exact ahead_finishCmd (ahead_cnt (ahead_setCtx h))

theorem ahead_streamFinish (h : Ahead a s) : Ahead a (streamFinish s) := Ahead.foldl (Ahead.put h) fun _ _ => ahead_streamNow

theorem ahead_engineOut {e : Nat} {r : TxtReq} {bytes : List Byte} {w : Nat × Nat × Nat} (h : Ahead a s) : Ahead a (engineOut s e r bytes w) :=
  Ahead.ite (ahead_sendCpl h) (ahead_issueWrite (Ahead.put h))

theorem ahead_engineRefuse {r : TxtReq} {code : Nat} (h : Ahead a s) : Ahead a (engineRefuse s r code) := ahead_sendCpl (ahead_recordErr h)

theorem ahead_putCtx {c : Cmd} {x : TxtCtx} (h : Ahead a s) : Ahead a (putCtx s c x) := by
  unfold putCtx
  split
  · exact h
  · exact ahead_setCtx h

theorem ahead_runTokenize {e : Nat} {r : TxtReq} (h : Ahead a s) : Ahead a (runTokenize s e r) := by
  unfold runTokenize
  split
  · exact ahead_engineRefuse h
  · split
    · exact ahead_engineRefuse h
    · exact ahead_engineOut (ahead_putCtx (Ahead.iteThen (ahead_cnt (ahead_cnt (ahead_cnt (ahead_cnt (ahead_cacheUse h))))) fun h =>
          ahead_raiseBit h))

theorem ahead_runDetokenize {e : Nat} {r : TxtReq} (h : Ahead a s) : Ahead a (runDetokenize s e r) := by
  unfold runDetokenize
  split
  · exact ahead_engineRefuse h
  · split
    · exact ahead_engineRefuse h
    · exact ahead_engineOut (ahead_putCtx (ahead_cnt (ahead_cnt (ahead_cnt (ahead_cacheUse h)))))

theorem ahead_engineTake {e : Nat} (h : Ahead a s) : Ahead a (engineTake s e) := by
  unfold engineTake
  refine Ahead.ite h ?_
  split
  · exact h
  · exact Ahead.ite (ahead_runTokenize (Ahead.put h)) (ahead_runDetokenize (Ahead.put h))

theorem ahead_touchRec {i : Nat} (h : Ahead a s) : Ahead a (touchRec s i) := Ahead.ite h (ahead_updPte h)

theorem ahead_setRec {i : Nat} {r : GrmRec} (h : Ahead a s) : Ahead a (setRec s i r) := ahead_touchRec (Ahead.put h)

theorem ahead_grmReset {i : Nat} (h : Ahead a s) : Ahead a (grmReset s i) := by
  unfold grmReset
  split
  · exact h
  · split
    · exact h
    · exact ahead_setRec h

theorem ahead_openText {sid model : Nat} {text : Bool} {table : Nat} (h : Ahead a s) : Ahead a (openText s sid model text table).2.2 :=
  Ahead.ite22 h (Ahead.ite22 (ahead_setCtx h) (ahead_grmReset (ahead_setRec (ahead_setCtx h))))

theorem ahead_grmCommit {i : Nat} {ids : List Nat} (h : Ahead a s) : Ahead a (grmCommit s i ids) := by
  unfold grmCommit
  split
  · exact h
  · split
    · exact h
    · split
      · exact h
      · exact Ahead.iteThen (ahead_setRec h) fun h => ahead_raiseBit (ahead_cnt h)

theorem ahead_sendStream {c : Cmd} {kind : Nat} {body : List Byte} (h : Ahead a s) : Ahead a (sendStream s c kind body) := Ahead.put h

theorem ahead_detokCommit {ctx sid gen epoch first : Nat} {c : Cmd} {ids : List Nat} (h : Ahead a s) :
    Ahead a (detokCommit s ctx sid gen epoch first c ids).2 := by
  unfold detokCommit
  split
  · exact h
  · split
    · exact h
    · exact Ahead.iteElse (ahead_cnt (ahead_cnt (ahead_cnt (ahead_setCtx (ahead_cacheUse h))))) fun h => ahead_sendStream h

theorem ahead_closeText {ctx grmRec sid gen epoch position : Nat} {hasGrm : Bool} {c : Cmd} (h : Ahead a s) :
    Ahead a (closeText s ctx grmRec sid gen epoch position hasGrm c) := by
  unfold closeText
  split
  · exact h
  · exact Ahead.iteThen (Ahead.put (ahead_sendStream (ahead_cnt h))) fun h => Ahead.put h

theorem ahead_streamCommit {ctx : Nat} {grmRec : Option Nat} {sid gen epoch position : Nat} {c : Cmd} {stops : Option (List (List Byte))} (h : Ahead a s) :
    Ahead a (streamCommit s ctx grmRec sid gen epoch position c stops) := by
  unfold streamCommit
  split
  · exact h
  · dsimp only
    split
    · exact Ahead.iteThen (Ahead.iteElse (ahead_cnt (ahead_setCtx h)) fun h => ahead_sendStream h) fun h => ahead_grmReset h
    · exact Ahead.iteElse (ahead_cnt (ahead_setCtx h)) fun h => ahead_sendStream h

theorem ahead_maskPut {sid idx ns : Nat} {m : List Bool} (h : Ahead a s) : Ahead a (maskPut s sid idx ns m) := Ahead.put (ahead_nextFree h)

theorem ahead_textFinish (h : Ahead a s) : Ahead a (textFinish s) :=
  Ahead.put (Ahead.iteThen (ahead_wrF (ahead_wrF (ahead_wrF (ahead_wrF h)))) fun h => ahead_wrF h)

/-! ### What session commands share -/

theorem ahead_setSes {sid : Nat} {x : Ses} (h : Ahead a s) : Ahead a (setSes s sid x) := Ahead.put h

theorem ahead_updSes {sid : Nat} {f : Ses → Ses} (h : Ahead a s) : Ahead a (updSes s sid f) := Ahead.put h

theorem ahead_sesEvent {code : Nat} {d : Desc} (h : Ahead a s) : Ahead a (sesEvent s code d) := ahead_sendEvent h

theorem ahead_placePages {base n tenant cls : Nat} {committed : Bool} (h : Ahead a s) : AheadOpt a (placePages s base n tenant cls committed) := by
  unfold placePages
  split
  · exact AheadOpt.none
  · exact AheadOpt.some (Ahead.foldl h fun _ _ => ahead_newPage)

theorem ahead_placeIndex {tenant : Nat} {ps : List Nat} (h : Ahead a s) : AheadOpt a (placeIndex s tenant ps) := by
  unfold placeIndex
  split
  · exact AheadOpt.none
  · exact AheadOpt.some (Ahead.foldl h fun _ _ => ahead_newPage)

theorem ahead_completeSes {sid : Nat} {c : Cmd} {aux aux2 : Nat} (h : Ahead a s) : Ahead a (completeSes s sid c aux aux2) := by
  unfold completeSes
  split
  · exact ahead_finishCmd h
  · exact Ahead.ite (ahead_stageDone h) (Ahead.iteThen (ahead_updSes h) fun h => Ahead.put h)

theorem ahead_waitDone {d : Desc} {w : DurWait} {dur epoch positions : Nat} (h : Ahead a s) : Ahead a (waitDone s d w dur epoch positions) :=
  ahead_stageDone h

theorem ahead_tally {r : TallyRec} (h : Ahead a s) : Ahead a (tally s r) := Ahead.put h

theorem ahead_newMeter {tenant : Nat} (h : Ahead a s) : Ahead a (newMeter s tenant).2 := Ahead.put h

theorem ahead_journal {bytes : Nat} (h : Ahead a s) : Ahead a (journal s bytes) := Ahead.put h

theorem ahead_markJournal {sid : Nat} (h : Ahead a s) : Ahead a (markJournal s sid) := ahead_updSes (ahead_journal h)

theorem ahead_dirtyReserve {n : Nat} (h : Ahead a s) : Ahead a (dirtyReserve s n) := Ahead.put h

theorem ahead_dirtyDefer (h : Ahead a s) : Ahead a (dirtyDefer s) := Ahead.put (Ahead.ite (ahead_cnt h) (ahead_raiseBit (ahead_cnt h)))

/-! ### Capturing a session -/

theorem ahead_setTgt {t : Nat} {x : CkpTgt} (h : Ahead a s) : Ahead a (setTgt s t x) := Ahead.put h

theorem ahead_updJob {i : Nat} {f : CkpJob → CkpJob} (h : Ahead a s) : Ahead a (updJob s i f) := Ahead.put h

theorem ahead_addJob {j : CkpJob} (h : Ahead a s) : Ahead a (addJob s j) := Ahead.put h

theorem ahead_wantPages {j : CkpJob} {ps : List Nat} (h : Ahead a s) : Ahead a (wantPages s j ps) := by
  unfold wantPages
  split
  · exact h
  · exact ahead_updOp h

theorem ahead_leaveJobs {sid gen tenant : Nat} (h : Ahead a s) : Ahead a (leaveJobs s sid gen tenant) :=
  Ahead.ite (ahead_setTgt (Ahead.put h)) (Ahead.put h)

/-! ### Session commands up to their commit -/

theorem ahead_textTaken {x : Ses} {c : Cmd} {data : List Byte} (h : Ahead a s) : Ahead a (textTaken s x c data) := by
  unfold textTaken
  refine Ahead.ite h ?_
  split
  · exact h
  · exact ahead_cnt (ahead_cnt h)

theorem ahead_importLookup {x : Ses} {toks : List Nat} (h : Ahead a s) : Ahead a (importLookup s x toks).2.2.2.2 :=
  Ahead.ite2222 (Ahead.ite2222 (ahead_pfxMatch h) h) h

theorem ahead_holdHead {sid : Nat} {r : Run} (h : Ahead a s) : Ahead a (holdHead s sid r) := ahead_updSes h

theorem ahead_holdCommit {sid epoch : Nat} {w : Wait} {k : Commit} (h : Ahead a s) : Ahead a (holdCommit s sid epoch w k) :=
  ahead_stage (ahead_holdHead h)

theorem ahead_cancelPark {sid : Nat} {x : Ses} (h : Ahead a s) : Ahead a (cancelPark s sid x) := by
  unfold cancelPark
  split
  · exact ahead_stage (ahead_updSes (ahead_dropCharges (ahead_endOp (ahead_updPtes h))))
  · exact h

theorem ahead_addPages {sid : Nat} {x : Ses} {keys : List Nat} (h : Ahead a s) : AheadOpt a (addPages s sid x keys) := by
  unfold addPages
  refine AheadOpt.ite (AheadOpt.some h) ?_
  split
  · exact AheadOpt.none
  · rename_i heq
    have ht := (ahead_allocPagesAway h).of_eq2 heq
    exact AheadOpt.some (ahead_updSes (Ahead.ite (ahead_updPtes ht) ht))

theorem ahead_copyUp {tenant : Nat} {ps : List Nat} (h : Ahead a s) : Ahead a (copyUp s tenant ps) :=
  Ahead.ite h (Ahead.iteElse (Ahead.ite h (ahead_addCharge (ahead_takeOp h))) fun h => ahead_addCharge (ahead_takeOp h))

theorem ahead_goCompute {sid : Nat} {x : Ses} {w : Wait} (h : Ahead a s) : AheadOpt a (goCompute s sid x w) := by
  unfold goCompute
  dsimp only
  split
  · exact AheadOpt.none
  · rename_i heq
    have ht := (AheadOpt.bind (ahead_addPages h) fun _ h => ahead_placeIndex h).of_eq heq
    exact AheadOpt.some (ahead_updSes (ahead_copyUp (ahead_useCharge (ahead_textTaken ht))))

theorem ahead_goImportBegin {sid : Nat} {x : Ses} {w : Wait} (h : Ahead a s) : AheadOpt a (goImportBegin s sid x w) := by
  unfold goImportBegin
  dsimp only
  split
  · exact AheadOpt.none
  · rename_i heq
    have hpages := (AheadOpt.bind2 (ahead_placeIndex (ahead_importLookup h)) fun t ht =>
      AheadOpt.ite2 (q := allocPagesAway t _ _ _ _ _ _) (o := some (0, t)) (AheadOpt.some ht) (ahead_allocPagesAway ht)).of_eq2 heq
    refine AheadOpt.some (ahead_holdCommit (Ahead.iteElse (ahead_pfxPublish (Ahead.iteElse (ahead_pfxTake hpages) fun k => ?_)) ahead_takeOp))
    refine Ahead.foldl k fun t l ht => ?_
    split
    · split
      · exact ahead_touch (ahead_writePage ht)
      · exact ht
    · exact ht

theorem ahead_goPark {sid : Nat} {x : Ses} {w : Wait} (h : Ahead a s) : Ahead a (goPark s sid x w) := ahead_updSes (ahead_addCharge (ahead_takeOp h))

theorem ahead_goRevive {sid : Nat} {x : Ses} {w : Wait} (h : Ahead a s) : Ahead a (goRevive s sid x w) := by
  have hfrom : ∀ {u : State} {ps : List Nat} {o : OpEnt}, Ahead a u → Ahead a (if ps.isEmpty then u else (takeOp u o).2) := fun hu =>
    Ahead.iteElse hu ahead_takeOp
  exact ahead_updSes (hfrom (hfrom (hfrom (hfrom (ahead_addCharge h)))))

theorem ahead_goExport {sid : Nat} {x : Ses} {w : Wait} (h : Ahead a s) : Ahead a (goExport s sid x w) := ahead_addJob (ahead_takeOp h)

theorem ahead_goMove {sid : Nat} {x : Ses} {w : Wait} (h : Ahead a s) : Ahead a (goMove s sid x w) := ahead_takeOp h

theorem ahead_goCapture {sid : Nat} {x : Ses} (h : Ahead a s) : Ahead a (goCapture s sid x) := by
  unfold goCapture
  split
  · exact h
  · exact Ahead.ite (ahead_updJob h) (ahead_wantPages (ahead_updJob h))

theorem ahead_admitTurn {sid : Nat} {x : Ses} {w : Wait} {waited head : Nat} (h : Ahead a s) : Ahead a (admitTurn s sid x w waited head) := by
  unfold admitTurn
  dsimp only
  refine Ahead.ite (ahead_holdHead h) ?_
  refine Ahead.ite (ahead_holdHead (Ahead.iteElse (ahead_dirtyDefer h) fun h => ahead_takeOp0 h)) ?_
  split
  · refine Ahead.ite ?_ (Ahead.ite (ahead_holdCommit (ahead_dirtyReserve h)) (ahead_holdCommit h))
    split
    · rename_i heq
      have ht := (ahead_goImportBegin h).of_eq heq
      exact ht
    · exact ahead_holdHead h
  · split
    · rename_i heq
      have ht := (ahead_goCompute h).of_eq heq
      exact ht
    · exact ahead_holdHead h
  · split
    · rename_i heq
      have ht := (ahead_goCompute h).of_eq heq
      exact ht
    · exact ahead_holdHead h
  · exact ahead_goPark h
  · exact ahead_goRevive h
  · split
    · exact ahead_holdHead h
    · exact Ahead.ite (ahead_holdHead (ahead_dirtyDefer h)) (ahead_stage (ahead_addCharge (ahead_dirtyReserve h)))
  · exact ahead_goExport h
  · exact ahead_holdCommit h
  · exact ahead_holdCommit h
  · exact ahead_goMove h
  · exact ahead_holdCommit h
  · exact ahead_holdCommit h
  · exact ahead_goCapture h
  · exact h

theorem ahead_bindTurn {sid : Nat} {x : Ses} {w : Wait} {waited head : Nat} (h : Ahead a s) : Ahead a (bindTurn s sid x w waited head) :=
  Ahead.ite (ahead_admitTurn h) (Ahead.ite (ahead_holdCommit (ahead_cancelPark h)) (ahead_admitTurn (ahead_cancelPark h)))

theorem ahead_bindHead {sid : Nat} {x : Ses} {w : Wait} (h : Ahead a s) : Ahead a (bindHead s sid x w) := by
  unfold bindHead
  split
  · exact ahead_refuseSes h
  · exact ahead_bindTurn h

theorem ahead_serveGo {sid fuel : Nat} (h : Ahead a s) : Ahead a (serveGo sid fuel s) := by
  induction fuel generalizing s with
  | zero => exact h
  | succ fuel ih =>
    rw [serveGo]
    split
    · exact h
    · refine Ahead.ite h ?_
      split
      · exact h
      · exact Ahead.ite h (ih (ahead_bindHead (ahead_setSes h)))

theorem ahead_serve {sid : Nat} (h : Ahead a s) : Ahead a (serve s sid) := ahead_serveGo h

theorem ahead_admitOpen {c : Cmd} (h : Ahead a s) : Ahead a (admitOpen s c).2 := by
  unfold admitOpen
  split
  · dsimp only
    refine Ahead.ite2 h (Ahead.ite2 (ahead_dirtyDefer h) ?_)
    split
    · exact ahead_newMeter (tenant := c.f4 0 12) (ahead_dirtyReserve h)
    · rename_i heq
      exact ahead_stage ((ahead_placePages (ahead_newMeter (ahead_dirtyReserve h))).of_eq heq)
  · exact h

theorem ahead_bindOpen {w : Wait} (h : Ahead a s) : Ahead a (bindOpen s w) := by
  unfold bindOpen
  split
  · exact ahead_refuseSes h
  · split
    · rename_i heq
      have ht := (ahead_admitOpen h).of_eq2 heq
      exact ht
    · rename_i heq
      have ht := (ahead_admitOpen h).of_eq2 heq
      exact Ahead.put ht

theorem ahead_joinWait {c : Cmd} {data : List Byte} {ready : Bool} (h : Ahead a s) : Ahead a (joinWait s c data ready) := ahead_updSes h

theorem ahead_joinOrder {c : Cmd} {data : List Byte} (h : Ahead a s) : Ahead a (joinOrder s c data) := by
  unfold joinOrder
  split
  · exact ahead_refuseSes h
  · exact Ahead.iteThen (ahead_joinWait h) fun h => ahead_serve h

theorem ahead_arriveOpen {c : Cmd} (h : Ahead a s) : Ahead a (arriveOpen s c) := Ahead.ite (ahead_bindOpen h) (Ahead.put h)

theorem ahead_startOpen {c : Cmd} {x1 : List Byte} (h : Ahead a s) : Ahead a (startOpen c x1 s) := ahead_arriveOpen h

theorem ahead_startSes {c : Cmd} {data : List Byte} (h : Ahead a s) : Ahead a (startSes c data s) := ahead_joinOrder h

theorem ahead_startMoveRange {c : Cmd} (h : Ahead a s) : Ahead a (startMoveRange c s) :=
  Ahead.ite (ahead_finishCmd (ahead_recordErr h)) (Ahead.ite (ahead_finishCmd (ahead_recordErr h)) (Ahead.ite (ahead_finishCmd (ahead_recordErr h))
      (Ahead.ite (ahead_finishCmd (ahead_opFull h)) (ahead_takeOp h))))

theorem ahead_startMove {c : Cmd} {data : List Byte} (h : Ahead a s) : Ahead a (startMove c data s) :=
  Ahead.ite (ahead_joinOrder h) (ahead_startMoveRange h)

theorem ahead_serveOne {sid : Nat} (h : Ahead a s) : Ahead a (serveOne s sid) := ahead_serveGo h

theorem ahead_catchGo {fuel : Nat} {opens : List Wait} (h : Ahead a s) : Ahead a (catchGo fuel opens s) := by
  induction fuel generalizing s opens with
  | zero => exact h
  | succ fuel ih =>
    unfold catchGo
    split
    · exact h
    · exact ih (ahead_bindOpen h)
    · exact ih (ahead_serveOne h)
    · exact Ahead.ite (ih (ahead_bindOpen h)) (ih (ahead_serveOne h))

theorem ahead_catchSessions (h : Ahead a s) : Ahead a (catchSessions s) := by
  unfold catchSessions
  dsimp only
  refine ahead_catchGo ?_
  refine Ahead.put ?_
  refine Ahead.foldl h fun s e h => ?_
  split
  · exact Ahead.ite h (ahead_bindTurn (ahead_setSes h))
  · exact h

/-! ### Commits of session commands -/

theorem ahead_freeHead {sid : Nat} (h : Ahead a s) : Ahead a (freeHead s sid) := ahead_updSes h

theorem ahead_writeList {x : Ses} {keys : List Nat} (h : Ahead a s) : Ahead a (writeList s x keys) :=
  Ahead.foldl (ahead_writePage h) fun _ _ => ahead_writePage

theorem ahead_touchList {x : Ses} {keys : List Nat} (h : Ahead a s) : Ahead a (touchList s x keys) :=
  Ahead.foldl (ahead_writeList h) fun _ _ => ahead_touch

theorem ahead_commitPages {ps : List Nat} (h : Ahead a s) : Ahead a (commitPages s ps) := ahead_updPtes h

theorem ahead_sealAfter {sid : Nat} {c : Cmd} (h : Ahead a s) : Ahead a (sealAfter s sid c) := by
  unfold sealAfter
  split
  · exact h
  · exact Ahead.ite (ahead_startOp h) h

theorem ahead_courseLeave {sid : Nat} (h : Ahead a s) : Ahead a (courseLeave s sid) := Ahead.put h

theorem ahead_courseJoin {sid crew : Nat} (h : Ahead a s) : Ahead a (courseJoin s sid crew) := by
  unfold courseJoin
  split
  · exact h
  · exact Ahead.ite h (Ahead.put h)

theorem ahead_setCrew {sid crew : Nat} (h : Ahead a s) : Ahead a (setCrew s sid crew) := ahead_courseJoin (ahead_courseLeave (ahead_updSes h))

theorem ahead_tallyCommit {x : Ses} {tin tout detok bytes blade cmb : Nat} (h : Ahead a s) : Ahead a (tallyCommit s x tin tout detok bytes blade cmb) :=
  ahead_tally h

theorem ahead_writeAlong {at_ n : Nat} {bs : List Byte} (h : Ahead a s) : Ahead a (writeAlong s at_ n bs) := by
  induction n generalizing s at_ bs with
  | zero => exact h
  | succ n ih =>
    rw [writeAlong]
    exact Ahead.ite h (ih (ahead_touch (ahead_updPte (ahead_writePage h))))

theorem ahead_putEntry {x : Ses} {h₀ : PlanHdr} {k : Nat} {e : List Nat} (h : Ahead a s) : Ahead a (putEntry s x h₀ k e) := ahead_writeAlong h

theorem ahead_commitOpen {sid : Nat} {x : Ses} {c : Cmd} (h : Ahead a s) : Ahead a (commitOpen s sid x c) :=
  ahead_completeSes (ahead_sealAfter (ahead_markJournal (ahead_tally (ahead_courseJoin (ahead_commitPages (ahead_writeList
      (Ahead.put (ahead_setSes (ahead_openText h)))))))))

theorem ahead_forkNode {sid sp : Nat} (h : Ahead a s) : Ahead a (forkNode s sid sp) := by
  unfold forkNode
  split
  · exact h
  · exact ahead_updSes (ahead_updPtes (ahead_newNode h))

theorem ahead_forkCopy {src dst keep : Nat} (h : Ahead a s) : Ahead a (forkCopy s src dst keep) := by
  unfold forkCopy
  split
  · exact h
  · dsimp only
    split
    · exact h
    · exact ahead_cnt (ahead_touch (ahead_fillFrame h))

theorem ahead_commitFork {sid child root : Nat} {cap : Ses} {c : Cmd} (h : Ahead a s) : Ahead a (commitFork s sid child root cap c) := by
  have hforked {l : List Nat} : Ahead a (l.foldl (fun s sp => forkNode s sid sp) (dropCharges s child)) :=
    Ahead.foldl (ahead_dropCharges h) fun _ _ => ahead_forkNode
  have hmeter {l m k : List Nat} {x : Ses} : Ahead a (newMeter (touchList (m.foldl (fun s n => updNode s n (fun y => { y with refs := y.refs + 1 }))
      (l.foldl (fun s sp => forkNode s sid sp) (dropCharges s child))) x k) cap.d.tenant).2 :=
    ahead_newMeter (ahead_touchList (Ahead.foldl hforked fun _ _ => ahead_updNode))
  unfold commitFork
  dsimp only
  split
  · exact ahead_refuseSes (ahead_dropCharges h)
  · split
    · exact hforked
    · split
      · exact ahead_refuseSes hmeter
      · rename_i placed part t heq
        have ht : Ahead a t := by
          refine AheadOpt.of_eq (AheadOpt.bind (ahead_placePages hmeter) fun u hu => ?_) heq
          split
          · exact ahead_placeIndex hu
          · exact AheadOpt.some hu
        split
        · exact ahead_refuseSes ht
        · rename_i base u halloc
          have hu : Ahead a u := by
            refine AheadOpt.of_eq2 ?_ halloc
            exact AheadOpt.ite2 (AheadOpt.some ht) (ahead_allocPages ht)
          refine ahead_completeSes (ahead_sealAfter (Ahead.iteThen (ahead_markJournal (ahead_markJournal (ahead_tally (ahead_courseJoin
              (Ahead.put ?_))))) fun h => ahead_tally h))
          have hcopied {l : List Nat} {pl : Map PlEnt} {key : Nat → Nat} {keep : Nat} : Ahead a (l.foldl (fun s l =>
              match mapGet pl (key l) with | some e => forkCopy s e.page (base + l) keep | none => s) u) := by
            refine Ahead.foldl hu fun s l hs => ?_
            split
            · exact ahead_forkCopy hs
            · exact hs
          split
          · refine Ahead.foldl (ahead_writeList (ahead_setSes ?_)) fun _ _ => ahead_putEntry
            exact hcopied
          · refine ahead_writeList (ahead_setSes ?_)
            exact hcopied

theorem ahead_commitImportBegin {sid : Nat} {ns : List Nat} {w : ImpWin} {c : Cmd} (h : Ahead a s) : Ahead a (commitImportBegin s sid ns w c) := by
  unfold commitImportBegin
  split
  · exact h
  · exact ahead_completeSes (ahead_markJournal (ahead_touchList (ahead_setSes h)))

theorem ahead_freeWindowOp {sid gen : Nat} (h : Ahead a s) : Ahead a (freeWindowOp s sid gen) := by
  unfold freeWindowOp
  split
  · exact ahead_freeOp h
  · exact h

theorem ahead_commitImport {sid : Nat} {c : Cmd} (h : Ahead a s) : Ahead a (commitImport s sid c) := by
  unfold commitImport
  split
  · exact h
  · split
    · exact ahead_freeHead h
    · exact ahead_completeSes (ahead_sealAfter (ahead_markJournal (ahead_tallyCommit (Ahead.iteElse (ahead_freeWindowOp (ahead_touchList (ahead_setSes
          (ahead_commitPages (ahead_pfxFill (ahead_freePages h)))))) fun h => ahead_grmReset h))))

theorem ahead_dropWindow {sid : Nat} (h : Ahead a s) : Ahead a (dropWindow s sid) := by
  unfold dropWindow
  split
  · exact h
  · split
    · exact h
    · exact ahead_markJournal (ahead_freeWindowOp (ahead_setSes (Ahead.foldl (ahead_freePages (ahead_pfxUnfill h)) fun _ _ => ahead_updNode)))

theorem ahead_commitAbort {sid : Nat} {c : Option Cmd} (h : Ahead a s) : Ahead a (commitAbort s sid c) := by
  unfold commitAbort
  dsimp only
  split
  · exact ahead_completeSes (ahead_freeHead (ahead_dropWindow h))
  · split
    · exact ahead_sesEvent (ahead_dropWindow h)
    · exact ahead_dropWindow h

theorem ahead_spansFilled {sid : Nat} {x : Ses} {p0 : Nat} (h : Ahead a s) : Ahead a (spansFilled s sid x p0) := Ahead.put h

theorem ahead_commitStep {sid : Nat} {x : Ses} {r : Run} {blade cmb : Nat} (h : Ahead a s) : Ahead a (commitStep s sid x r blade cmb) :=
  ahead_completeSes (ahead_sealAfter (ahead_markJournal (ahead_tallyCommit (ahead_spansFilled (Ahead.put (ahead_touchList (ahead_commitPages
      (ahead_setSes (Ahead.iteElse (Ahead.ite2 (Ahead.foldl (ahead_cnt h) fun _ _ => ahead_sendStream) (ahead_detokCommit
      (Ahead.foldl (ahead_cnt h) fun _ _ => ahead_sendStream))) fun h => ahead_grmCommit h)))))))))

theorem ahead_commitAppend {sid : Nat} {x : Ses} {r : Run} {blade cmb : Nat} (h : Ahead a s) : Ahead a (commitAppend s sid x r blade cmb) := by
  unfold commitAppend
  dsimp only
  refine ahead_completeSes ?_
  refine ahead_sealAfter ?_
  refine ahead_markJournal ?_
  refine ahead_tallyCommit ?_
  refine ahead_spansFilled ?_
  refine Ahead.put ?_
  refine ahead_touchList ?_
  refine ahead_commitPages ?_
  refine ahead_setSes ?_
  refine Ahead.ite ?_ ?_
  · refine Ahead.ite ?_ (Ahead.foldl (ahead_cnt h) fun _ _ => ahead_sendStream)
    split
    · exact ahead_setCtx (ahead_cacheUse (Ahead.foldl (ahead_cnt h) fun _ _ => ahead_sendStream))
    · exact Ahead.foldl (ahead_cnt h) fun _ _ => ahead_sendStream
  · refine ahead_grmReset ?_
    refine Ahead.ite ?_ (Ahead.foldl (ahead_cnt h) fun _ _ => ahead_sendStream)
    split
    · exact ahead_setCtx (ahead_cacheUse (Ahead.foldl (ahead_cnt h) fun _ _ => ahead_sendStream))
    · exact Ahead.foldl (ahead_cnt h) fun _ _ => ahead_sendStream

theorem ahead_commitCompute {sid blade cmb : Nat} (h : Ahead a s) : Ahead a (commitCompute s sid blade cmb) := by
  unfold commitCompute
  split
  · exact h
  · split
    · exact h
    · exact Ahead.ite (ahead_commitStep h) (ahead_commitAppend h)

theorem ahead_commitParkCancelled {sid : Nat} {c : Cmd} (h : Ahead a s) : Ahead a (commitParkCancelled s sid c) := by
  unfold commitParkCancelled
  dsimp only
  split
  · exact ahead_finishCmd (ahead_recordErr h)
  · exact ahead_stageDone (ahead_recordErr h)

theorem ahead_commitReviveMoving {sid : Nat} {c : Cmd} (h : Ahead a s) : Ahead a (commitReviveMoving s sid c) :=
  ahead_completeSes (ahead_markJournal (ahead_freeHead (Ahead.ite h (ahead_setCrew h))))

theorem ahead_enterParked {sid op : Nat} (h : Ahead a s) : Ahead a (enterParked s sid op) := by
  unfold enterParked
  split
  · exact h
  · dsimp only
    split
    · exact ahead_completeSes (ahead_markJournal (ahead_courseLeave (ahead_tally (ahead_dropCharges (ahead_updSes (Ahead.foldl h fun _ _ =>
          ahead_freeH1))))))
    · exact ahead_markJournal (ahead_courseLeave (ahead_tally (ahead_dropCharges (ahead_updSes (Ahead.foldl h fun _ _ => ahead_freeH1)))))

theorem ahead_enterRevived {sid : Nat} {x : Ses} {r : Run} (h : Ahead a s) : Ahead a (enterRevived s sid x r) :=
  ahead_completeSes (ahead_markJournal (ahead_tally (ahead_setCrew (Ahead.iteThen (ahead_updSes h) fun h => ahead_dropCharges h))))

theorem ahead_reviveFinish (h : Ahead a s) : Ahead a (reviveFinish s) := by
  unfold reviveFinish
  refine Ahead.foldl h fun s e h => ?_
  dsimp only
  split
  · exact Ahead.iteThen (Ahead.ite (ahead_sesEvent (ahead_dropCharges (ahead_updSes h))) h) fun h => ahead_enterRevived h
  · exact Ahead.ite (ahead_sesEvent (ahead_dropCharges (ahead_updSes h))) h

theorem ahead_pinHolds (h : Ahead a s) : Ahead a (pinHolds s) := Ahead.foldl h fun _ _ h => Ahead.ite h (Ahead.ite h (ahead_copyUp h))

theorem ahead_commitPin {sid : Nat} {c : Cmd} (h : Ahead a s) : Ahead a (commitPin s sid c) := by
  unfold commitPin
  split
  · exact h
  · exact ahead_completeSes (ahead_markJournal (Ahead.iteThen (Ahead.ite (ahead_updPtes (ahead_setSes h)) (Ahead.ite (ahead_updPtes (ahead_setSes h))
        (ahead_updPtes (Ahead.foldl (ahead_setSes h) fun _ _ => ahead_unpinF)))) fun h => ahead_startOp h))

theorem ahead_dropSes {sid : Nat} {x : Ses} (h : Ahead a s) : Ahead a (dropSes s sid x) :=
  Ahead.put (ahead_dropCharges (ahead_courseLeave (ahead_pfxRelease (ahead_freePages (ahead_freePages h)))))

theorem ahead_commitRelease {sid : Nat} {c : Cmd} (h : Ahead a s) : Ahead a (commitRelease s sid c) := by
  unfold commitRelease
  dsimp only
  split
  · exact ahead_dropWindow h
  · exact Ahead.foldl (ahead_leaveJobs (ahead_dropSes (ahead_journal (ahead_tally (ahead_closeText (ahead_stageDone
        (Ahead.foldl (ahead_dropWindow h) fun _ _ => ahead_waitDone))))))) fun _ _ => ahead_refuseSes

theorem ahead_commitJoin {sid crew : Nat} {c : Cmd} (h : Ahead a s) : Ahead a (commitJoin s sid crew c) :=
  ahead_completeSes (ahead_markJournal (ahead_setCrew (ahead_freeHead h)))

theorem ahead_commitStream {sid : Nat} {c : Cmd} {data : List Byte} (h : Ahead a s) : Ahead a (commitStream s sid c data) := by
  unfold commitStream
  split
  · exact h
  · exact ahead_completeSes (ahead_sealAfter (ahead_markJournal (Ahead.iteElse (ahead_streamCommit (ahead_setSes h)) fun h => ahead_tallyCommit h)))

theorem ahead_commitIdle {sid : Nat} (h : Ahead a s) : Ahead a (commitIdle s sid) := by
  unfold commitIdle
  split
  · exact h
  · exact Ahead.ite (ahead_sesEvent (ahead_markJournal (ahead_updSes h))) h

theorem ahead_idleTick (h : Ahead a s) : Ahead a (idleTick s) := Ahead.put h

theorem ahead_sealedFinish (h : Ahead a s) : Ahead a (sealedFinish s) := Ahead.foldl h fun _ _ h => Ahead.ite (ahead_updSes h) h

theorem ahead_durFinish (h : Ahead a s) : Ahead a (durFinish s) :=
  Ahead.foldl h fun _ _ h => Ahead.iteElse (Ahead.foldl h fun _ _ => ahead_waitDone) fun h => ahead_updSes h

theorem ahead_sesFigures (h : Ahead a s) : Ahead a (sesFigures s) := ahead_wrF (ahead_wrF (ahead_wrF (ahead_wrF h)))

theorem ahead_deferMetered {ks : List Commit} (h : Ahead a s) : Ahead a (deferMetered s ks).2 := Ahead.ite2 (Ahead.put h) (Ahead.put h)

theorem ahead_execSessionIdle {sid : Nat} (h : Ahead a s) : AheadOut a (execSessionIdle sid s) := by
  unfold execSessionIdle
  refine AheadOut.next ?_
  split
  · exact h
  · exact Ahead.ite (ahead_stage h) h

theorem ahead_execImportWindowTimeout {sid : Nat} (h : Ahead a s) : AheadOut a (execImportWindowTimeout sid s) := by
  unfold execImportWindowTimeout
  refine AheadOut.next ?_
  split
  · exact h
  · exact Ahead.ite (ahead_stage h) h

theorem ahead_quotaExpiry {sid : Nat} (h : Ahead a s) : Ahead a (quotaExpiry s sid) := by
  unfold quotaExpiry
  split
  · exact h
  · split
    · exact h
    · split
      · exact h
      · exact Ahead.ite (Ahead.iteThen (ahead_refuseSes (ahead_setSes h)) fun h => ahead_serve h) h

theorem ahead_openExpiry {i : Nat} (h : Ahead a s) : Ahead a (openExpiry s i) := by
  unfold openExpiry
  split
  · exact h
  · split
    · exact h
    · split
      · exact h
      · exact Ahead.ite (ahead_refuseSes (Ahead.put h)) h

theorem ahead_undoMetered {k : Commit} (h : Ahead a s) : Ahead a (undoMetered s k) := by
  unfold undoMetered
  split
  · exact ahead_refuseSes (ahead_freePages h)
  · exact ahead_refuseSes (ahead_dropCharges h)
  · exact ahead_refuseSes (ahead_freeHead h)
  · exact ahead_refuseSes (ahead_freeHead h)
  · split
    · exact ahead_refuseSes (ahead_freeHead h)
    · exact h
  · exact h

theorem ahead_execUmpDownWaitExpiry {sid : Nat} (h : Ahead a s) : AheadOut a (execUmpDownWaitExpiry sid s) :=
  AheadOut.next (Ahead.ite h (Ahead.iteElse (Ahead.foldl (Ahead.put h) fun _ _ => ahead_undoMetered) fun h => ahead_raiseBit h))

/-! ### The Mover -/

theorem ahead_addPath {key n : Nat} (h : Ahead a s) : Ahead a (addPath s key n) := Ahead.put h

theorem ahead_takePath {src dst cls : Nat} {ps : List Nat} (h : Ahead a s) : Ahead a (takePath s src dst cls ps) :=
  Ahead.ite (Ahead.foldl (ahead_addPath h) fun _ _ => ahead_addPath) (Ahead.iteThen (ahead_addPath h) fun h => Ahead.foldl h fun _ _ => ahead_addPath)

theorem ahead_grantPages {id : Nat} {ps : List Nat} (h : Ahead a s) : Ahead a (grantPages s id ps) := by
  unfold grantPages
  dsimp only
  refine ahead_updPtes ?_
  refine ahead_updOp ?_
  split
  · exact ahead_takePath h
  · exact h

theorem ahead_reserveSlice {o : OpEnt} {ps : List Nat} (h : Ahead a s) : Ahead a (reserveSlice s o ps).2 :=
  Ahead.ite2 (ahead_dirtyReserve (Ahead.ite (ahead_dirtyDefer h) h)) h

theorem ahead_serveOps {room : Nat} {ops : List (Nat × OpEnt)} (h : Ahead a s) : Ahead a (serveOps s room ops).2 := by
  induction ops generalizing s room with
  | nil => exact h
  | cons e rest ih =>
    rw [serveOps]
    split
    · exact ih h
    · exact ih (ahead_grantPages (ahead_reserveSlice h))

theorem ahead_tryFinal {room id : Nat} {o : OpEnt} (h : Ahead a s) : Ahead a (tryFinal s room id o).2 := by
  unfold tryFinal
  dsimp only
  refine Ahead.ite2 ?_ h
  split
  · exact ahead_updSes (ahead_cnt (ahead_grantPages (ahead_updOp h)))
  · exact ahead_cnt (ahead_grantPages (ahead_updOp h))

theorem ahead_startSys (h : Ahead a s) : Ahead a (startSys s) := Ahead.foldl h fun _ _ h => Ahead.ite h (ahead_updOp (ahead_addPath h))

theorem ahead_startRounds (h : Ahead a s) : Ahead a (startRounds s) := Ahead.put h

theorem ahead_serveFirst {src dst : Nat} (h : Ahead a s) : Ahead a (serveFirst s src dst) := foldl_ahead2 (ahead_serveOps h) fun _ _ => ahead_tryFinal

theorem ahead_servePath {src dst : Nat} (h : Ahead a s) : Ahead a (servePath s src dst) :=
  ahead_serveOps (ahead_serveOps (ahead_serveOps (ahead_serveOps h)))

theorem ahead_catchFinals (h : Ahead a s) : Ahead a (catchFinals s) :=
  Ahead.foldl (ahead_startRounds (ahead_startSys (Ahead.put h))) fun _ _ => ahead_serveFirst

theorem ahead_catchMover (h : Ahead a s) : Ahead a (catchMover s) := Ahead.foldl (ahead_startRounds h) fun _ _ => ahead_servePath

theorem ahead_damageEvent {d : Desc} (h : Ahead a s) : Ahead a (damageEvent s d) := ahead_raiseBit h

theorem ahead_losePage {p : Nat} (h : Ahead a s) : Ahead a (losePage s p) :=
  Ahead.foldl (ahead_updPte (ahead_freeF1 (ahead_freeH1 h))) fun _ _ h => Ahead.ite (Ahead.ite (ahead_stage (ahead_updSes h)) (ahead_damageEvent
      (ahead_updSes h))) h

theorem ahead_ringTake {id p : Nat} {cells : Map Byte} (h : Ahead a s) : Ahead a (ringTake s id p cells) :=
  Ahead.foldl (ahead_updPte h) fun _ _ h => Ahead.ite (ahead_fillFrame h) h

theorem ahead_copyAgain {id p : Nat} {o : OpEnt} (h : Ahead a s) : Ahead a (copyAgain s id p o) := ahead_updPte (ahead_setOp h)

theorem ahead_copyFault {id p : Nat} {o : OpEnt} {r : CopyEnd} (h : Ahead a s) : Ahead a (copyFault s id p o r) := by
  unfold copyFault
  split
  · exact Ahead.ite h (ahead_noteErr (ahead_recordErr (ahead_copyAgain h)))
  · exact Ahead.ite h (ahead_noteErr (ahead_recordErr (ahead_copyAgain h)))
  · exact h
  · exact h

theorem ahead_pageCopied {id p : Nat} {r : CopyEnd} (h : Ahead a s) : Ahead a (pageCopied s id p r) := by
  unfold pageCopied
  dsimp only
  split
  · exact h
  · refine Ahead.ite h ?_
    refine Ahead.ite (ahead_copyFault h) ?_
    refine Ahead.ite (ahead_copyAgain h) ?_
    split
    · exact Ahead.ite (ahead_ringTake (ahead_cnt (ahead_setOp h))) (ahead_stage (ahead_setOp h))
    · exact ahead_losePage (Ahead.ite (ahead_noteErr (ahead_recordErr (Ahead.iteThen (Ahead.put (ahead_setOp h)) fun h => ahead_raiseBit h)))
          (ahead_noteErr (ahead_recordErr (ahead_cntI (Ahead.iteThen (Ahead.put (ahead_setOp h)) fun h => ahead_raiseBit h)))))

theorem ahead_execMoverPageCopied {op page : Nat} {res : CopyEnd} (h : Ahead a s) : AheadOut a (execMoverPageCopied op page res s) :=
  AheadOut.next (ahead_pageCopied h)

theorem ahead_landH {p : Nat} {e : Pte} {mask : Nat} {cells : Map Byte} (h : Ahead a s) : AheadOpt a (landH s p e mask cells) := by
  unfold landH
  dsimp only
  split
  · exact AheadOpt.some (ahead_setPte (ahead_fillFrame (Ahead.put h)))
  · exact AheadOpt.none

theorem ahead_adoptCopy {id p ver dst : Nat} (h : Ahead a s) : Ahead a (adoptCopy s id p ver dst) := Ahead.ite h (Ahead.put h)

theorem ahead_applyLanded {id p ver : Nat} {cells : Map Byte} (h : Ahead a s) : Ahead a (applyLanded s id p ver cells) := by
  unfold applyLanded
  split
  · dsimp only
    split
    · exact Ahead.iteElse (ahead_updPte h) fun h => ahead_cnt (ahead_adoptCopy (ahead_useCharge (ahead_putSealed h)))
    · refine Ahead.ite (ahead_cnt (ahead_fillFrame (ahead_updPte h))) ?_
      refine Ahead.ite ?_ ?_
      · refine Ahead.ite ?_ ?_
        · split
          · exact AheadOpt.getD (ahead_landH (ahead_freeH1 (ahead_cnt (ahead_updPte h)))) (ahead_freeH1 (ahead_cnt (ahead_updPte h)))
          · exact ahead_freeH1 (ahead_cnt (ahead_updPte h))
        · split
          · exact ahead_fillFrame (ahead_cnt (ahead_updPte h))
          · split
            · exact ahead_updOp (ahead_fillFrame (Ahead.put (ahead_cnt (ahead_updPte h))))
            · exact ahead_updOp (ahead_cnt (ahead_updPte h))
      · refine Ahead.ite (Ahead.iteThen (ahead_updPte h) fun h => Ahead.put (ahead_fillFrame h)) ?_
        split
        · rename_i heq
          have ht := (ahead_landH (ahead_updPte h)).of_eq heq
          exact ahead_cnt (ahead_adoptCopy (ahead_useCharge ht))
        · exact ahead_updOp (ahead_updPte h)
    · exact ahead_cnt (ahead_updPte h)
  · exact h

theorem ahead_switchFrames {o : OpEnt} (h : Ahead a s) : Ahead a (switchFrames s o) := by
  unfold switchFrames
  refine Ahead.foldl h fun s e h => ?_
  dsimp only
  split
  · exact Ahead.put h
  · exact Ahead.ite (ahead_setPte (Ahead.put (ahead_zeroFrame h))) (Ahead.put h)

theorem ahead_dropTargets {o : OpEnt} (h : Ahead a s) : Ahead a (dropTargets s o) := Ahead.foldl h fun _ _ h => ahead_zeroFrame (Ahead.put h)

theorem ahead_moveDone {o : OpEnt} {status : Nat} (h : Ahead a s) : Ahead a (moveDone s o status) := by
  unfold moveDone
  split
  · exact h
  · split
    · exact ahead_stageDone h
    · exact ahead_stageDone (Ahead.ite (ahead_recordErr h) h)

theorem ahead_demoted {o : OpEnt} (h : Ahead a s) : Ahead a (demoted s o) := by
  unfold demoted
  split
  · exact h
  · exact Ahead.ite (ahead_setNode (Ahead.foldl h fun _ _ => ahead_freeH1)) (ahead_setNode h)

theorem ahead_opDone {id : Nat} {o : OpEnt} (h : Ahead a s) : Ahead a (opDone s id o) := by
  unfold opDone
  split
  · split
    · exact ahead_freeOp (ahead_enterParked (ahead_setOp h))
    · exact ahead_endOp h
  · exact ahead_freeOp (ahead_demoted h)
  · exact ahead_freeOp (ahead_moveDone (ahead_switchFrames (ahead_setOp h)))
  · exact ahead_freeOp (ahead_dropCharges h)

theorem ahead_opNoConv {id : Nat} {o : OpEnt} (h : Ahead a s) : Ahead a (opNoConv s id o) := by
  unfold opNoConv
  dsimp only
  refine Ahead.ite ?_ (ahead_endOp (ahead_moveDone (ahead_dropTargets (ahead_raiseBit (ahead_cnt (ahead_recordErr h))))))
  split
  · split
    · exact ahead_stageDone (ahead_dropCharges (ahead_endOp (ahead_updSes (ahead_raiseBit (ahead_cnt (ahead_recordErr h))))))
    · exact ahead_dropCharges (ahead_endOp (ahead_updSes (ahead_raiseBit (ahead_cnt (ahead_recordErr h)))))
  · exact ahead_endOp (ahead_raiseBit (ahead_cnt (ahead_recordErr h)))

theorem ahead_opRound {id : Nat} {o : OpEnt} (h : Ahead a s) : Ahead a (opRound s id o) :=
  Ahead.ite (ahead_endOp (ahead_moveDone (ahead_dropTargets h))) (Ahead.ite (ahead_opDone h) (Ahead.ite (ahead_setOp h) (Ahead.ite (ahead_setOp h)
      (Ahead.ite (ahead_setOp h) (ahead_opNoConv h)))))

theorem ahead_sysArrived {id : Nat} {o : OpEnt} (h : Ahead a s) : Ahead a (sysArrived s id o) := by
  unfold sysArrived
  split
  · exact h
  · exact Ahead.ite h (ahead_freeOp (ahead_updOp (Ahead.put h)))

theorem ahead_moverFinish (h : Ahead a s) : Ahead a (moverFinish s) := by
  unfold moverFinish
  refine Ahead.foldl (ahead_purgeOps h) fun s e h => ?_
  split
  · exact h
  · exact Ahead.ite h (Ahead.ite (ahead_sysArrived h) (Ahead.ite (Ahead.ite (ahead_opRound h) h)
        (Ahead.ite h (Ahead.ite h (Ahead.ite (ahead_opDone h) h)))))

theorem ahead_cleanClass {st : Cleaning} (h : Ahead a s) : Ahead a (cleanClass s st) := Ahead.put h

theorem ahead_cleanFinish (h : Ahead a s) : Ahead a (cleanFinish s) :=
  Ahead.iteElse (ahead_cleanClass (Ahead.put h)) fun k1 => Ahead.iteElse k1 fun h => ahead_startOp h

theorem ahead_applyTouched {ps : List Nat} (h : Ahead a s) : Ahead a (applyTouched s ps) := ahead_updPtes h

theorem ahead_foldLeaves (h : Ahead a s) : Ahead a (foldLeaves s) := Ahead.put h

theorem ahead_execLeafUnfold {leaf : Nat} (h : Ahead a s) : AheadOut a (execLeafUnfold leaf s) := AheadOut.next (Ahead.put h)

theorem ahead_advise {reason kind from_ to_ pages object tenant : Nat} (h : Ahead a s) : Ahead a (advise s reason kind from_ to_ pages object tenant) :=
  Ahead.ite h (ahead_raiseBit (Ahead.put h))

theorem ahead_adviseParks (h : Ahead a s) : Ahead a (adviseParks s) := Ahead.foldl h fun _ _ => ahead_advise

theorem ahead_adviseLane {reason lane : Nat} (h : Ahead a s) : Ahead a (adviseLane s reason lane) :=
  Ahead.foldl h fun _ _ h => Ahead.ite h (ahead_advise h)

theorem ahead_tierFigures (h : Ahead a s) : Ahead a (tierFigures s) :=
  Ahead.put (Ahead.iteThen (Ahead.iteThen (ahead_wrF (ahead_wrF (ahead_wrF (ahead_wrF (ahead_wrF (ahead_wrF h)))))) fun h => ahead_adviseParks
      (ahead_raiseBit h)) fun h => ahead_raiseBit h)

/-! ### Lane dies -/

theorem ahead_reduceFigures {lane : Nat} (h : Ahead a s) : Ahead a (reduceFigures s lane) := ahead_wrI (ahead_wrI h)

theorem ahead_reduceError {k lane g : Nat} (h : Ahead a s) : Ahead a (reduceError s k lane g) := ahead_noteErr (ahead_recordErr (ahead_poisonLeg h))

theorem ahead_deliver {k lane : Nat} {e : TagEnt} {pairs bytes : List Byte} {poison : Bool} (h : Ahead a s) :
    Ahead a (deliver s k lane e pairs bytes poison) :=
  Ahead.ite (ahead_cntI (ahead_poisonLeg (Ahead.put h))) (Ahead.put h)

theorem ahead_setTag {i : Nat} {t : TagSt} (h : Ahead a s) : Ahead a (setTag s i t) := Ahead.put h

theorem ahead_tagStep {k lane : Nat} {e : TagEnt} {t : TagSt} {pairs bytes : List Byte} (h : Ahead a s) : Ahead a (tagStep s k lane e t pairs bytes) :=
  Ahead.ite (ahead_setTag h) (ahead_deliver (ahead_setTag h))

theorem ahead_reduceIn {g : Nat} {x : Ship} (h : Ahead a s) : Ahead a (reduceIn s g x) := by
  unfold reduceIn
  dsimp only
  split
  · exact ahead_reduceError (Ahead.ite (ahead_poisonLeg h) h)
  · refine Ahead.ite (ahead_reduceError (Ahead.ite (ahead_poisonLeg h) h)) ?_
    refine Ahead.ite ?_ (Ahead.ite (ahead_reduceError (Ahead.ite (ahead_poisonLeg h) h))
        (Ahead.ite (Ahead.ite (ahead_deliver (ahead_setTag (Ahead.ite (ahead_poisonLeg h) h))) (ahead_tagStep (Ahead.ite (ahead_poisonLeg h) h)))
        (Ahead.ite (ahead_tagStep (Ahead.ite (ahead_poisonLeg h) h)) (ahead_tagStep (Ahead.ite (ahead_poisonLeg h) h)))))
    refine Ahead.ite (Ahead.ite (ahead_setTag (Ahead.ite (ahead_poisonLeg h) h)) (ahead_reduceError (Ahead.ite (ahead_poisonLeg h) h))) ?_
    split
    · exact ahead_reduceError (Ahead.ite (ahead_poisonLeg h) h)
    · exact Ahead.ite (ahead_reduceError (ahead_setTag (Ahead.ite (ahead_poisonLeg h) h)))
          (Ahead.ite (ahead_tagStep (Ahead.ite (ahead_poisonLeg h) h)) (ahead_tagStep (Ahead.ite (ahead_poisonLeg h) h)))

theorem ahead_closeTags {k lane : Nat} (h : Ahead a s) : Ahead a (closeTags s k lane) :=
  Ahead.ite h (Ahead.put (Ahead.ite (ahead_noteErr (ahead_recordErr (ahead_poisonLeg h))) h))

theorem ahead_takeLeg {k g : Nat} (h : Ahead a s) : Ahead a (takeLeg s k g) := Ahead.ite h (ahead_beginLeg h)

theorem ahead_qload {k g : Nat} {x : SchedEnt} (h : Ahead a s) : Ahead a (qload s k g x) := ahead_sramPut (ahead_sramPut (ahead_takeLeg h))

theorem ahead_segLoad {k t g : Nat} {x : SchedEnt} (h : Ahead a s) : Ahead a (segLoad s k t g x) :=
  Ahead.foldl (ahead_takeLeg h) fun _ _ => ahead_sramPut

theorem ahead_setBus {pc : Nat} {b : BusSt} (h : Ahead a s) : Ahead a (setBus s pc b) := Ahead.put h

theorem ahead_busBytes {pc beats : Nat} (h : Ahead a s) : Ahead a (busBytes s pc beats) := ahead_cntI h

theorem ahead_busParity {k g : Nat} (h : Ahead a s) : Ahead a (busParity s k g) := ahead_noteErr (ahead_recordErr (ahead_cntI (ahead_poisonLeg h)))

theorem ahead_doSched {pc k : Nat} {x : SchedEnt} {parity : Bool} (h : Ahead a s) : Ahead a (doSched s pc k x parity) :=
  Ahead.iteThen (ahead_setBus (Ahead.foldl (ahead_busBytes h) fun _ _ h => Ahead.ite (ahead_qload h) (ahead_segLoad h))) fun h => ahead_busParity h

theorem ahead_doShip {pc g : Nat} {x : Ship} {xs : List Ship} {parity : Bool} (h : Ahead a s) : Ahead a (doShip s pc g x xs parity) :=
  Ahead.iteElse (ahead_updRun (ahead_setBus (ahead_busBytes h))) fun k1 => ahead_reduceFigures (ahead_closeTags (ahead_reduceIn
      (Ahead.iteThen k1 fun h => ahead_busParity h)))

theorem ahead_exchangePc {pc : Nat} (h : Ahead a s) : Ahead a (exchangePc s pc) := Ahead.foldl h fun _ _ h => Ahead.put h

theorem ahead_saveBlade {image g : Nat} (h : Ahead a s) : Ahead a (saveBlade s image g) := Ahead.put h

theorem ahead_restoreBlade {c : Ctx} {g at_ : Nat} (h : Ahead a s) : Ahead a (restoreBlade s c g at_) := by
  unfold restoreBlade
  split
  · exact Ahead.put h
  · dsimp only
    split
    · exact ahead_putResident (Ahead.put h)
    · exact Ahead.put h

theorem ahead_restorePc {c : Ctx} {pc at_ : Nat} (h : Ahead a s) : Ahead a (restorePc s c pc at_) := Ahead.foldl h fun _ _ => ahead_restoreBlade

theorem ahead_switchBlade {pc : Nat} {w : Switch} (h : Ahead a s) : Ahead a (switchBlade s pc w) := by
  unfold switchBlade
  dsimp only
  refine Ahead.put ?_
  split
  · split
    · exact ahead_saveBlade (ahead_busBytes h)
    · exact ahead_busBytes h
  · exact ahead_restoreBlade (ahead_busBytes h)

theorem ahead_doSwitchBus {pc : Nat} {w : Switch} {parity : Bool} (h : Ahead a s) : Ahead a (doSwitchBus s pc w parity) :=
  Ahead.ite (ahead_switchBlade h) (Ahead.put (ahead_noteErr (ahead_recordErr (ahead_recordErr (ahead_cntI (ahead_busBytes h))))))

theorem ahead_busTransfer {pc : Nat} {parity : Bool} (h : Ahead a s) : Ahead a (busTransfer s pc parity) := by
  unfold busTransfer
  split
  · exact ahead_doSched h
  · split
    · exact ahead_doShip h
    · split
      · exact Ahead.ite (ahead_doSwitchBus h) h
      · exact h

theorem ahead_execLaneBusTransfer {pc : Nat} {parity : Bool} (h : Ahead a s) : AheadOut a (execLaneBusTransfer pc parity s) :=
  AheadOut.ite AheadOut.fault (AheadOut.next (ahead_busTransfer h))

theorem ahead_legEnd {g : Nat} (h : Ahead a s) : Ahead a (legEnd s g) := by
  unfold legEnd
  split
  · exact h
  · dsimp only
    split
    · exact h
    · split
      · exact h
      · exact Ahead.ite h (ahead_reduceFigures (ahead_closeTags (ahead_idleSlot (ahead_updLeg (ahead_updRun (ahead_runToPull (ahead_takeLeg h)))))))

theorem ahead_execLegEnd {blade : Nat} (h : Ahead a s) : AheadOut a (execLegEnd blade s) := AheadOut.ite AheadOut.fault (AheadOut.next (ahead_legEnd h))

theorem ahead_controlSlot {g row : Nat} {wr : Option (List Byte)} {flips : List (Nat × Byte)} (h : Ahead a s) : Ahead a (controlSlot s g row wr flips) :=
    by
  unfold controlSlot
  dsimp only
  refine Ahead.ite h ?_
  refine Ahead.ite (ahead_cntI h) ?_
  split
  · exact ahead_touchFrame (ahead_writeFrame (ahead_chargeSlot (Ahead.ite h (ahead_cntI h))))
  · exact ahead_pullNotes (ahead_chargeSlot (Ahead.ite h (ahead_cntI h)))

theorem ahead_execControlDieSlot {blade row : Nat} {wr : Option (List Byte)} {flips : List (Nat × Byte)} (h : Ahead a s) :
    AheadOut a (execControlDieSlot blade row wr flips s) :=
  AheadOut.ite AheadOut.fault (AheadOut.next (ahead_controlSlot h))

/-! ### The lanes' governors -/

theorem ahead_overrides {k : Nat} (h : Ahead a s) : Ahead a (overrides s k) :=
  Ahead.ite (Ahead.put h) (Ahead.foldl (Ahead.put h) fun _ _ h => ahead_raiseBit (ahead_cntI h))

theorem ahead_governCatch (h : Ahead a s) : Ahead a (governCatch s) :=
  Ahead.foldl h fun _ _ h => ahead_overrides (ahead_wrI (ahead_wrI (ahead_wrI h)))

theorem ahead_slowRestart {k : Nat} (h : Ahead a s) : Ahead a (slowRestart s k) := Ahead.put h

theorem ahead_holdEnd {k : Nat} (h : Ahead a s) : Ahead a (holdEnd s k) := ahead_raiseBit (ahead_wrI (ahead_wrI (ahead_wrI (ahead_slowRestart h))))

theorem ahead_applyGov {k w : Nat} (h : Ahead a s) : Ahead a (applyGov s k w) :=
  Ahead.ite (ahead_wrI (ahead_wrWord h)) (Ahead.iteThen (ahead_wrI (ahead_wrWord h)) fun h => ahead_wrI (ahead_slowRestart h))

theorem ahead_spend {k n : Nat} (h : Ahead a s) : Ahead a (spend s k n) := Ahead.put h

theorem ahead_governCounts (h : Ahead a s) : Ahead a (governCounts s) := Ahead.foldl h fun _ _ h => Ahead.ite (ahead_wrI (ahead_wrI h)) (ahead_wrI h)

theorem ahead_governFinish {energy : List Nat} (h : Ahead a s) : Ahead a (governFinish s energy) :=
  Ahead.put (Ahead.foldl h fun _ _ h => Ahead.ite (ahead_cntI (Ahead.put (ahead_wrI h))) (ahead_wrI h))

theorem ahead_slowLoop {k predict : Nat} (h : Ahead a s) : Ahead a (slowLoop s k predict) := Ahead.ite h (ahead_wrI (ahead_wrI (ahead_slowRestart h)))

theorem ahead_execSlowThermalLoop {lane predict : Nat} (h : Ahead a s) : AheadOut a (execSlowThermalLoop lane predict s) :=
  AheadOut.ite AheadOut.fault (AheadOut.next (ahead_slowLoop h))

theorem ahead_seeTemp {k die temp : Nat} (h : Ahead a s) : Ahead a (seeTemp s k die temp) := ahead_wrI (ahead_wrI h)

theorem ahead_setHot {k : Nat} (h : Ahead a s) : Ahead a (setHot s k) := Ahead.ite h (ahead_raiseBit (ahead_wrI h))

theorem ahead_hotSet {k die temp : Nat} (h : Ahead a s) : Ahead a (hotSet s k die temp) := Ahead.ite h (ahead_setHot (ahead_seeTemp h))

theorem ahead_execLaneHotSet {lane die temp : Nat} (h : Ahead a s) : AheadOut a (execLaneHotSet lane die temp s) :=
  AheadOut.ite AheadOut.fault (AheadOut.next (ahead_hotSet h))

theorem ahead_hotClear {k temp : Nat} (h : Ahead a s) : Ahead a (hotClear s k temp) := Ahead.ite h (Ahead.put (Ahead.put (ahead_wrI (ahead_wrI h))))

theorem ahead_execLaneHotClear {lane temp : Nat} (h : Ahead a s) : AheadOut a (execLaneHotClear lane temp s) :=
  AheadOut.ite AheadOut.fault (AheadOut.next (ahead_hotClear h))

theorem ahead_stopLegs {hit : Nat → Bool} (h : Ahead a s) : Ahead a (stopLegs s hit) := Ahead.put h

theorem ahead_tempTrip {k die temp : Nat} (h : Ahead a s) : Ahead a (tempTrip s k die temp) :=
  Ahead.ite h (Ahead.iteElse (ahead_setHot (ahead_seeTemp h)) fun h => ahead_overrides (ahead_raiseBit (Ahead.put (ahead_stopLegs (Ahead.put h)))))

theorem ahead_execLaneTempTrip {lane die temp : Nat} (h : Ahead a s) : AheadOut a (execLaneTempTrip lane die temp s) :=
  AheadOut.ite AheadOut.fault (AheadOut.next (ahead_tempTrip h))

theorem ahead_execSprintHoldEnd {lane : Nat} (h : Ahead a s) : AheadOut a (execSprintHoldEnd lane s) :=
  AheadOut.ite AheadOut.fault (AheadOut.next (Ahead.ite (ahead_holdEnd h) h))

theorem ahead_execColdStartEnd {lane : Nat} (h : Ahead a s) : AheadOut a (execColdStartEnd lane s) :=
  AheadOut.ite AheadOut.fault (AheadOut.next (Ahead.ite (ahead_raiseBit (Ahead.put h)) h))

theorem ahead_coldStart {k : Nat} (h : Ahead a s) : Ahead a (coldStart s k) := Ahead.put (ahead_wrI (ahead_wrI h))

/-! ### Combine programs -/

theorem ahead_storePut {g off : Nat} {bs : List Byte} (h : Ahead a s) : Ahead a (storePut s g off bs) := Ahead.put h

theorem ahead_putLogits {p : Pass} {t : Nat} {bits : List Nat} (h : Ahead a s) : Ahead a (putLogits s p t bits) := by
  unfold putLogits
  split
  · exact h
  · split
    · exact h
    · split
      · exact h
      · refine Ahead.ite h ?_
        dsimp only
        split
        · exact Ahead.ite h (ahead_cnt h)
        · exact ahead_updSes (Ahead.ite h (ahead_cnt h))

theorem ahead_cmbRun {k : Nat} {l : GLeg} {g at_ : Nat} {i : CmbIns} (h : Ahead a s) : Ahead a (cmbRun s k l g at_ i) := by
  unfold cmbRun
  dsimp only
  split
  · exact ahead_storePut h
  · exact ahead_storePut h
  · split
    · exact h
    · exact ahead_storePut h
  · split
    · exact h
    · split
      · exact h
      · exact ahead_storePut h
  · split
    · exact h
    · exact ahead_storePut h
  · exact ahead_storePut h
  · exact ahead_storePut (Ahead.ite h (ahead_cntI h))
  · exact Ahead.put h
  · split
    · exact Ahead.put (ahead_cnt (ahead_storePut h))
    · exact ahead_storePut h
  · split
    · exact h
    · split
      · exact h
      · split
        · exact ahead_storePut h
        · exact ahead_storePut h
  · split
    · exact h
    · exact ahead_putLogits h
  · exact ahead_storePut h
  · exact h

theorem ahead_combineStep {k g : Nat} {bad : Option Nat} (h : Ahead a s) : Ahead a (combineStep s k g bad) := by
  unfold combineStep
  split
  · exact h
  · dsimp only
    split
    · exact h
    · refine Ahead.ite h ?_
      split
      · exact Ahead.put (ahead_updLeg (ahead_cmbRun h))
      · exact ahead_noteErr (ahead_recordErr (ahead_cntI (ahead_poisonLeg (Ahead.put (ahead_updLeg (ahead_cmbRun h))))))

theorem ahead_execCombineInstruction {leg group : Nat} {fault : Option Nat} (h : Ahead a s) : AheadOut a (execCombineInstruction leg group fault s) :=
  AheadOut.ite AheadOut.fault (AheadOut.next (ahead_combineStep h))

theorem ahead_cmbFigures (h : Ahead a s) : Ahead a (cmbFigures s) := Ahead.put (Ahead.foldl h fun _ _ h => ahead_wrI (ahead_wrI h))

/-! ### Fit records -/

theorem ahead_noteNofit {w : Nat} (h : Ahead a s) : Ahead a (noteNofit s w) := ahead_wrWord h

theorem ahead_markNofit {w : Nat} (h : Ahead a s) : Ahead a (markNofit s w) := ahead_raiseBit (ahead_noteNofit h)

/-! ### Plans and expert sets -/

theorem ahead_refusePlan {c : Cmd} {e : PlanErr} (h : Ahead a s) : Ahead a (refusePlan s c e) :=
  ahead_stageDone (Ahead.ite (ahead_recordErr h) (Ahead.ite (ahead_recordErr h) (Ahead.ite (ahead_recordErr h) (Ahead.ite (ahead_recordErr h)
      (Ahead.ite (ahead_opFull h) (Ahead.ite (ahead_recordErr h) (Ahead.ite (ahead_recordErr h) (ahead_recordErr h))))))))

theorem ahead_takeFrame {p f : Nat} (h : Ahead a s) : Ahead a (takeFrame s p f) := Ahead.ite (ahead_setPte h) (ahead_newPage h)

theorem ahead_clearFrames {fs : List Nat} (h : Ahead a s) : Ahead a (clearFrames s fs) := Ahead.ite h (ahead_takeOp h)

theorem ahead_beginLoad {c : Cmd} {p : Plan} {fs : List (Nat × Nat)} (h : Ahead a s) : Ahead a (beginLoad s c p fs) :=
  Ahead.put (ahead_takeOp (Ahead.foldl (ahead_clearFrames h) fun _ _ => ahead_takeFrame))

theorem ahead_loadModel {c : Cmd} {p : Plan} {fs : List (Nat × Nat)} (h : Ahead a s) : Ahead a (loadModel s c p fs) := by
  unfold loadModel
  dsimp only
  split
  · exact ahead_refusePlan h
  · split
    · exact ahead_refusePlan (ahead_markNofit h)
    · exact Ahead.ite (ahead_beginLoad h) (ahead_refusePlan h)

theorem ahead_loadSet {c : Cmd} {img : List Byte} {h₀ : PlanHdr} {ss : List Sect} (h : Ahead a s) : Ahead a (loadSet s c img h₀ ss) := by
  unfold loadSet
  split
  · exact ahead_refusePlan h
  · exact ahead_refusePlan h
  · dsimp only
    refine Ahead.ite (ahead_refusePlan h) ?_
    split
    · exact ahead_refusePlan h
    · exact Ahead.ite (ahead_refusePlan h) (Ahead.ite (ahead_beginLoad h) (ahead_refusePlan h))

theorem ahead_startPlanLoad {c : Cmd} {data : List Byte} (h : Ahead a s) : Ahead a (startPlanLoad c data s) := by
  unfold startPlanLoad
  refine Ahead.ite (ahead_refusePlan h) ?_
  split
  · exact ahead_finishCmd h
  · split
    · exact ahead_refusePlan h
    · refine Ahead.ite (ahead_refusePlan h) ?_
      refine Ahead.ite (Ahead.ite (ahead_loadSet h) (ahead_refusePlan h)) ?_
      split
      · exact ahead_refusePlan h
      · exact ahead_loadModel h
      · exact ahead_refusePlan h

theorem ahead_execPlanLoad {c : Cmd} {data : List Byte} (h : Ahead a s) : AheadOut a (execPlanLoad c data s) :=
  AheadOut.next (ahead_submit h (fun _ _ _ h => ahead_startPlanLoad h))

theorem ahead_dropContexts {model version : Nat} (h : Ahead a s) : Ahead a (dropContexts s model version) := Ahead.put h

theorem ahead_removeModel {model : Nat} (h : Ahead a s) : Ahead a (removeModel s model) := by
  unfold removeModel
  split
  · exact h
  · exact Ahead.put (Ahead.foldl h fun _ _ h => ahead_dropContexts (ahead_freePages h))

theorem ahead_removeSet {key : Nat} (h : Ahead a s) : Ahead a (removeSet s key) := by
  unfold removeSet
  split
  · exact h
  · exact Ahead.put (Ahead.foldl h fun _ _ => ahead_freePages)

theorem ahead_planUnloaded {c : Cmd} (h : Ahead a s) : Ahead a (planUnloaded s c) :=
  Ahead.ite (Ahead.ite (ahead_refusePlan h) (ahead_finishCmd (ahead_removeModel h))) (Ahead.ite (Ahead.put h) (ahead_finishCmd (ahead_removeSet h)))

theorem ahead_startPlanUnload {c : Cmd} {x1 : List Byte} (h : Ahead a s) : Ahead a (startPlanUnload c x1 s) :=
  Ahead.ite (ahead_refusePlan h) (Ahead.ite (Ahead.ite (ahead_refusePlan h) (Ahead.ite (ahead_refusePlan h) (Ahead.ite (ahead_planUnloaded h)
      (ahead_stage h)))) (Ahead.ite (ahead_refusePlan h) (Ahead.ite (Ahead.put h) (Ahead.ite (ahead_planUnloaded h) (ahead_stage h)))))

theorem ahead_execPlanUnload {c : Cmd} (h : Ahead a s) : AheadOut a (execPlanUnload c s) :=
  AheadOut.next (ahead_submit h (fun _ _ _ h => ahead_startPlanUnload h))

theorem ahead_takeVacated (h : Ahead a s) : Ahead a (takeVacated s) := by
  unfold takeVacated
  refine Ahead.foldl h fun s e h => ?_
  dsimp only
  refine Ahead.put ?_
  refine Ahead.foldl (Ahead.ite (ahead_clearFrames h) h) fun s e h => ?_
  split
  · exact Ahead.put (ahead_setPte h)
  · exact h

theorem ahead_planEvent {retired : Bool} {h₀ : PlanHdr} (h : Ahead a s) : Ahead a (planEvent s retired h₀) := ahead_raiseBit h

theorem ahead_installPlan {l : PlanLoad} (h : Ahead a s) : Ahead a (installPlan s l) :=
  ahead_stageDone (ahead_sealImage (ahead_planEvent (Ahead.ite (Ahead.put (ahead_freeOp (ahead_updPtes (Ahead.put h))))
      (Ahead.put (ahead_freeOp (ahead_updPtes (Ahead.put h)))))))

theorem ahead_retirePlan {model : Nat} (h : Ahead a s) : Ahead a (retirePlan s model) := by
  unfold retirePlan
  split
  · exact Ahead.ite h (ahead_planEvent (Ahead.put (ahead_dropContexts (ahead_freePages h))))
  · exact h

theorem ahead_retireSet {key : Nat} (h : Ahead a s) : Ahead a (retireSet s key) := by
  unfold retireSet
  split
  · exact Ahead.ite h (ahead_planEvent (Ahead.put (ahead_freePages h)))
  · exact h

theorem ahead_dropWaiting {c : Cmd} (h : Ahead a s) : Ahead a (dropWaiting s c) := Ahead.ite h (ahead_finishCmd (ahead_removeSet (Ahead.put h)))

theorem ahead_plansFinish (h : Ahead a s) : Ahead a (plansFinish s) :=
  Ahead.put (Ahead.foldl (Ahead.foldl (Ahead.foldl (Ahead.foldl (ahead_takeVacated h) fun _ _ => ahead_installPlan) fun _ _ => ahead_retirePlan) fun _
      _ => ahead_retireSet) fun _ _ => ahead_dropWaiting)

/-! ### The Gather/Scatter engine -/

theorem ahead_setOrder {t : Nat} {q : List GsxReq} (h : Ahead a s) : Ahead a (setOrder s t q) := Ahead.put h

theorem ahead_refuseGsx {c : Cmd} {code c0 : Nat} (h : Ahead a s) : Ahead a (refuseGsx s c code c0) :=
  ahead_refuseWith (Ahead.ite (ahead_opFull h) (ahead_recordErr h))

theorem ahead_loadGsx {c : Cmd} {t : GsxTab} {bytes : List Byte} (h : Ahead a s) : Ahead a (loadGsx s c t bytes) := by
  unfold loadGsx
  dsimp only
  refine Ahead.ite (ahead_refuseGsx h) ?_
  refine Ahead.ite (ahead_refuseGsx h) ?_
  split
  · exact ahead_refuseGsx h
  · rename_i heq
    have ht := (ahead_allocPages h).of_eq2 heq
    exact Ahead.put (ahead_takeOp ht)

theorem ahead_startGsxLoad {c : Cmd} {data : List Byte} (h : Ahead a s) : Ahead a (startGsxLoad c data s) := by
  unfold startGsxLoad
  refine Ahead.ite (ahead_refuseTxt h) ?_
  split
  · exact ahead_finishCmd h
  · split
    · exact ahead_refuseGsx h
    · exact Ahead.ite (ahead_refuseGsx h) (Ahead.ite (ahead_refuseGsx h) (ahead_loadGsx h))

theorem ahead_execGsxLoad {c : Cmd} {data : List Byte} (h : Ahead a s) : AheadOut a (execGsxLoad c data s) :=
  AheadOut.next (ahead_submit h (fun _ _ _ h => ahead_startGsxLoad h))

theorem ahead_joinTable {c : Cmd} {data : List Byte} (h : Ahead a s) : Ahead a (joinTable s c data) := ahead_setOrder h

theorem ahead_startGather {c : Cmd} {data : List Byte} (h : Ahead a s) : Ahead a (startGather c data s) := by
  unfold startGather
  split
  · exact ahead_refuseGsx h
  · refine Ahead.ite (ahead_refuseGsx h) ?_
    split
    · exact ahead_finishCmd h
    · split
      · exact ahead_refuseGsx h
      · exact ahead_joinTable h

theorem ahead_execGather {c : Cmd} {data : List Byte} (h : Ahead a s) : AheadOut a (execGather c data s) :=
  AheadOut.next (ahead_submit h (fun _ _ _ h => ahead_startGather h))

theorem ahead_startScatter {c : Cmd} {data : List Byte} (h : Ahead a s) : Ahead a (startScatter c data s) := by
  unfold startScatter
  split
  · exact ahead_refuseGsx h
  · refine Ahead.ite (ahead_refuseGsx h) ?_
    refine Ahead.ite (ahead_refuseGsx h) ?_
    split
    · exact ahead_finishCmd h
    · exact Ahead.ite (ahead_refuseGsx h) (Ahead.ite (ahead_refuseGsx h) (ahead_joinTable h))

theorem ahead_execScatter {c : Cmd} {data : List Byte} (h : Ahead a s) : AheadOut a (execScatter c data s) :=
  AheadOut.next (ahead_submit h (fun _ _ _ h => ahead_startScatter h))

theorem ahead_startGsxSeal {c : Cmd} {x1 : List Byte} (h : Ahead a s) : Ahead a (startGsxSeal c x1 s) := by
  unfold startGsxSeal
  split
  · exact ahead_refuseGsx h
  · exact Ahead.ite (ahead_refuseGsx h) (ahead_joinTable h)

theorem ahead_execGsxSeal {c : Cmd} (h : Ahead a s) : AheadOut a (execGsxSeal c s) :=
  AheadOut.next (ahead_submit h (fun _ _ _ h => ahead_startGsxSeal h))

theorem ahead_tabWrite {t : GsxTab} {r off : Nat} {bs : List Byte} (h : Ahead a s) : Ahead a (tabWrite s t r off bs) := by
  unfold tabWrite
  dsimp only
  split
  · exact h
  · exact ahead_writePage h

theorem ahead_scatterRow {t : GsxTab} {c : Cmd} {data : List Byte} {r : Nat} {is : List Nat} (h : Ahead a s) : Ahead a (scatterRow s t c data r is).2 :=
    by
  unfold scatterRow
  dsimp only
  split
  · exact ahead_tabWrite (ahead_tabWrite h)
  · exact h

theorem ahead_gsxCount {drop rows : Nat} {top : Nat × Nat} (h : Ahead a s) : Ahead a (gsxCount s drop rows top) :=
  Ahead.iteElse (Ahead.iteThen (ahead_cnt (ahead_cnt h)) fun h => ahead_wrF (ahead_wrF h)) fun h => ahead_raiseBit h

theorem ahead_sealTable {t : GsxTab} (h : Ahead a s) : Ahead a (sealTable s t) := Ahead.ite h (ahead_startOp h)

theorem ahead_startOrder {t : Nat} (h : Ahead a s) : Ahead a (startOrder s t) := by
  unfold startOrder
  split
  · exact h
  · dsimp only
    refine Ahead.ite (ahead_setOrder h) ?_
    split
    · exact h
    · exact Ahead.ite h (Ahead.ite (ahead_sealTable (ahead_setOrder h)) (ahead_setOrder h))

theorem ahead_gsxCatch (h : Ahead a s) : Ahead a (gsxCatch s) := Ahead.foldl h fun _ _ => ahead_startOrder

theorem ahead_gatherEnd {t : GsxTab} {r : GsxReq} (h : Ahead a s) : Ahead a (gatherEnd s t r) := ahead_issueWrite (ahead_gsxCount h)

theorem ahead_scatterEnd {t : GsxTab} {r : GsxReq} (h : Ahead a s) : Ahead a (scatterEnd s t r) :=
  ahead_stageDone (ahead_gsxCount (Ahead.put (Ahead.foldl (foldl_ahead2 h fun _ _ => ahead_scatterRow) fun _ _ => ahead_touch)))

theorem ahead_reqFinish {t : GsxTab} {r : GsxReq} (h : Ahead a s) : Ahead a (reqFinish s t r).2 :=
  Ahead.ite2 h (Ahead.ite2 h (Ahead.ite2 (ahead_gatherEnd h) (ahead_scatterEnd h)))

theorem ahead_gsxFinish (h : Ahead a s) : Ahead a (gsxFinish s) := by
  unfold gsxFinish
  refine Ahead.foldl h fun s e h => ?_
  dsimp only
  refine ahead_setOrder ?_
  refine foldl_ahead2 h fun s e h => ?_
  split
  · exact h
  · exact ahead_reqFinish h

theorem ahead_gatherAcked {c : Cmd} (h : Ahead a s) : Ahead a (gatherAcked s c) := ahead_setOrder h

theorem ahead_sealFinish {k : Nat} (h : Ahead a s) : Ahead a (sealFinish s k) := by
  unfold sealFinish
  split
  · exact h
  · dsimp only
    split
    · exact Ahead.ite (Ahead.ite (ahead_finishCmd (ahead_setOrder (Ahead.put h))) (Ahead.ite (Ahead.put h) (ahead_sealTable (Ahead.put h))))
          (Ahead.put h)
    · exact Ahead.put h

theorem ahead_installGsx {l : TabLoad} {t : GsxTab} (h : Ahead a s) : Ahead a (installGsx s l t) :=
  ahead_stageDone (ahead_sealImage (ahead_tableEvent (Ahead.put (ahead_updPtes (Ahead.put h)))))

theorem ahead_retireGsx {k : Nat} (h : Ahead a s) : Ahead a (retireGsx s k) := by
  unfold retireGsx
  split
  · exact Ahead.ite h (ahead_tableEvent (Ahead.put (ahead_freePages h)))
  · exact h

theorem ahead_installLoad {l : TabLoad} (h : Ahead a s) : Ahead a (installLoad s l) := by
  unfold installLoad
  refine Ahead.ite h ?_
  split
  · exact ahead_installTable (ahead_freeOp h)
  · exact Ahead.ite h (ahead_installGsx (ahead_freeOp h))

theorem ahead_tablesFinish (h : Ahead a s) : Ahead a (tablesFinish s) :=
  ahead_wrF (ahead_retireTables (Ahead.foldl (Ahead.foldl (Ahead.foldl h fun _ _ => ahead_sealFinish) fun _ _ => ahead_installLoad) fun _ _ =>
      ahead_retireGsx))

/-! ### Crews -/

theorem ahead_setCrewRec {k : Nat} {x : Crew} (h : Ahead a s) : Ahead a (setCrewRec s k x) := Ahead.put h

theorem ahead_updCrew {k : Nat} {f : Crew → Crew} (h : Ahead a s) : Ahead a (updCrew s k f) := Ahead.put h

theorem ahead_refuseCrew {c : Cmd} {code : Nat} (h : Ahead a s) : Ahead a (refuseCrew s c code) := ahead_refuseWith (ahead_recordErr h)

theorem ahead_startCrewCreate {c : Cmd} {x1 : List Byte} (h : Ahead a s) : Ahead a (startCrewCreate c x1 s) := by
  unfold startCrewCreate
  dsimp only
  split
  · exact ahead_refuseCrew h
  · exact Ahead.iteElse (ahead_setCrewRec h) fun h => ahead_stageDone h

theorem ahead_startCrewModify {c : Cmd} {x1 : List Byte} (h : Ahead a s) : Ahead a (startCrewModify c x1 s) := by
  unfold startCrewModify
  split
  · exact ahead_refuseCrew h
  · dsimp only
    split
    · exact ahead_refuseCrew h
    · exact ahead_stage h

theorem ahead_commitCrewModify {k : Nat} {c : Cmd} (h : Ahead a s) : Ahead a (commitCrewModify s k c) := by
  unfold commitCrewModify
  split
  · exact ahead_refuseCrew h
  · exact Ahead.iteElse (ahead_setCrewRec h) fun h => ahead_stageDone h

theorem ahead_startCrewDelete {c : Cmd} {x1 : List Byte} (h : Ahead a s) : Ahead a (startCrewDelete c x1 s) := by
  unfold startCrewDelete
  dsimp only
  split
  · exact ahead_refuseCrew h
  · exact Ahead.ite (ahead_refuseCrew h) (Ahead.ite (ahead_refuseCrew h) (ahead_stageDone (Ahead.put h)))

theorem ahead_execCrewCreate {c : Cmd} (h : Ahead a s) : AheadOut a (execCrewCreate c s) :=
  AheadOut.next (ahead_submit h (fun _ _ _ h => ahead_startCrewCreate h))

theorem ahead_execCrewModify {c : Cmd} (h : Ahead a s) : AheadOut a (execCrewModify c s) :=
  AheadOut.next (ahead_submit h (fun _ _ _ h => ahead_startCrewModify h))

theorem ahead_execCrewDelete {c : Cmd} (h : Ahead a s) : AheadOut a (execCrewDelete c s) :=
  AheadOut.next (ahead_submit h (fun _ _ _ h => ahead_startCrewDelete h))

theorem ahead_setPc {n : Nat} {x : PcCtx} (h : Ahead a s) : Ahead a (setPc s n x) := Ahead.put h

theorem ahead_takeImages {pass : Nat} {lanes : List Nat} (h : Ahead a s) : AheadOpt a (takeImages s pass lanes) := by
  unfold takeImages
  refine List.foldlRecOn lanes _ (AheadOpt.some h) fun o ho k _ => ?_
  exact ho.bind fun t ht => AheadOpt.map fun i => Ahead.put ht

theorem ahead_dropImages {pass : Nat} (h : Ahead a s) : Ahead a (dropImages s pass) := Ahead.put h

theorem ahead_seatOutgoing {n : Nat} (h : Ahead a s) : Ahead a (seatOutgoing s n) := Ahead.ite (ahead_setPc (ahead_exchangePc h)) h

theorem ahead_beginSwitch {lane : Nat} {inc : Ctx} {crew : Nat} {pcs whole : List Nat} {ns wholes : Nat} {image : Option Nat} {pre : Bool} (h : Ahead a s) :
    Ahead a (beginSwitch s lane inc crew pcs whole ns wholes image pre) :=
  Ahead.put (ahead_cnt (Ahead.ite h (Ahead.foldl h fun _ _ => ahead_seatOutgoing)))

theorem ahead_finishMoves {lane n : Nat} (h : Ahead a s) : Ahead a (finishMoves s lane n) := by
  unfold finishMoves
  refine Ahead.foldl h fun s e h => ?_
  split
  · exact Ahead.ite (ahead_switchBlade h) h
  · exact h

theorem ahead_seatIn {n : Nat} {c : Ctx} (h : Ahead a s) : Ahead a (seatIn s n c) := ahead_exchangePc (Ahead.ite h (ahead_restorePc h))

theorem ahead_legSwitch {n : Nat} {want : Ctx} {w : PcSwitch} (h : Ahead a s) : Ahead a (legSwitch s n want w) :=
  ahead_setPc (Ahead.ite (ahead_restorePc (Ahead.ite (ahead_exchangePc h) h)) (Ahead.ite (ahead_seatIn h) h))

theorem ahead_switchPc {lane : Nat} {w : Switch} {n : Nat} (h : Ahead a s) : Ahead a (switchPc s lane w n) :=
  Ahead.ite (ahead_setPc (ahead_finishMoves h)) (ahead_setPc (ahead_seatIn h))

theorem ahead_switchDone {lane : Nat} (h : Ahead a s) : Ahead a (switchDone s lane) := by
  unfold switchDone
  split
  · exact h
  · exact Ahead.ite h (Ahead.put (Ahead.foldl h fun _ _ => ahead_switchPc))

theorem ahead_execSwitchDone {lane : Nat} (h : Ahead a s) : AheadOut a (execSwitchDone lane s) :=
  AheadOut.ite AheadOut.fault (AheadOut.next (ahead_switchDone h))

theorem ahead_chargeCrew {k : Nat} {c : Nat × Nat × Nat} (h : Ahead a s) : Ahead a (chargeCrew s k c) := ahead_updCrew h

theorem ahead_crewSeated {k : Nat} (h : Ahead a s) : Ahead a (crewSeated s k) := by
  unfold crewSeated
  split
  · exact h
  · split
    · exact h
    · refine Ahead.ite h ?_
      dsimp only
      split
      · exact ahead_stageDone (ahead_setCrewRec (Ahead.foldl h fun _ _ h => Ahead.ite h (ahead_setPc (ahead_restorePc h))))
      · exact ahead_setCrewRec (Ahead.foldl h fun _ _ h => Ahead.ite h (ahead_setPc (ahead_restorePc h)))

theorem ahead_execCrewSeated {crew : Nat} (h : Ahead a s) : AheadOut a (execCrewSeated crew s) := AheadOut.next (ahead_crewSeated h)

theorem ahead_setPass {i : Nat} {p : Pass} (h : Ahead a s) : Ahead a (setPass s i p) := Ahead.put h

theorem ahead_updPass {i : Nat} {f : Pass → Pass} (h : Ahead a s) : Ahead a (updPass s i f) := Ahead.put h

theorem ahead_preempt {i : Nat} (h : Ahead a s) : Ahead a (preempt s i) := by
  unfold preempt
  split
  · exact h
  · dsimp only
    refine Ahead.ite h ?_
    split
    · exact h
    · rename_i heq
      have ht := (ahead_takeImages h).of_eq heq
      exact ahead_raiseBit (ahead_cnt (ahead_updCrew (ahead_updPass (ahead_chargeCrew (Ahead.foldl ht fun _ _ => ahead_beginSwitch)))))

theorem ahead_execPreempt {pass : Nat} (h : Ahead a s) : AheadOut a (execPreempt pass s) := AheadOut.next (ahead_preempt h)

theorem ahead_dropCarry {i : Nat} (h : Ahead a s) : Ahead a (dropCarry s i) := ahead_dropImages (Ahead.put h)

theorem ahead_restartPass {i : Nat} (h : Ahead a s) : Ahead a (restartPass s i) := by
  unfold restartPass
  split
  · exact h
  · exact Ahead.foldl (ahead_setPass (ahead_updCrew (ahead_dropCarry (Ahead.put h)))) fun _ _ => ahead_updSes

theorem ahead_switchFailed {lane : Nat} {w : Switch} (h : Ahead a s) : Ahead a (switchFailed s lane w) := by
  unfold switchFailed
  dsimp only
  split
  · exact Ahead.put (ahead_raiseBit (ahead_cnt h))
  · exact ahead_restartPass (Ahead.put (Ahead.foldl (ahead_raiseBit (ahead_cnt h)) fun _ _ => ahead_setPc))

theorem ahead_switchFinish (h : Ahead a s) : Ahead a (switchFinish s) :=
  Ahead.foldl h fun _ _ h => Ahead.ite (ahead_switchFailed h) (Ahead.put (ahead_updCrew h))

theorem ahead_splitEnd {k : Nat} (h : Ahead a s) : Ahead a (splitEnd s k) := by
  unfold splitEnd
  split
  · exact h
  · exact Ahead.ite h (Ahead.iteElse (ahead_setCrewRec h) fun h => ahead_raiseBit h)

theorem ahead_execSplitWindowEnd {crew : Nat} (h : Ahead a s) : AheadOut a (execSplitWindowEnd crew s) := AheadOut.next (ahead_splitEnd h)

theorem ahead_crewFigures (h : Ahead a s) : Ahead a (crewFigures s) := ahead_wrF (ahead_wrF (ahead_wrF (ahead_wrF h)))

/-! ### Passes and grants -/

theorem ahead_fetchExpiry {sid : Nat} (h : Ahead a s) : Ahead a (fetchExpiry s sid) := by
  unfold fetchExpiry
  split
  · exact h
  · split
    · exact h
    · exact Ahead.ite (ahead_setSes h) h

theorem ahead_execFetchWaitExpiry {sid : Nat} (h : Ahead a s) : AheadOut a (execFetchWaitExpiry sid s) := AheadOut.next (ahead_fetchExpiry h)

theorem ahead_newPass {p : Pass} (h : Ahead a s) : Ahead a (newPass s p) := ahead_setPass (Ahead.put h)

theorem ahead_bindVersion {sids : List Nat} {ver : Nat} (h : Ahead a s) : Ahead a (bindVersion s sids ver) := Ahead.foldl h fun _ _ => ahead_updSes

theorem ahead_rebindPasses {k : Nat} {p : Plan} (h : Ahead a s) : Ahead a (rebindPasses s k p) :=
  Ahead.foldl h fun _ _ h => Ahead.ite (ahead_setPass (ahead_bindVersion h)) (Ahead.put h)

theorem ahead_formPasses {k : Nat} {c : Crew} (h : Ahead a s) : Ahead a (formPasses s k c) := by
  unfold formPasses
  split
  · exact h
  · exact Ahead.ite h (Ahead.foldl (Ahead.foldl (ahead_rebindPasses h) fun _ _ h => ahead_newPass (ahead_bindVersion h)) fun _ _ h => ahead_newPass
        (ahead_bindVersion h))

theorem ahead_writeRow {wr : List Nat} {page off n : Nat} (h : Ahead a s) : Ahead a (writeRow s wr page off n) := by
  unfold writeRow
  split
  · exact h
  · exact Ahead.ite h (ahead_touchFrame (ahead_writeFrame (ahead_nextFree h)))

theorem ahead_writeRows {wr : List Nat} {p : Pass} {q : Plan} {leg : Nat} (h : Ahead a s) : Ahead a (writeRows s wr p q leg) := by
  unfold writeRows
  refine Ahead.foldl h fun s e h => ?_
  dsimp only
  refine Ahead.foldl h fun s e h => ?_
  refine Ahead.foldl h fun s e h => ?_
  split
  · exact ahead_writeRow h
  · exact h

theorem ahead_startLeg {k : Nat} {p : Pass} {q : Plan} (h : Ahead a s) : Ahead a (startLeg s k p q) := by
  unfold startLeg
  split
  · exact h
  · exact ahead_writeRows (ahead_updLeg h)

theorem ahead_grantLeg {i : Nat} {p : Pass} {q : Plan} {f : Fit} {x : GrantAt} (h : Ahead a s) : Ahead a (grantLeg s i p q f x) :=
  Ahead.foldl (ahead_startLeg (ahead_dirtyReserve (ahead_setPass
      (Ahead.foldl (Ahead.put (ahead_cnt (ahead_cnt (ahead_dropCarry (Ahead.foldl (ahead_chargeCrew h) fun _ _ => ahead_legSwitch))))) fun _ _ =>
      ahead_spend)))) fun _ _ => ahead_updSes

theorem ahead_spreadPages_updPassOf {sid : Nat} (h : Ahead a s) : Ahead a (spreadPages.updPassOf s sid) := Ahead.put h

theorem ahead_spreadPages {p : Pass} {xs : List (Nat × AttPage)} (h : Ahead a s) : Ahead a (spreadPages s p xs) := by
  unfold spreadPages
  refine Ahead.foldl (Ahead.ite h (ahead_takeOp h)) fun s e h => ?_
  split
  · exact h
  · split
    · exact h
    · exact Ahead.ite (ahead_spreadPages_updPassOf (ahead_refuseSes (ahead_setSes h))) (ahead_setSes h)

theorem ahead_startSwitches {p : Pass} {pcs : List (Nat × PcSwitch)} {want : Nat → Ctx} (h : Ahead a s) : Ahead a (startSwitches s p pcs want) :=
  Ahead.ite h (ahead_chargeCrew (Ahead.foldl h fun _ _ => ahead_beginSwitch))

theorem ahead_startCombine {i : Nat} {p : Pass} {q : Plan} (h : Ahead a s) : Ahead a (startCombine s i p q).2 :=
  Ahead.ite2 h (Ahead.ite2 (ahead_cnt h) (Ahead.ite2 (ahead_dirtyDefer h) (Ahead.foldl (ahead_dirtyReserve (ahead_setPass (ahead_chargeCrew
      (Ahead.put h)))) fun _ _ => ahead_updSes)))

theorem ahead_tryLeg {i : Nat} (h : Ahead a s) : Ahead a (tryLeg s i).2 := by
  unfold tryLeg
  split
  · exact h
  · split
    · exact h
    · split
      · exact h
      · exact Ahead.ite2 (ahead_startCombine h) (Ahead.ite2 h (Ahead.ite2 (ahead_cnt h) (Ahead.ite2 (ahead_spreadPages h) (Ahead.ite2 h
            (Ahead.ite2 (ahead_dirtyDefer h) (Ahead.ite2 (ahead_startSwitches h) (Ahead.ite2 h (ahead_grantLeg h))))))))

theorem ahead_deferLeg {i : Nat} (h : Ahead a s) : Ahead a (deferLeg s i) := by
  unfold deferLeg
  split
  · exact h
  · exact ahead_updCrew (Ahead.put h)

theorem ahead_grantGo {fuel : Nat} {is out : List Nat} (h : Ahead a s) : Ahead a (grantGo fuel is out s).2 := by
  induction fuel generalizing s is out with
  | zero => exact h
  | succ fuel ih =>
    rw [grantGo]
    split
    · exact h
    · exact ih (ahead_tryLeg h)

theorem ahead_refillCredit (h : Ahead a s) : Ahead a (refillCredit s) := Ahead.put h

theorem ahead_switchEnergy (h : Ahead a s) : Ahead a (switchEnergy s) := Ahead.foldl h fun _ _ h => ahead_spend (Ahead.put h)

theorem ahead_crewTimes (h : Ahead a s) : Ahead a (crewTimes s) := Ahead.put h

theorem ahead_grantPrep (h : Ahead a s) : Ahead a (grantPrep s) :=
  ahead_switchEnergy (ahead_refillCredit (ahead_crewTimes (Ahead.put (Ahead.foldl (Ahead.foldl h fun _ _ => ahead_formPasses) fun _ _ =>
      ahead_dropCarry))))

theorem ahead_grantLegs (h : Ahead a s) : Ahead a (grantLegs s) := ahead_wrF (ahead_wrF (Ahead.foldl (ahead_grantGo h) fun _ _ => ahead_deferLeg))

/-! ### The end of granted legs -/

theorem ahead_indexBuild {sid sp layer : Nat} (h : Ahead a s) : Ahead a (indexBuild s sid sp layer) := by
  unfold indexBuild
  split
  · exact h
  · split
    · refine Ahead.ite h ?_
      split
      · exact h
      · dsimp only
        split
        · exact h
        · rename_i heq
          have ht := (ahead_placeIndex h).of_eq heq
          exact Ahead.ite (ahead_dirtyDefer h) (ahead_cnt (ahead_putEntry (ahead_setSes ht)))
    · exact h

theorem ahead_indexRecovery (h : Ahead a s) : Ahead a (indexRecovery s) :=
  Ahead.put (Ahead.foldl h fun _ _ h => Ahead.foldl h fun _ _ => ahead_indexBuild)

theorem ahead_execIndexBuild {sid span layer : Nat} (h : Ahead a s) : AheadOut a (execIndexBuild sid span layer s) := AheadOut.next (ahead_indexBuild h)

theorem ahead_scoreLeg {l : GLeg} {p : Pass} {q : Plan} (h : Ahead a s) : Ahead a (scoreLeg s l p q) := by
  unfold scoreLeg
  dsimp only
  split
  · exact h
  · exact foldl_ahead2 h fun _ _ h => foldl_ahead2 h fun _ _ h => Ahead.ite2 h (Ahead.ite2 (ahead_cnt h) (ahead_updSes h))

theorem ahead_shortStep {sid : Nat} (h : Ahead a s) : Ahead a (shortStep s sid) := by
  unfold shortStep
  split
  · exact h
  · split
    · exact h
    · exact Ahead.iteElse (ahead_updSes h) fun k1 => Ahead.iteElse (ahead_cnt k1) fun h => ahead_raiseBit h

theorem ahead_countPass {p : Pass} {legs : Nat} (h : Ahead a s) : Ahead a (countPass s p legs) := ahead_updCrew h

theorem ahead_dropPass {i : Nat} (h : Ahead a s) : Ahead a (dropPass s i) := ahead_dropCarry (Ahead.put h)

theorem ahead_passDone {i : Nat} {p : Pass} {q : Plan} (h : Ahead a s) : Ahead a (passDone s i p q) := by
  unfold passDone
  dsimp only
  refine ahead_dropPass ?_
  refine ahead_countPass ?_
  refine Ahead.foldl h fun s e h => ?_
  split
  · exact h
  · exact Ahead.ite (ahead_updSes h) (ahead_stage (ahead_updSes (ahead_shortStep h)))

theorem ahead_keepCarry {i : Nat} {p : Pass} (h : Ahead a s) : Ahead a (keepCarry s i p) := ahead_setPass (Ahead.foldl h fun _ _ => ahead_setPc)

theorem ahead_legComplete {l : GLeg} (h : Ahead a s) : Ahead a (legComplete s l) := by
  unfold legComplete
  split
  · exact Ahead.ite (ahead_passDone (ahead_scoreLeg h)) (Ahead.ite (ahead_setPass (ahead_scoreLeg h)) (ahead_keepCarry (ahead_scoreLeg h)))
  · exact h

theorem ahead_legOverrun {l : GLeg} (h : Ahead a s) : Ahead a (legOverrun s l) := ahead_noteErr (ahead_raiseBit (ahead_cnt h))

theorem ahead_overrunNotes (h : Ahead a s) : Ahead a (overrunNotes s) := Ahead.foldl h fun _ _ h => Ahead.ite (ahead_legOverrun h) h

theorem ahead_legFinish {l : GLeg} (h : Ahead a s) : Ahead a (legFinish s l) := by
  unfold legFinish
  dsimp only
  refine Ahead.ite ?_ ?_
  · refine ahead_restartPass ?_
    split
    · exact ahead_recordErr h
    · exact h
  · refine ahead_legComplete ?_
    split
    · exact ahead_recordErr h
    · exact h

theorem ahead_clockFinish (h : Ahead a s) : Ahead a (clockFinish s) := Ahead.put h

theorem ahead_legsFinish (h : Ahead a s) : Ahead a (legsFinish s) :=
  Ahead.foldl (Ahead.put (ahead_clockFinish (Ahead.foldl h fun _ _ => ahead_legFinish))) fun _ _ => ahead_idleSlot

theorem ahead_indexFigures (h : Ahead a s) : Ahead a (indexFigures s) := ahead_wrF h

/-! ### Memory search -/

theorem ahead_updIdx {i : Nat} {f : MemIdx → MemIdx} (h : Ahead a s) : Ahead a (updIdx s i f) := Ahead.put h

theorem ahead_setWalk {w : Nat} {x : Walk} (h : Ahead a s) : Ahead a (setWalk s w x) := Ahead.put h

theorem ahead_refuseMem {c : Cmd} {code c0 : Nat} (h : Ahead a s) : Ahead a (refuseMem s c code c0) := ahead_refuseWith (ahead_recordErr h)

theorem ahead_startMemCreate {c : Cmd} {x1 : List Byte} (h : Ahead a s) : Ahead a (startMemCreate c x1 s) :=
  Ahead.ite (ahead_refuseMem h) (Ahead.ite (ahead_refuseMem h) (Ahead.ite (ahead_refuseMem h) (Ahead.ite (ahead_refuseMem h) (Ahead.put h))))

theorem ahead_execMemCreate {c : Cmd} (h : Ahead a s) : AheadOut a (execMemCreate c s) :=
  AheadOut.next (ahead_submit h (fun _ _ _ h => ahead_startMemCreate h))

theorem ahead_startMemDrop {c : Cmd} {x1 : List Byte} (h : Ahead a s) : Ahead a (startMemDrop c x1 s) := by
  unfold startMemDrop
  split
  · exact ahead_refuseMem h
  · exact ahead_updIdx h

theorem ahead_execMemDrop {c : Cmd} (h : Ahead a s) : AheadOut a (execMemDrop c s) :=
  AheadOut.next (ahead_submit h (fun _ _ _ h => ahead_startMemDrop h))

theorem ahead_addWalk {w : Walk} (h : Ahead a s) : Ahead a (addWalk s w) := Ahead.put h

theorem ahead_startMemQuery {c : Cmd} {data : List Byte} (h : Ahead a s) : Ahead a (startMemQuery c data s) := by
  unfold startMemQuery
  split
  · exact ahead_refuseMem h
  · split
    · exact Ahead.ite (ahead_refuseMem h) (ahead_finishCmd h)
    · exact Ahead.ite (ahead_refuseMem h) (Ahead.ite (ahead_refuseMem h) (Ahead.foldl h fun _ _ => ahead_addWalk))

theorem ahead_execMemQuery {c : Cmd} {data : List Byte} (h : Ahead a s) : AheadOut a (execMemQuery c data s) :=
  AheadOut.next (ahead_submit h (fun _ _ _ h => ahead_startMemQuery h))

theorem ahead_startMemInsert {c : Cmd} {data : List Byte} (h : Ahead a s) : Ahead a (startMemInsert c data s) := by
  unfold startMemInsert
  split
  · exact ahead_refuseMem h
  · split
    · exact Ahead.ite (ahead_refuseMem h) (ahead_finishCmd h)
    · exact Ahead.ite (ahead_refuseMem h) (Ahead.foldl (ahead_updIdx h) fun _ _ => ahead_addWalk)

theorem ahead_execMemInsert {c : Cmd} {data : List Byte} (h : Ahead a s) : AheadOut a (execMemInsert c data s) :=
  AheadOut.next (ahead_submit h (fun _ _ _ h => ahead_startMemInsert h))

theorem ahead_startMemDelete {c : Cmd} {data : List Byte} (h : Ahead a s) : Ahead a (startMemDelete c data s) := by
  unfold startMemDelete
  split
  · exact ahead_refuseMem h
  · split
    · exact Ahead.ite (ahead_refuseMem h) (ahead_finishCmd h)
    · exact ahead_updIdx h

theorem ahead_execMemDelete {c : Cmd} {data : List Byte} (h : Ahead a s) : AheadOut a (execMemDelete c data s) :=
  AheadOut.next (ahead_submit h (fun _ _ _ h => ahead_startMemDelete h))

theorem ahead_readEnds {x : Walk} {node : Nat} (h : Ahead a s) : Ahead a (readEnds s x node).2 := ahead_nextFree h

theorem ahead_issueSlot {w : Nat} {x : Walk} {node page slot : Nat} (h : Ahead a s) : Ahead a (issueSlot s w x node page slot) :=
  Ahead.ite (ahead_cntI (ahead_setWalk h)) (ahead_setWalk (ahead_addPath h))

theorem ahead_issueGo {m : MemVer} {w fuel : Nat} (h : Ahead a s) : Ahead a (issueGo m w fuel s) := by
  induction fuel generalizing s with
  | zero => exact h
  | succ fuel ih =>
    rw [issueGo]
    split
    · exact h
    · refine Ahead.ite h ?_
      split
      · exact h
      · split
        · exact h
        · exact Ahead.ite h (ih (ahead_issueSlot h))

theorem ahead_walkCheck {w : Nat} {m : MemVer} (h : Ahead a s) : Ahead a (walkCheck s w m) := by
  unfold walkCheck
  split
  · exact h
  · exact Ahead.ite (ahead_setWalk h) (ahead_issueGo h)

theorem ahead_walkTake {w node page : Nat} {r : Option NodeSlot} (h : Ahead a s) : Ahead a (walkTake s w node page r) := by
  unfold walkTake
  split
  · exact h
  · split
    · exact h
    · split
      · exact h
      · dsimp only
        split
        · exact ahead_walkCheck (ahead_setWalk (ahead_readEnds h))
        · exact ahead_walkCheck (ahead_cntI (ahead_setWalk (ahead_readEnds h)))

theorem ahead_sweepIssue {w : Nat} {m : MemVer} (h : Ahead a s) : Ahead a (sweepIssue s w m) := by
  unfold sweepIssue
  split
  · exact h
  · refine Ahead.foldl h fun s e h => ?_
    split
    · exact Ahead.ite h (ahead_issueSlot h)
    · exact ahead_setWalk h
    · exact h

theorem ahead_sweepTake {w node : Nat} {r : Option NodeSlot} (h : Ahead a s) : Ahead a (sweepTake s w node r) := by
  unfold sweepTake
  split
  · exact h
  · dsimp only
    split
    · exact ahead_sweepIssue (ahead_setWalk (ahead_readEnds h))
    · exact ahead_setWalk (ahead_readEnds h)

theorem ahead_slotLost {page code cls : Nat} (h : Ahead a s) : Ahead a (slotLost s page code cls) := ahead_noteErr (ahead_recordErr (ahead_cntI h))

theorem ahead_nodeRead {w node : Nat} {ok : Bool} (h : Ahead a s) : Ahead a (nodeRead s w node ok) := by
  unfold nodeRead
  split
  · exact h
  · exact Ahead.foldl (Ahead.ite (ahead_slotLost (ahead_cntI h)) (Ahead.ite (ahead_slotLost (ahead_cntI h)) (ahead_cntI h))) fun _ _ h => Ahead.ite
        (ahead_sweepTake h) (ahead_walkTake h)

theorem ahead_execNodeReadDone {walk slot : Nat} {ok : Bool} (h : Ahead a s) : AheadOut a (execNodeReadDone walk slot ok s) :=
  AheadOut.next (ahead_nodeRead h)

theorem ahead_burstsCatch (h : Ahead a s) : Ahead a (burstsCatch s) := by
  unfold burstsCatch
  refine Ahead.foldl h fun s e h => ?_
  split
  · exact h
  · dsimp only
    split
    · exact ahead_setWalk h
    · refine Ahead.ite ?_ ?_
      · split
        · exact ahead_sweepIssue (ahead_setWalk h)
        · exact ahead_setWalk h
      · refine Ahead.ite (ahead_setWalk h) ?_
        split
        · exact ahead_walkCheck (ahead_setWalk h)
        · exact ahead_setWalk h

theorem ahead_expireWalk {w : Nat} {x : Walk} (h : Ahead a s) : Ahead a (expireWalk s w x) := by
  unfold expireWalk
  dsimp only
  split
  · exact ahead_updIdx (ahead_raiseBit (ahead_recordErr (ahead_setWalk h)))
  · exact ahead_raiseBit (ahead_recordErr (ahead_setWalk h))

theorem ahead_walkAdmit {w : Nat} (h : Ahead a s) : Ahead a (walkAdmit s w) := by
  unfold walkAdmit
  split
  · exact h
  · split
    · exact h
    · refine Ahead.ite h ?_
      split
      · exact h
      · dsimp only
        split
        · exact ahead_expireWalk h
        · exact ahead_walkCheck (ahead_setWalk (ahead_cntI h))

theorem ahead_execWalkAdmit {walk : Nat} (h : Ahead a s) : AheadOut a (execWalkAdmit walk s) := AheadOut.next (ahead_walkAdmit h)

theorem ahead_takeFound {w : Nat} {x : Walk} (h : Ahead a s) : Ahead a (takeFound s w x) := by
  unfold takeFound
  split
  · exact Ahead.ite h (Ahead.put (Ahead.ite h (ahead_updIdx h)))
  · exact h

/-! ### Memory search at the finish -/

theorem ahead_installIdx {c : Cmd} (h : Ahead a s) : AheadOpt a (installIdx s c) := by
  rw [installIdx]
  cases chargeFitsH s (c.f2 0 12) (tombCount (c.f3 0 32)) with
  | some e => exact AheadOpt.none
  | none =>
    cases heq : allocPages s (tombCount (c.f3 0 32)) (c.f2 0 12) 5 0 true with
    | none => exact AheadOpt.none
    | some p =>
      have hu : Ahead a p.2 := (ahead_allocPages h).of_eq2 heq
      exact AheadOpt.some (ahead_stageDone (Ahead.put hu))

theorem ahead_createFinish {c : Cmd} {waited : Nat} (h : Ahead a s) : Ahead a (createFinish s c waited) := by
  unfold createFinish
  dsimp only
  split
  · rename_i heq
    have ht := (ahead_installIdx (Ahead.put h)).of_eq heq
    exact ht
  · exact Ahead.ite (Ahead.put h) (ahead_refuseMem (Ahead.put h))

theorem ahead_writeSlots {base : Nat} {xs : List NodeSlot} (h : Ahead a s) : Ahead a (writeSlots s base xs).2 :=
  foldl_ahead2 h fun _ _ => ahead_writePage

theorem ahead_batchWaits {i code : Nat} (h : Ahead a s) : Ahead a (batchWaits s i code) := ahead_updIdx h

theorem ahead_runAgain {i : Nat} {r : MemRec} (h : Ahead a s) : Ahead a (runAgain s i r) := by
  unfold runAgain
  split
  · exact h
  · exact ahead_addWalk h

theorem ahead_closeBatch {i : Nat} {x : MemIdx} (h : Ahead a s) : Ahead a (closeBatch s i x) := by
  unfold closeBatch
  dsimp only
  split
  · exact ahead_batchWaits h
  · exact ahead_batchWaits h
  · refine Ahead.ite h ?_
    split
    · exact ahead_batchWaits h
    · rename_i heq
      have ht := (ahead_allocPages h).of_eq2 heq
      exact Ahead.foldl (ahead_updIdx (Ahead.iteElse (ahead_writeSlots ht) fun h => ahead_startOp h)) fun _ _ => ahead_runAgain

theorem ahead_freeDropped {x : MemIdx} {dropped : List MemVer} (h : Ahead a s) : Ahead a (freeDropped s x dropped) := ahead_freePages h

theorem ahead_newMapPages {tenant : Nat} {pages : Map Nat} {nos : List Nat} (h : Ahead a s) : Ahead a (newMapPages s tenant pages nos).2 := by
  unfold newMapPages
  refine foldl_ahead2 h fun s e h => ?_
  split
  · rename_i heq
    have ht := (ahead_allocPages h).of_eq2 heq
    exact ht
  · exact h

theorem ahead_mapPageBytes {m : Map MapEnt} {pages : List (Nat × Nat)} (h : Ahead a s) : Ahead a (mapPageBytes s m pages) :=
  Ahead.foldl h fun _ _ h => Ahead.foldl h fun _ _ => ahead_writePage

theorem ahead_tombBytes {pages : List Nat} {old new : Map Nat} (h : Ahead a s) : Ahead a (tombBytes s pages old new) := by
  unfold tombBytes
  dsimp only
  refine Ahead.foldl h fun s e h => ?_
  split
  · exact h
  · exact ahead_writePage h

theorem ahead_expireWalks {i n : Nat} (h : Ahead a s) : Ahead a (expireWalks s i n) := Ahead.foldl h fun _ _ h => Ahead.ite (ahead_expireWalk h) h

theorem ahead_repaired {i tenant n : Nat} {e : SweepEnd} (h : Ahead a s) : Ahead a (repaired s i tenant n e) :=
  Ahead.foldl (ahead_raiseBit h) fun _ _ => ahead_finishCmd

theorem ahead_commitIdx {i : Nat} {x : MemIdx} (h : Ahead a s) : Ahead a (commitIdx s i x) := by
  unfold commitIdx
  dsimp only
  refine Ahead.foldl ?_ fun _ _ h => ahead_repaired h
  refine Ahead.foldl ?_ fun _ _ h => ahead_stageDone h
  refine ahead_expireWalks ?_
  refine ahead_freeDropped ?_
  refine Ahead.ite ?_ (Ahead.put (ahead_mapPageBytes (ahead_tombBytes (Ahead.iteElse (Ahead.foldl (ahead_updPtes (ahead_newMapPages h)) fun _ _ =>
      ahead_freeH1) fun h => Ahead.foldl h fun _ _ => ahead_touch))))
  split
  · exact Ahead.put (ahead_mapPageBytes (ahead_tombBytes (Ahead.iteElse (Ahead.foldl (ahead_updPtes (ahead_newMapPages h)) fun _ _ => ahead_freeH1)
        fun h => Ahead.foldl h fun _ _ => ahead_touch)))
  · exact Ahead.put (ahead_mapPageBytes (ahead_tombBytes (Ahead.iteElse (Ahead.foldl (ahead_updPtes (ahead_newMapPages h)) fun _ _ => ahead_freeH1)
        fun h => Ahead.foldl h fun _ _ => ahead_touch)))

theorem ahead_startSweep {i : Nat} {x : MemIdx} {cmds : List Cmd} (h : Ahead a s) : Ahead a (startSweep s i x cmds) :=
  ahead_sweepIssue (ahead_updIdx (ahead_addWalk h))

theorem ahead_startMemRepair {c : Cmd} {x1 : List Byte} (h : Ahead a s) : Ahead a (startMemRepair c x1 s) := by
  unfold startMemRepair
  split
  · exact ahead_refuseMem h
  · split
    · exact ahead_updIdx h
    · exact ahead_startSweep h

theorem ahead_execMemRepair {c : Cmd} (h : Ahead a s) : AheadOut a (execMemRepair c s) :=
  AheadOut.next (ahead_submit h (fun _ _ _ h => ahead_startMemRepair h))

theorem ahead_sweepFinish {i : Nat} (h : Ahead a s) : Ahead a (sweepFinish s i) := by
  unfold sweepFinish
  split
  · exact h
  · split
    · exact Ahead.ite (ahead_startSweep h) h
    · dsimp only
      split
      · refine Ahead.ite (ahead_sweepIssue h) ?_
        refine Ahead.ite ?_ (ahead_updIdx (ahead_sweepIssue h))
        split
        · exact ahead_freeDropped (Ahead.put (ahead_updIdx (ahead_sweepIssue h)))
        · exact Ahead.put (ahead_updIdx (ahead_sweepIssue h))
      · exact ahead_sweepIssue h

theorem ahead_queryDone {c : Cmd} (h : Ahead a s) : Ahead a (queryDone s c) := by
  unfold queryDone
  dsimp only
  refine Ahead.ite h ?_
  refine Ahead.foldl (Ahead.put h) fun s e h => ?_
  split
  · exact ahead_issueWrite h
  · exact h

theorem ahead_queriesFinish (h : Ahead a s) : Ahead a (queriesFinish s) := Ahead.foldl h fun _ _ => ahead_queryDone

theorem ahead_insertDone {i : Nat} {c : Cmd} (h : Ahead a s) : Ahead a (insertDone s i c) := by
  unfold insertDone
  split
  · exact h
  · dsimp only
    refine Ahead.ite h ?_
    refine ahead_issueWrite ?_
    refine Ahead.ite ?_ ?_
    · refine ahead_updIdx ?_
      refine foldl_ahead2 h fun s e h => ?_
      split
      · exact h
      · exact ahead_nextFree h
    · refine ahead_recordErr ?_
      refine ahead_updIdx ?_
      refine foldl_ahead2 h fun s e h => ?_
      split
      · exact h
      · exact ahead_nextFree h

theorem ahead_dropFinish {i : Nat} {x : MemIdx} {c : Cmd} (h : Ahead a s) : Ahead a (dropFinish s i x c) :=
  Ahead.ite h (ahead_finishCmd (Ahead.foldl (Ahead.put (ahead_freePages h)) fun _ _ => ahead_finishCmd))

theorem ahead_idxFinish {i : Nat} (h : Ahead a s) : Ahead a (idxFinish s i) := by
  unfold idxFinish
  split
  · exact h
  · split
    · exact ahead_dropFinish h
    · dsimp only
      split
      · exact ahead_sweepFinish h
      · split
        · split
          · exact Ahead.iteThen (ahead_sweepFinish h) fun h => ahead_commitIdx h
          · exact Ahead.ite (Ahead.iteThen (ahead_sweepFinish h) fun h => ahead_closeBatch h) (Ahead.iteThen (ahead_sweepFinish h) fun h =>
                ahead_commitIdx h)
        · refine Ahead.foldl ?_ fun _ _ h => ahead_insertDone h
          split
          · exact Ahead.iteThen (ahead_sweepFinish h) fun h => ahead_commitIdx h
          · exact Ahead.ite (Ahead.iteThen (ahead_sweepFinish h) fun h => ahead_closeBatch h) (Ahead.iteThen (ahead_sweepFinish h) fun h =>
                ahead_commitIdx h)

theorem ahead_memFinish (h : Ahead a s) : Ahead a (memFinish s) :=
  Ahead.foldl (ahead_queriesFinish (Ahead.foldl (Ahead.foldl h fun _ _ => ahead_createFinish) fun _ _ => ahead_takeFound)) fun _ _ => ahead_idxFinish

theorem ahead_memFigures (h : Ahead a s) : Ahead a (memFigures s) := ahead_wrF (ahead_wrF (ahead_wrF (Ahead.foldl h fun _ _ => ahead_wrI)))

/-! ### Course circulation -/

theorem ahead_refuseCourse {c : Cmd} {code c0 : Nat} (h : Ahead a s) : Ahead a (refuseCourse s c code c0) := ahead_refuseWith (ahead_recordErr h)

theorem ahead_openCourse {c : Cmd} (h : Ahead a s) : AheadOpt a (openCourse s c) := by
  unfold openCourse
  dsimp only
  split
  · exact AheadOpt.none
  · split
    · exact AheadOpt.some (ahead_stageDone (Ahead.put (ahead_addCharge (Ahead.foldl h fun _ _ => ahead_zeroFrame))))
    · exact AheadOpt.none

theorem ahead_startCourseOpen {c : Cmd} {x1 : List Byte} (h : Ahead a s) : Ahead a (startCourseOpen c x1 s) := by
  unfold startCourseOpen
  split
  · exact ahead_refuseCourse h
  · refine Ahead.ite (ahead_refuseCourse h) ?_
    split
    · exact ahead_refuseCourse h
    · exact AheadOpt.getD (ahead_openCourse h) (Ahead.put h)

theorem ahead_execCourseOpen {c : Cmd} (h : Ahead a s) : AheadOut a (execCourseOpen c s) :=
  AheadOut.next (ahead_submit h (fun _ _ _ h => ahead_startCourseOpen h))

theorem ahead_startCourseClose {c : Cmd} {x1 : List Byte} (h : Ahead a s) : Ahead a (startCourseClose c x1 s) := by
  unfold startCourseClose
  dsimp only
  split
  · exact ahead_refuseCourse h
  · refine Ahead.ite (ahead_refuseCourse h) ?_
    split
    · exact ahead_refuseCourse h
    · exact Ahead.ite (ahead_refuseCourse h) (Ahead.put h)

theorem ahead_execCourseClose {c : Cmd} (h : Ahead a s) : AheadOut a (execCourseClose c s) :=
  AheadOut.next (ahead_submit h (fun _ _ _ h => ahead_startCourseClose h))

theorem ahead_courseRetry {c : Cmd} {n : Nat} (h : Ahead a s) : Ahead a (courseRetry s c n) := by
  unfold courseRetry
  dsimp only
  split
  · rename_i heq
    have ht := (ahead_openCourse (Ahead.put h)).of_eq heq
    exact ht
  · exact Ahead.put h

theorem ahead_courseExpiry {crew : Nat} (h : Ahead a s) : Ahead a (courseExpiry s crew) := by
  unfold courseExpiry
  split
  · exact h
  · exact Ahead.ite (ahead_refuseCourse (Ahead.put h)) h

theorem ahead_gatherLead {k : Course} {sids : List Nat} (h : Ahead a s) : Ahead a (gatherLead s k sids) := by
  unfold gatherLead
  split
  · exact h
  · exact ahead_gsxCount h

theorem ahead_courseStep {crew : Nat} (h : Ahead a s) : Ahead a (courseStep s crew) := by
  unfold courseStep
  split
  · split
    · exact h
    · exact Ahead.ite h (Ahead.put (Ahead.foldl (ahead_gatherLead (ahead_takeOp h)) fun _ _ h => Ahead.ite h (ahead_newPass (ahead_bindVersion h))))
  · exact h

theorem ahead_execCourseStepStart {crew : Nat} (h : Ahead a s) : AheadOut a (execCourseStepStart crew s) := AheadOut.next (ahead_courseStep h)

theorem ahead_lapLegs {crew : Nat} {k : Course} (h : Ahead a s) : Ahead a (lapLegs s crew k).2 := by
  unfold lapLegs
  refine foldl_ahead2 h fun s e h => ?_
  split
  · exact Ahead.ite2 (ahead_tryLeg h) h
  · exact h

theorem ahead_courseFill1 {crew : Nat} (h : Ahead a s) : Ahead a (courseFill1 s crew) := by
  unfold courseFill1
  split
  · exact h
  · split
    · exact Ahead.iteElse (Ahead.put (Ahead.ite (ahead_addPath h) h)) fun h => ahead_updOp (Ahead.put h)
    · exact h

theorem ahead_courseFills (h : Ahead a s) : Ahead a (courseFills s) := Ahead.foldl h fun _ _ => ahead_courseFill1

theorem ahead_courseCatch1 {crew : Nat} (h : Ahead a s) : Ahead a (courseCatch1 s crew) := by
  unfold courseCatch1
  split
  · exact h
  · split
    · exact Ahead.put h
    · exact Ahead.put (ahead_lapLegs h)

theorem ahead_courseCatch (h : Ahead a s) : Ahead a (courseCatch s) :=
  Ahead.foldl (Ahead.foldl h fun _ _ => ahead_courseRetry) fun _ _ => ahead_courseCatch1

theorem ahead_advanceRing {k : Course} (h : Ahead a s) : Ahead a (advanceRing s k) :=
  Ahead.foldl (ahead_cnt h) fun _ _ h => Ahead.foldl h fun _ _ => ahead_fillFrame

theorem ahead_closeCourse {crew : Nat} {k : Course} (h : Ahead a s) : Ahead a (closeCourse s crew k) := by
  unfold closeCourse
  dsimp only
  split
  · exact ahead_finishCmd (ahead_dropCharges (Ahead.put (Ahead.foldl h fun _ _ => ahead_zeroFrame)))
  · exact ahead_dropCharges (Ahead.put (Ahead.foldl h fun _ _ => ahead_zeroFrame))

theorem ahead_courseFinish1 {crew : Nat} (h : Ahead a s) : Ahead a (courseFinish1 s crew) := by
  unfold courseFinish1
  split
  · exact h
  · split
    · exact Ahead.ite (ahead_closeCourse h) h
    · dsimp only
      refine Ahead.ite ?_ (Ahead.ite (Ahead.put (ahead_advanceRing h)) (Ahead.put h))
      refine Ahead.ite ?_ ?_
      · refine ahead_closeCourse ?_
        split
        · exact ahead_freeOp h
        · exact h
      · refine Ahead.put ?_
        split
        · exact ahead_freeOp h
        · exact h

theorem ahead_courseFinish (h : Ahead a s) : Ahead a (courseFinish s) := Ahead.foldl h fun _ _ => ahead_courseFinish1

/-! ### Taking checkpoints -/

theorem ahead_jobWrite {i : Nat} {j : CkpJob} {data : List Byte} {use : WriteFor} (h : Ahead a s) : AheadOpt a ((jobWrite s i j data use).map (·.2)) :=
    by
  unfold jobWrite
  split
  · split
    · exact AheadOpt.none
    · exact AheadOpt.some (ahead_updJob (ahead_issueWrite h))
  · dsimp only
    split
    · exact AheadOpt.none
    · exact AheadOpt.some (ahead_updJob (ahead_setTgt (ahead_issueWrite h)))

theorem ahead_jobManifest {i : Nat} {j : CkpJob} (h : Ahead a s) : Ahead a (jobManifest s i j) := by
  unfold jobManifest
  dsimp only
  split
  · exact ahead_updJob h
  · rename_i heq
    have ht := (ahead_jobWrite (ahead_updJob (ahead_nextFree h))).of_eq2 heq
    exact ahead_updJob ht

theorem ahead_jobPump {i fuel : Nat} (h : Ahead a s) : Ahead a (jobPump s i fuel) := by
  induction fuel generalizing s with
  | zero => exact h
  | succ fuel ih =>
    rw [jobPump]
    split
    · exact h
    · refine Ahead.ite h (Ahead.ite ?_ (Ahead.ite (ahead_jobManifest h) h))
      dsimp only
      split
      · exact ahead_updJob h
      · rename_i heq
        exact ih (ahead_updJob ((ahead_jobWrite h).of_eq2 heq))

theorem ahead_pump {i : Nat} (h : Ahead a s) : Ahead a (pump s i) := by
  unfold pump
  split
  · exact h
  · exact ahead_jobPump h

theorem ahead_ckpPage {op p : Nat} {cells : Map Byte} (h : Ahead a s) : Ahead a (ckpPage s op p cells) := by
  unfold ckpPage
  split
  · exact h
  · dsimp only
    split
    · exact h
    · exact ahead_pump (Ahead.iteThen (ahead_updJob h) fun h => ahead_cnt h)

theorem ahead_jobBinds {i : Nat} {j : CkpJob} (h : Ahead a s) : Ahead a (jobBinds s i j) :=
  Ahead.foldl (ahead_updJob h) fun _ _ h => Ahead.iteThen (ahead_updSes h) fun h => ahead_serve h

theorem ahead_jobStart {i : Nat} {j : CkpJob} (h : Ahead a s) : AheadOpt a (jobStart s i j) := by
  unfold jobStart
  dsimp only
  refine AheadOpt.ite AheadOpt.none ?_
  refine AheadOpt.some ?_
  refine ahead_pump ?_
  refine ahead_jobBinds ?_
  refine ahead_wantPages ?_
  refine ahead_updJob ?_
  refine Ahead.ite2 ?_ ?_
  · refine Ahead.put ?_
    split
    · exact h
    · exact ahead_takeOp h
  · refine ahead_setTgt ?_
    split
    · exact h
    · exact ahead_takeOp h

theorem ahead_ckpRefuse {c : Cmd} {code : Nat} (h : Ahead a s) : Ahead a (ckpRefuse s c code) :=
  Ahead.ite (ahead_refuseSes h) (ahead_finishCmd (ahead_recordErr h))

theorem ahead_remoteGiveUp {sid gen : Nat} (h : Ahead a s) : Ahead a (remoteGiveUp s sid gen) := by
  unfold remoteGiveUp
  split
  · exact h
  · exact ahead_updSes (Ahead.foldl h fun _ _ => ahead_waitDone)

theorem ahead_jobGone {i : Nat} {j : CkpJob} (h : Ahead a s) : Ahead a (jobGone s i j) := by
  unfold jobGone
  dsimp only
  refine Ahead.put ?_
  refine Ahead.foldl ?_ fun _ _ h => ahead_updSes h
  split
  · exact ahead_freeOp h
  · exact h

theorem ahead_jobFail {i code : Nat} (h : Ahead a s) : Ahead a (jobFail s i code) := by
  unfold jobFail
  split
  · exact h
  · dsimp only
    refine Ahead.ite ?_ ?_
    · refine Ahead.foldl ?_ fun _ _ h => ahead_remoteGiveUp h
      split
      · exact ahead_ckpRefuse (Ahead.iteThen (Ahead.iteThen (ahead_jobGone h) fun h => ahead_setTgt h) fun h => ahead_raiseBit h)
      · exact Ahead.iteThen (Ahead.iteThen (ahead_jobGone h) fun h => ahead_setTgt h) fun h => ahead_raiseBit h
    · split
      · exact ahead_ckpRefuse (Ahead.iteThen (Ahead.iteThen (ahead_jobGone h) fun h => ahead_setTgt h) fun h => ahead_raiseBit h)
      · exact Ahead.iteThen (Ahead.iteThen (ahead_jobGone h) fun h => ahead_setTgt h) fun h => ahead_raiseBit h

theorem ahead_jobNextGo {t fuel : Nat} (h : Ahead a s) : Ahead a (jobNextGo t fuel s) := by
  induction fuel generalizing s with
  | zero => exact h
  | succ fuel ih =>
    rw [jobNextGo]
    refine Ahead.ite h ?_
    split
    · exact h
    · split
      · rename_i heq
        exact (ahead_jobStart h).of_eq heq
      · exact ih (ahead_jobFail (ahead_opFull h))

theorem ahead_jobNext {t : Nat} (h : Ahead a s) : Ahead a (jobNext s t) := ahead_jobNextGo h

theorem ahead_jobComplete {i : Nat} (h : Ahead a s) : Ahead a (jobComplete s i) := by
  unfold jobComplete
  split
  · exact h
  · dsimp only
    refine ahead_jobNext ?_
    split
    · exact ahead_cnt (Ahead.iteElse (ahead_jobGone h) fun h => ahead_setTgt h)
    · refine Ahead.ite ?_ (ahead_stageDone (ahead_cnt (Ahead.iteElse (ahead_jobGone h) fun h => ahead_setTgt h)))
      split
      · exact ahead_stageDone (ahead_cnt (Ahead.iteElse (ahead_jobGone h) fun h => ahead_setTgt h))
      · exact Ahead.ite (ahead_stageDone (ahead_cnt (Ahead.iteElse (ahead_jobGone h) fun h => ahead_setTgt h))) (ahead_refuseSes
            (ahead_cnt (Ahead.iteElse (ahead_jobGone h) fun h => ahead_setTgt h)))
      · exact ahead_refuseSes (ahead_cnt (Ahead.iteElse (ahead_jobGone h) fun h => ahead_setTgt h))

theorem ahead_shardAck {i bytes : Nat} (h : Ahead a s) : Ahead a (shardAck s i bytes) := by
  unfold shardAck
  split
  · exact h
  · exact ahead_pump (ahead_updJob (Ahead.ite h (ahead_cnt h)))

theorem ahead_manifestAck {i bytes : Nat} (h : Ahead a s) : Ahead a (manifestAck s i bytes) := by
  unfold manifestAck
  split
  · exact h
  · exact Ahead.ite (ahead_jobComplete (ahead_updJob h)) (ahead_issueWrite (Ahead.put (ahead_cnt (ahead_updJob h))))

theorem ahead_anchorAck {i : Nat} (h : Ahead a s) : Ahead a (anchorAck s i) := ahead_jobComplete (ahead_cnt h)

theorem ahead_anchorRead {t : Nat} {data : List Byte} (h : Ahead a s) : Ahead a (anchorRead s t data) := ahead_jobNext (ahead_setTgt h)

theorem ahead_tgtTurn {t : Nat} {on : Bool} (h : Ahead a s) : Ahead a (tgtTurn s t on) :=
  Ahead.ite (ahead_issueRead (ahead_wrB (ahead_setTgt h))) (Ahead.foldl (ahead_wrB (ahead_setTgt h)) fun _ _ => ahead_jobFail)

theorem ahead_ckpRelease {t r : Nat} (h : Ahead a s) : Ahead a (ckpRelease s t r) := ahead_setTgt (ahead_wrB h)

theorem ahead_lazyReads (h : Ahead a s) : Ahead a (lazyReads s) := by
  unfold lazyReads
  dsimp only
  refine Ahead.foldl h fun s e h => ?_
  split
  · exact h
  · exact Ahead.ite (ahead_losePage h) (Ahead.ite h (ahead_issueRead h))

theorem ahead_lazyArrived {p : Nat} {data : List Byte} (h : Ahead a s) : Ahead a (lazyArrived s p data) := by
  unfold lazyArrived
  split
  · exact h
  · split
    · exact ahead_losePage h
    · exact Ahead.foldl h fun _ _ h => ahead_stage (ahead_setOp h)

theorem ahead_jobsBegin (h : Ahead a s) : Ahead a (jobsBegin s) :=
  Ahead.foldl h fun _ _ h => Ahead.ite h (Ahead.ite (AheadOpt.getD (ahead_jobStart h) h) (ahead_jobNext h))

theorem ahead_ckpCatch (h : Ahead a s) : Ahead a (ckpCatch s) := ahead_jobsBegin (Ahead.put h)

theorem ahead_remoteFinish (h : Ahead a s) : Ahead a (remoteFinish s) := by
  unfold remoteFinish
  dsimp only
  refine Ahead.put ?_
  refine Ahead.foldl h fun s e h => ?_
  split
  · exact Ahead.ite (ahead_markJournal (ahead_setSes h)) h
  · exact h

theorem ahead_remoteStart (h : Ahead a s) : Ahead a (remoteStart s) := Ahead.foldl (Ahead.put h) fun _ _ h => ahead_jobNext (ahead_addJob h)

theorem ahead_ckpFigures (h : Ahead a s) : Ahead a (ckpFigures s) := Ahead.foldl h fun _ _ h => ahead_wrB (ahead_wrB (ahead_wrB (ahead_wrB h)))

theorem ahead_ckpFinish (h : Ahead a s) : Ahead a (ckpFinish s) := by
  unfold ckpFinish
  dsimp only
  refine ahead_ckpFigures ?_
  refine Ahead.put ?_
  refine Ahead.foldl ?_ fun _ _ h => ahead_pump h
  refine ahead_jobsBegin ?_
  refine Ahead.foldl h fun s e h => ?_
  split
  · exact ahead_tgtTurn h
  · exact h

theorem ahead_startCheckpoint {c : Cmd} {data : List Byte} (h : Ahead a s) : Ahead a (startCheckpoint c data s) := by
  unfold startCheckpoint
  dsimp only
  refine Ahead.ite (ahead_ckpRefuse h) ?_
  refine Ahead.ite (ahead_ckpRefuse h) ?_
  refine Ahead.ite (ahead_ckpRefuse h) ?_
  split
  · exact ahead_ckpRefuse h
  · exact ahead_jobNext (ahead_addJob h)

theorem ahead_execCheckpoint {c : Cmd} {data : List Byte} (h : Ahead a s) : AheadOut a (execCheckpoint c data s) :=
  AheadOut.next (ahead_submit h (fun _ _ _ h => ahead_startCheckpoint h))

theorem ahead_ckpExpiry {t : Nat} (h : Ahead a s) : Ahead a (ckpExpiry s t) := by
  unfold ckpExpiry
  split
  · exact h
  · exact Ahead.ite (ahead_jobNext (ahead_jobFail h)) h

theorem ahead_execCkpWaitExpiry {tenant : Nat} (h : Ahead a s) : AheadOut a (execCkpWaitExpiry tenant s) := AheadOut.next (ahead_ckpExpiry h)

theorem ahead_ckpQpError {q : Nat} (h : Ahead a s) : Ahead a (ckpQpError s q) := Ahead.foldl h fun _ _ => ahead_jobFail

/-! ### Restoring -/

theorem ahead_setRest {id : Nat} {r : RestoreJob} (h : Ahead a s) : Ahead a (setRest s id r) := Ahead.put h

theorem ahead_restRead {id : Nat} {r : RestoreJob} {off len : Nat} (h : Ahead a s) : Ahead a (restRead s id r off len) := ahead_issueRead h

theorem ahead_restCharge {r : RestoreJob} {x : RestSes} (h : Ahead a s) : AheadOpt a ((restCharge s r x).map (·.2)) := by
  unfold restCharge
  dsimp only
  split
  · refine AheadOpt.ite2 AheadOpt.none ?_
    split
    · exact AheadOpt.none
    · rename_i heq
      have hlist := (ahead_placePages h).of_eq heq
      refine AheadOpt.ite2 ?_ (AheadOpt.ite2 ?_ ?_)
      · rw [Option.map_map]
        exact ahead_allocPages hlist
      · exact AheadOpt.some (ahead_addCharge (Ahead.foldl hlist fun _ _ => ahead_setPte))
      · exact AheadOpt.some (Ahead.put (Ahead.foldl hlist fun _ _ => ahead_setPte))
  · exact AheadOpt.none

theorem ahead_restCharges {id : Nat} (h : Ahead a s) : Ahead a (restCharges s id) := by
  unfold restCharges
  split
  · exact h
  · refine Ahead.foldl h fun s e h => ?_
    split
    · exact h
    · split
      · exact h
      · refine Ahead.ite h ?_
        split
        · exact h
        · rename_i heq
          have ht := (ahead_restCharge h).of_eq2 heq
          exact ahead_setRest ht

theorem ahead_restReads {id fuel : Nat} (h : Ahead a s) : Ahead a (restReads s id fuel) := by
  induction fuel generalizing s with
  | zero => exact h
  | succ fuel ih =>
    rw [restReads]
    split
    · exact h
    · split
      · exact h
      · exact Ahead.ite h (ih (ahead_restRead (ahead_setRest h)))

theorem ahead_restPut {mode p owner : Nat} {cells : Map Byte} (h : Ahead a s) : Ahead a (restPut s mode p owner cells) := by
  unfold restPut
  split
  · exact h
  · exact Ahead.ite (ahead_updPte (ahead_fillFrame (ahead_cnt h))) (ahead_useCharge (ahead_putSealed (ahead_cnt h)))

theorem ahead_restBody {id off : Nat} {data : List Byte} (h : Ahead a s) : Ahead a (restBody s id off data) := by
  unfold restBody
  split
  · exact h
  · dsimp only
    split
    · exact ahead_setRest h
    · refine Ahead.foldl (ahead_setRest h) fun s e h => ?_
      split
      · exact h
      · split
        · exact h
        · refine Ahead.ite h ?_
          refine ahead_setRest ?_
          refine Ahead.foldl h fun s e h => ?_
          split
          · exact ahead_restPut h
          · exact ahead_updPte h

theorem ahead_restText {x : RestSes} {y : RestRec} (h : Ahead a s) : Ahead a (restText s x y).2.2.2 :=
  Ahead.ite222 h (Ahead.ite222 (ahead_setCtx h) (ahead_setRec (ahead_setCtx h)))

theorem ahead_restAppear {id i : Nat} (h : Ahead a s) : Ahead a (restAppear s id i) := by
  unfold restAppear
  split
  · exact h
  · rename_i r _
    split
    · exact h
    · split
      · exact ahead_setRest (ahead_dropCharges (ahead_setTgt (Ahead.iteThen (ahead_markJournal (ahead_tally (ahead_courseJoin (ahead_commitPages
          (ahead_writeList (Ahead.put (ahead_setSes (ahead_restText (ahead_newMeter (tenant := r.cmd.f2 0 12) h))))))))) fun h => ahead_raiseBit h)))
      · exact h

theorem ahead_restReport {id : Nat} {r : RestoreJob} (h : Ahead a s) : Ahead a (restReport s id r) := by
  unfold restReport
  dsimp only
  refine Ahead.ite ?_ ?_
  · refine ahead_stageDone ?_
    refine Ahead.ite ?_ ?_
    · refine ahead_raiseBit ?_
      refine Ahead.ite ?_ ?_
      · refine Ahead.put ?_
        split
        · exact ahead_freeOp h
        · exact h
      · refine ahead_recordErr ?_
        refine Ahead.put ?_
        split
        · exact ahead_freeOp h
        · exact h
    · refine Ahead.ite ?_ ?_
      · refine Ahead.put ?_
        split
        · exact ahead_freeOp h
        · exact h
      · refine ahead_recordErr ?_
        refine Ahead.put ?_
        split
        · exact ahead_freeOp h
        · exact h
  · refine ahead_issueWrite ?_
    refine Ahead.ite ?_ ?_
    · refine ahead_raiseBit ?_
      refine Ahead.ite ?_ ?_
      · refine Ahead.put ?_
        split
        · exact ahead_freeOp h
        · exact h
      · refine ahead_recordErr ?_
        refine Ahead.put ?_
        split
        · exact ahead_freeOp h
        · exact h
    · refine Ahead.ite ?_ ?_
      · refine Ahead.put ?_
        split
        · exact ahead_freeOp h
        · exact h
      · refine ahead_recordErr ?_
        refine Ahead.put ?_
        split
        · exact ahead_freeOp h
        · exact h

theorem ahead_restGo {id : Nat} (h : Ahead a s) : Ahead a (restGo s id) := by
  unfold restGo
  split
  · exact h
  · exact Ahead.ite (ahead_restReads (ahead_restCharges h)) h

theorem ahead_restFinish (h : Ahead a s) : Ahead a (restFinish s) := by
  unfold restFinish
  refine Ahead.foldl h fun s e h => ?_
  split
  · exact h
  · refine Ahead.ite h ?_
    dsimp only
    split
    · refine Ahead.ite ?_ ?_
      · refine ahead_restReport ?_
        split
        · refine Ahead.ite ?_ ?_
          · refine ahead_setRest ?_
            refine Ahead.foldl h fun s e h => ?_
            split
            · exact Ahead.ite (ahead_restAppear h) h
            · exact h
          · refine Ahead.foldl h fun s e h => ?_
            split
            · exact Ahead.ite (ahead_restAppear h) h
            · exact h
        · refine Ahead.foldl h fun s e h => ?_
          split
          · exact Ahead.ite (ahead_restAppear h) h
          · exact h
      · refine ahead_restGo ?_
        split
        · refine Ahead.ite ?_ ?_
          · refine ahead_setRest ?_
            refine Ahead.foldl h fun s e h => ?_
            split
            · exact Ahead.ite (ahead_restAppear h) h
            · exact h
          · refine Ahead.foldl h fun s e h => ?_
            split
            · exact Ahead.ite (ahead_restAppear h) h
            · exact h
        · refine Ahead.foldl h fun s e h => ?_
          split
          · exact Ahead.ite (ahead_restAppear h) h
          · exact h
    · split
      · refine Ahead.ite ?_ ?_
        · refine ahead_setRest ?_
          refine Ahead.foldl h fun s e h => ?_
          split
          · exact Ahead.ite (ahead_restAppear h) h
          · exact h
        · refine Ahead.foldl h fun s e h => ?_
          split
          · exact Ahead.ite (ahead_restAppear h) h
          · exact h
      · refine Ahead.foldl h fun s e h => ?_
        split
        · exact Ahead.ite (ahead_restAppear h) h
        · exact h

theorem ahead_restChosen {id : Nat} {r : RestoreJob} (h : Ahead a s) : Ahead a (restChosen s id r) := ahead_restGo (ahead_setRest h)

theorem ahead_restHeads {id : Nat} {r : RestoreJob} (h : Ahead a s) : Ahead a (restHeads s id r) := by
  unfold restHeads
  split
  · exact ahead_restChosen h
  · exact ahead_restRead (ahead_setRest h)

theorem ahead_restManifests {id : Nat} {r : RestoreJob} (h : Ahead a s) : Ahead a (restManifests s id r) := by
  unfold restManifests
  split
  · exact ahead_restHeads h
  · exact ahead_restRead (ahead_setRest h)

theorem ahead_restArrived {id off : Nat} {data : List Byte} (h : Ahead a s) : Ahead a (restArrived s id off data) := by
  unfold restArrived
  split
  · exact h
  · dsimp only
    split
    · exact ahead_restManifests h
    · exact Ahead.ite (ahead_restRead h) (ahead_restManifests h)
    · split
      · exact ahead_restChosen h
      · split
        · exact ahead_restHeads h
        · exact ahead_restHeads h
    · exact ahead_restGo (ahead_restBody h)

theorem ahead_startRestore {c : Cmd} {data : List Byte} (h : Ahead a s) : Ahead a (startRestore c data s) := by
  unfold startRestore
  dsimp only
  refine Ahead.ite (ahead_ckpRefuse h) ?_
  refine Ahead.ite (ahead_ckpRefuse h) ?_
  refine Ahead.ite (ahead_ckpRefuse h) ?_
  split
  · exact ahead_ckpRefuse h
  · exact Ahead.ite (ahead_finishCmd (ahead_opFull h)) (ahead_restRead (ahead_setRest (ahead_takeOp h)))

theorem ahead_execRestore {c : Cmd} {data : List Byte} (h : Ahead a s) : AheadOut a (execRestore c data s) :=
  AheadOut.next (ahead_submit h (fun _ _ _ h => ahead_startRestore h))

theorem ahead_restExpiry {id : Nat} (h : Ahead a s) : Ahead a (restExpiry s id) := by
  unfold restExpiry
  dsimp only
  split
  · exact ahead_restCharges h
  · exact Ahead.iteThen (ahead_restCharges h) fun h => ahead_setRest h

theorem ahead_restFail {id code : Nat} (h : Ahead a s) : Ahead a (restFail s id code) := by
  unfold restFail
  split
  · exact h
  · dsimp only
    refine ahead_ckpRefuse ?_
    refine Ahead.put ?_
    split
    · exact ahead_freeOp (Ahead.foldl h fun _ _ h => ahead_dropCharges (ahead_freePages (ahead_freePages h)))
    · exact Ahead.foldl h fun _ _ h => ahead_dropCharges (ahead_freePages (ahead_freePages h))

theorem ahead_restQpError {q : Nat} (h : Ahead a s) : Ahead a (restQpError s q) := Ahead.foldl h fun _ _ => ahead_restFail

/-! ### Power -/

theorem ahead_seeVolt {mv : Nat} (h : Ahead a s) : Ahead a (seeVolt s mv) := ahead_wrF (Ahead.put h)

theorem ahead_rangeEvent (h : Ahead a s) : Ahead a (rangeEvent s) := ahead_raiseBit h

theorem ahead_rangeLow {mv : Nat} (h : Ahead a s) : Ahead a (rangeLow s mv) :=
  Ahead.ite h (Ahead.iteElse (ahead_seeVolt h) fun h => ahead_rangeEvent (Ahead.put h))

theorem ahead_execInputRangeLow {mv : Nat} (h : Ahead a s) : AheadOut a (execInputRangeLow mv s) := AheadOut.next (ahead_rangeLow h)

theorem ahead_rangeHigh {mv : Nat} (h : Ahead a s) : Ahead a (rangeHigh s mv) :=
  Ahead.ite h (Ahead.iteElse (ahead_seeVolt h) fun h => ahead_rangeEvent (Ahead.put h))

theorem ahead_execInputRangeHigh {mv : Nat} (h : Ahead a s) : AheadOut a (execInputRangeHigh mv s) := AheadOut.next (ahead_rangeHigh h)

theorem ahead_inputInRange {mv : Nat} (h : Ahead a s) : Ahead a (inputInRange s mv) := Ahead.ite h (ahead_seeVolt (Ahead.put h))

theorem ahead_execInputInRange {mv : Nat} (h : Ahead a s) : AheadOut a (execInputInRange mv s) := AheadOut.next (ahead_inputInRange h)

theorem ahead_powerCatch {w : Nat} (h : Ahead a s) : Ahead a (powerCatch s w) :=
  Ahead.iteThen (ahead_wrF (ahead_wrF (Ahead.put h))) fun h => ahead_raiseBit h

theorem ahead_setHold {st pages : Nat} (h : Ahead a s) : Ahead a (setHold s st pages) :=
  Ahead.iteElse (Ahead.iteThen (ahead_wrF (ahead_wrF (Ahead.put h))) fun h => ahead_wrF h) fun h => ahead_raiseBit h

theorem ahead_askBudget {st pages : Nat} (h : Ahead a s) : Ahead a (askBudget s st pages) := Ahead.ite (ahead_setHold h) (Ahead.put h)

theorem ahead_startTest (h : Ahead a s) : Ahead a (startTest s) := Ahead.ite h (Ahead.iteElse (ahead_wrF (Ahead.put h)) fun h => ahead_askBudget h)

theorem ahead_execHoldupTest (h : Ahead a s) : AheadOut a (execHoldupTest s) := AheadOut.next (Ahead.ite (ahead_startTest h) h)

theorem ahead_execHoldupRetestTimer (h : Ahead a s) : AheadOut a (execHoldupRetestTimer s) := AheadOut.next (Ahead.ite h (Ahead.put h))

theorem ahead_installResult (h : Ahead a s) : Ahead a (installResult s) := by
  unfold installResult
  split
  · exact h
  · exact ahead_askBudget (ahead_wrF (ahead_wrF (ahead_wrF (ahead_wrF (ahead_wrF (Ahead.put h))))))

theorem ahead_holdupResult {capUf esrUohm : Nat} (h : Ahead a s) : Ahead a (holdupResult s capUf esrUohm) :=
  Ahead.ite h (Ahead.ite (ahead_installResult (Ahead.put h)) (Ahead.put h))

theorem ahead_execHoldupTestResult {capUf esrUohm : Nat} (h : Ahead a s) : AheadOut a (execHoldupTestResult capUf esrUohm s) :=
  AheadOut.next (ahead_holdupResult h)

theorem ahead_powerFinish (h : Ahead a s) : Ahead a (powerFinish s) := by
  unfold powerFinish
  dsimp only
  split
  · exact Ahead.iteThen (ahead_installResult h) fun h => ahead_setHold h
  · exact ahead_installResult h

theorem ahead_execJournalTailWritten {bytes : Nat} (h : Ahead a s) : AheadOut a (execJournalTailWritten bytes s) := AheadOut.next (Ahead.put h)

theorem ahead_abandonTest (h : Ahead a s) : Ahead a (abandonTest s) := Ahead.ite h (ahead_wrF (ahead_wrF (Ahead.put h)))

theorem ahead_startWater {cause : Nat} (h : Ahead a s) : Ahead a (startWater s cause) :=
  Ahead.ite h (Ahead.foldl (Ahead.put (ahead_pushEvents (Ahead.put (ahead_abandonTest (ahead_stopLegs h))))) fun _ _ => ahead_overrides)

theorem ahead_askReset {cause : Nat} (h : Ahead a s) : Ahead a (askReset s cause) := Ahead.ite h (ahead_startWater (Ahead.ite h (Ahead.put h)))

theorem ahead_execPowerLoss {mv : Nat} (h : Ahead a s) : AheadOut a (execPowerLoss mv s) :=
  AheadOut.next (Ahead.ite h (ahead_startWater (ahead_seeVolt h)))

theorem ahead_execOverVoltage {mv : Nat} (h : Ahead a s) : AheadOut a (execOverVoltage mv s) :=
  AheadOut.next (Ahead.ite h (ahead_startWater (ahead_seeVolt h)))

theorem ahead_execPwrEnDeassert (h : Ahead a s) : AheadOut a (execPwrEnDeassert s) := AheadOut.next (ahead_startWater (Ahead.put h))

/-! ### Faults and Erg tests -/

theorem ahead_addRec {n : ErrNote} {outcome : Nat} (h : Ahead a s) : Ahead a (addRec s n outcome).2 := Ahead.put h

theorem ahead_updRecs {is : List Nat} {f : FltRec → FltRec} (h : Ahead a s) : Ahead a (updRecs s is f) := Ahead.put h

theorem ahead_noteHist {what key : Nat} (h : Ahead a s) : Ahead a (noteHist s what key) := Ahead.put h

theorem ahead_updPlanVer {model ver : Nat} {f : Plan → Plan} (h : Ahead a s) : Ahead a (updPlanVer s model ver f) := Ahead.put h

theorem ahead_dropBound {model ver : Nat} (h : Ahead a s) : Ahead a (dropBound s model ver) := by
  unfold dropBound
  dsimp only
  refine Ahead.foldl (Ahead.foldl h fun _ _ => ahead_dropPass) fun s e h => ?_
  split
  · exact ahead_refuseSes (ahead_freeHead h)
  · exact h

theorem ahead_blockPlan {model ver leg reason lane unit : Nat} (h : Ahead a s) : Ahead a (blockPlan s model ver leg reason lane unit) := by
  unfold blockPlan
  split
  · exact h
  · exact Ahead.ite h (ahead_raiseBit (ahead_noteNofit (ahead_dropBound (ahead_updPlanVer h))))

theorem ahead_blockFailing {unit : Nat} (h : Ahead a s) : Ahead a (blockFailing s unit) := by
  unfold blockFailing
  dsimp only
  refine Ahead.foldl (Ahead.ite (Ahead.put h) h) fun s e h => ?_
  refine Ahead.foldl h fun s e h => ?_
  refine Ahead.ite h ?_
  split
  · exact ahead_blockPlan h
  · exact h

theorem ahead_retarget {u : Nat} (h : Ahead a s) : Ahead a (retarget s u) :=
  Ahead.foldl h fun _ _ h => Ahead.ite h (ahead_setOp (Ahead.foldl h fun _ _ h => Ahead.put h))

theorem ahead_migrateOut {ps : List Nat} (h : Ahead a s) : Ahead a (migrateOut s ps) :=
  Ahead.foldl (Ahead.ite h (ahead_startOp h)) fun _ _ h => ahead_raiseBit (ahead_cnt (Ahead.ite h (ahead_startOp h)))

theorem ahead_clearSlot {t : Nat} (h : Ahead a s) : Ahead a (clearSlot s t) := by
  unfold clearSlot
  split
  · exact ahead_migrateOut h
  · exact h

theorem ahead_moveSys {g : Nat} (h : Ahead a s) : Ahead a (moveSys s g) := by
  unfold moveSys
  split
  · exact h
  · exact Ahead.ite (ahead_clearSlot (Ahead.put h)) (Ahead.ite h (ahead_clearSlot (ahead_takeOp0 h)))

theorem ahead_moveSealed {bad : State → Pte → Bool} (h : Ahead a s) : Ahead a (moveSealed s bad) := by
  unfold moveSealed
  refine Ahead.foldl h fun s e h => ?_
  dsimp only
  refine Ahead.ite ?_ h
  split
  · exact ahead_updPte (Ahead.put h)
  · exact h

theorem ahead_rebuildDie (h : Ahead a s) : Ahead a (rebuildDie s) := ahead_moveSealed h

theorem ahead_endWalks {k : Nat} (h : Ahead a s) : Ahead a (endWalks s k) := Ahead.put h

theorem ahead_fenceEffects {u : Nat} (h : Ahead a s) : Ahead a (fenceEffects s u) :=
  ahead_blockFailing (Ahead.iteThen (Ahead.iteThen (Ahead.foldl (ahead_migrateOut (ahead_retarget (Ahead.put h))) fun _ _ => ahead_moveSys) fun h =>
      ahead_rebuildDie h) fun h => ahead_endWalks h)

theorem ahead_putFence {u cls : Nat} (h : Ahead a s) : Ahead a (putFence s u cls) := by
  unfold putFence
  split
  · exact Ahead.put h
  · exact Ahead.put h

theorem ahead_fenceOne {u cls : Nat} (h : Ahead a s) : Ahead a (fenceOne s u cls) :=
  Ahead.iteThen (ahead_fenceEffects (ahead_raiseBit (ahead_putFence h))) fun h => ahead_askReset h

theorem ahead_makeRoom (h : Ahead a s) : Ahead a (makeRoom s) := by
  unfold makeRoom
  refine Ahead.ite h ?_
  split
  · exact h
  · exact Ahead.ite (Ahead.put h) (ahead_fenceOne (Ahead.put h))

theorem ahead_fenceGo {cls fuel u : Nat} (h : Ahead a s) : Ahead a (fenceGo cls fuel u s) := by
  induction fuel generalizing s u with
  | zero => exact h
  | succ fuel ih =>
    rw [fenceGo]
    refine Ahead.ite h ?_
    dsimp only
    split
    · exact ih (ahead_fenceOne (ahead_makeRoom h))
    · exact ahead_fenceOne (ahead_makeRoom h)

theorem ahead_fence {u cls : Nat} (h : Ahead a s) : Ahead a (fence s u cls) := ahead_fenceGo h

theorem ahead_unfence {u : Nat} (h : Ahead a s) : Ahead a (unfence s u) := Ahead.ite (ahead_coldStart (Ahead.put h)) (Ahead.put h)

theorem ahead_dropContext {pc : Nat} (h : Ahead a s) : Ahead a (dropContext s pc) := by
  unfold dropContext
  split
  · exact h
  · dsimp only
    split
    · exact ahead_restartPass (Ahead.put (ahead_setPc h))
    · exact ahead_setPc h

theorem ahead_ergCount (h : Ahead a s) : Ahead a (ergCount s) := Ahead.put h

theorem ahead_ergCatch (h : Ahead a s) : Ahead a (ergCatch s) := Ahead.put (Ahead.put h)

theorem ahead_addTest {t : ErgTest} (h : Ahead a s) : Ahead a (addTest s t) := by
  unfold addTest
  dsimp only
  split
  · exact ahead_dropContext (Ahead.put h)
  · exact ahead_dropContext (Ahead.put h)
  · exact Ahead.put h

theorem ahead_ergEvent {u res : Nat} (h : Ahead a s) : Ahead a (ergEvent s u res) := ahead_sendEvent h

theorem ahead_ergDone {t : ErgTest} {res : Nat} {lifted : Bool} (h : Ahead a s) : Ahead a (ergDone s t res lifted) :=
  Ahead.foldl h fun _ _ => ahead_stageDone

theorem ahead_lasting {t : ErgTest} {u erg : Nat} (h : Ahead a s) : Ahead a (lasting s t u erg) :=
  ahead_ergDone (ahead_ergEvent (ahead_fence (ahead_updRecs h)))

theorem ahead_testEnd {t : ErgTest} (h : Ahead a s) : Ahead a (testEnd s t) := by
  unfold testEnd
  split
  · exact Ahead.put h
  · exact Ahead.ite (ahead_ergDone (Ahead.iteElse (Ahead.iteThen (ahead_updRecs h) fun h => ahead_unfence h) fun h => ahead_ergEvent h))
        (Ahead.ite (Ahead.foldl (ahead_ergDone (Ahead.iteElse (Ahead.iteThen (ahead_updRecs h) fun h => ahead_unfence h) fun h => ahead_ergEvent h))
        fun _ _ h => Ahead.ite (ahead_blockPlan h) h) (Ahead.iteThen (ahead_noteHist (ahead_ergDone (Ahead.iteElse (Ahead.iteThen
        (ahead_updRecs h) fun h => ahead_unfence h) fun h => ahead_ergEvent h))) fun k1 => Ahead.iteThen (ahead_fence (ahead_updRecs k1)) fun h =>
        ahead_ergEvent h))
  · exact ahead_lasting h

theorem ahead_refuseErg {c : Cmd} {code : Nat} (h : Ahead a s) : Ahead a (refuseErg s c code) := ahead_finishCmd (ahead_recordErr h)

theorem ahead_startErg {c : Cmd} {x1 : List Byte} (h : Ahead a s) : Ahead a (startErg c x1 s) :=
  Ahead.ite (ahead_refuseErg h) (Ahead.ite (ahead_refuseErg h) (Ahead.ite (ahead_refuseErg h) (Ahead.ite (Ahead.put h) (ahead_addTest h))))

theorem ahead_execErg {c : Cmd} (h : Ahead a s) : AheadOut a (execErg c s) := AheadOut.next (ahead_submit h (fun _ _ _ h => ahead_startErg h))

theorem ahead_ergTestEnd {u : Nat} {pass : Bool} {row : Option Nat} (h : Ahead a s) : Ahead a (ergTestEnd s u pass row) :=
  Ahead.ite (Ahead.put h) (Ahead.ite h (Ahead.put (Ahead.ite (Ahead.iteThen (Ahead.ite (ahead_cnt h) (ahead_cnt (ahead_cnt h))) fun h => ahead_wrF h)
      h)))

theorem ahead_execErgTestEnd {unit : Nat} {pass : Bool} {row : Option Nat} (h : Ahead a s) : AheadOut a (execErgTestEnd unit pass row s) :=
  AheadOut.ite (AheadOut.next (ahead_ergTestEnd h)) AheadOut.fault

theorem ahead_loseFlt {p : Nat} (h : Ahead a s) : Ahead a (loseFlt s p) := ahead_raiseBit (ahead_losePage h)

theorem ahead_repairPage {p : Nat} (h : Ahead a s) : Ahead a (repairPage s p) := Ahead.ite h (ahead_startOp (Ahead.put h))

theorem ahead_repair {n : ErrNote} (h : Ahead a s) : Ahead a (repair s n).2 := by
  unfold repair
  split
  · exact h
  · split
    · exact h
    · refine Ahead.ite2 h ?_
      refine Ahead.ite2 h ?_
      refine Ahead.ite2 (ahead_repairPage h) ?_
      split
      · exact ahead_loseFlt h
      · exact Ahead.foldl (ahead_loseFlt h) fun _ _ => ahead_blockPlan

theorem ahead_suspect {n : ErrNote} {i : Nat} (h : Ahead a s) : Ahead a (suspect s n i) := by
  unfold suspect
  split
  · exact ahead_lasting (Ahead.put h)
  · exact ahead_addTest h

theorem ahead_noteFinish {n : ErrNote} (h : Ahead a s) : Ahead a (noteFinish s n) := by
  unfold noteFinish
  dsimp only
  refine Ahead.ite (ahead_addRec h) ?_
  split
  · exact Ahead.ite (ahead_fence (ahead_updRecs (Ahead.foldl (ahead_addRec h) fun _ _ => ahead_noteHist)))
        (ahead_cnt (ahead_updRecs (Ahead.foldl (ahead_addRec h) fun _ _ => ahead_noteHist)))
  · exact Ahead.ite (ahead_fence (ahead_updRecs (ahead_noteHist (ahead_addRec h)))) (ahead_suspect (ahead_updRecs (ahead_repair (ahead_noteHist
        (ahead_addRec h)))))
  · refine ahead_suspect ?_
    split
    · exact ahead_noteHist (ahead_addRec h)
    · exact ahead_addRec h
  · exact ahead_suspect (ahead_addRec h)

theorem ahead_dropDamaged (h : Ahead a s) : Ahead a (dropDamaged s) := by
  unfold dropDamaged
  refine Ahead.foldl h fun s e h => ?_
  dsimp only
  split
  · exact h
  · refine Ahead.ite h ?_
    split
    · exact ahead_refuseSes (ahead_freeHead h)
    · exact ahead_restartPass (ahead_updPass (ahead_refuseSes (ahead_freeHead h)))

theorem ahead_faultFinish (h : Ahead a s) : Ahead a (faultFinish s) :=
  Ahead.iteElse (Ahead.foldl (Ahead.put (Ahead.foldl (Ahead.put h) fun _ _ => ahead_noteFinish)) fun _ _ => ahead_testEnd) fun h => ahead_wrF h

theorem ahead_patrolScrub {flips : List (Nat × Nat × Byte)} (h : Ahead a s) : Ahead a (patrolScrub s flips) :=
  Ahead.ite h (Ahead.iteThen (Ahead.put (Ahead.foldl h fun _ _ h => Ahead.ite h (ahead_pullNotes h))) fun h => ahead_cnt h)

theorem ahead_execPatrolScrub {flips : List (Nat × Nat × Byte)} (h : Ahead a s) : AheadOut a (execPatrolScrub flips s) :=
  AheadOut.next (ahead_patrolScrub h)

theorem ahead_flashFail {f : Nat} {retryOk parityOk : Bool} (h : Ahead a s) : Ahead a (flashFail s f retryOk parityOk) := by
  unfold flashFail
  split
  · exact h
  · dsimp only
    split
    · exact ahead_noteErr (ahead_recordErr h)
    · exact Ahead.ite (ahead_noteErr (ahead_recordErr h)) (Ahead.ite (ahead_putSealed (ahead_noteErr (ahead_recordErr h)))
          (Ahead.ite (ahead_freeF1 (ahead_noteErr (ahead_recordErr h))) (Ahead.iteElse (ahead_noteErr (ahead_recordErr h)) fun h => ahead_loseFlt h)))

theorem ahead_execFlashReadFail {frame : Nat} {retryOk parityOk : Bool} (h : Ahead a s) : AheadOut a (execFlashReadFail frame retryOk parityOk s) :=
  AheadOut.ite AheadOut.fault (AheadOut.next (ahead_flashFail h))

/-! ### Security -/

theorem ahead_extendMeas {slot : Nat} {d : List Byte} (h : Ahead a s) : Ahead a (extendMeas s slot d) := Ahead.put h

theorem ahead_measureChange {words : List Nat} (h : Ahead a s) : Ahead a (measureChange s words) := ahead_extendMeas h

theorem ahead_measureInstalls {before : State} (h1 : Ahead a s) : Ahead a (measureInstalls before s) :=
  Ahead.foldl (Ahead.foldl h1 fun _ _ => ahead_extendMeas) fun _ _ => ahead_extendMeas

theorem ahead_rightsWrite {d off word : Nat} (h : Ahead a s) : Ahead a (rightsWrite s d off word).2 := Ahead.ite2 (Ahead.put h) h

theorem ahead_rightsApply {c : RightsChange} (h : Ahead a s) : Ahead a (rightsApply s c) :=
  Ahead.iteElse (ahead_measureChange (ahead_wrWord h)) fun k1 => Ahead.iteElse k1 fun h => Ahead.put h

theorem ahead_keyInstall {t gen : Nat} (h : Ahead a s) : Ahead a (keyInstall s t gen).2 := Ahead.ite2 h (Ahead.put h)

theorem ahead_keyWord {t w v : Nat} (h : Ahead a s) : Ahead a (keyWord s t w v) := Ahead.put h

theorem ahead_keyApply {t : Nat} {k : CkpKey} (h : Ahead a s) : Ahead a (keyApply s t k) := by
  unfold keyApply
  split
  · exact h
  · exact ahead_measureChange (Ahead.put h)

theorem ahead_allotMoves (h : Ahead a s) : Ahead a (allotMoves s) := Ahead.ite h (ahead_startOp h)

theorem ahead_allotApply {t : Nat} (h : Ahead a s) : Ahead a (allotApply s t).2 := Ahead.ite2 h (ahead_allotMoves (ahead_moveSealed (Ahead.put h)))

theorem ahead_allotFinish (h : Ahead a s) : Ahead a (allotFinish s) :=
  Ahead.ite h (Ahead.ite (ahead_allotMoves h) (Ahead.foldl (Ahead.put h) fun _ _ h => ahead_raiseBit (ahead_measureChange h)))

theorem ahead_refuseSec {c : Cmd} {code : Nat} (h : Ahead a s) : Ahead a (refuseSec s c code) := ahead_finishCmd (ahead_recordErr h)

theorem ahead_startRigUpdate {c : Cmd} {data : List Byte} (h : Ahead a s) : Ahead a (startRigUpdate c data s) := by
  unfold startRigUpdate
  refine Ahead.ite (ahead_refuseSec h) ?_
  split
  · exact ahead_finishCmd h
  · exact Ahead.ite (Ahead.ite (ahead_finishCmd (Ahead.put h)) (ahead_refuseSec h)) (Ahead.ite (ahead_finishCmd (Ahead.put h)) (ahead_refuseSec h))

theorem ahead_execRigUpdateRigging {c : Cmd} {data : List Byte} (h : Ahead a s) : AheadOut a (execRigUpdateRigging c data s) :=
  AheadOut.next (ahead_submit h (fun _ _ _ h => ahead_startRigUpdate h))

theorem ahead_execRigUpdateFirmware {c : Cmd} {data : List Byte} (h : Ahead a s) : AheadOut a (execRigUpdateFirmware c data s) :=
  AheadOut.next (ahead_submit h (fun _ _ _ h => ahead_startRigUpdate h))

theorem ahead_quoteNow {c : Cmd} (h : Ahead a s) : Ahead a (quoteNow s c) := ahead_issueWrite (ahead_nextFree h)

theorem ahead_startAttest {c : Cmd} {x1 : List Byte} (h : Ahead a s) : Ahead a (startAttest c x1 s) := by
  unfold startAttest
  refine Ahead.ite (ahead_refuseSec h) ?_
  split
  · exact ahead_finishCmd h
  · exact Ahead.ite (ahead_quoteNow h) (Ahead.put h)

theorem ahead_execAttest {c : Cmd} (h : Ahead a s) : AheadOut a (execAttest c s) :=
  AheadOut.next (ahead_submit h (fun _ _ _ h => ahead_startAttest h))

theorem ahead_secCatch (h : Ahead a s) : Ahead a (secCatch s) := Ahead.put h

theorem ahead_secFinish (h : Ahead a s) : Ahead a (secFinish s) :=
  ahead_allotFinish (Ahead.foldl (Ahead.iteElse (Ahead.foldl (Ahead.put h) fun _ _ => ahead_rightsApply) fun h => ahead_raiseBit h) fun _ _ =>
      ahead_keyApply)

theorem ahead_quotesFinish (h : Ahead a s) : Ahead a (quotesFinish s) := Ahead.foldl (Ahead.put h) fun _ _ => ahead_quoteNow

/-! ### Rows of session commands -/

theorem ahead_execOpenSes {c : Cmd} (h : Ahead a s) : AheadOut a (execOpenSes c s) :=
  AheadOut.next (ahead_submit h (fun _ _ _ h => ahead_startOpen h))

theorem ahead_execImportBegin {c : Cmd} {data : List Byte} (h : Ahead a s) : AheadOut a (execImportBegin c data s) :=
  AheadOut.next (ahead_submit h (fun _ _ _ h => ahead_startSes h))

theorem ahead_execImportCommit {c : Cmd} (h : Ahead a s) : AheadOut a (execImportCommit c s) :=
  AheadOut.next (ahead_submit h (fun _ _ _ h => ahead_startSes h))

theorem ahead_execImportAbort {c : Cmd} (h : Ahead a s) : AheadOut a (execImportAbort c s) :=
  AheadOut.next (ahead_submit h (fun _ _ _ h => ahead_startSes h))

theorem ahead_execAppend {c : Cmd} {data : List Byte} (h : Ahead a s) : AheadOut a (execAppend c data s) :=
  AheadOut.next (ahead_submit h (fun _ _ _ h => ahead_startSes h))

theorem ahead_execStep {c : Cmd} (h : Ahead a s) : AheadOut a (execStep c s) := AheadOut.next (ahead_submit h (fun _ _ _ h => ahead_startSes h))

theorem ahead_execPark {c : Cmd} (h : Ahead a s) : AheadOut a (execPark c s) := AheadOut.next (ahead_submit h (fun _ _ _ h => ahead_startSes h))

theorem ahead_execRevive {c : Cmd} (h : Ahead a s) : AheadOut a (execRevive c s) := AheadOut.next (ahead_submit h (fun _ _ _ h => ahead_startSes h))

theorem ahead_execFork {c : Cmd} (h : Ahead a s) : AheadOut a (execFork c s) := AheadOut.next (ahead_submit h (fun _ _ _ h => ahead_startSes h))

theorem ahead_execExportSes {c : Cmd} (h : Ahead a s) : AheadOut a (execExportSes c s) :=
  AheadOut.next (ahead_submit h (fun _ _ _ h => ahead_startSes h))

theorem ahead_execPin {c : Cmd} (h : Ahead a s) : AheadOut a (execPin c s) := AheadOut.next (ahead_submit h (fun _ _ _ h => ahead_startSes h))

theorem ahead_execRelease {c : Cmd} (h : Ahead a s) : AheadOut a (execRelease c s) := AheadOut.next (ahead_submit h (fun _ _ _ h => ahead_startSes h))

theorem ahead_execJoin {c : Cmd} (h : Ahead a s) : AheadOut a (execJoin c s) := AheadOut.next (ahead_submit h (fun _ _ _ h => ahead_startSes h))

theorem ahead_execMove {c : Cmd} (h : Ahead a s) : AheadOut a (execMove c s) := AheadOut.next (ahead_submit h (fun _ _ _ h => ahead_startMove h))

theorem ahead_execVocabLoad {c : Cmd} {data : List Byte} (h : Ahead a s) : AheadOut a (execVocabLoad c data s) :=
  AheadOut.next (ahead_submit h (fun _ _ _ h => ahead_startVocabLoad h))

theorem ahead_execGrmLoad {c : Cmd} {data : List Byte} (h : Ahead a s) : AheadOut a (execGrmLoad c data s) :=
  AheadOut.next (ahead_submit h (fun _ _ _ h => ahead_startGrmLoad h))

theorem ahead_execTableUnload {c : Cmd} (h : Ahead a s) : AheadOut a (execTableUnload c s) :=
  AheadOut.next (ahead_submit h (fun _ _ _ h => ahead_startTableUnload h))

theorem ahead_execStreamSession {c : Cmd} {data : List Byte} (h : Ahead a s) : AheadOut a (execStreamSession c data s) :=
  AheadOut.next (ahead_submit h (fun _ _ _ h => ahead_startSes h))

theorem ahead_execStreamAllocate {c : Cmd} (h : Ahead a s) : AheadOut a (execStreamAllocate c s) :=
  AheadOut.next (ahead_submit h (fun _ _ _ h => ahead_startStreamAllocate h))

theorem ahead_execStreamFree {c : Cmd} (h : Ahead a s) : AheadOut a (execStreamFree c s) :=
  AheadOut.next (ahead_submit h (fun _ _ _ h => ahead_startStreamFree h))

theorem ahead_execStreamConfigure {c : Cmd} {data : List Byte} (h : Ahead a s) : AheadOut a (execStreamConfigure c data s) :=
  AheadOut.next (ahead_submit h (fun _ _ _ h => ahead_startStreamConfigure h))

theorem ahead_execTokenize {c : Cmd} {data : List Byte} (h : Ahead a s) : AheadOut a (execTokenize c data s) :=
  AheadOut.next (ahead_submit h (fun _ _ _ h => ahead_startTokenize h))

theorem ahead_execDetokenize {c : Cmd} {data : List Byte} (h : Ahead a s) : AheadOut a (execDetokenize c data s) :=
  AheadOut.next (ahead_submit h (fun _ _ _ h => ahead_startDetokenize h))

theorem ahead_execStreamEngineTake {engine : Nat} (h : Ahead a s) : AheadOut a (execStreamEngineTake engine s) :=
  AheadOut.ite AheadOut.fault (AheadOut.next (ahead_engineTake h))

theorem ahead_maskBuild {sid idx : Nat} (h : Ahead a s) : Ahead a (maskBuild s sid idx) := by
  unfold maskBuild
  split
  · exact h
  · refine Ahead.ite (Ahead.ite (ahead_maskPut h) h) ?_
    split
    · exact ahead_maskPut h
    · exact h

theorem ahead_execMaskBuild {sid idx : Nat} (h : Ahead a s) : AheadOut a (execMaskBuild sid idx s) := AheadOut.next (ahead_maskBuild h)

theorem ahead_execQuotaWaitExpiry {who : Waiter} (h : Ahead a s) : AheadOut a (execQuotaWaitExpiry who s) := by
  unfold execQuotaWaitExpiry
  refine AheadOut.next ?_
  split
  · exact ahead_quotaExpiry h
  · exact ahead_openExpiry h
  · exact ahead_courseExpiry h
  · exact ahead_restExpiry h

/-! ### Device time -/

theorem ahead_lengthen {by_ : Int} (h : Ahead a s) : Ahead a (lengthen s by_) := Ahead.ite h (Ahead.put h)

theorem ahead_stepTime {by_ : Int} (h : Ahead a s) : Ahead a (stepTime s by_) :=
  Ahead.ite (Ahead.put (ahead_wrF h)) (Ahead.put (ahead_lengthen (ahead_wrF h)))

theorem ahead_timeAt {t : Nat} (h : Ahead a s) : Ahead a (timeAt s t) := Ahead.ite (Ahead.put h) h

theorem ahead_setLock {l : Nat} (h : Ahead a s) : Ahead a (setLock s l) := Ahead.ite (ahead_raiseBit (ahead_wrF h)) (ahead_wrF h)

theorem ahead_freeAdjust (h : Ahead a s) : Ahead a (freeAdjust s) := Ahead.put (ahead_nextFree h)

theorem ahead_servo {offset : Int} (h : Ahead a s) : Ahead a (servo s offset) :=
  Ahead.ite (ahead_stepTime (Ahead.put (ahead_setLock (Ahead.put (ahead_wrF h))))) (Ahead.ite (ahead_freeAdjust (ahead_setLock
      (Ahead.put (ahead_wrF h)))) (Ahead.ite (ahead_stepTime (ahead_setLock (Ahead.put (ahead_wrF h)))) (ahead_raiseBit
      (Ahead.put (ahead_setLock (Ahead.put (ahead_wrF h)))))))

theorem ahead_choosePort (h : Ahead a s) : Ahead a (choosePort s) := ahead_wrF h

theorem ahead_setSource {src : Nat} (h : Ahead a s) : Ahead a (setSource s src) :=
  Ahead.ite h (ahead_setLock (ahead_choosePort (ahead_wrF (Ahead.put h))))

theorem ahead_ptpMessage {i : Nat} {m : PtpMsg} (h : Ahead a s) : Ahead a (ptpMessage s i m) := by
  unfold ptpMessage
  refine Ahead.ite h ?_
  split
  · exact Ahead.ite (ahead_choosePort (Ahead.put h)) h
  · exact ahead_choosePort (Ahead.put h)
  · exact Ahead.ite (ahead_servo h) h

theorem ahead_execPtpMessage {iface : Nat} {m : PtpMsg} (h : Ahead a s) : AheadOut a (execPtpMessage iface m s) :=
  AheadOut.ite AheadOut.fault (AheadOut.next (ahead_ptpMessage h))

theorem ahead_ppsEdge {offset : Int} (h : Ahead a s) : Ahead a (ppsEdge s offset) := Ahead.ite h (Ahead.ite (ahead_servo (Ahead.put h)) (ahead_servo h))

theorem ahead_execPpsInEdge {offset : Int} (h : Ahead a s) : AheadOut a (execPpsInEdge offset s) := AheadOut.next (ahead_ppsEdge h)

theorem ahead_execTimeHoldover (h : Ahead a s) : AheadOut a (execTimeHoldover s) := AheadOut.next (Ahead.ite h (ahead_setLock (Ahead.put h)))

theorem ahead_execPpsOutPulse (h : Ahead a s) : AheadOut a (execPpsOutPulse s) := AheadOut.next (Ahead.ite (Ahead.put h) h)

/-! ### The Umpire -/

theorem ahead_tallyParked (h : Ahead a s) : Ahead a (tallyParked s) := Ahead.foldl h fun _ _ h => Ahead.ite h (Ahead.put (ahead_tally h))

theorem ahead_tallySend (h : Ahead a s) : Ahead a (tallySend s) := Ahead.put (Ahead.put (ahead_tallyParked h))

theorem ahead_umpEvent {kind : Nat} {words : Nat × Nat} (h : Ahead a s) : Ahead a (umpEvent s kind words) := Ahead.ite h (Ahead.put h)

theorem ahead_setTen {t : Nat} {x : UmpTen} (h : Ahead a s) : Ahead a (setTen s t x) := Ahead.put h

theorem ahead_closeReceipt {t : Nat} (h : Ahead a s) : Ahead a (closeReceipt s t) :=
  Ahead.ite h (Ahead.ite (ahead_raiseBit (Ahead.put h)) (ahead_setTen (Ahead.put h)))

theorem ahead_countRec {r : TallyRec} (h : Ahead a s) : Ahead a (countRec s r) := by
  unfold countRec
  dsimp only
  split
  · exact Ahead.ite (ahead_raiseBit (Ahead.put h)) (Ahead.put h)
  · exact Ahead.put h
  · exact Ahead.put h
  · exact Ahead.put h
  · exact h

theorem ahead_umpGap {first last : Nat} (h : Ahead a s) : Ahead a (umpGap s first last) :=
  Ahead.put (ahead_raiseBit (Ahead.foldl (ahead_umpEvent h) fun _ _ => ahead_setTen))

theorem ahead_nowServe (h : Ahead a s) : Ahead a (nowServe s) :=
  Ahead.foldl h fun _ _ h => Ahead.ite h (ahead_setTen (Ahead.foldl (ahead_closeReceipt h) fun _ _ => ahead_finishCmd))

theorem ahead_countFrame {f : List Byte} (h : Ahead a s) : Ahead a (countFrame s f) :=
  ahead_nowServe (Ahead.foldl (Ahead.put (Ahead.ite (ahead_umpGap h) h)) fun _ _ => ahead_countRec)

theorem ahead_tallyFrame {f : List Byte} {ok : Bool} (h : Ahead a s) : Ahead a (tallyFrame s f ok) :=
  Ahead.ite h (Ahead.ite (ahead_countFrame (Ahead.put h)) (ahead_umpGap (Ahead.put h)))

theorem ahead_execTallyFrame {f : List Byte} {crcOk : Bool} (h : Ahead a s) : AheadOut a (execTallyFrame f crcOk s) :=
  AheadOut.next (ahead_tallyFrame h)

theorem ahead_periodEnd {umpNs : Nat} (h : Ahead a s) : Ahead a (periodEnd s umpNs) := by
  unfold periodEnd
  refine Ahead.ite h ?_
  dsimp only
  refine Ahead.put ?_
  refine Ahead.foldl ?_ fun _ _ h => Ahead.ite (ahead_closeReceipt h) h
  split
  · exact Ahead.put (Ahead.ite (ahead_umpEvent (Ahead.put h)) (Ahead.put h))
  · exact Ahead.put (ahead_umpEvent (Ahead.ite (ahead_umpEvent (Ahead.put h)) (Ahead.put h)))

theorem ahead_execReceiptPeriodEnd {umpNs : Nat} (h : Ahead a s) : AheadOut a (execReceiptPeriodEnd umpNs s) := AheadOut.next (ahead_periodEnd h)

theorem ahead_signReceipt {t : Nat} (h : Ahead a s) : Ahead a (signReceipt s t) := by
  unfold signReceipt
  refine Ahead.ite h ?_
  split
  · exact h
  · exact Ahead.put (ahead_setTen (Ahead.put (ahead_nextFree h)))

theorem ahead_execReceiptSigned {tenant : Nat} (h : Ahead a s) : AheadOut a (execReceiptSigned tenant s) := AheadOut.next (ahead_signReceipt h)

theorem ahead_tamperEvent (h : Ahead a s) : Ahead a (tamperEvent s) := ahead_raiseBit (ahead_umpEvent (Ahead.put h))

theorem ahead_tamperOpen (h : Ahead a s) : Ahead a (tamperOpen s) := Ahead.ite (ahead_tamperEvent (Ahead.put h)) (Ahead.put h)

theorem ahead_execTamperOpen (h : Ahead a s) : AheadOut a (execTamperOpen s) := AheadOut.next (ahead_tamperOpen h)

theorem ahead_execSealRecord {number : Nat} {authorised : Bool} (h : Ahead a s) : AheadOut a (execSealRecord number authorised s) :=
  AheadOut.next (Ahead.ite h (ahead_umpEvent (Ahead.put h)))

theorem ahead_refuseUmp {c : Cmd} {code : Nat} (h : Ahead a s) : Ahead a (refuseUmp s c code) := ahead_finishCmd (ahead_recordErr h)

theorem ahead_umpWrite {c : Cmd} {data : List Byte} {count : Nat} (h : Ahead a s) : Ahead a (umpWrite s c data count) :=
  Ahead.ite (ahead_stageDone h) (ahead_issueWrite h)

theorem ahead_umpServe {c : Cmd} {data : List Byte} (h : Ahead a s) : Ahead a (umpServe s c data) := by
  unfold umpServe
  dsimp only
  split
  · exact ahead_setTen h
  · exact ahead_umpWrite h
  · exact ahead_finishCmd (Ahead.put h)
  · exact ahead_umpWrite h
  · exact ahead_finishCmd (ahead_umpEvent (Ahead.put h))
  · exact Ahead.ite (ahead_finishCmd (Ahead.put h)) (ahead_refuseUmp h)
  · exact ahead_umpWrite h

theorem ahead_startUmp {c : Cmd} {data : List Byte} (h : Ahead a s) : Ahead a (startUmp c data s) := by
  unfold startUmp
  split
  · exact Ahead.ite (ahead_finishCmd h) (ahead_refuseUmp h)
  · exact Ahead.ite (ahead_umpServe h) (Ahead.put h)

theorem ahead_execReceiptNow {c : Cmd} (h : Ahead a s) : AheadOut a (execReceiptNow c s) :=
  AheadOut.next (ahead_submit h (fun _ _ _ h => ahead_startUmp h))

theorem ahead_execLogRead {c : Cmd} (h : Ahead a s) : AheadOut a (execLogRead c s) := AheadOut.next (ahead_submit h (fun _ _ _ h => ahead_startUmp h))

theorem ahead_execUmpAck {c : Cmd} (h : Ahead a s) : AheadOut a (execUmpAck c s) := AheadOut.next (ahead_submit h (fun _ _ _ h => ahead_startUmp h))

theorem ahead_execEventRead {c : Cmd} (h : Ahead a s) : AheadOut a (execEventRead c s) :=
  AheadOut.next (ahead_submit h (fun _ _ _ h => ahead_startUmp h))

theorem ahead_execSetPeriod {c : Cmd} (h : Ahead a s) : AheadOut a (execSetPeriod c s) :=
  AheadOut.next (ahead_submit h (fun _ _ _ h => ahead_startUmp h))

theorem ahead_execFwUpdate {c : Cmd} {data : List Byte} (h : Ahead a s) : AheadOut a (execFwUpdate c data s) :=
  AheadOut.next (ahead_submit h (fun _ _ _ h => ahead_startUmp h))

theorem ahead_execCertRead {c : Cmd} (h : Ahead a s) : AheadOut a (execCertRead c s) :=
  AheadOut.next (ahead_submit h (fun _ _ _ h => ahead_startUmp h))

theorem ahead_umpSelfTest {ok : Bool} (h : Ahead a s) : Ahead a (umpSelfTest s ok) :=
  Ahead.ite h (Ahead.iteElse (Ahead.iteThen (ahead_umpEvent (Ahead.put h)) fun h => ahead_tamperEvent h) fun h => Ahead.foldl (Ahead.put h) fun _ _ =>
      ahead_umpServe)

theorem ahead_execUmpSelfTestEnd {ok : Bool} (h : Ahead a s) : AheadOut a (execUmpSelfTestEnd ok s) := AheadOut.next (ahead_umpSelfTest h)

theorem ahead_execTallyLinkUp (h : Ahead a s) : AheadOut a (execTallyLinkUp s) := AheadOut.next (Ahead.ite h (Ahead.put h))

theorem ahead_umpPowerLoss (h : Ahead a s) : Ahead a (umpPowerLoss s) :=
  Ahead.ite h (Ahead.foldl (ahead_umpEvent (Ahead.foldl h fun _ _ => ahead_tallyFrame)) fun _ _ => ahead_setTen)

theorem ahead_umpOff (h : Ahead a s) : Ahead a (umpOff s) := Ahead.put h

theorem ahead_umpPowerOn (h : Ahead a s) : Ahead a (umpPowerOn s) := Ahead.ite h (Ahead.put h)

theorem ahead_umpFigures (h : Ahead a s) : Ahead a (umpFigures s) :=
  ahead_wrF (ahead_wrF (ahead_wrF
      (ahead_wrF (ahead_wrF (ahead_wrF (ahead_wrF (ahead_wrF (ahead_wrF (ahead_wrF (ahead_wrF (ahead_wrF (ahead_wrF (ahead_wrF h)))))))))))))

/-! ### Read-only fields -/

theorem ahead_windowsFinish (h : Ahead a s) : Ahead a (windowsFinish s) := Ahead.put h

theorem ahead_fencePage {before : List FenceEnt} {b : Blk} {inst : Nat} (h : Ahead a s) : Ahead a (fencePage before s b inst) :=
  Ahead.ite h (ahead_raiseBit h)

theorem ahead_fenceFigures {before : List FenceEnt} (h : Ahead a s) : Ahead a (fenceFigures before s) := Ahead.foldl h fun _ _ => ahead_fencePage

/-! ### Access to control space -/

theorem ahead_regRead {dom page off : Nat} (h : Ahead a s) : Ahead a (regRead s dom page off).2 := by
  unfold regRead
  split
  · exact h
  · dsimp only
    split
    · refine Ahead.ite2 ?_ h
      split
      · exact h
      · exact h
    · refine Ahead.ite2 h ?_
      split
      · refine Ahead.ite ?_ h
        split
        · exact Ahead.put h
        · exact h
      · exact Ahead.iteElse (foldl_ahead2 h fun _ _ h => Ahead.ite2 (Ahead.put (ahead_nextFree h)) (ahead_nextFree h)) fun h => ahead_wrWord h

theorem ahead_storeReg {b : Blk} {inst bank off v : Nat} (h : Ahead a s) : Ahead a (storeReg s b inst bank off v) := ahead_wrWord h

theorem ahead_selWrite {b : Blk} {inst off v : Nat} (h : Ahead a s) : Ahead a (selWrite s b inst off v) :=
  Ahead.ite (Ahead.put (Ahead.put h)) (Ahead.put h)

theorem ahead_headerWrite {b : Blk} {inst off v : Nat} (h : Ahead a s) : Ahead a (headerWrite s b inst off v) := by
  unfold headerWrite
  dsimp only
  split
  · exact Ahead.ite h (Ahead.iteThen (Ahead.ite (ahead_wrWord h) h) fun h => ahead_lengthen h)
  · exact ahead_wrWord h
  · exact Ahead.foldl (ahead_wrWord h) fun _ _ => ahead_pushEvents
  · exact Ahead.ite h (Ahead.foldl h fun _ _ => ahead_raiseBit)
  · exact h

theorem ahead_delayReg {b : Blk} {inst off w : Nat} (h : Ahead a s) : Ahead a (delayReg s b inst off w) := Ahead.put h

theorem ahead_writeStkCfg {v : Nat} (h : Ahead a s) : AheadSum a (writeStkCfg s v) := by
  unfold writeStkCfg
  dsimp only
  refine AheadSum.ite (AheadSum.inr h) ?_
  refine AheadSum.ite AheadSum.inl ?_
  split
  · exact AheadSum.inl
  · exact AheadSum.inr (ahead_delayReg h)

theorem ahead_writeTimeCfg {v : Nat} (h : Ahead a s) : AheadSum a (writeTimeCfg s v) :=
  AheadSum.ite AheadSum.inl (AheadSum.inr (ahead_setSource (ahead_wrF (ahead_storeReg h))))

theorem ahead_writeGov {k v : Nat} (h : Ahead a s) : AheadSum a (writeGov s k v) := by
  unfold writeGov
  dsimp only
  refine AheadSum.ite AheadSum.inl ?_
  split
  · exact AheadSum.inl
  · exact AheadSum.inr (ahead_delayReg h)

theorem ahead_writePfxTen {t off v : Nat} (h : Ahead a s) : AheadSum a (writePfxTen s t off v) := by
  unfold writePfxTen
  dsimp only
  split
  · exact AheadSum.ite AheadSum.inl (AheadSum.inr (Ahead.iteThen (ahead_storeReg h) fun h => Ahead.put h))
  · exact AheadSum.ite AheadSum.inl (AheadSum.inr (Ahead.put h))
  · exact AheadSum.ite AheadSum.inl (AheadSum.inr (Ahead.put h))
  · exact AheadSum.inr h

theorem ahead_writeTgt {t off v : Nat} (h : Ahead a s) : AheadSum a (writeTgt s t off v) := by
  unfold writeTgt
  dsimp only
  split
  · refine AheadSum.ite ?_ (AheadSum.ite (AheadSum.inr (ahead_setTgt (Ahead.ite h (ahead_wrB (ahead_wrB h))))) (AheadSum.inr
        (Ahead.ite h (ahead_wrB (ahead_wrB h)))))
    split
    · exact AheadSum.inl
    · exact AheadSum.inr (ahead_setTgt (Ahead.ite h (ahead_wrB (ahead_wrB h))))
  · exact AheadSum.inr (Ahead.ite h (ahead_storeReg h))
  · exact AheadSum.inr (Ahead.ite h (ahead_storeReg h))
  · exact AheadSum.ite AheadSum.inl (AheadSum.inr (ahead_ckpRelease h))
  · exact AheadSum.inr h

theorem ahead_writeRights {dom off v : Nat} (h : Ahead a s) : AheadSum a (writeRights s dom off v) := by
  unfold writeRights
  refine AheadSum.ite AheadSum.inl ?_
  refine AheadSum.ite AheadSum.inl ?_
  split
  · rename_i heq
    have ht := (ahead_rightsWrite h).of_eq2 heq
    exact AheadSum.inl
  · rename_i heq
    have ht := (ahead_rightsWrite h).of_eq2 heq
    exact AheadSum.inr ht

theorem ahead_writeCkey {enc : Bool} {off v : Nat} (h : Ahead a s) : AheadSum a (writeCkey s enc off v) := by
  unfold writeCkey
  dsimp only
  refine AheadSum.ite AheadSum.inl ?_
  refine AheadSum.ite ?_ (AheadSum.inr (ahead_keyWord h))
  refine AheadSum.ite ?_ (AheadSum.inr h)
  split
  · rename_i heq
    have ht := (ahead_keyInstall h).of_eq2 heq
    exact AheadSum.inl
  · rename_i heq
    have ht := (ahead_keyInstall h).of_eq2 heq
    exact AheadSum.inr ht

theorem ahead_writeAllot {dom off v : Nat} (h : Ahead a s) : AheadSum a (writeAllot s dom off v) := by
  unfold writeAllot
  dsimp only
  refine AheadSum.ite AheadSum.inl ?_
  refine AheadSum.ite AheadSum.inl ?_
  refine AheadSum.ite ?_ (AheadSum.inr (ahead_storeReg h))
  refine AheadSum.ite ?_ (AheadSum.inr h)
  split
  · rename_i heq
    have ht := (ahead_allotApply h).of_eq2 heq
    exact AheadSum.inl
  · rename_i heq
    have ht := (ahead_allotApply h).of_eq2 heq
    exact AheadSum.inr ht

theorem ahead_writeQueue {k off v : Nat} (h : Ahead a s) : AheadSum a (writeQueue s k off v) :=
  AheadSum.ite AheadSum.inl (AheadSum.inr (Ahead.iteThen (ahead_wrWord h) fun h => Ahead.put h))

theorem ahead_writeGcl {i v : Nat} (h : Ahead a s) : AheadSum a (writeGcl s i v) := by
  unfold writeGcl
  dsimp only
  refine AheadSum.ite ?_ (AheadSum.inr (ahead_storeReg h))
  split
  · rename_i heq
    have ht := (ahead_gateCommit (ahead_storeReg h)).of_eq heq
    exact AheadSum.inr ht
  · exact AheadSum.inl

theorem ahead_linkDown {i : Nat} (h : Ahead a s) : Ahead a (linkDown s i) :=
  Ahead.ite h (ahead_raiseBit (ahead_updIface (ahead_wrPort (ahead_wrPort h))))

theorem ahead_writeBreakout {v : Nat} (h : Ahead a s) : Ahead a (writeBreakout s v) :=
  Ahead.foldl (ahead_storeReg h) fun _ _ h => ahead_linkDown (ahead_linkDown h)

theorem ahead_wakeNow (h : Ahead a s) : Ahead a (wakeNow s) := Ahead.ite (Ahead.put h) h

theorem ahead_writePort {inst off v : Nat} (h : Ahead a s) : AheadSum a (writePort s inst off v) :=
  AheadSum.ite (AheadSum.ite AheadSum.inl (AheadSum.inr (Ahead.iteElse (ahead_storeReg h) fun h => ahead_linkDown h))) (AheadSum.inr
      (ahead_storeReg h))

theorem ahead_writeLcCfg {v : Nat} (h : Ahead a s) : Ahead a (writeLcCfg s v) := Ahead.put h

theorem ahead_blkWrite {dom : Nat} {enc : Bool} {b : Blk} {inst off v : Nat} (h : Ahead a s) : AheadSum a (blkWrite s dom enc b inst off v) := by
  unfold blkWrite
  dsimp only
  refine AheadSum.ite (AheadSum.inr (ahead_selWrite h)) ?_
  refine AheadSum.ite (AheadSum.inr h) ?_
  refine AheadSum.ite AheadSum.inl ?_
  refine AheadSum.ite AheadSum.inl ?_
  split
  · exact AheadSum.ite (AheadSum.ite (AheadSum.inr (ahead_askReset h)) AheadSum.inl) (AheadSum.inr h)
  · exact AheadSum.ite (AheadSum.inr h) (AheadSum.ite AheadSum.inl (AheadSum.inr (ahead_storeReg h)))
  · exact AheadSum.ite (AheadSum.inr h) (AheadSum.ite AheadSum.inl (AheadSum.inr (Ahead.put h)))
  · exact ahead_writeStkCfg h
  · exact ahead_writeTimeCfg h
  · exact AheadSum.inr (Ahead.put (ahead_storeReg h))
  · exact ahead_writeGov h
  · exact ahead_writePfxTen h
  · exact ahead_writePfxTen h
  · exact ahead_writePfxTen h
  · exact AheadSum.ite AheadSum.inl (AheadSum.inr (ahead_storeReg h))
  · exact AheadSum.ite (ahead_writeTgt h) (AheadSum.inr (ahead_storeReg h))
  · exact AheadSum.ite (ahead_writeRights h) (AheadSum.ite (ahead_writeCkey h) (AheadSum.ite (ahead_writeAllot h) (AheadSum.inr h)))
  · exact AheadSum.ite (ahead_writeQueue h) (AheadSum.ite (ahead_writeGcl h) (AheadSum.inr (ahead_storeReg h)))
  · exact AheadSum.inr (ahead_writeBreakout h)
  · exact AheadSum.inr (Ahead.ite (ahead_wakeNow h) h)
  · exact ahead_writePort h
  · exact AheadSum.inr (ahead_writeLcCfg h)
  · exact AheadSum.inr (ahead_storeReg h)

theorem ahead_regWrite {dom : Nat} {enc : Bool} {page off v : Nat} (h : Ahead a s) : Ahead a (regWrite s dom enc page off v).2 := by
  unfold regWrite
  split
  · exact h
  · refine Ahead.ite2 h ?_
    refine Ahead.ite2 (ahead_headerWrite h) ?_
    refine Ahead.ite2 h ?_
    split
    · rename_i heq
      have ht := (ahead_blkWrite h).of_eq heq
      exact ht
    · refine Ahead.ite2 ?_ h
      split
      · exact ahead_markNofit h
      · exact h

theorem ahead_readRun {dom page off n : Nat} (h : Ahead a s) : Ahead a (readRun dom page off n s).2 := by
  induction n generalizing s off with
  | zero => exact h
  | succ n ih => exact ih (ahead_regRead h)

theorem ahead_writeRun {dom : Nat} {enc : Bool} {page off : Nat} {vs : List Nat} (h : Ahead a s) : Ahead a (writeRun dom enc page off vs s).2 := by
  induction vs generalizing s off with
  | nil => exact h
  | cons v vs ih =>
    rw [writeRun]
    split <;> rename_i heq
    · exact (ahead_regWrite h).of_eq2 heq
    · exact ih ((ahead_regWrite h).of_eq2 heq)

theorem ahead_regRequest {dom : Nat} {enc : Bool} {head : Nat} {data : List Nat} (h : Ahead a s) : Ahead a (regRequest s dom enc head data).2 := by
  unfold regRequest
  dsimp only
  split
  · exact h
  · refine Ahead.ite2 ?_ (ahead_readRun h)
    split
    · rename_i heq
      have ht := (ahead_writeRun h).of_eq2 heq
      exact ht
    · rename_i heq
      have ht := (ahead_writeRun h).of_eq2 heq
      exact ht

theorem ahead_regRequests {dom : Nat} {enc : Bool} {fuel : Nat} {ws : List Nat} (h : Ahead a s) : Ahead a (regRequests dom enc fuel ws s).2 := by
  induction fuel generalizing s ws with
  | zero => exact h
  | succ fuel ih =>
    cases ws with
    | nil => exact h
    | cons head rest =>
      rw [regRequests]
      exact Ahead.ite2 h (ih (ahead_regRequest h))

/-! ### Queue pairs -/

theorem ahead_refuseLink {c : Cmd} {code : Nat} (h : Ahead a s) : Ahead a (refuseLink s c code) := ahead_finishCmd (ahead_recordErr h)

theorem ahead_startQpCreate {c : Cmd} {x1 : List Byte} (h : Ahead a s) : Ahead a (startQpCreate c x1 s) :=
  Ahead.ite (ahead_refuseLink h) (Ahead.ite (ahead_refuseLink h) (ahead_stageDone (Ahead.put (ahead_nextFree h))))

theorem ahead_execQpCreate {c : Cmd} (h : Ahead a s) : AheadOut a (execQpCreate c s) :=
  AheadOut.next (ahead_submit h (fun _ _ _ h => ahead_startQpCreate h))

theorem ahead_qpClose {q : Nat} (h : Ahead a s) : Ahead a (qpClose s q) := by
  unfold qpClose
  split
  · exact h
  · exact Ahead.ite h (ahead_finishCmd (Ahead.put h))

theorem ahead_startQpDestroy {c : Cmd} {x1 : List Byte} (h : Ahead a s) : Ahead a (startQpDestroy c x1 s) := by
  unfold startQpDestroy
  split
  · exact ahead_refuseLink h
  · exact Ahead.ite (ahead_refuseLink h) (ahead_qpClose (ahead_updQp h))

theorem ahead_execQpDestroy {c : Cmd} (h : Ahead a s) : AheadOut a (execQpDestroy c s) :=
  AheadOut.next (ahead_submit h (fun _ _ _ h => ahead_startQpDestroy h))

theorem ahead_waitBind {c : Cmd} (h : Ahead a s) : Ahead a (waitBind s c) := Ahead.put h

theorem ahead_startFeather {c : Cmd} {x1 : List Byte} (h : Ahead a s) : Ahead a (startFeather c x1 s) :=
  Ahead.ite (ahead_finishCmd (ahead_recordErr h)) (ahead_waitBind h)

theorem ahead_execFeather {c : Cmd} (h : Ahead a s) : AheadOut a (execFeather c s) :=
  AheadOut.next (ahead_submit h (fun _ _ _ h => ahead_startFeather h))

theorem ahead_startWake {c : Cmd} {x1 : List Byte} (h : Ahead a s) : Ahead a (startWake c x1 s) := Ahead.ite (ahead_finishCmd h) (ahead_waitBind h)

theorem ahead_execWake {c : Cmd} (h : Ahead a s) : AheadOut a (execWake c s) := AheadOut.next (ahead_submit h (fun _ _ _ h => ahead_startWake h))

theorem ahead_startNop {c : Cmd} {x1 : List Byte} (h : Ahead a s) : Ahead a (startNop c x1 s) := Ahead.ite (ahead_finishCmd h) (ahead_waitBind h)

theorem ahead_execNop {c : Cmd} (h : Ahead a s) : AheadOut a (execNop c s) := AheadOut.next (ahead_submit h (fun _ _ _ h => ahead_startNop h))

theorem ahead_setFeather {f : FeatherSt} (h : Ahead a s) : Ahead a (setFeather s f) := Ahead.put h

theorem ahead_linkBind (h : Ahead a s) : Ahead a (linkBind s) := by
  unfold linkBind
  refine Ahead.foldl (Ahead.put h) fun s e h => ?_
  split
  · exact Ahead.ite (ahead_refuseLink h) (Ahead.put (ahead_setFeather h))
  · split
    · exact ahead_finishCmd h
    · exact Ahead.put (ahead_setFeather h)
    · exact ahead_refuseLink h
  · exact ahead_finishCmd h

theorem ahead_startByOpcode {c : Cmd} {data : List Byte} (h : Ahead a s) : Ahead a (startByOpcode c data s) := by
  unfold startByOpcode
  split
  · exact ahead_startOpen h
  · exact ahead_startMove h
  · exact ahead_startPlanLoad h
  · exact ahead_startPlanUnload h
  · exact Ahead.ite (ahead_startCourseOpen h) (ahead_startCourseClose h)
  · exact ahead_startVocabLoad h
  · exact ahead_startGrmLoad h
  · exact ahead_startTableUnload h
  · split
    · exact ahead_startSes h
    · exact ahead_startStreamAllocate h
    · exact ahead_startStreamFree h
    · exact ahead_startStreamConfigure h
  · exact ahead_startTokenize h
  · exact ahead_startDetokenize h
  · exact ahead_startMemCreate h
  · exact ahead_startMemDrop h
  · exact ahead_startMemQuery h
  · exact ahead_startMemInsert h
  · exact ahead_startMemDelete h
  · exact ahead_startMemRepair h
  · exact ahead_startGsxLoad h
  · exact ahead_startGather h
  · exact ahead_startScatter h
  · exact ahead_startGsxSeal h
  · split
    · exact ahead_startCrewCreate h
    · exact ahead_startCrewModify h
    · exact ahead_startCrewDelete h
  · exact ahead_startQpCreate h
  · exact ahead_startQpDestroy h
  · exact ahead_startFeather h
  · exact ahead_startWake h
  · exact ahead_startNop h
  · exact ahead_startCheckpoint h
  · exact ahead_startRestore h
  · exact ahead_startUmp h
  · exact ahead_startAttest h
  · exact ahead_startRigUpdate h
  · exact ahead_startErg h
  · exact ahead_startSes h

theorem ahead_beginCmd {c : Cmd} (h : Ahead a s) : Ahead a (beginCmd s c) := by
  unfold beginCmd
  split
  · exact ahead_startByOpcode h
  · exact Ahead.iteElse (ahead_startByOpcode h) fun k1 => Ahead.ite (Ahead.ite k1 (ahead_issueRead (ahead_joinWait h))) (ahead_issueRead h)

theorem ahead_handOn {c : Cmd} (h : Ahead a s) : Ahead a (handOn s c) := by
  unfold handOn
  dsimp only
  split
  · exact ahead_refuseHand (ahead_joinQueue h)
  · exact Ahead.ite (ahead_beginCmd (ahead_joinQueue h)) (Ahead.put (ahead_joinQueue h))

theorem ahead_serveFenced (h : Ahead a s) : Ahead a (serveFenced s) := by
  unfold serveFenced
  refine Ahead.foldl h fun s e h => ?_
  refine Ahead.ite ?_ h
  dsimp only
  split
  · exact ahead_startByOpcode (Ahead.put h)
  · exact ahead_beginCmd (Ahead.put h)

theorem ahead_commandData {c : Cmd} {data : List Byte} (h : Ahead a s) : Ahead a (commandData s c data) :=
  Ahead.ite (Ahead.iteThen (ahead_updSes h) fun h => ahead_serve h) (ahead_startByOpcode h)

theorem ahead_readResponse {id : Nat} {data : List Byte} (h : Ahead a s) : Ahead a (readResponse s id data) := by
  unfold readResponse
  split
  · exact h
  · refine Ahead.ite h ?_
    dsimp only
    refine ahead_qpClose ?_
    split
    · exact ahead_commandData (ahead_updQp (Ahead.put h))
    · exact ahead_anchorRead (ahead_updQp (Ahead.put h))
    · exact ahead_restArrived (ahead_updQp (Ahead.put h))
    · exact ahead_lazyArrived (ahead_updQp (Ahead.put h))

theorem ahead_execRdmaReadResponse {id : Nat} {data : List Byte} (h : Ahead a s) : AheadOut a (execRdmaReadResponse id data s) :=
  AheadOut.next (ahead_readResponse h)

theorem ahead_engineFree {e : Nat} (h : Ahead a s) : Ahead a (engineFree s e) := Ahead.put h

theorem ahead_writeAck {id : Nat} (h : Ahead a s) : Ahead a (writeAck s id) := by
  unfold writeAck
  split
  · exact h
  · split
    · exact h
    · dsimp only
      refine Ahead.ite h ?_
      refine ahead_qpClose ?_
      split
      · exact ahead_sendCpl (ahead_updQp (Ahead.put h))
      · exact ahead_sendCpl (ahead_engineFree (ahead_updQp (Ahead.put h)))
      · exact Ahead.iteThen (ahead_stageDone (ahead_updQp (Ahead.put h))) fun h => ahead_gatherAcked h
      · exact ahead_shardAck (ahead_updQp (Ahead.put h))
      · exact ahead_manifestAck (ahead_updQp (Ahead.put h))
      · exact ahead_anchorAck (ahead_updQp (Ahead.put h))
      · exact ahead_updQp (Ahead.put h)

theorem ahead_execRdmaWriteAck {id : Nat} (h : Ahead a s) : AheadOut a (execRdmaWriteAck id s) := AheadOut.next (ahead_writeAck h)

theorem ahead_readFails {r : RdmaRead} (h : Ahead a s) : Ahead a (readFails s r) := by
  unfold readFails
  split
  · exact Ahead.ite (Ahead.iteThen (ahead_updSes h) fun h => ahead_serve h) (ahead_refuseLink h)
  · exact h

theorem ahead_writeFails {w : RdmaWrite} (h : Ahead a s) : Ahead a (writeFails s w) := by
  unfold writeFails
  split
  · exact ahead_sendCpl (ahead_recordErr h)
  · exact ahead_sendCpl (ahead_recordErr (ahead_engineFree h))
  · exact Ahead.iteThen (ahead_refuseLink h) fun h => ahead_gatherAcked h
  · exact h

theorem ahead_qpSweep (h : Ahead a s) : Ahead a (qpSweep s) :=
  Ahead.ite h (Ahead.foldl (Ahead.foldl (Ahead.foldl (Ahead.put h) fun _ _ => ahead_readFails) fun _ _ => ahead_writeFails) fun _ _ h => ahead_qpClose
      (ahead_restQpError (ahead_ckpQpError h)))

theorem ahead_qpFail {q syn : Nat} (h : Ahead a s) : Ahead a (qpFail s q syn) := by
  unfold qpFail
  split
  · exact h
  · exact Ahead.ite h (ahead_qpClose (ahead_restQpError (ahead_ckpQpError (ahead_qpSweep (ahead_sendEvent (ahead_updQp h))))))

theorem ahead_execQpError {qp syn : Nat} (h : Ahead a s) : AheadOut a (execQpError qp syn s) := AheadOut.next (Ahead.ite (ahead_qpFail h) h)

theorem ahead_ackTimeout {q : Nat} {rnr : Bool} (h : Ahead a s) : Ahead a (ackTimeout s q rnr) := by
  unfold ackTimeout
  split
  · exact h
  · exact Ahead.ite h (Ahead.ite (ahead_qpFail h) (Ahead.ite (Ahead.put (ahead_updQp h)) (Ahead.put (ahead_updQp h))))

theorem ahead_execLocalAckTimeout {qp : Nat} {rnr : Bool} (h : Ahead a s) : AheadOut a (execLocalAckTimeout qp rnr s) :=
  AheadOut.next (ahead_ackTimeout h)

theorem ahead_sendQp {q : Nat} {fr : EgFrame} {n : Nat} (h : Ahead a s) : Ahead a (sendQp s q fr n) := by
  unfold sendQp
  split
  · exact h
  · exact ahead_enqueue h

theorem ahead_paceQp {q n : Nat} (h : Ahead a s) : Ahead a (paceQp s q n) := by
  unfold paceQp
  split
  · exact h
  · exact Ahead.ite h (ahead_updQp h)

theorem ahead_pumpQp {q : Nat} {x : Qp} (h : Ahead a s) : Ahead a (pumpQp s q x) := by
  unfold pumpQp
  refine Ahead.ite h ?_
  dsimp only
  split
  · exact Ahead.ite (ahead_paceQp (ahead_sendQp (Ahead.put h))) (ahead_paceQp (ahead_sendQp (Ahead.put h)))
  · exact ahead_paceQp (ahead_sendQp (Ahead.put h))
  · exact ahead_paceQp (ahead_sendQp (Ahead.put h))
  · exact h

theorem ahead_pumpRoce {i : Nat} (h : Ahead a s) : Ahead a (pumpRoce s i) := Ahead.ite h (Ahead.foldl h fun _ _ h => Ahead.ite (ahead_pumpQp h) h)

theorem ahead_execRoceInvalidRequest {qp : Nat} (h : Ahead a s) : AheadOut a (execRoceInvalidRequest qp s) :=
  AheadOut.next (Ahead.ite (ahead_sendQp h) h)

theorem ahead_execCnpRx {qp : Nat} (h : Ahead a s) : AheadOut a (execCnpRx qp s) := AheadOut.next (Ahead.ite (ahead_cnt (ahead_updQp h)) h)

theorem ahead_execRoceRateRaise {qp : Nat} (h : Ahead a s) : AheadOut a (execRoceRateRaise qp s) := AheadOut.next (ahead_updQp h)

theorem ahead_ecnMarked {q time : Nat} (h : Ahead a s) : Ahead a (ecnMarked s q time) := by
  unfold ecnMarked
  split
  · exact h
  · exact Ahead.ite h (ahead_sendQp (ahead_updQp h))

theorem ahead_execEcnMarkedRx {qp time : Nat} (h : Ahead a s) : AheadOut a (execEcnMarkedRx qp time s) := AheadOut.next (ahead_ecnMarked h)

theorem ahead_notify {d : Done} {bytes : List Byte} (h : Ahead a s) : Ahead a (notify s d bytes) := by
  unfold notify
  dsimp only
  split
  · exact Ahead.ite (ahead_sendQp h) h
  · exact h

theorem ahead_writeSas {fuel addr : Nat} {bs : List Byte} (h : Ahead a s) : Ahead a (writeSas s fuel addr bs) := by
  induction fuel generalizing s addr bs with
  | zero => exact h
  | succ fuel ih =>
    rw [writeSas]
    exact Ahead.ite h (ih (ahead_touch (ahead_writePage h)))

theorem ahead_importWrite {qp rkey addr : Nat} {data : List Byte} (h : Ahead a s) : Ahead a (importWrite s qp rkey addr data) := by
  unfold importWrite
  split
  · exact h
  · refine Ahead.ite h ?_
    split
    · exact ahead_sendQp (ahead_cnt h)
    · exact ahead_sendQp (ahead_updSes (ahead_cnt (ahead_writeSas h)))

theorem ahead_execImportRdmaWrite {qp rkey addr : Nat} {data : List Byte} (h : Ahead a s) : AheadOut a (execImportRdmaWrite qp rkey addr data s) :=
  AheadOut.next (ahead_importWrite h)

/-! ### BWP -/

theorem ahead_updAssoc {id : Nat} {f : Assoc → Assoc} (h : Ahead a s) : Ahead a (updAssoc s id f) := Ahead.put h

theorem ahead_queueFrame {a₀ : Assoc} {f : DevFrame} (h : Ahead a s) : Ahead a (queueFrame s a₀ f) := ahead_enqueue h

theorem ahead_sendUnsent {id fuel : Nat} (h : Ahead a s) : Ahead a (sendUnsent id fuel s) := by
  induction fuel generalizing s with
  | zero => exact h
  | succ fuel ih =>
    rw [sendUnsent]
    split
    · exact h
    · split
      · exact h
      · exact Ahead.ite h (ih (ahead_queueFrame (ahead_updAssoc h)))

theorem ahead_sendFrame {id ty : Nat} {payload : List Byte} (h : Ahead a s) : Ahead a (sendFrame s id ty payload) := ahead_sendUnsent (ahead_updAssoc h)

theorem ahead_sendAck {id : Nat} (h : Ahead a s) : Ahead a (sendAck s id) := by
  unfold sendAck
  split
  · exact h
  · exact ahead_queueFrame h

theorem ahead_resend {a₀ : Assoc} {f : DevFrame} (h : Ahead a s) : Ahead a (resend s a₀ f) := ahead_queueFrame (ahead_cnt h)

theorem ahead_purgeFrames {p : EgFrame → Bool} (h : Ahead a s) : Ahead a (purgeFrames s p) := by
  unfold purgeFrames
  refine Ahead.foldl h fun s e h => ?_
  dsimp only
  refine Ahead.ite h ?_
  split
  · exact Ahead.ite (ahead_setQueue h) (ahead_setQueue h)
  · exact ahead_setQueue h

theorem ahead_purgeAssoc {id : Nat} (h : Ahead a s) : Ahead a (purgeAssoc s id) := ahead_purgeFrames h

theorem ahead_dropAssoc {id : Nat} (h : Ahead a s) : Ahead a (dropAssoc s id) := by
  unfold dropAssoc
  split
  · exact h
  · exact Ahead.put (ahead_cnt (ahead_purgeAssoc h))

theorem ahead_lingerAssoc {id cause : Nat} (h : Ahead a s) : Ahead a (lingerAssoc s id cause) := by
  unfold lingerAssoc
  split
  · exact h
  · exact ahead_sendEvent (ahead_updAssoc (ahead_purgeAssoc h))

theorem ahead_closeDisabled (h : Ahead a s) : Ahead a (closeDisabled s) := Ahead.foldl h fun _ _ => ahead_dropAssoc

theorem ahead_takeAck {id ack sack : Nat} (h : Ahead a s) : Ahead a (takeAck s id ack sack) := by
  unfold takeAck
  dsimp only
  split
  · exact ahead_updAssoc h
  · exact ahead_sendUnsent (Ahead.foldl (ahead_updAssoc h) fun _ _ => ahead_resend)

theorem ahead_serveFrame {a₀ : Assoc} {f : BwpFrame} (h : Ahead a s) : Ahead a (serveFrame s a₀ f) :=
  Ahead.ite (Ahead.foldl h fun _ _ => ahead_handOn) (Ahead.ite (Ahead.foldl (ahead_regRequests h) fun _ _ => ahead_sendFrame)
      (Ahead.ite (ahead_dropAssoc h) h))

theorem ahead_serveHeld {id fuel : Nat} (h : Ahead a s) : Ahead a (serveHeld id fuel s) := by
  induction fuel generalizing s with
  | zero => exact h
  | succ fuel ih =>
    rw [serveHeld]
    split
    · exact h
    · split
      · exact h
      · exact ih (ahead_serveFrame (ahead_updAssoc h))

theorem ahead_seqFrame {a₀ : Assoc} {f : BwpFrame} (h : Ahead a s) : Ahead a (seqFrame s a₀ f) :=
  Ahead.ite (ahead_sendAck (ahead_cnt h)) (Ahead.ite h (Ahead.iteThen (ahead_serveHeld (ahead_updAssoc h)) fun h => ahead_sendAck h))

theorem ahead_dropPlain (h : Ahead a s) : Ahead a (dropPlain s) := Ahead.put (Ahead.ite (ahead_cnt h) (ahead_raiseBit (ahead_cnt h)))

theorem ahead_assocFrame {a₀ : Assoc} {f : BwpFrame} (h : Ahead a s) : Ahead a (assocFrame s a₀ f) := by
  unfold assocFrame
  split
  · exact ahead_cnt h
  · refine Ahead.ite (ahead_dropPlain h) ?_
    dsimp only
    refine Ahead.ite (Ahead.iteThen (ahead_takeAck h) fun h => ahead_sendAck h) ?_
    split
    · exact ahead_takeAck h
    · exact ahead_seqFrame (ahead_takeAck h)

theorem ahead_helloAnswer {iface : Nat} {f : BwpFrame} {d status id seq0 resumeAck : Nat} {nonce : List Byte} {enc : Bool} (h : Ahead a s) :
    Ahead a (helloAnswer s iface f d status id seq0 resumeAck nonce enc) :=
  ahead_enqueue h

theorem ahead_helloTake {iface : Nat} {f : BwpFrame} {d : Nat} {p : List Byte} (h : Ahead a s) : Ahead a (helloTake s iface f d p) := by
  unfold helloTake
  dsimp only
  refine Ahead.ite (ahead_helloAnswer (ahead_recordErr h)) ?_
  refine ahead_sendUnsent ?_
  refine ahead_helloAnswer ?_
  refine Ahead.put ?_
  split
  · exact Ahead.put (ahead_purgeAssoc (ahead_nextFree (ahead_nextFree (ahead_nextFree h))))
  · exact ahead_nextFree (ahead_nextFree (ahead_nextFree h))

theorem ahead_helloFrame {iface : Nat} {f : BwpFrame} (h : Ahead a s) : Ahead a (helloFrame s iface f) := by
  unfold helloFrame
  split
  · exact ahead_cnt h
  · exact Ahead.ite (ahead_dropPlain h) (ahead_helloTake h)

theorem ahead_frameRx {iface : Nat} {f : BwpFrame} (h : Ahead a s) : Ahead a (frameRx s iface f) := by
  unfold frameRx
  refine Ahead.ite h ?_
  refine Ahead.ite (ahead_helloFrame h) ?_
  split
  · exact h
  · exact Ahead.ite (ahead_assocFrame h) h

theorem ahead_pumpCpls (h : Ahead a s) : Ahead a (pumpCpls s) :=
  Ahead.foldl (ahead_cnt (Ahead.put h)) fun _ _ h => Ahead.foldl h fun _ _ => ahead_sendFrame

theorem ahead_pumpStreams (h : Ahead a s) : Ahead a (pumpStreams s) := by
  unfold pumpStreams
  dsimp only
  refine Ahead.foldl ?_ fun _ _ h => Ahead.foldl (ahead_updAssoc h) fun _ _ => ahead_sendFrame
  refine Ahead.foldl (Ahead.put h) fun s e h => ?_
  split
  · exact ahead_cnt h
  · exact ahead_updAssoc h

theorem ahead_pumpEvents (h : Ahead a s) : Ahead a (pumpEvents s) := by
  unfold pumpEvents
  refine Ahead.foldl h fun s e h => ?_
  split
  · exact h
  · exact h
  · split
    · exact h
    · exact Ahead.ite h (Ahead.foldl (Ahead.put h) fun _ _ => ahead_sendFrame)

theorem ahead_pumpReceipts (h : Ahead a s) : Ahead a (pumpReceipts s) := by
  unfold pumpReceipts
  dsimp only
  refine Ahead.foldl (Ahead.put h) fun s e h => ?_
  split
  · exact h
  · exact Ahead.foldl h fun _ _ => ahead_sendFrame

theorem ahead_linkPump (h : Ahead a s) : Ahead a (linkPump s) :=
  ahead_pumpReceipts (ahead_pumpEvents (ahead_pumpStreams (ahead_pumpCpls (ahead_qpSweep (ahead_serveFenced h)))))

theorem ahead_bwpRow {iface : Nat} {f : BwpFrame} (h : Ahead a s) : AheadOut a (bwpRow s iface f) :=
  AheadOut.ite AheadOut.fault (AheadOut.next (ahead_linkPump (ahead_frameRx h)))

theorem ahead_execBwpFrameRx {iface : Nat} {f : BwpFrame} (h : Ahead a s) : AheadOut a (execBwpFrameRx iface f s) := ahead_bwpRow h

theorem ahead_execHello {iface : Nat} {f : BwpFrame} (h : Ahead a s) : AheadOut a (execHello iface f s) := ahead_bwpRow h

theorem ahead_execClose {iface : Nat} {f : BwpFrame} (h : Ahead a s) : AheadOut a (execClose iface f s) := ahead_bwpRow h

theorem ahead_execBwpAckFrame {iface : Nat} {f : BwpFrame} (h : Ahead a s) : AheadOut a (execBwpAckFrame iface f s) := ahead_bwpRow h

theorem ahead_retransmit {id seq : Nat} (h : Ahead a s) : Ahead a (retransmit s id seq) := by
  unfold retransmit
  split
  · exact h
  · split
    · exact h
    · exact Ahead.ite h (Ahead.ite (ahead_lingerAssoc h) (ahead_resend (ahead_updAssoc h)))

theorem ahead_execBwpRetransmitTimer {assoc seq : Nat} (h : Ahead a s) : AheadOut a (execBwpRetransmitTimer assoc seq s) :=
  AheadOut.next (ahead_retransmit h)

theorem ahead_execBwpAckDelay {assoc : Nat} (h : Ahead a s) : AheadOut a (execBwpAckDelay assoc s) :=
  AheadOut.next (Ahead.ite (ahead_updAssoc (ahead_sendAck h)) h)

theorem ahead_execBwpIdleTimeout {assoc : Nat} (h : Ahead a s) : AheadOut a (execBwpIdleTimeout assoc s) := AheadOut.next (ahead_lingerAssoc h)

theorem ahead_execBwpLingerExpiry {assoc : Nat} (h : Ahead a s) : AheadOut a (execBwpLingerExpiry assoc s) :=
  AheadOut.next (Ahead.ite (ahead_dropAssoc h) h)

/-! ### The Ethernet ports -/

theorem ahead_ethServe {i : Nat} {f : EthFrame} (h : Ahead a s) : Ahead a (ethServe s i f) := by
  unfold ethServe
  split
  · exact Ahead.ite (ahead_sendControl h) h
  · exact Ahead.ite (ahead_sendControl h) h
  · exact Ahead.iteElse (ahead_cntPort h) fun h => ahead_updIface h
  · exact Ahead.iteThen (ahead_cntPort h) fun h => Ahead.foldl h fun _ _ => ahead_updIface
  · exact h

theorem ahead_ethRx {i : Nat} {f : EthFrame} (h : Ahead a s) : Ahead a (ethRx s i f) :=
  Ahead.ite h (Ahead.ite (ahead_cntPort h) (Ahead.ite (ahead_cntPort h) (Ahead.ite h (ahead_ethServe h))))

theorem ahead_execEthFrameRx {iface : Nat} {f : EthFrame} (h : Ahead a s) : AheadOut a (execEthFrameRx iface f s) :=
  AheadOut.ite AheadOut.fault (AheadOut.next (ahead_ethRx h))

theorem ahead_mkaRx {i : Nat} {m : MkaMsg} (h : Ahead a s) : Ahead a (mkaRx s i m) := by
  unfold mkaRx
  refine Ahead.ite h ?_
  dsimp only
  refine ahead_sendControl ?_
  refine Ahead.ite (Ahead.ite h (ahead_wrPort (Ahead.put (ahead_nextFree h)))) ?_
  split
  · exact ahead_wrPort (Ahead.put h)
  · exact h

theorem ahead_execMkaFrame {iface : Nat} {m : MkaMsg} (h : Ahead a s) : AheadOut a (execMkaFrame iface m s) :=
  AheadOut.ite AheadOut.fault (AheadOut.next (ahead_mkaRx h))

theorem ahead_featherReached (h : Ahead a s) : Ahead a (featherReached s) := by
  unfold featherReached
  dsimp only
  refine ahead_raiseBit ?_
  split
  · exact ahead_sendCpl (Ahead.put (Ahead.ite2 (ahead_setFeather h) (ahead_setFeather h)))
  · exact Ahead.ite2 (ahead_setFeather h) (ahead_setFeather h)

theorem ahead_retrainPorts {next : Nat → List Nat} (h : Ahead a s) : Ahead a (retrainPorts s next) :=
  Ahead.iteThen (Ahead.put (Ahead.foldl h fun _ _ => ahead_linkDown)) fun h => ahead_featherReached h

theorem ahead_featherFinish (h : Ahead a s) : Ahead a (featherFinish s) :=
  Ahead.ite (ahead_retrainPorts (Ahead.put h)) (Ahead.ite (ahead_retrainPorts (Ahead.put h)) h)

theorem ahead_linkTrained {i : Nat} (h : Ahead a s) : Ahead a (linkTrained s i) :=
  Ahead.ite h (Ahead.iteThen (ahead_raiseBit (ahead_updIface (ahead_wrPort (ahead_wrPort (Ahead.put h))))) fun k1 => Ahead.iteThen
      (Ahead.put k1) fun h => ahead_featherReached h)

theorem ahead_execPortLinkChange {iface : Nat} {up : Bool} (h : Ahead a s) : AheadOut a (execPortLinkChange iface up s) :=
  AheadOut.ite AheadOut.fault (AheadOut.next (Ahead.ite h (Ahead.ite (ahead_linkTrained h) (ahead_linkDown h))))

theorem ahead_spellFrame {x1 : EgFrame} (h : Ahead a s) : Ahead a (spellFrame s x1).1 := by
  unfold spellFrame
  split
  · split
    · exact h
    · exact ahead_updAssoc h
  · exact Ahead.put h
  · exact h

theorem ahead_waterPump (h : Ahead a s) : Ahead a (waterPump s) := ahead_pumpEvents (Ahead.foldl (ahead_purgeFrames h) fun _ _ => ahead_updAssoc)

theorem ahead_egressSelect {i time : Nat} (h : Ahead a s) : Ahead a (egressSelect s i time) := by
  unfold egressSelect
  dsimp only
  refine Ahead.ite (Ahead.ite (ahead_waterPump (ahead_timeAt h)) (ahead_linkPump (ahead_timeAt h))) ?_
  split
  · exact ahead_updIface (ahead_selectFrame (Ahead.iteElse (Ahead.ite (ahead_waterPump (ahead_timeAt h)) (ahead_linkPump (ahead_timeAt h))) fun h =>
        ahead_pumpRoce h))
  · exact ahead_updIface (ahead_spellFrame (ahead_selectFrame (Ahead.iteElse (Ahead.ite (ahead_waterPump (ahead_timeAt h)) (ahead_linkPump
        (ahead_timeAt h))) fun h => ahead_pumpRoce h)))

theorem ahead_execEgressSelect {iface time : Nat} (h : Ahead a s) : AheadOut a (execEgressSelect iface time s) :=
  AheadOut.ite AheadOut.fault (AheadOut.next (ahead_egressSelect h))

/-! ### The end of the Hold-water sequence -/

theorem ahead_sealPage {p : Nat} (h : Ahead a s) : Ahead a (sealPage s p) := by
  unfold sealPage
  split
  · exact ahead_putSealed h
  · exact h

theorem ahead_ownPage {tenant p : Nat} {taken : List Nat} (h : Ahead a s) : Ahead a (ownPage s tenant p taken).2 := by
  unfold ownPage
  split
  · exact h
  · dsimp only
    split
    · exact ahead_setPte h
    · exact ahead_setPte (Ahead.put h)

theorem ahead_restoreSes {acc : State × List Nat} {sid : Nat} {x : Ses} (h : Ahead a acc.1) : Ahead a (restoreSes acc sid x).1 :=
  Ahead.iteThen (ahead_setSes (foldl_ahead21 h fun _ _ h => Ahead.ite21 h (Ahead.ite21 h (ahead_ownPage h)))) fun h => ahead_sesEvent h

theorem ahead_keptState (h : Ahead a s) : Ahead a (keptState s) := Ahead.put h

theorem ahead_enterReset {cause : Nat} {hwRan : Bool} (h : Ahead a s) : Ahead a (enterReset s cause hwRan) :=
  ahead_wrF (ahead_wrF (foldl_ahead1 (Ahead.put (Ahead.foldl (Ahead.spend (ahead_keptState h)) fun _ _ => ahead_losePage)) fun _ _ =>
      ahead_restoreSes))

theorem ahead_keepHwLast {old : State} (h1 : Ahead a s) : Ahead a (keepHwLast old s) := Ahead.foldl h1 fun _ _ => ahead_wrWord

theorem ahead_umpDark (h : Ahead a s) : Ahead a (umpDark s) := Ahead.ite h (ahead_umpOff h)

theorem ahead_holdWaterEnd {flushUs bankMv sealedPages : Nat} (h : Ahead a s) : Ahead a (holdWaterEnd s flushUs bankMv sealedPages) := by
  unfold holdWaterEnd
  split
  · exact h
  · exact Ahead.put (ahead_keepHwLast (ahead_enterReset (Ahead.iteElse (Ahead.foldl h fun _ _ => ahead_sealPage) fun h => ahead_umpDark
        (ahead_umpPowerLoss h))))

theorem ahead_execHoldWaterEnd {flushUs bankMv sealedPages : Nat} (h : Ahead a s) : AheadOut a (execHoldWaterEnd flushUs bankMv sealedPages s) :=
  AheadOut.next (ahead_holdWaterEnd h)

theorem ahead_execPowerStageFault (h : Ahead a s) : AheadOut a (execPowerStageFault s) :=
  AheadOut.next (Ahead.ite h (Ahead.put (ahead_keepHwLast (ahead_enterReset (ahead_umpDark (ahead_umpPowerLoss h))))))

/-! ### Bring-up -/

theorem ahead_powerOnReset (h : Ahead a s) : Ahead a (powerOnReset s) := Ahead.ite h (Ahead.put h)

theorem ahead_execPowerOnReset (h : Ahead a s) : AheadOut a (execPowerOnReset s) := AheadOut.next (ahead_powerOnReset h)

theorem ahead_execRstNReset (h : Ahead a s) : AheadOut a (execRstNReset s) := AheadOut.next (ahead_askReset (Ahead.put h))

theorem ahead_execRstNRelease (h : Ahead a s) : AheadOut a (execRstNRelease s) := AheadOut.next (Ahead.put h)

theorem ahead_execWatchdogExpiry (h : Ahead a s) : AheadOut a (execWatchdogExpiry s) := AheadOut.next (ahead_askReset h)

theorem ahead_clkLock {pll : Nat} {on : Bool} (h : Ahead a s) : Ahead a (clkLock s pll on) := ahead_wrWord h

theorem ahead_lockLoss {pll : Nat} (h : Ahead a s) : Ahead a (lockLoss s pll) := Ahead.ite h (ahead_stopLegs (Ahead.put (ahead_clkLock h)))

theorem ahead_execPllLockLoss {pll : Nat} (h : Ahead a s) : AheadOut a (execPllLockLoss pll s) :=
  AheadOut.ite AheadOut.fault (AheadOut.next (ahead_lockLoss h))

theorem ahead_relock {pll : Nat} (h : Ahead a s) : Ahead a (relock s pll) := Ahead.ite h (Ahead.put (ahead_raiseBit (ahead_cnt (ahead_clkLock h))))

theorem ahead_execPllRelock {pll : Nat} (h : Ahead a s) : AheadOut a (execPllRelock pll s) :=
  AheadOut.ite AheadOut.fault (AheadOut.next (ahead_relock h))

theorem ahead_execClockFaultReset {pll : Nat} (h : Ahead a s) : AheadOut a (execClockFaultReset pll s) :=
  AheadOut.ite AheadOut.fault (AheadOut.next (Ahead.ite (ahead_askReset h) h))

theorem ahead_loadDom {d : Nat} {x : RigDom} (h : Ahead a s) : Ahead a (loadDom s d x) := Ahead.foldl (ahead_wrB h) fun _ _ => ahead_wrFx

theorem ahead_loadAllot {t : Nat} {a₀ : Allot} (h : Ahead a s) : Ahead a (loadAllot s t a₀) :=
  Ahead.foldl (ahead_wrB (ahead_wrB h)) fun _ _ => ahead_wrFx

theorem ahead_loadRigging {r : Rigging} (h : Ahead a s) : Ahead a (loadRigging s r) := by
  unfold loadRigging
  dsimp only
  refine Ahead.ite ?_ ?_
  · refine Ahead.foldl ?_ fun _ _ h => ahead_wrPort (ahead_wrPort h)
    refine Ahead.foldl ?_ fun _ _ h => ahead_loadAllot h
    refine Ahead.put ?_
    refine Ahead.foldl (Ahead.foldl (ahead_wrF (ahead_wrF h)) fun _ _ => ahead_wrPort) fun s e h => ?_
    split
    · exact ahead_loadDom h
    · exact h
  · refine Ahead.foldl ?_ fun _ _ h => ahead_loadAllot h
    refine Ahead.put ?_
    refine Ahead.foldl (Ahead.foldl (ahead_wrF (ahead_wrF h)) fun _ _ => ahead_wrPort) fun s e h => ?_
    split
    · exact ahead_loadDom h
    · exact h

theorem ahead_stampTime {i : Nat} (h : Ahead a s) : Ahead a (stampTime s i) := Ahead.put (ahead_nextFree h)

theorem ahead_bootFail {n : Nat} (h : Ahead a s) : Ahead a (bootFail s n) := Ahead.put h

theorem ahead_bootImages {fi ri : Nat} {f : FwImage} {r : Rigging} (h : Ahead a s) : Ahead a (bootImages s fi ri f r) :=
  Ahead.iteThen (ahead_stampTime (Ahead.put (ahead_loadRigging (ahead_wrWord (ahead_wrF (ahead_wrF (ahead_wrF (ahead_extendMeas (ahead_extendMeas
      (ahead_extendMeas (Ahead.put h))))))))))) fun h => ahead_bootFail h

theorem ahead_sl0Reached (h : Ahead a s) : Ahead a (sl0Reached s) := by
  unfold sl0Reached
  refine Ahead.ite h ?_
  split
  · exact ahead_bootFail h
  · split
    · exact ahead_bootFail h
    · split
      · exact Ahead.ite (ahead_bootImages (ahead_bootFail h)) (ahead_bootFail h)
      · exact h

theorem ahead_execSl0Reached (h : Ahead a s) : AheadOut a (execSl0Reached s) := AheadOut.next (ahead_sl0Reached h)

theorem ahead_bootFence {u cls : Nat} (h : Ahead a s) : Ahead a (bootFence s u cls) :=
  Ahead.iteElse (ahead_fence h) fun h => ahead_fenceFigures (ahead_wrF h)

theorem ahead_trainingDone {k : Nat} {ok : Bool} (h : Ahead a s) : Ahead a (trainingDone s k ok) :=
  Ahead.ite h (Ahead.ite (ahead_wrF h) (Ahead.ite (ahead_bootFence (Ahead.put h)) (Ahead.put h)))

theorem ahead_execLaneTrainingDone {lane : Nat} {ok : Bool} (h : Ahead a s) : AheadOut a (execLaneTrainingDone lane ok s) :=
  AheadOut.ite AheadOut.fault (AheadOut.next (ahead_trainingDone h))

theorem ahead_placePage {p f : Nat} (h : Ahead a s) : Ahead a (placePage s p f) := by
  unfold placePage
  split
  · exact h
  · exact ahead_fillFrame (Ahead.put (ahead_setPte h))

theorem ahead_placePlan {p : Plan} (h : Ahead a s) : Ahead a (placePlan s p).2 := foldl_ahead2 h fun _ _ h => Ahead.ite2 (ahead_placePage h) h

theorem ahead_placeTable {ps : List Nat} (h : Ahead a s) : AheadOpt a (placeTable s ps) :=
  AheadOpt.map (fun _ => Ahead.foldl h fun _ _ => ahead_placePage)

theorem ahead_reinstallPlan {p : Plan} (h : Ahead a s) : Ahead a (reinstallPlan s p) := by
  unfold reinstallPlan
  dsimp only
  split
  · exact Ahead.iteThen (ahead_blockPlan (Ahead.put (ahead_placePlan h))) fun h => ahead_updPlanVer h
  · exact Ahead.iteElse (Ahead.put (ahead_placePlan h)) fun h => ahead_blockPlan h

theorem ahead_reinstallSet {p : Plan} (h : Ahead a s) : Ahead a (reinstallSet s p) := Ahead.put (ahead_placePlan h)

theorem ahead_reinstallVocab {v : Vocab} (h : Ahead a s) : Ahead a (reinstallVocab s v) := by
  unfold reinstallVocab
  split
  · exact ahead_freePages h
  · rename_i heq
    have ht := (ahead_placeTable h).of_eq heq
    exact Ahead.put ht

theorem ahead_reinstallGrm {g : Grm} (h : Ahead a s) : Ahead a (reinstallGrm s g) := by
  unfold reinstallGrm
  split
  · exact ahead_freePages h
  · rename_i heq
    have ht := (ahead_placeTable h).of_eq heq
    exact Ahead.put ht

theorem ahead_reinstallTab {t : Nat} {g : GsxProg} (h : Ahead a s) : Ahead a (reinstallTab s t g) := by
  unfold reinstallTab
  split
  · exact ahead_freePages h
  · rename_i heq
    have ht := (ahead_placeTable h).of_eq heq
    exact Ahead.put ht

theorem ahead_reinstall (h : Ahead a s) : Ahead a (reinstall s) :=
  Ahead.ite h (ahead_measureInstalls (Ahead.iteThen
      (Ahead.put (Ahead.foldl (Ahead.foldl (Ahead.foldl (Ahead.foldl (Ahead.foldl (Ahead.put h) fun _ _ => ahead_reinstallPlan) fun _ _ =>
      ahead_reinstallSet) fun _ _ => ahead_reinstallVocab) fun _ _ => ahead_reinstallGrm) fun _ _ => ahead_reinstallTab)) fun h => ahead_raiseBit h))

theorem ahead_execImageReinstall (h : Ahead a s) : AheadOut a (execImageReinstall s) := AheadOut.next (ahead_reinstall h)

theorem ahead_retryCheck (h : Ahead a s) : Ahead a (retryCheck s) := Ahead.put h

theorem ahead_retryFinish (h : Ahead a s) : Ahead a (retryFinish s) := Ahead.put h

theorem ahead_setLevel {n : Nat} (h : Ahead a s) : Ahead a (setLevel s n) := ahead_raiseBit (ahead_stampTime (ahead_wrF h))

theorem ahead_hwReport (h : Ahead a s) : Ahead a (hwReport s) := by
  unfold hwReport
  split
  · exact h
  · exact ahead_raiseBit (Ahead.put (ahead_wrF (ahead_wrF (ahead_wrF (ahead_wrF (ahead_wrF (ahead_wrF (ahead_wrF h))))))))

theorem ahead_sl1Reached (h : Ahead a s) : Ahead a (sl1Reached s) := Ahead.ite h (ahead_wrF (Ahead.put (ahead_hwReport (ahead_setLevel h))))

theorem ahead_execSl1Reached (h : Ahead a s) : AheadOut a (execSl1Reached s) := AheadOut.next (ahead_sl1Reached h)

theorem ahead_laneOver {k : Nat} (h : Ahead a s) : Ahead a (laneOver s k) := Ahead.ite h (Ahead.put h)

theorem ahead_execLaneOnline {lane : Nat} (h : Ahead a s) : AheadOut a (execLaneOnline lane s) :=
  AheadOut.ite AheadOut.fault (AheadOut.next (ahead_laneOver h))

theorem ahead_bringOnline {k : Nat} (h : Ahead a s) : Ahead a (bringOnline s k) :=
  Ahead.ite h (ahead_raiseBit (ahead_wrF (ahead_wrF (ahead_coldStart (ahead_wrF h)))))

theorem ahead_coverFinish (h : Ahead a s) : Ahead a (coverFinish s) :=
  Ahead.iteThen (Ahead.iteThen (Ahead.iteThen (Ahead.foldl (Ahead.put h) fun _ _ => ahead_bringOnline) fun h => ahead_wrF (ahead_wrF h)) fun h =>
      ahead_setLevel h) fun h => ahead_setLevel h

theorem ahead_execAdviceColdEnd (h : Ahead a s) : AheadOut a (execAdviceColdEnd s) := AheadOut.next h

theorem ahead_adviseCrew {k : Nat} {c : Crew} (h : Ahead a s) : Ahead a (adviseCrew s k c) := by
  unfold adviseCrew
  split
  · exact h
  · exact Ahead.ite h (Ahead.foldl h fun _ _ => ahead_advise)

theorem ahead_adviseFinish {before : State} (h1 : Ahead a s) : Ahead a (adviseFinish before s) :=
  Ahead.foldl (Ahead.foldl (Ahead.put h1) fun _ _ h => Ahead.iteThen (Ahead.iteThen (Ahead.ite (ahead_adviseLane h) h) fun h => ahead_adviseLane h)
      fun h => ahead_adviseLane h) fun _ _ => ahead_adviseCrew

/-! ### The module's pins -/

theorem ahead_execHousekeepingPowerOn (h : Ahead a s) : AheadOut a (execHousekeepingPowerOn s) :=
  AheadOut.next (Ahead.ite h (ahead_umpPowerOn (Ahead.put h)))

theorem ahead_execHousekeepingPowerOff (h : Ahead a s) : AheadOut a (execHousekeepingPowerOff s) :=
  AheadOut.next (Ahead.ite (Ahead.put h) (ahead_umpOff (Ahead.put h)))

theorem ahead_execPwrEnAssert (h : Ahead a s) : AheadOut a (execPwrEnAssert s) := AheadOut.next (Ahead.put h)

theorem ahead_coolantHigh {temp : Nat} (h : Ahead a s) : Ahead a (coolantHigh s temp) := Ahead.ite h (Ahead.put h)

theorem ahead_coolantNormal {temp : Nat} (h : Ahead a s) : Ahead a (coolantNormal s temp) := Ahead.ite h (Ahead.put h)

theorem ahead_execCoolantOutletHigh {temp : Nat} (h : Ahead a s) : AheadOut a (execCoolantOutletHigh temp s) := AheadOut.next (ahead_coolantHigh h)

theorem ahead_execCoolantOutletNormal {temp : Nat} (h : Ahead a s) : AheadOut a (execCoolantOutletNormal temp s) :=
  AheadOut.next (ahead_coolantNormal h)

theorem ahead_i2c {off n : Nat} (h : Ahead a s) : Ahead a (i2c s off n) := Ahead.ite h (Ahead.spend h)

theorem ahead_execI2cTransaction {off n : Nat} (h : Ahead a s) : AheadOut a (execI2cTransaction off n s) := AheadOut.next (ahead_i2c h)

/-! ### The end of a Combine step -/

theorem ahead_cmbRows {p : Pass} {q : Plan} (h : Ahead a s) : Ahead a (cmbRows s p q) := Ahead.foldl h fun _ _ => ahead_writeRows

theorem ahead_cmbSelect {p : Pass} {q : Plan} (h : Ahead a s) : Ahead a (cmbSelect s p q) :=
  Ahead.foldl h fun _ _ h => Ahead.ite h (Ahead.foldl h fun _ _ h => ahead_updSes (ahead_nextFree h))

theorem ahead_cmbLogits {p : Pass} {q : Plan} (h : Ahead a s) : Ahead a (cmbLogits s p q) :=
  Ahead.foldl h fun _ _ h => Ahead.foldl h fun _ _ h => ahead_putLogits (ahead_nextFree h)

theorem ahead_cmbDone {i : Nat} {p : Pass} (h : Ahead a s) : Ahead a (cmbDone s i p) := by
  unfold cmbDone
  split
  · exact ahead_restartPass h
  · exact ahead_passDone (ahead_cmbLogits (ahead_cmbSelect (ahead_cmbRows h)))

theorem ahead_cmbFinish (h : Ahead a s) : Ahead a (cmbFinish s) := by
  unfold cmbFinish
  refine Ahead.foldl h fun s e h => ?_
  dsimp only
  split
  · exact h
  · exact Ahead.ite (ahead_setPass h) (Ahead.ite h (Ahead.ite (ahead_cmbDone h) (ahead_setPass h)))

/-! ### The stroke -/

theorem ahead_applyDelayed {d : Delayed} (h : Ahead a s) : Ahead a (applyDelayed s d) := by
  unfold applyDelayed
  split
  · exact ahead_applyGov h
  · exact Ahead.put (ahead_wrWord h)
  · exact h

theorem ahead_delayedCatch (h : Ahead a s) : Ahead a (delayedCatch s) :=
  Ahead.iteElse (Ahead.foldl (Ahead.put h) fun _ _ => ahead_applyDelayed) fun h => ahead_retryCheck h

theorem ahead_boundary (h : Ahead a s) : Ahead a (boundary s) := Ahead.put h

theorem ahead_setLength (h : Ahead a s) : Ahead a (setLength s) := Ahead.put h

theorem ahead_catchUnits {inputW : Nat} (h : Ahead a s) : Ahead a (catchUnits s inputW) :=
  Ahead.put (ahead_secCatch (ahead_gatesCatch (ahead_governCatch (ahead_powerCatch (Ahead.ite (ahead_startTest h) h)))))

theorem ahead_catchWork (h : Ahead a s) : Ahead a (catchWork s) :=
  ahead_grantLegs (ahead_courseCatch (ahead_ergCatch (ahead_grantPrep (ahead_gsxCatch (ahead_burstsCatch (ahead_lazyReads (ahead_catchMover
      (ahead_courseFills (ahead_pinHolds (ahead_ckpCatch (ahead_catchSessions (ahead_linkBind (ahead_serveFenced (ahead_catchFinals h))))))))))))))

theorem ahead_strokeCatch {inputW : Nat} (h : Ahead a s) : Ahead a (strokeCatch s inputW) :=
  Ahead.ite h (ahead_catchWork (ahead_catchUnits (ahead_setLength (ahead_delayedCatch (ahead_boundary h)))))

theorem ahead_execStrokeCatch {inputW : Nat} (h : Ahead a s) : AheadOut a (execStrokeCatch inputW s) := AheadOut.next (ahead_strokeCatch h)

theorem ahead_applyCommit {k : Commit} (h : Ahead a s) : Ahead a (applyCommit s k) := by
  unfold applyCommit
  split
  · exact ahead_stage h
  · exact ahead_commitOpen h
  · exact ahead_commitImportBegin h
  · exact ahead_commitImport h
  · exact ahead_commitAbort h
  · exact ahead_commitCompute h
  · exact ahead_commitReviveMoving h
  · exact ahead_commitFork h
  · exact ahead_commitPin h
  · exact ahead_commitRelease h
  · exact ahead_commitJoin h
  · exact ahead_commitIdle h
  · exact ahead_commitParkCancelled h
  · exact ahead_commitStream h
  · exact ahead_commitCrewModify h
  · exact Ahead.iteThen (ahead_applyLanded h) fun h => ahead_ckpPage h
  · exact ahead_stage h
  · exact ahead_stage h
  · exact ahead_planUnloaded h
  · exact ahead_tableUnloaded h

theorem ahead_commitAll (h : Ahead a s) : Ahead a (commitAll s) := Ahead.foldl (ahead_deferMetered (Ahead.put h)) fun _ _ => ahead_applyCommit

theorem ahead_damagedFinish (h : Ahead a s) : Ahead a (damagedFinish s) := by
  unfold damagedFinish
  dsimp only
  refine Ahead.foldl (Ahead.put h) fun s e h => ?_
  split
  · exact ahead_damageEvent h
  · exact h

theorem ahead_takeTouched {seen : List Nat} (h : Ahead a s) : Ahead a (takeTouched seen s).2 := ahead_applyTouched (Ahead.put h)

theorem ahead_sendDones (h : Ahead a s) : Ahead a (sendDones s) := Ahead.foldl (Ahead.put h) fun _ _ h => ahead_notify (ahead_sendCpl h)

theorem ahead_finishLegs (h : Ahead a s) : Ahead a (finishLegs s) :=
  Ahead.iteElse (ahead_fenceFigures (ahead_faultFinish (ahead_ergCount (ahead_overrunNotes h)))) fun h => ahead_idleTick (ahead_gsxFinish
      (ahead_switchFinish (ahead_cmbFinish (ahead_dropDamaged (ahead_legsFinish h)))))

theorem ahead_nodeTiers (h : Ahead a s) : Ahead a (nodeTiers s) := Ahead.put h

theorem ahead_evictFinish (h : Ahead a s) : Ahead a (evictFinish s) := ahead_evict (ahead_nodeTiers h)

theorem ahead_finishTables (h : Ahead a s) : Ahead a (finishTables s) := by
  have hmem : Ahead a (memFinish (tablesFinish (plansFinish (moverFinish s)))) :=
      ahead_memFinish (ahead_tablesFinish (ahead_plansFinish (ahead_moverFinish h)))
  have hmoved := ahead_durFinish (ahead_sealedFinish (ahead_remoteFinish (ahead_reviveFinish (ahead_courseFinish hmem))))
  have hpower := ahead_foldLeaves (ahead_powerFinish (ahead_cleanFinish (ahead_retryFinish hmoved)))
  unfold finishTables
  exact ahead_evictFinish (ahead_restFinish (ahead_ckpFinish (ahead_streamFinish hpower)))

theorem ahead_finishRights {before : State} (h1 : Ahead a s) : Ahead a (finishRights before s) :=
  ahead_policersFinish (ahead_pfxKeyChanges (ahead_quotesFinish (ahead_closeDisabled (ahead_secFinish (ahead_measureInstalls h1)))))

theorem ahead_finishFigures {before : State} {energyFj : List Nat} (h1 : Ahead a s) : Ahead a (finishFigures before s energyFj) :=
  ahead_windowsFinish (ahead_umpFigures (ahead_memFigures (ahead_sesFigures (ahead_indexFigures (ahead_crewFigures (ahead_textFinish
      (Ahead.put (ahead_tierFigures (ahead_adviseFinish (ahead_cmbFigures (ahead_governFinish (ahead_coverFinish h1))))))))))))

theorem ahead_recovery (h : Ahead a s) : Ahead a (recovery s) :=
  ahead_linkPump (ahead_featherFinish (ahead_remoteStart (ahead_indexRecovery (ahead_sendDones (ahead_tallySend (Ahead.put h))))))

theorem ahead_strokeFinish {energyFj : List Nat} (h : Ahead a s) : Ahead a (strokeFinish s energyFj) := by
  have hlegs : Ahead a (finishLegs (governCounts s)) := ahead_finishLegs (ahead_governCounts h)
  unfold strokeFinish
  refine Ahead.ite h (Ahead.ite hlegs ?_)
  rcases hp : takeTouched [] (commitAll (finishLegs (governCounts s))) with ⟨seen, u⟩
  have hu : Ahead a u := (ahead_takeTouched (ahead_commitAll hlegs)).of_eq2 hp
  have hv : Ahead a (takeTouched seen (damagedFinish (finishTables u))).2 := ahead_takeTouched (ahead_damagedFinish (ahead_finishTables hu))
  dsimp only
  exact ahead_recovery (ahead_finishFigures (ahead_finishRights hv))

theorem ahead_execStrokeFinish {energyFj : List Nat} (h : Ahead a s) : AheadOut a (execStrokeFinish energyFj s) := AheadOut.next (ahead_strokeFinish h)

/-! ### Rows -/

theorem ahead_exec {i : Instr} (h : Ahead a s) : AheadOut a (exec i s) := by
  unfold exec
  split
  · exact ahead_execStrokeCatch h
  · exact ahead_execStrokeFinish h
  · exact ahead_execOpenSes h
  · exact ahead_execImportBegin h
  · exact ahead_execImportCommit h
  · exact ahead_execImportAbort h
  · exact ahead_execAppend h
  · exact ahead_execStep h
  · exact ahead_execPark h
  · exact ahead_execRevive h
  · exact ahead_execFork h
  · exact ahead_execExportSes h
  · exact ahead_execPin h
  · exact ahead_execRelease h
  · exact ahead_execJoin h
  · exact ahead_execMove h
  · exact ahead_execSessionIdle h
  · exact ahead_execImportWindowTimeout h
  · exact ahead_execQuotaWaitExpiry h
  · exact ahead_execUmpDownWaitExpiry h
  · exact ahead_execPlanLoad h
  · exact ahead_execPlanUnload h
  · exact ahead_execImportRdmaWrite h
  · exact ahead_execCourseOpen h
  · exact ahead_execCourseClose h
  · exact ahead_execCourseStepStart h
  · exact ahead_execFetchWaitExpiry h
  · exact ahead_execIndexBuild h
  · exact ahead_execBladePull h
  · exact ahead_execLegEnd h
  · exact ahead_execLaneBusTransfer h
  · exact ahead_execCombineInstruction h
  · exact ahead_execRefreshDue h
  · exact ahead_execControlDieSlot h
  · exact ahead_execMoverPageCopied h
  · exact ahead_execLeafUnfold h
  · exact ahead_execSlowThermalLoop h
  · exact ahead_execLaneHotSet h
  · exact ahead_execLaneHotClear h
  · exact ahead_execLaneTempTrip h
  · exact ahead_execSprintHoldEnd h
  · exact ahead_execColdStartEnd h
  · exact ahead_execVocabLoad h
  · exact ahead_execGrmLoad h
  · exact ahead_execTableUnload h
  · exact ahead_execStreamSession h
  · exact ahead_execStreamAllocate h
  · exact ahead_execStreamFree h
  · exact ahead_execStreamConfigure h
  · exact ahead_execTokenize h
  · exact ahead_execDetokenize h
  · exact ahead_execStreamEngineTake h
  · exact ahead_execMaskBuild h
  · exact ahead_execMemCreate h
  · exact ahead_execMemDrop h
  · exact ahead_execMemQuery h
  · exact ahead_execMemInsert h
  · exact ahead_execMemDelete h
  · exact ahead_execMemRepair h
  · exact ahead_execWalkAdmit h
  · exact ahead_execNodeReadDone h
  · exact ahead_execGsxLoad h
  · exact ahead_execGather h
  · exact ahead_execScatter h
  · exact ahead_execGsxSeal h
  · exact ahead_execCrewCreate h
  · exact ahead_execCrewModify h
  · exact ahead_execCrewDelete h
  · exact ahead_execCrewSeated h
  · exact ahead_execSwitchDone h
  · exact ahead_execPreempt h
  · exact ahead_execSplitWindowEnd h
  · exact ahead_execQpCreate h
  · exact ahead_execQpDestroy h
  · exact ahead_execFeather h
  · exact ahead_execWake h
  · exact ahead_execNop h
  · exact ahead_execCheckpoint h
  · exact ahead_execRestore h
  · exact ahead_execCkpWaitExpiry h
  · exact ahead_execReceiptNow h
  · exact ahead_execLogRead h
  · exact ahead_execUmpAck h
  · exact ahead_execEventRead h
  · exact ahead_execSetPeriod h
  · exact ahead_execFwUpdate h
  · exact ahead_execCertRead h
  · exact ahead_execAttest h
  · exact ahead_execRigUpdateRigging h
  · exact ahead_execRigUpdateFirmware h
  · exact ahead_execErg h
  · exact ahead_execErgTestEnd h
  · exact ahead_execPatrolScrub h
  · exact ahead_execFlashReadFail h
  · exact ahead_execBwpFrameRx h
  · exact ahead_execHello h
  · exact ahead_execClose h
  · exact ahead_execBwpAckFrame h
  · exact ahead_execBwpRetransmitTimer h
  · exact ahead_execBwpAckDelay h
  · exact ahead_execBwpIdleTimeout h
  · exact ahead_execBwpLingerExpiry h
  · exact ahead_execEthFrameRx h
  · exact ahead_execMkaFrame h
  · exact ahead_execPtpMessage h
  · exact ahead_execPpsInEdge h
  · exact ahead_execTimeHoldover h
  · exact ahead_execPpsOutPulse h
  · exact ahead_execPortLinkChange h
  · exact ahead_execRdmaReadResponse h
  · exact ahead_execRdmaWriteAck h
  · exact ahead_execRoceInvalidRequest h
  · exact ahead_execQpError h
  · exact ahead_execCnpRx h
  · exact ahead_execEcnMarkedRx h
  · exact ahead_execRoceRateRaise h
  · exact ahead_execEgressSelect h
  · exact ahead_execGclEntryAdvance h
  · exact ahead_execInputRangeLow h
  · exact ahead_execInputRangeHigh h
  · exact ahead_execPowerLoss h
  · exact ahead_execOverVoltage h
  · exact ahead_execPwrEnDeassert h
  · exact ahead_execHoldWaterEnd h
  · exact ahead_execHoldupTest h
  · exact ahead_execHoldupTestResult h
  · exact ahead_execHoldupRetestTimer h
  · exact ahead_execTallyFrame h
  · exact ahead_execReceiptPeriodEnd h
  · exact ahead_execReceiptSigned h
  · exact ahead_execTamperOpen h
  · exact ahead_execSealRecord h
  · exact ahead_execPowerOnReset h
  · exact ahead_execRstNReset h
  · exact ahead_execWatchdogExpiry h
  · exact ahead_execPllLockLoss h
  · exact ahead_execPllRelock h
  · exact ahead_execClockFaultReset h
  · exact ahead_execSl0Reached h
  · exact ahead_execLaneTrainingDone h
  · exact ahead_execImageReinstall h
  · exact ahead_execSl1Reached h
  · exact ahead_execLaneOnline h
  · exact ahead_execAdviceColdEnd h
  · exact ahead_execCoolantOutletHigh h
  · exact ahead_execI2cTransaction h
  · exact ahead_execInputInRange h
  · exact ahead_execPwrEnAssert h
  · exact ahead_execPowerStageFault h
  · exact ahead_execRstNRelease h
  · exact ahead_execHousekeepingPowerOn h
  · exact ahead_execHousekeepingPowerOff h
  · exact ahead_execUmpSelfTestEnd h
  · exact ahead_execTallyLinkUp h
  · exact ahead_execCoolantOutletNormal h
  · exact ahead_execJournalTailWritten h
  · exact ahead_execLocalAckTimeout h
  · exact ahead_execPauseTimeExpiry h

end

/-! ### The obligation -/

/-- Settles O3: a step runs the command at the front on the state with the queue's rest, and no row gives back a free value or touches the queue. -/
theorem stepTakesOne : Obligations.StepTakesOne := by
  intro s t i rest _ hfront hstep
  rw [step_of_front hfront] at hstep
  exact ahead_exec (Ahead.refl { s with pending := rest }) t hstep

end Sys2Proof.Machine
end

section
/-! PROOFS. What every operation of the model keeps: the form of the register words, of the bytes of Tier H and of the event queues (`Canon`), and,
but for the few rows that move it, the stroke in progress. Every step keeps the form; a catch and a finish move the stroke as 06 says. -/

open Host
namespace Sys2Proof.Machine

/-- The stroke in progress is that of `a`: its phase, its number, its start, and whether strokes have begun. -/
def SameStroke (a s : State) : Prop :=
  s.stk.phase = a.stk.phase ∧ s.stk.begun = a.stk.begun ∧ s.stk.number = a.stk.number ∧ s.stk.start = a.stk.start

/-- The tables have the form if those of `a` have it, and the stroke in progress is that of `a`. -/
def Kept (a s : State) : Prop := (Canon a → Canon s) ∧ SameStroke a s

/-- The state that an operation answers, if it answers one, keeps them. -/
def KeptOpt (a : State) (o : Option State) : Prop := ∀ t, o = some t → Kept a t

/-- The state that an operation answers, if it answers no code, keeps them. -/
def KeptSum (a : State) (o : Nat ⊕ State) : Prop := ∀ t, o = .inr t → Kept a t

/-- The next state of a row keeps them. -/
def KeptOut (a : State) (o : Outcome State Fault Refusal) : Prop := ∀ t, o = .next t → Kept a t

/-- The next state of a row has the form. -/
def CanonOut (o : Outcome State Fault Refusal) : Prop := ∀ t, o = .next t → Canon t

section
variable {a s t u : State}

theorem Kept.refl (s : State) : Kept s s := ⟨id, rfl, rfl, rfl, rfl⟩

theorem Kept.canon (h : Kept a s) : Canon a → Canon s := h.1

theorem Kept.stroke (h : Kept a s) : SameStroke a s := h.2

/-- A change of anything but the registers, what waits to leave the device, the tiers and the strokes. -/
theorem Kept.put {pending} {freeCtr} {ses} {pfx} {time} {prg} {crw} {courses} {courseWaits} {bld} {gov} {flt} {lnk} {eg} {txt} {gsx} {mem} {ump}
    {ckp} {pwr} {sec} {boot} {mod} (h : Kept a s) :
    Kept a ⟨pending, freeCtr, s.reg, s.out, ses, pfx, s.tier, time, s.stk, prg, crw, courses, courseWaits, bld, gov, flt, lnk, eg, txt, gsx,
        mem, ump, ckp, pwr, sec, boot, mod⟩ := h

/-- A change of anything of the strokes but the phase, the number and the start of the one in progress. -/
theorem Kept.putStk {pending} {freeCtr} {ses} {pfx} {time} {period} {catchUs} {origin} {length} {delayed} {realign} {credit} {overspent} {busy}
    {passes} {nextPass} {grants} {granted} {commits} {sl1At} {filled} {prg} {crw} {courses} {courseWaits} {bld} {gov} {flt} {lnk} {eg} {txt} {gsx}
    {mem} {ump} {ckp} {pwr} {sec} {boot} {mod} (h : Kept a s) :
    Kept a ⟨pending, freeCtr, s.reg, s.out, ses, pfx, s.tier, time, ⟨s.stk.phase, s.stk.number, s.stk.start, period, catchUs, origin, length,
        delayed, realign, credit, overspent, busy, passes, nextPass, grants, granted, commits, sl1At, s.stk.begun, filled⟩, prg, crw, courses,
        courseWaits, bld, gov, flt, lnk, eg, txt, gsx, mem, ump, ckp, pwr, sec, boot, mod⟩ := h

/-- A change of anything of the tiers but the bytes of Tier H. -/
theorem Kept.putTier {pending} {freeCtr} {ses} {pfx} {ptes} {hUsed} {sealedAt} {sealCtr} {charges} {folded} {ops} {opWaits} {cleaning} {advice}
    {heldNow} {heldBefore} {dirtyRes} {sysMoved} {pathUsed} {time} {prg} {crw} {courses} {courseWaits} {bld} {gov} {flt} {lnk} {eg} {txt} {gsx}
    {mem} {ump} {ckp} {pwr} {sec} {boot} {mod} (h : Kept a s) :
    Kept a ⟨pending, freeCtr, s.reg, s.out, ses, pfx, ⟨ptes, s.tier.hbm, hUsed, sealedAt, sealCtr, charges, folded, ops, opWaits, cleaning,
        advice, heldNow, heldBefore, dirtyRes, sysMoved, pathUsed⟩, time, s.stk, prg, crw, courses, courseWaits, bld, gov, flt, lnk, eg, txt, gsx,
        mem, ump, ckp, pwr, sec, boot, mod⟩ := h

/-- A change of anything that waits to leave the device but the event queues. -/
theorem Kept.putOut {pending} {freeCtr} {cpls} {evLost} {streams} {outst} {fenced} {rcpts} {ses} {pfx} {time} {prg} {crw} {courses} {courseWaits}
    {bld} {gov} {flt} {lnk} {eg} {txt} {gsx} {mem} {ump} {ckp} {pwr} {sec} {boot} {mod} (h : Kept a s) :
    Kept a ⟨pending, freeCtr, s.reg, ⟨cpls, s.out.evq, evLost, streams, outst, fenced, rcpts⟩, ses, pfx, s.tier, time, s.stk, prg, crw,
        courses, courseWaits, bld, gov, flt, lnk, eg, txt, gsx, mem, ump, ckp, pwr, sec, boot, mod⟩ := h

/-- A change of both. -/
theorem Kept.putStkOut {pending} {freeCtr} {cpls} {evLost} {streams} {outst} {fenced} {rcpts} {ses} {pfx} {time} {period} {catchUs} {origin}
    {length} {delayed} {realign} {credit} {overspent} {busy} {passes} {nextPass} {grants} {granted} {commits} {sl1At} {filled} {prg} {crw} {courses}
    {courseWaits} {bld} {gov} {flt} {lnk} {eg} {txt} {gsx} {mem} {ump} {ckp} {pwr} {sec} {boot} {mod} (h : Kept a s) :
    Kept a ⟨pending, freeCtr, s.reg, ⟨cpls, s.out.evq, evLost, streams, outst, fenced, rcpts⟩, ses, pfx, s.tier, time, ⟨s.stk.phase,
        s.stk.number, s.stk.start, period, catchUs, origin, length, delayed, realign, credit, overspent, busy, passes, nextPass, grants, granted,
        commits, sl1At, s.stk.begun, filled⟩, prg, crw, courses, courseWaits, bld, gov, flt, lnk, eg, txt, gsx, mem, ump, ckp, pwr, sec, boot,
        mod⟩
        := h

/-- A change of the tiers and of the selection windows. -/
theorem Kept.putTierReg {pending} {freeCtr} {wins} {sel} {ses} {pfx} {ptes} {hUsed} {sealedAt} {sealCtr} {charges} {folded} {ops} {opWaits}
    {cleaning} {advice} {heldNow} {heldBefore} {dirtyRes} {sysMoved} {pathUsed} {time} {prg} {crw} {courses} {courseWaits} {bld} {gov} {flt} {lnk}
    {eg} {txt} {gsx} {mem} {ump} {ckp} {pwr} {sec} {boot} {mod} (h : Kept a s) :
    Kept a ⟨pending, freeCtr, ⟨s.reg.ctl, wins, sel⟩, s.out, ses, pfx, ⟨ptes, s.tier.hbm, hUsed, sealedAt, sealCtr, charges, folded, ops,
        opWaits, cleaning, advice, heldNow, heldBefore, dirtyRes, sysMoved, pathUsed⟩, time, s.stk, prg, crw, courses, courseWaits, bld, gov, flt,
        lnk, eg, txt, gsx, mem, ump, ckp, pwr, sec, boot, mod⟩ := h

/-- A change of the selection windows. -/
theorem Kept.putReg {wins} {sel} (h : Kept a s) : Kept a { s with reg := ⟨s.reg.ctl, wins, sel⟩ } := h

/-- A change of the register words that keeps their form. -/
theorem Kept.putWords {m : Map Word} (h : Kept a s) (hm : mapWf s.reg.ctl = true → mapWf m = true) :
    Kept a { s with reg := { s.reg with ctl := m } } := by
  refine ⟨fun ha => ?_, h.stroke⟩
  obtain ⟨hctl, hrest⟩ := h.canon ha
  exact ⟨hm hctl, hrest⟩

/-- A change of the bytes of Tier H that keeps their form. -/
theorem Kept.putBytes {m : Map Byte} (h : Kept a s) (hm : cellWf s.tier.hbm = true → cellWf m = true) :
    Kept a { s with tier := { s.tier with hbm := m } } := by
  refine ⟨fun ha => ?_, h.stroke⟩
  obtain ⟨hctl, hbytes, hevents⟩ := h.canon ha
  exact ⟨hctl, hm hbytes, hevents⟩

/-- Event queues by domain, each with at most 4,096 records (15 R345). -/
def EventsWf (m : Map (List EvRec)) : Prop := mapWf m = true ∧ evqOk m = true

/-- A change of the event queues that keeps their form. -/
theorem Kept.putEvents {m : Map (List EvRec)} {lost : Map Nat} (h : Kept a s) (hm : EventsWf s.out.evq → EventsWf m) :
    Kept a { s with out := { s.out with evq := m, evLost := lost } } := by
  refine ⟨fun ha => ?_, h.stroke⟩
  obtain ⟨hctl, hbytes, hevents⟩ := h.canon ha
  exact ⟨hctl, hbytes, hm hevents⟩

theorem Kept.ite {c : Prop} [Decidable c] (h : Kept a s) (k : Kept a t) : Kept a (if c then s else t) := by
  split
  · exact h
  · exact k

theorem Kept.ite1 {β : Type} {c : Prop} [Decidable c] {p q : State × β} (h : Kept a p.1) (k : Kept a q.1) :
    Kept a (if c then p else q).1 := by
  split
  · exact h
  · exact k

theorem Kept.ite2 {β : Type} {c : Prop} [Decidable c] {p q : β × State} (h : Kept a p.2) (k : Kept a q.2) :
    Kept a (if c then p else q).2 := by
  split
  · exact h
  · exact k

theorem Kept.ite21 {β γ : Type} {c : Prop} [Decidable c] {p q : γ × State × β} (h : Kept a p.2.1) (k : Kept a q.2.1) :
    Kept a (if c then p else q).2.1 := by
  split
  · exact h
  · exact k

theorem Kept.ite22 {β γ : Type} {c : Prop} [Decidable c] {p q : γ × β × State} (h : Kept a p.2.2) (k : Kept a q.2.2) :
    Kept a (if c then p else q).2.2 := by
  split
  · exact h
  · exact k

theorem Kept.ite222 {β γ δ : Type} {c : Prop} [Decidable c] {p q : δ × γ × β × State} (h : Kept a p.2.2.2) (k : Kept a q.2.2.2) :
    Kept a (if c then p else q).2.2.2 := by
  split
  · exact h
  · exact k

theorem Kept.ite2222 {β γ δ ε : Type} {c : Prop} [Decidable c] {p q : ε × δ × γ × β × State} (h : Kept a p.2.2.2.2) (k : Kept a q.2.2.2.2) :
    Kept a (if c then p else q).2.2.2.2 := by
  split
  · exact h
  · exact k

/-- A change under a condition. -/
theorem Kept.iteThen {c : Prop} [Decidable c] (h : Kept a s) (k : Kept a s → Kept a t) : Kept a (if c then t else s) := (k h).ite h

theorem Kept.iteElse {c : Prop} [Decidable c] (h : Kept a s) (k : Kept a s → Kept a t) : Kept a (if c then s else t) := h.ite (k h)

theorem Kept.foldl {α : Type} {f : State → α → State} {l : List α} (h : Kept a s) (hf : ∀ s x, Kept a s → Kept a (f s x)) :
    Kept a (l.foldl f s) :=
  List.foldlRecOn l f h fun s h x _ => hf s x h

theorem foldl_kept1 {α β : Type} {f : State × β → α → State × β} {l : List α} {p : State × β} (h : Kept a p.1)
    (hf : ∀ p x, Kept a p.1 → Kept a (f p x).1) : Kept a (l.foldl f p).1 :=
  List.foldlRecOn (motive := fun p => Kept a p.1) l f h fun p h x _ => hf p x h

theorem foldl_kept2 {α β : Type} {f : β × State → α → β × State} {l : List α} {p : β × State} (h : Kept a p.2)
    (hf : ∀ p x, Kept a p.2 → Kept a (f p x).2) : Kept a (l.foldl f p).2 :=
  List.foldlRecOn (motive := fun p => Kept a p.2) l f h fun p h x _ => hf p x h

theorem foldl_kept21 {α β γ : Type} {f : β × State × γ → α → β × State × γ} {l : List α} {p : β × State × γ} (h : Kept a p.2.1)
    (hf : ∀ p x, Kept a p.2.1 → Kept a (f p x).2.1) : Kept a (l.foldl f p).2.1 :=
  List.foldlRecOn (motive := fun p => Kept a p.2.1) l f h fun p h x _ => hf p x h

theorem Kept.of_eq2 {β : Type} {p : β × State} {y : β} (h : Kept a p.2) (he : p = (y, t)) : Kept a t := by
  rw [he] at h
  exact h

theorem KeptOpt.none : KeptOpt a none := fun _ h => nomatch h

theorem KeptOpt.some (h : Kept a s) : KeptOpt a (some s) := fun _ k => Option.some.inj k ▸ h

theorem KeptOpt.ite {c : Prop} [Decidable c] {o q : Option State} (h : KeptOpt a o) (k : KeptOpt a q) : KeptOpt a (if c then o else q) := by
  split
  · exact h
  · exact k

theorem KeptOpt.map {α : Type} {o : Option α} {f : α → State} (h : ∀ x, Kept a (f x)) : KeptOpt a (o.map f) := by
  cases o with
  | none => exact KeptOpt.none
  | some x => exact KeptOpt.some (h x)

theorem KeptOpt.bind {o : Option State} {f : State → Option State} (h : KeptOpt a o) (hf : ∀ s, Kept a s → KeptOpt a (f s)) :
    KeptOpt a (o.bind f) := by
  cases o with
  | none => exact KeptOpt.none
  | some t => exact hf t (h t rfl)

theorem KeptOpt.bind2 {β : Type} {o : Option State} {f : State → Option (β × State)} (h : KeptOpt a o)
    (hf : ∀ s, Kept a s → KeptOpt a ((f s).map (·.2))) : KeptOpt a ((o.bind f).map (·.2)) := by
  cases o with
  | none => exact KeptOpt.none
  | some t => exact hf t (h t rfl)

theorem KeptOpt.ite2 {β : Type} {c : Prop} [Decidable c] {o q : Option (β × State)} (h : KeptOpt a (o.map (·.2))) (k : KeptOpt a (q.map (·.2))) :
    KeptOpt a ((if c then o else q).map (·.2)) := by
  split
  · exact h
  · exact k

theorem KeptOpt.getD {o : Option State} (h : KeptOpt a o) (k : Kept a s) : Kept a (o.getD s) := by
  cases o with
  | none => exact k
  | some t => exact h t rfl

theorem KeptOpt.of_eq {o : Option State} (h : KeptOpt a o) (he : o = Option.some t) : Kept a t := h t he

theorem KeptOpt.of_eq2 {β : Type} {o : Option (β × State)} {y : β} (h : KeptOpt a (o.map (·.2))) (he : o = Option.some (y, t)) : Kept a t :=
  h t (by rw [he]; rfl)

theorem KeptSum.inl {e : Nat} : KeptSum a (.inl e) := fun _ h => nomatch h

theorem KeptSum.inr (h : Kept a s) : KeptSum a (.inr s) := fun _ k => Sum.inr.inj k ▸ h

theorem KeptSum.ite {c : Prop} [Decidable c] {o q : Nat ⊕ State} (h : KeptSum a o) (k : KeptSum a q) : KeptSum a (if c then o else q) := by
  split
  · exact h
  · exact k

theorem KeptSum.of_eq {o : Nat ⊕ State} (h : KeptSum a o) (he : o = .inr t) : Kept a t := h t he

theorem CanonOut.next (h : Canon s) : CanonOut (.next s) := fun _ k => Outcome.next.inj k ▸ h

theorem KeptOut.canonOut {o : Outcome State Fault Refusal} (h : KeptOut a o) (ha : Canon a) : CanonOut o := fun t k => (h t k).canon ha

theorem KeptOut.next (h : Kept a s) : KeptOut a (.next s) := fun _ k => Outcome.next.inj k ▸ h

theorem KeptOut.fault {φ : Fault} : KeptOut a (.fault φ) := fun _ k => nomatch k

theorem KeptOut.refused {ρ : Refusal} : KeptOut a (.refused ρ) := fun _ k => nomatch k

theorem KeptOut.ite {c : Prop} [Decidable c] {o q : Outcome State Fault Refusal} (h : KeptOut a o) (k : KeptOut a q) :
    KeptOut a (if c then o else q) := by
  split
  · exact h
  · exact k

end

/-! ### What each operation keeps

One lemma per operation of the model, in the order and under the chapters of the model. -/

section
variable {a s : State}

/-! ### Register fields, events and completions -/

theorem mapWf_ctlPut {m : Map Word} {b : Blk} {inst bank off v : Nat} (h : mapWf m = true) : mapWf (ctlPut m b inst bank off v) = true := by
  unfold ctlPut
  split
  · exact mapWf_mapErase _ _ h
  · exact mapWf_mapSet _ _ _ h

theorem kept_wrWord {b : Blk} {inst bank off v : Nat} (h : Kept a s) : Kept a (wrWord s b inst bank off v) := h.putWords mapWf_ctlPut

theorem kept_wrFx {f : Fld} {inst bank i v : Nat} (h : Kept a s) : Kept a (wrFx s f inst bank i v) := kept_wrWord h

theorem kept_wrF {f : Fld} {v : Nat} (h : Kept a s) : Kept a (wrF s f v) := kept_wrFx h

theorem kept_wrB {f : Fld} {bank v : Nat} (h : Kept a s) : Kept a (wrB s f bank v) := kept_wrFx h

theorem kept_wrI {f : Fld} {inst v : Nat} (h : Kept a s) : Kept a (wrI s f inst v) := kept_wrFx h

theorem kept_cntI {f : Fld} {inst n : Nat} (h : Kept a s) : Kept a (cntI s f inst n) := kept_wrI h

theorem kept_cnt {f : Fld} {n : Nat} (h : Kept a s) : Kept a (cnt s f n) := kept_cntI h

theorem kept_cntB {f : Fld} {bank n : Nat} (h : Kept a s) : Kept a (cntB s f bank n) := kept_wrB h

theorem evqOk_iff {m : Map (List EvRec)} : evqOk m = true ↔ ∀ e ∈ m, e.2.length ≤ 4096 := by
  simp [evqOk, List.all_eq_true]

theorem EventsWf.mapSet {m : Map (List EvRec)} {d : Nat} {q : List EvRec} (h : EventsWf m) (hq : q.length ≤ 4096) : EventsWf (mapSet m d q) := by
  obtain ⟨hm, hlen⟩ := h
  refine ⟨mapWf_mapSet _ _ _ hm, evqOk_iff.mpr fun e he => ?_⟩
  rcases mem_mapSet _ _ _ _ he with rfl | he
  · exact hq
  · exact evqOk_iff.mp hlen e he

theorem EventsWf.mapErase {m : Map (List EvRec)} {d : Nat} (h : EventsWf m) : EventsWf (mapErase m d) := by
  obtain ⟨hm, hlen⟩ := h
  exact ⟨mapWf_mapErase _ _ hm, evqOk_iff.mpr fun e he => evqOk_iff.mp hlen e (mem_mapErase _ _ _ he)⟩

/-- A domain's queue is no longer than the bound, empty where the domain has none. -/
theorem EventsWf.queue_length {m : Map (List EvRec)} (h : EventsWf m) (d : Nat) : ((mapGet m d).getD []).length ≤ 4096 := by
  cases hq : mapGet m d with
  | none => exact Nat.zero_le _
  | some q => exact evqOk_iff.mp h.2 _ (mapGet_mem _ _ _ hq)

/-- A record joins a queue that has room, or takes the place of the oldest one. -/
theorem kept_pushEvent {d : Nat} {r : EvRec} (h : Kept a s) : Kept a (pushEvent s d r) := by
  unfold pushEvent
  dsimp only
  split
  next hroom =>
    refine h.putEvents (lost := s.out.evLost) fun hevents => hevents.mapSet ?_
    simp only [List.length_append, List.length_singleton]
    omega
  next hfull =>
    refine kept_cntB (h.putEvents fun hevents => hevents.mapSet ?_)
    have hq := hevents.queue_length d
    simp only [List.length_append, List.length_drop, List.length_singleton]
    omega

theorem kept_pushEvents {ds : List Nat} {r : EvRec} (h : Kept a s) : Kept a (pushEvents s ds r) := Kept.foldl h fun _ _ => kept_pushEvent

theorem kept_sendEvent {page code : Nat} {words ds : List Nat} (h : Kept a s) : Kept a (sendEvent s page code words ds) := kept_pushEvents h

theorem kept_raiseBit {b : Blk} {inst bit : Nat} {whom : EvTo} (h : Kept a s) : Kept a (raiseBit s b inst bit whom) := by
  unfold raiseBit
  dsimp only
  split
  · exact Kept.iteThen (kept_pushEvents (Kept.ite (kept_wrI h) h)) fun h => kept_pushEvents h
  · exact Kept.iteThen (Kept.ite (kept_wrI h) h) fun h => kept_pushEvents h
  · exact Kept.iteThen (Kept.ite (kept_wrI h) h) fun h => kept_pushEvents h

theorem kept_recordErr {b : Blk} {inst unit code : Nat} (h : Kept a s) : Kept a (recordErr s b inst unit code) :=
  kept_cntI (kept_raiseBit (Kept.ite h (kept_wrWord h)))

theorem kept_stage {k : Commit} (h : Kept a s) : Kept a (stage s k) := Kept.putStk h

theorem kept_sendCpl {d : Done} (h : Kept a s) : Kept a (sendCpl s d) := Kept.putOut h

theorem kept_stageDone {d : Done} (h : Kept a s) : Kept a (stageDone s d) := Kept.ite (kept_sendCpl h) (Kept.putStk h)

theorem kept_finishCmd {c : Cmd} {status : Nat} (h : Kept a s) : Kept a (finishCmd s c status) := kept_stageDone h

theorem kept_nextFree (h : Kept a s) : Kept a (nextFree s).2 := Kept.put h

/-! ### SAS pages, frames and charges -/

theorem kept_setPte {p : Nat} {e : Pte} (h : Kept a s) : Kept a (setPte s p e) := Kept.putTier h

theorem kept_updPte {p : Nat} {f : Pte → Pte} (h : Kept a s) : Kept a (updPte s p f) := Kept.putTier h

theorem kept_updPtes {ps : List Nat} {f : Pte → Pte} (h : Kept a s) : Kept a (updPtes s ps f) := Kept.foldl h fun _ _ => kept_updPte

theorem kept_addCharge {c : Charge} (h : Kept a s) : Kept a (addCharge s c) := Kept.ite h (Kept.putTier h)

theorem kept_dropCharges {owner : Nat} (h : Kept a s) : Kept a (dropCharges s owner) := Kept.putTier h

theorem kept_useCharge {owner tier n : Nat} (h : Kept a s) : Kept a (useCharge s owner tier n) := Kept.putTier h

theorem kept_zeroFrame {f : Nat} (h : Kept a s) : Kept a (zeroFrame s f) := h.putBytes (cellWf_cellsClear _ _ _)

theorem kept_writeFrame {f off : Nat} {bs : List Byte} (h : Kept a s) : Kept a (writeFrame s f off bs) :=
  h.putBytes (cellWf_cellsSet _ _ _)

theorem kept_fillFrame {f : Nat} {cells : Map Byte} (h : Kept a s) : Kept a (fillFrame s f cells) :=
  (kept_zeroFrame h).putBytes fun hzero => List.foldlRecOn (motive := fun m => cellWf m = true) cells _ hzero fun m hm _ _ => cellWf_cellSet m _ _ hm

theorem kept_writePage {p off : Nat} {bs : List Byte} (h : Kept a s) : Kept a (writePage s p off bs) := by
  unfold writePage
  split
  · exact Kept.ite (kept_writeFrame h) h
  · exact h

theorem kept_touch {p : Nat} (h : Kept a s) : Kept a (touch s p) := kept_stage h

theorem kept_newPage {p f tenant cls : Nat} {committed : Bool} (h : Kept a s) : Kept a (newPage s p f tenant cls committed) :=
  Kept.putTier (kept_setPte h)

theorem kept_allocPagesAway {n tenant cls mask : Nat} {committed : Bool} {avoid : List Nat} (h : Kept a s) :
    KeptOpt a ((allocPagesAway s n tenant cls mask committed avoid).map (·.2)) := by
  unfold allocPagesAway
  split
  · exact KeptOpt.none
  · exact KeptOpt.some (Kept.foldl h fun _ _ => kept_newPage)

theorem kept_allocPages {n tenant cls mask : Nat} {committed : Bool} (h : Kept a s) :
    KeptOpt a ((allocPages s n tenant cls mask committed).map (·.2)) :=
  kept_allocPagesAway h

theorem kept_freeH1 {p : Nat} (h : Kept a s) : Kept a (freeH1 s p) := by
  unfold freeH1
  split
  · exact h
  · exact Kept.ite (kept_setPte (Kept.putTier (kept_zeroFrame h))) h

theorem kept_freePage {p : Nat} (h : Kept a s) : Kept a (freePage s p) := by
  unfold freePage
  split
  · exact h
  · exact Kept.putTier (kept_freeH1 h)

theorem kept_freePages {ps : List Nat} (h : Kept a s) : Kept a (freePages s ps) := Kept.foldl h fun _ _ => kept_freePage

theorem kept_freeF1 {p : Nat} (h : Kept a s) : Kept a (freeF1 s p) := by
  unfold freeF1
  split
  · exact h
  · exact Kept.ite (kept_setPte (Kept.putTier h)) h

theorem kept_putSealed {p : Nat} {x : Sealed} (h : Kept a s) : Kept a (putSealed s p x) := by
  unfold putSealed
  split
  · exact h
  · exact kept_setPte (Kept.putTier h)

theorem kept_unpinF {p : Nat} (h : Kept a s) : Kept a (unpinF s p) := by
  unfold unpinF
  split
  · exact h
  · exact kept_setPte (Kept.putTier h)

theorem kept_noteErr {n : ErrNote} (h : Kept a s) : Kept a (noteErr s n) := Kept.put h

/-! ### Blades -/

theorem kept_updLeg {k : Nat} {f : GLeg → GLeg} (h : Kept a s) : Kept a (updLeg s k f) := Kept.putStk h

theorem kept_taintLeg {k g : Nat} (h : Kept a s) : Kept a (taintLeg s k g) := kept_updLeg h

theorem kept_poisonLeg {k : Nat} {g : Option Nat} (h : Kept a s) : Kept a (poisonLeg s k g) := by
  unfold poisonLeg
  split
  · exact h
  · refine Kept.ite h ?_
    dsimp only
    split
    · exact kept_cntI (kept_taintLeg (kept_updLeg h))
    · exact kept_updLeg h

theorem kept_sramPut {g off : Nat} {bs : List Byte} (h : Kept a s) : Kept a (sramPut s g off bs) := Kept.put h

theorem kept_accPut {g w : Nat} {v : Num} (h : Kept a s) : Kept a (accPut s g w v) := kept_sramPut h

theorem kept_pairPut {g n : Nat} {m : Int} {l : Num} (h : Kept a s) : Kept a (pairPut s g n m l) := kept_sramPut h

theorem kept_setRun {g : Nat} {r : BladeRun} (h : Kept a s) : Kept a (setRun s g r) := Kept.put h

theorem kept_updRun {g : Nat} {f : BladeRun → BladeRun} (h : Kept a s) : Kept a (updRun s g f) := kept_setRun h

theorem kept_putResident {p : Plan} {g at_ : Nat} (h : Kept a s) : Kept a (putResident s p g at_) :=
  Kept.foldl h fun _ _ h => Kept.foldl h fun _ _ h => Kept.ite (kept_sramPut h) h

theorem kept_runDot {g : Nat} {e : Word} {d : List Byte} {bad : List Nat} {sblk : Nat} (h : Kept a s) : Kept a (runDot s g e d bad sblk).2 :=
  Kept.foldl h fun _ _ => kept_accPut

theorem kept_runAxpy {g : Nat} {e : Word} {d : List Byte} {bad : List Nat} {sblk : Nat} (h : Kept a s) : Kept a (runAxpy s g e d bad sblk).2 :=
  Kept.foldl h fun _ _ => kept_accPut

theorem kept_attOne {g fmt dsz acc scr n : Nat} {key val q : Nat → Num} {base : Nat} (h : Kept a s) :
    Kept a (attOne s g fmt dsz acc scr n key val q base) :=
  Kept.foldl (kept_pairPut (Kept.ite (Kept.foldl (kept_pairPut h) fun _ _ => kept_accPut) h)) fun _ _ => kept_accPut

theorem kept_runAtt {g : Nat} {e : Word} {d : List Byte} {bad : List Nat} {kbase : Nat} (h : Kept a s) : Kept a (runAtt s g e d bad kbase).2 :=
  Kept.foldl h fun _ _ => kept_attOne

theorem kept_runPop {g : Nat} {e : Word} {d : List Byte} {bad : List Nat} (h : Kept a s) : Kept a (runPop s g e d bad).2 :=
  Kept.foldl h fun _ _ => kept_sramPut

theorem kept_touchFrame {f : Nat} (h : Kept a s) : Kept a (touchFrame s f) := by
  unfold touchFrame
  split
  · exact Kept.ite h (kept_touch h)
  · exact h

theorem kept_runWr {g : Nat} {e : Word} {row : Nat} {bad : List Nat} {r : BladeRun} (h : Kept a s) : Kept a (runWr s g e row bad r).2 :=
  Kept.ite2 h (kept_touchFrame (Kept.iteElse (Kept.foldl h fun _ _ h => Kept.ite h (kept_writeFrame h)) fun h => kept_cntI h))

theorem kept_runOther {k g : Nat} {e : Word} (h : Kept a s) : Kept a (runOther s k g e) := by
  unfold runOther
  dsimp only
  split
  · exact Kept.ite (kept_updRun (kept_sramPut h)) (kept_updRun (Kept.foldl h fun _ _ => kept_pairPut))
  · exact kept_setRun h
  · exact kept_updRun h
  · exact kept_updRun h
  · exact h

theorem kept_setOwed {b n : Nat} (h : Kept a s) : Kept a (setOwed s b n) := Kept.put h

theorem kept_chargeSlot {n g : Nat} (h : Kept a s) : Kept a (chargeSlot s n g) := Kept.put h

theorem kept_takeSlot {b n : Nat} (h : Kept a s) : Kept a (takeSlot s b n) := kept_setOwed (kept_chargeSlot (kept_chargeSlot h))

theorem kept_idleSlot {b : Nat} (h : Kept a s) : Kept a (idleSlot s b) := Kept.ite (kept_takeSlot h) h

theorem kept_forceSlot {g : Nat} (h : Kept a s) : Kept a (forceSlot s g) := Kept.ite (kept_updRun h) h

theorem kept_refreshDue {lane bank : Nat} (h : Kept a s) : Kept a (refreshDue s lane bank) :=
  Kept.ite (Kept.put h) (Kept.ite (kept_idleSlot (kept_setOwed (Kept.put h))) (kept_forceSlot (kept_forceSlot (kept_setOwed (Kept.put h)))))

theorem kept_execRefreshDue {lane bank : Nat} (h : Kept a s) : KeptOut a (execRefreshDue lane bank s) :=
  KeptOut.ite KeptOut.fault (KeptOut.next (kept_refreshDue h))

theorem kept_lockSlots {l : GLeg} {g : Nat} (h : Kept a s) : Kept a (lockSlots s l g) :=
  Kept.ite h (Kept.foldl h fun _ _ h => kept_takeSlot (Kept.ite h (kept_cntI h)))

theorem kept_refreshSlot {l : GLeg} {g c : Nat} (h : Kept a s) : Kept a (refreshSlot s l g c) :=
  Kept.ite (kept_lockSlots (kept_takeSlot (kept_cntI (kept_cntI (kept_updRun h))))) (Kept.ite (kept_lockSlots (kept_takeSlot (kept_cntI h)))
      h)

theorem kept_beginLeg {g k : Nat} (h : Kept a s) : Kept a (beginLeg s g k) := kept_setRun (Kept.foldl h fun _ _ => kept_sramPut)

theorem kept_skipRange {k : Nat} {x : Expert} (h : Kept a s) : Kept a (skipRange s k x) := Kept.ite h (kept_cnt (kept_updLeg h))

theorem kept_runToPull {k g n fuel : Nat} {p : Plan} {l : GLeg} (h : Kept a s) : Kept a (runToPull k g p l n fuel s) := by
  induction fuel generalizing s with
  | zero => exact h
  | succ fuel ih =>
    rw [runToPull]
    refine Kept.ite h ?_
    dsimp only
    split
    · exact ih (kept_updRun (kept_skipRange h))
    · exact Kept.ite h (ih (kept_updRun (kept_runOther h)))

theorem kept_pullNotes {g row : Nat} {fixed bad : List Nat} (h : Kept a s) : Kept a (pullNotes s g row fixed bad) :=
  Kept.iteElse (Kept.ite h (kept_noteErr (kept_cntI h))) fun h => kept_noteErr (kept_recordErr (kept_cntI h))

theorem kept_runPull {k g n i : Nat} {p : Plan} {l : GLeg} {e : Word} {flips : List (Nat × Byte)} {parity : Bool} (h : Kept a s) :
    Kept a (runPull s k g n i p l e flips parity) := by
  unfold runPull
  dsimp only
  -- the bytes that the pull reads, or its writes, and then what it marks of its words, of its leg and of the notes
  refine kept_updRun (Kept.iteThen (kept_pullNotes ?_) fun h => kept_noteErr (kept_recordErr h))
  refine Kept.iteThen (Kept.iteThen (Kept.iteThen (Kept.ite2 h ?_) fun h => kept_updRun h) fun h => kept_taintLeg h)
    fun h => kept_poisonLeg h
  split
  · exact kept_runDot h
  · exact kept_runAxpy h
  · exact kept_runAtt h
  · exact kept_runPop h
  · exact kept_sramPut h
  · exact kept_runWr h
  · exact h

theorem kept_bladePull {g : Nat} {flips : List (Nat × Byte)} {parity : Bool} (h : Kept a s) : Kept a (bladePull s g flips parity) := by
  unfold bladePull
  split
  · exact h
  · dsimp only
    split
    · exact Kept.ite h (kept_beginLeg h)
    · split
      · exact Kept.ite h (kept_beginLeg h)
      · exact Kept.ite (kept_updRun (kept_runToPull (Kept.ite h (kept_beginLeg h)))) (Kept.ite (kept_idleSlot (kept_updRun (kept_runToPull
            (Kept.ite h (kept_beginLeg h))))) (kept_runToPull (kept_runPull (kept_refreshSlot (kept_updRun (kept_runToPull
            (Kept.ite h (kept_beginLeg h))))))))

theorem kept_execBladePull {blade : Nat} {flips : List (Nat × Byte)} {parity : Bool} (h : Kept a s) :
    KeptOut a (execBladePull blade flips parity s) :=
  KeptOut.ite KeptOut.fault (KeptOut.next (kept_bladePull h))

/-! ### Handing on and RDMA requests -/

theorem kept_joinQueue {c : Cmd} (h : Kept a s) : Kept a (joinQueue s c) := Kept.putOut h

theorem kept_refusalMarks {code : Nat} (h : Kept a s) : Kept a (refusalMarks s code) :=
  Kept.ite (kept_cnt (kept_recordErr h)) (Kept.ite (kept_raiseBit (kept_recordErr h)) (Kept.ite (kept_raiseBit (kept_recordErr h))
      (Kept.ite (kept_raiseBit (kept_recordErr h)) (Kept.ite (kept_cnt (kept_recordErr h)) (Kept.iteThen (kept_recordErr h) fun h =>
      kept_raiseBit (kept_cnt h))))))

theorem kept_refuseSes {c : Cmd} {code : Nat} (h : Kept a s) : Kept a (refuseSes s c code) := by
  unfold refuseSes
  dsimp only
  split
  · exact kept_finishCmd (kept_refusalMarks h)
  · exact kept_stageDone (kept_refusalMarks h)

theorem kept_refuseHand {c : Cmd} {code : Nat} (h : Kept a s) : Kept a (refuseHand s c code) :=
  Kept.ite (kept_refuseSes h) (kept_finishCmd (kept_recordErr h))

theorem kept_submit {c : Cmd} {data : List Byte} {start : Cmd → List Byte → State → State} (h : Kept a s) (hstart :
    ∀ x0 x1 t, Kept a t → Kept a (start x0 x1 t)) : Kept a (submit s c data start) := by
  unfold submit
  dsimp only
  split
  · exact kept_refuseHand (kept_joinQueue h)
  · exact Kept.ite (hstart _ _ _ (kept_joinQueue h)) (Kept.putOut (kept_joinQueue h))

theorem kept_refuseWith {c : Cmd} {status c0 : Nat} (h : Kept a s) : Kept a (refuseWith s c status c0) := kept_stageDone h

theorem kept_updQp {q : Nat} {f : Qp → Qp} (h : Kept a s) : Kept a (updQp s q f) := Kept.put h

theorem kept_issueRead {r : RdmaRead} (h : Kept a s) : Kept a (issueRead s r) := Kept.put h

theorem kept_issueWrite {w : RdmaWrite} (h : Kept a s) : Kept a (issueWrite s w) := Kept.put h

/-! ### Egress -/

theorem kept_setIface {i : Nat} {x : EgIface} (h : Kept a s) : Kept a (setIface s i x) := Kept.put h

theorem kept_updIface {i : Nat} {f : EgIface → EgIface} (h : Kept a s) : Kept a (updIface s i f) := kept_setIface h

theorem kept_setQueue {k : Nat} {q : EgQ} (h : Kept a s) : Kept a (setQueue s k q) := Kept.put h

theorem kept_wrPort {f : Fld} {i v : Nat} (h : Kept a s) : Kept a (wrPort s f i v) := kept_wrWord h

theorem kept_cntPort {f : Fld} {i n : Nat} (h : Kept a s) : Kept a (cntPort s f i n) := kept_wrPort h

theorem kept_gateCommit {i : Nat} (h : Kept a s) : KeptOpt a (gateCommit s i) :=
  KeptOpt.ite (KeptOpt.some (kept_wrB (kept_updIface h))) KeptOpt.none

theorem kept_gatesCatch (h : Kept a s) : Kept a (gatesCatch s) := by
  unfold gatesCatch
  refine Kept.foldl h fun s e h => ?_
  split
  · exact Kept.ite h (kept_updIface h)
  · exact Kept.ite (kept_raiseBit (kept_wrB (kept_updIface h))) (kept_updIface h)

theorem kept_gateAdvance {i : Nat} (h : Kept a s) : Kept a (gateAdvance s i) := Kept.ite h (Kept.ite (kept_setIface h) h)

theorem kept_execGclEntryAdvance {iface : Nat} (h : Kept a s) : KeptOut a (execGclEntryAdvance iface s) :=
  KeptOut.ite KeptOut.fault (KeptOut.next (kept_gateAdvance h))

theorem kept_enqueue {i q : Nat} {e : EgEnt} (h : Kept a s) : Kept a (enqueue s i q e) := kept_setQueue h

theorem kept_dropHead {i k : Nat} (h : Kept a s) : Kept a (dropHead s i k) := by
  unfold dropHead
  dsimp only
  split
  · exact kept_setQueue h
  · exact kept_setQueue h

theorem kept_policersFinish (h : Kept a s) : Kept a (policersFinish s) := Kept.put (Kept.foldl h fun _ _ => kept_setQueue)

theorem kept_redHead {i k : Nat} (h : Kept a s) : Kept a (redHead s i k).1 :=
  Kept.ite1 (kept_dropHead (Kept.put (Kept.iteElse (Kept.ite h (kept_cntB (kept_setQueue h))) fun h => kept_raiseBit h)))
      (Kept.ite h (kept_cntB (kept_setQueue h)))

theorem kept_considerHead {i k time fuel : Nat} (h : Kept a s) : Kept a (considerHead i k time fuel s).1 := by
  induction fuel generalizing s with
  | zero => exact h
  | succ fuel ih =>
    rw [considerHead]
    dsimp only
    split
    · exact h
    · refine Kept.ite1 h (Kept.ite1 (Kept.ite1 h (kept_cntB (kept_setQueue h))) (Kept.ite1 h ?_))
      split
      · exact Kept.ite1 (ih (kept_redHead (kept_setQueue h))) (kept_redHead (kept_setQueue h))
      · exact kept_setQueue h

theorem kept_qualifying {i time : Nat} {ks : List Nat} (h : Kept a s) : Kept a (qualifying i time ks s).1 := by
  induction ks generalizing s with
  | nil => exact h
  | cons k ks ih =>
    rw [qualifying]
    exact ih (kept_considerHead h)

theorem kept_startHead {i k : Nat} {c : Colour} {tag : Nat} (h : Kept a s) : Kept a (startHead s i k c tag).1 := by
  unfold startHead
  dsimp only
  split
  · exact h
  · exact kept_dropHead (Kept.iteElse (Kept.iteThen (kept_cntB (kept_setQueue h)) fun h => kept_cntB h) fun h => kept_updIface h)

theorem kept_selectFrame {i time : Nat} (h : Kept a s) : Kept a (selectFrame s i time).1 := by
  unfold selectFrame
  dsimp only
  split
  · exact kept_setIface h
  · split
    · exact kept_qualifying h
    · exact kept_startHead (kept_qualifying h)

theorem kept_sendControl {i : Nat} {f : EgFrame} (h : Kept a s) : Kept a (sendControl s i f) := kept_updIface h

theorem kept_execPauseTimeExpiry {iface prio : Nat} (h : Kept a s) : KeptOut a (execPauseTimeExpiry iface prio s) :=
  KeptOut.ite KeptOut.fault (KeptOut.next (kept_updIface h))

/-! ### Operation Table entries -/

theorem kept_setOp {id : Nat} {o : OpEnt} (h : Kept a s) : Kept a (setOp s id o) := Kept.putTier h

theorem kept_updOp {id : Nat} {f : OpEnt → OpEnt} (h : Kept a s) : Kept a (updOp s id f) := Kept.putTier h

theorem kept_takeOp {o : OpEnt} (h : Kept a s) : Kept a (takeOp s o).2 := Kept.iteThen (kept_setOp h) fun h => kept_wrF h

theorem kept_takeOp0 {o : OpEnt} (h : Kept a s) : Kept a (takeOp0 s o) := Kept.ite (kept_takeOp h) (Kept.putTier h)

theorem kept_startOp {o : OpEnt} (h : Kept a s) : Kept a (startOp s o) := Kept.ite (kept_takeOp0 h) (Kept.ite (kept_takeOp h) h)

theorem kept_opFull (h : Kept a s) : Kept a (opFull s) := kept_raiseBit (kept_recordErr h)

theorem kept_endOp {id code : Nat} (h : Kept a s) : Kept a (endOp s id code) := by
  unfold endOp
  dsimp only
  split
  · exact kept_updOp h
  · exact Kept.iteThen (kept_updOp h) fun h => kept_takeOp (Kept.putTier h)

theorem kept_freeOp {id : Nat} (h : Kept a s) : Kept a (freeOp s id) := kept_endOp h

theorem kept_purgeOps (h : Kept a s) : Kept a (purgeOps s) := Kept.putTier h

/-! ### The tree of prefixes -/

theorem kept_setNode {n : Nat} {x : Node} (h : Kept a s) : Kept a (setNode s n x) := Kept.put h

theorem kept_updNode {n : Nat} {f : Node → Node} (h : Kept a s) : Kept a (updNode s n f) := Kept.put h

theorem kept_pfxMatch {c : PfxCtx} {parent : Nat} {chain : List (Nat × List Nat)} (h : Kept a s) : Kept a (pfxMatch s c parent chain).2 := by
  induction chain generalizing s parent with
  | nil => exact h
  | cons e rest ih =>
    rw [pfxMatch]
    split
    · exact kept_cnt h
    · exact Kept.ite2 (ih h) (kept_raiseBit (kept_cnt (kept_cnt h)))

theorem kept_pfxTake {ns : List Nat} (h : Kept a s) : Kept a (pfxTake s ns) := kept_cnt (Kept.foldl h fun _ _ => kept_updNode)

theorem kept_newNode {x : Node} (h : Kept a s) : Kept a (newNode s x).2 := kept_updNode (kept_setNode h)

theorem kept_pfxPublish {c : PfxCtx} {sid limit parent depth : Nat} {pages : Nat → List Nat} {j : Nat} {chain : List (Nat × List Nat)} (h : Kept a s) :
    Kept a (pfxPublish s c sid limit parent depth pages j chain) := by
  induction chain generalizing s parent depth j with
  | nil => exact h
  | cons e rest ih =>
    rw [pfxPublish]
    exact Kept.ite h (Kept.ite h (Kept.ite (kept_raiseBit (kept_cnt h)) (ih (kept_newNode h))))

theorem kept_dropNode {n : Nat} (h : Kept a s) : Kept a (dropNode s n) := by
  unfold dropNode
  split
  · exact h
  · exact kept_updNode (Kept.put h)

theorem kept_pfxRelease {node : Nat} (h : Kept a s) : Kept a (pfxRelease s node) := Kept.foldl h fun _ _ => kept_updNode

theorem kept_pfxFill {ns : List (Nat × Node)} (h : Kept a s) : Kept a (pfxFill s ns) := Kept.foldl h fun _ _ h => kept_updPtes (kept_setNode h)

theorem kept_pfxUnfill {ns : List (Nat × Node)} (h : Kept a s) : Kept a (pfxUnfill s ns) := Kept.foldl h fun _ _ => kept_dropNode

theorem kept_demoteNode {n : Nat} {x : Node} (h : Kept a s) : Kept a (demoteNode s n x) :=
  Kept.ite (kept_cnt (kept_setNode (Kept.foldl h fun _ _ => kept_freeH1))) (Kept.ite (kept_cnt (kept_setNode (kept_takeOp h))) h)

theorem kept_dropWhole {n : Nat} {x : Node} (h : Kept a s) : Kept a (dropWhole s n x) := kept_dropNode (kept_freePages h)

theorem kept_evictH {tenant need : Nat} {xs : List (Nat × Node)} (h : Kept a s) : Kept a (evictH s tenant need xs) := by
  induction xs generalizing s need with
  | nil => exact h
  | cons e xs ih =>
    rw [evictH]
    exact Kept.ite h (Kept.ite (ih (kept_demoteNode h)) (ih h))

theorem kept_evictNodes {need : Nat} {xs : List (Nat × Node)} (h : Kept a s) : Kept a (evictNodes s need xs) := by
  induction xs generalizing s need with
  | nil => exact h
  | cons e xs ih =>
    rw [evictNodes]
    exact Kept.ite h (Kept.ite (ih (kept_cnt (kept_dropWhole h))) (ih (kept_demoteNode h)))

theorem kept_evictF {tenant need : Nat} {xs : List (Nat × Node)} (h : Kept a s) : Kept a (evictF s tenant need xs) := by
  induction xs generalizing s need with
  | nil => exact h
  | cons e xs ih =>
    rw [evictF]
    exact Kept.ite h (Kept.ite (ih (kept_cnt (kept_dropWhole h))) (ih h))

theorem kept_evict {waitH waitF : List (Nat × Nat)} (h : Kept a s) : Kept a (evict s waitH waitF) :=
  Kept.foldl (kept_evictNodes (Kept.foldl (Kept.foldl h fun _ _ => kept_evictH) fun _ _ => kept_evictF)) fun _ _ => kept_dropWhole

theorem kept_pfxRekey {t : Nat} {k : PfxKey} (h : Kept a s) : Kept a (pfxRekey s t k) := kept_wrB (Kept.put h)

theorem kept_pfxKeyChanges (h : Kept a s) : Kept a (pfxKeyChanges s) := Kept.foldl h fun _ _ h => Kept.ite (kept_pfxRekey h) h

/-! ### The Text unit -/

theorem kept_cacheUse (h : Kept a s) : Kept a (cacheUse s) := kept_cnt (kept_cnt (kept_nextFree (kept_nextFree h)))

theorem kept_refuseTxt {b : Blk} {c : Cmd} {code c0 : Nat} (h : Kept a s) : Kept a (refuseTxt s b c code c0) := kept_refuseWith (kept_recordErr h)

theorem kept_loadTable {l : TabLoad} (h : Kept a s) : KeptSum a (loadTable s l) := by
  unfold loadTable
  refine KeptSum.ite KeptSum.inl ?_
  split
  · exact KeptSum.inl
  · rename_i heq
    have ht := (kept_allocPages h).of_eq2 heq
    exact KeptSum.inr (Kept.put (kept_takeOp ht))

theorem kept_startVocabLoad {c : Cmd} {data : List Byte} (h : Kept a s) : Kept a (startVocabLoad c data s) := by
  unfold startVocabLoad
  refine Kept.ite (kept_refuseTxt h) ?_
  split
  · exact kept_finishCmd h
  · dsimp only
    split
    · exact kept_refuseTxt h
    · refine Kept.ite (kept_refuseTxt h) ?_
      refine Kept.ite (kept_refuseTxt h) ?_
      split
      · exact kept_refuseTxt h
      · split
        · exact kept_refuseTxt h
        · rename_i heq
          have ht := (kept_loadTable h).of_eq heq
          exact ht

theorem kept_startGrmLoad {c : Cmd} {data : List Byte} (h : Kept a s) : Kept a (startGrmLoad c data s) := by
  unfold startGrmLoad
  refine Kept.ite (kept_refuseTxt h) ?_
  split
  · exact kept_finishCmd h
  · split
    · exact kept_refuseTxt h
    · dsimp only
      refine Kept.ite (kept_refuseTxt h) ?_
      split
      · exact kept_refuseTxt h
      · split
        · exact kept_refuseTxt h
        · rename_i heq
          have ht := (kept_loadTable h).of_eq heq
          exact ht

theorem kept_tableEvent {retired : Bool} {kind key version : Nat} (h : Kept a s) : Kept a (tableEvent s retired kind key version) := kept_raiseBit h

theorem kept_sealImage {pages : List Nat} (h : Kept a s) : Kept a (sealImage s pages) := kept_startOp h

theorem kept_retireVocab {model : Nat} (h : Kept a s) : Kept a (retireVocab s model) := by
  unfold retireVocab
  split
  · exact Kept.ite h (kept_tableEvent (Kept.put (kept_freePages h)))
  · exact h

theorem kept_retireGrm {table : Nat} (h : Kept a s) : Kept a (retireGrm s table) := by
  unfold retireGrm
  split
  · exact Kept.ite h (kept_tableEvent (Kept.put (kept_freePages h)))
  · exact h

theorem kept_retireTables (h : Kept a s) : Kept a (retireTables s) :=
  Kept.foldl (Kept.foldl h fun _ _ => kept_retireVocab) fun _ _ => kept_retireGrm

theorem kept_installTable {l : TabLoad} (h : Kept a s) : Kept a (installTable s l) := by
  unfold installTable
  dsimp only
  refine kept_stageDone ?_
  refine kept_sealImage ?_
  refine kept_tableEvent ?_
  split
  · exact Kept.put (kept_updPtes (Kept.put h))
  · exact Kept.put (kept_updPtes (Kept.put h))
  · exact kept_updPtes (Kept.put h)

theorem kept_tableUnloaded {c : Cmd} (h : Kept a s) : Kept a (tableUnloaded s c) := by
  unfold tableUnloaded
  dsimp only
  refine Kept.ite ?_ ?_
  · split
    · exact kept_refuseTxt h
    · exact Kept.ite (kept_refuseTxt h) (kept_finishCmd (Kept.put (kept_freePages (kept_freePages h))))
  · split
    · exact kept_refuseTxt h
    · exact Kept.ite (kept_refuseTxt h) (kept_finishCmd (Kept.put (kept_freePages (kept_freePages h))))

theorem kept_startTableUnload {c : Cmd} {x1 : List Byte} (h : Kept a s) : Kept a (startTableUnload c x1 s) :=
  Kept.ite (kept_refuseTxt h) (Kept.ite (kept_tableUnloaded h) (kept_stage h))

theorem kept_setCtx {i : Nat} {x : TxtCtx} (h : Kept a s) : Kept a (setCtx s i x) := Kept.put h

theorem kept_waitTxt {c : Cmd} {data : List Byte} (h : Kept a s) : Kept a (waitTxt s c data) := Kept.put h

theorem kept_startTokenize {c : Cmd} {data : List Byte} (h : Kept a s) : Kept a (startTokenize c data s) := by
  unfold startTokenize
  split
  · exact kept_finishCmd h
  · exact kept_waitTxt h

theorem kept_startDetokenize {c : Cmd} {data : List Byte} (h : Kept a s) : Kept a (startDetokenize c data s) := by
  unfold startDetokenize
  refine Kept.ite (kept_refuseTxt h) ?_
  split
  · exact kept_finishCmd h
  · exact kept_waitTxt h

theorem kept_startStreamAllocate {c : Cmd} {x1 : List Byte} (h : Kept a s) : Kept a (startStreamAllocate c x1 s) := kept_waitTxt h

theorem kept_startStreamFree {c : Cmd} {x1 : List Byte} (h : Kept a s) : Kept a (startStreamFree c x1 s) := kept_waitTxt h

theorem kept_startStreamConfigure {c : Cmd} {data : List Byte} (h : Kept a s) : Kept a (startStreamConfigure c data s) := by
  unfold startStreamConfigure
  refine Kept.ite ?_ (kept_waitTxt h)
  split
  · exact kept_finishCmd h
  · exact kept_waitTxt h

theorem kept_streamNow {c : Cmd} {data : List Byte} (h : Kept a s) : Kept a (streamNow s c data) := by
  unfold streamNow
  refine Kept.ite (kept_refuseTxt h) ?_
  refine Kept.ite ?_ ?_
  · refine Kept.ite (kept_refuseTxt h) ?_
    refine Kept.ite (kept_refuseTxt h) ?_
    split
    · exact kept_refuseTxt h
    · exact kept_stageDone (kept_setCtx h)
  · split
    · exact kept_refuseTxt h
    · refine Kept.ite (kept_refuseTxt h) ?_
      refine Kept.ite (kept_finishCmd (Kept.put h)) ?_
      split
      · exact kept_refuseTxt h
      · exact kept_finishCmd (kept_cnt (kept_setCtx h))

theorem kept_streamFinish (h : Kept a s) : Kept a (streamFinish s) := Kept.foldl (Kept.put h) fun _ _ => kept_streamNow

theorem kept_engineOut {e : Nat} {r : TxtReq} {bytes : List Byte} {w : Nat × Nat × Nat} (h : Kept a s) : Kept a (engineOut s e r bytes w) :=
  Kept.ite (kept_sendCpl h) (kept_issueWrite (Kept.put h))

theorem kept_engineRefuse {r : TxtReq} {code : Nat} (h : Kept a s) : Kept a (engineRefuse s r code) := kept_sendCpl (kept_recordErr h)

theorem kept_putCtx {c : Cmd} {x : TxtCtx} (h : Kept a s) : Kept a (putCtx s c x) := by
  unfold putCtx
  split
  · exact h
  · exact kept_setCtx h

theorem kept_runTokenize {e : Nat} {r : TxtReq} (h : Kept a s) : Kept a (runTokenize s e r) := by
  unfold runTokenize
  split
  · exact kept_engineRefuse h
  · split
    · exact kept_engineRefuse h
    · exact kept_engineOut (kept_putCtx (Kept.iteThen (kept_cnt (kept_cnt (kept_cnt (kept_cnt (kept_cacheUse h))))) fun h =>
          kept_raiseBit h))

theorem kept_runDetokenize {e : Nat} {r : TxtReq} (h : Kept a s) : Kept a (runDetokenize s e r) := by
  unfold runDetokenize
  split
  · exact kept_engineRefuse h
  · split
    · exact kept_engineRefuse h
    · exact kept_engineOut (kept_putCtx (kept_cnt (kept_cnt (kept_cnt (kept_cacheUse h)))))

theorem kept_engineTake {e : Nat} (h : Kept a s) : Kept a (engineTake s e) := by
  unfold engineTake
  refine Kept.ite h ?_
  split
  · exact h
  · exact Kept.ite (kept_runTokenize (Kept.put h)) (kept_runDetokenize (Kept.put h))

theorem kept_touchRec {i : Nat} (h : Kept a s) : Kept a (touchRec s i) := Kept.ite h (kept_updPte h)

theorem kept_setRec {i : Nat} {r : GrmRec} (h : Kept a s) : Kept a (setRec s i r) := kept_touchRec (Kept.put h)

theorem kept_grmReset {i : Nat} (h : Kept a s) : Kept a (grmReset s i) := by
  unfold grmReset
  split
  · exact h
  · split
    · exact h
    · exact kept_setRec h

theorem kept_openText {sid model : Nat} {text : Bool} {table : Nat} (h : Kept a s) : Kept a (openText s sid model text table).2.2 :=
  Kept.ite22 h (Kept.ite22 (kept_setCtx h) (kept_grmReset (kept_setRec (kept_setCtx h))))

theorem kept_grmCommit {i : Nat} {ids : List Nat} (h : Kept a s) : Kept a (grmCommit s i ids) := by
  unfold grmCommit
  split
  · exact h
  · split
    · exact h
    · split
      · exact h
      · exact Kept.iteThen (kept_setRec h) fun h => kept_raiseBit (kept_cnt h)

theorem kept_sendStream {c : Cmd} {kind : Nat} {body : List Byte} (h : Kept a s) : Kept a (sendStream s c kind body) := Kept.putOut h

theorem kept_detokCommit {ctx sid gen epoch first : Nat} {c : Cmd} {ids : List Nat} (h : Kept a s) :
    Kept a (detokCommit s ctx sid gen epoch first c ids).2 := by
  unfold detokCommit
  split
  · exact h
  · split
    · exact h
    · exact Kept.iteElse (kept_cnt (kept_cnt (kept_cnt (kept_setCtx (kept_cacheUse h))))) fun h => kept_sendStream h

theorem kept_closeText {ctx grmRec sid gen epoch position : Nat} {hasGrm : Bool} {c : Cmd} (h : Kept a s) :
    Kept a (closeText s ctx grmRec sid gen epoch position hasGrm c) := by
  unfold closeText
  split
  · exact h
  · exact Kept.iteThen (Kept.put (kept_sendStream (kept_cnt h))) fun h => Kept.put h

theorem kept_streamCommit {ctx : Nat} {grmRec : Option Nat} {sid gen epoch position : Nat} {c : Cmd} {stops : Option (List (List Byte))} (h : Kept a s) :
    Kept a (streamCommit s ctx grmRec sid gen epoch position c stops) := by
  unfold streamCommit
  split
  · exact h
  · dsimp only
    split
    · exact Kept.iteThen (Kept.iteElse (kept_cnt (kept_setCtx h)) fun h => kept_sendStream h) fun h => kept_grmReset h
    · exact Kept.iteElse (kept_cnt (kept_setCtx h)) fun h => kept_sendStream h

theorem kept_maskPut {sid idx ns : Nat} {m : List Bool} (h : Kept a s) : Kept a (maskPut s sid idx ns m) := Kept.put (kept_nextFree h)

theorem kept_textFinish (h : Kept a s) : Kept a (textFinish s) :=
  Kept.put (Kept.iteThen (kept_wrF (kept_wrF (kept_wrF (kept_wrF h)))) fun h => kept_wrF h)

/-! ### What session commands share -/

theorem kept_setSes {sid : Nat} {x : Ses} (h : Kept a s) : Kept a (setSes s sid x) := Kept.put h

theorem kept_updSes {sid : Nat} {f : Ses → Ses} (h : Kept a s) : Kept a (updSes s sid f) := Kept.put h

theorem kept_sesEvent {code : Nat} {d : Desc} (h : Kept a s) : Kept a (sesEvent s code d) := kept_sendEvent h

theorem kept_placePages {base n tenant cls : Nat} {committed : Bool} (h : Kept a s) : KeptOpt a (placePages s base n tenant cls committed) := by
  unfold placePages
  split
  · exact KeptOpt.none
  · exact KeptOpt.some (Kept.foldl h fun _ _ => kept_newPage)

theorem kept_placeIndex {tenant : Nat} {ps : List Nat} (h : Kept a s) : KeptOpt a (placeIndex s tenant ps) := by
  unfold placeIndex
  split
  · exact KeptOpt.none
  · exact KeptOpt.some (Kept.foldl h fun _ _ => kept_newPage)

theorem kept_completeSes {sid : Nat} {c : Cmd} {aux aux2 : Nat} (h : Kept a s) : Kept a (completeSes s sid c aux aux2) := by
  unfold completeSes
  split
  · exact kept_finishCmd h
  · exact Kept.ite (kept_stageDone h) (Kept.iteThen (kept_updSes h) fun h => Kept.put h)

theorem kept_waitDone {d : Desc} {w : DurWait} {dur epoch positions : Nat} (h : Kept a s) : Kept a (waitDone s d w dur epoch positions) :=
  kept_stageDone h

theorem kept_tally {r : TallyRec} (h : Kept a s) : Kept a (tally s r) := Kept.put h

theorem kept_newMeter {tenant : Nat} (h : Kept a s) : Kept a (newMeter s tenant).2 := Kept.put h

theorem kept_journal {bytes : Nat} (h : Kept a s) : Kept a (journal s bytes) := Kept.put h

theorem kept_markJournal {sid : Nat} (h : Kept a s) : Kept a (markJournal s sid) := kept_updSes (kept_journal h)

theorem kept_dirtyReserve {n : Nat} (h : Kept a s) : Kept a (dirtyReserve s n) := Kept.putTier h

theorem kept_dirtyDefer (h : Kept a s) : Kept a (dirtyDefer s) := Kept.putTier (Kept.ite (kept_cnt h) (kept_raiseBit (kept_cnt h)))

/-! ### Capturing a session -/

theorem kept_setTgt {t : Nat} {x : CkpTgt} (h : Kept a s) : Kept a (setTgt s t x) := Kept.put h

theorem kept_updJob {i : Nat} {f : CkpJob → CkpJob} (h : Kept a s) : Kept a (updJob s i f) := Kept.put h

theorem kept_addJob {j : CkpJob} (h : Kept a s) : Kept a (addJob s j) := Kept.put h

theorem kept_wantPages {j : CkpJob} {ps : List Nat} (h : Kept a s) : Kept a (wantPages s j ps) := by
  unfold wantPages
  split
  · exact h
  · exact kept_updOp h

theorem kept_leaveJobs {sid gen tenant : Nat} (h : Kept a s) : Kept a (leaveJobs s sid gen tenant) :=
  Kept.ite (kept_setTgt (Kept.put h)) (Kept.put h)

/-! ### Session commands up to their commit -/

theorem kept_textTaken {x : Ses} {c : Cmd} {data : List Byte} (h : Kept a s) : Kept a (textTaken s x c data) := by
  unfold textTaken
  refine Kept.ite h ?_
  split
  · exact h
  · exact kept_cnt (kept_cnt h)

theorem kept_importLookup {x : Ses} {toks : List Nat} (h : Kept a s) : Kept a (importLookup s x toks).2.2.2.2 :=
  Kept.ite2222 (Kept.ite2222 (kept_pfxMatch h) h) h

theorem kept_holdHead {sid : Nat} {r : Run} (h : Kept a s) : Kept a (holdHead s sid r) := kept_updSes h

theorem kept_holdCommit {sid epoch : Nat} {w : Wait} {k : Commit} (h : Kept a s) : Kept a (holdCommit s sid epoch w k) :=
  kept_stage (kept_holdHead h)

theorem kept_cancelPark {sid : Nat} {x : Ses} (h : Kept a s) : Kept a (cancelPark s sid x) := by
  unfold cancelPark
  split
  · exact kept_stage (kept_updSes (kept_dropCharges (kept_endOp (kept_updPtes h))))
  · exact h

theorem kept_addPages {sid : Nat} {x : Ses} {keys : List Nat} (h : Kept a s) : KeptOpt a (addPages s sid x keys) := by
  unfold addPages
  refine KeptOpt.ite (KeptOpt.some h) ?_
  split
  · exact KeptOpt.none
  · rename_i heq
    have ht := (kept_allocPagesAway h).of_eq2 heq
    exact KeptOpt.some (kept_updSes (Kept.ite (kept_updPtes ht) ht))

theorem kept_copyUp {tenant : Nat} {ps : List Nat} (h : Kept a s) : Kept a (copyUp s tenant ps) :=
  Kept.ite h (Kept.iteElse (Kept.ite h (kept_addCharge (kept_takeOp h))) fun h => kept_addCharge (kept_takeOp h))

theorem kept_goCompute {sid : Nat} {x : Ses} {w : Wait} (h : Kept a s) : KeptOpt a (goCompute s sid x w) := by
  unfold goCompute
  dsimp only
  split
  · exact KeptOpt.none
  · rename_i heq
    have ht := (KeptOpt.bind (kept_addPages h) fun _ h => kept_placeIndex h).of_eq heq
    exact KeptOpt.some (kept_updSes (kept_copyUp (kept_useCharge (kept_textTaken ht))))

theorem kept_goImportBegin {sid : Nat} {x : Ses} {w : Wait} (h : Kept a s) : KeptOpt a (goImportBegin s sid x w) := by
  unfold goImportBegin
  dsimp only
  split
  · exact KeptOpt.none
  · rename_i heq
    have hpages := (KeptOpt.bind2 (kept_placeIndex (kept_importLookup h)) fun t ht =>
      KeptOpt.ite2 (q := allocPagesAway t _ _ _ _ _ _) (o := some (0, t)) (KeptOpt.some ht) (kept_allocPagesAway ht)).of_eq2 heq
    refine KeptOpt.some (kept_holdCommit (Kept.iteElse (kept_pfxPublish (Kept.iteElse (kept_pfxTake hpages) fun k => ?_)) kept_takeOp))
    refine Kept.foldl k fun t l ht => ?_
    split
    · split
      · exact kept_touch (kept_writePage ht)
      · exact ht
    · exact ht

theorem kept_goPark {sid : Nat} {x : Ses} {w : Wait} (h : Kept a s) : Kept a (goPark s sid x w) := kept_updSes (kept_addCharge (kept_takeOp h))

theorem kept_goRevive {sid : Nat} {x : Ses} {w : Wait} (h : Kept a s) : Kept a (goRevive s sid x w) := by
  have hfrom : ∀ {u : State} {ps : List Nat} {o : OpEnt}, Kept a u → Kept a (if ps.isEmpty then u else (takeOp u o).2) := fun hu =>
    Kept.iteElse hu kept_takeOp
  exact kept_updSes (hfrom (hfrom (hfrom (hfrom (kept_addCharge h)))))

theorem kept_goExport {sid : Nat} {x : Ses} {w : Wait} (h : Kept a s) : Kept a (goExport s sid x w) := kept_addJob (kept_takeOp h)

theorem kept_goMove {sid : Nat} {x : Ses} {w : Wait} (h : Kept a s) : Kept a (goMove s sid x w) := kept_takeOp h

theorem kept_goCapture {sid : Nat} {x : Ses} (h : Kept a s) : Kept a (goCapture s sid x) := by
  unfold goCapture
  split
  · exact h
  · exact Kept.ite (kept_updJob h) (kept_wantPages (kept_updJob h))

theorem kept_admitTurn {sid : Nat} {x : Ses} {w : Wait} {waited head : Nat} (h : Kept a s) : Kept a (admitTurn s sid x w waited head) := by
  unfold admitTurn
  dsimp only
  refine Kept.ite (kept_holdHead h) ?_
  refine Kept.ite (kept_holdHead (Kept.iteElse (kept_dirtyDefer h) fun h => kept_takeOp0 h)) ?_
  split
  · refine Kept.ite ?_ (Kept.ite (kept_holdCommit (kept_dirtyReserve h)) (kept_holdCommit h))
    split
    · rename_i heq
      have ht := (kept_goImportBegin h).of_eq heq
      exact ht
    · exact kept_holdHead h
  · split
    · rename_i heq
      have ht := (kept_goCompute h).of_eq heq
      exact ht
    · exact kept_holdHead h
  · split
    · rename_i heq
      have ht := (kept_goCompute h).of_eq heq
      exact ht
    · exact kept_holdHead h
  · exact kept_goPark h
  · exact kept_goRevive h
  · split
    · exact kept_holdHead h
    · exact Kept.ite (kept_holdHead (kept_dirtyDefer h)) (kept_stage (kept_addCharge (kept_dirtyReserve h)))
  · exact kept_goExport h
  · exact kept_holdCommit h
  · exact kept_holdCommit h
  · exact kept_goMove h
  · exact kept_holdCommit h
  · exact kept_holdCommit h
  · exact kept_goCapture h
  · exact h

theorem kept_bindTurn {sid : Nat} {x : Ses} {w : Wait} {waited head : Nat} (h : Kept a s) : Kept a (bindTurn s sid x w waited head) :=
  Kept.ite (kept_admitTurn h) (Kept.ite (kept_holdCommit (kept_cancelPark h)) (kept_admitTurn (kept_cancelPark h)))

theorem kept_bindHead {sid : Nat} {x : Ses} {w : Wait} (h : Kept a s) : Kept a (bindHead s sid x w) := by
  unfold bindHead
  split
  · exact kept_refuseSes h
  · exact kept_bindTurn h

theorem kept_serveGo {sid fuel : Nat} (h : Kept a s) : Kept a (serveGo sid fuel s) := by
  induction fuel generalizing s with
  | zero => exact h
  | succ fuel ih =>
    rw [serveGo]
    split
    · exact h
    · refine Kept.ite h ?_
      split
      · exact h
      · exact Kept.ite h (ih (kept_bindHead (kept_setSes h)))

theorem kept_serve {sid : Nat} (h : Kept a s) : Kept a (serve s sid) := kept_serveGo h

theorem kept_admitOpen {c : Cmd} (h : Kept a s) : Kept a (admitOpen s c).2 := by
  unfold admitOpen
  split
  · dsimp only
    refine Kept.ite2 h (Kept.ite2 (kept_dirtyDefer h) ?_)
    split
    · exact kept_newMeter (tenant := c.f4 0 12) (kept_dirtyReserve h)
    · rename_i heq
      exact kept_stage ((kept_placePages (kept_newMeter (kept_dirtyReserve h))).of_eq heq)
  · exact h

theorem kept_bindOpen {w : Wait} (h : Kept a s) : Kept a (bindOpen s w) := by
  unfold bindOpen
  split
  · exact kept_refuseSes h
  · split
    · rename_i heq
      have ht := (kept_admitOpen h).of_eq2 heq
      exact ht
    · rename_i heq
      have ht := (kept_admitOpen h).of_eq2 heq
      exact Kept.put ht

theorem kept_joinWait {c : Cmd} {data : List Byte} {ready : Bool} (h : Kept a s) : Kept a (joinWait s c data ready) := kept_updSes h

theorem kept_joinOrder {c : Cmd} {data : List Byte} (h : Kept a s) : Kept a (joinOrder s c data) := by
  unfold joinOrder
  split
  · exact kept_refuseSes h
  · exact Kept.iteThen (kept_joinWait h) fun h => kept_serve h

theorem kept_arriveOpen {c : Cmd} (h : Kept a s) : Kept a (arriveOpen s c) := Kept.ite (kept_bindOpen h) (Kept.put h)

theorem kept_startOpen {c : Cmd} {x1 : List Byte} (h : Kept a s) : Kept a (startOpen c x1 s) := kept_arriveOpen h

theorem kept_startSes {c : Cmd} {data : List Byte} (h : Kept a s) : Kept a (startSes c data s) := kept_joinOrder h

theorem kept_startMoveRange {c : Cmd} (h : Kept a s) : Kept a (startMoveRange c s) :=
  Kept.ite (kept_finishCmd (kept_recordErr h)) (Kept.ite (kept_finishCmd (kept_recordErr h)) (Kept.ite (kept_finishCmd (kept_recordErr h))
      (Kept.ite (kept_finishCmd (kept_opFull h)) (kept_takeOp h))))

theorem kept_startMove {c : Cmd} {data : List Byte} (h : Kept a s) : Kept a (startMove c data s) :=
  Kept.ite (kept_joinOrder h) (kept_startMoveRange h)

theorem kept_serveOne {sid : Nat} (h : Kept a s) : Kept a (serveOne s sid) := kept_serveGo h

theorem kept_catchGo {fuel : Nat} {opens : List Wait} (h : Kept a s) : Kept a (catchGo fuel opens s) := by
  induction fuel generalizing s opens with
  | zero => exact h
  | succ fuel ih =>
    unfold catchGo
    split
    · exact h
    · exact ih (kept_bindOpen h)
    · exact ih (kept_serveOne h)
    · exact Kept.ite (ih (kept_bindOpen h)) (ih (kept_serveOne h))

theorem kept_catchSessions (h : Kept a s) : Kept a (catchSessions s) := by
  unfold catchSessions
  dsimp only
  refine kept_catchGo ?_
  refine Kept.put ?_
  refine Kept.foldl h fun s e h => ?_
  split
  · exact Kept.ite h (kept_bindTurn (kept_setSes h))
  · exact h

/-! ### Commits of session commands -/

theorem kept_freeHead {sid : Nat} (h : Kept a s) : Kept a (freeHead s sid) := kept_updSes h

theorem kept_writeList {x : Ses} {keys : List Nat} (h : Kept a s) : Kept a (writeList s x keys) :=
  Kept.foldl (kept_writePage h) fun _ _ => kept_writePage

theorem kept_touchList {x : Ses} {keys : List Nat} (h : Kept a s) : Kept a (touchList s x keys) :=
  Kept.foldl (kept_writeList h) fun _ _ => kept_touch

theorem kept_commitPages {ps : List Nat} (h : Kept a s) : Kept a (commitPages s ps) := kept_updPtes h

theorem kept_sealAfter {sid : Nat} {c : Cmd} (h : Kept a s) : Kept a (sealAfter s sid c) := by
  unfold sealAfter
  split
  · exact h
  · exact Kept.ite (kept_startOp h) h

theorem kept_courseLeave {sid : Nat} (h : Kept a s) : Kept a (courseLeave s sid) := Kept.put h

theorem kept_courseJoin {sid crew : Nat} (h : Kept a s) : Kept a (courseJoin s sid crew) := by
  unfold courseJoin
  split
  · exact h
  · exact Kept.ite h (Kept.put h)

theorem kept_setCrew {sid crew : Nat} (h : Kept a s) : Kept a (setCrew s sid crew) := kept_courseJoin (kept_courseLeave (kept_updSes h))

theorem kept_tallyCommit {x : Ses} {tin tout detok bytes blade cmb : Nat} (h : Kept a s) : Kept a (tallyCommit s x tin tout detok bytes blade cmb) :=
  kept_tally h

theorem kept_writeAlong {at_ n : Nat} {bs : List Byte} (h : Kept a s) : Kept a (writeAlong s at_ n bs) := by
  induction n generalizing s at_ bs with
  | zero => exact h
  | succ n ih =>
    rw [writeAlong]
    exact Kept.ite h (ih (kept_touch (kept_updPte (kept_writePage h))))

theorem kept_putEntry {x : Ses} {h₀ : PlanHdr} {k : Nat} {e : List Nat} (h : Kept a s) : Kept a (putEntry s x h₀ k e) := kept_writeAlong h

theorem kept_commitOpen {sid : Nat} {x : Ses} {c : Cmd} (h : Kept a s) : Kept a (commitOpen s sid x c) :=
  kept_completeSes (kept_sealAfter (kept_markJournal (kept_tally (kept_courseJoin (kept_commitPages (kept_writeList
      (Kept.put (kept_setSes (kept_openText h)))))))))

theorem kept_forkNode {sid sp : Nat} (h : Kept a s) : Kept a (forkNode s sid sp) := by
  unfold forkNode
  split
  · exact h
  · exact kept_updSes (kept_updPtes (kept_newNode h))

theorem kept_forkCopy {src dst keep : Nat} (h : Kept a s) : Kept a (forkCopy s src dst keep) := by
  unfold forkCopy
  split
  · exact h
  · dsimp only
    split
    · exact h
    · exact kept_cnt (kept_touch (kept_fillFrame h))

theorem kept_commitFork {sid child root : Nat} {cap : Ses} {c : Cmd} (h : Kept a s) : Kept a (commitFork s sid child root cap c) := by
  have hforked {l : List Nat} : Kept a (l.foldl (fun s sp => forkNode s sid sp) (dropCharges s child)) :=
    Kept.foldl (kept_dropCharges h) fun _ _ => kept_forkNode
  have hmeter {l m k : List Nat} {x : Ses} : Kept a (newMeter (touchList (m.foldl (fun s n => updNode s n (fun y => { y with refs := y.refs + 1 }))
      (l.foldl (fun s sp => forkNode s sid sp) (dropCharges s child))) x k) cap.d.tenant).2 :=
    kept_newMeter (kept_touchList (Kept.foldl hforked fun _ _ => kept_updNode))
  unfold commitFork
  dsimp only
  split
  · exact kept_refuseSes (kept_dropCharges h)
  · split
    · exact hforked
    · split
      · exact kept_refuseSes hmeter
      · rename_i placed part t heq
        have ht : Kept a t := by
          refine KeptOpt.of_eq (KeptOpt.bind (kept_placePages hmeter) fun u hu => ?_) heq
          split
          · exact kept_placeIndex hu
          · exact KeptOpt.some hu
        split
        · exact kept_refuseSes ht
        · rename_i base u halloc
          have hu : Kept a u := by
            refine KeptOpt.of_eq2 ?_ halloc
            exact KeptOpt.ite2 (KeptOpt.some ht) (kept_allocPages ht)
          refine kept_completeSes (kept_sealAfter (Kept.iteThen (kept_markJournal (kept_markJournal (kept_tally (kept_courseJoin
              (Kept.put ?_))))) fun h => kept_tally h))
          have hcopied {l : List Nat} {pl : Map PlEnt} {key : Nat → Nat} {keep : Nat} : Kept a (l.foldl (fun s l =>
              match mapGet pl (key l) with | some e => forkCopy s e.page (base + l) keep | none => s) u) := by
            refine Kept.foldl hu fun s l hs => ?_
            split
            · exact kept_forkCopy hs
            · exact hs
          split
          · refine Kept.foldl (kept_writeList (kept_setSes ?_)) fun _ _ => kept_putEntry
            exact hcopied
          · refine kept_writeList (kept_setSes ?_)
            exact hcopied

theorem kept_commitImportBegin {sid : Nat} {ns : List Nat} {w : ImpWin} {c : Cmd} (h : Kept a s) : Kept a (commitImportBegin s sid ns w c) := by
  unfold commitImportBegin
  split
  · exact h
  · exact kept_completeSes (kept_markJournal (kept_touchList (kept_setSes h)))

theorem kept_freeWindowOp {sid gen : Nat} (h : Kept a s) : Kept a (freeWindowOp s sid gen) := by
  unfold freeWindowOp
  split
  · exact kept_freeOp h
  · exact h

theorem kept_commitImport {sid : Nat} {c : Cmd} (h : Kept a s) : Kept a (commitImport s sid c) := by
  unfold commitImport
  split
  · exact h
  · split
    · exact kept_freeHead h
    · exact kept_completeSes (kept_sealAfter (kept_markJournal (kept_tallyCommit (Kept.iteElse (kept_freeWindowOp (kept_touchList (kept_setSes
          (kept_commitPages (kept_pfxFill (kept_freePages h)))))) fun h => kept_grmReset h))))

theorem kept_dropWindow {sid : Nat} (h : Kept a s) : Kept a (dropWindow s sid) := by
  unfold dropWindow
  split
  · exact h
  · split
    · exact h
    · exact kept_markJournal (kept_freeWindowOp (kept_setSes (Kept.foldl (kept_freePages (kept_pfxUnfill h)) fun _ _ => kept_updNode)))

theorem kept_commitAbort {sid : Nat} {c : Option Cmd} (h : Kept a s) : Kept a (commitAbort s sid c) := by
  unfold commitAbort
  dsimp only
  split
  · exact kept_completeSes (kept_freeHead (kept_dropWindow h))
  · split
    · exact kept_sesEvent (kept_dropWindow h)
    · exact kept_dropWindow h

theorem kept_spansFilled {sid : Nat} {x : Ses} {p0 : Nat} (h : Kept a s) : Kept a (spansFilled s sid x p0) := Kept.putStk h

theorem kept_commitStep {sid : Nat} {x : Ses} {r : Run} {blade cmb : Nat} (h : Kept a s) : Kept a (commitStep s sid x r blade cmb) :=
  kept_completeSes (kept_sealAfter (kept_markJournal (kept_tallyCommit (kept_spansFilled (Kept.put (kept_touchList (kept_commitPages
      (kept_setSes (Kept.iteElse (Kept.ite2 (Kept.foldl (kept_cnt h) fun _ _ => kept_sendStream) (kept_detokCommit
      (Kept.foldl (kept_cnt h) fun _ _ => kept_sendStream))) fun h => kept_grmCommit h)))))))))

theorem kept_commitAppend {sid : Nat} {x : Ses} {r : Run} {blade cmb : Nat} (h : Kept a s) : Kept a (commitAppend s sid x r blade cmb) := by
  unfold commitAppend
  dsimp only
  refine kept_completeSes (kept_sealAfter (kept_markJournal (kept_tallyCommit (kept_spansFilled (Kept.put (kept_touchList
      (kept_commitPages (kept_setSes (Kept.iteElse ?_ fun h => kept_grmReset h)))))))))
  refine Kept.ite ?_ (Kept.foldl (kept_cnt h) fun _ _ => kept_sendStream)
  split
  · exact kept_setCtx (kept_cacheUse (Kept.foldl (kept_cnt h) fun _ _ => kept_sendStream))
  · exact Kept.foldl (kept_cnt h) fun _ _ => kept_sendStream

theorem kept_commitCompute {sid blade cmb : Nat} (h : Kept a s) : Kept a (commitCompute s sid blade cmb) := by
  unfold commitCompute
  split
  · exact h
  · split
    · exact h
    · exact Kept.ite (kept_commitStep h) (kept_commitAppend h)

theorem kept_commitParkCancelled {sid : Nat} {c : Cmd} (h : Kept a s) : Kept a (commitParkCancelled s sid c) := by
  unfold commitParkCancelled
  dsimp only
  split
  · exact kept_finishCmd (kept_recordErr h)
  · exact kept_stageDone (kept_recordErr h)

theorem kept_commitReviveMoving {sid : Nat} {c : Cmd} (h : Kept a s) : Kept a (commitReviveMoving s sid c) :=
  kept_completeSes (kept_markJournal (kept_freeHead (Kept.ite h (kept_setCrew h))))

theorem kept_enterParked {sid op : Nat} (h : Kept a s) : Kept a (enterParked s sid op) := by
  unfold enterParked
  split
  · exact h
  · dsimp only
    split
    · exact kept_completeSes (kept_markJournal (kept_courseLeave (kept_tally (kept_dropCharges (kept_updSes (Kept.foldl h fun _ _ =>
          kept_freeH1))))))
    · exact kept_markJournal (kept_courseLeave (kept_tally (kept_dropCharges (kept_updSes (Kept.foldl h fun _ _ => kept_freeH1)))))

theorem kept_enterRevived {sid : Nat} {x : Ses} {r : Run} (h : Kept a s) : Kept a (enterRevived s sid x r) :=
  kept_completeSes (kept_markJournal (kept_tally (kept_setCrew (Kept.iteThen (kept_updSes h) fun h => kept_dropCharges h))))

theorem kept_reviveFinish (h : Kept a s) : Kept a (reviveFinish s) := by
  unfold reviveFinish
  refine Kept.foldl h fun s e h => ?_
  dsimp only
  split
  · exact Kept.iteThen (Kept.ite (kept_sesEvent (kept_dropCharges (kept_updSes h))) h) fun h => kept_enterRevived h
  · exact Kept.ite (kept_sesEvent (kept_dropCharges (kept_updSes h))) h

theorem kept_pinHolds (h : Kept a s) : Kept a (pinHolds s) := Kept.foldl h fun _ _ h => Kept.ite h (Kept.ite h (kept_copyUp h))

theorem kept_commitPin {sid : Nat} {c : Cmd} (h : Kept a s) : Kept a (commitPin s sid c) := by
  unfold commitPin
  split
  · exact h
  · exact kept_completeSes (kept_markJournal (Kept.iteThen (Kept.ite (kept_updPtes (kept_setSes h)) (Kept.ite (kept_updPtes (kept_setSes h))
        (kept_updPtes (Kept.foldl (kept_setSes h) fun _ _ => kept_unpinF)))) fun h => kept_startOp h))

theorem kept_dropSes {sid : Nat} {x : Ses} (h : Kept a s) : Kept a (dropSes s sid x) :=
  Kept.putStk (kept_dropCharges (kept_courseLeave (kept_pfxRelease (kept_freePages (kept_freePages h)))))

theorem kept_commitRelease {sid : Nat} {c : Cmd} (h : Kept a s) : Kept a (commitRelease s sid c) := by
  unfold commitRelease
  dsimp only
  split
  · exact kept_dropWindow h
  · exact Kept.foldl (kept_leaveJobs (kept_dropSes (kept_journal (kept_tally (kept_closeText (kept_stageDone
        (Kept.foldl (kept_dropWindow h) fun _ _ => kept_waitDone))))))) fun _ _ => kept_refuseSes

theorem kept_commitJoin {sid crew : Nat} {c : Cmd} (h : Kept a s) : Kept a (commitJoin s sid crew c) :=
  kept_completeSes (kept_markJournal (kept_setCrew (kept_freeHead h)))

theorem kept_commitStream {sid : Nat} {c : Cmd} {data : List Byte} (h : Kept a s) : Kept a (commitStream s sid c data) := by
  unfold commitStream
  split
  · exact h
  · exact kept_completeSes (kept_sealAfter (kept_markJournal (Kept.iteElse (kept_streamCommit (kept_setSes h)) fun h => kept_tallyCommit h)))

theorem kept_commitIdle {sid : Nat} (h : Kept a s) : Kept a (commitIdle s sid) := by
  unfold commitIdle
  split
  · exact h
  · exact Kept.ite (kept_sesEvent (kept_markJournal (kept_updSes h))) h

theorem kept_idleTick (h : Kept a s) : Kept a (idleTick s) := Kept.put h

theorem kept_sealedFinish (h : Kept a s) : Kept a (sealedFinish s) := Kept.foldl h fun _ _ h => Kept.ite (kept_updSes h) h

theorem kept_durFinish (h : Kept a s) : Kept a (durFinish s) :=
  Kept.foldl h fun _ _ h => Kept.iteElse (Kept.foldl h fun _ _ => kept_waitDone) fun h => kept_updSes h

theorem kept_sesFigures (h : Kept a s) : Kept a (sesFigures s) := kept_wrF (kept_wrF (kept_wrF (kept_wrF h)))

theorem kept_deferMetered {ks : List Commit} (h : Kept a s) : Kept a (deferMetered s ks).2 := Kept.ite2 (Kept.putStk h) (Kept.putStk h)

theorem kept_execSessionIdle {sid : Nat} (h : Kept a s) : KeptOut a (execSessionIdle sid s) := by
  unfold execSessionIdle
  refine KeptOut.next ?_
  split
  · exact h
  · exact Kept.ite (kept_stage h) h

theorem kept_execImportWindowTimeout {sid : Nat} (h : Kept a s) : KeptOut a (execImportWindowTimeout sid s) := by
  unfold execImportWindowTimeout
  refine KeptOut.next ?_
  split
  · exact h
  · exact Kept.ite (kept_stage h) h

theorem kept_quotaExpiry {sid : Nat} (h : Kept a s) : Kept a (quotaExpiry s sid) := by
  unfold quotaExpiry
  split
  · exact h
  · split
    · exact h
    · split
      · exact h
      · exact Kept.ite (Kept.iteThen (kept_refuseSes (kept_setSes h)) fun h => kept_serve h) h

theorem kept_openExpiry {i : Nat} (h : Kept a s) : Kept a (openExpiry s i) := by
  unfold openExpiry
  split
  · exact h
  · split
    · exact h
    · split
      · exact h
      · exact Kept.ite (kept_refuseSes (Kept.put h)) h

theorem kept_undoMetered {k : Commit} (h : Kept a s) : Kept a (undoMetered s k) := by
  unfold undoMetered
  split
  · exact kept_refuseSes (kept_freePages h)
  · exact kept_refuseSes (kept_dropCharges h)
  · exact kept_refuseSes (kept_freeHead h)
  · exact kept_refuseSes (kept_freeHead h)
  · split
    · exact kept_refuseSes (kept_freeHead h)
    · exact h
  · exact h

theorem kept_execUmpDownWaitExpiry {sid : Nat} (h : Kept a s) : KeptOut a (execUmpDownWaitExpiry sid s) :=
  KeptOut.next (Kept.ite h (Kept.iteElse (Kept.foldl (Kept.putStk h) fun _ _ => kept_undoMetered) fun h => kept_raiseBit h))

/-! ### The Mover -/

theorem kept_addPath {key n : Nat} (h : Kept a s) : Kept a (addPath s key n) := Kept.putTier h

theorem kept_takePath {src dst cls : Nat} {ps : List Nat} (h : Kept a s) : Kept a (takePath s src dst cls ps) :=
  Kept.ite (Kept.foldl (kept_addPath h) fun _ _ => kept_addPath) (Kept.iteThen (kept_addPath h) fun h => Kept.foldl h fun _ _ => kept_addPath)

theorem kept_grantPages {id : Nat} {ps : List Nat} (h : Kept a s) : Kept a (grantPages s id ps) := by
  unfold grantPages
  dsimp only
  refine kept_updPtes ?_
  refine kept_updOp ?_
  split
  · exact kept_takePath h
  · exact h

theorem kept_reserveSlice {o : OpEnt} {ps : List Nat} (h : Kept a s) : Kept a (reserveSlice s o ps).2 :=
  Kept.ite2 (kept_dirtyReserve (Kept.ite (kept_dirtyDefer h) h)) h

theorem kept_serveOps {room : Nat} {ops : List (Nat × OpEnt)} (h : Kept a s) : Kept a (serveOps s room ops).2 := by
  induction ops generalizing s room with
  | nil => exact h
  | cons e rest ih =>
    rw [serveOps]
    split
    · exact ih h
    · exact ih (kept_grantPages (kept_reserveSlice h))

theorem kept_tryFinal {room id : Nat} {o : OpEnt} (h : Kept a s) : Kept a (tryFinal s room id o).2 := by
  unfold tryFinal
  dsimp only
  refine Kept.ite2 ?_ h
  split
  · exact kept_updSes (kept_cnt (kept_grantPages (kept_updOp h)))
  · exact kept_cnt (kept_grantPages (kept_updOp h))

theorem kept_startSys (h : Kept a s) : Kept a (startSys s) := Kept.foldl h fun _ _ h => Kept.ite h (kept_updOp (kept_addPath h))

theorem kept_startRounds (h : Kept a s) : Kept a (startRounds s) := Kept.putTier h

theorem kept_serveFirst {src dst : Nat} (h : Kept a s) : Kept a (serveFirst s src dst) := foldl_kept2 (kept_serveOps h) fun _ _ => kept_tryFinal

theorem kept_servePath {src dst : Nat} (h : Kept a s) : Kept a (servePath s src dst) :=
  kept_serveOps (kept_serveOps (kept_serveOps (kept_serveOps h)))

theorem kept_catchFinals (h : Kept a s) : Kept a (catchFinals s) :=
  Kept.foldl (kept_startRounds (kept_startSys (Kept.putTier h))) fun _ _ => kept_serveFirst

theorem kept_catchMover (h : Kept a s) : Kept a (catchMover s) := Kept.foldl (kept_startRounds h) fun _ _ => kept_servePath

theorem kept_damageEvent {d : Desc} (h : Kept a s) : Kept a (damageEvent s d) := kept_raiseBit h

theorem kept_losePage {p : Nat} (h : Kept a s) : Kept a (losePage s p) :=
  Kept.foldl (kept_updPte (kept_freeF1 (kept_freeH1 h))) fun _ _ h => Kept.ite (Kept.ite (kept_stage (kept_updSes h)) (kept_damageEvent
      (kept_updSes h))) h

theorem kept_ringTake {id p : Nat} {cells : Map Byte} (h : Kept a s) : Kept a (ringTake s id p cells) :=
  Kept.foldl (kept_updPte h) fun _ _ h => Kept.ite (kept_fillFrame h) h

theorem kept_copyAgain {id p : Nat} {o : OpEnt} (h : Kept a s) : Kept a (copyAgain s id p o) := kept_updPte (kept_setOp h)

theorem kept_copyFault {id p : Nat} {o : OpEnt} {r : CopyEnd} (h : Kept a s) : Kept a (copyFault s id p o r) := by
  unfold copyFault
  split
  · exact Kept.ite h (kept_noteErr (kept_recordErr (kept_copyAgain h)))
  · exact Kept.ite h (kept_noteErr (kept_recordErr (kept_copyAgain h)))
  · exact h
  · exact h

theorem kept_pageCopied {id p : Nat} {r : CopyEnd} (h : Kept a s) : Kept a (pageCopied s id p r) := by
  unfold pageCopied
  dsimp only
  split
  · exact h
  · refine Kept.ite h ?_
    refine Kept.ite (kept_copyFault h) ?_
    refine Kept.ite (kept_copyAgain h) ?_
    split
    · exact Kept.ite (kept_ringTake (kept_cnt (kept_setOp h))) (kept_stage (kept_setOp h))
    · exact kept_losePage (Kept.ite (kept_noteErr (kept_recordErr (Kept.iteThen (Kept.put (kept_setOp h)) fun h => kept_raiseBit h)))
          (kept_noteErr (kept_recordErr (kept_cntI (Kept.iteThen (Kept.put (kept_setOp h)) fun h => kept_raiseBit h)))))

theorem kept_execMoverPageCopied {op page : Nat} {res : CopyEnd} (h : Kept a s) : KeptOut a (execMoverPageCopied op page res s) :=
  KeptOut.next (kept_pageCopied h)

theorem kept_landH {p : Nat} {e : Pte} {mask : Nat} {cells : Map Byte} (h : Kept a s) : KeptOpt a (landH s p e mask cells) := by
  unfold landH
  dsimp only
  split
  · exact KeptOpt.some (kept_setPte (kept_fillFrame (Kept.putTier h)))
  · exact KeptOpt.none

theorem kept_adoptCopy {id p ver dst : Nat} (h : Kept a s) : Kept a (adoptCopy s id p ver dst) := Kept.ite h (Kept.putTier h)

theorem kept_applyLanded {id p ver : Nat} {cells : Map Byte} (h : Kept a s) : Kept a (applyLanded s id p ver cells) := by
  unfold applyLanded
  split
  · dsimp only
    split
    · exact Kept.iteElse (kept_updPte h) fun h => kept_cnt (kept_adoptCopy (kept_useCharge (kept_putSealed h)))
    · refine Kept.ite (kept_cnt (kept_fillFrame (kept_updPte h))) ?_
      refine Kept.ite ?_ ?_
      · refine Kept.ite ?_ ?_
        · split
          · exact KeptOpt.getD (kept_landH (kept_freeH1 (kept_cnt (kept_updPte h)))) (kept_freeH1 (kept_cnt (kept_updPte h)))
          · exact kept_freeH1 (kept_cnt (kept_updPte h))
        · split
          · exact kept_fillFrame (kept_cnt (kept_updPte h))
          · split
            · exact kept_updOp (kept_fillFrame (Kept.putTier (kept_cnt (kept_updPte h))))
            · exact kept_updOp (kept_cnt (kept_updPte h))
      · refine Kept.ite (Kept.iteThen (kept_updPte h) fun h => Kept.putTier (kept_fillFrame h)) ?_
        split
        · rename_i heq
          have ht := (kept_landH (kept_updPte h)).of_eq heq
          exact kept_cnt (kept_adoptCopy (kept_useCharge ht))
        · exact kept_updOp (kept_updPte h)
    · exact kept_cnt (kept_updPte h)
  · exact h

theorem kept_switchFrames {o : OpEnt} (h : Kept a s) : Kept a (switchFrames s o) := by
  unfold switchFrames
  refine Kept.foldl h fun s e h => ?_
  dsimp only
  split
  · exact Kept.putTier h
  · exact Kept.ite (kept_setPte (Kept.putTier (kept_zeroFrame h))) (Kept.putTier h)

theorem kept_dropTargets {o : OpEnt} (h : Kept a s) : Kept a (dropTargets s o) := Kept.foldl h fun _ _ h => kept_zeroFrame (Kept.putTier h)

theorem kept_moveDone {o : OpEnt} {status : Nat} (h : Kept a s) : Kept a (moveDone s o status) := by
  unfold moveDone
  split
  · exact h
  · split
    · exact kept_stageDone h
    · exact kept_stageDone (Kept.ite (kept_recordErr h) h)

theorem kept_demoted {o : OpEnt} (h : Kept a s) : Kept a (demoted s o) := by
  unfold demoted
  split
  · exact h
  · exact Kept.ite (kept_setNode (Kept.foldl h fun _ _ => kept_freeH1)) (kept_setNode h)

theorem kept_opDone {id : Nat} {o : OpEnt} (h : Kept a s) : Kept a (opDone s id o) := by
  unfold opDone
  split
  · split
    · exact kept_freeOp (kept_enterParked (kept_setOp h))
    · exact kept_endOp h
  · exact kept_freeOp (kept_demoted h)
  · exact kept_freeOp (kept_moveDone (kept_switchFrames (kept_setOp h)))
  · exact kept_freeOp (kept_dropCharges h)

theorem kept_opNoConv {id : Nat} {o : OpEnt} (h : Kept a s) : Kept a (opNoConv s id o) := by
  unfold opNoConv
  dsimp only
  refine Kept.ite ?_ (kept_endOp (kept_moveDone (kept_dropTargets (kept_raiseBit (kept_cnt (kept_recordErr h))))))
  split
  · split
    · exact kept_stageDone (kept_dropCharges (kept_endOp (kept_updSes (kept_raiseBit (kept_cnt (kept_recordErr h))))))
    · exact kept_dropCharges (kept_endOp (kept_updSes (kept_raiseBit (kept_cnt (kept_recordErr h)))))
  · exact kept_endOp (kept_raiseBit (kept_cnt (kept_recordErr h)))

theorem kept_opRound {id : Nat} {o : OpEnt} (h : Kept a s) : Kept a (opRound s id o) :=
  Kept.ite (kept_endOp (kept_moveDone (kept_dropTargets h))) (Kept.ite (kept_opDone h) (Kept.ite (kept_setOp h) (Kept.ite (kept_setOp h)
      (Kept.ite (kept_setOp h) (kept_opNoConv h)))))

theorem kept_sysArrived {id : Nat} {o : OpEnt} (h : Kept a s) : Kept a (sysArrived s id o) := by
  unfold sysArrived
  split
  · exact h
  · exact Kept.ite h (kept_freeOp (kept_updOp (Kept.putTier h)))

theorem kept_moverFinish (h : Kept a s) : Kept a (moverFinish s) := by
  unfold moverFinish
  refine Kept.foldl (kept_purgeOps h) fun s e h => ?_
  split
  · exact h
  · exact Kept.ite h (Kept.ite (kept_sysArrived h) (Kept.ite (Kept.ite (kept_opRound h) h)
        (Kept.ite h (Kept.ite h (Kept.ite (kept_opDone h) h)))))

theorem kept_cleanClass {st : Cleaning} (h : Kept a s) : Kept a (cleanClass s st) := Kept.putTier h

theorem kept_cleanFinish (h : Kept a s) : Kept a (cleanFinish s) :=
  Kept.iteElse (kept_cleanClass (Kept.putTier h)) fun k1 => Kept.iteElse k1 fun h => kept_startOp h

theorem kept_applyTouched {ps : List Nat} (h : Kept a s) : Kept a (applyTouched s ps) := kept_updPtes h

theorem kept_foldLeaves (h : Kept a s) : Kept a (foldLeaves s) := Kept.putTier h

theorem kept_execLeafUnfold {leaf : Nat} (h : Kept a s) : KeptOut a (execLeafUnfold leaf s) := KeptOut.next (Kept.putTier h)

theorem kept_advise {reason kind from_ to_ pages object tenant : Nat} (h : Kept a s) : Kept a (advise s reason kind from_ to_ pages object tenant) :=
  Kept.ite h (kept_raiseBit (Kept.putTier h))

theorem kept_adviseParks (h : Kept a s) : Kept a (adviseParks s) := Kept.foldl h fun _ _ => kept_advise

theorem kept_adviseLane {reason lane : Nat} (h : Kept a s) : Kept a (adviseLane s reason lane) :=
  Kept.foldl h fun _ _ h => Kept.ite h (kept_advise h)

theorem kept_tierFigures (h : Kept a s) : Kept a (tierFigures s) :=
  Kept.putTier (Kept.iteThen (Kept.iteThen (kept_wrF (kept_wrF (kept_wrF (kept_wrF (kept_wrF (kept_wrF h)))))) fun h => kept_adviseParks
      (kept_raiseBit h)) fun h => kept_raiseBit h)

/-! ### Lane dies -/

theorem kept_reduceFigures {lane : Nat} (h : Kept a s) : Kept a (reduceFigures s lane) := kept_wrI (kept_wrI h)

theorem kept_reduceError {k lane g : Nat} (h : Kept a s) : Kept a (reduceError s k lane g) := kept_noteErr (kept_recordErr (kept_poisonLeg h))

theorem kept_deliver {k lane : Nat} {e : TagEnt} {pairs bytes : List Byte} {poison : Bool} (h : Kept a s) :
    Kept a (deliver s k lane e pairs bytes poison) :=
  Kept.ite (kept_cntI (kept_poisonLeg (Kept.put h))) (Kept.put h)

theorem kept_setTag {i : Nat} {t : TagSt} (h : Kept a s) : Kept a (setTag s i t) := Kept.put h

theorem kept_tagStep {k lane : Nat} {e : TagEnt} {t : TagSt} {pairs bytes : List Byte} (h : Kept a s) : Kept a (tagStep s k lane e t pairs bytes) :=
  Kept.ite (kept_setTag h) (kept_deliver (kept_setTag h))

theorem kept_reduceIn {g : Nat} {x : Ship} (h : Kept a s) : Kept a (reduceIn s g x) := by
  unfold reduceIn
  dsimp only
  split
  · exact kept_reduceError (Kept.ite (kept_poisonLeg h) h)
  · refine Kept.ite (kept_reduceError (Kept.ite (kept_poisonLeg h) h)) ?_
    refine Kept.ite ?_ (Kept.ite (kept_reduceError (Kept.ite (kept_poisonLeg h) h))
        (Kept.ite (Kept.ite (kept_deliver (kept_setTag (Kept.ite (kept_poisonLeg h) h))) (kept_tagStep (Kept.ite (kept_poisonLeg h) h)))
        (Kept.ite (kept_tagStep (Kept.ite (kept_poisonLeg h) h)) (kept_tagStep (Kept.ite (kept_poisonLeg h) h)))))
    refine Kept.ite (Kept.ite (kept_setTag (Kept.ite (kept_poisonLeg h) h)) (kept_reduceError (Kept.ite (kept_poisonLeg h) h))) ?_
    split
    · exact kept_reduceError (Kept.ite (kept_poisonLeg h) h)
    · exact Kept.ite (kept_reduceError (kept_setTag (Kept.ite (kept_poisonLeg h) h)))
          (Kept.ite (kept_tagStep (Kept.ite (kept_poisonLeg h) h)) (kept_tagStep (Kept.ite (kept_poisonLeg h) h)))

theorem kept_closeTags {k lane : Nat} (h : Kept a s) : Kept a (closeTags s k lane) :=
  Kept.ite h (Kept.put (Kept.ite (kept_noteErr (kept_recordErr (kept_poisonLeg h))) h))

theorem kept_takeLeg {k g : Nat} (h : Kept a s) : Kept a (takeLeg s k g) := Kept.ite h (kept_beginLeg h)

theorem kept_qload {k g : Nat} {x : SchedEnt} (h : Kept a s) : Kept a (qload s k g x) := kept_sramPut (kept_sramPut (kept_takeLeg h))

theorem kept_segLoad {k t g : Nat} {x : SchedEnt} (h : Kept a s) : Kept a (segLoad s k t g x) :=
  Kept.foldl (kept_takeLeg h) fun _ _ => kept_sramPut

theorem kept_setBus {pc : Nat} {b : BusSt} (h : Kept a s) : Kept a (setBus s pc b) := Kept.put h

theorem kept_busBytes {pc beats : Nat} (h : Kept a s) : Kept a (busBytes s pc beats) := kept_cntI h

theorem kept_busParity {k g : Nat} (h : Kept a s) : Kept a (busParity s k g) := kept_noteErr (kept_recordErr (kept_cntI (kept_poisonLeg h)))

theorem kept_doSched {pc k : Nat} {x : SchedEnt} {parity : Bool} (h : Kept a s) : Kept a (doSched s pc k x parity) :=
  Kept.iteThen (kept_setBus (Kept.foldl (kept_busBytes h) fun _ _ h => Kept.ite (kept_qload h) (kept_segLoad h))) fun h => kept_busParity h

theorem kept_doShip {pc g : Nat} {x : Ship} {xs : List Ship} {parity : Bool} (h : Kept a s) : Kept a (doShip s pc g x xs parity) :=
  Kept.iteElse (kept_updRun (kept_setBus (kept_busBytes h))) fun k1 => kept_reduceFigures (kept_closeTags (kept_reduceIn
      (Kept.iteThen k1 fun h => kept_busParity h)))

theorem kept_exchangePc {pc : Nat} (h : Kept a s) : Kept a (exchangePc s pc) := Kept.foldl h fun _ _ h => Kept.put h

theorem kept_saveBlade {image g : Nat} (h : Kept a s) : Kept a (saveBlade s image g) := Kept.put h

theorem kept_restoreBlade {c : Ctx} {g at_ : Nat} (h : Kept a s) : Kept a (restoreBlade s c g at_) := by
  unfold restoreBlade
  split
  · exact Kept.put h
  · dsimp only
    split
    · exact kept_putResident (Kept.put h)
    · exact Kept.put h

theorem kept_restorePc {c : Ctx} {pc at_ : Nat} (h : Kept a s) : Kept a (restorePc s c pc at_) := Kept.foldl h fun _ _ => kept_restoreBlade

theorem kept_switchBlade {pc : Nat} {w : Switch} (h : Kept a s) : Kept a (switchBlade s pc w) := by
  unfold switchBlade
  dsimp only
  refine Kept.put ?_
  split
  · split
    · exact kept_saveBlade (kept_busBytes h)
    · exact kept_busBytes h
  · exact kept_restoreBlade (kept_busBytes h)

theorem kept_doSwitchBus {pc : Nat} {w : Switch} {parity : Bool} (h : Kept a s) : Kept a (doSwitchBus s pc w parity) :=
  Kept.ite (kept_switchBlade h) (Kept.put (kept_noteErr (kept_recordErr (kept_recordErr (kept_cntI (kept_busBytes h))))))

theorem kept_busTransfer {pc : Nat} {parity : Bool} (h : Kept a s) : Kept a (busTransfer s pc parity) := by
  unfold busTransfer
  split
  · exact kept_doSched h
  · split
    · exact kept_doShip h
    · split
      · exact Kept.ite (kept_doSwitchBus h) h
      · exact h

theorem kept_execLaneBusTransfer {pc : Nat} {parity : Bool} (h : Kept a s) : KeptOut a (execLaneBusTransfer pc parity s) :=
  KeptOut.ite KeptOut.fault (KeptOut.next (kept_busTransfer h))

theorem kept_legEnd {g : Nat} (h : Kept a s) : Kept a (legEnd s g) := by
  unfold legEnd
  split
  · exact h
  · dsimp only
    split
    · exact h
    · split
      · exact h
      · exact Kept.ite h (kept_reduceFigures (kept_closeTags (kept_idleSlot (kept_updLeg (kept_updRun (kept_runToPull (kept_takeLeg h)))))))

theorem kept_execLegEnd {blade : Nat} (h : Kept a s) : KeptOut a (execLegEnd blade s) := KeptOut.ite KeptOut.fault (KeptOut.next (kept_legEnd h))

theorem kept_controlSlot {g row : Nat} {wr : Option (List Byte)} {flips : List (Nat × Byte)} (h : Kept a s) : Kept a (controlSlot s g row wr flips) :=
    by
  unfold controlSlot
  dsimp only
  refine Kept.ite h ?_
  refine Kept.ite (kept_cntI h) ?_
  split
  · exact kept_touchFrame (kept_writeFrame (kept_chargeSlot (Kept.ite h (kept_cntI h))))
  · exact kept_pullNotes (kept_chargeSlot (Kept.ite h (kept_cntI h)))

theorem kept_execControlDieSlot {blade row : Nat} {wr : Option (List Byte)} {flips : List (Nat × Byte)} (h : Kept a s) :
    KeptOut a (execControlDieSlot blade row wr flips s) :=
  KeptOut.ite KeptOut.fault (KeptOut.next (kept_controlSlot h))

/-! ### The lanes' governors -/

theorem kept_overrides {k : Nat} (h : Kept a s) : Kept a (overrides s k) :=
  Kept.ite (Kept.put h) (Kept.foldl (Kept.put h) fun _ _ h => kept_raiseBit (kept_cntI h))

theorem kept_governCatch (h : Kept a s) : Kept a (governCatch s) :=
  Kept.foldl h fun _ _ h => kept_overrides (kept_wrI (kept_wrI (kept_wrI h)))

theorem kept_slowRestart {k : Nat} (h : Kept a s) : Kept a (slowRestart s k) := Kept.put h

theorem kept_holdEnd {k : Nat} (h : Kept a s) : Kept a (holdEnd s k) := kept_raiseBit (kept_wrI (kept_wrI (kept_wrI (kept_slowRestart h))))

theorem kept_applyGov {k w : Nat} (h : Kept a s) : Kept a (applyGov s k w) :=
  Kept.ite (kept_wrI (kept_wrWord h)) (Kept.iteThen (kept_wrI (kept_wrWord h)) fun h => kept_wrI (kept_slowRestart h))

theorem kept_spend {k n : Nat} (h : Kept a s) : Kept a (spend s k n) := Kept.put h

theorem kept_governCounts (h : Kept a s) : Kept a (governCounts s) := Kept.foldl h fun _ _ h => Kept.ite (kept_wrI (kept_wrI h)) (kept_wrI h)

theorem kept_governFinish {energy : List Nat} (h : Kept a s) : Kept a (governFinish s energy) :=
  Kept.put (Kept.foldl h fun _ _ h => Kept.ite (kept_cntI (Kept.putStk (kept_wrI h))) (kept_wrI h))

theorem kept_slowLoop {k predict : Nat} (h : Kept a s) : Kept a (slowLoop s k predict) := Kept.ite h (kept_wrI (kept_wrI (kept_slowRestart h)))

theorem kept_execSlowThermalLoop {lane predict : Nat} (h : Kept a s) : KeptOut a (execSlowThermalLoop lane predict s) :=
  KeptOut.ite KeptOut.fault (KeptOut.next (kept_slowLoop h))

theorem kept_seeTemp {k die temp : Nat} (h : Kept a s) : Kept a (seeTemp s k die temp) := kept_wrI (kept_wrI h)

theorem kept_setHot {k : Nat} (h : Kept a s) : Kept a (setHot s k) := Kept.ite h (kept_raiseBit (kept_wrI h))

theorem kept_hotSet {k die temp : Nat} (h : Kept a s) : Kept a (hotSet s k die temp) := Kept.ite h (kept_setHot (kept_seeTemp h))

theorem kept_execLaneHotSet {lane die temp : Nat} (h : Kept a s) : KeptOut a (execLaneHotSet lane die temp s) :=
  KeptOut.ite KeptOut.fault (KeptOut.next (kept_hotSet h))

theorem kept_hotClear {k temp : Nat} (h : Kept a s) : Kept a (hotClear s k temp) := Kept.ite h (Kept.put (Kept.put (kept_wrI (kept_wrI h))))

theorem kept_execLaneHotClear {lane temp : Nat} (h : Kept a s) : KeptOut a (execLaneHotClear lane temp s) :=
  KeptOut.ite KeptOut.fault (KeptOut.next (kept_hotClear h))

theorem kept_stopLegs {hit : Nat → Bool} (h : Kept a s) : Kept a (stopLegs s hit) := Kept.putStk h

theorem kept_tempTrip {k die temp : Nat} (h : Kept a s) : Kept a (tempTrip s k die temp) :=
  Kept.ite h (Kept.iteElse (kept_setHot (kept_seeTemp h)) fun h => kept_overrides (kept_raiseBit (Kept.putStk (kept_stopLegs (Kept.put h)))))

theorem kept_execLaneTempTrip {lane die temp : Nat} (h : Kept a s) : KeptOut a (execLaneTempTrip lane die temp s) :=
  KeptOut.ite KeptOut.fault (KeptOut.next (kept_tempTrip h))

theorem kept_execSprintHoldEnd {lane : Nat} (h : Kept a s) : KeptOut a (execSprintHoldEnd lane s) :=
  KeptOut.ite KeptOut.fault (KeptOut.next (Kept.ite (kept_holdEnd h) h))

theorem kept_execColdStartEnd {lane : Nat} (h : Kept a s) : KeptOut a (execColdStartEnd lane s) :=
  KeptOut.ite KeptOut.fault (KeptOut.next (Kept.ite (kept_raiseBit (Kept.put h)) h))

theorem kept_coldStart {k : Nat} (h : Kept a s) : Kept a (coldStart s k) := Kept.put (kept_wrI (kept_wrI h))

/-! ### Combine programs -/

theorem kept_storePut {g off : Nat} {bs : List Byte} (h : Kept a s) : Kept a (storePut s g off bs) := Kept.put h

theorem kept_putLogits {p : Pass} {t : Nat} {bits : List Nat} (h : Kept a s) : Kept a (putLogits s p t bits) := by
  unfold putLogits
  split
  · exact h
  · split
    · exact h
    · split
      · exact h
      · refine Kept.ite h ?_
        dsimp only
        split
        · exact Kept.ite h (kept_cnt h)
        · exact kept_updSes (Kept.ite h (kept_cnt h))

theorem kept_cmbRun {k : Nat} {l : GLeg} {g at_ : Nat} {i : CmbIns} (h : Kept a s) : Kept a (cmbRun s k l g at_ i) := by
  unfold cmbRun
  dsimp only
  split
  · exact kept_storePut h
  · exact kept_storePut h
  · split
    · exact h
    · exact kept_storePut h
  · split
    · exact h
    · split
      · exact h
      · exact kept_storePut h
  · split
    · exact h
    · exact kept_storePut h
  · exact kept_storePut h
  · exact kept_storePut (Kept.ite h (kept_cntI h))
  · exact Kept.put h
  · split
    · exact Kept.put (kept_cnt (kept_storePut h))
    · exact kept_storePut h
  · split
    · exact h
    · split
      · exact h
      · split
        · exact kept_storePut h
        · exact kept_storePut h
  · split
    · exact h
    · exact kept_putLogits h
  · exact kept_storePut h
  · exact h

theorem kept_combineStep {k g : Nat} {bad : Option Nat} (h : Kept a s) : Kept a (combineStep s k g bad) := by
  unfold combineStep
  split
  · exact h
  · dsimp only
    split
    · exact h
    · refine Kept.ite h ?_
      split
      · exact Kept.put (kept_updLeg (kept_cmbRun h))
      · exact kept_noteErr (kept_recordErr (kept_cntI (kept_poisonLeg (Kept.put (kept_updLeg (kept_cmbRun h))))))

theorem kept_execCombineInstruction {leg group : Nat} {fault : Option Nat} (h : Kept a s) : KeptOut a (execCombineInstruction leg group fault s) :=
  KeptOut.ite KeptOut.fault (KeptOut.next (kept_combineStep h))

theorem kept_cmbFigures (h : Kept a s) : Kept a (cmbFigures s) := Kept.put (Kept.foldl h fun _ _ h => kept_wrI (kept_wrI h))

/-! ### Fit records -/

theorem kept_noteNofit {w : Nat} (h : Kept a s) : Kept a (noteNofit s w) := kept_wrWord h

theorem kept_markNofit {w : Nat} (h : Kept a s) : Kept a (markNofit s w) := kept_raiseBit (kept_noteNofit h)

/-! ### Plans and expert sets -/

theorem kept_refusePlan {c : Cmd} {e : PlanErr} (h : Kept a s) : Kept a (refusePlan s c e) :=
  kept_stageDone (Kept.ite (kept_recordErr h) (Kept.ite (kept_recordErr h) (Kept.ite (kept_recordErr h) (Kept.ite (kept_recordErr h)
      (Kept.ite (kept_opFull h) (Kept.ite (kept_recordErr h) (Kept.ite (kept_recordErr h) (kept_recordErr h))))))))

theorem kept_takeFrame {p f : Nat} (h : Kept a s) : Kept a (takeFrame s p f) := Kept.ite (kept_setPte h) (kept_newPage h)

theorem kept_clearFrames {fs : List Nat} (h : Kept a s) : Kept a (clearFrames s fs) := Kept.ite h (kept_takeOp h)

theorem kept_beginLoad {c : Cmd} {p : Plan} {fs : List (Nat × Nat)} (h : Kept a s) : Kept a (beginLoad s c p fs) :=
  Kept.put (kept_takeOp (Kept.foldl (kept_clearFrames h) fun _ _ => kept_takeFrame))

theorem kept_loadModel {c : Cmd} {p : Plan} {fs : List (Nat × Nat)} (h : Kept a s) : Kept a (loadModel s c p fs) := by
  unfold loadModel
  dsimp only
  split
  · exact kept_refusePlan h
  · split
    · exact kept_refusePlan (kept_markNofit h)
    · exact Kept.ite (kept_beginLoad h) (kept_refusePlan h)

theorem kept_loadSet {c : Cmd} {img : List Byte} {h₀ : PlanHdr} {ss : List Sect} (h : Kept a s) : Kept a (loadSet s c img h₀ ss) := by
  unfold loadSet
  split
  · exact kept_refusePlan h
  · exact kept_refusePlan h
  · dsimp only
    refine Kept.ite (kept_refusePlan h) ?_
    split
    · exact kept_refusePlan h
    · exact Kept.ite (kept_refusePlan h) (Kept.ite (kept_beginLoad h) (kept_refusePlan h))

theorem kept_startPlanLoad {c : Cmd} {data : List Byte} (h : Kept a s) : Kept a (startPlanLoad c data s) := by
  unfold startPlanLoad
  refine Kept.ite (kept_refusePlan h) ?_
  split
  · exact kept_finishCmd h
  · split
    · exact kept_refusePlan h
    · refine Kept.ite (kept_refusePlan h) ?_
      refine Kept.ite (Kept.ite (kept_loadSet h) (kept_refusePlan h)) ?_
      split
      · exact kept_refusePlan h
      · exact kept_loadModel h
      · exact kept_refusePlan h

theorem kept_execPlanLoad {c : Cmd} {data : List Byte} (h : Kept a s) : KeptOut a (execPlanLoad c data s) :=
  KeptOut.next (kept_submit h (fun _ _ _ h => kept_startPlanLoad h))

theorem kept_dropContexts {model version : Nat} (h : Kept a s) : Kept a (dropContexts s model version) := Kept.put h

theorem kept_removeModel {model : Nat} (h : Kept a s) : Kept a (removeModel s model) := by
  unfold removeModel
  split
  · exact h
  · exact Kept.put (Kept.foldl h fun _ _ h => kept_dropContexts (kept_freePages h))

theorem kept_removeSet {key : Nat} (h : Kept a s) : Kept a (removeSet s key) := by
  unfold removeSet
  split
  · exact h
  · exact Kept.put (Kept.foldl h fun _ _ => kept_freePages)

theorem kept_planUnloaded {c : Cmd} (h : Kept a s) : Kept a (planUnloaded s c) :=
  Kept.ite (Kept.ite (kept_refusePlan h) (kept_finishCmd (kept_removeModel h))) (Kept.ite (Kept.put h) (kept_finishCmd (kept_removeSet h)))

theorem kept_startPlanUnload {c : Cmd} {x1 : List Byte} (h : Kept a s) : Kept a (startPlanUnload c x1 s) :=
  Kept.ite (kept_refusePlan h) (Kept.ite (Kept.ite (kept_refusePlan h) (Kept.ite (kept_refusePlan h) (Kept.ite (kept_planUnloaded h)
      (kept_stage h)))) (Kept.ite (kept_refusePlan h) (Kept.ite (Kept.put h) (Kept.ite (kept_planUnloaded h) (kept_stage h)))))

theorem kept_execPlanUnload {c : Cmd} (h : Kept a s) : KeptOut a (execPlanUnload c s) :=
  KeptOut.next (kept_submit h (fun _ _ _ h => kept_startPlanUnload h))

theorem kept_takeVacated (h : Kept a s) : Kept a (takeVacated s) := by
  unfold takeVacated
  refine Kept.foldl h fun s e h => ?_
  dsimp only
  refine Kept.putTier ?_
  refine Kept.foldl (Kept.ite (kept_clearFrames h) h) fun s e h => ?_
  split
  · exact Kept.putTier (kept_setPte h)
  · exact h

theorem kept_planEvent {retired : Bool} {h₀ : PlanHdr} (h : Kept a s) : Kept a (planEvent s retired h₀) := kept_raiseBit h

theorem kept_installPlan {l : PlanLoad} (h : Kept a s) : Kept a (installPlan s l) :=
  kept_stageDone (kept_sealImage (kept_planEvent (Kept.ite (Kept.put (kept_freeOp (kept_updPtes (Kept.put h))))
      (Kept.put (kept_freeOp (kept_updPtes (Kept.put h)))))))

theorem kept_retirePlan {model : Nat} (h : Kept a s) : Kept a (retirePlan s model) := by
  unfold retirePlan
  split
  · exact Kept.ite h (kept_planEvent (Kept.put (kept_dropContexts (kept_freePages h))))
  · exact h

theorem kept_retireSet {key : Nat} (h : Kept a s) : Kept a (retireSet s key) := by
  unfold retireSet
  split
  · exact Kept.ite h (kept_planEvent (Kept.put (kept_freePages h)))
  · exact h

theorem kept_dropWaiting {c : Cmd} (h : Kept a s) : Kept a (dropWaiting s c) := Kept.ite h (kept_finishCmd (kept_removeSet (Kept.put h)))

theorem kept_plansFinish (h : Kept a s) : Kept a (plansFinish s) :=
  Kept.put (Kept.foldl (Kept.foldl (Kept.foldl (Kept.foldl (kept_takeVacated h) fun _ _ => kept_installPlan) fun _ _ => kept_retirePlan) fun _
      _ => kept_retireSet) fun _ _ => kept_dropWaiting)

/-! ### The Gather/Scatter engine -/

theorem kept_setOrder {t : Nat} {q : List GsxReq} (h : Kept a s) : Kept a (setOrder s t q) := Kept.put h

theorem kept_refuseGsx {c : Cmd} {code c0 : Nat} (h : Kept a s) : Kept a (refuseGsx s c code c0) :=
  kept_refuseWith (Kept.ite (kept_opFull h) (kept_recordErr h))

theorem kept_loadGsx {c : Cmd} {t : GsxTab} {bytes : List Byte} (h : Kept a s) : Kept a (loadGsx s c t bytes) := by
  unfold loadGsx
  dsimp only
  refine Kept.ite (kept_refuseGsx h) ?_
  refine Kept.ite (kept_refuseGsx h) ?_
  split
  · exact kept_refuseGsx h
  · rename_i heq
    have ht := (kept_allocPages h).of_eq2 heq
    exact Kept.put (kept_takeOp ht)

theorem kept_startGsxLoad {c : Cmd} {data : List Byte} (h : Kept a s) : Kept a (startGsxLoad c data s) := by
  unfold startGsxLoad
  refine Kept.ite (kept_refuseTxt h) ?_
  split
  · exact kept_finishCmd h
  · split
    · exact kept_refuseGsx h
    · exact Kept.ite (kept_refuseGsx h) (Kept.ite (kept_refuseGsx h) (kept_loadGsx h))

theorem kept_execGsxLoad {c : Cmd} {data : List Byte} (h : Kept a s) : KeptOut a (execGsxLoad c data s) :=
  KeptOut.next (kept_submit h (fun _ _ _ h => kept_startGsxLoad h))

theorem kept_joinTable {c : Cmd} {data : List Byte} (h : Kept a s) : Kept a (joinTable s c data) := kept_setOrder h

theorem kept_startGather {c : Cmd} {data : List Byte} (h : Kept a s) : Kept a (startGather c data s) := by
  unfold startGather
  split
  · exact kept_refuseGsx h
  · refine Kept.ite (kept_refuseGsx h) ?_
    split
    · exact kept_finishCmd h
    · split
      · exact kept_refuseGsx h
      · exact kept_joinTable h

theorem kept_execGather {c : Cmd} {data : List Byte} (h : Kept a s) : KeptOut a (execGather c data s) :=
  KeptOut.next (kept_submit h (fun _ _ _ h => kept_startGather h))

theorem kept_startScatter {c : Cmd} {data : List Byte} (h : Kept a s) : Kept a (startScatter c data s) := by
  unfold startScatter
  split
  · exact kept_refuseGsx h
  · refine Kept.ite (kept_refuseGsx h) ?_
    refine Kept.ite (kept_refuseGsx h) ?_
    split
    · exact kept_finishCmd h
    · exact Kept.ite (kept_refuseGsx h) (Kept.ite (kept_refuseGsx h) (kept_joinTable h))

theorem kept_execScatter {c : Cmd} {data : List Byte} (h : Kept a s) : KeptOut a (execScatter c data s) :=
  KeptOut.next (kept_submit h (fun _ _ _ h => kept_startScatter h))

theorem kept_startGsxSeal {c : Cmd} {x1 : List Byte} (h : Kept a s) : Kept a (startGsxSeal c x1 s) := by
  unfold startGsxSeal
  split
  · exact kept_refuseGsx h
  · exact Kept.ite (kept_refuseGsx h) (kept_joinTable h)

theorem kept_execGsxSeal {c : Cmd} (h : Kept a s) : KeptOut a (execGsxSeal c s) :=
  KeptOut.next (kept_submit h (fun _ _ _ h => kept_startGsxSeal h))

theorem kept_tabWrite {t : GsxTab} {r off : Nat} {bs : List Byte} (h : Kept a s) : Kept a (tabWrite s t r off bs) := by
  unfold tabWrite
  dsimp only
  split
  · exact h
  · exact kept_writePage h

theorem kept_scatterRow {t : GsxTab} {c : Cmd} {data : List Byte} {r : Nat} {is : List Nat} (h : Kept a s) : Kept a (scatterRow s t c data r is).2 :=
    by
  unfold scatterRow
  dsimp only
  split
  · exact kept_tabWrite (kept_tabWrite h)
  · exact h

theorem kept_gsxCount {drop rows : Nat} {top : Nat × Nat} (h : Kept a s) : Kept a (gsxCount s drop rows top) :=
  Kept.iteElse (Kept.iteThen (kept_cnt (kept_cnt h)) fun h => kept_wrF (kept_wrF h)) fun h => kept_raiseBit h

theorem kept_sealTable {t : GsxTab} (h : Kept a s) : Kept a (sealTable s t) := Kept.ite h (kept_startOp h)

theorem kept_startOrder {t : Nat} (h : Kept a s) : Kept a (startOrder s t) := by
  unfold startOrder
  split
  · exact h
  · dsimp only
    refine Kept.ite (kept_setOrder h) ?_
    split
    · exact h
    · exact Kept.ite h (Kept.ite (kept_sealTable (kept_setOrder h)) (kept_setOrder h))

theorem kept_gsxCatch (h : Kept a s) : Kept a (gsxCatch s) := Kept.foldl h fun _ _ => kept_startOrder

theorem kept_gatherEnd {t : GsxTab} {r : GsxReq} (h : Kept a s) : Kept a (gatherEnd s t r) := kept_issueWrite (kept_gsxCount h)

theorem kept_scatterEnd {t : GsxTab} {r : GsxReq} (h : Kept a s) : Kept a (scatterEnd s t r) :=
  kept_stageDone (kept_gsxCount (Kept.put (Kept.foldl (foldl_kept2 h fun _ _ => kept_scatterRow) fun _ _ => kept_touch)))

theorem kept_reqFinish {t : GsxTab} {r : GsxReq} (h : Kept a s) : Kept a (reqFinish s t r).2 :=
  Kept.ite2 h (Kept.ite2 h (Kept.ite2 (kept_gatherEnd h) (kept_scatterEnd h)))

theorem kept_gsxFinish (h : Kept a s) : Kept a (gsxFinish s) := by
  unfold gsxFinish
  refine Kept.foldl h fun s e h => ?_
  dsimp only
  refine kept_setOrder ?_
  refine foldl_kept2 h fun s e h => ?_
  split
  · exact h
  · exact kept_reqFinish h

theorem kept_gatherAcked {c : Cmd} (h : Kept a s) : Kept a (gatherAcked s c) := kept_setOrder h

theorem kept_sealFinish {k : Nat} (h : Kept a s) : Kept a (sealFinish s k) := by
  unfold sealFinish
  split
  · exact h
  · dsimp only
    split
    · exact Kept.ite (Kept.ite (kept_finishCmd (kept_setOrder (Kept.put h))) (Kept.ite (Kept.put h) (kept_sealTable (Kept.put h))))
          (Kept.put h)
    · exact Kept.put h

theorem kept_installGsx {l : TabLoad} {t : GsxTab} (h : Kept a s) : Kept a (installGsx s l t) :=
  kept_stageDone (kept_sealImage (kept_tableEvent (Kept.put (kept_updPtes (Kept.put h)))))

theorem kept_retireGsx {k : Nat} (h : Kept a s) : Kept a (retireGsx s k) := by
  unfold retireGsx
  split
  · exact Kept.ite h (kept_tableEvent (Kept.put (kept_freePages h)))
  · exact h

theorem kept_installLoad {l : TabLoad} (h : Kept a s) : Kept a (installLoad s l) := by
  unfold installLoad
  refine Kept.ite h ?_
  split
  · exact kept_installTable (kept_freeOp h)
  · exact Kept.ite h (kept_installGsx (kept_freeOp h))

theorem kept_tablesFinish (h : Kept a s) : Kept a (tablesFinish s) :=
  kept_wrF (kept_retireTables (Kept.foldl (Kept.foldl (Kept.foldl h fun _ _ => kept_sealFinish) fun _ _ => kept_installLoad) fun _ _ =>
      kept_retireGsx))

/-! ### Crews -/

theorem kept_setCrewRec {k : Nat} {x : Crew} (h : Kept a s) : Kept a (setCrewRec s k x) := Kept.put h

theorem kept_updCrew {k : Nat} {f : Crew → Crew} (h : Kept a s) : Kept a (updCrew s k f) := Kept.put h

theorem kept_refuseCrew {c : Cmd} {code : Nat} (h : Kept a s) : Kept a (refuseCrew s c code) := kept_refuseWith (kept_recordErr h)

theorem kept_startCrewCreate {c : Cmd} {x1 : List Byte} (h : Kept a s) : Kept a (startCrewCreate c x1 s) := by
  unfold startCrewCreate
  dsimp only
  split
  · exact kept_refuseCrew h
  · exact Kept.iteElse (kept_setCrewRec h) fun h => kept_stageDone h

theorem kept_startCrewModify {c : Cmd} {x1 : List Byte} (h : Kept a s) : Kept a (startCrewModify c x1 s) := by
  unfold startCrewModify
  split
  · exact kept_refuseCrew h
  · dsimp only
    split
    · exact kept_refuseCrew h
    · exact kept_stage h

theorem kept_commitCrewModify {k : Nat} {c : Cmd} (h : Kept a s) : Kept a (commitCrewModify s k c) := by
  unfold commitCrewModify
  split
  · exact kept_refuseCrew h
  · exact Kept.iteElse (kept_setCrewRec h) fun h => kept_stageDone h

theorem kept_startCrewDelete {c : Cmd} {x1 : List Byte} (h : Kept a s) : Kept a (startCrewDelete c x1 s) := by
  unfold startCrewDelete
  dsimp only
  split
  · exact kept_refuseCrew h
  · exact Kept.ite (kept_refuseCrew h) (Kept.ite (kept_refuseCrew h) (kept_stageDone (Kept.put h)))

theorem kept_execCrewCreate {c : Cmd} (h : Kept a s) : KeptOut a (execCrewCreate c s) :=
  KeptOut.next (kept_submit h (fun _ _ _ h => kept_startCrewCreate h))

theorem kept_execCrewModify {c : Cmd} (h : Kept a s) : KeptOut a (execCrewModify c s) :=
  KeptOut.next (kept_submit h (fun _ _ _ h => kept_startCrewModify h))

theorem kept_execCrewDelete {c : Cmd} (h : Kept a s) : KeptOut a (execCrewDelete c s) :=
  KeptOut.next (kept_submit h (fun _ _ _ h => kept_startCrewDelete h))

theorem kept_setPc {n : Nat} {x : PcCtx} (h : Kept a s) : Kept a (setPc s n x) := Kept.put h

theorem kept_takeImages {pass : Nat} {lanes : List Nat} (h : Kept a s) : KeptOpt a (takeImages s pass lanes) := by
  unfold takeImages
  refine List.foldlRecOn lanes _ (KeptOpt.some h) fun o ho k _ => ?_
  exact ho.bind fun t ht => KeptOpt.map fun i => Kept.put ht

theorem kept_dropImages {pass : Nat} (h : Kept a s) : Kept a (dropImages s pass) := Kept.put h

theorem kept_seatOutgoing {n : Nat} (h : Kept a s) : Kept a (seatOutgoing s n) := Kept.ite (kept_setPc (kept_exchangePc h)) h

theorem kept_beginSwitch {lane : Nat} {inc : Ctx} {crew : Nat} {pcs whole : List Nat} {ns wholes : Nat} {image : Option Nat} {pre : Bool} (h : Kept a s) :
    Kept a (beginSwitch s lane inc crew pcs whole ns wholes image pre) :=
  Kept.put (kept_cnt (Kept.ite h (Kept.foldl h fun _ _ => kept_seatOutgoing)))

theorem kept_finishMoves {lane n : Nat} (h : Kept a s) : Kept a (finishMoves s lane n) := by
  unfold finishMoves
  refine Kept.foldl h fun s e h => ?_
  split
  · exact Kept.ite (kept_switchBlade h) h
  · exact h

theorem kept_seatIn {n : Nat} {c : Ctx} (h : Kept a s) : Kept a (seatIn s n c) := kept_exchangePc (Kept.ite h (kept_restorePc h))

theorem kept_legSwitch {n : Nat} {want : Ctx} {w : PcSwitch} (h : Kept a s) : Kept a (legSwitch s n want w) :=
  kept_setPc (Kept.ite (kept_restorePc (Kept.ite (kept_exchangePc h) h)) (Kept.ite (kept_seatIn h) h))

theorem kept_switchPc {lane : Nat} {w : Switch} {n : Nat} (h : Kept a s) : Kept a (switchPc s lane w n) :=
  Kept.ite (kept_setPc (kept_finishMoves h)) (kept_setPc (kept_seatIn h))

theorem kept_switchDone {lane : Nat} (h : Kept a s) : Kept a (switchDone s lane) := by
  unfold switchDone
  split
  · exact h
  · exact Kept.ite h (Kept.put (Kept.foldl h fun _ _ => kept_switchPc))

theorem kept_execSwitchDone {lane : Nat} (h : Kept a s) : KeptOut a (execSwitchDone lane s) :=
  KeptOut.ite KeptOut.fault (KeptOut.next (kept_switchDone h))

theorem kept_chargeCrew {k : Nat} {c : Nat × Nat × Nat} (h : Kept a s) : Kept a (chargeCrew s k c) := kept_updCrew h

theorem kept_crewSeated {k : Nat} (h : Kept a s) : Kept a (crewSeated s k) := by
  unfold crewSeated
  split
  · exact h
  · split
    · exact h
    · refine Kept.ite h ?_
      dsimp only
      split
      · exact kept_stageDone (kept_setCrewRec (Kept.foldl h fun _ _ h => Kept.ite h (kept_setPc (kept_restorePc h))))
      · exact kept_setCrewRec (Kept.foldl h fun _ _ h => Kept.ite h (kept_setPc (kept_restorePc h)))

theorem kept_execCrewSeated {crew : Nat} (h : Kept a s) : KeptOut a (execCrewSeated crew s) := KeptOut.next (kept_crewSeated h)

theorem kept_setPass {i : Nat} {p : Pass} (h : Kept a s) : Kept a (setPass s i p) := Kept.putStk h

theorem kept_updPass {i : Nat} {f : Pass → Pass} (h : Kept a s) : Kept a (updPass s i f) := Kept.putStk h

theorem kept_preempt {i : Nat} (h : Kept a s) : Kept a (preempt s i) := by
  unfold preempt
  split
  · exact h
  · dsimp only
    refine Kept.ite h ?_
    split
    · exact h
    · rename_i heq
      have ht := (kept_takeImages h).of_eq heq
      exact kept_raiseBit (kept_cnt (kept_updCrew (kept_updPass (kept_chargeCrew (Kept.foldl ht fun _ _ => kept_beginSwitch)))))

theorem kept_execPreempt {pass : Nat} (h : Kept a s) : KeptOut a (execPreempt pass s) := KeptOut.next (kept_preempt h)

theorem kept_dropCarry {i : Nat} (h : Kept a s) : Kept a (dropCarry s i) := kept_dropImages (Kept.put h)

theorem kept_restartPass {i : Nat} (h : Kept a s) : Kept a (restartPass s i) := by
  unfold restartPass
  split
  · exact h
  · exact Kept.foldl (kept_setPass (kept_updCrew (kept_dropCarry (Kept.put h)))) fun _ _ => kept_updSes

theorem kept_switchFailed {lane : Nat} {w : Switch} (h : Kept a s) : Kept a (switchFailed s lane w) := by
  unfold switchFailed
  dsimp only
  split
  · exact Kept.put (kept_raiseBit (kept_cnt h))
  · exact kept_restartPass (Kept.put (Kept.foldl (kept_raiseBit (kept_cnt h)) fun _ _ => kept_setPc))

theorem kept_switchFinish (h : Kept a s) : Kept a (switchFinish s) :=
  Kept.foldl h fun _ _ h => Kept.ite (kept_switchFailed h) (Kept.put (kept_updCrew h))

theorem kept_splitEnd {k : Nat} (h : Kept a s) : Kept a (splitEnd s k) := by
  unfold splitEnd
  split
  · exact h
  · exact Kept.ite h (Kept.iteElse (kept_setCrewRec h) fun h => kept_raiseBit h)

theorem kept_execSplitWindowEnd {crew : Nat} (h : Kept a s) : KeptOut a (execSplitWindowEnd crew s) := KeptOut.next (kept_splitEnd h)

theorem kept_crewFigures (h : Kept a s) : Kept a (crewFigures s) := kept_wrF (kept_wrF (kept_wrF (kept_wrF h)))

/-! ### Passes and grants -/

theorem kept_fetchExpiry {sid : Nat} (h : Kept a s) : Kept a (fetchExpiry s sid) := by
  unfold fetchExpiry
  split
  · exact h
  · split
    · exact h
    · exact Kept.ite (kept_setSes h) h

theorem kept_execFetchWaitExpiry {sid : Nat} (h : Kept a s) : KeptOut a (execFetchWaitExpiry sid s) := KeptOut.next (kept_fetchExpiry h)

theorem kept_newPass {p : Pass} (h : Kept a s) : Kept a (newPass s p) := kept_setPass (Kept.putStk h)

theorem kept_bindVersion {sids : List Nat} {ver : Nat} (h : Kept a s) : Kept a (bindVersion s sids ver) := Kept.foldl h fun _ _ => kept_updSes

theorem kept_rebindPasses {k : Nat} {p : Plan} (h : Kept a s) : Kept a (rebindPasses s k p) :=
  Kept.foldl h fun _ _ h => Kept.ite (kept_setPass (kept_bindVersion h)) (Kept.putStk h)

theorem kept_formPasses {k : Nat} {c : Crew} (h : Kept a s) : Kept a (formPasses s k c) := by
  unfold formPasses
  split
  · exact h
  · exact Kept.ite h (Kept.foldl (Kept.foldl (kept_rebindPasses h) fun _ _ h => kept_newPass (kept_bindVersion h)) fun _ _ h => kept_newPass
        (kept_bindVersion h))

theorem kept_writeRow {wr : List Nat} {page off n : Nat} (h : Kept a s) : Kept a (writeRow s wr page off n) := by
  unfold writeRow
  split
  · exact h
  · exact Kept.ite h (kept_touchFrame (kept_writeFrame (kept_nextFree h)))

theorem kept_writeRows {wr : List Nat} {p : Pass} {q : Plan} {leg : Nat} (h : Kept a s) : Kept a (writeRows s wr p q leg) := by
  unfold writeRows
  refine Kept.foldl h fun s e h => ?_
  dsimp only
  refine Kept.foldl h fun s e h => ?_
  refine Kept.foldl h fun s e h => ?_
  split
  · exact kept_writeRow h
  · exact h

theorem kept_startLeg {k : Nat} {p : Pass} {q : Plan} (h : Kept a s) : Kept a (startLeg s k p q) := by
  unfold startLeg
  split
  · exact h
  · exact kept_writeRows (kept_updLeg h)

theorem kept_grantLeg {i : Nat} {p : Pass} {q : Plan} {f : Fit} {x : GrantAt} (h : Kept a s) : Kept a (grantLeg s i p q f x) :=
  Kept.foldl (kept_startLeg (kept_dirtyReserve (kept_setPass
      (Kept.foldl (Kept.putStk (kept_cnt (kept_cnt (kept_dropCarry (Kept.foldl (kept_chargeCrew h) fun _ _ => kept_legSwitch))))) fun _ _ =>
      kept_spend)))) fun _ _ => kept_updSes

theorem kept_spreadPages_updPassOf {sid : Nat} (h : Kept a s) : Kept a (spreadPages.updPassOf s sid) := Kept.put h

theorem kept_spreadPages {p : Pass} {xs : List (Nat × AttPage)} (h : Kept a s) : Kept a (spreadPages s p xs) := by
  unfold spreadPages
  refine Kept.foldl (Kept.ite h (kept_takeOp h)) fun s e h => ?_
  split
  · exact h
  · split
    · exact h
    · exact Kept.ite (kept_spreadPages_updPassOf (kept_refuseSes (kept_setSes h))) (kept_setSes h)

theorem kept_startSwitches {p : Pass} {pcs : List (Nat × PcSwitch)} {want : Nat → Ctx} (h : Kept a s) : Kept a (startSwitches s p pcs want) :=
  Kept.ite h (kept_chargeCrew (Kept.foldl h fun _ _ => kept_beginSwitch))

theorem kept_startCombine {i : Nat} {p : Pass} {q : Plan} (h : Kept a s) : Kept a (startCombine s i p q).2 :=
  Kept.ite2 h (Kept.ite2 (kept_cnt h) (Kept.ite2 (kept_dirtyDefer h) (Kept.foldl (kept_dirtyReserve (kept_setPass (kept_chargeCrew
      (Kept.putStk h)))) fun _ _ => kept_updSes)))

theorem kept_tryLeg {i : Nat} (h : Kept a s) : Kept a (tryLeg s i).2 := by
  unfold tryLeg
  split
  · exact h
  · split
    · exact h
    · split
      · exact h
      · exact Kept.ite2 (kept_startCombine h) (Kept.ite2 h (Kept.ite2 (kept_cnt h) (Kept.ite2 (kept_spreadPages h) (Kept.ite2 h
            (Kept.ite2 (kept_dirtyDefer h) (Kept.ite2 (kept_startSwitches h) (Kept.ite2 h (kept_grantLeg h))))))))

theorem kept_deferLeg {i : Nat} (h : Kept a s) : Kept a (deferLeg s i) := by
  unfold deferLeg
  split
  · exact h
  · exact kept_updCrew (Kept.put h)

theorem kept_grantGo {fuel : Nat} {is out : List Nat} (h : Kept a s) : Kept a (grantGo fuel is out s).2 := by
  induction fuel generalizing s is out with
  | zero => exact h
  | succ fuel ih =>
    rw [grantGo]
    split
    · exact h
    · exact ih (kept_tryLeg h)

theorem kept_refillCredit (h : Kept a s) : Kept a (refillCredit s) := Kept.putStk h

theorem kept_switchEnergy (h : Kept a s) : Kept a (switchEnergy s) := Kept.foldl h fun _ _ h => kept_spend (Kept.putStk h)

theorem kept_crewTimes (h : Kept a s) : Kept a (crewTimes s) := Kept.put h

theorem kept_grantPrep (h : Kept a s) : Kept a (grantPrep s) :=
  kept_switchEnergy (kept_refillCredit (kept_crewTimes (Kept.putStk (Kept.foldl (Kept.foldl h fun _ _ => kept_formPasses) fun _ _ =>
      kept_dropCarry))))

theorem kept_grantLegs (h : Kept a s) : Kept a (grantLegs s) := kept_wrF (kept_wrF (Kept.foldl (kept_grantGo h) fun _ _ => kept_deferLeg))

/-! ### The end of granted legs -/

theorem kept_indexBuild {sid sp layer : Nat} (h : Kept a s) : Kept a (indexBuild s sid sp layer) := by
  unfold indexBuild
  split
  · exact h
  · split
    · refine Kept.ite h ?_
      split
      · exact h
      · dsimp only
        split
        · exact h
        · rename_i heq
          have ht := (kept_placeIndex h).of_eq heq
          exact Kept.ite (kept_dirtyDefer h) (kept_cnt (kept_putEntry (kept_setSes ht)))
    · exact h

theorem kept_indexRecovery (h : Kept a s) : Kept a (indexRecovery s) :=
  Kept.putStk (Kept.foldl h fun _ _ h => Kept.foldl h fun _ _ => kept_indexBuild)

theorem kept_execIndexBuild {sid span layer : Nat} (h : Kept a s) : KeptOut a (execIndexBuild sid span layer s) := KeptOut.next (kept_indexBuild h)

theorem kept_scoreLeg {l : GLeg} {p : Pass} {q : Plan} (h : Kept a s) : Kept a (scoreLeg s l p q) := by
  unfold scoreLeg
  dsimp only
  split
  · exact h
  · exact foldl_kept2 h fun _ _ h => foldl_kept2 h fun _ _ h => Kept.ite2 h (Kept.ite2 (kept_cnt h) (kept_updSes h))

theorem kept_shortStep {sid : Nat} (h : Kept a s) : Kept a (shortStep s sid) := by
  unfold shortStep
  split
  · exact h
  · split
    · exact h
    · exact Kept.iteElse (kept_updSes h) fun k1 => Kept.iteElse (kept_cnt k1) fun h => kept_raiseBit h

theorem kept_countPass {p : Pass} {legs : Nat} (h : Kept a s) : Kept a (countPass s p legs) := kept_updCrew h

theorem kept_dropPass {i : Nat} (h : Kept a s) : Kept a (dropPass s i) := kept_dropCarry (Kept.putStk h)

theorem kept_passDone {i : Nat} {p : Pass} {q : Plan} (h : Kept a s) : Kept a (passDone s i p q) := by
  unfold passDone
  dsimp only
  refine kept_dropPass ?_
  refine kept_countPass ?_
  refine Kept.foldl h fun s e h => ?_
  split
  · exact h
  · exact Kept.ite (kept_updSes h) (kept_stage (kept_updSes (kept_shortStep h)))

theorem kept_keepCarry {i : Nat} {p : Pass} (h : Kept a s) : Kept a (keepCarry s i p) := kept_setPass (Kept.foldl h fun _ _ => kept_setPc)

theorem kept_legComplete {l : GLeg} (h : Kept a s) : Kept a (legComplete s l) := by
  unfold legComplete
  split
  · exact Kept.ite (kept_passDone (kept_scoreLeg h)) (Kept.ite (kept_setPass (kept_scoreLeg h)) (kept_keepCarry (kept_scoreLeg h)))
  · exact h

theorem kept_legOverrun {l : GLeg} (h : Kept a s) : Kept a (legOverrun s l) := kept_noteErr (kept_raiseBit (kept_cnt h))

theorem kept_overrunNotes (h : Kept a s) : Kept a (overrunNotes s) := Kept.foldl h fun _ _ h => Kept.ite (kept_legOverrun h) h

theorem kept_legFinish {l : GLeg} (h : Kept a s) : Kept a (legFinish s l) := by
  unfold legFinish
  dsimp only
  refine Kept.ite ?_ ?_
  · refine kept_restartPass ?_
    split
    · exact kept_recordErr h
    · exact h
  · refine kept_legComplete ?_
    split
    · exact kept_recordErr h
    · exact h

theorem kept_clockFinish (h : Kept a s) : Kept a (clockFinish s) := Kept.put h

theorem kept_legsFinish (h : Kept a s) : Kept a (legsFinish s) :=
  Kept.foldl (Kept.putStk (kept_clockFinish (Kept.foldl h fun _ _ => kept_legFinish))) fun _ _ => kept_idleSlot

theorem kept_indexFigures (h : Kept a s) : Kept a (indexFigures s) := kept_wrF h

/-! ### Memory search -/

theorem kept_updIdx {i : Nat} {f : MemIdx → MemIdx} (h : Kept a s) : Kept a (updIdx s i f) := Kept.put h

theorem kept_setWalk {w : Nat} {x : Walk} (h : Kept a s) : Kept a (setWalk s w x) := Kept.put h

theorem kept_refuseMem {c : Cmd} {code c0 : Nat} (h : Kept a s) : Kept a (refuseMem s c code c0) := kept_refuseWith (kept_recordErr h)

theorem kept_startMemCreate {c : Cmd} {x1 : List Byte} (h : Kept a s) : Kept a (startMemCreate c x1 s) :=
  Kept.ite (kept_refuseMem h) (Kept.ite (kept_refuseMem h) (Kept.ite (kept_refuseMem h) (Kept.ite (kept_refuseMem h) (Kept.put h))))

theorem kept_execMemCreate {c : Cmd} (h : Kept a s) : KeptOut a (execMemCreate c s) :=
  KeptOut.next (kept_submit h (fun _ _ _ h => kept_startMemCreate h))

theorem kept_startMemDrop {c : Cmd} {x1 : List Byte} (h : Kept a s) : Kept a (startMemDrop c x1 s) := by
  unfold startMemDrop
  split
  · exact kept_refuseMem h
  · exact kept_updIdx h

theorem kept_execMemDrop {c : Cmd} (h : Kept a s) : KeptOut a (execMemDrop c s) :=
  KeptOut.next (kept_submit h (fun _ _ _ h => kept_startMemDrop h))

theorem kept_addWalk {w : Walk} (h : Kept a s) : Kept a (addWalk s w) := Kept.put h

theorem kept_startMemQuery {c : Cmd} {data : List Byte} (h : Kept a s) : Kept a (startMemQuery c data s) := by
  unfold startMemQuery
  split
  · exact kept_refuseMem h
  · split
    · exact Kept.ite (kept_refuseMem h) (kept_finishCmd h)
    · exact Kept.ite (kept_refuseMem h) (Kept.ite (kept_refuseMem h) (Kept.foldl h fun _ _ => kept_addWalk))

theorem kept_execMemQuery {c : Cmd} {data : List Byte} (h : Kept a s) : KeptOut a (execMemQuery c data s) :=
  KeptOut.next (kept_submit h (fun _ _ _ h => kept_startMemQuery h))

theorem kept_startMemInsert {c : Cmd} {data : List Byte} (h : Kept a s) : Kept a (startMemInsert c data s) := by
  unfold startMemInsert
  split
  · exact kept_refuseMem h
  · split
    · exact Kept.ite (kept_refuseMem h) (kept_finishCmd h)
    · exact Kept.ite (kept_refuseMem h) (Kept.foldl (kept_updIdx h) fun _ _ => kept_addWalk)

theorem kept_execMemInsert {c : Cmd} {data : List Byte} (h : Kept a s) : KeptOut a (execMemInsert c data s) :=
  KeptOut.next (kept_submit h (fun _ _ _ h => kept_startMemInsert h))

theorem kept_startMemDelete {c : Cmd} {data : List Byte} (h : Kept a s) : Kept a (startMemDelete c data s) := by
  unfold startMemDelete
  split
  · exact kept_refuseMem h
  · split
    · exact Kept.ite (kept_refuseMem h) (kept_finishCmd h)
    · exact kept_updIdx h

theorem kept_execMemDelete {c : Cmd} {data : List Byte} (h : Kept a s) : KeptOut a (execMemDelete c data s) :=
  KeptOut.next (kept_submit h (fun _ _ _ h => kept_startMemDelete h))

theorem kept_readEnds {x : Walk} {node : Nat} (h : Kept a s) : Kept a (readEnds s x node).2 := kept_nextFree h

theorem kept_issueSlot {w : Nat} {x : Walk} {node page slot : Nat} (h : Kept a s) : Kept a (issueSlot s w x node page slot) :=
  Kept.ite (kept_cntI (kept_setWalk h)) (kept_setWalk (kept_addPath h))

theorem kept_issueGo {m : MemVer} {w fuel : Nat} (h : Kept a s) : Kept a (issueGo m w fuel s) := by
  induction fuel generalizing s with
  | zero => exact h
  | succ fuel ih =>
    rw [issueGo]
    split
    · exact h
    · refine Kept.ite h ?_
      split
      · exact h
      · split
        · exact h
        · exact Kept.ite h (ih (kept_issueSlot h))

theorem kept_walkCheck {w : Nat} {m : MemVer} (h : Kept a s) : Kept a (walkCheck s w m) := by
  unfold walkCheck
  split
  · exact h
  · exact Kept.ite (kept_setWalk h) (kept_issueGo h)

theorem kept_walkTake {w node page : Nat} {r : Option NodeSlot} (h : Kept a s) : Kept a (walkTake s w node page r) := by
  unfold walkTake
  split
  · exact h
  · split
    · exact h
    · split
      · exact h
      · dsimp only
        split
        · exact kept_walkCheck (kept_setWalk (kept_readEnds h))
        · exact kept_walkCheck (kept_cntI (kept_setWalk (kept_readEnds h)))

theorem kept_sweepIssue {w : Nat} {m : MemVer} (h : Kept a s) : Kept a (sweepIssue s w m) := by
  unfold sweepIssue
  split
  · exact h
  · refine Kept.foldl h fun s e h => ?_
    split
    · exact Kept.ite h (kept_issueSlot h)
    · exact kept_setWalk h
    · exact h

theorem kept_sweepTake {w node : Nat} {r : Option NodeSlot} (h : Kept a s) : Kept a (sweepTake s w node r) := by
  unfold sweepTake
  split
  · exact h
  · dsimp only
    split
    · exact kept_sweepIssue (kept_setWalk (kept_readEnds h))
    · exact kept_setWalk (kept_readEnds h)

theorem kept_slotLost {page code cls : Nat} (h : Kept a s) : Kept a (slotLost s page code cls) := kept_noteErr (kept_recordErr (kept_cntI h))

theorem kept_nodeRead {w node : Nat} {ok : Bool} (h : Kept a s) : Kept a (nodeRead s w node ok) := by
  unfold nodeRead
  split
  · exact h
  · exact Kept.foldl (Kept.ite (kept_slotLost (kept_cntI h)) (Kept.ite (kept_slotLost (kept_cntI h)) (kept_cntI h))) fun _ _ h => Kept.ite
        (kept_sweepTake h) (kept_walkTake h)

theorem kept_execNodeReadDone {walk slot : Nat} {ok : Bool} (h : Kept a s) : KeptOut a (execNodeReadDone walk slot ok s) :=
  KeptOut.next (kept_nodeRead h)

theorem kept_burstsCatch (h : Kept a s) : Kept a (burstsCatch s) := by
  unfold burstsCatch
  refine Kept.foldl h fun s e h => ?_
  split
  · exact h
  · dsimp only
    split
    · exact kept_setWalk h
    · refine Kept.ite ?_ ?_
      · split
        · exact kept_sweepIssue (kept_setWalk h)
        · exact kept_setWalk h
      · refine Kept.ite (kept_setWalk h) ?_
        split
        · exact kept_walkCheck (kept_setWalk h)
        · exact kept_setWalk h

theorem kept_expireWalk {w : Nat} {x : Walk} (h : Kept a s) : Kept a (expireWalk s w x) := by
  unfold expireWalk
  dsimp only
  split
  · exact kept_updIdx (kept_raiseBit (kept_recordErr (kept_setWalk h)))
  · exact kept_raiseBit (kept_recordErr (kept_setWalk h))

theorem kept_walkAdmit {w : Nat} (h : Kept a s) : Kept a (walkAdmit s w) := by
  unfold walkAdmit
  split
  · exact h
  · split
    · exact h
    · refine Kept.ite h ?_
      split
      · exact h
      · dsimp only
        split
        · exact kept_expireWalk h
        · exact kept_walkCheck (kept_setWalk (kept_cntI h))

theorem kept_execWalkAdmit {walk : Nat} (h : Kept a s) : KeptOut a (execWalkAdmit walk s) := KeptOut.next (kept_walkAdmit h)

theorem kept_takeFound {w : Nat} {x : Walk} (h : Kept a s) : Kept a (takeFound s w x) := by
  unfold takeFound
  split
  · exact Kept.ite h (Kept.put (Kept.ite h (kept_updIdx h)))
  · exact h

/-! ### Memory search at the finish -/

theorem kept_installIdx {c : Cmd} (h : Kept a s) : KeptOpt a (installIdx s c) := by
  rw [installIdx]
  cases chargeFitsH s (c.f2 0 12) (tombCount (c.f3 0 32)) with
  | some e => exact KeptOpt.none
  | none =>
    cases heq : allocPages s (tombCount (c.f3 0 32)) (c.f2 0 12) 5 0 true with
    | none => exact KeptOpt.none
    | some p =>
      have hu : Kept a p.2 := (kept_allocPages h).of_eq2 heq
      exact KeptOpt.some (kept_stageDone (Kept.put hu))

theorem kept_createFinish {c : Cmd} {waited : Nat} (h : Kept a s) : Kept a (createFinish s c waited) := by
  unfold createFinish
  dsimp only
  split
  · rename_i heq
    have ht := (kept_installIdx (Kept.put h)).of_eq heq
    exact ht
  · exact Kept.ite (Kept.put h) (kept_refuseMem (Kept.put h))

theorem kept_writeSlots {base : Nat} {xs : List NodeSlot} (h : Kept a s) : Kept a (writeSlots s base xs).2 :=
  foldl_kept2 h fun _ _ => kept_writePage

theorem kept_batchWaits {i code : Nat} (h : Kept a s) : Kept a (batchWaits s i code) := kept_updIdx h

theorem kept_runAgain {i : Nat} {r : MemRec} (h : Kept a s) : Kept a (runAgain s i r) := by
  unfold runAgain
  split
  · exact h
  · exact kept_addWalk h

theorem kept_closeBatch {i : Nat} {x : MemIdx} (h : Kept a s) : Kept a (closeBatch s i x) := by
  unfold closeBatch
  dsimp only
  split
  · exact kept_batchWaits h
  · exact kept_batchWaits h
  · refine Kept.ite h ?_
    split
    · exact kept_batchWaits h
    · rename_i heq
      have ht := (kept_allocPages h).of_eq2 heq
      exact Kept.foldl (kept_updIdx (Kept.iteElse (kept_writeSlots ht) fun h => kept_startOp h)) fun _ _ => kept_runAgain

theorem kept_freeDropped {x : MemIdx} {dropped : List MemVer} (h : Kept a s) : Kept a (freeDropped s x dropped) := kept_freePages h

theorem kept_newMapPages {tenant : Nat} {pages : Map Nat} {nos : List Nat} (h : Kept a s) : Kept a (newMapPages s tenant pages nos).2 := by
  unfold newMapPages
  refine foldl_kept2 h fun s e h => ?_
  split
  · rename_i heq
    have ht := (kept_allocPages h).of_eq2 heq
    exact ht
  · exact h

theorem kept_mapPageBytes {m : Map MapEnt} {pages : List (Nat × Nat)} (h : Kept a s) : Kept a (mapPageBytes s m pages) :=
  Kept.foldl h fun _ _ h => Kept.foldl h fun _ _ => kept_writePage

theorem kept_tombBytes {pages : List Nat} {old new : Map Nat} (h : Kept a s) : Kept a (tombBytes s pages old new) := by
  unfold tombBytes
  dsimp only
  refine Kept.foldl h fun s e h => ?_
  split
  · exact h
  · exact kept_writePage h

theorem kept_expireWalks {i n : Nat} (h : Kept a s) : Kept a (expireWalks s i n) := Kept.foldl h fun _ _ h => Kept.ite (kept_expireWalk h) h

theorem kept_repaired {i tenant n : Nat} {e : SweepEnd} (h : Kept a s) : Kept a (repaired s i tenant n e) :=
  Kept.foldl (kept_raiseBit h) fun _ _ => kept_finishCmd

theorem kept_commitIdx {i : Nat} {x : MemIdx} (h : Kept a s) : Kept a (commitIdx s i x) := by
  unfold commitIdx
  dsimp only
  refine Kept.foldl ?_ fun _ _ h => kept_repaired h
  refine Kept.foldl ?_ fun _ _ h => kept_stageDone h
  refine kept_expireWalks ?_
  refine kept_freeDropped ?_
  refine Kept.ite ?_ (Kept.put (kept_mapPageBytes (kept_tombBytes (Kept.iteElse (Kept.foldl (kept_updPtes (kept_newMapPages h)) fun _ _ =>
      kept_freeH1) fun h => Kept.foldl h fun _ _ => kept_touch))))
  split
  · exact Kept.put (kept_mapPageBytes (kept_tombBytes (Kept.iteElse (Kept.foldl (kept_updPtes (kept_newMapPages h)) fun _ _ => kept_freeH1)
        fun h => Kept.foldl h fun _ _ => kept_touch)))
  · exact Kept.put (kept_mapPageBytes (kept_tombBytes (Kept.iteElse (Kept.foldl (kept_updPtes (kept_newMapPages h)) fun _ _ => kept_freeH1)
        fun h => Kept.foldl h fun _ _ => kept_touch)))

theorem kept_startSweep {i : Nat} {x : MemIdx} {cmds : List Cmd} (h : Kept a s) : Kept a (startSweep s i x cmds) :=
  kept_sweepIssue (kept_updIdx (kept_addWalk h))

theorem kept_startMemRepair {c : Cmd} {x1 : List Byte} (h : Kept a s) : Kept a (startMemRepair c x1 s) := by
  unfold startMemRepair
  split
  · exact kept_refuseMem h
  · split
    · exact kept_updIdx h
    · exact kept_startSweep h

theorem kept_execMemRepair {c : Cmd} (h : Kept a s) : KeptOut a (execMemRepair c s) :=
  KeptOut.next (kept_submit h (fun _ _ _ h => kept_startMemRepair h))

theorem kept_sweepFinish {i : Nat} (h : Kept a s) : Kept a (sweepFinish s i) := by
  unfold sweepFinish
  split
  · exact h
  · split
    · exact Kept.ite (kept_startSweep h) h
    · dsimp only
      split
      · refine Kept.ite (kept_sweepIssue h) ?_
        refine Kept.ite ?_ (kept_updIdx (kept_sweepIssue h))
        split
        · exact kept_freeDropped (Kept.put (kept_updIdx (kept_sweepIssue h)))
        · exact Kept.put (kept_updIdx (kept_sweepIssue h))
      · exact kept_sweepIssue h

theorem kept_queryDone {c : Cmd} (h : Kept a s) : Kept a (queryDone s c) := by
  unfold queryDone
  dsimp only
  refine Kept.ite h ?_
  refine Kept.foldl (Kept.put h) fun s e h => ?_
  split
  · exact kept_issueWrite h
  · exact h

theorem kept_queriesFinish (h : Kept a s) : Kept a (queriesFinish s) := Kept.foldl h fun _ _ => kept_queryDone

theorem kept_insertDone {i : Nat} {c : Cmd} (h : Kept a s) : Kept a (insertDone s i c) := by
  unfold insertDone
  split
  · exact h
  · dsimp only
    refine Kept.ite h (kept_issueWrite (Kept.iteElse (kept_updIdx ?_) fun h => kept_recordErr h))
    refine foldl_kept2 h fun s e h => ?_
    split
    · exact h
    · exact kept_nextFree h

theorem kept_dropFinish {i : Nat} {x : MemIdx} {c : Cmd} (h : Kept a s) : Kept a (dropFinish s i x c) :=
  Kept.ite h (kept_finishCmd (Kept.foldl (Kept.put (kept_freePages h)) fun _ _ => kept_finishCmd))

theorem kept_idxFinish {i : Nat} (h : Kept a s) : Kept a (idxFinish s i) := by
  unfold idxFinish
  split
  · exact h
  · split
    · exact kept_dropFinish h
    · dsimp only
      split
      · exact kept_sweepFinish h
      · split
        · split
          · exact Kept.iteThen (kept_sweepFinish h) fun h => kept_commitIdx h
          · exact Kept.ite (Kept.iteThen (kept_sweepFinish h) fun h => kept_closeBatch h) (Kept.iteThen (kept_sweepFinish h) fun h =>
                kept_commitIdx h)
        · refine Kept.foldl ?_ fun _ _ h => kept_insertDone h
          split
          · exact Kept.iteThen (kept_sweepFinish h) fun h => kept_commitIdx h
          · exact Kept.ite (Kept.iteThen (kept_sweepFinish h) fun h => kept_closeBatch h) (Kept.iteThen (kept_sweepFinish h) fun h =>
                kept_commitIdx h)

theorem kept_memFinish (h : Kept a s) : Kept a (memFinish s) :=
  Kept.foldl (kept_queriesFinish (Kept.foldl (Kept.foldl h fun _ _ => kept_createFinish) fun _ _ => kept_takeFound)) fun _ _ => kept_idxFinish

theorem kept_memFigures (h : Kept a s) : Kept a (memFigures s) := kept_wrF (kept_wrF (kept_wrF (Kept.foldl h fun _ _ => kept_wrI)))

/-! ### Course circulation -/

theorem kept_refuseCourse {c : Cmd} {code c0 : Nat} (h : Kept a s) : Kept a (refuseCourse s c code c0) := kept_refuseWith (kept_recordErr h)

theorem kept_openCourse {c : Cmd} (h : Kept a s) : KeptOpt a (openCourse s c) := by
  unfold openCourse
  dsimp only
  split
  · exact KeptOpt.none
  · split
    · exact KeptOpt.some (kept_stageDone (Kept.put (kept_addCharge (Kept.foldl h fun _ _ => kept_zeroFrame))))
    · exact KeptOpt.none

theorem kept_startCourseOpen {c : Cmd} {x1 : List Byte} (h : Kept a s) : Kept a (startCourseOpen c x1 s) := by
  unfold startCourseOpen
  split
  · exact kept_refuseCourse h
  · refine Kept.ite (kept_refuseCourse h) ?_
    split
    · exact kept_refuseCourse h
    · exact KeptOpt.getD (kept_openCourse h) (Kept.put h)

theorem kept_execCourseOpen {c : Cmd} (h : Kept a s) : KeptOut a (execCourseOpen c s) :=
  KeptOut.next (kept_submit h (fun _ _ _ h => kept_startCourseOpen h))

theorem kept_startCourseClose {c : Cmd} {x1 : List Byte} (h : Kept a s) : Kept a (startCourseClose c x1 s) := by
  unfold startCourseClose
  dsimp only
  split
  · exact kept_refuseCourse h
  · refine Kept.ite (kept_refuseCourse h) ?_
    split
    · exact kept_refuseCourse h
    · exact Kept.ite (kept_refuseCourse h) (Kept.put h)

theorem kept_execCourseClose {c : Cmd} (h : Kept a s) : KeptOut a (execCourseClose c s) :=
  KeptOut.next (kept_submit h (fun _ _ _ h => kept_startCourseClose h))

theorem kept_courseRetry {c : Cmd} {n : Nat} (h : Kept a s) : Kept a (courseRetry s c n) := by
  unfold courseRetry
  dsimp only
  split
  · rename_i heq
    have ht := (kept_openCourse (Kept.put h)).of_eq heq
    exact ht
  · exact Kept.put h

theorem kept_courseExpiry {crew : Nat} (h : Kept a s) : Kept a (courseExpiry s crew) := by
  unfold courseExpiry
  split
  · exact h
  · exact Kept.ite (kept_refuseCourse (Kept.put h)) h

theorem kept_gatherLead {k : Course} {sids : List Nat} (h : Kept a s) : Kept a (gatherLead s k sids) := by
  unfold gatherLead
  split
  · exact h
  · exact kept_gsxCount h

theorem kept_courseStep {crew : Nat} (h : Kept a s) : Kept a (courseStep s crew) := by
  unfold courseStep
  split
  · split
    · exact h
    · exact Kept.ite h (Kept.put (Kept.foldl (kept_gatherLead (kept_takeOp h)) fun _ _ h => Kept.ite h (kept_newPass (kept_bindVersion h))))
  · exact h

theorem kept_execCourseStepStart {crew : Nat} (h : Kept a s) : KeptOut a (execCourseStepStart crew s) := KeptOut.next (kept_courseStep h)

theorem kept_lapLegs {crew : Nat} {k : Course} (h : Kept a s) : Kept a (lapLegs s crew k).2 := by
  unfold lapLegs
  refine foldl_kept2 h fun s e h => ?_
  split
  · exact Kept.ite2 (kept_tryLeg h) h
  · exact h

theorem kept_courseFill1 {crew : Nat} (h : Kept a s) : Kept a (courseFill1 s crew) := by
  unfold courseFill1
  split
  · exact h
  · split
    · exact Kept.iteElse (Kept.put (Kept.ite (kept_addPath h) h)) fun h => kept_updOp (Kept.put h)
    · exact h

theorem kept_courseFills (h : Kept a s) : Kept a (courseFills s) := Kept.foldl h fun _ _ => kept_courseFill1

theorem kept_courseCatch1 {crew : Nat} (h : Kept a s) : Kept a (courseCatch1 s crew) := by
  unfold courseCatch1
  split
  · exact h
  · split
    · exact Kept.put h
    · exact Kept.put (kept_lapLegs h)

theorem kept_courseCatch (h : Kept a s) : Kept a (courseCatch s) :=
  Kept.foldl (Kept.foldl h fun _ _ => kept_courseRetry) fun _ _ => kept_courseCatch1

theorem kept_advanceRing {k : Course} (h : Kept a s) : Kept a (advanceRing s k) :=
  Kept.foldl (kept_cnt h) fun _ _ h => Kept.foldl h fun _ _ => kept_fillFrame

theorem kept_closeCourse {crew : Nat} {k : Course} (h : Kept a s) : Kept a (closeCourse s crew k) := by
  unfold closeCourse
  dsimp only
  split
  · exact kept_finishCmd (kept_dropCharges (Kept.put (Kept.foldl h fun _ _ => kept_zeroFrame)))
  · exact kept_dropCharges (Kept.put (Kept.foldl h fun _ _ => kept_zeroFrame))

theorem kept_courseFinish1 {crew : Nat} (h : Kept a s) : Kept a (courseFinish1 s crew) := by
  unfold courseFinish1
  split
  · exact h
  · split
    · exact Kept.ite (kept_closeCourse h) h
    · dsimp only
      refine Kept.ite ?_ (Kept.ite (Kept.put (kept_advanceRing h)) (Kept.put h))
      refine Kept.ite ?_ ?_
      · refine kept_closeCourse ?_
        split
        · exact kept_freeOp h
        · exact h
      · refine Kept.put ?_
        split
        · exact kept_freeOp h
        · exact h

theorem kept_courseFinish (h : Kept a s) : Kept a (courseFinish s) := Kept.foldl h fun _ _ => kept_courseFinish1

/-! ### Taking checkpoints -/

theorem kept_jobWrite {i : Nat} {j : CkpJob} {data : List Byte} {use : WriteFor} (h : Kept a s) : KeptOpt a ((jobWrite s i j data use).map (·.2)) :=
    by
  unfold jobWrite
  split
  · split
    · exact KeptOpt.none
    · exact KeptOpt.some (kept_updJob (kept_issueWrite h))
  · dsimp only
    split
    · exact KeptOpt.none
    · exact KeptOpt.some (kept_updJob (kept_setTgt (kept_issueWrite h)))

theorem kept_jobManifest {i : Nat} {j : CkpJob} (h : Kept a s) : Kept a (jobManifest s i j) := by
  unfold jobManifest
  dsimp only
  split
  · exact kept_updJob h
  · rename_i heq
    have ht := (kept_jobWrite (kept_updJob (kept_nextFree h))).of_eq2 heq
    exact kept_updJob ht

theorem kept_jobPump {i fuel : Nat} (h : Kept a s) : Kept a (jobPump s i fuel) := by
  induction fuel generalizing s with
  | zero => exact h
  | succ fuel ih =>
    rw [jobPump]
    split
    · exact h
    · refine Kept.ite h (Kept.ite ?_ (Kept.ite (kept_jobManifest h) h))
      dsimp only
      split
      · exact kept_updJob h
      · rename_i heq
        exact ih (kept_updJob ((kept_jobWrite h).of_eq2 heq))

theorem kept_pump {i : Nat} (h : Kept a s) : Kept a (pump s i) := by
  unfold pump
  split
  · exact h
  · exact kept_jobPump h

theorem kept_ckpPage {op p : Nat} {cells : Map Byte} (h : Kept a s) : Kept a (ckpPage s op p cells) := by
  unfold ckpPage
  split
  · exact h
  · dsimp only
    split
    · exact h
    · exact kept_pump (Kept.iteThen (kept_updJob h) fun h => kept_cnt h)

theorem kept_jobBinds {i : Nat} {j : CkpJob} (h : Kept a s) : Kept a (jobBinds s i j) :=
  Kept.foldl (kept_updJob h) fun _ _ h => Kept.iteThen (kept_updSes h) fun h => kept_serve h

theorem kept_jobStart {i : Nat} {j : CkpJob} (h : Kept a s) : KeptOpt a (jobStart s i j) := by
  unfold jobStart
  dsimp only
  refine KeptOpt.ite KeptOpt.none ?_
  refine KeptOpt.some ?_
  refine kept_pump ?_
  refine kept_jobBinds ?_
  refine kept_wantPages ?_
  refine kept_updJob ?_
  refine Kept.ite2 ?_ ?_
  · refine Kept.put ?_
    split
    · exact h
    · exact kept_takeOp h
  · refine kept_setTgt ?_
    split
    · exact h
    · exact kept_takeOp h

theorem kept_ckpRefuse {c : Cmd} {code : Nat} (h : Kept a s) : Kept a (ckpRefuse s c code) :=
  Kept.ite (kept_refuseSes h) (kept_finishCmd (kept_recordErr h))

theorem kept_remoteGiveUp {sid gen : Nat} (h : Kept a s) : Kept a (remoteGiveUp s sid gen) := by
  unfold remoteGiveUp
  split
  · exact h
  · exact kept_updSes (Kept.foldl h fun _ _ => kept_waitDone)

theorem kept_jobGone {i : Nat} {j : CkpJob} (h : Kept a s) : Kept a (jobGone s i j) := by
  unfold jobGone
  dsimp only
  refine Kept.put ?_
  refine Kept.foldl ?_ fun _ _ h => kept_updSes h
  split
  · exact kept_freeOp h
  · exact h

theorem kept_jobFail {i code : Nat} (h : Kept a s) : Kept a (jobFail s i code) := by
  unfold jobFail
  split
  · exact h
  · dsimp only
    refine Kept.ite ?_ ?_
    · refine Kept.foldl ?_ fun _ _ h => kept_remoteGiveUp h
      split
      · exact kept_ckpRefuse (Kept.iteThen (Kept.iteThen (kept_jobGone h) fun h => kept_setTgt h) fun h => kept_raiseBit h)
      · exact Kept.iteThen (Kept.iteThen (kept_jobGone h) fun h => kept_setTgt h) fun h => kept_raiseBit h
    · split
      · exact kept_ckpRefuse (Kept.iteThen (Kept.iteThen (kept_jobGone h) fun h => kept_setTgt h) fun h => kept_raiseBit h)
      · exact Kept.iteThen (Kept.iteThen (kept_jobGone h) fun h => kept_setTgt h) fun h => kept_raiseBit h

theorem kept_jobNextGo {t fuel : Nat} (h : Kept a s) : Kept a (jobNextGo t fuel s) := by
  induction fuel generalizing s with
  | zero => exact h
  | succ fuel ih =>
    rw [jobNextGo]
    refine Kept.ite h ?_
    split
    · exact h
    · split
      · rename_i heq
        exact (kept_jobStart h).of_eq heq
      · exact ih (kept_jobFail (kept_opFull h))

theorem kept_jobNext {t : Nat} (h : Kept a s) : Kept a (jobNext s t) := kept_jobNextGo h

theorem kept_jobComplete {i : Nat} (h : Kept a s) : Kept a (jobComplete s i) := by
  unfold jobComplete
  split
  · exact h
  · dsimp only
    refine kept_jobNext ?_
    split
    · exact kept_cnt (Kept.iteElse (kept_jobGone h) fun h => kept_setTgt h)
    · refine Kept.ite ?_ (kept_stageDone (kept_cnt (Kept.iteElse (kept_jobGone h) fun h => kept_setTgt h)))
      split
      · exact kept_stageDone (kept_cnt (Kept.iteElse (kept_jobGone h) fun h => kept_setTgt h))
      · exact Kept.ite (kept_stageDone (kept_cnt (Kept.iteElse (kept_jobGone h) fun h => kept_setTgt h))) (kept_refuseSes
            (kept_cnt (Kept.iteElse (kept_jobGone h) fun h => kept_setTgt h)))
      · exact kept_refuseSes (kept_cnt (Kept.iteElse (kept_jobGone h) fun h => kept_setTgt h))

theorem kept_shardAck {i bytes : Nat} (h : Kept a s) : Kept a (shardAck s i bytes) := by
  unfold shardAck
  split
  · exact h
  · exact kept_pump (kept_updJob (Kept.ite h (kept_cnt h)))

theorem kept_manifestAck {i bytes : Nat} (h : Kept a s) : Kept a (manifestAck s i bytes) := by
  unfold manifestAck
  split
  · exact h
  · exact Kept.ite (kept_jobComplete (kept_updJob h)) (kept_issueWrite (Kept.put (kept_cnt (kept_updJob h))))

theorem kept_anchorAck {i : Nat} (h : Kept a s) : Kept a (anchorAck s i) := kept_jobComplete (kept_cnt h)

theorem kept_anchorRead {t : Nat} {data : List Byte} (h : Kept a s) : Kept a (anchorRead s t data) := kept_jobNext (kept_setTgt h)

theorem kept_tgtTurn {t : Nat} {on : Bool} (h : Kept a s) : Kept a (tgtTurn s t on) :=
  Kept.ite (kept_issueRead (kept_wrB (kept_setTgt h))) (Kept.foldl (kept_wrB (kept_setTgt h)) fun _ _ => kept_jobFail)

theorem kept_ckpRelease {t r : Nat} (h : Kept a s) : Kept a (ckpRelease s t r) := kept_setTgt (kept_wrB h)

theorem kept_lazyReads (h : Kept a s) : Kept a (lazyReads s) := by
  unfold lazyReads
  dsimp only
  refine Kept.foldl h fun s e h => ?_
  split
  · exact h
  · exact Kept.ite (kept_losePage h) (Kept.ite h (kept_issueRead h))

theorem kept_lazyArrived {p : Nat} {data : List Byte} (h : Kept a s) : Kept a (lazyArrived s p data) := by
  unfold lazyArrived
  split
  · exact h
  · split
    · exact kept_losePage h
    · exact Kept.foldl h fun _ _ h => kept_stage (kept_setOp h)

theorem kept_jobsBegin (h : Kept a s) : Kept a (jobsBegin s) :=
  Kept.foldl h fun _ _ h => Kept.ite h (Kept.ite (KeptOpt.getD (kept_jobStart h) h) (kept_jobNext h))

theorem kept_ckpCatch (h : Kept a s) : Kept a (ckpCatch s) := kept_jobsBegin (Kept.put h)

theorem kept_remoteFinish (h : Kept a s) : Kept a (remoteFinish s) := by
  unfold remoteFinish
  dsimp only
  refine Kept.put ?_
  refine Kept.foldl h fun s e h => ?_
  split
  · exact Kept.ite (kept_markJournal (kept_setSes h)) h
  · exact h

theorem kept_remoteStart (h : Kept a s) : Kept a (remoteStart s) := Kept.foldl (Kept.put h) fun _ _ h => kept_jobNext (kept_addJob h)

theorem kept_ckpFigures (h : Kept a s) : Kept a (ckpFigures s) := Kept.foldl h fun _ _ h => kept_wrB (kept_wrB (kept_wrB (kept_wrB h)))

theorem kept_ckpFinish (h : Kept a s) : Kept a (ckpFinish s) := by
  unfold ckpFinish
  dsimp only
  refine kept_ckpFigures ?_
  refine Kept.put ?_
  refine Kept.foldl ?_ fun _ _ h => kept_pump h
  refine kept_jobsBegin ?_
  refine Kept.foldl h fun s e h => ?_
  split
  · exact kept_tgtTurn h
  · exact h

theorem kept_startCheckpoint {c : Cmd} {data : List Byte} (h : Kept a s) : Kept a (startCheckpoint c data s) := by
  unfold startCheckpoint
  dsimp only
  refine Kept.ite (kept_ckpRefuse h) ?_
  refine Kept.ite (kept_ckpRefuse h) ?_
  refine Kept.ite (kept_ckpRefuse h) ?_
  split
  · exact kept_ckpRefuse h
  · exact kept_jobNext (kept_addJob h)

theorem kept_execCheckpoint {c : Cmd} {data : List Byte} (h : Kept a s) : KeptOut a (execCheckpoint c data s) :=
  KeptOut.next (kept_submit h (fun _ _ _ h => kept_startCheckpoint h))

theorem kept_ckpExpiry {t : Nat} (h : Kept a s) : Kept a (ckpExpiry s t) := by
  unfold ckpExpiry
  split
  · exact h
  · exact Kept.ite (kept_jobNext (kept_jobFail h)) h

theorem kept_execCkpWaitExpiry {tenant : Nat} (h : Kept a s) : KeptOut a (execCkpWaitExpiry tenant s) := KeptOut.next (kept_ckpExpiry h)

theorem kept_ckpQpError {q : Nat} (h : Kept a s) : Kept a (ckpQpError s q) := Kept.foldl h fun _ _ => kept_jobFail

/-! ### Restoring -/

theorem kept_setRest {id : Nat} {r : RestoreJob} (h : Kept a s) : Kept a (setRest s id r) := Kept.put h

theorem kept_restRead {id : Nat} {r : RestoreJob} {off len : Nat} (h : Kept a s) : Kept a (restRead s id r off len) := kept_issueRead h

theorem kept_restCharge {r : RestoreJob} {x : RestSes} (h : Kept a s) : KeptOpt a ((restCharge s r x).map (·.2)) := by
  unfold restCharge
  dsimp only
  split
  · refine KeptOpt.ite2 KeptOpt.none ?_
    split
    · exact KeptOpt.none
    · rename_i heq
      have hlist := (kept_placePages h).of_eq heq
      refine KeptOpt.ite2 ?_ (KeptOpt.ite2 ?_ ?_)
      · rw [Option.map_map]
        exact kept_allocPages hlist
      · exact KeptOpt.some (kept_addCharge (Kept.foldl hlist fun _ _ => kept_setPte))
      · exact KeptOpt.some (Kept.put (Kept.foldl hlist fun _ _ => kept_setPte))
  · exact KeptOpt.none

theorem kept_restCharges {id : Nat} (h : Kept a s) : Kept a (restCharges s id) := by
  unfold restCharges
  split
  · exact h
  · refine Kept.foldl h fun s e h => ?_
    split
    · exact h
    · split
      · exact h
      · refine Kept.ite h ?_
        split
        · exact h
        · rename_i heq
          have ht := (kept_restCharge h).of_eq2 heq
          exact kept_setRest ht

theorem kept_restReads {id fuel : Nat} (h : Kept a s) : Kept a (restReads s id fuel) := by
  induction fuel generalizing s with
  | zero => exact h
  | succ fuel ih =>
    rw [restReads]
    split
    · exact h
    · split
      · exact h
      · exact Kept.ite h (ih (kept_restRead (kept_setRest h)))

theorem kept_restPut {mode p owner : Nat} {cells : Map Byte} (h : Kept a s) : Kept a (restPut s mode p owner cells) := by
  unfold restPut
  split
  · exact h
  · exact Kept.ite (kept_updPte (kept_fillFrame (kept_cnt h))) (kept_useCharge (kept_putSealed (kept_cnt h)))

theorem kept_restBody {id off : Nat} {data : List Byte} (h : Kept a s) : Kept a (restBody s id off data) := by
  unfold restBody
  split
  · exact h
  · dsimp only
    split
    · exact kept_setRest h
    · refine Kept.foldl (kept_setRest h) fun s e h => ?_
      split
      · exact h
      · split
        · exact h
        · refine Kept.ite h ?_
          refine kept_setRest ?_
          refine Kept.foldl h fun s e h => ?_
          split
          · exact kept_restPut h
          · exact kept_updPte h

theorem kept_restText {x : RestSes} {y : RestRec} (h : Kept a s) : Kept a (restText s x y).2.2.2 :=
  Kept.ite222 h (Kept.ite222 (kept_setCtx h) (kept_setRec (kept_setCtx h)))

theorem kept_restAppear {id i : Nat} (h : Kept a s) : Kept a (restAppear s id i) := by
  unfold restAppear
  split
  · exact h
  · rename_i r _
    split
    · exact h
    · split
      · exact kept_setRest (kept_dropCharges (kept_setTgt (Kept.iteThen (kept_markJournal (kept_tally (kept_courseJoin (kept_commitPages
          (kept_writeList (Kept.put (kept_setSes (kept_restText (kept_newMeter (tenant := r.cmd.f2 0 12) h))))))))) fun h => kept_raiseBit h)))
      · exact h

theorem kept_restReport {id : Nat} {r : RestoreJob} (h : Kept a s) : Kept a (restReport s id r) := by
  unfold restReport
  extract_lets d freed ckp closed failed told
  have hfreed : Kept a freed := by
    simp only [freed]
    split
    · exact kept_freeOp h
    · exact h
  have hclosed : Kept a closed := Kept.put hfreed
  have hfailed : Kept a failed := hclosed.iteElse fun h => kept_recordErr h
  have htold : Kept a told := hfailed.iteThen fun h => kept_raiseBit h
  exact Kept.ite (kept_stageDone htold) (kept_issueWrite htold)

theorem kept_restGo {id : Nat} (h : Kept a s) : Kept a (restGo s id) := by
  unfold restGo
  split
  · exact h
  · exact Kept.ite (kept_restReads (kept_restCharges h)) h

theorem kept_restFinish (h : Kept a s) : Kept a (restFinish s) := by
  unfold restFinish
  refine Kept.foldl h fun s id h => ?_
  split
  · exact h
  · refine Kept.ite h ?_
    extract_lets appeared counted
    have happeared : Kept a appeared := by
      refine Kept.foldl h fun s i h => ?_
      split
      · exact Kept.ite (kept_restAppear h) h
      · exact h
    have hcounted : Kept a counted := by
      simp only [counted]
      split
      · exact Kept.ite (kept_setRest happeared) happeared
      · exact happeared
    split
    · exact Kept.ite (kept_restReport hcounted) (kept_restGo hcounted)
    · exact hcounted

theorem kept_restChosen {id : Nat} {r : RestoreJob} (h : Kept a s) : Kept a (restChosen s id r) := kept_restGo (kept_setRest h)

theorem kept_restHeads {id : Nat} {r : RestoreJob} (h : Kept a s) : Kept a (restHeads s id r) := by
  unfold restHeads
  split
  · exact kept_restChosen h
  · exact kept_restRead (kept_setRest h)

theorem kept_restManifests {id : Nat} {r : RestoreJob} (h : Kept a s) : Kept a (restManifests s id r) := by
  unfold restManifests
  split
  · exact kept_restHeads h
  · exact kept_restRead (kept_setRest h)

theorem kept_restArrived {id off : Nat} {data : List Byte} (h : Kept a s) : Kept a (restArrived s id off data) := by
  unfold restArrived
  split
  · exact h
  · dsimp only
    split
    · exact kept_restManifests h
    · exact Kept.ite (kept_restRead h) (kept_restManifests h)
    · split
      · exact kept_restChosen h
      · split
        · exact kept_restHeads h
        · exact kept_restHeads h
    · exact kept_restGo (kept_restBody h)

theorem kept_startRestore {c : Cmd} {data : List Byte} (h : Kept a s) : Kept a (startRestore c data s) := by
  unfold startRestore
  dsimp only
  refine Kept.ite (kept_ckpRefuse h) ?_
  refine Kept.ite (kept_ckpRefuse h) ?_
  refine Kept.ite (kept_ckpRefuse h) ?_
  split
  · exact kept_ckpRefuse h
  · exact Kept.ite (kept_finishCmd (kept_opFull h)) (kept_restRead (kept_setRest (kept_takeOp h)))

theorem kept_execRestore {c : Cmd} {data : List Byte} (h : Kept a s) : KeptOut a (execRestore c data s) :=
  KeptOut.next (kept_submit h (fun _ _ _ h => kept_startRestore h))

theorem kept_restExpiry {id : Nat} (h : Kept a s) : Kept a (restExpiry s id) := by
  unfold restExpiry
  dsimp only
  split
  · exact kept_restCharges h
  · exact Kept.iteThen (kept_restCharges h) fun h => kept_setRest h

theorem kept_restFail {id code : Nat} (h : Kept a s) : Kept a (restFail s id code) := by
  unfold restFail
  split
  · exact h
  · dsimp only
    refine kept_ckpRefuse ?_
    refine Kept.put ?_
    split
    · exact kept_freeOp (Kept.foldl h fun _ _ h => kept_dropCharges (kept_freePages (kept_freePages h)))
    · exact Kept.foldl h fun _ _ h => kept_dropCharges (kept_freePages (kept_freePages h))

theorem kept_restQpError {q : Nat} (h : Kept a s) : Kept a (restQpError s q) := Kept.foldl h fun _ _ => kept_restFail

/-! ### Power -/

theorem kept_seeVolt {mv : Nat} (h : Kept a s) : Kept a (seeVolt s mv) := kept_wrF (Kept.put h)

theorem kept_rangeEvent (h : Kept a s) : Kept a (rangeEvent s) := kept_raiseBit h

theorem kept_rangeLow {mv : Nat} (h : Kept a s) : Kept a (rangeLow s mv) :=
  Kept.ite h (Kept.iteElse (kept_seeVolt h) fun h => kept_rangeEvent (Kept.put h))

theorem kept_execInputRangeLow {mv : Nat} (h : Kept a s) : KeptOut a (execInputRangeLow mv s) := KeptOut.next (kept_rangeLow h)

theorem kept_rangeHigh {mv : Nat} (h : Kept a s) : Kept a (rangeHigh s mv) :=
  Kept.ite h (Kept.iteElse (kept_seeVolt h) fun h => kept_rangeEvent (Kept.put h))

theorem kept_execInputRangeHigh {mv : Nat} (h : Kept a s) : KeptOut a (execInputRangeHigh mv s) := KeptOut.next (kept_rangeHigh h)

theorem kept_inputInRange {mv : Nat} (h : Kept a s) : Kept a (inputInRange s mv) := Kept.ite h (kept_seeVolt (Kept.put h))

theorem kept_execInputInRange {mv : Nat} (h : Kept a s) : KeptOut a (execInputInRange mv s) := KeptOut.next (kept_inputInRange h)

theorem kept_powerCatch {w : Nat} (h : Kept a s) : Kept a (powerCatch s w) :=
  Kept.iteThen (kept_wrF (kept_wrF (Kept.put h))) fun h => kept_raiseBit h

theorem kept_setHold {st pages : Nat} (h : Kept a s) : Kept a (setHold s st pages) :=
  Kept.iteElse (Kept.iteThen (kept_wrF (kept_wrF (Kept.put h))) fun h => kept_wrF h) fun h => kept_raiseBit h

theorem kept_askBudget {st pages : Nat} (h : Kept a s) : Kept a (askBudget s st pages) := Kept.ite (kept_setHold h) (Kept.put h)

theorem kept_startTest (h : Kept a s) : Kept a (startTest s) := Kept.ite h (Kept.iteElse (kept_wrF (Kept.put h)) fun h => kept_askBudget h)

theorem kept_execHoldupTest (h : Kept a s) : KeptOut a (execHoldupTest s) := KeptOut.next (Kept.ite (kept_startTest h) h)

theorem kept_execHoldupRetestTimer (h : Kept a s) : KeptOut a (execHoldupRetestTimer s) := KeptOut.next (Kept.ite h (Kept.put h))

theorem kept_installResult (h : Kept a s) : Kept a (installResult s) := by
  unfold installResult
  split
  · exact h
  · exact kept_askBudget (kept_wrF (kept_wrF (kept_wrF (kept_wrF (kept_wrF (Kept.put h))))))

theorem kept_holdupResult {capUf esrUohm : Nat} (h : Kept a s) : Kept a (holdupResult s capUf esrUohm) :=
  Kept.ite h (Kept.ite (kept_installResult (Kept.put h)) (Kept.put h))

theorem kept_execHoldupTestResult {capUf esrUohm : Nat} (h : Kept a s) : KeptOut a (execHoldupTestResult capUf esrUohm s) :=
  KeptOut.next (kept_holdupResult h)

theorem kept_powerFinish (h : Kept a s) : Kept a (powerFinish s) := by
  unfold powerFinish
  dsimp only
  split
  · exact Kept.iteThen (kept_installResult h) fun h => kept_setHold h
  · exact kept_installResult h

theorem kept_execJournalTailWritten {bytes : Nat} (h : Kept a s) : KeptOut a (execJournalTailWritten bytes s) := KeptOut.next (Kept.put h)

theorem kept_abandonTest (h : Kept a s) : Kept a (abandonTest s) := Kept.ite h (kept_wrF (kept_wrF (Kept.put h)))

theorem kept_startWater {cause : Nat} (h : Kept a s) : Kept a (startWater s cause) :=
  Kept.ite h (Kept.foldl (Kept.putStkOut (kept_pushEvents (Kept.put (kept_abandonTest (kept_stopLegs h))))) fun _ _ => kept_overrides)

theorem kept_askReset {cause : Nat} (h : Kept a s) : Kept a (askReset s cause) := Kept.ite h (kept_startWater (Kept.ite h (Kept.put h)))

theorem kept_execPowerLoss {mv : Nat} (h : Kept a s) : KeptOut a (execPowerLoss mv s) :=
  KeptOut.next (Kept.ite h (kept_startWater (kept_seeVolt h)))

theorem kept_execOverVoltage {mv : Nat} (h : Kept a s) : KeptOut a (execOverVoltage mv s) :=
  KeptOut.next (Kept.ite h (kept_startWater (kept_seeVolt h)))

theorem kept_execPwrEnDeassert (h : Kept a s) : KeptOut a (execPwrEnDeassert s) := KeptOut.next (kept_startWater (Kept.put h))

/-! ### Faults and Erg tests -/

theorem kept_addRec {n : ErrNote} {outcome : Nat} (h : Kept a s) : Kept a (addRec s n outcome).2 := Kept.put h

theorem kept_updRecs {is : List Nat} {f : FltRec → FltRec} (h : Kept a s) : Kept a (updRecs s is f) := Kept.put h

theorem kept_noteHist {what key : Nat} (h : Kept a s) : Kept a (noteHist s what key) := Kept.put h

theorem kept_updPlanVer {model ver : Nat} {f : Plan → Plan} (h : Kept a s) : Kept a (updPlanVer s model ver f) := Kept.put h

theorem kept_dropBound {model ver : Nat} (h : Kept a s) : Kept a (dropBound s model ver) := by
  unfold dropBound
  dsimp only
  refine Kept.foldl (Kept.foldl h fun _ _ => kept_dropPass) fun s e h => ?_
  split
  · exact kept_refuseSes (kept_freeHead h)
  · exact h

theorem kept_blockPlan {model ver leg reason lane unit : Nat} (h : Kept a s) : Kept a (blockPlan s model ver leg reason lane unit) := by
  unfold blockPlan
  split
  · exact h
  · exact Kept.ite h (kept_raiseBit (kept_noteNofit (kept_dropBound (kept_updPlanVer h))))

theorem kept_blockFailing {unit : Nat} (h : Kept a s) : Kept a (blockFailing s unit) := by
  unfold blockFailing
  dsimp only
  refine Kept.foldl (Kept.ite (Kept.put h) h) fun s e h => ?_
  refine Kept.foldl h fun s e h => ?_
  refine Kept.ite h ?_
  split
  · exact kept_blockPlan h
  · exact h

theorem kept_retarget {u : Nat} (h : Kept a s) : Kept a (retarget s u) :=
  Kept.foldl h fun _ _ h => Kept.ite h (kept_setOp (Kept.foldl h fun _ _ h => Kept.putTier h))

theorem kept_migrateOut {ps : List Nat} (h : Kept a s) : Kept a (migrateOut s ps) :=
  Kept.foldl (Kept.ite h (kept_startOp h)) fun _ _ h => kept_raiseBit (kept_cnt (Kept.ite h (kept_startOp h)))

theorem kept_clearSlot {t : Nat} (h : Kept a s) : Kept a (clearSlot s t) := by
  unfold clearSlot
  split
  · exact kept_migrateOut h
  · exact h

theorem kept_moveSys {g : Nat} (h : Kept a s) : Kept a (moveSys s g) := by
  unfold moveSys
  split
  · exact h
  · exact Kept.ite (kept_clearSlot (Kept.putTier h)) (Kept.ite h (kept_clearSlot (kept_takeOp0 h)))

theorem kept_moveSealed {bad : State → Pte → Bool} (h : Kept a s) : Kept a (moveSealed s bad) := by
  unfold moveSealed
  refine Kept.foldl h fun s e h => ?_
  dsimp only
  refine Kept.ite ?_ h
  split
  · exact kept_updPte (Kept.putTier h)
  · exact h

theorem kept_rebuildDie (h : Kept a s) : Kept a (rebuildDie s) := kept_moveSealed h

theorem kept_endWalks {k : Nat} (h : Kept a s) : Kept a (endWalks s k) := Kept.put h

theorem kept_fenceEffects {u : Nat} (h : Kept a s) : Kept a (fenceEffects s u) :=
  kept_blockFailing (Kept.iteThen (Kept.iteThen (Kept.foldl (kept_migrateOut (kept_retarget (Kept.putStk h))) fun _ _ => kept_moveSys) fun h =>
      kept_rebuildDie h) fun h => kept_endWalks h)

theorem kept_putFence {u cls : Nat} (h : Kept a s) : Kept a (putFence s u cls) := by
  unfold putFence
  split
  · exact Kept.put h
  · exact Kept.put h

theorem kept_fenceOne {u cls : Nat} (h : Kept a s) : Kept a (fenceOne s u cls) :=
  Kept.iteThen (kept_fenceEffects (kept_raiseBit (kept_putFence h))) fun h => kept_askReset h

theorem kept_makeRoom (h : Kept a s) : Kept a (makeRoom s) := by
  unfold makeRoom
  refine Kept.ite h ?_
  split
  · exact h
  · exact Kept.ite (Kept.put h) (kept_fenceOne (Kept.put h))

theorem kept_fenceGo {cls fuel u : Nat} (h : Kept a s) : Kept a (fenceGo cls fuel u s) := by
  induction fuel generalizing s u with
  | zero => exact h
  | succ fuel ih =>
    rw [fenceGo]
    refine Kept.ite h ?_
    dsimp only
    split
    · exact ih (kept_fenceOne (kept_makeRoom h))
    · exact kept_fenceOne (kept_makeRoom h)

theorem kept_fence {u cls : Nat} (h : Kept a s) : Kept a (fence s u cls) := kept_fenceGo h

theorem kept_unfence {u : Nat} (h : Kept a s) : Kept a (unfence s u) := Kept.ite (kept_coldStart (Kept.put h)) (Kept.put h)

theorem kept_dropContext {pc : Nat} (h : Kept a s) : Kept a (dropContext s pc) := by
  unfold dropContext
  split
  · exact h
  · dsimp only
    split
    · exact kept_restartPass (Kept.putStk (kept_setPc h))
    · exact kept_setPc h

theorem kept_ergCount (h : Kept a s) : Kept a (ergCount s) := Kept.put h

theorem kept_ergCatch (h : Kept a s) : Kept a (ergCatch s) := Kept.putStk (Kept.putStk h)

theorem kept_addTest {t : ErgTest} (h : Kept a s) : Kept a (addTest s t) := by
  unfold addTest
  dsimp only
  split
  · exact kept_dropContext (Kept.put h)
  · exact kept_dropContext (Kept.put h)
  · exact Kept.put h

theorem kept_ergEvent {u res : Nat} (h : Kept a s) : Kept a (ergEvent s u res) := kept_sendEvent h

theorem kept_ergDone {t : ErgTest} {res : Nat} {lifted : Bool} (h : Kept a s) : Kept a (ergDone s t res lifted) :=
  Kept.foldl h fun _ _ => kept_stageDone

theorem kept_lasting {t : ErgTest} {u erg : Nat} (h : Kept a s) : Kept a (lasting s t u erg) :=
  kept_ergDone (kept_ergEvent (kept_fence (kept_updRecs h)))

theorem kept_testEnd {t : ErgTest} (h : Kept a s) : Kept a (testEnd s t) := by
  unfold testEnd
  split
  · exact Kept.put h
  · exact Kept.ite (kept_ergDone (Kept.iteElse (Kept.iteThen (kept_updRecs h) fun h => kept_unfence h) fun h => kept_ergEvent h))
        (Kept.ite (Kept.foldl (kept_ergDone (Kept.iteElse (Kept.iteThen (kept_updRecs h) fun h => kept_unfence h) fun h => kept_ergEvent h))
        fun _ _ h => Kept.ite (kept_blockPlan h) h) (Kept.iteThen (kept_noteHist (kept_ergDone (Kept.iteElse (Kept.iteThen
        (kept_updRecs h) fun h => kept_unfence h) fun h => kept_ergEvent h))) fun k1 => Kept.iteThen (kept_fence (kept_updRecs k1)) fun h =>
        kept_ergEvent h))
  · exact kept_lasting h

theorem kept_refuseErg {c : Cmd} {code : Nat} (h : Kept a s) : Kept a (refuseErg s c code) := kept_finishCmd (kept_recordErr h)

theorem kept_startErg {c : Cmd} {x1 : List Byte} (h : Kept a s) : Kept a (startErg c x1 s) :=
  Kept.ite (kept_refuseErg h) (Kept.ite (kept_refuseErg h) (Kept.ite (kept_refuseErg h) (Kept.ite (Kept.put h) (kept_addTest h))))

theorem kept_execErg {c : Cmd} (h : Kept a s) : KeptOut a (execErg c s) := KeptOut.next (kept_submit h (fun _ _ _ h => kept_startErg h))

theorem kept_ergTestEnd {u : Nat} {pass : Bool} {row : Option Nat} (h : Kept a s) : Kept a (ergTestEnd s u pass row) :=
  Kept.ite (Kept.put h) (Kept.ite h (Kept.put (Kept.ite (Kept.iteThen (Kept.ite (kept_cnt h) (kept_cnt (kept_cnt h))) fun h => kept_wrF h)
      h)))

theorem kept_execErgTestEnd {unit : Nat} {pass : Bool} {row : Option Nat} (h : Kept a s) : KeptOut a (execErgTestEnd unit pass row s) :=
  KeptOut.ite (KeptOut.next (kept_ergTestEnd h)) KeptOut.fault

theorem kept_loseFlt {p : Nat} (h : Kept a s) : Kept a (loseFlt s p) := kept_raiseBit (kept_losePage h)

theorem kept_repairPage {p : Nat} (h : Kept a s) : Kept a (repairPage s p) := Kept.ite h (kept_startOp (Kept.put h))

theorem kept_repair {n : ErrNote} (h : Kept a s) : Kept a (repair s n).2 := by
  unfold repair
  split
  · exact h
  · split
    · exact h
    · refine Kept.ite2 h ?_
      refine Kept.ite2 h ?_
      refine Kept.ite2 (kept_repairPage h) ?_
      split
      · exact kept_loseFlt h
      · exact Kept.foldl (kept_loseFlt h) fun _ _ => kept_blockPlan

theorem kept_suspect {n : ErrNote} {i : Nat} (h : Kept a s) : Kept a (suspect s n i) := by
  unfold suspect
  split
  · exact kept_lasting (Kept.put h)
  · exact kept_addTest h

theorem kept_noteFinish {n : ErrNote} (h : Kept a s) : Kept a (noteFinish s n) := by
  unfold noteFinish
  dsimp only
  refine Kept.ite (kept_addRec h) ?_
  split
  · exact Kept.ite (kept_fence (kept_updRecs (Kept.foldl (kept_addRec h) fun _ _ => kept_noteHist)))
        (kept_cnt (kept_updRecs (Kept.foldl (kept_addRec h) fun _ _ => kept_noteHist)))
  · exact Kept.ite (kept_fence (kept_updRecs (kept_noteHist (kept_addRec h)))) (kept_suspect (kept_updRecs (kept_repair (kept_noteHist
        (kept_addRec h)))))
  · refine kept_suspect ?_
    split
    · exact kept_noteHist (kept_addRec h)
    · exact kept_addRec h
  · exact kept_suspect (kept_addRec h)

theorem kept_dropDamaged (h : Kept a s) : Kept a (dropDamaged s) := by
  unfold dropDamaged
  refine Kept.foldl h fun s e h => ?_
  dsimp only
  split
  · exact h
  · refine Kept.ite h ?_
    split
    · exact kept_refuseSes (kept_freeHead h)
    · exact kept_restartPass (kept_updPass (kept_refuseSes (kept_freeHead h)))

theorem kept_faultFinish (h : Kept a s) : Kept a (faultFinish s) :=
  Kept.iteElse (Kept.foldl (Kept.put (Kept.foldl (Kept.put h) fun _ _ => kept_noteFinish)) fun _ _ => kept_testEnd) fun h => kept_wrF h

theorem kept_patrolScrub {flips : List (Nat × Nat × Byte)} (h : Kept a s) : Kept a (patrolScrub s flips) :=
  Kept.ite h (Kept.iteThen (Kept.put (Kept.foldl h fun _ _ h => Kept.ite h (kept_pullNotes h))) fun h => kept_cnt h)

theorem kept_execPatrolScrub {flips : List (Nat × Nat × Byte)} (h : Kept a s) : KeptOut a (execPatrolScrub flips s) :=
  KeptOut.next (kept_patrolScrub h)

theorem kept_flashFail {f : Nat} {retryOk parityOk : Bool} (h : Kept a s) : Kept a (flashFail s f retryOk parityOk) := by
  unfold flashFail
  split
  · exact h
  · dsimp only
    split
    · exact kept_noteErr (kept_recordErr h)
    · exact Kept.ite (kept_noteErr (kept_recordErr h)) (Kept.ite (kept_putSealed (kept_noteErr (kept_recordErr h)))
          (Kept.ite (kept_freeF1 (kept_noteErr (kept_recordErr h))) (Kept.iteElse (kept_noteErr (kept_recordErr h)) fun h => kept_loseFlt h)))

theorem kept_execFlashReadFail {frame : Nat} {retryOk parityOk : Bool} (h : Kept a s) : KeptOut a (execFlashReadFail frame retryOk parityOk s) :=
  KeptOut.ite KeptOut.fault (KeptOut.next (kept_flashFail h))

/-! ### Security -/

theorem kept_extendMeas {slot : Nat} {d : List Byte} (h : Kept a s) : Kept a (extendMeas s slot d) := Kept.put h

theorem kept_measureChange {words : List Nat} (h : Kept a s) : Kept a (measureChange s words) := kept_extendMeas h

theorem kept_measureInstalls {before : State} (h1 : Kept a s) : Kept a (measureInstalls before s) :=
  Kept.foldl (Kept.foldl h1 fun _ _ => kept_extendMeas) fun _ _ => kept_extendMeas

theorem kept_rightsWrite {d off word : Nat} (h : Kept a s) : Kept a (rightsWrite s d off word).2 := Kept.ite2 (Kept.put h) h

theorem kept_rightsApply {c : RightsChange} (h : Kept a s) : Kept a (rightsApply s c) :=
  Kept.iteElse (kept_measureChange (kept_wrWord h)) fun k1 => Kept.iteElse k1 fun h => Kept.put h

theorem kept_keyInstall {t gen : Nat} (h : Kept a s) : Kept a (keyInstall s t gen).2 := Kept.ite2 h (Kept.put h)

theorem kept_keyWord {t w v : Nat} (h : Kept a s) : Kept a (keyWord s t w v) := Kept.put h

theorem kept_keyApply {t : Nat} {k : CkpKey} (h : Kept a s) : Kept a (keyApply s t k) := by
  unfold keyApply
  split
  · exact h
  · exact kept_measureChange (Kept.put h)

theorem kept_allotMoves (h : Kept a s) : Kept a (allotMoves s) := Kept.ite h (kept_startOp h)

theorem kept_allotApply {t : Nat} (h : Kept a s) : Kept a (allotApply s t).2 := Kept.ite2 h (kept_allotMoves (kept_moveSealed (Kept.put h)))

theorem kept_allotFinish (h : Kept a s) : Kept a (allotFinish s) :=
  Kept.ite h (Kept.ite (kept_allotMoves h) (Kept.foldl (Kept.put h) fun _ _ h => kept_raiseBit (kept_measureChange h)))

theorem kept_refuseSec {c : Cmd} {code : Nat} (h : Kept a s) : Kept a (refuseSec s c code) := kept_finishCmd (kept_recordErr h)

theorem kept_startRigUpdate {c : Cmd} {data : List Byte} (h : Kept a s) : Kept a (startRigUpdate c data s) := by
  unfold startRigUpdate
  refine Kept.ite (kept_refuseSec h) ?_
  split
  · exact kept_finishCmd h
  · exact Kept.ite (Kept.ite (kept_finishCmd (Kept.put h)) (kept_refuseSec h)) (Kept.ite (kept_finishCmd (Kept.put h)) (kept_refuseSec h))

theorem kept_execRigUpdateRigging {c : Cmd} {data : List Byte} (h : Kept a s) : KeptOut a (execRigUpdateRigging c data s) :=
  KeptOut.next (kept_submit h (fun _ _ _ h => kept_startRigUpdate h))

theorem kept_execRigUpdateFirmware {c : Cmd} {data : List Byte} (h : Kept a s) : KeptOut a (execRigUpdateFirmware c data s) :=
  KeptOut.next (kept_submit h (fun _ _ _ h => kept_startRigUpdate h))

theorem kept_quoteNow {c : Cmd} (h : Kept a s) : Kept a (quoteNow s c) := kept_issueWrite (kept_nextFree h)

theorem kept_startAttest {c : Cmd} {x1 : List Byte} (h : Kept a s) : Kept a (startAttest c x1 s) := by
  unfold startAttest
  refine Kept.ite (kept_refuseSec h) ?_
  split
  · exact kept_finishCmd h
  · exact Kept.ite (kept_quoteNow h) (Kept.put h)

theorem kept_execAttest {c : Cmd} (h : Kept a s) : KeptOut a (execAttest c s) :=
  KeptOut.next (kept_submit h (fun _ _ _ h => kept_startAttest h))

theorem kept_secCatch (h : Kept a s) : Kept a (secCatch s) := Kept.put h

theorem kept_secFinish (h : Kept a s) : Kept a (secFinish s) :=
  kept_allotFinish (Kept.foldl (Kept.iteElse (Kept.foldl (Kept.put h) fun _ _ => kept_rightsApply) fun h => kept_raiseBit h) fun _ _ =>
      kept_keyApply)

theorem kept_quotesFinish (h : Kept a s) : Kept a (quotesFinish s) := Kept.foldl (Kept.put h) fun _ _ => kept_quoteNow

/-! ### Rows of session commands -/

theorem kept_execOpenSes {c : Cmd} (h : Kept a s) : KeptOut a (execOpenSes c s) :=
  KeptOut.next (kept_submit h (fun _ _ _ h => kept_startOpen h))

theorem kept_execImportBegin {c : Cmd} {data : List Byte} (h : Kept a s) : KeptOut a (execImportBegin c data s) :=
  KeptOut.next (kept_submit h (fun _ _ _ h => kept_startSes h))

theorem kept_execImportCommit {c : Cmd} (h : Kept a s) : KeptOut a (execImportCommit c s) :=
  KeptOut.next (kept_submit h (fun _ _ _ h => kept_startSes h))

theorem kept_execImportAbort {c : Cmd} (h : Kept a s) : KeptOut a (execImportAbort c s) :=
  KeptOut.next (kept_submit h (fun _ _ _ h => kept_startSes h))

theorem kept_execAppend {c : Cmd} {data : List Byte} (h : Kept a s) : KeptOut a (execAppend c data s) :=
  KeptOut.next (kept_submit h (fun _ _ _ h => kept_startSes h))

theorem kept_execStep {c : Cmd} (h : Kept a s) : KeptOut a (execStep c s) := KeptOut.next (kept_submit h (fun _ _ _ h => kept_startSes h))

theorem kept_execPark {c : Cmd} (h : Kept a s) : KeptOut a (execPark c s) := KeptOut.next (kept_submit h (fun _ _ _ h => kept_startSes h))

theorem kept_execRevive {c : Cmd} (h : Kept a s) : KeptOut a (execRevive c s) := KeptOut.next (kept_submit h (fun _ _ _ h => kept_startSes h))

theorem kept_execFork {c : Cmd} (h : Kept a s) : KeptOut a (execFork c s) := KeptOut.next (kept_submit h (fun _ _ _ h => kept_startSes h))

theorem kept_execExportSes {c : Cmd} (h : Kept a s) : KeptOut a (execExportSes c s) :=
  KeptOut.next (kept_submit h (fun _ _ _ h => kept_startSes h))

theorem kept_execPin {c : Cmd} (h : Kept a s) : KeptOut a (execPin c s) := KeptOut.next (kept_submit h (fun _ _ _ h => kept_startSes h))

theorem kept_execRelease {c : Cmd} (h : Kept a s) : KeptOut a (execRelease c s) := KeptOut.next (kept_submit h (fun _ _ _ h => kept_startSes h))

theorem kept_execJoin {c : Cmd} (h : Kept a s) : KeptOut a (execJoin c s) := KeptOut.next (kept_submit h (fun _ _ _ h => kept_startSes h))

theorem kept_execMove {c : Cmd} (h : Kept a s) : KeptOut a (execMove c s) := KeptOut.next (kept_submit h (fun _ _ _ h => kept_startMove h))

theorem kept_execVocabLoad {c : Cmd} {data : List Byte} (h : Kept a s) : KeptOut a (execVocabLoad c data s) :=
  KeptOut.next (kept_submit h (fun _ _ _ h => kept_startVocabLoad h))

theorem kept_execGrmLoad {c : Cmd} {data : List Byte} (h : Kept a s) : KeptOut a (execGrmLoad c data s) :=
  KeptOut.next (kept_submit h (fun _ _ _ h => kept_startGrmLoad h))

theorem kept_execTableUnload {c : Cmd} (h : Kept a s) : KeptOut a (execTableUnload c s) :=
  KeptOut.next (kept_submit h (fun _ _ _ h => kept_startTableUnload h))

theorem kept_execStreamSession {c : Cmd} {data : List Byte} (h : Kept a s) : KeptOut a (execStreamSession c data s) :=
  KeptOut.next (kept_submit h (fun _ _ _ h => kept_startSes h))

theorem kept_execStreamAllocate {c : Cmd} (h : Kept a s) : KeptOut a (execStreamAllocate c s) :=
  KeptOut.next (kept_submit h (fun _ _ _ h => kept_startStreamAllocate h))

theorem kept_execStreamFree {c : Cmd} (h : Kept a s) : KeptOut a (execStreamFree c s) :=
  KeptOut.next (kept_submit h (fun _ _ _ h => kept_startStreamFree h))

theorem kept_execStreamConfigure {c : Cmd} {data : List Byte} (h : Kept a s) : KeptOut a (execStreamConfigure c data s) :=
  KeptOut.next (kept_submit h (fun _ _ _ h => kept_startStreamConfigure h))

theorem kept_execTokenize {c : Cmd} {data : List Byte} (h : Kept a s) : KeptOut a (execTokenize c data s) :=
  KeptOut.next (kept_submit h (fun _ _ _ h => kept_startTokenize h))

theorem kept_execDetokenize {c : Cmd} {data : List Byte} (h : Kept a s) : KeptOut a (execDetokenize c data s) :=
  KeptOut.next (kept_submit h (fun _ _ _ h => kept_startDetokenize h))

theorem kept_execStreamEngineTake {engine : Nat} (h : Kept a s) : KeptOut a (execStreamEngineTake engine s) :=
  KeptOut.ite KeptOut.fault (KeptOut.next (kept_engineTake h))

theorem kept_maskBuild {sid idx : Nat} (h : Kept a s) : Kept a (maskBuild s sid idx) := by
  unfold maskBuild
  split
  · exact h
  · refine Kept.ite (Kept.ite (kept_maskPut h) h) ?_
    split
    · exact kept_maskPut h
    · exact h

theorem kept_execMaskBuild {sid idx : Nat} (h : Kept a s) : KeptOut a (execMaskBuild sid idx s) := KeptOut.next (kept_maskBuild h)

theorem kept_execQuotaWaitExpiry {who : Waiter} (h : Kept a s) : KeptOut a (execQuotaWaitExpiry who s) := by
  unfold execQuotaWaitExpiry
  refine KeptOut.next ?_
  split
  · exact kept_quotaExpiry h
  · exact kept_openExpiry h
  · exact kept_courseExpiry h
  · exact kept_restExpiry h

/-! ### Device time -/

theorem kept_lengthen {by_ : Int} (h : Kept a s) : Kept a (lengthen s by_) := Kept.ite h (Kept.putStk h)

theorem kept_stepTime {by_ : Int} (h : Kept a s) : Kept a (stepTime s by_) :=
  Kept.ite (Kept.put (kept_wrF h)) (Kept.put (kept_lengthen (kept_wrF h)))

theorem kept_timeAt {t : Nat} (h : Kept a s) : Kept a (timeAt s t) := Kept.ite (Kept.put h) h

theorem kept_setLock {l : Nat} (h : Kept a s) : Kept a (setLock s l) := Kept.ite (kept_raiseBit (kept_wrF h)) (kept_wrF h)

theorem kept_freeAdjust (h : Kept a s) : Kept a (freeAdjust s) := Kept.put (kept_nextFree h)

theorem kept_servo {offset : Int} (h : Kept a s) : Kept a (servo s offset) :=
  Kept.ite (kept_stepTime (Kept.put (kept_setLock (Kept.put (kept_wrF h))))) (Kept.ite (kept_freeAdjust (kept_setLock
      (Kept.put (kept_wrF h)))) (Kept.ite (kept_stepTime (kept_setLock (Kept.put (kept_wrF h)))) (kept_raiseBit
      (Kept.put (kept_setLock (Kept.put (kept_wrF h)))))))

theorem kept_choosePort (h : Kept a s) : Kept a (choosePort s) := kept_wrF h

theorem kept_setSource {src : Nat} (h : Kept a s) : Kept a (setSource s src) :=
  Kept.ite h (kept_setLock (kept_choosePort (kept_wrF (Kept.put h))))

theorem kept_ptpMessage {i : Nat} {m : PtpMsg} (h : Kept a s) : Kept a (ptpMessage s i m) := by
  unfold ptpMessage
  refine Kept.ite h ?_
  split
  · exact Kept.ite (kept_choosePort (Kept.put h)) h
  · exact kept_choosePort (Kept.put h)
  · exact Kept.ite (kept_servo h) h

theorem kept_execPtpMessage {iface : Nat} {m : PtpMsg} (h : Kept a s) : KeptOut a (execPtpMessage iface m s) :=
  KeptOut.ite KeptOut.fault (KeptOut.next (kept_ptpMessage h))

theorem kept_ppsEdge {offset : Int} (h : Kept a s) : Kept a (ppsEdge s offset) := Kept.ite h (Kept.ite (kept_servo (Kept.put h)) (kept_servo h))

theorem kept_execPpsInEdge {offset : Int} (h : Kept a s) : KeptOut a (execPpsInEdge offset s) := KeptOut.next (kept_ppsEdge h)

theorem kept_execTimeHoldover (h : Kept a s) : KeptOut a (execTimeHoldover s) := KeptOut.next (Kept.ite h (kept_setLock (Kept.put h)))

theorem kept_execPpsOutPulse (h : Kept a s) : KeptOut a (execPpsOutPulse s) := KeptOut.next (Kept.ite (Kept.put h) h)

/-! ### The Umpire -/

theorem kept_tallyParked (h : Kept a s) : Kept a (tallyParked s) := Kept.foldl h fun _ _ h => Kept.ite h (Kept.put (kept_tally h))

theorem kept_tallySend (h : Kept a s) : Kept a (tallySend s) := Kept.put (Kept.put (kept_tallyParked h))

theorem kept_umpEvent {kind : Nat} {words : Nat × Nat} (h : Kept a s) : Kept a (umpEvent s kind words) := Kept.ite h (Kept.put h)

theorem kept_setTen {t : Nat} {x : UmpTen} (h : Kept a s) : Kept a (setTen s t x) := Kept.put h

theorem kept_closeReceipt {t : Nat} (h : Kept a s) : Kept a (closeReceipt s t) :=
  Kept.ite h (Kept.ite (kept_raiseBit (Kept.put h)) (kept_setTen (Kept.put h)))

theorem kept_countRec {r : TallyRec} (h : Kept a s) : Kept a (countRec s r) := by
  unfold countRec
  dsimp only
  split
  · exact Kept.ite (kept_raiseBit (Kept.put h)) (Kept.put h)
  · exact Kept.put h
  · exact Kept.put h
  · exact Kept.put h
  · exact h

theorem kept_umpGap {first last : Nat} (h : Kept a s) : Kept a (umpGap s first last) :=
  Kept.put (kept_raiseBit (Kept.foldl (kept_umpEvent h) fun _ _ => kept_setTen))

theorem kept_nowServe (h : Kept a s) : Kept a (nowServe s) :=
  Kept.foldl h fun _ _ h => Kept.ite h (kept_setTen (Kept.foldl (kept_closeReceipt h) fun _ _ => kept_finishCmd))

theorem kept_countFrame {f : List Byte} (h : Kept a s) : Kept a (countFrame s f) :=
  kept_nowServe (Kept.foldl (Kept.put (Kept.ite (kept_umpGap h) h)) fun _ _ => kept_countRec)

theorem kept_tallyFrame {f : List Byte} {ok : Bool} (h : Kept a s) : Kept a (tallyFrame s f ok) :=
  Kept.ite h (Kept.ite (kept_countFrame (Kept.put h)) (kept_umpGap (Kept.put h)))

theorem kept_execTallyFrame {f : List Byte} {crcOk : Bool} (h : Kept a s) : KeptOut a (execTallyFrame f crcOk s) :=
  KeptOut.next (kept_tallyFrame h)

theorem kept_periodEnd {umpNs : Nat} (h : Kept a s) : Kept a (periodEnd s umpNs) := by
  unfold periodEnd
  refine Kept.ite h ?_
  dsimp only
  refine Kept.put ?_
  refine Kept.foldl ?_ fun _ _ h => Kept.ite (kept_closeReceipt h) h
  split
  · exact Kept.put (Kept.ite (kept_umpEvent (Kept.put h)) (Kept.put h))
  · exact Kept.put (kept_umpEvent (Kept.ite (kept_umpEvent (Kept.put h)) (Kept.put h)))

theorem kept_execReceiptPeriodEnd {umpNs : Nat} (h : Kept a s) : KeptOut a (execReceiptPeriodEnd umpNs s) := KeptOut.next (kept_periodEnd h)

theorem kept_signReceipt {t : Nat} (h : Kept a s) : Kept a (signReceipt s t) := by
  unfold signReceipt
  refine Kept.ite h ?_
  split
  · exact h
  · exact Kept.putOut (kept_setTen (Kept.putOut (kept_nextFree h)))

theorem kept_execReceiptSigned {tenant : Nat} (h : Kept a s) : KeptOut a (execReceiptSigned tenant s) := KeptOut.next (kept_signReceipt h)

theorem kept_tamperEvent (h : Kept a s) : Kept a (tamperEvent s) := kept_raiseBit (kept_umpEvent (Kept.put h))

theorem kept_tamperOpen (h : Kept a s) : Kept a (tamperOpen s) := Kept.ite (kept_tamperEvent (Kept.put h)) (Kept.put h)

theorem kept_execTamperOpen (h : Kept a s) : KeptOut a (execTamperOpen s) := KeptOut.next (kept_tamperOpen h)

theorem kept_execSealRecord {number : Nat} {authorised : Bool} (h : Kept a s) : KeptOut a (execSealRecord number authorised s) :=
  KeptOut.next (Kept.ite h (kept_umpEvent (Kept.put h)))

theorem kept_refuseUmp {c : Cmd} {code : Nat} (h : Kept a s) : Kept a (refuseUmp s c code) := kept_finishCmd (kept_recordErr h)

theorem kept_umpWrite {c : Cmd} {data : List Byte} {count : Nat} (h : Kept a s) : Kept a (umpWrite s c data count) :=
  Kept.ite (kept_stageDone h) (kept_issueWrite h)

theorem kept_umpServe {c : Cmd} {data : List Byte} (h : Kept a s) : Kept a (umpServe s c data) := by
  unfold umpServe
  dsimp only
  split
  · exact kept_setTen h
  · exact kept_umpWrite h
  · exact kept_finishCmd (Kept.put h)
  · exact kept_umpWrite h
  · exact kept_finishCmd (kept_umpEvent (Kept.put h))
  · exact Kept.ite (kept_finishCmd (Kept.put h)) (kept_refuseUmp h)
  · exact kept_umpWrite h

theorem kept_startUmp {c : Cmd} {data : List Byte} (h : Kept a s) : Kept a (startUmp c data s) := by
  unfold startUmp
  split
  · exact Kept.ite (kept_finishCmd h) (kept_refuseUmp h)
  · exact Kept.ite (kept_umpServe h) (Kept.put h)

theorem kept_execReceiptNow {c : Cmd} (h : Kept a s) : KeptOut a (execReceiptNow c s) :=
  KeptOut.next (kept_submit h (fun _ _ _ h => kept_startUmp h))

theorem kept_execLogRead {c : Cmd} (h : Kept a s) : KeptOut a (execLogRead c s) := KeptOut.next (kept_submit h (fun _ _ _ h => kept_startUmp h))

theorem kept_execUmpAck {c : Cmd} (h : Kept a s) : KeptOut a (execUmpAck c s) := KeptOut.next (kept_submit h (fun _ _ _ h => kept_startUmp h))

theorem kept_execEventRead {c : Cmd} (h : Kept a s) : KeptOut a (execEventRead c s) :=
  KeptOut.next (kept_submit h (fun _ _ _ h => kept_startUmp h))

theorem kept_execSetPeriod {c : Cmd} (h : Kept a s) : KeptOut a (execSetPeriod c s) :=
  KeptOut.next (kept_submit h (fun _ _ _ h => kept_startUmp h))

theorem kept_execFwUpdate {c : Cmd} {data : List Byte} (h : Kept a s) : KeptOut a (execFwUpdate c data s) :=
  KeptOut.next (kept_submit h (fun _ _ _ h => kept_startUmp h))

theorem kept_execCertRead {c : Cmd} (h : Kept a s) : KeptOut a (execCertRead c s) :=
  KeptOut.next (kept_submit h (fun _ _ _ h => kept_startUmp h))

theorem kept_umpSelfTest {ok : Bool} (h : Kept a s) : Kept a (umpSelfTest s ok) :=
  Kept.ite h (Kept.iteElse (Kept.iteThen (kept_umpEvent (Kept.put h)) fun h => kept_tamperEvent h) fun h => Kept.foldl (Kept.put h) fun _ _ =>
      kept_umpServe)

theorem kept_execUmpSelfTestEnd {ok : Bool} (h : Kept a s) : KeptOut a (execUmpSelfTestEnd ok s) := KeptOut.next (kept_umpSelfTest h)

theorem kept_execTallyLinkUp (h : Kept a s) : KeptOut a (execTallyLinkUp s) := KeptOut.next (Kept.ite h (Kept.put h))

theorem kept_umpOff (h : Kept a s) : Kept a (umpOff s) := Kept.put h

theorem kept_umpPowerOn (h : Kept a s) : Kept a (umpPowerOn s) := Kept.ite h (Kept.put h)

theorem kept_umpFigures (h : Kept a s) : Kept a (umpFigures s) :=
  kept_wrF (kept_wrF (kept_wrF
      (kept_wrF (kept_wrF (kept_wrF (kept_wrF (kept_wrF (kept_wrF (kept_wrF (kept_wrF (kept_wrF (kept_wrF (kept_wrF h)))))))))))))

/-! ### Read-only fields -/

theorem kept_windowsFinish (h : Kept a s) : Kept a (windowsFinish s) := Kept.putTierReg h

theorem kept_fencePage {before : List FenceEnt} {b : Blk} {inst : Nat} (h : Kept a s) : Kept a (fencePage before s b inst) :=
  Kept.ite h (kept_raiseBit h)

theorem kept_fenceFigures {before : List FenceEnt} (h : Kept a s) : Kept a (fenceFigures before s) := Kept.foldl h fun _ _ => kept_fencePage

/-! ### Access to control space -/

theorem kept_regRead {dom page off : Nat} (h : Kept a s) : Kept a (regRead s dom page off).2 := by
  unfold regRead
  split
  · exact h
  · dsimp only
    split
    · refine Kept.ite2 ?_ h
      split
      · exact h
      · exact h
    · refine Kept.ite2 h ?_
      split
      · refine Kept.ite ?_ h
        split
        · exact Kept.put h
        · exact h
      · exact Kept.iteElse (foldl_kept2 h fun _ _ h => Kept.ite2 (Kept.put (kept_nextFree h)) (kept_nextFree h)) fun h => kept_wrWord h

theorem kept_storeReg {b : Blk} {inst bank off v : Nat} (h : Kept a s) : Kept a (storeReg s b inst bank off v) := kept_wrWord h

theorem kept_selWrite {b : Blk} {inst off v : Nat} (h : Kept a s) : Kept a (selWrite s b inst off v) :=
  Kept.ite (Kept.putReg (Kept.putReg h)) (Kept.putReg h)

theorem kept_headerWrite {b : Blk} {inst off v : Nat} (h : Kept a s) : Kept a (headerWrite s b inst off v) := by
  unfold headerWrite
  dsimp only
  split
  · exact Kept.ite h (Kept.iteThen (Kept.ite (kept_wrWord h) h) fun h => kept_lengthen h)
  · exact kept_wrWord h
  · exact Kept.foldl (kept_wrWord h) fun _ _ => kept_pushEvents
  · exact Kept.ite h (Kept.foldl h fun _ _ => kept_raiseBit)
  · exact h

theorem kept_delayReg {b : Blk} {inst off w : Nat} (h : Kept a s) : Kept a (delayReg s b inst off w) := Kept.putStk h

theorem kept_writeStkCfg {v : Nat} (h : Kept a s) : KeptSum a (writeStkCfg s v) := by
  unfold writeStkCfg
  dsimp only
  refine KeptSum.ite (KeptSum.inr h) ?_
  refine KeptSum.ite KeptSum.inl ?_
  split
  · exact KeptSum.inl
  · exact KeptSum.inr (kept_delayReg h)

theorem kept_writeTimeCfg {v : Nat} (h : Kept a s) : KeptSum a (writeTimeCfg s v) :=
  KeptSum.ite KeptSum.inl (KeptSum.inr (kept_setSource (kept_wrF (kept_storeReg h))))

theorem kept_writeGov {k v : Nat} (h : Kept a s) : KeptSum a (writeGov s k v) := by
  unfold writeGov
  dsimp only
  refine KeptSum.ite KeptSum.inl ?_
  split
  · exact KeptSum.inl
  · exact KeptSum.inr (kept_delayReg h)

theorem kept_writePfxTen {t off v : Nat} (h : Kept a s) : KeptSum a (writePfxTen s t off v) := by
  unfold writePfxTen
  dsimp only
  split
  · exact KeptSum.ite KeptSum.inl (KeptSum.inr (Kept.iteThen (kept_storeReg h) fun h => Kept.put h))
  · exact KeptSum.ite KeptSum.inl (KeptSum.inr (Kept.put h))
  · exact KeptSum.ite KeptSum.inl (KeptSum.inr (Kept.put h))
  · exact KeptSum.inr h

theorem kept_writeTgt {t off v : Nat} (h : Kept a s) : KeptSum a (writeTgt s t off v) := by
  unfold writeTgt
  dsimp only
  split
  · refine KeptSum.ite ?_ (KeptSum.ite (KeptSum.inr (kept_setTgt (Kept.ite h (kept_wrB (kept_wrB h))))) (KeptSum.inr
        (Kept.ite h (kept_wrB (kept_wrB h)))))
    split
    · exact KeptSum.inl
    · exact KeptSum.inr (kept_setTgt (Kept.ite h (kept_wrB (kept_wrB h))))
  · exact KeptSum.inr (Kept.ite h (kept_storeReg h))
  · exact KeptSum.inr (Kept.ite h (kept_storeReg h))
  · exact KeptSum.ite KeptSum.inl (KeptSum.inr (kept_ckpRelease h))
  · exact KeptSum.inr h

theorem kept_writeRights {dom off v : Nat} (h : Kept a s) : KeptSum a (writeRights s dom off v) := by
  unfold writeRights
  refine KeptSum.ite KeptSum.inl ?_
  refine KeptSum.ite KeptSum.inl ?_
  split
  · rename_i heq
    have ht := (kept_rightsWrite h).of_eq2 heq
    exact KeptSum.inl
  · rename_i heq
    have ht := (kept_rightsWrite h).of_eq2 heq
    exact KeptSum.inr ht

theorem kept_writeCkey {enc : Bool} {off v : Nat} (h : Kept a s) : KeptSum a (writeCkey s enc off v) := by
  unfold writeCkey
  dsimp only
  refine KeptSum.ite KeptSum.inl ?_
  refine KeptSum.ite ?_ (KeptSum.inr (kept_keyWord h))
  refine KeptSum.ite ?_ (KeptSum.inr h)
  split
  · rename_i heq
    have ht := (kept_keyInstall h).of_eq2 heq
    exact KeptSum.inl
  · rename_i heq
    have ht := (kept_keyInstall h).of_eq2 heq
    exact KeptSum.inr ht

theorem kept_writeAllot {dom off v : Nat} (h : Kept a s) : KeptSum a (writeAllot s dom off v) := by
  unfold writeAllot
  dsimp only
  refine KeptSum.ite KeptSum.inl ?_
  refine KeptSum.ite KeptSum.inl ?_
  refine KeptSum.ite ?_ (KeptSum.inr (kept_storeReg h))
  refine KeptSum.ite ?_ (KeptSum.inr h)
  split
  · rename_i heq
    have ht := (kept_allotApply h).of_eq2 heq
    exact KeptSum.inl
  · rename_i heq
    have ht := (kept_allotApply h).of_eq2 heq
    exact KeptSum.inr ht

theorem kept_writeQueue {k off v : Nat} (h : Kept a s) : KeptSum a (writeQueue s k off v) :=
  KeptSum.ite KeptSum.inl (KeptSum.inr (Kept.iteThen (kept_wrWord h) fun h => Kept.put h))

theorem kept_writeGcl {i v : Nat} (h : Kept a s) : KeptSum a (writeGcl s i v) := by
  unfold writeGcl
  dsimp only
  refine KeptSum.ite ?_ (KeptSum.inr (kept_storeReg h))
  split
  · rename_i heq
    have ht := (kept_gateCommit (kept_storeReg h)).of_eq heq
    exact KeptSum.inr ht
  · exact KeptSum.inl

theorem kept_linkDown {i : Nat} (h : Kept a s) : Kept a (linkDown s i) :=
  Kept.ite h (kept_raiseBit (kept_updIface (kept_wrPort (kept_wrPort h))))

theorem kept_writeBreakout {v : Nat} (h : Kept a s) : Kept a (writeBreakout s v) :=
  Kept.foldl (kept_storeReg h) fun _ _ h => kept_linkDown (kept_linkDown h)

theorem kept_wakeNow (h : Kept a s) : Kept a (wakeNow s) := Kept.ite (Kept.put h) h

theorem kept_writePort {inst off v : Nat} (h : Kept a s) : KeptSum a (writePort s inst off v) :=
  KeptSum.ite (KeptSum.ite KeptSum.inl (KeptSum.inr (Kept.iteElse (kept_storeReg h) fun h => kept_linkDown h))) (KeptSum.inr
      (kept_storeReg h))

theorem kept_writeLcCfg {v : Nat} (h : Kept a s) : Kept a (writeLcCfg s v) := Kept.put h

theorem kept_blkWrite {dom : Nat} {enc : Bool} {b : Blk} {inst off v : Nat} (h : Kept a s) : KeptSum a (blkWrite s dom enc b inst off v) := by
  unfold blkWrite
  dsimp only
  refine KeptSum.ite (KeptSum.inr (kept_selWrite h)) ?_
  refine KeptSum.ite (KeptSum.inr h) ?_
  refine KeptSum.ite KeptSum.inl ?_
  refine KeptSum.ite KeptSum.inl ?_
  split
  · exact KeptSum.ite (KeptSum.ite (KeptSum.inr (kept_askReset h)) KeptSum.inl) (KeptSum.inr h)
  · exact KeptSum.ite (KeptSum.inr h) (KeptSum.ite KeptSum.inl (KeptSum.inr (kept_storeReg h)))
  · exact KeptSum.ite (KeptSum.inr h) (KeptSum.ite KeptSum.inl (KeptSum.inr (Kept.put h)))
  · exact kept_writeStkCfg h
  · exact kept_writeTimeCfg h
  · exact KeptSum.inr (Kept.put (kept_storeReg h))
  · exact kept_writeGov h
  · exact kept_writePfxTen h
  · exact kept_writePfxTen h
  · exact kept_writePfxTen h
  · exact KeptSum.ite KeptSum.inl (KeptSum.inr (kept_storeReg h))
  · exact KeptSum.ite (kept_writeTgt h) (KeptSum.inr (kept_storeReg h))
  · exact KeptSum.ite (kept_writeRights h) (KeptSum.ite (kept_writeCkey h) (KeptSum.ite (kept_writeAllot h) (KeptSum.inr h)))
  · exact KeptSum.ite (kept_writeQueue h) (KeptSum.ite (kept_writeGcl h) (KeptSum.inr (kept_storeReg h)))
  · exact KeptSum.inr (kept_writeBreakout h)
  · exact KeptSum.inr (Kept.ite (kept_wakeNow h) h)
  · exact kept_writePort h
  · exact KeptSum.inr (kept_writeLcCfg h)
  · exact KeptSum.inr (kept_storeReg h)

theorem kept_regWrite {dom : Nat} {enc : Bool} {page off v : Nat} (h : Kept a s) : Kept a (regWrite s dom enc page off v).2 := by
  unfold regWrite
  split
  · exact h
  · refine Kept.ite2 h ?_
    refine Kept.ite2 (kept_headerWrite h) ?_
    refine Kept.ite2 h ?_
    split
    · rename_i heq
      have ht := (kept_blkWrite h).of_eq heq
      exact ht
    · refine Kept.ite2 ?_ h
      split
      · exact kept_markNofit h
      · exact h

theorem kept_readRun {dom page off n : Nat} (h : Kept a s) : Kept a (readRun dom page off n s).2 := by
  induction n generalizing s off with
  | zero => exact h
  | succ n ih => exact ih (kept_regRead h)

theorem kept_writeRun {dom : Nat} {enc : Bool} {page off : Nat} {vs : List Nat} (h : Kept a s) : Kept a (writeRun dom enc page off vs s).2 := by
  induction vs generalizing s off with
  | nil => exact h
  | cons v vs ih =>
    rw [writeRun]
    split <;> rename_i heq
    · exact (kept_regWrite h).of_eq2 heq
    · exact ih ((kept_regWrite h).of_eq2 heq)

theorem kept_regRequest {dom : Nat} {enc : Bool} {head : Nat} {data : List Nat} (h : Kept a s) : Kept a (regRequest s dom enc head data).2 := by
  unfold regRequest
  dsimp only
  split
  · exact h
  · refine Kept.ite2 ?_ (kept_readRun h)
    split
    · rename_i heq
      have ht := (kept_writeRun h).of_eq2 heq
      exact ht
    · rename_i heq
      have ht := (kept_writeRun h).of_eq2 heq
      exact ht

theorem kept_regRequests {dom : Nat} {enc : Bool} {fuel : Nat} {ws : List Nat} (h : Kept a s) : Kept a (regRequests dom enc fuel ws s).2 := by
  induction fuel generalizing s ws with
  | zero => exact h
  | succ fuel ih =>
    cases ws with
    | nil => exact h
    | cons head rest =>
      rw [regRequests]
      exact Kept.ite2 h (ih (kept_regRequest h))

/-! ### Queue pairs -/

theorem kept_refuseLink {c : Cmd} {code : Nat} (h : Kept a s) : Kept a (refuseLink s c code) := kept_finishCmd (kept_recordErr h)

theorem kept_startQpCreate {c : Cmd} {x1 : List Byte} (h : Kept a s) : Kept a (startQpCreate c x1 s) :=
  Kept.ite (kept_refuseLink h) (Kept.ite (kept_refuseLink h) (kept_stageDone (Kept.put (kept_nextFree h))))

theorem kept_execQpCreate {c : Cmd} (h : Kept a s) : KeptOut a (execQpCreate c s) :=
  KeptOut.next (kept_submit h (fun _ _ _ h => kept_startQpCreate h))

theorem kept_qpClose {q : Nat} (h : Kept a s) : Kept a (qpClose s q) := by
  unfold qpClose
  split
  · exact h
  · exact Kept.ite h (kept_finishCmd (Kept.put h))

theorem kept_startQpDestroy {c : Cmd} {x1 : List Byte} (h : Kept a s) : Kept a (startQpDestroy c x1 s) := by
  unfold startQpDestroy
  split
  · exact kept_refuseLink h
  · exact Kept.ite (kept_refuseLink h) (kept_qpClose (kept_updQp h))

theorem kept_execQpDestroy {c : Cmd} (h : Kept a s) : KeptOut a (execQpDestroy c s) :=
  KeptOut.next (kept_submit h (fun _ _ _ h => kept_startQpDestroy h))

theorem kept_waitBind {c : Cmd} (h : Kept a s) : Kept a (waitBind s c) := Kept.put h

theorem kept_startFeather {c : Cmd} {x1 : List Byte} (h : Kept a s) : Kept a (startFeather c x1 s) :=
  Kept.ite (kept_finishCmd (kept_recordErr h)) (kept_waitBind h)

theorem kept_execFeather {c : Cmd} (h : Kept a s) : KeptOut a (execFeather c s) :=
  KeptOut.next (kept_submit h (fun _ _ _ h => kept_startFeather h))

theorem kept_startWake {c : Cmd} {x1 : List Byte} (h : Kept a s) : Kept a (startWake c x1 s) := Kept.ite (kept_finishCmd h) (kept_waitBind h)

theorem kept_execWake {c : Cmd} (h : Kept a s) : KeptOut a (execWake c s) := KeptOut.next (kept_submit h (fun _ _ _ h => kept_startWake h))

theorem kept_startNop {c : Cmd} {x1 : List Byte} (h : Kept a s) : Kept a (startNop c x1 s) := Kept.ite (kept_finishCmd h) (kept_waitBind h)

theorem kept_execNop {c : Cmd} (h : Kept a s) : KeptOut a (execNop c s) := KeptOut.next (kept_submit h (fun _ _ _ h => kept_startNop h))

theorem kept_setFeather {f : FeatherSt} (h : Kept a s) : Kept a (setFeather s f) := Kept.put h

theorem kept_linkBind (h : Kept a s) : Kept a (linkBind s) := by
  unfold linkBind
  refine Kept.foldl (Kept.put h) fun s e h => ?_
  split
  · exact Kept.ite (kept_refuseLink h) (Kept.put (kept_setFeather h))
  · split
    · exact kept_finishCmd h
    · exact Kept.put (kept_setFeather h)
    · exact kept_refuseLink h
  · exact kept_finishCmd h

theorem kept_startByOpcode {c : Cmd} {data : List Byte} (h : Kept a s) : Kept a (startByOpcode c data s) := by
  unfold startByOpcode
  split
  · exact kept_startOpen h
  · exact kept_startMove h
  · exact kept_startPlanLoad h
  · exact kept_startPlanUnload h
  · exact Kept.ite (kept_startCourseOpen h) (kept_startCourseClose h)
  · exact kept_startVocabLoad h
  · exact kept_startGrmLoad h
  · exact kept_startTableUnload h
  · split
    · exact kept_startSes h
    · exact kept_startStreamAllocate h
    · exact kept_startStreamFree h
    · exact kept_startStreamConfigure h
  · exact kept_startTokenize h
  · exact kept_startDetokenize h
  · exact kept_startMemCreate h
  · exact kept_startMemDrop h
  · exact kept_startMemQuery h
  · exact kept_startMemInsert h
  · exact kept_startMemDelete h
  · exact kept_startMemRepair h
  · exact kept_startGsxLoad h
  · exact kept_startGather h
  · exact kept_startScatter h
  · exact kept_startGsxSeal h
  · split
    · exact kept_startCrewCreate h
    · exact kept_startCrewModify h
    · exact kept_startCrewDelete h
  · exact kept_startQpCreate h
  · exact kept_startQpDestroy h
  · exact kept_startFeather h
  · exact kept_startWake h
  · exact kept_startNop h
  · exact kept_startCheckpoint h
  · exact kept_startRestore h
  · exact kept_startUmp h
  · exact kept_startAttest h
  · exact kept_startRigUpdate h
  · exact kept_startErg h
  · exact kept_startSes h

theorem kept_beginCmd {c : Cmd} (h : Kept a s) : Kept a (beginCmd s c) := by
  unfold beginCmd
  split
  · exact kept_startByOpcode h
  · exact Kept.iteElse (kept_startByOpcode h) fun k1 => Kept.ite (Kept.ite k1 (kept_issueRead (kept_joinWait h))) (kept_issueRead h)

theorem kept_handOn {c : Cmd} (h : Kept a s) : Kept a (handOn s c) := by
  unfold handOn
  dsimp only
  split
  · exact kept_refuseHand (kept_joinQueue h)
  · exact Kept.ite (kept_beginCmd (kept_joinQueue h)) (Kept.putOut (kept_joinQueue h))

theorem kept_serveFenced (h : Kept a s) : Kept a (serveFenced s) := by
  unfold serveFenced
  refine Kept.foldl h fun s e h => ?_
  refine Kept.ite ?_ h
  dsimp only
  split
  · exact kept_startByOpcode (Kept.putOut h)
  · exact kept_beginCmd (Kept.putOut h)

theorem kept_commandData {c : Cmd} {data : List Byte} (h : Kept a s) : Kept a (commandData s c data) :=
  Kept.ite (Kept.iteThen (kept_updSes h) fun h => kept_serve h) (kept_startByOpcode h)

theorem kept_readResponse {id : Nat} {data : List Byte} (h : Kept a s) : Kept a (readResponse s id data) := by
  unfold readResponse
  split
  · exact h
  · refine Kept.ite h ?_
    dsimp only
    refine kept_qpClose ?_
    split
    · exact kept_commandData (kept_updQp (Kept.put h))
    · exact kept_anchorRead (kept_updQp (Kept.put h))
    · exact kept_restArrived (kept_updQp (Kept.put h))
    · exact kept_lazyArrived (kept_updQp (Kept.put h))

theorem kept_execRdmaReadResponse {id : Nat} {data : List Byte} (h : Kept a s) : KeptOut a (execRdmaReadResponse id data s) :=
  KeptOut.next (kept_readResponse h)

theorem kept_engineFree {e : Nat} (h : Kept a s) : Kept a (engineFree s e) := Kept.put h

theorem kept_writeAck {id : Nat} (h : Kept a s) : Kept a (writeAck s id) := by
  unfold writeAck
  split
  · exact h
  · split
    · exact h
    · dsimp only
      refine Kept.ite h ?_
      refine kept_qpClose ?_
      split
      · exact kept_sendCpl (kept_updQp (Kept.put h))
      · exact kept_sendCpl (kept_engineFree (kept_updQp (Kept.put h)))
      · exact Kept.iteThen (kept_stageDone (kept_updQp (Kept.put h))) fun h => kept_gatherAcked h
      · exact kept_shardAck (kept_updQp (Kept.put h))
      · exact kept_manifestAck (kept_updQp (Kept.put h))
      · exact kept_anchorAck (kept_updQp (Kept.put h))
      · exact kept_updQp (Kept.put h)

theorem kept_execRdmaWriteAck {id : Nat} (h : Kept a s) : KeptOut a (execRdmaWriteAck id s) := KeptOut.next (kept_writeAck h)

theorem kept_readFails {r : RdmaRead} (h : Kept a s) : Kept a (readFails s r) := by
  unfold readFails
  split
  · exact Kept.ite (Kept.iteThen (kept_updSes h) fun h => kept_serve h) (kept_refuseLink h)
  · exact h

theorem kept_writeFails {w : RdmaWrite} (h : Kept a s) : Kept a (writeFails s w) := by
  unfold writeFails
  split
  · exact kept_sendCpl (kept_recordErr h)
  · exact kept_sendCpl (kept_recordErr (kept_engineFree h))
  · exact Kept.iteThen (kept_refuseLink h) fun h => kept_gatherAcked h
  · exact h

theorem kept_qpSweep (h : Kept a s) : Kept a (qpSweep s) :=
  Kept.ite h (Kept.foldl (Kept.foldl (Kept.foldl (Kept.put h) fun _ _ => kept_readFails) fun _ _ => kept_writeFails) fun _ _ h => kept_qpClose
      (kept_restQpError (kept_ckpQpError h)))

theorem kept_qpFail {q syn : Nat} (h : Kept a s) : Kept a (qpFail s q syn) := by
  unfold qpFail
  split
  · exact h
  · exact Kept.ite h (kept_qpClose (kept_restQpError (kept_ckpQpError (kept_qpSweep (kept_sendEvent (kept_updQp h))))))

theorem kept_execQpError {qp syn : Nat} (h : Kept a s) : KeptOut a (execQpError qp syn s) := KeptOut.next (Kept.ite (kept_qpFail h) h)

theorem kept_ackTimeout {q : Nat} {rnr : Bool} (h : Kept a s) : Kept a (ackTimeout s q rnr) := by
  unfold ackTimeout
  split
  · exact h
  · exact Kept.ite h (Kept.ite (kept_qpFail h) (Kept.ite (Kept.put (kept_updQp h)) (Kept.put (kept_updQp h))))

theorem kept_execLocalAckTimeout {qp : Nat} {rnr : Bool} (h : Kept a s) : KeptOut a (execLocalAckTimeout qp rnr s) :=
  KeptOut.next (kept_ackTimeout h)

theorem kept_sendQp {q : Nat} {fr : EgFrame} {n : Nat} (h : Kept a s) : Kept a (sendQp s q fr n) := by
  unfold sendQp
  split
  · exact h
  · exact kept_enqueue h

theorem kept_paceQp {q n : Nat} (h : Kept a s) : Kept a (paceQp s q n) := by
  unfold paceQp
  split
  · exact h
  · exact Kept.ite h (kept_updQp h)

theorem kept_pumpQp {q : Nat} {x : Qp} (h : Kept a s) : Kept a (pumpQp s q x) := by
  unfold pumpQp
  refine Kept.ite h ?_
  dsimp only
  split
  · exact Kept.ite (kept_paceQp (kept_sendQp (Kept.put h))) (kept_paceQp (kept_sendQp (Kept.put h)))
  · exact kept_paceQp (kept_sendQp (Kept.put h))
  · exact kept_paceQp (kept_sendQp (Kept.put h))
  · exact h

theorem kept_pumpRoce {i : Nat} (h : Kept a s) : Kept a (pumpRoce s i) := Kept.ite h (Kept.foldl h fun _ _ h => Kept.ite (kept_pumpQp h) h)

theorem kept_execRoceInvalidRequest {qp : Nat} (h : Kept a s) : KeptOut a (execRoceInvalidRequest qp s) :=
  KeptOut.next (Kept.ite (kept_sendQp h) h)

theorem kept_execCnpRx {qp : Nat} (h : Kept a s) : KeptOut a (execCnpRx qp s) := KeptOut.next (Kept.ite (kept_cnt (kept_updQp h)) h)

theorem kept_execRoceRateRaise {qp : Nat} (h : Kept a s) : KeptOut a (execRoceRateRaise qp s) := KeptOut.next (kept_updQp h)

theorem kept_ecnMarked {q time : Nat} (h : Kept a s) : Kept a (ecnMarked s q time) := by
  unfold ecnMarked
  split
  · exact h
  · exact Kept.ite h (kept_sendQp (kept_updQp h))

theorem kept_execEcnMarkedRx {qp time : Nat} (h : Kept a s) : KeptOut a (execEcnMarkedRx qp time s) := KeptOut.next (kept_ecnMarked h)

theorem kept_notify {d : Done} {bytes : List Byte} (h : Kept a s) : Kept a (notify s d bytes) := by
  unfold notify
  dsimp only
  split
  · exact Kept.ite (kept_sendQp h) h
  · exact h

theorem kept_writeSas {fuel addr : Nat} {bs : List Byte} (h : Kept a s) : Kept a (writeSas s fuel addr bs) := by
  induction fuel generalizing s addr bs with
  | zero => exact h
  | succ fuel ih =>
    rw [writeSas]
    exact Kept.ite h (ih (kept_touch (kept_writePage h)))

theorem kept_importWrite {qp rkey addr : Nat} {data : List Byte} (h : Kept a s) : Kept a (importWrite s qp rkey addr data) := by
  unfold importWrite
  split
  · exact h
  · refine Kept.ite h ?_
    split
    · exact kept_sendQp (kept_cnt h)
    · exact kept_sendQp (kept_updSes (kept_cnt (kept_writeSas h)))

theorem kept_execImportRdmaWrite {qp rkey addr : Nat} {data : List Byte} (h : Kept a s) : KeptOut a (execImportRdmaWrite qp rkey addr data s) :=
  KeptOut.next (kept_importWrite h)

/-! ### BWP -/

theorem kept_updAssoc {id : Nat} {f : Assoc → Assoc} (h : Kept a s) : Kept a (updAssoc s id f) := Kept.put h

theorem kept_queueFrame {a₀ : Assoc} {f : DevFrame} (h : Kept a s) : Kept a (queueFrame s a₀ f) := kept_enqueue h

theorem kept_sendUnsent {id fuel : Nat} (h : Kept a s) : Kept a (sendUnsent id fuel s) := by
  induction fuel generalizing s with
  | zero => exact h
  | succ fuel ih =>
    rw [sendUnsent]
    split
    · exact h
    · split
      · exact h
      · exact Kept.ite h (ih (kept_queueFrame (kept_updAssoc h)))

theorem kept_sendFrame {id ty : Nat} {payload : List Byte} (h : Kept a s) : Kept a (sendFrame s id ty payload) := kept_sendUnsent (kept_updAssoc h)

theorem kept_sendAck {id : Nat} (h : Kept a s) : Kept a (sendAck s id) := by
  unfold sendAck
  split
  · exact h
  · exact kept_queueFrame h

theorem kept_resend {a₀ : Assoc} {f : DevFrame} (h : Kept a s) : Kept a (resend s a₀ f) := kept_queueFrame (kept_cnt h)

theorem kept_purgeFrames {p : EgFrame → Bool} (h : Kept a s) : Kept a (purgeFrames s p) := by
  unfold purgeFrames
  refine Kept.foldl h fun s e h => ?_
  dsimp only
  refine Kept.ite h ?_
  split
  · exact Kept.ite (kept_setQueue h) (kept_setQueue h)
  · exact kept_setQueue h

theorem kept_purgeAssoc {id : Nat} (h : Kept a s) : Kept a (purgeAssoc s id) := kept_purgeFrames h

theorem kept_dropAssoc {id : Nat} (h : Kept a s) : Kept a (dropAssoc s id) := by
  unfold dropAssoc
  split
  · exact h
  · exact Kept.put (kept_cnt (kept_purgeAssoc h))

theorem kept_lingerAssoc {id cause : Nat} (h : Kept a s) : Kept a (lingerAssoc s id cause) := by
  unfold lingerAssoc
  split
  · exact h
  · exact kept_sendEvent (kept_updAssoc (kept_purgeAssoc h))

theorem kept_closeDisabled (h : Kept a s) : Kept a (closeDisabled s) := Kept.foldl h fun _ _ => kept_dropAssoc

theorem kept_takeAck {id ack sack : Nat} (h : Kept a s) : Kept a (takeAck s id ack sack) := by
  unfold takeAck
  dsimp only
  split
  · exact kept_updAssoc h
  · exact kept_sendUnsent (Kept.foldl (kept_updAssoc h) fun _ _ => kept_resend)

theorem kept_serveFrame {a₀ : Assoc} {f : BwpFrame} (h : Kept a s) : Kept a (serveFrame s a₀ f) :=
  Kept.ite (Kept.foldl h fun _ _ => kept_handOn) (Kept.ite (Kept.foldl (kept_regRequests h) fun _ _ => kept_sendFrame)
      (Kept.ite (kept_dropAssoc h) h))

theorem kept_serveHeld {id fuel : Nat} (h : Kept a s) : Kept a (serveHeld id fuel s) := by
  induction fuel generalizing s with
  | zero => exact h
  | succ fuel ih =>
    rw [serveHeld]
    split
    · exact h
    · split
      · exact h
      · exact ih (kept_serveFrame (kept_updAssoc h))

theorem kept_seqFrame {a₀ : Assoc} {f : BwpFrame} (h : Kept a s) : Kept a (seqFrame s a₀ f) :=
  Kept.ite (kept_sendAck (kept_cnt h)) (Kept.ite h (Kept.iteThen (kept_serveHeld (kept_updAssoc h)) fun h => kept_sendAck h))

theorem kept_dropPlain (h : Kept a s) : Kept a (dropPlain s) := Kept.put (Kept.ite (kept_cnt h) (kept_raiseBit (kept_cnt h)))

theorem kept_assocFrame {a₀ : Assoc} {f : BwpFrame} (h : Kept a s) : Kept a (assocFrame s a₀ f) := by
  unfold assocFrame
  split
  · exact kept_cnt h
  · refine Kept.ite (kept_dropPlain h) ?_
    dsimp only
    refine Kept.ite (Kept.iteThen (kept_takeAck h) fun h => kept_sendAck h) ?_
    split
    · exact kept_takeAck h
    · exact kept_seqFrame (kept_takeAck h)

theorem kept_helloAnswer {iface : Nat} {f : BwpFrame} {d status id seq0 resumeAck : Nat} {nonce : List Byte} {enc : Bool} (h : Kept a s) :
    Kept a (helloAnswer s iface f d status id seq0 resumeAck nonce enc) :=
  kept_enqueue h

theorem kept_helloTake {iface : Nat} {f : BwpFrame} {d : Nat} {p : List Byte} (h : Kept a s) : Kept a (helloTake s iface f d p) := by
  unfold helloTake
  dsimp only
  refine Kept.ite (kept_helloAnswer (kept_recordErr h)) ?_
  refine kept_sendUnsent ?_
  refine kept_helloAnswer ?_
  refine Kept.put ?_
  split
  · exact Kept.put (kept_purgeAssoc (kept_nextFree (kept_nextFree (kept_nextFree h))))
  · exact kept_nextFree (kept_nextFree (kept_nextFree h))

theorem kept_helloFrame {iface : Nat} {f : BwpFrame} (h : Kept a s) : Kept a (helloFrame s iface f) := by
  unfold helloFrame
  split
  · exact kept_cnt h
  · exact Kept.ite (kept_dropPlain h) (kept_helloTake h)

theorem kept_frameRx {iface : Nat} {f : BwpFrame} (h : Kept a s) : Kept a (frameRx s iface f) := by
  unfold frameRx
  refine Kept.ite h ?_
  refine Kept.ite (kept_helloFrame h) ?_
  split
  · exact h
  · exact Kept.ite (kept_assocFrame h) h

theorem kept_pumpCpls (h : Kept a s) : Kept a (pumpCpls s) :=
  Kept.foldl (kept_cnt (Kept.putOut h)) fun _ _ h => Kept.foldl h fun _ _ => kept_sendFrame

theorem kept_pumpStreams (h : Kept a s) : Kept a (pumpStreams s) := by
  unfold pumpStreams
  dsimp only
  refine Kept.foldl ?_ fun _ _ h => Kept.foldl (kept_updAssoc h) fun _ _ => kept_sendFrame
  refine Kept.foldl (Kept.putOut h) fun s e h => ?_
  split
  · exact kept_cnt h
  · exact kept_updAssoc h

theorem kept_pumpEvents (h : Kept a s) : Kept a (pumpEvents s) := by
  unfold pumpEvents
  refine Kept.foldl h fun s e h => ?_
  split
  · exact h
  · exact h
  · split
    · exact h
    · exact Kept.ite h (Kept.foldl (h.putEvents EventsWf.mapErase) fun _ _ => kept_sendFrame)

theorem kept_pumpReceipts (h : Kept a s) : Kept a (pumpReceipts s) := by
  unfold pumpReceipts
  dsimp only
  refine Kept.foldl (Kept.putOut h) fun s e h => ?_
  split
  · exact h
  · exact Kept.foldl h fun _ _ => kept_sendFrame

theorem kept_linkPump (h : Kept a s) : Kept a (linkPump s) :=
  kept_pumpReceipts (kept_pumpEvents (kept_pumpStreams (kept_pumpCpls (kept_qpSweep (kept_serveFenced h)))))

theorem kept_bwpRow {iface : Nat} {f : BwpFrame} (h : Kept a s) : KeptOut a (bwpRow s iface f) :=
  KeptOut.ite KeptOut.fault (KeptOut.next (kept_linkPump (kept_frameRx h)))

theorem kept_execBwpFrameRx {iface : Nat} {f : BwpFrame} (h : Kept a s) : KeptOut a (execBwpFrameRx iface f s) := kept_bwpRow h

theorem kept_execHello {iface : Nat} {f : BwpFrame} (h : Kept a s) : KeptOut a (execHello iface f s) := kept_bwpRow h

theorem kept_execClose {iface : Nat} {f : BwpFrame} (h : Kept a s) : KeptOut a (execClose iface f s) := kept_bwpRow h

theorem kept_execBwpAckFrame {iface : Nat} {f : BwpFrame} (h : Kept a s) : KeptOut a (execBwpAckFrame iface f s) := kept_bwpRow h

theorem kept_retransmit {id seq : Nat} (h : Kept a s) : Kept a (retransmit s id seq) := by
  unfold retransmit
  split
  · exact h
  · split
    · exact h
    · exact Kept.ite h (Kept.ite (kept_lingerAssoc h) (kept_resend (kept_updAssoc h)))

theorem kept_execBwpRetransmitTimer {assoc seq : Nat} (h : Kept a s) : KeptOut a (execBwpRetransmitTimer assoc seq s) :=
  KeptOut.next (kept_retransmit h)

theorem kept_execBwpAckDelay {assoc : Nat} (h : Kept a s) : KeptOut a (execBwpAckDelay assoc s) :=
  KeptOut.next (Kept.ite (kept_updAssoc (kept_sendAck h)) h)

theorem kept_execBwpIdleTimeout {assoc : Nat} (h : Kept a s) : KeptOut a (execBwpIdleTimeout assoc s) := KeptOut.next (kept_lingerAssoc h)

theorem kept_execBwpLingerExpiry {assoc : Nat} (h : Kept a s) : KeptOut a (execBwpLingerExpiry assoc s) :=
  KeptOut.next (Kept.ite (kept_dropAssoc h) h)

/-! ### The Ethernet ports -/

theorem kept_ethServe {i : Nat} {f : EthFrame} (h : Kept a s) : Kept a (ethServe s i f) := by
  unfold ethServe
  split
  · exact Kept.ite (kept_sendControl h) h
  · exact Kept.ite (kept_sendControl h) h
  · exact Kept.iteElse (kept_cntPort h) fun h => kept_updIface h
  · exact Kept.iteThen (kept_cntPort h) fun h => Kept.foldl h fun _ _ => kept_updIface
  · exact h

theorem kept_ethRx {i : Nat} {f : EthFrame} (h : Kept a s) : Kept a (ethRx s i f) :=
  Kept.ite h (Kept.ite (kept_cntPort h) (Kept.ite (kept_cntPort h) (Kept.ite h (kept_ethServe h))))

theorem kept_execEthFrameRx {iface : Nat} {f : EthFrame} (h : Kept a s) : KeptOut a (execEthFrameRx iface f s) :=
  KeptOut.ite KeptOut.fault (KeptOut.next (kept_ethRx h))

theorem kept_mkaRx {i : Nat} {m : MkaMsg} (h : Kept a s) : Kept a (mkaRx s i m) := by
  unfold mkaRx
  refine Kept.ite h ?_
  dsimp only
  refine kept_sendControl ?_
  refine Kept.ite (Kept.ite h (kept_wrPort (Kept.put (kept_nextFree h)))) ?_
  split
  · exact kept_wrPort (Kept.put h)
  · exact h

theorem kept_execMkaFrame {iface : Nat} {m : MkaMsg} (h : Kept a s) : KeptOut a (execMkaFrame iface m s) :=
  KeptOut.ite KeptOut.fault (KeptOut.next (kept_mkaRx h))

theorem kept_featherReached (h : Kept a s) : Kept a (featherReached s) := by
  unfold featherReached
  dsimp only
  refine kept_raiseBit ?_
  split
  · exact kept_sendCpl (Kept.put (Kept.ite2 (kept_setFeather h) (kept_setFeather h)))
  · exact Kept.ite2 (kept_setFeather h) (kept_setFeather h)

theorem kept_retrainPorts {next : Nat → List Nat} (h : Kept a s) : Kept a (retrainPorts s next) :=
  Kept.iteThen (Kept.put (Kept.foldl h fun _ _ => kept_linkDown)) fun h => kept_featherReached h

theorem kept_featherFinish (h : Kept a s) : Kept a (featherFinish s) :=
  Kept.ite (kept_retrainPorts (Kept.put h)) (Kept.ite (kept_retrainPorts (Kept.put h)) h)

theorem kept_linkTrained {i : Nat} (h : Kept a s) : Kept a (linkTrained s i) :=
  Kept.ite h (Kept.iteThen (kept_raiseBit (kept_updIface (kept_wrPort (kept_wrPort (Kept.put h))))) fun k1 => Kept.iteThen
      (Kept.put k1) fun h => kept_featherReached h)

theorem kept_execPortLinkChange {iface : Nat} {up : Bool} (h : Kept a s) : KeptOut a (execPortLinkChange iface up s) :=
  KeptOut.ite KeptOut.fault (KeptOut.next (Kept.ite h (Kept.ite (kept_linkTrained h) (kept_linkDown h))))

theorem kept_spellFrame {x1 : EgFrame} (h : Kept a s) : Kept a (spellFrame s x1).1 := by
  unfold spellFrame
  split
  · split
    · exact h
    · exact kept_updAssoc h
  · exact Kept.put h
  · exact h

theorem kept_waterPump (h : Kept a s) : Kept a (waterPump s) := kept_pumpEvents (Kept.foldl (kept_purgeFrames h) fun _ _ => kept_updAssoc)

theorem kept_egressSelect {i time : Nat} (h : Kept a s) : Kept a (egressSelect s i time) := by
  unfold egressSelect
  dsimp only
  refine Kept.ite (Kept.ite (kept_waterPump (kept_timeAt h)) (kept_linkPump (kept_timeAt h))) ?_
  split
  · exact kept_updIface (kept_selectFrame (Kept.iteElse (Kept.ite (kept_waterPump (kept_timeAt h)) (kept_linkPump (kept_timeAt h))) fun h =>
        kept_pumpRoce h))
  · exact kept_updIface (kept_spellFrame (kept_selectFrame (Kept.iteElse (Kept.ite (kept_waterPump (kept_timeAt h)) (kept_linkPump
        (kept_timeAt h))) fun h => kept_pumpRoce h)))

theorem kept_execEgressSelect {iface time : Nat} (h : Kept a s) : KeptOut a (execEgressSelect iface time s) :=
  KeptOut.ite KeptOut.fault (KeptOut.next (kept_egressSelect h))

/-! ### The end of the Hold-water sequence -/

theorem kept_ownPage {tenant p : Nat} {taken : List Nat} (h : Kept a s) : Kept a (ownPage s tenant p taken).2 := by
  unfold ownPage
  split
  · exact h
  · dsimp only
    split
    · exact kept_setPte h
    · exact kept_setPte (Kept.putTier h)

theorem kept_restoreSes {acc : State × List Nat} {sid : Nat} {x : Ses} (h : Kept a acc.1) : Kept a (restoreSes acc sid x).1 :=
  Kept.iteThen (kept_setSes (foldl_kept21 h fun _ _ h => Kept.ite21 h (Kept.ite21 h (kept_ownPage h)))) fun h => kept_sesEvent h

/-- A reset leaves registers at their reset words, Tier H at 0 and no event waiting, whatever stood before. -/
theorem canon_keptState : Canon (keptState s) := ⟨mapWf_nil, rfl, mapWf_nil, rfl⟩

theorem kept_enterReset {cause : Nat} {hwRan : Bool} : Kept (keptState s) (enterReset s cause hwRan) :=
  kept_wrF (kept_wrF (foldl_kept1 (Kept.putTier (Kept.foldl (Kept.put (Kept.refl _)) fun _ _ => kept_losePage)) fun _ _ =>
      kept_restoreSes))

theorem kept_keepHwLast {old : State} (h1 : Kept a s) : Kept a (keepHwLast old s) := Kept.foldl h1 fun _ _ => kept_wrWord

theorem canon_holdWaterEnd {flushUs bankMv sealedPages : Nat} (h : Canon s) : Canon (holdWaterEnd s flushUs bankMv sealedPages) := by
  unfold holdWaterEnd
  split
  · exact h
  · exact Kept.canon (Kept.put (kept_keepHwLast kept_enterReset)) canon_keptState

theorem canon_execPowerStageFault (h : Canon s) : CanonOut (execPowerStageFault s) := by
  refine CanonOut.next ?_
  split
  · exact h
  · exact Kept.canon (Kept.put (kept_keepHwLast kept_enterReset)) canon_keptState

/-! ### Bring-up -/

theorem kept_powerOnReset (h : Kept a s) : Kept a (powerOnReset s) := Kept.ite h (Kept.put h)

theorem kept_execPowerOnReset (h : Kept a s) : KeptOut a (execPowerOnReset s) := KeptOut.next (kept_powerOnReset h)

theorem kept_execRstNReset (h : Kept a s) : KeptOut a (execRstNReset s) := KeptOut.next (kept_askReset (Kept.put h))

theorem kept_execRstNRelease (h : Kept a s) : KeptOut a (execRstNRelease s) := KeptOut.next (Kept.put h)

theorem kept_execWatchdogExpiry (h : Kept a s) : KeptOut a (execWatchdogExpiry s) := KeptOut.next (kept_askReset h)

theorem kept_clkLock {pll : Nat} {on : Bool} (h : Kept a s) : Kept a (clkLock s pll on) := kept_wrWord h

theorem kept_lockLoss {pll : Nat} (h : Kept a s) : Kept a (lockLoss s pll) := Kept.ite h (kept_stopLegs (Kept.put (kept_clkLock h)))

theorem kept_execPllLockLoss {pll : Nat} (h : Kept a s) : KeptOut a (execPllLockLoss pll s) :=
  KeptOut.ite KeptOut.fault (KeptOut.next (kept_lockLoss h))

theorem kept_relock {pll : Nat} (h : Kept a s) : Kept a (relock s pll) := Kept.ite h (Kept.put (kept_raiseBit (kept_cnt (kept_clkLock h))))

theorem kept_execPllRelock {pll : Nat} (h : Kept a s) : KeptOut a (execPllRelock pll s) :=
  KeptOut.ite KeptOut.fault (KeptOut.next (kept_relock h))

theorem kept_execClockFaultReset {pll : Nat} (h : Kept a s) : KeptOut a (execClockFaultReset pll s) :=
  KeptOut.ite KeptOut.fault (KeptOut.next (Kept.ite (kept_askReset h) h))

theorem kept_loadDom {d : Nat} {x : RigDom} (h : Kept a s) : Kept a (loadDom s d x) := Kept.foldl (kept_wrB h) fun _ _ => kept_wrFx

theorem kept_loadAllot {t : Nat} {a₀ : Allot} (h : Kept a s) : Kept a (loadAllot s t a₀) :=
  Kept.foldl (kept_wrB (kept_wrB h)) fun _ _ => kept_wrFx

theorem kept_loadRigging {r : Rigging} (h : Kept a s) : Kept a (loadRigging s r) := by
  unfold loadRigging
  dsimp only
  refine Kept.ite ?_ ?_
  · refine Kept.foldl ?_ fun _ _ h => kept_wrPort (kept_wrPort h)
    refine Kept.foldl ?_ fun _ _ h => kept_loadAllot h
    refine Kept.put ?_
    refine Kept.foldl (Kept.foldl (kept_wrF (kept_wrF h)) fun _ _ => kept_wrPort) fun s e h => ?_
    split
    · exact kept_loadDom h
    · exact h
  · refine Kept.foldl ?_ fun _ _ h => kept_loadAllot h
    refine Kept.put ?_
    refine Kept.foldl (Kept.foldl (kept_wrF (kept_wrF h)) fun _ _ => kept_wrPort) fun s e h => ?_
    split
    · exact kept_loadDom h
    · exact h

theorem kept_stampTime {i : Nat} (h : Kept a s) : Kept a (stampTime s i) := Kept.put (kept_nextFree h)

theorem kept_bootFail {n : Nat} (h : Kept a s) : Kept a (bootFail s n) := Kept.put h

theorem kept_bootImages {fi ri : Nat} {f : FwImage} {r : Rigging} (h : Kept a s) : Kept a (bootImages s fi ri f r) :=
  Kept.iteThen (kept_stampTime (Kept.put (kept_loadRigging (kept_wrWord (kept_wrF (kept_wrF (kept_wrF (kept_extendMeas (kept_extendMeas
      (kept_extendMeas (Kept.put h))))))))))) fun h => kept_bootFail h

theorem kept_sl0Reached (h : Kept a s) : Kept a (sl0Reached s) := by
  unfold sl0Reached
  refine Kept.ite h ?_
  split
  · exact kept_bootFail h
  · split
    · exact kept_bootFail h
    · split
      · exact Kept.ite (kept_bootImages (kept_bootFail h)) (kept_bootFail h)
      · exact h

theorem kept_execSl0Reached (h : Kept a s) : KeptOut a (execSl0Reached s) := KeptOut.next (kept_sl0Reached h)

theorem kept_bootFence {u cls : Nat} (h : Kept a s) : Kept a (bootFence s u cls) :=
  Kept.iteElse (kept_fence h) fun h => kept_fenceFigures (kept_wrF h)

theorem kept_trainingDone {k : Nat} {ok : Bool} (h : Kept a s) : Kept a (trainingDone s k ok) :=
  Kept.ite h (Kept.ite (kept_wrF h) (Kept.ite (kept_bootFence (Kept.put h)) (Kept.put h)))

theorem kept_execLaneTrainingDone {lane : Nat} {ok : Bool} (h : Kept a s) : KeptOut a (execLaneTrainingDone lane ok s) :=
  KeptOut.ite KeptOut.fault (KeptOut.next (kept_trainingDone h))

theorem kept_placePage {p f : Nat} (h : Kept a s) : Kept a (placePage s p f) := by
  unfold placePage
  split
  · exact h
  · exact kept_fillFrame (Kept.putTier (kept_setPte h))

theorem kept_placePlan {p : Plan} (h : Kept a s) : Kept a (placePlan s p).2 := foldl_kept2 h fun _ _ h => Kept.ite2 (kept_placePage h) h

theorem kept_placeTable {ps : List Nat} (h : Kept a s) : KeptOpt a (placeTable s ps) :=
  KeptOpt.map (fun _ => Kept.foldl h fun _ _ => kept_placePage)

theorem kept_reinstallPlan {p : Plan} (h : Kept a s) : Kept a (reinstallPlan s p) := by
  unfold reinstallPlan
  dsimp only
  split
  · exact Kept.iteThen (kept_blockPlan (Kept.put (kept_placePlan h))) fun h => kept_updPlanVer h
  · exact Kept.iteElse (Kept.put (kept_placePlan h)) fun h => kept_blockPlan h

theorem kept_reinstallSet {p : Plan} (h : Kept a s) : Kept a (reinstallSet s p) := Kept.put (kept_placePlan h)

theorem kept_reinstallVocab {v : Vocab} (h : Kept a s) : Kept a (reinstallVocab s v) := by
  unfold reinstallVocab
  split
  · exact kept_freePages h
  · rename_i heq
    have ht := (kept_placeTable h).of_eq heq
    exact Kept.put ht

theorem kept_reinstallGrm {g : Grm} (h : Kept a s) : Kept a (reinstallGrm s g) := by
  unfold reinstallGrm
  split
  · exact kept_freePages h
  · rename_i heq
    have ht := (kept_placeTable h).of_eq heq
    exact Kept.put ht

theorem kept_reinstallTab {t : Nat} {g : GsxProg} (h : Kept a s) : Kept a (reinstallTab s t g) := by
  unfold reinstallTab
  split
  · exact kept_freePages h
  · rename_i heq
    have ht := (kept_placeTable h).of_eq heq
    exact Kept.put ht

theorem kept_reinstall (h : Kept a s) : Kept a (reinstall s) :=
  Kept.ite h (kept_measureInstalls (Kept.iteThen
      (Kept.put (Kept.foldl (Kept.foldl (Kept.foldl (Kept.foldl (Kept.foldl (Kept.put h) fun _ _ => kept_reinstallPlan) fun _ _ =>
      kept_reinstallSet) fun _ _ => kept_reinstallVocab) fun _ _ => kept_reinstallGrm) fun _ _ => kept_reinstallTab)) fun h => kept_raiseBit h))

theorem kept_execImageReinstall (h : Kept a s) : KeptOut a (execImageReinstall s) := KeptOut.next (kept_reinstall h)

theorem kept_retryCheck (h : Kept a s) : Kept a (retryCheck s) := Kept.put h

theorem kept_retryFinish (h : Kept a s) : Kept a (retryFinish s) := Kept.put h

theorem kept_setLevel {n : Nat} (h : Kept a s) : Kept a (setLevel s n) := kept_raiseBit (kept_stampTime (kept_wrF h))

theorem kept_hwReport (h : Kept a s) : Kept a (hwReport s) := by
  unfold hwReport
  split
  · exact h
  · exact kept_raiseBit (Kept.put (kept_wrF (kept_wrF (kept_wrF (kept_wrF (kept_wrF (kept_wrF (kept_wrF h))))))))

theorem canon_sl1Reached (h : Canon s) : Canon (sl1Reached s) := by
  unfold sl1Reached
  split
  · exact h
  · have hreported : Canon (hwReport (setLevel s 1)) := (kept_hwReport (kept_setLevel (Kept.refl s))).canon h
    exact (kept_wrF (Kept.refl _)).canon hreported

theorem kept_laneOver {k : Nat} (h : Kept a s) : Kept a (laneOver s k) := Kept.ite h (Kept.put h)

theorem kept_execLaneOnline {lane : Nat} (h : Kept a s) : KeptOut a (execLaneOnline lane s) :=
  KeptOut.ite KeptOut.fault (KeptOut.next (kept_laneOver h))

theorem kept_bringOnline {k : Nat} (h : Kept a s) : Kept a (bringOnline s k) :=
  Kept.ite h (kept_raiseBit (kept_wrF (kept_wrF (kept_coldStart (kept_wrF h)))))

theorem kept_coverFinish (h : Kept a s) : Kept a (coverFinish s) :=
  Kept.iteThen (Kept.iteThen (Kept.iteThen (Kept.foldl (Kept.put h) fun _ _ => kept_bringOnline) fun h => kept_wrF (kept_wrF h)) fun h =>
      kept_setLevel h) fun h => kept_setLevel h

theorem kept_execAdviceColdEnd (h : Kept a s) : KeptOut a (execAdviceColdEnd s) := KeptOut.next h

theorem kept_adviseCrew {k : Nat} {c : Crew} (h : Kept a s) : Kept a (adviseCrew s k c) := by
  unfold adviseCrew
  split
  · exact h
  · exact Kept.ite h (Kept.foldl h fun _ _ => kept_advise)

theorem kept_adviseFinish {before : State} (h1 : Kept a s) : Kept a (adviseFinish before s) :=
  Kept.foldl (Kept.foldl (Kept.put h1) fun _ _ h => Kept.iteThen (Kept.iteThen (Kept.ite (kept_adviseLane h) h) fun h => kept_adviseLane h)
      fun h => kept_adviseLane h) fun _ _ => kept_adviseCrew

/-! ### The module's pins -/

theorem kept_execHousekeepingPowerOn (h : Kept a s) : KeptOut a (execHousekeepingPowerOn s) :=
  KeptOut.next (Kept.ite h (kept_umpPowerOn (Kept.put h)))

theorem kept_execHousekeepingPowerOff (h : Kept a s) : KeptOut a (execHousekeepingPowerOff s) :=
  KeptOut.next (Kept.ite (Kept.put h) (kept_umpOff (Kept.put h)))

theorem kept_execPwrEnAssert (h : Kept a s) : KeptOut a (execPwrEnAssert s) := KeptOut.next (Kept.put h)

theorem kept_coolantHigh {temp : Nat} (h : Kept a s) : Kept a (coolantHigh s temp) := Kept.ite h (Kept.put h)

theorem kept_coolantNormal {temp : Nat} (h : Kept a s) : Kept a (coolantNormal s temp) := Kept.ite h (Kept.put h)

theorem kept_execCoolantOutletHigh {temp : Nat} (h : Kept a s) : KeptOut a (execCoolantOutletHigh temp s) := KeptOut.next (kept_coolantHigh h)

theorem kept_execCoolantOutletNormal {temp : Nat} (h : Kept a s) : KeptOut a (execCoolantOutletNormal temp s) :=
  KeptOut.next (kept_coolantNormal h)

theorem kept_i2c {off n : Nat} (h : Kept a s) : Kept a (i2c s off n) := Kept.ite h (Kept.put h)

theorem kept_execI2cTransaction {off n : Nat} (h : Kept a s) : KeptOut a (execI2cTransaction off n s) := KeptOut.next (kept_i2c h)

/-! ### The end of a Combine step -/

theorem kept_cmbRows {p : Pass} {q : Plan} (h : Kept a s) : Kept a (cmbRows s p q) := Kept.foldl h fun _ _ => kept_writeRows

theorem kept_cmbSelect {p : Pass} {q : Plan} (h : Kept a s) : Kept a (cmbSelect s p q) :=
  Kept.foldl h fun _ _ h => Kept.ite h (Kept.foldl h fun _ _ h => kept_updSes (kept_nextFree h))

theorem kept_cmbLogits {p : Pass} {q : Plan} (h : Kept a s) : Kept a (cmbLogits s p q) :=
  Kept.foldl h fun _ _ h => Kept.foldl h fun _ _ h => kept_putLogits (kept_nextFree h)

theorem kept_cmbDone {i : Nat} {p : Pass} (h : Kept a s) : Kept a (cmbDone s i p) := by
  unfold cmbDone
  split
  · exact kept_restartPass h
  · exact kept_passDone (kept_cmbLogits (kept_cmbSelect (kept_cmbRows h)))

theorem kept_cmbFinish (h : Kept a s) : Kept a (cmbFinish s) := by
  unfold cmbFinish
  refine Kept.foldl h fun s e h => ?_
  dsimp only
  split
  · exact h
  · exact Kept.ite (kept_setPass h) (Kept.ite h (Kept.ite (kept_cmbDone h) (kept_setPass h)))

/-! ### The stroke -/

theorem kept_applyDelayed {d : Delayed} (h : Kept a s) : Kept a (applyDelayed s d) := by
  unfold applyDelayed
  split
  · exact kept_applyGov h
  · exact Kept.putStk (kept_wrWord h)
  · exact h

theorem kept_delayedCatch (h : Kept a s) : Kept a (delayedCatch s) :=
  Kept.iteElse (Kept.foldl (Kept.putStk h) fun _ _ => kept_applyDelayed) fun h => kept_retryCheck h

/-- The boundary at which a catch begins its stroke (06 R123). -/
theorem canon_boundary (h : Canon s) : Canon (boundary s) := h

theorem kept_setLength (h : Kept a s) : Kept a (setLength s) := Kept.putStk h

theorem kept_catchUnits {inputW : Nat} (h : Kept a s) : Kept a (catchUnits s inputW) :=
  Kept.put (kept_secCatch (kept_gatesCatch (kept_governCatch (kept_powerCatch (Kept.ite (kept_startTest h) h)))))

theorem kept_catchWork (h : Kept a s) : Kept a (catchWork s) :=
  kept_grantLegs (kept_courseCatch (kept_ergCatch (kept_grantPrep (kept_gsxCatch (kept_burstsCatch (kept_lazyReads (kept_catchMover
      (kept_courseFills (kept_pinHolds (kept_ckpCatch (kept_catchSessions (kept_linkBind (kept_serveFenced (kept_catchFinals h))))))))))))))

/-- A catch works in the stroke that its boundary begins. -/
theorem kept_caught {inputW : Nat} : Kept (boundary s) (catchWork (catchUnits (setLength (delayedCatch (boundary s))) inputW)) :=
  kept_catchWork (kept_catchUnits (kept_setLength (kept_delayedCatch (Kept.refl _))))

theorem canon_strokeCatch {inputW : Nat} (h : Canon s) : Canon (strokeCatch s inputW) := by
  unfold strokeCatch
  split
  · exact h
  · exact kept_caught.canon (canon_boundary h)

theorem kept_applyCommit {k : Commit} (h : Kept a s) : Kept a (applyCommit s k) := by
  unfold applyCommit
  split
  · exact kept_stage h
  · exact kept_commitOpen h
  · exact kept_commitImportBegin h
  · exact kept_commitImport h
  · exact kept_commitAbort h
  · exact kept_commitCompute h
  · exact kept_commitReviveMoving h
  · exact kept_commitFork h
  · exact kept_commitPin h
  · exact kept_commitRelease h
  · exact kept_commitJoin h
  · exact kept_commitIdle h
  · exact kept_commitParkCancelled h
  · exact kept_commitStream h
  · exact kept_commitCrewModify h
  · exact Kept.iteThen (kept_applyLanded h) fun h => kept_ckpPage h
  · exact kept_stage h
  · exact kept_stage h
  · exact kept_planUnloaded h
  · exact kept_tableUnloaded h

theorem kept_commitAll (h : Kept a s) : Kept a (commitAll s) := Kept.foldl (kept_deferMetered (Kept.putStk h)) fun _ _ => kept_applyCommit

theorem kept_damagedFinish (h : Kept a s) : Kept a (damagedFinish s) := by
  unfold damagedFinish
  dsimp only
  refine Kept.foldl (Kept.putStk h) fun s e h => ?_
  split
  · exact kept_damageEvent h
  · exact h

theorem kept_takeTouched {seen : List Nat} (h : Kept a s) : Kept a (takeTouched seen s).2 := kept_applyTouched (Kept.putStk h)

theorem kept_sendDones (h : Kept a s) : Kept a (sendDones s) := Kept.foldl (Kept.putStk h) fun _ _ h => kept_notify (kept_sendCpl h)

theorem kept_finishLegs (h : Kept a s) : Kept a (finishLegs s) :=
  Kept.iteElse (kept_fenceFigures (kept_faultFinish (kept_ergCount (kept_overrunNotes h)))) fun h => kept_idleTick (kept_gsxFinish
      (kept_switchFinish (kept_cmbFinish (kept_dropDamaged (kept_legsFinish h)))))

theorem kept_nodeTiers (h : Kept a s) : Kept a (nodeTiers s) := Kept.put h

theorem kept_evictFinish (h : Kept a s) : Kept a (evictFinish s) := kept_evict (kept_nodeTiers h)

theorem kept_finishTables (h : Kept a s) : Kept a (finishTables s) := by
  have hmem : Kept a (memFinish (tablesFinish (plansFinish (moverFinish s)))) :=
      kept_memFinish (kept_tablesFinish (kept_plansFinish (kept_moverFinish h)))
  have hmoved := kept_durFinish (kept_sealedFinish (kept_remoteFinish (kept_reviveFinish (kept_courseFinish hmem))))
  have hpower := kept_foldLeaves (kept_powerFinish (kept_cleanFinish (kept_retryFinish hmoved)))
  unfold finishTables
  exact kept_evictFinish (kept_restFinish (kept_ckpFinish (kept_streamFinish hpower)))

theorem kept_finishRights {before : State} (h1 : Kept a s) : Kept a (finishRights before s) :=
  kept_policersFinish (kept_pfxKeyChanges (kept_quotesFinish (kept_closeDisabled (kept_secFinish (kept_measureInstalls h1)))))

theorem kept_finishFigures {before : State} {energyFj : List Nat} (h1 : Kept a s) : Kept a (finishFigures before s energyFj) :=
  kept_windowsFinish (kept_umpFigures (kept_memFigures (kept_sesFigures (kept_indexFigures (kept_crewFigures (kept_textFinish
      (Kept.putTier (kept_tierFigures (kept_adviseFinish (kept_cmbFigures (kept_governFinish (kept_coverFinish h1))))))))))))

/-- The state in which the recovery begins: at the boundary that ends the stroke. -/
def strokeEnded (s : State) : State :=
  { s with
    stk := { s.stk with phase := .boundary }
    time := { s.time with now := s.stk.start + s.stk.length }
    pwr := { s.pwr with lastFinish := s.stk.number } }

theorem kept_recovery : Kept (strokeEnded s) (recovery s) :=
  kept_linkPump (kept_featherFinish (kept_remoteStart (kept_indexRecovery (kept_sendDones (kept_tallySend (Kept.refl _))))))

/-- What a finish does before the recovery keeps the form and the stroke (06 R127). -/
theorem kept_finished {before : State} {seen : List Nat} {energyFj : List Nat} (h : Kept a s) :
    Kept a (finishFigures before (finishRights before (takeTouched seen (damagedFinish (finishTables s))).2) energyFj) :=
  kept_finishFigures (kept_finishRights (kept_takeTouched (kept_damagedFinish (kept_finishTables h))))

/-- The recovery after a finish: at the boundary that ends the stroke. -/
theorem canon_recovery (h : Canon s) : Canon (recovery s) := kept_recovery.canon h

theorem canon_strokeFinish {energyFj : List Nat} (h : Canon s) : Canon (strokeFinish s energyFj) := by
  have hlegs : Kept s (finishLegs (governCounts s)) := kept_finishLegs (kept_governCounts (Kept.refl s))
  unfold strokeFinish
  split
  · exact h
  · dsimp only
    split
    · exact hlegs.canon h
    · exact canon_recovery ((kept_finished (kept_takeTouched (kept_commitAll hlegs))).canon h)

/-! ### Rows -/

theorem canon_exec {i : Instr} (h : Canon s) : CanonOut (exec i s) := by
  have kept := Kept.refl s
  unfold exec
  split
  · exact CanonOut.next (canon_strokeCatch h)
  · exact CanonOut.next (canon_strokeFinish h)
  · exact (kept_execOpenSes kept).canonOut h
  · exact (kept_execImportBegin kept).canonOut h
  · exact (kept_execImportCommit kept).canonOut h
  · exact (kept_execImportAbort kept).canonOut h
  · exact (kept_execAppend kept).canonOut h
  · exact (kept_execStep kept).canonOut h
  · exact (kept_execPark kept).canonOut h
  · exact (kept_execRevive kept).canonOut h
  · exact (kept_execFork kept).canonOut h
  · exact (kept_execExportSes kept).canonOut h
  · exact (kept_execPin kept).canonOut h
  · exact (kept_execRelease kept).canonOut h
  · exact (kept_execJoin kept).canonOut h
  · exact (kept_execMove kept).canonOut h
  · exact (kept_execSessionIdle kept).canonOut h
  · exact (kept_execImportWindowTimeout kept).canonOut h
  · exact (kept_execQuotaWaitExpiry kept).canonOut h
  · exact (kept_execUmpDownWaitExpiry kept).canonOut h
  · exact (kept_execPlanLoad kept).canonOut h
  · exact (kept_execPlanUnload kept).canonOut h
  · exact (kept_execImportRdmaWrite kept).canonOut h
  · exact (kept_execCourseOpen kept).canonOut h
  · exact (kept_execCourseClose kept).canonOut h
  · exact (kept_execCourseStepStart kept).canonOut h
  · exact (kept_execFetchWaitExpiry kept).canonOut h
  · exact (kept_execIndexBuild kept).canonOut h
  · exact (kept_execBladePull kept).canonOut h
  · exact (kept_execLegEnd kept).canonOut h
  · exact (kept_execLaneBusTransfer kept).canonOut h
  · exact (kept_execCombineInstruction kept).canonOut h
  · exact (kept_execRefreshDue kept).canonOut h
  · exact (kept_execControlDieSlot kept).canonOut h
  · exact (kept_execMoverPageCopied kept).canonOut h
  · exact (kept_execLeafUnfold kept).canonOut h
  · exact (kept_execSlowThermalLoop kept).canonOut h
  · exact (kept_execLaneHotSet kept).canonOut h
  · exact (kept_execLaneHotClear kept).canonOut h
  · exact (kept_execLaneTempTrip kept).canonOut h
  · exact (kept_execSprintHoldEnd kept).canonOut h
  · exact (kept_execColdStartEnd kept).canonOut h
  · exact (kept_execVocabLoad kept).canonOut h
  · exact (kept_execGrmLoad kept).canonOut h
  · exact (kept_execTableUnload kept).canonOut h
  · exact (kept_execStreamSession kept).canonOut h
  · exact (kept_execStreamAllocate kept).canonOut h
  · exact (kept_execStreamFree kept).canonOut h
  · exact (kept_execStreamConfigure kept).canonOut h
  · exact (kept_execTokenize kept).canonOut h
  · exact (kept_execDetokenize kept).canonOut h
  · exact (kept_execStreamEngineTake kept).canonOut h
  · exact (kept_execMaskBuild kept).canonOut h
  · exact (kept_execMemCreate kept).canonOut h
  · exact (kept_execMemDrop kept).canonOut h
  · exact (kept_execMemQuery kept).canonOut h
  · exact (kept_execMemInsert kept).canonOut h
  · exact (kept_execMemDelete kept).canonOut h
  · exact (kept_execMemRepair kept).canonOut h
  · exact (kept_execWalkAdmit kept).canonOut h
  · exact (kept_execNodeReadDone kept).canonOut h
  · exact (kept_execGsxLoad kept).canonOut h
  · exact (kept_execGather kept).canonOut h
  · exact (kept_execScatter kept).canonOut h
  · exact (kept_execGsxSeal kept).canonOut h
  · exact (kept_execCrewCreate kept).canonOut h
  · exact (kept_execCrewModify kept).canonOut h
  · exact (kept_execCrewDelete kept).canonOut h
  · exact (kept_execCrewSeated kept).canonOut h
  · exact (kept_execSwitchDone kept).canonOut h
  · exact (kept_execPreempt kept).canonOut h
  · exact (kept_execSplitWindowEnd kept).canonOut h
  · exact (kept_execQpCreate kept).canonOut h
  · exact (kept_execQpDestroy kept).canonOut h
  · exact (kept_execFeather kept).canonOut h
  · exact (kept_execWake kept).canonOut h
  · exact (kept_execNop kept).canonOut h
  · exact (kept_execCheckpoint kept).canonOut h
  · exact (kept_execRestore kept).canonOut h
  · exact (kept_execCkpWaitExpiry kept).canonOut h
  · exact (kept_execReceiptNow kept).canonOut h
  · exact (kept_execLogRead kept).canonOut h
  · exact (kept_execUmpAck kept).canonOut h
  · exact (kept_execEventRead kept).canonOut h
  · exact (kept_execSetPeriod kept).canonOut h
  · exact (kept_execFwUpdate kept).canonOut h
  · exact (kept_execCertRead kept).canonOut h
  · exact (kept_execAttest kept).canonOut h
  · exact (kept_execRigUpdateRigging kept).canonOut h
  · exact (kept_execRigUpdateFirmware kept).canonOut h
  · exact (kept_execErg kept).canonOut h
  · exact (kept_execErgTestEnd kept).canonOut h
  · exact (kept_execPatrolScrub kept).canonOut h
  · exact (kept_execFlashReadFail kept).canonOut h
  · exact (kept_execBwpFrameRx kept).canonOut h
  · exact (kept_execHello kept).canonOut h
  · exact (kept_execClose kept).canonOut h
  · exact (kept_execBwpAckFrame kept).canonOut h
  · exact (kept_execBwpRetransmitTimer kept).canonOut h
  · exact (kept_execBwpAckDelay kept).canonOut h
  · exact (kept_execBwpIdleTimeout kept).canonOut h
  · exact (kept_execBwpLingerExpiry kept).canonOut h
  · exact (kept_execEthFrameRx kept).canonOut h
  · exact (kept_execMkaFrame kept).canonOut h
  · exact (kept_execPtpMessage kept).canonOut h
  · exact (kept_execPpsInEdge kept).canonOut h
  · exact (kept_execTimeHoldover kept).canonOut h
  · exact (kept_execPpsOutPulse kept).canonOut h
  · exact (kept_execPortLinkChange kept).canonOut h
  · exact (kept_execRdmaReadResponse kept).canonOut h
  · exact (kept_execRdmaWriteAck kept).canonOut h
  · exact (kept_execRoceInvalidRequest kept).canonOut h
  · exact (kept_execQpError kept).canonOut h
  · exact (kept_execCnpRx kept).canonOut h
  · exact (kept_execEcnMarkedRx kept).canonOut h
  · exact (kept_execRoceRateRaise kept).canonOut h
  · exact (kept_execEgressSelect kept).canonOut h
  · exact (kept_execGclEntryAdvance kept).canonOut h
  · exact (kept_execInputRangeLow kept).canonOut h
  · exact (kept_execInputRangeHigh kept).canonOut h
  · exact (kept_execPowerLoss kept).canonOut h
  · exact (kept_execOverVoltage kept).canonOut h
  · exact (kept_execPwrEnDeassert kept).canonOut h
  · exact CanonOut.next (canon_holdWaterEnd h)
  · exact (kept_execHoldupTest kept).canonOut h
  · exact (kept_execHoldupTestResult kept).canonOut h
  · exact (kept_execHoldupRetestTimer kept).canonOut h
  · exact (kept_execTallyFrame kept).canonOut h
  · exact (kept_execReceiptPeriodEnd kept).canonOut h
  · exact (kept_execReceiptSigned kept).canonOut h
  · exact (kept_execTamperOpen kept).canonOut h
  · exact (kept_execSealRecord kept).canonOut h
  · exact (kept_execPowerOnReset kept).canonOut h
  · exact (kept_execRstNReset kept).canonOut h
  · exact (kept_execWatchdogExpiry kept).canonOut h
  · exact (kept_execPllLockLoss kept).canonOut h
  · exact (kept_execPllRelock kept).canonOut h
  · exact (kept_execClockFaultReset kept).canonOut h
  · exact (kept_execSl0Reached kept).canonOut h
  · exact (kept_execLaneTrainingDone kept).canonOut h
  · exact (kept_execImageReinstall kept).canonOut h
  · exact CanonOut.next (canon_sl1Reached h)
  · exact (kept_execLaneOnline kept).canonOut h
  · exact (kept_execAdviceColdEnd kept).canonOut h
  · exact (kept_execCoolantOutletHigh kept).canonOut h
  · exact (kept_execI2cTransaction kept).canonOut h
  · exact (kept_execInputInRange kept).canonOut h
  · exact (kept_execPwrEnAssert kept).canonOut h
  · exact canon_execPowerStageFault h
  · exact (kept_execRstNRelease kept).canonOut h
  · exact (kept_execHousekeepingPowerOn kept).canonOut h
  · exact (kept_execHousekeepingPowerOff kept).canonOut h
  · exact (kept_execUmpSelfTestEnd kept).canonOut h
  · exact (kept_execTallyLinkUp kept).canonOut h
  · exact (kept_execCoolantOutletNormal kept).canonOut h
  · exact (kept_execJournalTailWritten kept).canonOut h
  · exact (kept_execLocalAckTimeout kept).canonOut h
  · exact (kept_execPauseTimeExpiry kept).canonOut h

end

/-! ### The obligation -/

/-- A step runs a row on the state with the queue's rest, or idles. -/
theorem canon_step {s t : State} (h : Canon s) (hstep : step s = .next t) : Canon t := by
  cases hpending : s.pending with
  | nil =>
    rw [step_of_empty hpending] at hstep
    exact Outcome.next.inj hstep ▸ h
  | cons i rest =>
    rw [step_of_front hpending] at hstep
    exact canon_exec (s := { s with pending := rest }) h t hstep

/-- Settles O1: every row keeps the form, by the lemmas of the operations it runs through. -/
theorem stepKeepsCanon : Obligations.StepKeepsCanon := fun _ _ => canon_step

end Sys2Proof.Machine
end

section
/-! PROOFS. The catch and the finish of a stroke (06 R123 to R127). -/

open Host
namespace Sys2Proof.Machine

/-! ### The catch -/

section
variable {s : State} (w : Nat)

/-- A catch comes between a finish and the next drive, and not while a Hold-water sequence runs (18 R397). -/
theorem strokeCatch_waits (h : s.pwr.water.isSome ∨ s.stk.phase ≠ .boundary) : strokeCatch s w = s := if_pos (by simpa using h)

theorem strokeCatch_catches (hwater : s.pwr.water = none) (hphase : s.stk.phase = .boundary) :
    strokeCatch s w = catchWork (catchUnits (setLength (delayedCatch (boundary s))) w) := if_neg (by simp [hwater, hphase])

/-- A boundary that is not the first stands at the end of the stroke before it, moved by a step of device time that waited (06 R121, R123). -/
theorem boundary_start (hbegun : s.stk.begun = true) :
    (boundary s).stk.start = (((s.stk.start + s.stk.length : Nat) : Int) + s.time.stepBy.getD 0).toNat := if_pos hbegun

theorem boundary_number (s : State) : (boundary s).stk.number = if s.stk.begun then s.stk.number + 1 else 0 := rfl

end

/-- Settles O59: a catch works in the stroke that its boundary begins, and nothing of that work moves the stroke. -/
theorem strokeCatches : Obligations.StrokeCatches := by
  intro s w
  refine ⟨fun h => ?_, fun hwater hphase => ?_, fun hwater hphase hbegun => ?_, fun hwater hphase hbegun => ?_⟩
  · exact congrArg Outcome.next (strokeCatch_waits w h)
  · obtain ⟨hphase', hbegun', hnumber', hstart'⟩ := (kept_caught (s := s) (inputW := w)).stroke
    exact ⟨_, congrArg Outcome.next (strokeCatch_catches w hwater hphase), hphase', hbegun', hnumber',
      fun hbegun => hstart'.trans (boundary_start hbegun)⟩
  · exact ⟨boundary s, (boundary_number s).trans (if_pos hbegun), rfl, boundary_start hbegun, rfl, rfl, rfl, rfl, rfl,
      congrArg Outcome.next (strokeCatch_catches w hwater hphase)⟩
  · exact ⟨boundary s, (boundary_number s).trans (if_neg (by simp [hbegun])), rfl, rfl,
      congrArg Outcome.next (strokeCatch_catches w hwater hphase)⟩

/-! ### The finish -/

/-- What follows from the commits of a finish before the recovery: the tables, the rights and the figures (06 R127). -/
def finishDue (before : State) (fj : List Nat) (done : State) : State :=
  let first := takeTouched [] done
  finishFigures before (finishRights before (takeTouched first.1 (damagedFinish (finishTables first.2))).2) fj

theorem kept_finishDue {a before done : State} {fj : List Nat} (h : Kept a done) : Kept a (finishDue before fj done) :=
  kept_finished (kept_takeTouched h)

section
variable {s : State} (fj : List Nat)

/-- A finish ends a drive, and not while a Hold-water sequence runs (18 R397). -/
theorem strokeFinish_waits (h : s.pwr.water.isSome ∨ s.stk.phase ≠ .drive) : strokeFinish s fj = s := if_pos (by simpa using h)

theorem strokeFinish_finishes (hwater : s.pwr.water = none) (hphase : s.stk.phase = .drive)
    (hlegs : (finishLegs (governCounts s)).pwr.water = none) :
    strokeFinish s fj = recovery (finishDue s fj (commitAll (finishLegs (governCounts s)))) := by
  unfold strokeFinish
  rw [if_neg (by simp [hwater, hphase])]
  dsimp only
  rw [if_neg (by simp [hlegs])]
  rfl

/-- The recovery after a finish stands at the boundary that ends the stroke. -/
theorem recovery_stroke (u : State) : (recovery u).stk.phase = .boundary ∧ (recovery u).stk.number = u.stk.number := by
  obtain ⟨hphase, -, hnumber, -⟩ := (kept_recovery (s := u)).stroke
  exact ⟨hphase, hnumber⟩

end

/-- Commits that come after the content changes of their finish (03 R64). -/
def comesLast : Commit → Bool
  | .idle _ | .planUnload _ | .tableUnload _ => true
  | _ => false

/-- Commits take effect in the order in which they were staged, idleness and unloads last. -/
def commitsTaken (ks : List Commit) (s : State) : State :=
  (ks.filter (fun k => !comesLast k) ++ ks.filter comesLast).foldl applyCommit s

/-- The strokes that the commits of each session have waited for the Umpire, with this one (19 R406). -/
def waitsCounted (s : State) : Map Nat :=
  ((s.stk.commits.filter (fun k => (meteredSid k).isSome)).filterMap meteredSid).foldl
    (fun m sid => mapSet m sid ((mapGet m sid).getD 0 + 1)) s.ump.waits

/-- While the Umpire counts, every commit takes effect. -/
theorem commitAll_of_up {s : State} (h : umpUp s = true) : commitAll s =
    commitsTaken s.stk.commits { s with stk := { s.stk with commits := [] }, ump := { s.ump with waits := [] } } := by
  have hup : umpUp { s with stk := { s.stk with commits := [] } } = true := h
  unfold commitAll deferMetered
  rw [if_pos hup]
  rfl

/-- While it cannot, those that it would count stay staged, and their strokes are counted (19 R406). -/
theorem commitAll_of_down {s : State} (h : umpUp s = false) : commitAll s =
    commitsTaken (s.stk.commits.filter (fun k => (meteredSid k).isNone))
      { s with
        stk := { s.stk with commits := s.stk.commits.filter (fun k => (meteredSid k).isSome) }
        ump := { s.ump with waits := waitsCounted s } } := by
  have hdown : ¬ umpUp { s with stk := { s.stk with commits := [] } } = true := by
    rw [show umpUp { s with stk := { s.stk with commits := [] } } = umpUp s from rfl, h]
    decide
  unfold commitAll deferMetered
  rw [if_neg hdown]
  rfl

/-- Settles O60: a finish takes the commits that the Umpire can count, and what follows ends at the boundary. -/
theorem strokeFinishes : Obligations.StrokeFinishes := by
  intro s fj
  refine ⟨fun h => congrArg Outcome.next (strokeFinish_waits fj h), fun hwater hphase hlegs => ?_⟩
  have hfinish := strokeFinish_finishes fj hwater hphase hlegs
  refine ⟨⟨_, congrArg Outcome.next hfinish, ?_⟩, fun hup => ?_, fun hdown => ?_⟩
  · obtain ⟨hended, hnumber⟩ := recovery_stroke (finishDue s fj (commitAll (finishLegs (governCounts s))))
    have hdue : Kept s (finishDue s fj (commitAll (finishLegs (governCounts s)))) :=
      kept_finishDue (kept_commitAll (kept_finishLegs (kept_governCounts (Kept.refl s))))
    obtain ⟨-, -, hsame, -⟩ := hdue.stroke
    exact ⟨hended, hnumber.trans hsame⟩
  · exact congrArg Outcome.next (hfinish.trans (congrArg (fun u => recovery (finishDue s fj u)) (commitAll_of_up hup)))
  · exact congrArg Outcome.next (hfinish.trans (congrArg (fun u => recovery (finishDue s fj u)) (commitAll_of_down hdown)))

end Sys2Proof.Machine
end

section
/-! PROOFS. Control space: a register word read after a write (02 R18, R20), accesses that 02 R19 refuses, and what an error of a block records (02
R27). -/

open Host
namespace Sys2Proof.Machine

/-! ### A word read after a write -/

theorem rdWord_wrWord_same {s : State} (b : Blk) (inst bank off v : Nat) (h : mapWf s.reg.ctl = true) :
    rdWord (wrWord s b inst bank off v) b inst bank off = v % 2 ^ 64 := by
  have hctl : (wrWord s b inst bank off v).reg.ctl = ctlPut s.reg.ctl b inst bank off v := rfl
  by_cases hreset : v % 2 ^ 64 = regReset b off
  · rw [rdWord_unlisted (by rw [hctl, ctlPut, if_pos hreset, mapGet_mapErase_same _ _ h]), hreset]
  · rw [rdWord_listed (by rw [hctl, ctlPut, if_neg hreset, mapGet_mapSet_same]), BitVec.toNat_ofNat]

theorem rdWord_wrWord_ne {s : State} {b b' : Blk} {inst inst' bank bank' off off' : Nat} (v : Nat) (h : mapWf s.reg.ctl = true)
    (hkey : regKey b' inst' bank' off' ≠ regKey b inst bank off) :
    rdWord (wrWord s b inst bank off v) b' inst' bank' off' = rdWord s b' inst' bank' off' := by
  have hstands : mapGet (wrWord s b inst bank off v).reg.ctl (regKey b' inst' bank' off') = mapGet s.reg.ctl (regKey b' inst' bank' off') := by
    show mapGet (ctlPut s.reg.ctl b inst bank off v) _ = _
    unfold ctlPut
    split
    · exact mapGet_mapErase_ne _ _ _ h hkey
    · exact mapGet_mapSet_ne _ _ _ _ hkey
  simp only [rdWord, hstands]

/-- Settles O8: the word written is read back, and every other word stands. -/
theorem registerReadBack : Obligations.RegisterReadBack :=
  fun _ b inst bank off v h => ⟨rdWord_wrWord_same b inst bank off v h, fun _ _ _ _ hkey => rdWord_wrWord_ne v h hkey⟩

/-! ### Refused accesses -/

/-- The code in the status word of a response, which carries the offset above it (15 Table 15-11). -/
theorem statusCode {head e o : Nat} {rest : List Nat} (he : e < 2 ^ 16) : (([head, e + o * 2 ^ 16] ++ rest).getD 1 0) % 2 ^ 16 = e := by
  show (e + o * 2 ^ 16) % 2 ^ 16 = e
  omega

section
variable {s : State} {dom : Nat} {enc : Bool} {head : Nat} {data : List Nat}

theorem regRequest_misaligned (h : bitsOf head 12 12 % 8 ≠ 0) : regRequest s dom enc head data =
    ([head, E_REG_ALIGN + bitsOf head 12 12 * 2 ^ 16] ++ (if bitOf head 32 then [] else List.replicate (bitsOf head 24 5 + 1) 0), s) := by
  simp only [regRequest, if_pos h]

theorem regRequest_unmapped (halign : bitsOf head 12 12 % 8 = 0) (h : blkOfPage (bitsOf head 0 12) = none) : regRequest s dom enc head data =
    ([head, E_REG_UNMAPPED + bitsOf head 12 12 * 2 ^ 16] ++ (if bitOf head 32 then [] else List.replicate (bitsOf head 24 5 + 1) 0), s) := by
  simp only [regRequest, halign, h, ne_eq, not_true_eq_false, if_false, Option.isNone_none, if_true]

/-- A page that exists refuses the write of a domain without the right. -/
theorem regWrite_denied {page : Nat} (off v : Nat) (h : (blkOfPage page).isSome) (hright : domRegWrite s dom = false) :
    regWrite s dom enc page off v = (some E_REG_DENIED, s) := by
  obtain ⟨p, hp⟩ := Option.isSome_iff_exists.mp h
  simp only [regWrite, hp, hright, Bool.not_false, if_true]

theorem regRequest_denied (halign : bitsOf head 12 12 % 8 = 0) (hpage : (blkOfPage (bitsOf head 0 12)).isSome)
    (hrange : bitsOf head 12 12 + 8 * (bitsOf head 24 5 + 1) ≤ 0x1000) (hwrite : bitOf head 32 = true) (hdata : data ≠ [])
    (hright : domRegWrite s dom = false) :
    regRequest s dom enc head data = ([head, E_REG_DENIED + bitsOf head 12 12 * 2 ^ 16], s) := by
  obtain ⟨v, vs, rfl⟩ := List.exists_cons_of_ne_nil hdata
  have hmapped : (blkOfPage (bitsOf head 0 12)).isNone = false := by simpa using hpage
  simp only [regRequest, halign, hmapped, if_neg (Nat.not_lt.mpr hrange), hwrite, writeRun, regWrite_denied _ v hpage hright, ne_eq,
    not_true_eq_false, if_false, Bool.false_eq_true, if_true]

end

/-- Settles O7: a misaligned offset, a page that does not exist, and a write without the right. -/
theorem registerAccessRefused : Obligations.RegisterAccessRefused := by
  intro s dom enc head data
  refine ⟨fun h => ?_, fun halign h => ?_, fun halign hpage hrange hwrite hdata hright => ?_⟩
  · rw [regRequest_misaligned h]
    exact ⟨statusCode (by decide), rfl⟩
  · rw [regRequest_unmapped halign h]
    exact ⟨statusCode (by decide), rfl⟩
  · rw [regRequest_denied halign hpage hrange hwrite hdata hright]
    exact ⟨statusCode (rest := []) (by decide), rfl⟩

/-! ### Errors of a block -/

/-- Two words at different offsets of their pages have different keys. -/
theorem regKey_ne {b b' : Blk} {inst inst' bank bank' off off' : Nat} (h : off < 4096) (h' : off' < 4096) (hne : off' ≠ off) :
    regKey b' inst' bank' off' ≠ regKey b inst bank off := by
  unfold regKey
  omega

/-- Every register word stands but those at the offset of `BWP_DOM_EVT`, where lost event records are counted (15 R345). -/
def WordsStand (s t : State) : Prop :=
  mapWf s.reg.ctl = true → mapWf t.reg.ctl = true ∧
    ∀ (b : Blk) (inst bank off : Nat), off < 4096 → off ≠ 0x150 → rdWord t b inst bank off = rdWord s b inst bank off

theorem WordsStand.refl (s : State) : WordsStand s s := fun h => ⟨h, fun _ _ _ _ _ _ => rfl⟩

theorem WordsStand.trans {s t u : State} (h : WordsStand s t) (k : WordsStand t u) : WordsStand s u := by
  intro hs
  obtain ⟨ht, hst⟩ := h hs
  obtain ⟨hu, htu⟩ := k ht
  exact ⟨hu, fun b inst bank off hoff hne => (htu b inst bank off hoff hne).trans (hst b inst bank off hoff hne)⟩

theorem pushEvent_wordsStand (s : State) (d : Nat) (r : EvRec) : WordsStand s (pushEvent s d r) := by
  unfold pushEvent
  dsimp only
  split
  next => exact WordsStand.refl s
  next => exact fun hs => ⟨mapWf_ctlPut hs, fun b inst bank off hoff hne => rdWord_wrWord_ne _ hs (regKey_ne (by decide) hoff hne)⟩

theorem pushEvents_wordsStand (s : State) (ds : List Nat) (r : EvRec) : WordsStand s (pushEvents s ds r) :=
  List.foldlRecOn ds _ (WordsStand.refl s) fun t h d _ => h.trans (pushEvent_wordsStand t d r)

/-- What a field of a word's low bits reads once it is written. -/
theorem bitsOf_putBits_low {wd : Nat} (x v : Nat) (h : wd ≤ 64) : bitsOf (putBits x 0 wd v % 2 ^ 64) 0 wd = v % 2 ^ wd := by
  have hdvd : 2 ^ wd ∣ 2 ^ 64 := Nat.pow_dvd_pow 2 h
  have hlow : (x - x % 2 ^ wd) % 2 ^ wd = 0 := Nat.mod_eq_zero_of_dvd (Nat.dvd_sub_mod x)
  simp only [bitsOf, putBits, Nat.shiftRight_zero, pow_zero, mul_one]
  rw [Nat.mod_mod_of_dvd _ hdvd, Nat.add_mod, hlow, zero_add, Nat.mod_mod, Nat.mod_mod]

/-- Such a field of a page is read back. -/
theorem rdI_wrI_low {s : State} {f : Fld} (inst v : Nat) (hs : mapWf s.reg.ctl = true) (hlo : f.lo = 0) (hwd : f.wd ≤ 64) :
    rdI (wrI s f inst v) f inst = v % 2 ^ f.wd := by
  simp only [rdI, rdFx, wrI, wrFx]
  rw [rdWord_wrWord_same _ _ _ _ _ hs, hlo]
  exact bitsOf_putBits_low _ _ hwd

/-- A write of a field leaves every word at another offset. -/
theorem rdWord_wrI_ne {s : State} {f : Fld} {b : Blk} {inst inst' bank off : Nat} (v : Nat) (hs : mapWf s.reg.ctl = true) (hf : f.off + f.stride * 0 < 4096)
    (hoff : off < 4096) (hne : off ≠ f.off + f.stride * 0) : rdWord (wrI s f inst' v) b inst bank off = rdWord s b inst bank off :=
  rdWord_wrWord_ne _ hs (regKey_ne hf hoff hne)

/-- The common header's `EVT_STATUS` and `ERR_COUNT` of a block (02 Table 02-3). -/
def evtStatus (b : Blk) : Fld := { R.EVT_STATUS_ALL with blk := b }
def errCount (b : Blk) : Fld := { R.ERR_COUNT_COUNT with blk := b }

theorem evtStatus_off (b : Blk) : (evtStatus b).off + (evtStatus b).stride * 0 = 0x28 := rfl
theorem errCount_off (b : Blk) : (errCount b).off + (errCount b).stride * 0 = 0x48 := rfl
theorem errCount_wd (b : Blk) : (errCount b).wd = 32 := rfl

/-- Whether a block's `EVT_STATUS.ERR` stands. -/
def errStands (s : State) (b : Blk) (inst : Nat) : Bool := bitOf (rdI s (evtStatus b) inst) 0

/-- The state with `EVT_STATUS.ERR` raised. -/
def errRaised (s : State) (b : Blk) (inst : Nat) : State :=
  if !errStands s b inst then wrI s (evtStatus b) inst (rdI s (evtStatus b) inst ||| 2 ^ 0) else s

/-- Raising `ERR` sends event records beside, which count lost ones at most. -/
theorem raiseErr_wordsStand (s : State) (b : Blk) (inst : Nat) : WordsStand (errRaised s b inst) (raiseBit s b inst 0 .plain) := by
  show WordsStand _ (if _ then pushEvents (errRaised s b inst) _ _ else errRaised s b inst)
  split
  · exact pushEvents_wordsStand _ _ _
  · exact WordsStand.refl _

theorem errRaised_wf {s : State} (b : Blk) (inst : Nat) (hs : mapWf s.reg.ctl = true) : mapWf (errRaised s b inst).reg.ctl = true := by
  unfold errRaised
  split
  · exact mapWf_ctlPut hs
  · exact hs

theorem errStands_errRaised {s : State} (b : Blk) (inst : Nat) (hs : mapWf s.reg.ctl = true) : errStands (errRaised s b inst) b inst = true := by
  cases h : errStands s b inst with
  | true =>
    have hsame : errRaised s b inst = s := if_neg (by rw [h]; decide)
    rw [hsame, h]
  | false =>
    have hread := rdI_wrI_low (f := evtStatus b) inst (rdI s (evtStatus b) inst ||| 2 ^ 0) hs rfl (Nat.le_refl 64)
    simp only [errRaised, h, Bool.not_false, if_true]
    rw [errStands, hread, bitOf, evtStatus]
    simp [R.EVT_STATUS_ALL]

theorem rdWord_errRaised {s : State} (b : Blk) (inst : Nat) {off : Nat} (hs : mapWf s.reg.ctl = true) (hoff : off < 4096) (hne : off ≠ 0x28) :
    rdWord (errRaised s b inst) b inst 0 off = rdWord s b inst 0 off := by
  unfold errRaised
  split
  · exact rdWord_wrI_ne (f := evtStatus b) _ hs (evtStatus_off b ▸ by decide) hoff hne
  · rfl

/-- `ERR_FIRST` is captured while `ERR` does not stand. -/
def errFirst (s : State) (b : Blk) (inst unit code : Nat) : State :=
  if errStands s b inst then s
  else wrWord s b inst 0 0x40 (code % 2 ^ 16 + (unit % 2 ^ 16) * 2 ^ 16 + (s.stk.number % 2 ^ 32) * 2 ^ 32)

theorem errFirst_wf {s : State} (b : Blk) (inst unit code : Nat) (hs : mapWf s.reg.ctl = true) :
    mapWf (errFirst s b inst unit code).reg.ctl = true := by
  unfold errFirst
  split
  · exact hs
  · exact mapWf_ctlPut hs

theorem rdWord_errFirst {s : State} (b : Blk) (inst unit code : Nat) {off : Nat} (hs : mapWf s.reg.ctl = true) (hoff : off < 4096) (hne : off ≠ 0x40) :
    rdWord (errFirst s b inst unit code) b inst 0 off = rdWord s b inst 0 off := by
  unfold errFirst
  split
  · rfl
  · exact rdWord_wrWord_ne _ hs (regKey_ne (by decide) hoff hne)

/-- An error recorded: `ERR_FIRST`, then `ERR`, then `ERR_COUNT`. -/
theorem recordErr_eq (s : State) (b : Blk) (inst unit code : Nat) :
    recordErr s b inst unit code = cntI (raiseBit (errFirst s b inst unit code) b inst 0 .plain) (errCount b) inst 1 := rfl

/-- What the words of a block's header read after an error, before it is counted. -/
theorem rdWord_raiseErr {s : State} (b : Blk) (inst unit code : Nat) (hs : mapWf s.reg.ctl = true) :
    let u := raiseBit (errFirst s b inst unit code) b inst 0 .plain
    mapWf u.reg.ctl = true ∧ errStands u b inst = true ∧ rdWord u b inst 0 0x48 = rdWord s b inst 0 0x48 ∧
      rdWord u b inst 0 0x40 = rdWord (errFirst s b inst unit code) b inst 0 0x40 := by
  have hfirst := errFirst_wf b inst unit code hs
  obtain ⟨hwf, hstand⟩ := raiseErr_wordsStand (errFirst s b inst unit code) b inst (errRaised_wf b inst hfirst)
  refine ⟨hwf, ?_, ?_, ?_⟩
  · have hword : rdI (raiseBit (errFirst s b inst unit code) b inst 0 .plain) (evtStatus b) inst =
        rdI (errRaised (errFirst s b inst unit code) b inst) (evtStatus b) inst :=
      congrArg (bitsOf · 0 64) (hstand b inst 0 0x28 (by decide) (by decide))
    rw [errStands, hword]
    exact errStands_errRaised b inst hfirst
  · rw [hstand b inst 0 0x48 (by decide) (by decide), rdWord_errRaised b inst hfirst (by decide) (by decide),
      rdWord_errFirst b inst unit code hs (by decide) (by decide)]
  · rw [hstand b inst 0 0x40 (by decide) (by decide), rdWord_errRaised b inst hfirst (by decide) (by decide)]

/-- A sum held at the largest value of its width fits the width. -/
theorem satAdd_mod (n x y : Nat) : satAdd n x y % 2 ^ n = min (2 ^ n - 1) (x + y) := by
  have hpos : 0 < 2 ^ n := Nat.two_pow_pos n
  rw [satAdd, Nat.mod_eq_of_lt (by omega), Nat.min_comm]

/-- Settles O9: `ERR` stands after an error, the count saturates, and the first error is kept while `ERR` stands. -/
theorem errorRecorded : Obligations.ErrorRecorded := by
  intro s b inst unit code hs
  obtain ⟨hwf, hraised, hcount, hword⟩ := rdWord_raiseErr b inst unit code hs
  have hread {off : Nat} (hoff : off < 4096) (hne : off ≠ 0x48) : rdWord (recordErr s b inst unit code) b inst 0 off =
      rdWord (raiseBit (errFirst s b inst unit code) b inst 0 .plain) b inst 0 off := rdWord_wrI_ne (f := errCount b) _ hwf (errCount_off b ▸ by decide) hoff hne
  refine ⟨?_, ?_, fun herr => ?_, fun herr => ?_⟩
  · exact (congrArg (fun w => bitOf (bitsOf w 0 64) 0) (hread (off := 0x28) (by decide) (by decide))).trans hraised
  · have hbefore : rdI (raiseBit (errFirst s b inst unit code) b inst 0 .plain) (errCount b) inst = rdI s (errCount b) inst :=
      congrArg (bitsOf · 0 32) hcount
    have hafter := rdI_wrI_low (f := errCount b) inst (satAdd 32 (rdI s (errCount b) inst) 1) hwf rfl (errCount_wd b ▸ by decide)
    rw [errCount_wd, satAdd_mod] at hafter
    rw [recordErr_eq, cntI, hbefore, errCount_wd]
    exact hafter
  · have hfirst : errFirst s b inst unit code = s := if_pos herr
    rw [hread (by decide) (by decide), hword, hfirst]
  · have hfirst : errFirst s b inst unit code = wrWord s b inst 0 0x40 _ := if_neg (by rw [show errStands s b inst = false from herr]; decide)
    rw [hread (by decide) (by decide), hword, hfirst, rdWord_wrWord_same b inst 0 0x40 _ hs]
    omega

end Sys2Proof.Machine
end

section
/-! PROOFS. The sources of device time (06 R120 to R122, R134; 15 R333). -/

open Host
namespace Sys2Proof.Machine

/-- A message that an interface's clock takes: PTP is enabled there and its link is up, and the transport, the delay mechanism and the
domain are the configured ones. -/
def PtpTaken (s : State) (i : Nat) (m : PtpMsg) : Prop :=
  rdPort s R.PORT_CFG_PTP_EN i = 1 ∧ m.transport = rdPort s R.PORT_CFG_PTP_TRANSPORT i ∧ b2n m.p2p = rdPort s R.PORT_CFG_PTP_P2P i ∧
    m.domain = rdPort s R.PORT_CFG_PTP_DOMAIN i ∧ linkUp s i = true

section
variable {s : State} {i : Nat} {m : PtpMsg}

theorem exec_ptpMessage (hi : i < 4) : exec (.ptpMessage i m) s = .next (ptpMessage s i m) := if_neg (Nat.not_le.mpr hi)

/-- The guard of `ptpMessage` lets a taken message by. -/
theorem not_ptpIgnored (h : PtpTaken s i m) : ¬ (rdPort s R.PORT_CFG_PTP_EN i ≠ 1 ∨ m.transport ≠ rdPort s R.PORT_CFG_PTP_TRANSPORT i ∨
    b2n m.p2p ≠ rdPort s R.PORT_CFG_PTP_P2P i ∨ m.domain ≠ rdPort s R.PORT_CFG_PTP_DOMAIN i ∨ (!linkUp s i) = true) := by
  obtain ⟨hen, htransport, hp2p, hdomain, hup⟩ := h
  simp [hen, htransport, hp2p, hdomain, hup]

theorem ptpMessage_offset {ns : Int} (h : PtpTaken s i m) (hk : m.kind = .offset ns) :
    ptpMessage s i m = if timeIface s = some i then servo s ns else s := by
  rw [ptpMessage, if_neg (not_ptpIgnored h), hk]

theorem ptpMessage_announceLost (h : PtpTaken s i m) (hk : m.kind = .announceLost) :
    ptpMessage s i m = choosePort { s with time := { s.time with masters := mapErase s.time.masters i } } := by
  rw [ptpMessage, if_neg (not_ptpIgnored h), hk]

/-- An Announce replaces no master, the same clock's own, or a worse one. -/
theorem ptpMessage_announce_taken {d : PtpDataset} (h : PtpTaken s i m) (hk : m.kind = .announce d)
    (hbetter : ∀ e, mapGet s.time.masters i = some e → e.identity = d.identity ∨ betterMaster d e = true) :
    ptpMessage s i m = choosePort { s with time := { s.time with masters := mapSet s.time.masters i d } } := by
  rw [ptpMessage, if_neg (not_ptpIgnored h), hk]
  cases hm : mapGet s.time.masters i with
  | none => rfl
  | some e => exact if_pos (by simpa using hbetter e hm)

theorem ptpMessage_announce_kept {d e : PtpDataset} (h : PtpTaken s i m) (hk : m.kind = .announce d) (hm : mapGet s.time.masters i = some e)
    (hother : e.identity ≠ d.identity) (hworse : betterMaster d e = false) : ptpMessage s i m = s := by
  rw [ptpMessage, if_neg (not_ptpIgnored h), hk]
  simp [hm, hother, hworse]

/-- With PPS as the source, an edge feeds the servo; the first after a write of `STK_TIME_SET` with the seconds written. -/
theorem ppsEdge_source (ns : Int) (hsrc : rdF s R.STK_TIME_CFG_SRC = 4) :
    ppsEdge s ns = if s.time.ppsSet then servo { s with time := { s.time with ppsSet := false } }
      (((((s.time.now + 500000000) / 1000000000 : Nat) : Int) - (rdWord s .stk 0 0 0x128 : Nat)) * 1000000000 + ns) else servo s ns :=
  if_neg (not_not_intro hsrc)

end

/-- Settles O47: PTP messages, edges of PPS, holdover and the pulse out. -/
theorem timeSources : Obligations.TimeSources := by
  intro s
  refine ⟨fun i m hi hen htransport hp2p hdomain hup => ?_, fun ns hsrc => ⟨fun hset => ?_, fun hset => ?_⟩, fun hsrc hlock => ?_,
    fun hmode hdrive hdue => ?_, fun hmode => ?_⟩
  · have htaken : PtpTaken s i m := ⟨hen, htransport, hp2p, hdomain, hup⟩
    rw [exec_ptpMessage hi]
    refine ⟨fun ns hk hsel => ?_, fun ns hk hsel => ?_, fun d hk => ⟨fun hbetter => ?_, fun e hm hother hworse => ?_⟩, fun hk => ?_⟩
    · rw [ptpMessage_offset htaken hk, if_pos hsel]
    · rw [ptpMessage_offset htaken hk, if_neg hsel]
    · rw [ptpMessage_announce_taken htaken hk hbetter]
    · rw [ptpMessage_announce_kept htaken hk hm hother hworse]
    · rw [ptpMessage_announceLost htaken hk]
  · exact congrArg Outcome.next ((ppsEdge_source ns hsrc).trans (if_neg (by simp [hset])))
  · exact congrArg Outcome.next ((ppsEdge_source ns hsrc).trans (if_pos hset))
  · exact congrArg Outcome.next (if_neg (not_or.mpr ⟨hsrc, hlock⟩))
  · show execPpsOutPulse s = _
    simp [execPpsOutPulse, hmode, hdrive, hdue]
  · show execPpsOutPulse s = _
    simp [execPpsOutPulse, hmode]

/-! ### Idle sessions (03 R37) -/

/-- Settles O21: an ACTIVE session whose idle count reaches the limit, and the limit 0. -/
theorem idleSessionWaits : Obligations.IdleSessionWaits := by
  intro s sid x hx hactive n
  refine ⟨fun hn hidle => ?_, fun hn => ?_⟩
  · have hdue : (x.d.st == .active && n != 0 && decide (n ≤ x.d.idle)) = true := by simp [hactive, hn, hidle]
    refine ⟨congrArg Outcome.next ?_, ?_⟩
    · simp only [hx]
      exact if_pos hdue
    · show commitIdle s sid = _
      rw [commitIdle, hx]
      exact if_pos hdue
  · refine congrArg Outcome.next ?_
    simp only [hx]
    exact if_neg (by simp [show rdF s R.SES_CFG_IDLE_STROKES = 0 from hn])

end Sys2Proof.Machine
end

section
/-! PROOFS. Session commands: those that name no live session, those that fail a check (03 R41, R44, R496), and those that stage their commit
when they bind (03 R40, R42). -/

open Host
namespace Sys2Proof.Machine

/-! ### A session command that comes -/

/-- The rows of session commands hand their command to its session's order. -/
theorem exec_sesCmd {i : Instr} {c : Cmd} {data : List Byte} (s : State) (h : sesCmd i = some (c, data)) :
    exec i s = .next (submit s c data startSes) := by
  cases i <;> cases h <;> rfl

/-- A command that names no live session is refused (03 R44). -/
theorem joinOrder_gone {s : State} {c : Cmd} {data : List Byte} (h : liveSes s (cmdSid c) (cmdGen c) = none) :
    joinOrder s c data = refuseSes s c E_SES_GONE := by
  simp only [joinOrder, joinCode, h]

/-- A command at the head that fails a check is refused, and nothing else waits in its session's order. -/
theorem joinOrder_refused {s : State} {c : Cmd} {data : List Byte} {x : Ses} {e : Nat} (h : AtHead s c data x)
    (hcode : headCode (joinQueue s c) x c data (waitOf s c data).qpErr = some e) :
    joinOrder (joinQueue s c) c data = refuseSes (joinQueue s c) c e := by
  have hrefused : bindHead (joinQueue s c) (cmdSid c) x (waitOf s c data) = refuseSes (joinQueue s c) c e := by
    simp only [bindHead, waitOf_cmd, waitOf_data, hcode]
  rw [joinOrder_atHead s c data x h, hrefused]
  refine serveGo_of_empty _ _ _ fun y hy => ?_
  rw [sesOf, (refuseSes_quiet _ c e).ses] at hy
  cases hy.symm.trans h.live
  exact h.first

/-! ### The checks of 03 R496 -/

section
variable {s : State} {x : Ses} {c : Cmd} {data : List Byte} {qp : Option Nat}

/-- A command of a domain outside the session's mask is denied before every other check. -/
theorem headCode_denied (hgen : x.d.gen = cmdGen c) (hdom : bitOf x.d.domains c.dom = false) (hop : c.opcode ≠ 0x58) :
    headCode s x c data qp = some E_SES_DENIED := by
  simp [headCode, hgen, hop, hdom, codeIf, firstCode]

/-- With the session's own checks met, a command that names another epoch is refused for it. -/
theorem headCode_epoch (hgen : x.d.gen = cmdGen c) (hdom : bitOf x.d.domains c.dom = true) (hwhole : x.d.damaged = false)
    (hstate : stateOk x c = true) (hfork : c.opcode ≠ 0x16) (hmove : c.opcode ≠ 0x20) (hcap : c.opcode ≠ 0x58)
    (hnamed : c.w3.toNat ≠ 2 ^ 64 - 1) (hother : c.w3.toNat ≠ x.d.epoch) :
    headCode s x c data qp = some (if c.w3.toNat < x.d.epoch then E_EPOCH_STALE else E_EPOCH_AHEAD) := by
  have hepoch : epochCode x c = some (if c.w3.toNat < x.d.epoch then E_EPOCH_STALE else E_EPOCH_AHEAD) := by
    rw [epochCode, if_neg (by simp only [not_or]; exact ⟨hmove, hcap, hnamed, hother⟩)]
    split <;> rfl
  simp [headCode, hgen, hcap, hdom, hwhole, hstate, hfork, hepoch, codeIf, firstCode]

end

/-- Settles O11: no live session, and a domain outside the mask. -/
theorem sessionNamed : Obligations.SessionNamed := by
  intro i c data s hrow htaken
  rw [exec_sesCmd s hrow]
  exact ⟨fun hgone => next_submit htaken (joinOrder_gone hgone),
    fun x hhead hdom hop => next_submit htaken (joinOrder_refused hhead (headCode_denied hhead.gen hdom hop))⟩

/-- Settles O12: a check that fails, and the epoch check in particular. -/
theorem sessionChecked : Obligations.SessionChecked := by
  intro i c data s x hrow hhead
  rw [exec_sesCmd s hrow]
  exact ⟨fun e hcode => next_submit hhead.taken (joinOrder_refused hhead hcode),
    fun hdom hwhole hstate hfork hmove hcap hnamed hother => next_submit hhead.taken
      (joinOrder_refused hhead (headCode_epoch hhead.gen hdom hwhole hstate hfork hmove hcap hnamed hother))⟩

/-! ### Commands whose whole effect stands in one finish -/

/-- A command that binds and is admitted as a commit holds the head until the finish. -/
theorem submit_holds {s u : State} {c : Cmd} {data : List Byte} {x : Ses} {e : Nat} {k : Commit} (h : Binds s c data x) (hop : c.opcode ≠ 0x15)
    (hadmit : ∀ head, admitTurn (bindState s c x) (cmdSid c) (bindSes c x) (waitOf s c data) 0 head =
      holdCommit u (cmdSid c) e (waitOf s c data) k) :
    submit s c data startSes = holdCommit u (cmdSid c) e (waitOf s c data) k := by
  rw [submit_binds h (by simp [revivesMoving, hop]), hadmit, serveGo_holdCommit]

section
variable {s : State} {sid : Nat} {x : Ses} {w : Wait} {head : Nat}

/-- What is needed of a command to be admitted: its charge fits, and it need not wait for the Dirty Budget (05 R98, R100). -/
def Admits (s : State) (x : Ses) (w : Wait) : Prop :=
  chargeFits s x.d.tenant (chargeOf s x w.cmd w.data) = none ∧ commitHeld s x w.cmd = false

theorem Binds.admits {c : Cmd} {data : List Byte} (h : Binds s c data x) : Admits (bindState s c x) (bindSes c x) (waitOf s c data) := by
  refine ⟨?_, h.dirty⟩
  rw [bindSes_tenant]
  exact h.fits

variable (h : Admits s x w)
include h

theorem admitTurn_importCommit (hop : w.cmd.opcode = 0x11) (hk : w.cmd.f4 0 2 = 1) : admitTurn s sid x w 0 head =
    holdCommit (dirtyReserve s (x.win.elim 0 (fun v => mayDirty s (commitDirty s x v)))) sid x.d.epoch w (.importCommit sid w.cmd) := by
  obtain ⟨hfits, hdirty⟩ := h
  simp only [admitTurn, hfits, hdirty, hop, hk]
  cases x.win <;> rfl

theorem admitTurn_importAbort (hop : w.cmd.opcode = 0x11) (hk : w.cmd.f4 0 2 = 2) :
    admitTurn s sid x w 0 head = holdCommit s sid x.d.epoch w (.importAbort sid (some w.cmd)) := by
  obtain ⟨hfits, hdirty⟩ := h
  simp [admitTurn, hfits, hdirty, hop, hk]

theorem admitTurn_pin (hop : w.cmd.opcode = 0x18) : admitTurn s sid x w 0 head = holdCommit s sid x.d.epoch w (.pin sid w.cmd) := by
  obtain ⟨hfits, hdirty⟩ := h
  simp [admitTurn, hfits, hdirty, hop]

theorem admitTurn_release (hop : w.cmd.opcode = 0x19) : admitTurn s sid x w 0 head = holdCommit s sid x.d.epoch w (.release sid w.cmd) := by
  obtain ⟨hfits, hdirty⟩ := h
  simp [admitTurn, hfits, hdirty, hop]

theorem admitTurn_streamSession (hop : w.cmd.opcode = 0x33) :
    admitTurn s sid x w 0 head = holdCommit s sid x.d.epoch w (.streamSession sid w.cmd w.data) := by
  obtain ⟨hfits, hdirty⟩ := h
  simp [admitTurn, hfits, hdirty, hop]

theorem admitTurn_join (hop : w.cmd.opcode = 0x49) :
    admitTurn s sid x w 0 head = holdCommit s sid x.d.epoch w (.join sid (w.cmd.f4 0 16) w.cmd) := by
  obtain ⟨hfits, hdirty⟩ := h
  simp [admitTurn, hfits, hdirty, hop]

end

/-- Settles O15: each command holds the head at the session's epoch with its own commit. -/
theorem sessionCommitsStaged : Obligations.SessionCommitsStaged := by
  intro s c data x h j staged
  have hadmits := h.admits
  have hstaged {u : State} {k : Commit} (hop : c.opcode ≠ 0x15) (hadmit : ∀ head, admitTurn j (cmdSid c) (bindSes c x) (waitOf s c data) 0 head =
      holdCommit u (cmdSid c) (bindSes c x).d.epoch (waitOf s c data) k) :
      Outcome.next (φ := Fault) (ρ := Refusal) (submit s c data startSes) = staged u k := by
    rw [submit_holds h hop hadmit, bindSes_epoch]
    rfl
  refine ⟨fun hop hk hd => ?_, fun hop hk hd => ?_, fun hop hd => ?_, fun hop hd => ?_, fun hop hd => ?_, fun hop _ => ?_⟩
  · subst hd
    have hstays : bindSes c x = x := bindSes_of_stays (by simp [cancelsPark, hop])
    rw [hstays] at hadmits hstaged
    exact hstaged (by simp [hop]) fun head => admitTurn_importCommit hadmits hop hk
  · subst hd
    exact hstaged (by simp [hop]) fun head => admitTurn_importAbort hadmits hop hk
  · subst hd
    exact hstaged (by simp [hop]) fun head => admitTurn_pin hadmits hop
  · subst hd
    exact hstaged (by simp [hop]) fun head => admitTurn_release hadmits hop
  · subst hd
    exact hstaged (by simp [hop]) fun head => admitTurn_join hadmits hop
  · exact hstaged (by simp [hop]) fun head => admitTurn_streamSession hadmits hop

end Sys2Proof.Machine
end

section
/-! PROOFS. STEP and APPEND that bind (03 R40, R52): the session's order, epoch and positions stand through a park that stops and the pages that the
command takes. -/

open Host
namespace Sys2Proof.Machine

/-! ### What stands of a session -/

/-- Session `sid` stands with the order, the epoch and the positions of `x`. -/
def StandsAs (s : State) (sid : Nat) (x : Ses) : Prop :=
  ∃ y, sesOf s sid = some y ∧ y.order = x.order ∧ y.d.epoch = x.d.epoch ∧ y.d.positions = x.d.positions

section
variable {s t : State} {sid : Nat} {x : Ses}

theorem StandsAs.of_ses (h : StandsAs s sid x) (hses : t.ses = s.ses) : StandsAs t sid x := by
  unfold StandsAs sesOf at *
  rwa [hses]

theorem StandsAs.stage {k : Commit} (h : StandsAs s sid x) : StandsAs (stage s k) sid x := h

theorem StandsAs.updSes {f : Ses → Ses} (h : StandsAs s sid x)
    (hf : ∀ y, (f y).order = y.order ∧ (f y).d.epoch = y.d.epoch ∧ (f y).d.positions = y.d.positions) : StandsAs (updSes s sid f) sid x := by
  obtain ⟨y, hy, horder, hepoch, hpos⟩ := h
  obtain ⟨forder, fepoch, fpos⟩ := hf y
  exact ⟨f y, sesOf_updSes_same _ _ _ _ hy, forder.trans horder, fepoch.trans hepoch, fpos.trans hpos⟩

end

/-! ### The operations on the tiers -/

section
variable {s : State}

theorem setTier_tierOnly (g : TierState) : TierOnly s { s with tier := g } := rfl
theorem dropCharges_tierOnly (owner : Nat) : TierOnly s (dropCharges s owner) := rfl
theorem useCharge_tierOnly (owner tier n : Nat) : TierOnly s (useCharge s owner tier n) := rfl

theorem updPtes_tierOnly (ps : List Nat) (f : Pte → Pte) : TierOnly s (updPtes s ps f) :=
  TierOnly.foldl (fun s p => updPte s p f) (fun _ _ => rfl) _ _

theorem updOp_tierOnly (id : Nat) (f : OpEnt → OpEnt) : TierOnly s (updOp s id f) := rfl

theorem endOp_tierOnly (id code : Nat) : TierOnly s (endOp s id code) := by
  unfold endOp
  dsimp only
  generalize hu : updOp s id _ = u
  have hended : TierOnly s u := hu ▸ updOp_tierOnly id _
  split
  next => exact hended
  next =>
    split
    · exact hended.trans ((setTier_tierOnly _).trans (takeOp_tierOnly _ _))
    · exact hended

/-- Pages that a session's spans are given change the tiers alone. -/
theorem allocPagesAway_tierOnly {n tenant cls mask base : Nat} {committed : Bool} {avoid : List Nat} {t : State}
    (h : allocPagesAway s n tenant cls mask committed avoid = some (base, t)) : TierOnly s t := by
  unfold allocPagesAway at h
  split at h
  next => cases h
  next =>
    cases h
    exact TierOnly.foldl _ (fun _ _ => newPage_tierOnly _ _ _ _ _ _) _ _

theorem placeIndex_tierOnly {tenant : Nat} {ps : List Nat} {t : State} (h : placeIndex s tenant ps = some t) : TierOnly s t := by
  unfold placeIndex at h
  split at h
  next => cases h
  next =>
    cases h
    exact TierOnly.foldl _ (fun _ _ => newPage_tierOnly _ _ _ _ _ _) _ _

theorem textTaken_tierOnly (x : Ses) (c : Cmd) (data : List Byte) : TierOnly s (textTaken s x c data) := by
  unfold textTaken
  split
  · exact TierOnly.refl s
  · split
    · exact TierOnly.refl s
    · exact ((cnt_only _ _ _).trans (cnt_only _ _ _)).tierOnly

/-- One entry of a copy-up, from tier `src`, with its advance charge (05 R94, R97). -/
def bringUp (s : State) (tenant src : Nat) (ps : List Nat) : State :=
  if ps.isEmpty then s
  else
    let (op, s) := takeOp s {
      kind := 4, cls := 1, src := src, dst := 0, tenant := tenant, object := ps.headD 0 * 65536, isSes := false, start := 0, todo := ps }
    addCharge s { owner := 2 ^ 24 + op, tenant := tenant, tier := 0, pages := ps.length }

theorem copyUp_eq (s : State) (tenant : Nat) (ps : List Nat) : copyUp s tenant ps = if ps.isEmpty then s
    else bringUp (bringUp s tenant 1 (ps.filter (fun p => !lazyPage s p))) tenant 2 (ps.filter (lazyPage s)) := rfl

theorem bringUp_tierOnly (tenant src : Nat) (ps : List Nat) : TierOnly s (bringUp s tenant src ps) := by
  unfold bringUp
  split
  · exact TierOnly.refl s
  · exact (takeOp_tierOnly s _).trans (addCharge_tierOnly _ _)

theorem copyUp_tierOnly (tenant : Nat) (ps : List Nat) : TierOnly s (copyUp s tenant ps) := by
  rw [copyUp_eq]
  split
  · exact TierOnly.refl s
  · exact (bringUp_tierOnly tenant 1 _).trans (bringUp_tierOnly tenant 2 _)

end

/-! ### A command that computes -/

theorem cancelPark_standsAs {s : State} {sid : Nat} {x y : Ses} (h : StandsAs s sid y) : StandsAs (cancelPark s sid x) sid y := by
  unfold cancelPark
  split
  next op c hop hcmd =>
    have hended (ps : List Nat) (f : Pte → Pte) : TierOnly s (dropCharges (endOp (updPtes s ps f) op E_SES_CANCELLED) (2 ^ 24 + op)) :=
      ((updPtes_tierOnly ps f).trans (endOp_tierOnly op E_SES_CANCELLED)).trans (dropCharges_tierOnly _)
    exact StandsAs.stage (StandsAs.updSes (StandsAs.of_ses h (hended _ _).ses) fun _ => ⟨rfl, rfl, rfl⟩)
  next => exact h

theorem addPages_standsAs {s t : State} {sid : Nat} {x y : Ses} {keys : List Nat} (h : StandsAs s sid y) (ht : addPages s sid x keys = some t) :
    StandsAs t sid y := by
  unfold addPages at ht
  split at ht
  next => cases ht; exact h
  next =>
    split at ht
    next => cases ht
    next base u halloc =>
      cases ht
      refine StandsAs.updSes (StandsAs.of_ses h (TierOnly.ses (TierOnly.trans (allocPagesAway_tierOnly halloc) ?_))) fun _ => ⟨rfl, rfl, rfl⟩
      split
      · exact updPtes_tierOnly _ _
      · exact TierOnly.refl u

/-- The tokens that a STEP or an APPEND takes. -/
def computeToks (s : State) (x : Ses) (c : Cmd) (data : List Byte) : List Nat :=
  if c.opcode = 0x13 then c.f4 0 32 :: stepDrafts c else appendToks s x c data

/-- What an admitted STEP or APPEND leaves of its session. -/
def Bound (t : State) (sid : Nat) (x : Ses) (c : Cmd) (toks : List Nat) : Prop :=
  ∃ y r, sesOf t sid = some y ∧ y.head = some r ∧ r.cmd = c ∧ r.ph = .ready ∧ r.epoch = x.d.epoch ∧ r.toks = toks ∧ y.order = x.order ∧
    y.d.epoch = x.d.epoch ∧ y.d.positions = x.d.positions ∧ y.d.idle = 0

theorem bound_of_standsAs {t : State} {sid crew : Nat} {x : Ses} {r : Run} (h : StandsAs t sid x) (hph : r.ph = .ready) (hepoch : r.epoch = x.d.epoch) :
    Bound (updSes t sid (fun y => { y with head := some r, d := { y.d with crew := crew, idle := 0 } })) sid x r.cmd r.toks := by
  obtain ⟨y, hy, horder, hyepoch, hpos⟩ := h
  exact ⟨_, r, sesOf_updSes_same _ _ _ _ hy, rfl, rfl, hph, hepoch, rfl, horder, hyepoch, hpos, rfl⟩

theorem goCompute_bound {s t : State} {sid : Nat} {x : Ses} {w : Wait} (h : StandsAs s sid x) (ht : goCompute s sid x w = some t) :
    Bound t sid x w.cmd (computeToks s x w.cmd w.data) := by
  unfold goCompute at ht
  dsimp only at ht
  split at ht
  next => cases ht
  next u hu =>
    obtain ⟨v, hv, hplaced⟩ := Option.bind_eq_some_iff.mp hu
    have hbrought (n : Nat) (ups : List Nat) : TierOnly u (copyUp (useCharge (textTaken u x w.cmd w.data) sid 0 n) x.d.tenant ups) :=
      ((textTaken_tierOnly x w.cmd w.data).trans (useCharge_tierOnly _ _ _)).trans (copyUp_tierOnly _ _)
    cases ht
    exact bound_of_standsAs (StandsAs.of_ses (addPages_standsAs h hv) ((placeIndex_tierOnly hplaced).trans (hbrought _ _)).ses) rfl rfl

/-- An admitted STEP or APPEND takes its pages and starts. -/
theorem admitTurn_compute {s t : State} {sid : Nat} {x : Ses} {w : Wait} (head : Nat) (h : Admits s x w) (hop : w.cmd.opcode = 0x12 ∨ w.cmd.opcode = 0x13)
    (ht : goCompute s sid x w = some t) : admitTurn s sid x w 0 head = t := by
  obtain ⟨hfits, hdirty⟩ := h
  rcases hop with hop | hop <;> simp [admitTurn, hfits, hdirty, hop, ht]

/-- The session that a command finds when it binds. -/
theorem bindState_standsAs {s : State} {c : Cmd} {data : List Byte} {x : Ses} (h : AtHead s c data x) :
    StandsAs (bindState s c x) (cmdSid c) (bindSes c x) := by
  have hlive : StandsAs (joinQueue s c) (cmdSid c) (bindSes c x) := ⟨x, h.live, by simp, by simp, by simp⟩
  unfold bindState
  split
  · exact cancelPark_standsAs hlive
  · exact hlive

theorem submit_compute {s : State} {c : Cmd} {data : List Byte} {x : Ses} (h : Binds s c data x) (hop : c.opcode = 0x12 ∨ c.opcode = 0x13)
    (hgo : (goCompute (bindState s c x) (cmdSid c) (bindSes c x) (waitOf s c data)).isSome) :
    Bound (submit s c data startSes) (cmdSid c) (bindSes c x) c (computeToks (bindState s c x) (bindSes c x) c data) := by
  obtain ⟨t, ht⟩ := Option.isSome_iff_exists.mp hgo
  have hbound := goCompute_bound (bindState_standsAs h.toAtHead) ht
  have hrevive : revivesMoving c x = false := by rcases hop with hop | hop <;> simp [revivesMoving, hop]
  have hheld : ∀ y, sesOf t (cmdSid c) = some y → y.head.isSome = true := by
    obtain ⟨y, r, hy, hr, -⟩ := hbound
    intro z hz
    cases hy.symm.trans hz
    rw [hr]
    rfl
  rw [submit_binds h hrevive, admitTurn_compute _ h.admits hop ht, serveGo_of_head _ _ _ hheld]
  exact hbound

/-- Settles O16: the two commands that compute, each with its tokens. -/
theorem computeBinds : Obligations.ComputeBinds := by
  intro s c data x h hgo bound
  have hfree : (bindSes c x).order = [] := (bindSes_order c x).trans h.first
  have hrow {toks : List Nat} (hop : c.opcode = 0x12 ∨ c.opcode = 0x13)
      (htoks : computeToks (bindState s c x) (bindSes c x) c data = toks) : bound (.next (submit s c data startSes)) toks := by
    obtain ⟨y, r, hy, hr, hcmd, hph, hepoch, hts, horder, hyepoch, hpos, hidle⟩ := submit_compute h hop hgo
    exact ⟨_, y, r, rfl, hy, hr, hcmd, hph, hepoch.trans (bindSes_epoch c x), hts.trans htoks, horder.trans hfree,
      hyepoch.trans (bindSes_epoch c x), hpos.trans (bindSes_positions c x), hidle⟩
  refine ⟨fun hop hd => ?_, fun hop => ?_⟩
  · subst hd
    exact hrow (.inr hop) (if_pos hop)
  · exact hrow (.inl hop) (if_neg (by simp [hop]))

end Sys2Proof.Machine
end

section
/-! PROOFS. PARK and REVIVE that bind (03 R53 to R55). -/

open Host
namespace Sys2Proof.Machine

theorem opOf_addCharge (s : State) (x : Charge) (id : Nat) : opOf (addCharge s x) id = opOf s id := by
  unfold addCharge
  split <;> rfl

theorem TierOnly.sesOf {s t : State} (h : TierOnly s t) (sid : Nat) : sesOf t sid = sesOf s sid :=
  congrArg (fun g : SesState => mapGet g.tab sid) h.ses

/-- A command that cancels no park binds where its session stands. -/
theorem Binds.admits_stays {s : State} {c : Cmd} {data : List Byte} {x : Ses} (h : Binds s c data x) (hstays : cancelsPark x c = false) :
    Admits (joinQueue s c) x (waitOf s c data) := by
  have hadmits := h.admits
  rwa [bindState_of_stays hstays, bindSes_of_stays hstays] at hadmits

/-- What such a command's row does: it is admitted, and then the session's order goes on. -/
theorem submit_binds_stays {s : State} {c : Cmd} {data : List Byte} {x : Ses} (h : Binds s c data x) (hstays : cancelsPark x c = false)
    (hrevive : revivesMoving c x = false) : submit s c data startSes =
      serveGo (cmdSid c) 31 (admitTurn (joinQueue s c) (cmdSid c) x (waitOf s c data) 0 (catchStroke (joinQueue s c))) := by
  rw [submit_binds h hrevive, bindState_of_stays hstays, bindSes_of_stays hstays]

section
variable {s : State} {sid : Nat} {x : Ses} {w : Wait} (head : Nat) (h : Admits s x w)
include h

theorem admitTurn_park (hop : w.cmd.opcode = 0x14) : admitTurn s sid x w 0 head = goPark s sid x w := by
  obtain ⟨hfits, hdirty⟩ := h
  simp [admitTurn, hfits, hdirty, hop]

theorem admitTurn_revive (hop : w.cmd.opcode = 0x15) : admitTurn s sid x w 0 head = goRevive s sid x w := by
  obtain ⟨hfits, hdirty⟩ := h
  simp [admitTurn, hfits, hdirty, hop]

end

/-! ### PARK -/

section
variable (s : State) (sid : Nat) (x : Ses) (w : Wait)

/-- The Mover entry of a park copy (03 R53). -/
def parkEntry : OpEnt :=
  { kind := 1, cls := 2, src := 0, dst := 1, tenant := x.d.tenant, object := sesObject sid x.d.gen, isSes := true, start := 0
    todo := x.privPages.filter (fun p => !sealedNow s p && !lazyPage s p) }

/-- The state in which a park has its entry, charged in Tier F. -/
def parkTaken : State :=
  addCharge (takeOp s (parkEntry s sid x)).2
    { owner := 2 ^ 24 + opIndex s, tenant := x.d.tenant, tier := 1, pages := (parkEntry s sid x).todo.length }

theorem goPark_eq : goPark s sid x w = updSes (parkTaken s sid x) sid (fun y => { y with
    d := { y.d with moving := true }, parkOp := some (opIndex s), parkCmd := some w.cmd }) := rfl

theorem parkTaken_tierOnly : TierOnly s (parkTaken s sid x) := (takeOp_tierOnly _ _).trans (addCharge_tierOnly _ _)

variable {s sid x}

theorem sesOf_goPark (h : sesOf s sid = some x) : sesOf (goPark s sid x w) sid =
    some { x with d := { x.d with moving := true }, parkOp := some (opIndex s), parkCmd := some w.cmd } := by
  rw [goPark_eq]
  exact sesOf_updSes_same _ _ _ _ (((parkTaken_tierOnly s sid x).sesOf sid).trans h)

theorem opOf_goPark : opOf (goPark s sid x w) (opIndex s) = some { parkEntry s sid x with start := catchStroke s } := by
  show opOf (parkTaken s sid x) (opIndex s) = _
  rw [parkTaken, opOf_addCharge, opOf_takeOp]

end

/-- A PARK that binds starts its copy, and the order does not wait for it. -/
theorem submit_park {s : State} {c : Cmd} {x : Ses} (h : Binds s c [] x) (hop : c.opcode = 0x14) :
    submit s c [] startSes = goPark (joinQueue s c) (cmdSid c) x (waitOf s c []) := by
  have hstays : cancelsPark x c = false := by simp [cancelsPark, hop]
  rw [submit_binds_stays h hstays (by simp [revivesMoving, hop]), admitTurn_park _ (h.admits_stays hstays) hop]
  refine serveGo_of_empty _ _ _ fun y hy => ?_
  cases (sesOf_goPark (waitOf s c []) (s := joinQueue s c) h.live).symm.trans hy
  exact h.first

/-! ### REVIVE -/

section
variable (s : State) (sid : Nat) (x : Ses) (c : Cmd)

/-- A Mover entry of a revival, for pages of one tier (03 R55). -/
def reviveFrom (kind cls src : Nat) (ps : List Nat) : State :=
  if ps.isEmpty then s
  else (takeOp s { kind := kind, cls := cls, src := src, dst := 0, tenant := x.d.tenant, object := sesObject sid x.d.gen, isSes := true
                   start := 0, todo := ps }).2

/-- The entries that bring one set of pages. -/
def reviveSet (kind cls : Nat) (ps : List Nat) : State :=
  reviveFrom (reviveFrom s sid x kind cls 1 (ps.filter (fun p => !lazyPage s p))) sid x kind cls 2 (ps.filter (lazyPage s))

/-- The state in which a revival has its entries: the required pages, then the trailing ones. -/
def reviveTaken : State :=
  let sets := reviveSets s x c
  let u := addCharge s { owner := sid, tenant := x.d.tenant, tier := 0, pages := sets.1.length + sets.2.length }
  reviveSet (reviveSet u sid x 2 1 sets.1) sid x 3 2 sets.2

theorem reviveFrom_tierOnly (kind cls src : Nat) (ps : List Nat) : TierOnly s (reviveFrom s sid x kind cls src ps) := by
  unfold reviveFrom
  split
  · exact TierOnly.refl s
  · exact takeOp_tierOnly _ _

theorem reviveSet_tierOnly (kind cls : Nat) (ps : List Nat) : TierOnly s (reviveSet s sid x kind cls ps) :=
  (reviveFrom_tierOnly _ _ _ _ _ _ _).trans (reviveFrom_tierOnly _ _ _ _ _ _ _)

theorem reviveTaken_tierOnly : TierOnly s (reviveTaken s sid x c) :=
  (addCharge_tierOnly _ _).trans ((reviveSet_tierOnly _ _ _ _ _ _).trans (reviveSet_tierOnly _ _ _ _ _ _))

theorem goRevive_eq (w : Wait) : goRevive s sid x w = updSes (reviveTaken s sid x w.cmd) sid (fun y => { y with
    d := { y.d with reviving := true }
    required := (reviveSets s x w.cmd).1
    trailSet := (reviveSets s x w.cmd).2
    head := some {
      cmd := w.cmd, data := w.data, ph := .reviving, epoch := x.d.epoch, headStroke := catchStroke (reviveTaken s sid x w.cmd)
      charge := (reviveSets s x w.cmd).1.length, aux := w.cmd.f4 16 16 } }) := rfl

end

/-- What a revival leaves of its session. -/
theorem goRevive_reviving {s : State} {sid : Nat} {x : Ses} (w : Wait) (h : sesOf s sid = some x) :
    ∃ y r, sesOf (goRevive s sid x w) sid = some y ∧ y.d = { x.d with reviving := true } ∧
      y.required = (reviveSets s x w.cmd).1 ∧ y.trailSet = (reviveSets s x w.cmd).2 ∧
      y.head = some r ∧ r.cmd = w.cmd ∧ r.ph = .reviving ∧ r.epoch = x.d.epoch := by
  rw [goRevive_eq]
  exact ⟨_, _, sesOf_updSes_same _ _ _ _ (((reviveTaken_tierOnly s sid x w.cmd).sesOf sid).trans h), rfl, rfl, rfl, rfl, rfl, rfl, rfl⟩

/-- A REVIVE of a session that is not MOVING binds and holds the head. -/
theorem submit_revive {s : State} {c : Cmd} {x : Ses} (h : Binds s c [] x) (hop : c.opcode = 0x15) (hstill : x.d.moving = false) :
    submit s c [] startSes = goRevive (joinQueue s c) (cmdSid c) x (waitOf s c []) := by
  have hstays : cancelsPark x c = false := by simp [cancelsPark, hstill]
  rw [submit_binds_stays h hstays (by simp [revivesMoving, hstill]), admitTurn_revive _ (h.admits_stays hstays) hop]
  obtain ⟨y, r, hy, -, -, -, hr, -⟩ := goRevive_reviving (s := joinQueue s c) (waitOf s c []) h.live
  refine serveGo_of_head _ _ _ fun z hz => ?_
  cases hy.symm.trans hz
  rw [hr]
  rfl

/-- A REVIVE of a MOVING session stops the park at once, and its own commit holds the head (03 R54). -/
theorem submit_reviveMoving {s : State} {c : Cmd} {x : Ses} (h : AtHead s c [] x) (hcode : headCode (joinQueue s c) x c [] none = none)
    (hop : c.opcode = 0x15) (hmoving : x.d.moving = true) : submit s c [] startSes =
      holdCommit (cancelPark (joinQueue s c) (cmdSid c) x) (cmdSid c) x.d.epoch (waitOf s c []) (.reviveMoving (cmdSid c) c) := by
  have hcancels : cancelsPark x c = true := by simp [cancelsPark, hmoving, hop]
  have hqp : (waitOf s c []).qpErr = none := by simp [waitOf, sesQp, hop]
  have hbind : bindHead (joinQueue s c) (cmdSid c) x (waitOf s c []) =
      holdCommit (cancelPark (joinQueue s c) (cmdSid c) x) (cmdSid c) x.d.epoch (waitOf s c []) (.reviveMoving (cmdSid c) c) := by
    simp [bindHead, hqp, hcode, bindTurn, hcancels, hop]
  rw [submit_taken s c [] startSes h.taken, startSes, joinOrder_atHead s c [] x h, hbind, serveGo_holdCommit]

/-- Settles O17: a PARK, a REVIVE of a PARKED session, and one of a MOVING session. -/
theorem parkReviveBind : Obligations.ParkReviveBind := by
  refine ⟨fun s c x h hop => ?_, fun s c x h hop hstill => ?_, fun s c x h hcode hop hmoving => ?_⟩
  · exact ⟨_, congrArg Outcome.next (submit_park h hop), sesOf_goPark (s := joinQueue s c) _ h.live, _,
      opOf_goPark (s := joinQueue s c) _, rfl, rfl, rfl⟩
  · obtain ⟨y, r, hy, hrest⟩ := goRevive_reviving (s := joinQueue s c) (waitOf s c []) h.live
    exact ⟨_, y, r, congrArg Outcome.next (submit_revive h hop hstill), hy, hrest⟩
  · exact congrArg Outcome.next (submit_reviveMoving h hcode hop hmoving)

end Sys2Proof.Machine
end

section
/-! PROOFS. FORK and EXPORT that bind (03 R40, R56, R57; 04 R77; 17 R381), and the Session ID that is free. -/

open Host
namespace Sys2Proof.Machine

/-! ### The free Session ID -/

/-- Whether a set kept as a rising list holds a number, read as `mapGet` reads a table. -/
def setHas : List Nat → Nat → Bool
  | [], _ => false
  | k :: m, i => if i = k then true else if i < k then false else setHas m i

theorem mapHas_eq_setHas {α : Type} (m : Map α) (i : Nat) : mapHas m i = setHas (mapKeys m) i := by
  induction m with
  | nil => rfl
  | cons e m ih =>
    obtain ⟨k, v⟩ := e
    simp only [mapHas, mapGet, mapKeys, List.map_cons, setHas] at *
    split
    · rfl
    · split
      · rfl
      · exact ih

/-- A number added takes none out, whatever the list. -/
theorem setHas_setAdd {m : List Nat} {i : Nat} (j : Nat) (h : setHas m i = true) : setHas (setAdd m j) i = true := by
  induction m with
  | nil => cases h
  | cons k m ih =>
    unfold setAdd
    split
    next => exact h
    next =>
      split
      next hjk =>
        rw [setHas]
        split
        · rfl
        · rw [if_neg, h]
          intro hij
          simp [setHas, Nat.ne_of_lt (hij.trans hjk), hij.trans hjk] at h
      next =>
        rw [setHas] at h ⊢
        split
        · rfl
        next hik =>
          rw [if_neg hik] at h
          split
          next hlt => simp [hlt] at h
          next hlt => exact ih (by rwa [if_neg hlt] at h)

theorem setHas_foldl_setAdd {m : List Nat} {i : Nat} (js : List Nat) (h : setHas m i = true) : setHas (js.foldl setAdd m) i = true := by
  induction js generalizing m with
  | nil => exact h
  | cons j js ih => exact ih (setHas_setAdd j h)

theorem mem_of_setHas {m : List Nat} {i : Nat} (h : setHas m i = true) : i ∈ m := by
  induction m with
  | nil => cases h
  | cons k m ih =>
    rw [setHas] at h
    split at h
    next hik => exact List.mem_cons.mpr (.inl hik)
    next =>
      split at h
      · cases h
      · exact List.mem_cons_of_mem _ (ih h)

theorem le_setFreeFrom (m : List Nat) (i : Nat) : i ≤ setFreeFrom m i := by
  induction m generalizing i with
  | nil => exact Nat.le_refl i
  | cons k m ih =>
    unfold setFreeFrom
    split
    · exact ih i
    · split
      · exact (Nat.le_succ i).trans (ih (i + 1))
      · exact Nat.le_refl i

/-- A key that a number passes is not looked at. -/
theorem setHas_cons_of_lt {m : List Nat} {k i : Nat} (h : k < i) : setHas (k :: m) i = setHas m i := by
  rw [setHas, if_neg (Nat.ne_of_gt h), if_neg (Nat.lt_asymm h)]

theorem setHas_setFreeFrom (m : List Nat) (i : Nat) : setHas m (setFreeFrom m i) = false := by
  induction m generalizing i with
  | nil => rfl
  | cons k m ih =>
    unfold setFreeFrom
    split
    next hk => rw [setHas_cons_of_lt (Nat.lt_of_lt_of_le hk (le_setFreeFrom m i)), ih]
    next hk =>
      split
      next heq => rw [setHas_cons_of_lt (Nat.lt_of_lt_of_le (heq ▸ Nat.lt_succ_self i) (le_setFreeFrom m (i + 1))), ih]
      next hne =>
        have hlt : i < k := by omega
        rw [setHas, if_neg (Nat.ne_of_lt hlt), if_pos hlt]

/-- The free Session ID is held by no session (03 R36). -/
theorem sesOf_freeSid {s : State} {sid : Nat} (h : freeSid s = some sid) : sesOf s sid = none := by
  have hfree : setHas ((stagedSids s).foldl setAdd (mapKeys s.ses.tab)) sid = false := by
    unfold freeSid at h
    dsimp only at h
    split at h
    next => cases h; exact setHas_setFreeFrom _ 1
    next =>
      split at h
      next => cases h
      next hzero =>
        cases h
        exact Bool.eq_false_iff.mpr fun hin => hzero (List.contains_iff_mem.mpr (mem_of_setHas hin))
  refine Option.not_isSome_iff_eq_none.mp fun hheld => ?_
  have hkeys : setHas (mapKeys s.ses.tab) sid = true := (mapHas_eq_setHas _ _).symm.trans hheld
  rw [setHas_foldl_setAdd _ hkeys] at hfree
  cases hfree

/-! ### FORK -/

theorem addCharge_charges (s : State) (x : Charge) : (addCharge s x).tier.charges = s.tier.charges ++ if x.pages = 0 then [] else [x] := by
  unfold addCharge
  split
  · exact (List.append_nil _).symm
  · rfl

section
variable {s : State} {sid : Nat} {x : Ses} {w : Wait} (head : Nat) (h : Admits s x w)
include h

theorem admitTurn_fork {child : Nat} (hop : w.cmd.opcode = 0x16) (hchild : freeSid s = some child)
    (hroom : dirtyFits s (chargeOf s x w.cmd w.data).1 = true) : admitTurn s sid x w 0 head =
      stage (addCharge (dirtyReserve s (chargeOf s x w.cmd w.data).1)
        { owner := child, tenant := x.d.tenant, tier := 0, pages := (chargeOf s x w.cmd w.data).1 })
        (.fork sid child (newListAt s x.sumPages) x w.cmd) := by
  obtain ⟨hfits, hdirty⟩ := h
  simp [admitTurn, hfits, hdirty, hop, hchild, hroom]

theorem admitTurn_export (hop : w.cmd.opcode = 0x17) : admitTurn s sid x w 0 head = goExport s sid x w := by
  obtain ⟨hfits, hdirty⟩ := h
  simp [admitTurn, hfits, hdirty, hop]

end

/-- A command that binds, changes no session, and is not served further. -/
theorem submit_binds_free {s t : State} {c : Cmd} {x : Ses} (h : Binds s c [] x) (hstays : cancelsPark x c = false) (hop : c.opcode ≠ 0x15)
    (hadmit : ∀ head, admitTurn (joinQueue s c) (cmdSid c) x (waitOf s c []) 0 head = t) (hses : t.ses = s.ses) :
    submit s c [] startSes = t := by
  rw [submit_binds_stays h hstays (by simp [revivesMoving, hop]), hadmit]
  refine serveGo_of_empty _ _ _ fun y hy => ?_
  rw [sesOf, hses] at hy
  cases hy.symm.trans h.live
  exact h.first

/-! ### EXPORT -/

section
variable (s : State) (sid : Nat) (x : Ses) (w : Wait)

/-- The Mover entry of an EXPORT. -/
def exportEntry : OpEnt :=
  { kind := 0xA, cls := 2, src := 0, dst := 2, tenant := x.d.tenant, object := sesObject sid x.d.gen, isSes := true, start := 0
    cmd := some w.cmd }

/-- The job that captures an exported session (17 R381). -/
def exportJob : CkpJob :=
  { tenant := x.d.tenant, cmd := some w.cmd, isExport := true, toHost := w.cmd.f4 0 2 = 0, full := true
    recs := [captureRec (takeOp s (exportEntry sid x w)).2 sid x true], op := some (opIndex s) }

theorem goExport_eq : goExport s sid x w = addJob (takeOp s (exportEntry sid x w)).2 (exportJob s sid x w) := rfl

theorem TierOnly.ckp {s t : State} (h : TierOnly s t) : t.ckp = s.ckp := by rw [h]

theorem goExport_ckp : (goExport s sid x w).ckp =
    { s.ckp with jobs := mapSet s.ckp.jobs s.ckp.nextJob (exportJob s sid x w), nextJob := s.ckp.nextJob + 1 } :=
  congrArg (fun k : CkpState => { k with jobs := mapSet k.jobs k.nextJob (exportJob s sid x w), nextJob := k.nextJob + 1 })
    (takeOp_tierOnly s (exportEntry sid x w)).ckp

theorem goExport_ses : (goExport s sid x w).ses = s.ses := takeOp_ses s (exportEntry sid x w)

end

theorem TierOnly.stk {s t : State} (h : TierOnly s t) : t.stk = s.stk := by rw [h]

/-- Settles O18: a FORK stages its child, and an EXPORT captures its session in a job. -/
theorem forkExportBind : Obligations.ForkExportBind := by
  refine ⟨?_, fun s c x h hop => ?_⟩
  · intro s c x child h hop hchild n hroom
    refine ⟨sesOf_freeSid hchild, ?_⟩
    have hstays : cancelsPark x c = false := by simp [cancelsPark, hop]
    have hadmit (head : Nat) := admitTurn_fork (sid := cmdSid c) head (h.admits_stays hstays) hop (s := joinQueue s c) hchild hroom
    have hses : (addCharge (dirtyReserve (joinQueue s c) n) { owner := child, tenant := x.d.tenant, tier := 0, pages := n }).ses = s.ses :=
      (addCharge_tierOnly _ _).ses
    have hstk : (addCharge (dirtyReserve (joinQueue s c) n) { owner := child, tenant := x.d.tenant, tier := 0, pages := n }).stk = s.stk :=
      (addCharge_tierOnly _ _).stk
    refine ⟨_, newListAt (joinQueue s c) x.sumPages, congrArg Outcome.next (submit_binds_free h hstays (by simp [hop]) hadmit hses), ?_, hses,
      addCharge_charges _ _⟩
    exact congrArg (fun k : StkState => k.commits ++ [_]) hstk
  · have hstays : cancelsPark x c = false := by simp [cancelsPark, hop]
    have hses := goExport_ses (joinQueue s c) (cmdSid c) x (waitOf s c [])
    have hckp := goExport_ckp (joinQueue s c) (cmdSid c) x (waitOf s c [])
    refine ⟨_, congrArg Outcome.next (submit_binds_free h hstays (by simp [hop])
      (fun head => admitTurn_export head (h.admits_stays hstays) hop) hses), hses, congrArg CkpState.nextJob hckp,
      exportJob (joinQueue s c) (cmdSid c) x (waitOf s c []), ?_, rfl, rfl, rfl, rfl, decide_eq_true_iff, rfl⟩
    rw [hckp]
    exact mapGet_mapSet_same ..

end Sys2Proof.Machine
end

section
/-! PROOFS. IMPORT BEGIN and OPEN that bind (03 R48, R49). -/

open Host
namespace Sys2Proof.Machine

/-! ### What looking up and publishing shared spans does without a commit -/

theorem RegOnly.stk {s t : State} (h : RegOnly s t) : t.stk = s.stk := by rw [h]

theorem pfxMatch_stk (s : State) (k : PfxCtx) (parent : Nat) (chain : List (Nat × List Nat)) : (pfxMatch s k parent chain).2.stk = s.stk := by
  induction chain generalizing parent with
  | nil => rfl
  | cons e rest ih =>
    rw [pfxMatch]
    split
    next => exact (cnt_only _ _ _).stk
    next n x _ =>
      split
      · exact ih n
      · exact (((cnt_only _ _ _).trans (cnt_only _ _ _)).trans (raiseBit_only _ _ _ _ _)).stk

theorem importLookup_stk (s : State) (x : Ses) (toks : List Nat) : (importLookup s x toks).2.2.2.2.stk = s.stk := by
  unfold importLookup
  simp only [apply_ite, pfxMatch_stk, ite_self]

theorem pfxTake_stk (s : State) (ns : List Nat) : (pfxTake s ns).stk = s.stk :=
  List.foldlRecOn (motive := fun t : State => t.stk = s.stk) ns (fun s n => updNode s n _) rfl fun _ ht _ _ => ht

theorem pfxPublish_stk (s : State) (k : PfxCtx) (sid limit parent depth : Nat) (pages : Nat → List Nat) (j : Nat) (chain : List (Nat × List Nat)) :
    (pfxPublish s k sid limit parent depth pages j chain).stk = s.stk := by
  induction chain generalizing s parent depth j with
  | nil => rfl
  | cons e rest ih =>
    rw [pfxPublish]
    split
    · rfl
    · split
      · rfl
      · split
        · exact ((cnt_only _ _ _).trans (raiseBit_only _ _ _ _ _)).stk
        · exact ih _ _ _ _

theorem writePage_stk (s : State) (p off : Nat) (bs : List Byte) : (writePage s p off bs).stk = s.stk := by
  unfold writePage
  split
  · split <;> rfl
  · rfl

/-! ### IMPORT BEGIN -/

/-- Between `s` and `t` only pages that are touched were staged for the finish. -/
def Touches (s t : State) : Prop := ∃ ks, t.stk.commits = s.stk.commits ++ ks ∧ ∀ k ∈ ks, ∃ p, k = .touched p

section
variable {s t u : State}

theorem Touches.of_stk (h : t.stk = s.stk) : Touches s t := ⟨[], by rw [h, List.append_nil], by simp⟩

theorem Touches.trans (h : Touches s t) (k : Touches t u) : Touches s u := by
  obtain ⟨ks, hks, hall⟩ := h
  obtain ⟨ls, hls, hall'⟩ := k
  refine ⟨ks ++ ls, by rw [hls, hks, List.append_assoc], fun q hq => ?_⟩
  rcases List.mem_append.mp hq with hq | hq
  · exact hall q hq
  · exact hall' q hq

theorem touch_touches (s : State) (p : Nat) : Touches s (touch s p) := ⟨[.touched p], rfl, fun _ hk => ⟨p, List.mem_singleton.mp hk⟩⟩

theorem takeOp_touches {b : Prop} [Decidable b] (s : State) (o : OpEnt) : Touches s (if b then s else (takeOp s o).2) := by
  split
  · exact Touches.of_stk rfl
  · exact Touches.of_stk (takeOp_tierOnly s o).stk

theorem Touches.foldl {α : Type} (f : State → α → State) (l : List α) (hf : ∀ s e, Touches s (f s e)) : Touches s (l.foldl f s) :=
  List.foldlRecOn (motive := fun t => Touches s t) l f (Touches.of_stk rfl) fun t ht e _ => ht.trans (hf t e)

end

/-- The window that an IMPORT BEGIN opens covers the positions that its shared spans leave of its tokens (03 R49). -/
def OpensWindow (x : Ses) (w : Wait) (ns : List Nat) (win : ImpWin) : Prop :=
  win.dom = w.cmd.dom ∧ win.first = x.d.positions + ns.length * x.span ∧ win.last = x.d.positions + w.cmd.f4 32 32 - 1 ∧
    win.toks = fieldsAt 4 w.data 0 (w.cmd.f4 32 32)

/-- An IMPORT BEGIN that is admitted copies the kept part of a page at most, and stages its window. -/
theorem goImportBegin_holds {s t : State} {sid : Nat} {x : Ses} {w : Wait} (h : goImportBegin s sid x w = some t) :
    ∃ u ns win, Touches s u ∧ t = holdCommit u sid x.d.epoch w (.importBegin sid ns win w.cmd) ∧ OpensWindow x w ns win := by
  unfold goImportBegin at h
  dsimp only at h
  have hlook := importLookup_stk s x (fieldsAt 4 w.data 0 (w.cmd.f4 32 32))
  generalize importLookup s x (fieldsAt 4 w.data 0 (w.cmd.f4 32 32)) = look at h hlook
  obtain ⟨ctx, depth, chain, ns, v⟩ := look
  dsimp only at h hlook
  split at h
  next => cases h
  next base k hk =>
    have hpages : k.stk = s.stk := by
      obtain ⟨v', hplaced, halloc⟩ := Option.bind_eq_some_iff.mp hk
      have hv' : v'.stk = s.stk := (placeIndex_tierOnly hplaced).stk.trans hlook
      split at halloc
      · cases halloc; exact hv'
      · exact (allocPagesAway_tierOnly halloc).stk.trans hv'
    cases h
    refine ⟨_, ns, _, ?_, rfl, rfl, rfl, rfl, rfl⟩
    refine Touches.trans ?_ (takeOp_touches _ _)
    refine Touches.trans ?_ (Touches.of_stk (pfxPublish_stk _ _ _ _ _ _ _ _ _))
    have htaken : Touches s (pfxTake k ns) := Touches.of_stk ((pfxTake_stk k ns).trans hpages)
    split
    · exact htaken
    · refine htaken.trans (Touches.foldl _ _ fun q l => ?_)
      split
      · split
        · exact (Touches.of_stk (writePage_stk _ _ _ _)).trans (touch_touches _ _)
        · exact Touches.of_stk rfl
      · exact Touches.of_stk rfl

theorem admitTurn_importBegin {s t : State} {sid : Nat} {x : Ses} {w : Wait} (head : Nat) (h : Admits s x w) (hop : w.cmd.opcode = 0x11)
    (hk : w.cmd.f4 0 2 = 0) (ht : goImportBegin s sid x w = some t) : admitTurn s sid x w 0 head = t := by
  obtain ⟨hfits, hdirty⟩ := h
  simp [admitTurn, hfits, hdirty, hop, hk, ht]

/-- An IMPORT BEGIN that binds holds the head with its window's commit. -/
theorem submit_importBegin {s : State} {c : Cmd} {data : List Byte} {x : Ses} (h : Binds s c data x) (hop : c.opcode = 0x11) (hk : c.f4 0 2 = 0)
    (hgo : (goImportBegin (joinQueue s c) (cmdSid c) x (waitOf s c data)).isSome) :
    ∃ u ns win, Touches s u ∧ OpensWindow x (waitOf s c data) ns win ∧
      submit s c data startSes = holdCommit u (cmdSid c) x.d.epoch (waitOf s c data) (.importBegin (cmdSid c) ns win c) := by
  obtain ⟨t, ht⟩ := Option.isSome_iff_exists.mp hgo
  obtain ⟨u, ns, win, htouches, hheld, hwin⟩ := goImportBegin_holds ht
  have hstays : cancelsPark x c = false := by simp [cancelsPark, hop]
  refine ⟨u, ns, win, htouches, hwin, ?_⟩
  rw [submit_binds_stays h hstays (by simp [revivesMoving, hop]), admitTurn_importBegin _ (h.admits_stays hstays) hop hk ht, hheld,
    serveGo_holdCommit]
  rfl

/-! ### OPEN -/

theorem placePages_tierOnly {s t : State} {base n tenant cls : Nat} {committed : Bool} (h : placePages s base n tenant cls committed = some t) :
    TierOnly s t := by
  unfold placePages at h
  split at h
  next => cases h
  next =>
    cases h
    exact TierOnly.foldl _ (fun _ _ => newPage_tierOnly _ _ _ _ _ _) _ _

/-- A session as an OPEN brings it into being (03 R48, Table 03-1). -/
def Opened (s : State) (sid : Nat) (c : Cmd) (x : Ses) : Prop :=
  x.d.epoch = 0 ∧ x.d.session = sid ∧ x.d.gen = nextGen s sid ∧ x.d.tenant = c.f4 0 12 ∧ x.d.owner = c.dom ∧ x.d.model = c.f5 0 32 ∧
    x.d.positions = 0

theorem newSes_opened {s u : State} (sid meter : Nat) (c : Cmd) (h : PlanHdr) (hses : u.ses = s.ses) : Opened s sid c (newSes u sid meter c h) := by
  refine ⟨rfl, rfl, ?_, rfl, rfl, rfl, rfl⟩
  show nextGen u sid = nextGen s sid
  rw [nextGen, nextGen, hses]

/-- An OPEN that is admitted stages the session that its descriptor describes, with a free Session ID. -/
theorem admitOpen_stages {s : State} {c : Cmd} (h : (admitOpen s c).1 = true) : ∃ u sid x,
    freeSid s = some sid ∧ u.stk = s.stk ∧ u.ses = s.ses ∧ Opened s sid c x ∧ admitOpen s c = (true, stage u (.openSes sid x c)) := by
  have ⟨t, ht⟩ : ∃ t, admitOpen s c = (true, t) := ⟨_, Prod.ext h rfl⟩
  have hwaits {u : State} : (false, u) ≠ (true, t) := fun heq => Bool.false_ne_true (congrArg Prod.fst heq)
  rw [ht]
  unfold admitOpen at ht
  split at ht
  next p sid _ hsid =>
    dsimp only at ht
    split at ht
    next => exact absurd ht hwaits
    next =>
      split at ht
      next => exact absurd ht hwaits
      next =>
        split at ht
        next => exact absurd ht hwaits
        next u hu =>
          have hplaced := placePages_tierOnly hu
          exact ⟨u, sid, _, hsid, hplaced.stk, hplaced.ses, newSes_opened _ _ _ _ rfl, ht.symm⟩
  next => exact absurd ht hwaits

/-- An OPEN that comes outside the drive, passes its checks and fits binds at once. -/
theorem arriveOpen_binds {s t : State} {c : Cmd} (hbind : mayBind s = true) (hcode : openCode s c = none) (hadmit : admitOpen s c = (true, t)) :
    arriveOpen s c = t := by
  simp only [arriveOpen, hbind, if_true, bindOpen, hcode, hadmit]

/-- Settles O20: an IMPORT BEGIN and an OPEN. -/
theorem openImportBind : Obligations.OpenImportBind := by
  refine ⟨fun s c data x h hop hk hgo => ?_, fun s c htaken hbind hop hcode hadmit => ?_⟩
  · obtain ⟨u, ns, win, ⟨ks, hks, htouched⟩, ⟨hdom, hfirst, hlast, htoks⟩, hrow⟩ := submit_importBegin h hop hk hgo
    refine ⟨_, ns, win, ks, congrArg Outcome.next hrow, ?_, htouched, hdom, hfirst, hlast, htoks⟩
    exact congrArg (· ++ [_]) hks
  · obtain ⟨u, sid, x, hsid, hstk, hses, ⟨hepoch, hsession, hgen, htenant, howner, hmodel, hpos⟩, hstaged⟩ :=
      admitOpen_stages hadmit
    refine ⟨_, sid, x, next_submit htaken (arriveOpen_binds (s := joinQueue s c) hbind hcode hstaged), hsid, sesOf_freeSid hsid, ?_, hepoch, hsession,
      hgen, htenant, howner, hmodel, hpos, hses⟩
    exact congrArg (fun k : StkState => k.commits ++ [_]) hstk

end Sys2Proof.Machine
end

section
/-! PROOFS. The waits of sessions, courses and restores that have a limit (03 R50; 05 R98; 10 R225; 17 R386; 19 R406). -/

open Host
namespace Sys2Proof.Machine

/-! ### An import window closes (03 R50) -/

theorem RegOnly.sesOf {s t : State} (h : RegOnly s t) (sid : Nat) : sesOf t sid = sesOf s sid := h.tierOnly.sesOf sid

theorem sesEvent_only (s : State) (code : Nat) (d : Desc) : RegOnly s (sesEvent s code d) := sendEvent_only _ _ _ _ _

theorem freeWindowOp_tierOnly (s : State) (sid gen : Nat) : TierOnly s (freeWindowOp s sid gen) := by
  unfold freeWindowOp
  split
  · exact endOp_tierOnly _ _
  · exact TierOnly.refl s

/-- A journal entry of a session marks where it stands, and changes nothing else of it. -/
theorem sesOf_markJournal {s : State} {sid : Nat} {x : Ses} (h : sesOf s sid = some x) :
    sesOf (markJournal s sid) sid = some { x with jmark := (journal s 128).pwr.tailIn } := sesOf_updSes_same (journal s 128) sid _ x h

/-- What stands of a session whose window closes without a commit. -/
theorem sesOf_dropWindow {s : State} {sid : Nat} {x : Ses} {w : ImpWin} (h : sesOf s sid = some x) (hw : x.win = some w) :
    ∃ y, sesOf (dropWindow s sid) sid = some y ∧ y.win = none ∧ y.d.importing = false ∧ y.d.epoch = x.d.epoch := by
  simp only [dropWindow, h, hw]
  exact ⟨_, sesOf_markJournal (((freeWindowOp_tierOnly _ _ _).sesOf sid).trans (sesOf_setSes_same _ _ _)), rfl, rfl, rfl⟩

/-- An abort that no command asked for sends its event. -/
theorem commitAbort_unasked {s : State} {sid : Nat} {y : Ses} (h : sesOf (dropWindow s sid) sid = some y) :
    commitAbort s sid none = sesEvent (dropWindow s sid) EV_SES_IMPORT_ABORT y.d := by
  simp only [commitAbort, h]

/-! ### The Umpire does not count (19 R406) -/

/-- From `s` to `t` the Umpire's tables stand, and no commit was staged that the Umpire would count. -/
def StagesUnmetered (s t : State) : Prop := t.ump = s.ump ∧ ∀ k ∈ t.stk.commits, k ∈ s.stk.commits ∨ meteredSid k = none

section
variable {s t u : State}

theorem StagesUnmetered.of_stk (hump : t.ump = s.ump) (hstk : t.stk = s.stk) : StagesUnmetered s t := ⟨hump, fun _ hk => .inl (hstk ▸ hk)⟩

theorem StagesUnmetered.trans (h : StagesUnmetered s t) (k : StagesUnmetered t u) : StagesUnmetered s u := by
  obtain ⟨hump, hcommits⟩ := h
  obtain ⟨kump, kcommits⟩ := k
  exact ⟨kump.trans hump, fun q hq => (kcommits q hq).elim (hcommits q) .inr⟩

theorem TierOnly.stagesUnmetered (h : TierOnly s t) : StagesUnmetered s t := .of_stk (by rw [h]) h.stk

theorem RegOnly.stagesUnmetered (h : RegOnly s t) : StagesUnmetered s t := h.tierOnly.stagesUnmetered

theorem stageDone_stagesUnmetered (s : State) (d : Done) : StagesUnmetered s (stageDone s d) := by
  refine ⟨stageDone_ump s d, fun k hk => ?_⟩
  unfold stageDone at hk
  split at hk
  next => exact .inl hk
  next =>
    rcases List.mem_append.mp hk with hk | hk
    · exact .inl hk
    · exact .inr (List.mem_singleton.mp hk ▸ rfl)

theorem refuseSes_stagesUnmetered (s : State) (c : Cmd) (code : Nat) : StagesUnmetered s (refuseSes s c code) := by
  have hmarks := (refusalMarks_only s code).stagesUnmetered
  unfold refuseSes
  dsimp only
  split
  · exact hmarks.trans (stageDone_stagesUnmetered _ _)
  · exact hmarks.trans (stageDone_stagesUnmetered _ _)

theorem freePage_tierOnly (s : State) (p : Nat) : TierOnly s (freePage s p) := by
  have hfreed : TierOnly s (freeH1 s p) := by
    unfold freeH1
    split
    · exact TierOnly.refl s
    · split
      · exact setPte_tierOnly _ _ _
      · exact TierOnly.refl s
  unfold freePage
  split
  · exact TierOnly.refl s
  · exact hfreed.trans (setTier_tierOnly _)

theorem freePages_tierOnly (s : State) (ps : List Nat) : TierOnly s (freePages s ps) := TierOnly.foldl _ freePage_tierOnly _ _

theorem freeHead_stagesUnmetered (s : State) (sid : Nat) : StagesUnmetered s (freeHead s sid) := .of_stk rfl rfl

/-- A commit that is given up gives back what it held and is refused; it stages nothing that the Umpire would count. -/
theorem undoMetered_stagesUnmetered (s : State) (k : Commit) : StagesUnmetered s (undoMetered s k) := by
  unfold undoMetered
  split
  · exact (freePages_tierOnly _ _).stagesUnmetered.trans (refuseSes_stagesUnmetered _ _ _)
  · exact (dropCharges_tierOnly _).stagesUnmetered.trans (refuseSes_stagesUnmetered _ _ _)
  · exact (freeHead_stagesUnmetered _ _).trans (refuseSes_stagesUnmetered _ _ _)
  · exact (freeHead_stagesUnmetered _ _).trans (refuseSes_stagesUnmetered _ _ _)
  · split
    · exact (freeHead_stagesUnmetered _ _).trans (refuseSes_stagesUnmetered _ _ _)
    · exact .of_stk rfl rfl
  · exact .of_stk rfl rfl

/-- The state in which a session's metered commits are no longer staged and wait no longer. -/
def meteredGone (s : State) (sid : Nat) : State :=
  { s with
    stk := { s.stk with commits := s.stk.commits.filter (fun k => meteredSid k != some sid) }
    ump := { s.ump with waits := mapErase s.ump.waits sid } }

theorem meteredSid_ne_of_stagesUnmetered {sid : Nat} (h : StagesUnmetered (meteredGone s sid) t) :
    ∀ k ∈ t.stk.commits, meteredSid k ≠ some sid := by
  intro k hk
  rcases h.2 k hk with hstood | hnone
  · simpa using (List.mem_filter.mp hstood).2
  · rw [hnone]
    exact (Option.some_ne_none sid).symm

/-- The row of a metered commit that has waited too long. -/
theorem execUmpDownWaitExpiry_expired {sid : Nat} (hdown : umpUp s = false) (hlong : 64 ≤ (mapGet s.ump.waits sid).getD 0) :
    ∃ t, exec (.umpDownWaitExpiry sid) s = .next t ∧ StagesUnmetered (meteredGone s sid) t := by
  have hdue : ¬ (umpUp s || decide ((mapGet s.ump.waits sid).getD 0 < 64)) = true := by simp [hdown, hlong]
  refine ⟨_, congrArg Outcome.next (if_neg hdue), ?_⟩
  have hundone (ks : List Commit) : StagesUnmetered (meteredGone s sid) (ks.foldl undoMetered (meteredGone s sid)) :=
    List.foldlRecOn (motive := fun t => StagesUnmetered (meteredGone s sid) t) ks undoMetered (.of_stk rfl rfl)
      fun t ht k _ => ht.trans (undoMetered_stagesUnmetered t k)
  show StagesUnmetered _ (if _ then List.foldl undoMetered (meteredGone s sid) _ else raiseBit (List.foldl undoMetered (meteredGone s sid) _) .ump 0 5 _)
  split
  · exact hundone _
  · exact (hundone _).trans (raiseBit_only _ _ _ _ _).stagesUnmetered

end

/-! ### Quota that does not come (05 R98) -/

/-- A head that has waited for quota is refused, and outside the drive its session's order goes on. -/
theorem quotaExpiry_refuses {s : State} {sid : Nat} {x : Ses} {r : Run} {e : Nat} (hx : sesOf s sid = some x) (hr : x.head = some r)
    (hph : r.ph = .quota) (hlong : rdF s R.TIER_CFG_QUOTA_WAIT ≤ r.waited) (hfits : chargeFits s x.d.tenant (r.charge, r.aux) = some e) :
    quotaExpiry s sid = if s.stk.phase = .drive then refuseSes (setSes s sid { x with head := none }) r.cmd e
      else serve (refuseSes (setSes s sid { x with head := none }) r.cmd e) sid := by
  have hphase : (refuseSes (setSes s sid { x with head := none }) r.cmd e).stk.phase = s.stk.phase := (refuseSes_quiet _ _ _).phase
  simp only [quotaExpiry, hx, hr, hph, hfits, hlong, mayBind, hphase]
  by_cases hdrive : s.stk.phase = .drive
  · simp [hdrive]
  · simp [hdrive]

theorem openExpiry_refuses {s : State} {i : Nat} {w : Wait} {p : Plan} {e : Nat} (hw : s.ses.opens[i]? = some w)
    (hp : planOf s (w.cmd.f5 0 32) = some p) (hfits : chargeFitsH s (w.cmd.f4 0 12) (listPages (capOf p.hdr) p.hdr.layers) = some e)
    (hlong : rdF s R.TIER_CFG_QUOTA_WAIT ≤ w.waited) :
    openExpiry s i = refuseSes { s with ses := { s.ses with opens := s.ses.opens.eraseIdx i } } w.cmd e := by
  simp only [openExpiry, hw, hp, hfits, hlong, if_true]

theorem courseExpiry_refuses {s : State} {crew : Nat} {c : Cmd} {n : Nat} {k : Crew}
    (hwait : s.courseWaits.find? (fun e => e.1.f2 0 16 = crew) = some (c, n)) (hlong : rdF s R.TIER_CFG_QUOTA_WAIT ≤ n)
    (hcrew : crewOf s crew = some k) :
    courseExpiry s crew = refuseCourse { s with courseWaits := s.courseWaits.filter (fun e => e.1 != c) } c
      ((chargeFitsH s k.tenant (20 * c.f3 32 9)).getD E_TIER_FULL) 0 := by
  have hcrew' : crewOf { s with courseWaits := s.courseWaits.filter (fun e => e.1 != c) } crew = some k := hcrew
  simp only [courseExpiry, hwait, hlong, if_true, hcrew', Option.elim_some]
  rfl

theorem restExpiry_reports {s : State} {id : Nat} {r : RestoreJob} (hr : restOf (restCharges s id) id = some r) (hstage : r.stage = .pages)
    (hlong : rdF (restCharges s id) R.TIER_CFG_QUOTA_WAIT ≤ r.waited) :
    restExpiry s id = setRest (restCharges s id) id { r with
      sess := r.sess.map (fun x => if !x.charged && x.result.isNone then { x with result := some 5 } else x) } := by
  simp [restExpiry, hr, hstage, hlong]

/-- Settles O22: an import window, a step's pages, the four waits for quota, and the Umpire. -/
theorem waitsExpire : Obligations.WaitsExpire := by
  refine ⟨fun s sid x w hx hfree hw hlong => ?_, fun s sid x r hx hr hpolicy hph hlong => ?_, fun s sid x r e hx hr hph hlong hfits => ?_,
    fun s i w p e hw hp hfits hlong => ?_, fun s crew c n k hwait hlong hcrew => ?_, fun s id r hr hstage hlong => ?_,
    fun s sid => ⟨fun hup => ?_, fun hdown hwf hlong => ?_⟩⟩
  · obtain ⟨y, hy, hwin, himporting, hepoch⟩ := sesOf_dropWindow hx hw
    have habort : applyCommit s (.importAbort sid none) = sesEvent (dropWindow s sid) EV_SES_IMPORT_ABORT y.d := commitAbort_unasked hy
    refine ⟨congrArg Outcome.next ?_, y, ?_, hwin, himporting, hepoch, habort⟩
    · simp only [hx]
      exact if_pos (by simpa [hfree, hw] using hlong)
    · rw [habort, (sesEvent_only _ _ _).sesOf, hy]
  · refine congrArg Outcome.next ?_
    simp only [fetchExpiry, hx, hr]
    exact if_pos ⟨hpolicy, hph, hlong⟩
  · exact congrArg Outcome.next (quotaExpiry_refuses hx hr hph hlong hfits)
  · exact congrArg Outcome.next (openExpiry_refuses hw hp hfits hlong)
  · exact congrArg Outcome.next (courseExpiry_refuses hwait hlong hcrew)
  · exact congrArg Outcome.next (restExpiry_reports hr hstage hlong)
  · exact congrArg Outcome.next (if_pos (by simp [hup]))
  · obtain ⟨t, ht, hunmetered⟩ := execUmpDownWaitExpiry_expired hdown hlong
    refine ⟨t, ht, ?_, meteredSid_ne_of_stagesUnmetered hunmetered⟩
    rw [hunmetered.1]
    exact mapGet_mapErase_same _ _ hwf

end Sys2Proof.Machine
end
